-- ==== Sys2Proof/Word.lean ====
section
/-! DEFINITION. The bit-vector types of the LZB-640: the 64-bit g register word, the byte, the 32-bit parcel
(R54), the 16-byte granule (R217) and the 256-byte vector operand (R31). -/

namespace Sys2Proof

/-- A 64-bit register value (R39). -/
abbrev Word := BitVec 64

/-- One byte. -/
abbrev Byte := BitVec 8

/-- One 32-bit instruction parcel (R54). -/
abbrev Parcel := BitVec 32

/-- An aligned 16-byte granule (R32, R217); bits [7:0] are its lowest byte (R2). -/
abbrev Granule := BitVec 128

/-- A 256-byte vector operand or queue entry: lane j is bits [32j+31:32j] (R31), so element n of width w
is bits [wn+w-1:wn] whatever the packing. -/
abbrev Vec := BitVec 2048

/-- The eight sticky flags of the 64 lanes (R47): lane j is bits [8j+7:8j]. -/
abbrev LaneFlags := BitVec 512

/-- A 64-lane mask: bit j is lane j (R41). -/
abbrev Mask := BitVec 64

end Sys2Proof
end

