-- ==== Sys2Proof/Machine/Bits.lean ====
section
/-! DEFINITION. The helpers of R6 (Bits, Zext, Sext), byte order (R2), and reading and building vector operands
by element number (R31, R135). -/

namespace Sys2Proof.Machine

/-- Bits(x, hi, lo) of R6. -/
def bits (x hi lo : Nat) : Nat := (x >>> lo) % 2 ^ (hi + 1 - lo)

/-- One bit of a natural number, as a Bool. -/
def bitOf (x i : Nat) : Bool := (x >>> i) % 2 == 1

/-- Sext(x, n) of R6: the low n bits of x read as two's complement. -/
def sextN (x n : Nat) : Int :=
  let y := x % 2 ^ n
  if y < 2 ^ (n - 1) then (y : Int) else (y : Int) - (2 ^ n : Nat)

/-- Zext(x, n) of R6 for an integer: its value modulo 2^n. -/
def zextI (x : Int) (n : Nat) : Nat := (x % ((2 ^ n : Nat) : Int)).toNat

/-- S(x) of R83: a 64-bit pattern read as signed. -/
def sgn (x : Word) : Int := sextN x.toNat 64

/-- A 64-bit pattern from an integer (R83: modulo 2^64). -/
def wordOfInt (x : Int) : Word := BitVec.ofNat 64 (zextI x 64)

/-- The field [lo + n - 1 : lo] of a word (R4). -/
def fieldOf (x : Word) (lo n : Nat) : Nat := (x.toNat >>> lo) % 2 ^ n

/-- Writes the field [lo + n - 1 : lo] of a word. -/
def setField (x : Word) (lo n v : Nat) : Word :=
  let m : Word := BitVec.ofNat 64 ((2 ^ n - 1) <<< lo)
  (x &&& ~~~ m) ||| BitVec.ofNat 64 ((v % 2 ^ n) <<< lo)

/-- Clamp x to the range lo to hi. -/
def clampI (x lo hi : Int) : Int := if x < lo then lo else if hi < x then hi else x

/-- x divided by 2^k and rounded toward minus infinity (Align of R6 for k ≥ 0), exact for k < 0. -/
def shiftFloor (x : Int) (k : Int) : Int :=
  if 0 ≤ k then x / ((2 ^ k.toNat : Nat) : Int) else x * ((2 ^ (-k).toNat : Nat) : Int)

/-- Builds a natural number from digits of w bits: digit i is f i, for i from 0 to n - 1. -/
def packN (w : Nat) (f : Nat → Nat) : Nat → Nat
  | 0 => 0
  | n + 1 => packN w f n + (f n % 2 ^ w) <<< (w * n)

/-- Element n of width w of a vector operand (R31, R135). -/
def elem (w : Nat) (v : Vec) (n : Nat) : Nat := (v.toNat >>> (w * n)) % 2 ^ w

/-- The vector operand whose element n of width w is f n, for w dividing 2048. -/
def ofElems (w : Nat) (f : Nat → Nat) : Vec := BitVec.ofNat 2048 (packN w f (2048 / w))

/-- Lane j of a vector operand (R31). -/
def lane (v : Vec) (j : Nat) : BitVec 32 := BitVec.ofNat 32 (v.toNat >>> (32 * j))

/-- The vector operand whose lane j is f j. -/
def ofLanes (f : Nat → BitVec 32) : Vec := ofElems 32 fun j => (f j).toNat

/-- A mask from a predicate on lanes (R41). -/
def ofMask (p : Nat → Bool) : Mask := BitVec.ofNat 64 (packN 1 (fun j => if p j then 1 else 0) 64)

/-- Lane j of a mask. -/
def maskBit (k : Mask) (j : Nat) : Bool := (k.toNat >>> j) % 2 == 1

/-- The 2048-bit pattern that is all ones in the lanes of a mask and zero elsewhere. -/
def spreadMask (k : Mask) : Vec := ofElems 32 fun j => if maskBit k j then 0xFFFFFFFF else 0

/-- The lanes of new where the mask is 1 and the lanes of old elsewhere (R138). -/
def mergeLanes (k : Mask) (new old : Vec) : Vec := (new &&& spreadMask k) ||| (old &&& ~~~ spreadMask k)

/-- Granule t of a vector operand: bytes 16t to 16t + 15. -/
def vecGranule (v : Vec) (t : Nat) : Granule := BitVec.ofNat 128 (v.toNat >>> (128 * t))

/-- The vector operand whose granule t is f t. -/
def ofGranules (f : Nat → Granule) : Vec := BitVec.ofNat 2048 (packN 128 (fun t => (f t).toNat) 16)

/-- The lane flags that a function gives each lane (R47). -/
def ofFlags (f : Nat → BitVec 8) : LaneFlags := BitVec.ofNat 512 (packN 8 (fun j => (f j).toNat) 64)

/-- The flags of lane j. -/
def laneFlags (x : LaneFlags) (j : Nat) : BitVec 8 := BitVec.ofNat 8 (x.toNat >>> (8 * j))

/-- Byte i of a granule. -/
def granuleByte (g : Granule) (i : Nat) : Byte := BitVec.ofNat 8 (g.toNat >>> (8 * i))

/-- The value of n little-endian bytes (R2), byte i being f i. -/
def ofBytes (f : Nat → Byte) (n : Nat) : Nat := packN 8 (fun i => (f i).toNat) n

/-- The n little-endian bytes of a number. -/
def natBytes (v n : Nat) : List Byte := (List.range n).map fun i => BitVec.ofNat 8 (v >>> (8 * i))

/-- The largest p at or below fuel with 2^p ≤ x (floor of log2), 0 for x = 0. -/
def log2Floor (x : Nat) : Nat := Nat.log2 x

/-- The number of ones among the low n bits of x. -/
def popCount (x : Nat) : Nat → Nat
  | 0 => 0
  | n + 1 => popCount x n + (x >>> n) % 2

/-- The indices below n that satisfy p, ascending. -/
def indicesOf (p : Nat → Bool) (n : Nat) : List Nat := (List.range n).filter p

end Sys2Proof.Machine
end

