-- ==== Sys2Proof/Machine/Flags.lean ====
section
/-! DEFINITION. The eight sticky flags (R47, R113) as a byte, and the flags of an operation's result. -/

namespace Sys2Proof.Machine

/-- A lane's flags: bit 0 NV, 1 DZ, 2 OF, 3 UF, 4 NX, 5 SAT, 6 ILT, 7 MZ (R47). -/
abbrev Flags := BitVec 8

def flagNV : Flags := 0x01
def flagDZ : Flags := 0x02
def flagOF : Flags := 0x04
def flagUF : Flags := 0x08
def flagNX : Flags := 0x10
def flagSAT : Flags := 0x20
def flagILT : Flags := 0x40
def flagMZ : Flags := 0x80

/-- A flag when a condition holds. -/
def flagIf (p : Bool) (f : Flags) : Flags := if p then f else 0

/-- The OR of the flags of n elements. -/
def orFlagsN (f : Nat → Flags) (n : Nat) : Flags := (List.range n).foldl (fun a i => a ||| f i) 0

/-- FLAGSUM (R48): the OR of each flag across the 64 lanes. -/
def flagSum (x : LaneFlags) : Flags := orFlagsN (laneFlags x) 64

end Sys2Proof.Machine
end

