-- ==== Sys2Proof/Syntax.lean ====
section
/-! DEFINITION. The instructions of the LZB-640 as syntax: operand forms, formats and qualifiers (R60 to R66), and ONE
inductive Instr with a constructor for each row of the opcode table. A row that has an encoding carries its
operand fields; a row that is a step of another agent (an engine, a home, the distributor, system software, the environment)
carries the agent and what the outside contributes to the step. -/

namespace Sys2Proof

/-- The number of a g register (R39). -/
abbrev Reg := BitVec 5

/-- The three sequencers of a core (R12). -/
inductive Seq where
  | L | X | S
deriving DecidableEq, Repr

/-- A 10-bit operand code of R61, decoded. -/
inductive Opnd where
  /-- direct index 0 to 959 -/
  | dir (i : BitVec 10)
  /-- index taken from a g register -/
  | ind (g : Reg)
  /-- operand queue q0 to q7 -/
  | q (n : BitVec 3)
  /-- result queue w0 to w3 -/
  | w (n : BitVec 2)
  /-- the per-lane sticky flags (R48) -/
  | flags
deriving DecidableEq, Repr

/-- The seven formats of domain F (R62). -/
inductive FFmt where
  | f32 | bf16 | f16 | fp8e4 | fp8e5 | fp4 | mk8
deriving DecidableEq, Repr

/-- The eight formats of domain I (R62). -/
inductive IFmt where
  | i32 | i16 | i8 | i4 | n32 | n16 | n8 | n4
deriving DecidableEq, Repr

/-- A format of domain D (R62). -/
inductive DFmt where
  | fp (f : FFmt)
  | int (f : IFmt)
deriving DecidableEq, Repr

/-- Rounding modes (R111). -/
inductive Round where
  | rne | rz | rup | rdn | rna
deriving DecidableEq, Repr

/-- Predicates (R64). -/
inductive Pred where
  | eq | ne | lt | le | gt | ge | un
deriving DecidableEq, Repr

/-- The selector mode and index (R63). -/
inductive Sel where
  | none
  | a (s : BitVec 3)
  | b (s : BitVec 3)
  | ab (s : BitVec 3)
deriving DecidableEq, Repr

/-- The fields every X instruction of R60 has: issue spacing, .nf and the governing mask. -/
structure XQ where
  stall : BitVec 3
  nf : Bool
  k : BitVec 3
deriving DecidableEq, Repr

/-- Codebook index width (R160). -/
inductive CbBits where
  | three | four
deriving DecidableEq, Repr

/-- The operations of KOP (R171). -/
inductive KOpKind where
  | and | or | xor | andn | orn | xnor
deriving DecidableEq, Repr

/-- Full-empty qualifier (R65). -/
inductive Fe where
  | none | fe | fec
deriving DecidableEq, Repr

/-- Scopes (R64). -/
inductive Scope where
  | core | clus | die | pkg | dom
deriving DecidableEq, Repr

/-- Fence kinds and atomic kinds (R64, R250). -/
inductive AKind where
  | none | acq | rel | full
deriving DecidableEq, Repr

/-- Scalar widths of LDS and STS (R257). -/
inductive SFmt where
  | w64 | i32 | i16 | i8 | n32 | n16 | n8
deriving DecidableEq, Repr

/-- Widths of the integer atomics (R257). -/
inductive AFmt where
  | w64 | i32 | n32
deriving DecidableEq, Repr

/-- Formats of ATFADD (R257). -/
inductive AFFmt where
  | f32 | bf16 | f16
deriving DecidableEq, Repr

/-- The address fields of R65. slot is some when hs = 1. -/
structure Addr where
  gb : Reg
  gx : Reg
  off : BitVec 18
  slot : Option (BitVec 4)
deriving DecidableEq, Repr

/-- An address whose index register is not part of the address: base, offset and slot (R250). -/
structure Base where
  gb : Reg
  off : BitVec 18
  slot : Option (BitVec 4)
deriving DecidableEq, Repr

/-- Formats that RSLV resolves to (R197). -/
inductive RFmt where
  | f32 | bf16 | f16 | fp8e4 | fp8e5
deriving DecidableEq, Repr

/-- The host-visible windows of registers (R369). -/
inductive Window where
  /-- the device window of a partition -/
  | device (part : Nat)
  /-- the management window -/
  | management
deriving DecidableEq, Repr

/-- A firmware image in flash, as boot verifies it (R397): the SHA-512 digest of the image, its public key, signature and version. -/
structure Image where
  digest : BitVec 512
  key : BitVec 256
  signature : BitVec 512
  version : Nat
deriving DecidableEq, Repr

/-- Units that the halt line stops (R405, R409). -/
inductive HaltUnit where
  | seq (core : Nat) (s : Seq)
  | matrix (core : Nat)
  | resolver (core : Nat)
  | copy (cluster : Nat)
  | lamp (die : Nat)
  | walker (die : Nat)
  | gatherer (die : Nat)
  | bmv (die : Nat)
deriving DecidableEq, Repr

/-- What the fabric delivers to a member of a shared stream (R357): sequence number, the slot offset or address, data. -/
structure McBlock where
  /-- member number, 0 being this package's own copy when it is the source -/
  member : Nat
  /-- sequence number of the group entry -/
  sequ : Nat
  /-- hop of the entry -/
  hop : Nat
  /-- stripe offset (hop 2) or destination virtual address (hops 0 and 1) -/
  dst : Nat
  /-- the granules with their validity -/
  data : List (BitVec 128 × Bool)
deriving DecidableEq, Repr

/-- What the switches tell this package of a stream's source or of its members in other packages (R355 to R358): they join and leave, the source issues
sequence 0, a member acknowledges, its copy of an entry has landed or been dropped. Members go by a number of their own. -/
inductive StreamNews where
  | source (window : Nat)
  | gone
  | begun
  | join (member : Nat)
  | leave (member : Nat)
  | ack (member a : Nat)
  | done (member sequ : Nat)
deriving DecidableEq, Repr

/-- What a record of the switches concerns: the MCJ on which S of a core blocks, or another package's part of a stream. -/
inductive JoinSite where
  | mcj (core : Nat)
  | far (streamId : BitVec 32) (news : StreamNews)
deriving DecidableEq, Repr

/-- A contribution or block on the fabric (R345): its tag and its 64 integers. -/
structure WireBlock where
  collid : BitVec 32
  blk : Nat
  count : Nat
  valid : Bool
  payload : List Int
deriving DecidableEq, Repr

/-- Where a PUT block of another package goes (R344): its group and the virtual address in the peer's partition. -/
structure PutDst where
  group : Nat
  dst : Nat
deriving DecidableEq, Repr

/-- What an error strikes (R219, R224). -/
inductive ErrorSite where
  /-- a 64-byte ECC word of DRAM at a physical address -/
  | dram (word : Nat)
  /-- a granule of a cluster's pool -/
  | sram (cluster granule : Nat)
deriving DecidableEq, Repr

/-- One constructor for each row of the opcode table. -/
inductive Instr where
  /-- NOP (R84): Does nothing; its only encoding is 0x0200_0000. -/
  | nop
  /-- ADD (R84): Writes the 64-bit modular sum of g[a] and g[b] to g[d]. -/
  | add (d a b : Reg)
  /-- SUB (R84): Writes the 64-bit modular difference g[a] minus g[b] to g[d]. -/
  | sub (d a b : Reg)
  /-- MUL (R84): Writes the low 64 bits of the product of g[a] and g[b] to g[d]. -/
  | mul (d a b : Reg)
  /-- MULH (R84): Writes the high 64 bits of the signed 128-bit product to g[d]. -/
  | mulh (d a b : Reg)
  /-- DIV (R85): Writes the signed quotient rounded toward zero to g[d], with fixed results for a zero divisor and for overflow. -/
  | div (d a b : Reg)
  /-- REM (R85): Writes the signed remainder, which takes the sign of the dividend, to g[d], with fixed results for the borderline cases. -/
  | rem (d a b : Reg)
  /-- AND (R84): Writes the bitwise AND of g[a] and g[b] to g[d]. -/
  | andr (d a b : Reg)
  /-- OR (R84): Writes the bitwise OR of g[a] and g[b] to g[d]. -/
  | orr (d a b : Reg)
  /-- XOR (R84): Writes the bitwise XOR of g[a] and g[b] to g[d]. -/
  | xorr (d a b : Reg)
  /-- SHL (R84): Shifts g[a] left by bits [5:0] of g[b]. -/
  | shl (d a b : Reg)
  /-- SHR (R84): Shifts g[a] right logically by bits [5:0] of g[b]. -/
  | shr (d a b : Reg)
  /-- SRA (R84): Shifts g[a] right arithmetically by bits [5:0] of g[b]. -/
  | sra (d a b : Reg)
  /-- MIN (R84): Writes the signed minimum of g[a] and g[b] to g[d]. -/
  | minr (d a b : Reg)
  /-- MAX (R84): Writes the signed maximum of g[a] and g[b] to g[d]. -/
  | maxr (d a b : Reg)
  /-- SEQ (R84): Writes 1 to g[d] if g[a] equals g[b], otherwise 0. -/
  | seq (d a b : Reg)
  /-- SLT (R84): Writes 1 to g[d] if g[a] is less than g[b] read as signed, otherwise 0. -/
  | slt (d a b : Reg)
  /-- SLTU (R84): Writes 1 to g[d] if g[a] is less than g[b] read as unsigned, otherwise 0. -/
  | sltu (d a b : Reg)
  /-- CSEL (R84): Writes g[b] to g[d] if g[a] is nonzero, otherwise keeps the old g[d]. -/
  | csel (d a b : Reg)
  /-- ADDX (R86): Writes g[a] plus g[b] scaled by 2^s to g[d]. -/
  | addx (d a b : Reg) (s : BitVec 3)
  /-- ADDI (R87): Adds a signed 15-bit immediate to g[a]. -/
  | addi (d a : Reg) (imm : BitVec 15)
  /-- ANDI (R87): Writes the bitwise AND of g[a] and an unsigned 15-bit immediate to g[d]. -/
  | andi (d a : Reg) (imm : BitVec 15)
  /-- ORI (R87): Writes the bitwise OR of g[a] and an unsigned 15-bit immediate to g[d]. -/
  | ori (d a : Reg) (imm : BitVec 15)
  /-- XORI (R87): Writes the bitwise XOR of g[a] and an unsigned 15-bit immediate to g[d]. -/
  | xori (d a : Reg) (imm : BitVec 15)
  /-- SHLI (R87): Shifts g[a] left by an immediate from 0 to 63. -/
  | shli (d a : Reg) (sh : BitVec 6)
  /-- SHRI (R87): Shifts g[a] right logically by an immediate from 0 to 63. -/
  | shri (d a : Reg) (sh : BitVec 6)
  /-- SRAI (R87): Shifts g[a] right arithmetically by an immediate from 0 to 63. -/
  | srai (d a : Reg) (sh : BitVec 6)
  /-- SLTI (R87): Writes 1 to g[d] if g[a] is less than a signed immediate, otherwise 0. -/
  | slti (d a : Reg) (imm : BitVec 15)
  /-- LUI (R88): Loads a sign-extended 20-bit immediate shifted left by 15 into g[d]. -/
  | lui (d : Reg) (imm : BitVec 20)
  /-- BEQ (R89): Branches by a signed parcel offset when g[a] equals g[b]. -/
  | beq (a b : Reg) (off : BitVec 15)
  /-- BNE (R89): Branches when g[a] differs from g[b]. -/
  | bne (a b : Reg) (off : BitVec 15)
  /-- BLT (R89): Branches when g[a] is less than g[b] read as signed. -/
  | blt (a b : Reg) (off : BitVec 15)
  /-- BGE (R89): Branches when g[a] is greater than or equal to g[b] read as signed. -/
  | bge (a b : Reg) (off : BitVec 15)
  /-- BLTU (R89): Branches when g[a] is less than g[b] read as unsigned. -/
  | bltu (a b : Reg) (off : BitVec 15)
  /-- BGEU (R89): Branches when g[a] is greater than or equal to g[b] read as unsigned. -/
  | bgeu (a b : Reg) (off : BitVec 15)
  /-- JMP (R90): Jumps by a signed 25-bit parcel offset. -/
  | jmp (off : BitVec 25)
  /-- JAL (R90): Writes the return address to g31 and jumps by a signed 25-bit parcel offset. -/
  | jal (off : BitVec 25)
  /-- JR (R91): Jumps to the address in g[a], faulting if the target breaks R56. -/
  | jr (a : Reg)
  /-- LOOP (R95): Starts a hardware loop on lc[n] with its count taken from a g register, or skips the body when the count is 0. -/
  | loop (lc : BitVec 2) (a : Reg) (body : BitVec 10)
  /-- LOOPI (R95): Starts a hardware loop on lc[n] with an immediate count, or skips the body when the count is 0. -/
  | loopi (lc : BitVec 2) (cnt : BitVec 13) (body : BitVec 10)
  /-- LBRK (R98): Leaves the named active loop and every loop started inside it. -/
  | lbrk (lc : BitVec 2)
  /-- MFS (R102): Reads a system register into g[d] as a snapshot taken at issue. -/
  | mfs (d : Reg) (sr : BitVec 12)
  /-- MTS (R103): Writes the RW and W1C fields of a system register from g[a], with view and bank-power side effects. -/
  | mts (a : Reg) (sr : BitVec 12)
  /-- BANK_WAKE (R36): A bank added to the footprint becomes on after 40 cycles from retention, or after 168 cycles with a scrub from the gated state. -/
  | bankWake (core : Nat)
  /-- WAITC (R106): Delays the next instruction of the sequencer by n + 1 cycles. -/
  | waitc (imm : BitVec 20)
  /-- TRAP (R414): Enters the sequencer's trap handler with cause 0x01, saving EPC, ECAUSE and EADDR. -/
  | trap (imm : BitVec 20)
  /-- RTE (R415): Returns from a trap, clearing the loop records of the level being left. -/
  | rte
  /-- BRK (R414): Traps with cause 0x02, or debug-halts when a debugger is attached. -/
  | brk (imm : BitVec 20)
  /-- IDLE (R416): At trap level 0, ends the sequencer's part of the cell; at a higher level, raises the illegal-instruction fault. -/
  | idle
  /-- TLBI (R385): Invalidates the partition's translations for a page or for the whole ASID and waits for the unmap to complete. -/
  | tlbi (a b : Reg)
  /-- TLBS (R386): Probes a translation without faulting and writes its outcome and attributes to g[d]. -/
  | tlbs (d a : Reg)
  /-- CSWAP (R421): Parks the context until a wake time, acts as YLD, or waits in place. -/
  | cswap (a : Reg)
  /-- SCALAR_DIVIDE_COMPLETE (R82): A DIV or REM completes after 34 cycles and its result reaches g[d]. -/
  | scalarDivideComplete (core : Nat) (s : Seq)
  /-- VADD (R141): Adds integer elements, wrapping or saturating. -/
  | vadd (f : IFmt) (sat : Bool) (sel : Sel) (d a b : Opnd) (q : XQ)
  /-- VSUB (R141): Subtracts integer elements, wrapping or saturating. -/
  | vsub (f : IFmt) (sat : Bool) (sel : Sel) (d a b : Opnd) (q : XQ)
  /-- VMUL (R141): Multiplies integer elements, wrapping or saturating. -/
  | vmul (f : IFmt) (sat : Bool) (sel : Sel) (d a b : Opnd) (q : XQ)
  /-- VMULH (R141): Gives the high half of each integer element product. -/
  | vmulh (f : IFmt) (sel : Sel) (d a b : Opnd) (q : XQ)
  /-- VMAD (R141): Integer multiply-add A × B + C per element. -/
  | vmad (f : IFmt) (sat : Bool) (d a b c : Opnd) (q : XQ)
  /-- VABS (R141): Gives the integer absolute value of each element. -/
  | vabs (f : IFmt) (sat : Bool) (sel : Sel) (d a : Opnd) (q : XQ)
  /-- VNEG (R141): Gives the integer negation of each element. -/
  | vneg (f : IFmt) (sat : Bool) (sel : Sel) (d a : Opnd) (q : XQ)
  /-- VMIN (R141): Gives the integer elementwise minimum. -/
  | vmin (f : IFmt) (sel : Sel) (d a b : Opnd) (q : XQ)
  /-- VMAX (R141): Gives the integer elementwise maximum. -/
  | vmax (f : IFmt) (sel : Sel) (d a b : Opnd) (q : XQ)
  /-- VAND (R143): Bitwise AND of whole lanes. -/
  | vand (d a b : Opnd) (q : XQ)
  /-- VOR (R143): Bitwise OR of whole lanes. -/
  | vor (d a b : Opnd) (q : XQ)
  /-- VXOR (R143): Bitwise XOR of whole lanes. -/
  | vxor (d a b : Opnd) (q : XQ)
  /-- VANDN (R143): Bitwise AND of a with NOT b, on whole lanes. -/
  | vandn (d a b : Opnd) (q : XQ)
  /-- VSHL (R142): Shifts each element left by a per-element amount. -/
  | vshl (f : IFmt) (sel : Sel) (d a b : Opnd) (q : XQ)
  /-- VSHR (R142): Shifts each element right logically. -/
  | vshr (f : IFmt) (sel : Sel) (d a b : Opnd) (q : XQ)
  /-- VSRA (R142): Shifts each element right arithmetically. -/
  | vsra (f : IFmt) (sel : Sel) (d a b : Opnd) (q : XQ)
  /-- VCMP (R144): Compares integer lanes under a predicate into a mask register. -/
  | vcmp (f : IFmt) (p : Pred) (sel : Sel) (kd : BitVec 3) (a b : Opnd) (q : XQ)
  /-- VSEL (R145): Merges two vectors lane by lane under a mask, writing all 64 lanes. -/
  | vsel (d a b : Opnd) (q : XQ)
  /-- VSAT (R146): Clamps each 32-bit lane to the range of a format. -/
  | vsat (f : IFmt) (d a : Opnd) (q : XQ)
  /-- VTACC (R148): Adds or subtracts INT32 activations by ternary digits into an accumulator vector. -/
  | vtacc (sat : Bool) (sel : Sel) (d a b : Opnd) (q : XQ)
  /-- TUNP (R147): Decodes one ternary byte per lane into five signed 4-bit trits. -/
  | tunp (sel : Sel) (d a : Opnd) (q : XQ)
  /-- VFADD (R149): Floating-point add, rounded once with .rne. -/
  | vfadd (f : FFmt) (sel : Sel) (d a b : Opnd) (q : XQ)
  /-- VFSUB (R149): Floating-point subtract. -/
  | vfsub (f : FFmt) (sel : Sel) (d a b : Opnd) (q : XQ)
  /-- VFMUL (R149): Floating-point multiply. -/
  | vfmul (f : FFmt) (sel : Sel) (d a b : Opnd) (q : XQ)
  /-- VFMA (R149): Fused multiply-add A × B + C with a single rounding. -/
  | vfma (f : FFmt) (d a b c : Opnd) (q : XQ)
  /-- VFNMA (R149): Fused C − A × B with a single rounding. -/
  | vfnma (f : FFmt) (d a b c : Opnd) (q : XQ)
  /-- VFMIN (R151): Floating-point minimum with defined zero and NaN handling. -/
  | vfmin (f : FFmt) (sel : Sel) (d a b : Opnd) (q : XQ)
  /-- VFMAX (R151): Floating-point maximum with defined zero and NaN handling. -/
  | vfmax (f : FFmt) (sel : Sel) (d a b : Opnd) (q : XQ)
  /-- VFCMP (R152): Compares floating-point lanes under a predicate into a mask register. -/
  | vfcmp (f : FFmt) (p : Pred) (sel : Sel) (kd : BitVec 3) (a b : Opnd) (q : XQ)
  /-- VFCLS (R153): Writes the class number of each element. -/
  | vfcls (f : FFmt) (sel : Sel) (d a : Opnd) (q : XQ)
  /-- VFDIV (R150): Floating-point divide, rounded once. -/
  | vfdiv (f : FFmt) (sel : Sel) (d a b : Opnd) (q : XQ)
  /-- VRCP (R150): Floating-point reciprocal. -/
  | vrcp (f : FFmt) (sel : Sel) (d a : Opnd) (q : XQ)
  /-- VRSQ (R150): Floating-point reciprocal square root. -/
  | vrsq (f : FFmt) (sel : Sel) (d a : Opnd) (q : XQ)
  /-- VEXP2 (R150): Floating-point power of two. -/
  | vexp2 (f : FFmt) (sel : Sel) (d a : Opnd) (q : XQ)
  /-- VLOG2 (R150): Floating-point base-2 logarithm. -/
  | vlog2 (f : FFmt) (sel : Sel) (d a : Opnd) (q : XQ)
  /-- VCVT_FLOAT_TO_FLOAT (R154): Converts float or MK8 elements to another float format (major 0x40). -/
  | vcvtFloatToFloat (df sf : FFmt) (r : Round) (sat : Bool) (sel : Sel) (d a : Opnd) (q : XQ)
  /-- VCVT_FLOAT_TO_INTEGER (R154): Converts float elements to integers with clamping (major 0x41). -/
  | vcvtFloatToInteger (df : IFmt) (sf : FFmt) (r : Round) (sel : Sel) (d a : Opnd) (q : XQ)
  /-- VCVT_INTEGER_TO_FLOAT (R154): Converts integer elements to floats (major 0x42). -/
  | vcvtIntegerToFloat (df : FFmt) (sf : IFmt) (r : Round) (sat : Bool) (sel : Sel) (d a : Opnd) (q : XQ)
  /-- VCVT_INTEGER_TO_INTEGER (R154): Converts integer elements between widths, wrapping or clamping (major 0x43). -/
  | vcvtIntegerToInteger (df sf : IFmt) (sat : Bool) (sel : Sel) (d a : Opnd) (q : XQ)
  /-- VPACK (R156): Narrows two vectors into one in element-number order. -/
  | vpack (f : DFmt) (r : Round) (d a b : Opnd) (q : XQ)
  /-- VUNPK (R157): Widens the lower half of a vector exactly. -/
  | vunpk (f : DFmt) (d a : Opnd) (q : XQ)
  /-- CBX (R160): Expands 3-bit or 4-bit codebook indices into BF16 table entries. -/
  | cbx (w : CbBits) (t : BitVec 3) (d a : Opnd) (q : XQ)
  /-- CBLD (R159): Loads a 32-byte codebook table from lanes 0 to 7 of a source. -/
  | cbld (t : BitVec 3) (a : Opnd) (q : XQ)
  /-- VMOV (R161): Copies lanes, including to and from the sticky flags. -/
  | vmov (d a : Opnd) (q : XQ)
  /-- VBCST (R162): Broadcasts the low 32 bits of a g register to every active lane. -/
  | vbcst (d : Opnd) (a : Reg) (q : XQ)
  /-- VIDX (R162): Writes each active lane's own number into that lane. -/
  | vidx (d : Opnd) (q : XQ)
  /-- VPERM (R162): Permutes lanes by per-lane indices. -/
  | vperm (d a b : Opnd) (q : XQ)
  /-- VROT (R163): Rotates lanes by a g-register amount. -/
  | vrot (d a : Opnd) (b : Reg) (q : XQ)
  /-- VGTH (R164): Gathers lanes through per-lane vector indices within the register store. -/
  | vgth (d a b : Opnd) (q : XQ)
  /-- VSCT (R165): Scatters lanes through per-lane vector indices within the register store. -/
  | vsct (d a b : Opnd) (q : XQ)
  /-- VXTR (R166): Extracts one element into a g register. -/
  | vxtr (f : IFmt) (d : Reg) (a : Opnd) (b : Reg) (q : XQ)
  /-- VINS (R166): Inserts a g register value into one element. -/
  | vins (f : IFmt) (d : Opnd) (a b : Reg) (q : XQ)
  /-- VRSUM (R167): Sums every participating element by a fixed tree and broadcasts the result. -/
  | vrsum (f : DFmt) (d a : Opnd) (q : XQ)
  /-- VRMAX (R168): Takes the largest participating element and broadcasts it. -/
  | vrmax (f : DFmt) (d a : Opnd) (q : XQ)
  /-- VRMIN (R168): Takes the smallest participating element and broadcasts it. -/
  | vrmin (f : DFmt) (d a : Opnd) (q : XQ)
  /-- VMCNT (R169): Counts the lanes set in two masks into a g register. -/
  | vmcnt (d : Reg) (ka : BitVec 3) (q : XQ)
  /-- VMSCL (R170): Rescales lanes by N / COUNT with a single rounding. -/
  | vmscl (f : FFmt) (sel : Sel) (d a b : Opnd) (q : XQ)
  /-- KOP (R171): Combines two mask registers by a logical operation. -/
  | kop (op : KOpKind) (kd ka kb : BitVec 3) (q : XQ)
  /-- KSET (R172): Loads a mask register from a g register. -/
  | kset (kd : BitVec 3) (a : Reg) (q : XQ)
  /-- X_RESULT_LAND (R68): An X engine instruction's register-store, mask and flag results land within its latency bound. -/
  | xResultLand (core : Nat)
  /-- SMS (R324): Marks the cell as having passed successor-may-start. -/
  | sms (q : XQ)
  /-- WPW (R325): Blocks X until the stream's predecessor kernel is complete, then acquires at .pkg. -/
  | wpw (q : XQ)
  /-- GBAR (R326): Enters the gang barrier of the next generation. -/
  | gbar (q : XQ)
  /-- GANG_BARRIER_COMPLETE (R326): The barrier completes in every waiting member 8 cycles after the last arrival. -/
  | gangBarrierComplete (core : Nat)
  /-- SIG (R327): Waits until earlier S accesses are visible at .pkg, then adds to a completion counter. -/
  | sig (a : Reg) (q : XQ)
  /-- TAIL (R318): Ends X's part early, moving outstanding items into the retirement tracker. -/
  | tail (q : XQ)
  /-- YLD (R329): Offers the core to waiting work of greater priority, pre-empting the context by a shadow swap. -/
  | yld (q : XQ)
  /-- QTST (R330): Writes a queue's status register to g[d] without popping. -/
  | qtst (d : Reg) (a : BitVec 3) (q : XQ)
  /-- QFWD (R331): Moves the head entry of an operand queue unchanged to a result queue. -/
  | qfwd (d : BitVec 2) (a : BitVec 3) (q : XQ)
  /-- MCFG (R198): Writes one word of the shadow nest table. -/
  | mcfg (word : BitVec 5) (a : Reg) (q : XQ)
  /-- MCFGL (R198): Writes all 32 words of the shadow nest table from a vector or queue. -/
  | mcfgl (a : Opnd) (q : XQ)
  /-- MGO (R199): Latches the nest table and views, checks them, and hands a nest job to the matrix engine. -/
  | mgo (q : XQ)
  /-- MWAIT (R200): Waits for X's earlier matrix and resolver jobs and writes the nest status to g[d]. -/
  | mwait (d : Reg) (q : XQ)
  /-- ACLR (R201): Clears an accumulator tile, sets its anchor and makes it EMPTY. -/
  | aclr (d : Opnd) (a : Reg) (h : BitVec 6) (q : XQ)
  /-- AANC (R202): Sets or changes a tile's anchor for an expected magnitude. -/
  | aanc (d : Opnd) (a : Reg) (h : BitVec 6) (q : XQ)
  /-- RSLV_CANONICAL (R203): Checks a tile and canonicalises it in place. -/
  | rslvCanonical (d : Opnd) (h : BitVec 6) (q : XQ)
  /-- RSLV_TO_FORMAT (R203): Checks a tile and writes its rounded elements in a float format. -/
  | rslvToFormat (f : RFmt) (r : Round) (sat : Bool) (d a : Opnd) (h : BitVec 6) (q : XQ)
  /-- RSLV_WIRE_FORM (R203): Checks a tile and writes leaf integers for a fabric reduction. -/
  | rslvWireForm (d a : Opnd) (b : Reg) (h : BitVec 6) (q : XQ)
  /-- ASCL (R204): Scales a source tile by row and column codes and adds it into a destination tile. -/
  | ascl (d a b : Opnd) (h : BitVec 6) (q : XQ)
  /-- ACMP (R205): Compares one column of two tiles row by row into a mask, exactly or by representation. -/
  | acmp (p : Pred) (raw : Bool) (kd : BitVec 3) (a b : Opnd) (col : BitVec 8) (q : XQ)
  /-- AMOV (R206): Checks a tile and copies its whole extent to another tile. -/
  | amov (d a : Opnd) (h : BitVec 6) (q : XQ)
  /-- ACHK (R207): Runs the checksum check pass alone on a tile. -/
  | achk (a : Opnd) (h : BitVec 6) (q : XQ)
  /-- NEST_JOB_START (R193): A nest job starts once no earlier conflicting job is incomplete, checking the integer anchor. -/
  | nestJobStart (core : Nat)
  /-- SHARD_LATCH_READY (R183): The expander completes loading a shard into a weight latch, so a waiting beat may enter. -/
  | shardLatchReady (core : Nat)
  /-- BEAT_LAND (R187): A beat's carry-save update lands 12 cycles after entry. -/
  | beatLand (core : Nat)
  /-- NEST_JOB_COMPLETE (R192): A nest job finishes its last beat, clears remaining .fec bits and frees its place. -/
  | nestJobComplete (core : Nat)
  /-- RESOLVER_JOB_START (R193): A resolver job starts once no earlier conflicting job is incomplete. -/
  | resolverJobStart (core : Nat)
  /-- RESOLVER_JOB_COMPLETE (R195): A resolver job finishes its check and transform passes, or faults a tile. -/
  | resolverJobComplete (core : Nat)
  /-- LDV (R259): Loads 256 bytes into a register-store operand. -/
  | ldv (d : Opnd) (e : Addr) (x : Fe)
  /-- LDQ (R259): Loads 256 bytes into an operand-queue entry with a validity mask. -/
  | ldq (d : BitVec 3) (e : Addr) (x : Fe)
  /-- LDS (R260): Loads one scalar into a g register. -/
  | lds (f : SFmt) (d : Reg) (e : Addr) (x : Fe)
  /-- GTHQ (R261): Gathers 64 words by an index vector into a queue entry. -/
  | gthq (d : BitVec 3) (gx : Reg) (e : Base)
  /-- PRF (R262): Prefetches 256 bytes without visible effect. -/
  | prf (e : Addr)
  /-- QPSH (R263): Pushes an entry holding two g registers. -/
  | qpsh (d : BitVec 3) (gb gx : Reg)
  /-- QEOS (R263): Pushes an end-of-stream entry. -/
  | qeos (d : BitVec 3)
  /-- STRM (R264): Streams a counted series of entries into a queue, updating base and count. -/
  | strm (d : BitVec 3) (e : Addr) (x : Fe)
  /-- LOAD_DATA_ARRIVE (R255): An L load's data returns and its register-store write lands, or its queue entry is pushed in order. -/
  | loadDataArrive (core : Nat)
  /-- TOKW (R273): Blocks L until the token word reaches g[d]. -/
  | tokw (d : Reg)
  /-- HGET (R274): Takes a buffer from the gang's SRAM reservation into a handle slot. -/
  | hget (d gb : Reg) (slot : BitVec 4)
  /-- HPASS (R275): Passes a handle to a slot of a gang member's core. -/
  | hpass (d gb gx : Reg) (slot : BitVec 4)
  /-- HREL (R276): Waits for accesses through a slot, then returns its buffer to the pool. -/
  | hrel (slot : BitVec 4)
  /-- ITIN (R279): Gives an itinerary to the die's Lamplighter context and returns a ticket. -/
  | itin (d : Reg) (e : Addr)
  /-- JCPY (R280): Checks a job card and issues it to the copy engine, returning a ticket. -/
  | jcpy (d : Reg) (e : Addr)
  /-- JWAIT (R278): Waits for a ticketed job to complete and writes its status. -/
  | jwait (d : Reg)
  /-- RCON (R286): Consumes a ring slot in sequence order into an operand queue. -/
  | rcon (d : BitVec 3) (gb gx : Reg) (off : BitVec 18) (slot : BitVec 4)
  /-- RQGT (R366): Takes the next closed gatherer batch into a handle slot and pushes its description. -/
  | rqgt (d : BitVec 3) (slot : BitVec 4)
  /-- MCA (R365): Acknowledges consumed shards of a shared stream and returns the member's status. -/
  | mca (d gb gx : Reg)
  /-- STV (R265): Stores 256 bytes of a register-store operand. -/
  | stv (d : Opnd) (e : Addr) (x : Fe)
  /-- STQ (R266): Pops a result-queue entry and stores it, carrying invalid lanes as losses. -/
  | stq (d : BitVec 2) (e : Addr) (x : Fe)
  /-- STS (R267): Stores one scalar from a g register. -/
  | sts (f : SFmt) (d : Reg) (e : Addr) (x : Fe)
  /-- STA (R269): Stores an accumulator tile image, canonical or raw, after a check. -/
  | sta (raw : Bool) (d : Opnd) (gx : Reg) (e : Base)
  /-- SCT (R268): Pops an entry and scatters its valid lanes by an index vector. -/
  | sct (d : BitVec 2) (gx : Reg) (e : Base)
  /-- ATADD (R270): Atomic integer add at the location's home. -/
  | atadd (f : AFmt) (k : AKind) (sc : Scope) (d gx : Reg) (e : Base)
  /-- ATFADD (R270): Atomic floating-point add, rounded once. -/
  | atfadd (f : AFFmt) (k : AKind) (sc : Scope) (d gx : Reg) (e : Base)
  /-- ATMIN (R270): Atomic minimum. -/
  | atmin (f : AFmt) (k : AKind) (sc : Scope) (d gx : Reg) (e : Base)
  /-- ATMAX (R270): Atomic maximum. -/
  | atmax (f : AFmt) (k : AKind) (sc : Scope) (d gx : Reg) (e : Base)
  /-- ATXCH (R270): Atomic exchange. -/
  | atxch (f : AFmt) (k : AKind) (sc : Scope) (d gx : Reg) (e : Base)
  /-- ATCAS (R270): Atomic compare-and-swap. -/
  | atcas (f : AFmt) (k : AKind) (sc : Scope) (d gx : Reg) (e : Base)
  /-- FENCE (R271): Orders S accesses at a scope as a release, acquire or full fence. -/
  | fence (k : AKind) (sc : Scope)
  /-- BFEN (R289): Orders bank compute against the core's S accesses. -/
  | bfen (sc : Scope)
  /-- TOKS (R273): Once earlier S writes are visible, increments the token word. -/
  | toks (sc : Scope) (d : Reg)
  /-- RRSV (R284): Reserves a ring sequence atomically at the holder's slice. -/
  | rrsv (d gb : Reg) (off : BitVec 18) (slot : BitVec 4)
  /-- RPUB (R285): Publishes a result-queue entry into a reserved ring slot and sets its full bits. -/
  | rpub (d : BitVec 2) (gb gx : Reg) (off : BitVec 18) (slot : BitVec 4)
  /-- BMV (R287): Checks a descriptor and starts a fen-unit matrix-vector job. -/
  | bmv (d : Reg) (e : Addr)
  /-- COLL (R363): Checks a collective record and queues a collective walker job. -/
  | coll (d : Reg) (e : Addr)
  /-- MCJ (R364): Joins or leaves a shared multicast stream. -/
  | mcj (d : Reg) (e : Addr)
  /-- WRITE_PERFORM_HOME (R293): A write or atomic is performed at its home and takes its place in coherence order. -/
  | writePerformHome (core n : Nat)
  /-- REMOTE_UPDATE_INSTALL (R294): A die applies a remote write to its view once its causal dependencies are installed. -/
  | remoteUpdateInstall (die n : Nat)
  /-- FULL_EMPTY_GRANT (R230): A waiter's granules become full and the wait is served, clearing F for .fec. -/
  | fullEmptyGrant (core : Nat)
  /-- ITINERARY_START (R231): The Lamplighter context starts the next itinerary once the previous one is done. -/
  | itineraryStart (die part : Nat)
  /-- ITINERARY_ENTRY_ISSUE (R235): A move entry issues when its order, window, overlap and group conditions hold. -/
  | itineraryEntryIssue (die part : Nat)
  /-- ITINERARY_GRANULE_LAND (R236): A moved granule lands, setting F and Q for hop 2. -/
  | itineraryGranuleLand (die part entry granule : Nat)
  /-- ITINERARY_ENTRY_COMPLETE (R239): An entry's last granule lands, so the capture unit and LATENOW are updated. -/
  | itineraryEntryComplete (die part entry : Nat)
  /-- ENTRY_LATE (R237): MPROG passes an incomplete entry's due mark, so the lateness counters rise. -/
  | entryLate (die part entry : Nat)
  /-- ITINERARY_END (R279): The end entry is reached with every entry complete, or the stopped itinerary finishes. -/
  | itineraryEnd (die part : Nat)
  /-- MULTICAST_DELIVERY (R357): A group entry's copy lands at a member or is dropped and counted. -/
  | multicastDelivery (die part group : Nat) (m : McBlock)
  /-- COPY_CARD_START (R282): The task scheduler starts a card once no earlier overlapping card is incomplete. -/
  | copyCardStart (die part : Nat)
  /-- COPY_CARD_COMPLETE (R280): A copy or fill card finishes all its rows. -/
  | copyCardComplete (cluster : Nat)
  /-- BMV_JOB_COMPLETE (R288): A fen-unit job writes its last y element and its status record. -/
  | bmvJobComplete (core : Nat)
  /-- COLLECTIVE_ADMISSION (R352): The top switch admits a pending collective and reserves all its contexts at once. -/
  | collectiveAdmission (group : Nat) (collid : BitVec 32)
  /-- BLOCK_EMIT (R353): The collective walker reads and pushes one block of its head job. -/
  | blockEmit (die part : Nat)
  /-- SWITCH_CONTRIBUTION (R346): A contribution reaches a switch context and is combined, closing the block when all expected arrive. -/
  | switchContribution (switch child : Nat) (b : WireBlock)
  /-- SWITCH_BLOCK_TIMEOUT (R349): A mire block's timer expires and the context forwards what it holds. -/
  | switchBlockTimeout (switch : Nat) (collid : BitVec 32) (blk : Nat)
  /-- END_MARKER (R349): A member's end marker reaches the top switch. -/
  | endMarker (collid : BitVec 32) (member : Nat)
  /-- TOP_SWITCH_TIMER_START (R349): After 2 × TIMEOUT the top switch starts every block timer not yet started. -/
  | topSwitchTimerStart (collid : BitVec 32)
  /-- RESULT_BLOCK_DELIVERY (R346): The fabric receive unit writes a result block and its count word at a member; put is the group and the destination
  address of a PUT block of another package. -/
  | resultBlockDelivery (part : Nat) (lost : Bool) (put : Option PutDst) (b : WireBlock)
  /-- COLLECTIVE_COMPLETE (R347): A collective job completes, writing its status record and incrementing its counter. -/
  | collectiveComplete (die part : Nat)
  /-- FLIT_LOSS (R338): A flit is lost or corrupted on a link: retransmitted, delivered as lost, or faulting after retries. -/
  | flitLoss (core : Nat) (mire : Bool) (retriesExhausted : Bool)
  /-- REMOTE_ACCESS (R337): An access from another package reaches the export window and is checked against the export map and consent. -/
  | remoteAccess (exportOff : Nat) (write : Bool) (data : List Byte)
  /-- GATHERER_TAKE_SLOT (R360): The gatherer copies the next ingress request into the open batch. -/
  | gathererTakeSlot (die part : Nat)
  /-- BATCH_CLOSE_DEADLINE (R361): The open batch closes when its deadline expires. -/
  | batchCloseDeadline (die part : Nat)
  /-- LAUNCH_RECORD_TAKE (R307): A stream takes its next launch record, or enters error state on a bad one. -/
  | launchRecordTake (part stream : Nat)
  /-- STREAM_WAIT_SATISFIED (R307): A wait record ends once its counter reaches VALUE. -/
  | streamWaitSatisfied (part stream : Nat)
  /-- SIGNAL_RECORD (R307): A signal record adds VALUE to its counter after earlier records end. -/
  | signalRecord (part stream : Nat)
  /-- KERNEL_RESIDENT (R311): A kernel record is read and checked, and its iteration space is divided among dies. -/
  | kernelResident (part stream : Nat)
  /-- EARLY_RESIDENT (R321): An EARLY kernel becomes resident once every cell of its predecessor has passed SMS. -/
  | earlyResident (part stream : Nat)
  /-- PLACEMENT_ASK (R312): A free placement asks its distributor for work, taking or splitting a range. -/
  | placementAsk (core : Nat)
  /-- CELL_START (R42): A walker hands a group's cell to a core and initialises its state. -/
  | cellStart (core : Nat)
  /-- CELL_END (R317): A cell ends when its parts have ended and its accesses are visible, discarding queues and releasing handles. -/
  | cellEnd (core : Nat)
  /-- RETIREMENT_ENTRY_RETIRE (R319): A retirement-tracker item becomes visible at .core and its entry retires. -/
  | retirementEntryRetire (core n : Nat)
  /-- KERNEL_COMPLETE (R320): A kernel's cells and jobs are all done, so its record ends and its counter is incremented. -/
  | kernelComplete (part serial : Nat)
  /-- PRIORITY_AGING (R316): At each AGEQ interval without a start, a stream's effective priority rises. -/
  | priorityAging (part stream : Nat)
  /-- SENSOR_REFRESH (R315): Each core's TEMP and DROOP scores refresh every 1,024 cycles. -/
  | sensorRefresh (core : Nat) (temp droop : BitVec 4)
  /-- POWER_LIMIT_REACHED (R28): Measured power reaches the limit, so matrix and then vector issue are throttled. -/
  | powerLimitReached (idle : Nat)
  /-- BUCKET_REFILL (R376): At each 1,024-cycle boundary, tokens are added to every bucket and waiting requests are served. -/
  | bucketRefill
  /-- WATCHDOG_EXPIRE (R404): A context's watchdog count reaches its limit and raises the watchdog fault. -/
  | watchdogExpire (core : Nat)
  /-- HALT_LINE_ARRIVE (R405): The halt line reaches a unit, and its sequencers stop issuing at their stop points. -/
  | haltLineArrive (part : Nat) (u : HaltUnit)
  /-- ENGINE_STOP_POINT (R407): An engine reaches its resumable stop point and writes its stop record. -/
  | engineStopPoint (part : Nat) (u : HaltUnit)
  /-- HALT_COMPLETE (R411): All records are complete, so HALTST.HALTED becomes 1 and PIRQ.FAULT is set. -/
  | haltComplete (part : Nat)
  /-- SHADOW_FLIP (R418): The active and shadow contexts are exchanged in 48 cycles. -/
  | shadowFlip (core : Nat)
  /-- CONTEXT_SPILL_COMPLETE (R419): The spill engine finishes writing a parked context to its pool slot. -/
  | contextSpillComplete (core : Nat)
  /-- CONTEXT_WAKE (R419): CYCLE reaches a parked context's wake time and it becomes ready. -/
  | contextWake (core n : Nat)
  /-- CONTEXT_RESUME (R419): A ready parked context is filled into the shadow, flipped in and its slot freed. -/
  | contextResume (core n : Nat)
  /-- CXCTL_PARK (R419): A write of CXCTL.PARK parks the core's active context with wake time 0. -/
  | cxctlPark (core : Nat)
  /-- HALTCTL_RESUME (R412): Resumes every halted context at its stop points if the cause is resumable. -/
  | haltctlResume (part : Nat)
  /-- HALTCTL_ABANDON (R412): Discards the faulting kernel's contexts and jobs and resumes the others. -/
  | haltctlAbandon (part : Nat)
  /-- HALTCTL_PARK_ALL (R412): Parks every halted core context. -/
  | haltctlParkAll (part : Nat)
  /-- PRQ_POP (R403): A read of PRQHEAD pops the oldest page request and latches its page in PRQVA. -/
  | prqPop
  /-- PRQ_ACK (R403): A write of PRQACK frees a tag and retries the walks, or turns the stall into a translation fault. -/
  | prqAck (tag : BitVec 8) (fail : Bool)
  /-- DEBUG_HALT (R423): DBGCTL.HALT debug-halts the attached partition. -/
  | debugHalt
  /-- DEBUG_RESUME (R423): DBGCTL.RESUME drains the holding buffers in order and resumes the contexts. -/
  | debugResume
  /-- DEBUG_STEP (R424): DBGCTL.STEP makes the named sequencer issue exactly one instruction. -/
  | debugStep
  /-- DEBUG_ENGINE_STEP (R424): DBGCTL.ESTEP advances the named engine by one unit. -/
  | debugEngineStep
  /-- DEBUG_ATTACH (R422): A write of DBGCTL.ATTACH attaches or detaches a debugger, so BRK halts. -/
  | debugAttach (attach : Bool)
  /-- DBGDATA_WRITE (R422): Writes 8 bytes of the selected debug space, ignored unless the partition is halted. -/
  | dbgdataWrite (data : Word)
  /-- PDBG_WRITE (R422): The partition sets DBGOK; clearing it detaches the debugger and resumes the partition. -/
  | pdbgWrite (part : Nat) (ok : Bool)
  /-- PARTITION_RESET (R378): PRST.GO starts a partition reset that halts, ends jobs and scrubs the partition's state. -/
  | partitionReset (part : Nat)
  /-- PRSTCTL_GO (R378): System software starts a partition reset through the configuration block. -/
  | prstctlGo (part : Nat)
  /-- FUNCTION_LEVEL_RESET (R378): A host function-level reset of the partition's function starts a partition reset. -/
  | functionLevelReset (part : Nat)
  /-- RESET_ACCESS_DRAIN (R378): Once the partition's issued accesses are performed or dropped, TLBs are invalidated and state is scrubbed. -/
  | resetAccessDrain (part : Nat)
  /-- PCFG_WRITE (R368): A write of PCFG is accepted or refused by the isolation checks. -/
  | pcfgWrite (part : Nat) (v : Word)
  /-- PARTITION_ENABLE (R368): Setting EN generates the integrity key and starts queues, buckets and windows at reset values. -/
  | partitionEnable (part : Nat)
  /-- PARTITION_DESTROY (R380): Clearing EN resets the partition, erases its keys and frees its ASID and clusters. -/
  | partitionDestroy (part : Nat)
  /-- CLUSTER_SCRUB_COMPLETE (R380): The scrub of a reassigned cluster's register stores and SRAM finishes. -/
  | clusterScrubComplete (cluster : Nat)
  /-- EXPORT_GRANT (R374): EXPGRANT with GRANT = 1 grants consent to an export unit. -/
  | exportGrant (part unit : Nat)
  /-- EXPORT_WITHDRAW (R374): EXPGRANT with GRANT = 0 withdraws consent from an export unit. -/
  | exportWithdraw (part unit : Nat)
  /-- MGMT_MEMORY_ACCESS (R394): The management memory port reads or writes one line if consent and budget allow. -/
  | mgmtMemoryAccess (part va : Nat) (write : Bool) (data : BitVec 512)
  /-- INVALIDATE_PAGE (R384): INVCTL GO with KIND 0 invalidates every page size covering a page of an ASID. -/
  | invalidatePage (asid page : Nat)
  /-- INVALIDATE_ASID (R384): INVCTL GO with KIND 1 invalidates a whole ASID. -/
  | invalidateAsid (asid : Nat)
  /-- INVALIDATE_ALL (R384): INVCTL GO with KIND 2 invalidates every ASID. -/
  | invalidateAll
  /-- INVALIDATE_EXPORT_UNIT (R384): INVCTL GO with KIND 3 invalidates an export unit of the package. -/
  | invalidateExportUnit (unit : Nat)
  /-- INVALIDATION_DONE (R383): An unmap completes once no cache holds the entry and every access using it is done. -/
  | invalidationDone
  /-- KEY_LOAD (R387): KSCTL.GO unwraps a key record and loads it into a key slot. -/
  | keyLoad
  /-- KEY_CLEAR (R387): KSCTL.CLEAR empties a key slot. -/
  | keyClear
  /-- CXL_REKEY (R391): A counter overflow raises a frame's epoch and re-encrypts it, or exhausts the epoch. -/
  | cxlRekey (frame : Nat)
  /-- MIGRATE_SWAP (R247): MIGCTL.GO with MODE 0 swaps two pages' frames under holds. -/
  | migrateSwap (die : Nat)
  /-- MIGRATE_OPTIMISTIC (R248): MIGCTL.GO with MODE 1 copies a page and commits it if no write intervened. -/
  | migrateOptimistic (die : Nat)
  /-- MIGRATION_END (R246): A migration request ends with its result, and MIRQ.MIGDONE is set. -/
  | migrationEnd (die : Nat)
  /-- LLCLR_HOP (R240): Clears a hop's LATE counter and capture unit. -/
  | llclrHop (die part hop : Nat)
  /-- LLCLR_PACE (R240): Clears PACEST.CYC. -/
  | llclrPace (die part : Nat)
  /-- STREAM_TAIL_WRITE (R305): System software advances SQTAIL, making launch records pending. -/
  | streamTailWrite (part stream : Nat) (v : Word)
  /-- STREAM_CLEAR_ERROR (R305): SQCTL.CLRERR leaves the error state, skipping a failed record where applicable. -/
  | streamClearError (part stream : Nat)
  /-- GATHERER_CONFIG_WRITE (R359): Enabling the gatherer or writing RGCFG checks the batch layout. -/
  | gathererConfigWrite (die part : Nat) (offset : Nat) (v : Word)
  /-- REGISTER_WRITE (R4): A write of a register without behaviour of its own updates its RW and W1C fields. -/
  | registerWrite (w : Window) (offset : Nat) (v : Word)
  /-- DIE_FENCE (R425): A failing die is fenced: its units stop without records and its homed locations are lost. -/
  | dieFence (die : Nat)
  /-- HEARTBEAT_TIMEOUT (R425): A die's heartbeat is missing for 16,384 cycles, which fences it. -/
  | heartbeatTimeout (die : Nat)
  /-- MASTER_ELECTION (R426): The survivors elect the lowest healthy die as master and reissue lost ranges. -/
  | masterElection
  /-- PERST_DEASSERT (R396): Package reset ends, so boot verifies firmware, trains links and brings up PF0. -/
  | perstDeassert (images : List Image)
  /-- STAGE1_READY (R396): Stage 1 of the firmware finishes and MIRQ.READY is set. -/
  | stage1Ready
  /-- ATTESTATION_REQUEST (R398): An SPDM request is answered with a signed report and a new transport-key share. -/
  | attestationRequest (part : Nat) (nonce peer : BitVec 256)
  /-- SIDEBAND_RESET_REQUEST (R399): A package reset request arrives over the management sideband. -/
  | sidebandResetRequest
  /-- HOST_WINDOW_ACCESS (R395): The host reaches a partition's memory through the BAR 2 window, virtually or physically. -/
  | hostWindowAccess (part : Nat) (physical : Bool) (addr : Nat) (write : Bool) (data : List Byte)
  /-- JOIN_RECORDED (R364): The switches record a join or leave of a shared stream, and the blocked MCJ writes its status and lets S go on; or what they
  record concerns another package's part of a stream. -/
  | joinRecorded (core : JoinSite)
  /-- SOFT_ERROR (R219): An error strikes a stored DRAM ECC word or SRAM granule, leaving it correctable (and counted) or uncorrectable. -/
  | softError (site : ErrorSite) (correctable : Bool)
  /-- SUBARRAY_REFRESH (R244): The controller refreshes one DRAM subarray, and reads sharing its sense amplifiers wait up to one refresh time. -/
  | subarrayRefresh (die subarray : Nat)
deriving DecidableEq, Repr

end Sys2Proof
end

