-- ==== Sys2Proof/Config.lean ====
section
/-! DEFINITION. What the LZB-640 fixes outside its programs, and the free values: constants without a body
that stand for what the manual leaves undefined (R7). Nothing can be proved about a free value, so a claim
that holds, holds whatever it is. -/

namespace Sys2Proof.Config

/-- FREE VALUE (log entry 6). The n-th undefined 64-bit pattern that the machine takes (R7). -/
opaque freeWord : Nat → BitVec 64

/-- FREE VALUE (log entry 6). The n-th undefined granule (R7, R32, R42, R228). -/
opaque freeGranule : Nat → BitVec 128

/-- FREE VALUE (log entry 6). The n-th undefined 256-byte pattern (R7, R69). -/
opaque freeVec : Nat → BitVec 2048

/-- FREE VALUE (log entry 6). The n-th choice that the manual leaves to the part. -/
opaque freeBool : Nat → Bool

/-- FREE VALUE (log entry 6). A choice that the manual leaves to the part, at a site of a step: sites of one step choose apart from each other. -/
opaque freePick : (time site : Nat) → Bool

/-- FREE VALUE (log entry 19). What a granule of another package holds after others have written it n times. -/
opaque farGranule : (granule n : Nat) → BitVec 128

/-- The fused package power ceiling PWRCEIL in W (R27, R371, R393): a fuse, so any value. -/
opaque pwrCeil : Nat

/-- The n-th output of the part's random generator (R387): integrity keys, key shares. -/
opaque drawKey : Nat → BitVec 256

/-- The device key that the part derives from its fused secret and MEAS0 (R398): the manual does not say how (log entry 8). -/
opaque deviceKey : (meas0 : BitVec 512) → BitVec 256

/-- The bytes of an attestation report with these contents (R398): the manual lists what it holds and gives no layout (log entry 8). -/
opaque reportBytes : (contents : List Nat) → List Byte

/-- The fused hash of the key that signs firmware, and the fused rollback counter (R397): fuses, so any values. -/
opaque fusedKeyHash : BitVec 512
opaque rollbackCounter : Nat

/-- The fused versions that an attestation report shows (R398): fuses, so any value. -/
opaque fusedVersions : Nat

/-- The ports that the firmware's allow-list names (R396): the firmware's, so any list. -/
opaque allowedPorts : List Nat

/-- The routes that the firmware's allow-list names, each a port and the package that it leads to (R393): the firmware's, so any list. -/
opaque allowedRoutes : List (Nat × Nat)

/-- FREE VALUE (log entry 86). How PF0 reports a failed boot at an offset of its window (R397). -/
opaque failureReport : (offset : Nat) → BitVec 64

/-- Dies of the package (R10). -/
def dies : Nat := 4
/-- Clusters of a die (R10). -/
def clustersPerDie : Nat := 9
/-- Cores of a cluster (R10). -/
def coresPerCluster : Nat := 16
/-- Cores of a die (R10). -/
def coresPerDie : Nat := 144
/-- Cores of the package (R10). -/
def cores : Nat := 576
/-- Stripes of a cluster's SRAM pool (R225). -/
def stripesPerPool : Nat := 65536
/-- Accesses that L, and S, keep in flight (R258). -/
def accessesInFlight : Nat := 32
/-- Slots of a queue (R44). -/
def queueSlots : Nat := 16
/-- Reduction contexts of a switch (R341). -/
def reductionContexts : Nat := 1024
/-- Entries of a core's retirement tracker (R319). -/
def trackerEntries : Nat := 16
/-- Outstanding tickets of a core (R277). -/
def tickets : Nat := 16

end Sys2Proof.Config
end

