-- ==== Sys2Proof/WellFormed.lean ====
section
/-! DEFINITION. Which instruction terms have an encoding (R58, R61 to R66, R74): the conditions that the operand types do not
already say. A step of another agent has no encoding; its term is well-formed
when the units that it names are there. -/

namespace Sys2Proof

/-- A register-store operand: direct 0 to 959 or g-indirect (R61). -/
def Opnd.isRs : Opnd → Bool
  | .dir i => decide (i.toNat < 960)
  | .ind _ => true
  | _ => false

/-- A source operand: register store or operand queue (R61). -/
def Opnd.isSrc : Opnd → Bool
  | .q _ => true
  | o => o.isRs

/-- A destination operand: register store or result queue (R61). -/
def Opnd.isDst : Opnd → Bool
  | .w _ => true
  | o => o.isRs

/-- A source of VMOV: a source operand or the sticky flags (R61, R161). -/
def Opnd.isMovSrc : Opnd → Bool
  | .flags => true
  | o => o.isSrc

/-- A destination of VMOV (R61, R161). -/
def Opnd.isMovDst : Opnd → Bool
  | .flags => true
  | o => o.isDst

/-- Element width of an integer format (R62). -/
def IFmt.width : IFmt → Nat
  | .i32 | .n32 => 32
  | .i16 | .n16 => 16
  | .i8 | .n8 => 8
  | .i4 | .n4 => 4

/-- Whether an integer format is signed (R115). -/
def IFmt.signed : IFmt → Bool
  | .i32 | .i16 | .i8 | .i4 => true
  | _ => false

/-- Element width of a format of domain F (R62). -/
def FFmt.width : FFmt → Nat
  | .f32 => 32
  | .bf16 | .f16 => 16
  | .fp8e4 | .fp8e5 | .mk8 => 8
  | .fp4 => 4

/-- Element width of a format of domain D (R62). -/
def DFmt.width : DFmt → Nat
  | .fp f => f.width
  | .int f => f.width

/-- Elements per lane of a width (R31). -/
def perLane (width : Nat) : Nat := 32 / width

/-- The formats of the floating-point arithmetic instructions (R149). -/
def FFmt.isArith : FFmt → Bool
  | .f32 | .bf16 | .f16 => true
  | _ => false

/-- A selector that an instruction with an a and a b operand accepts, for P elements per lane (R63). -/
def Sel.okBin (P : Nat) : Sel → Bool
  | .none => true
  | .a s | .b s | .ab s => decide (s.toNat < P)

/-- A selector that an instruction accepting only sel 0 and 1 takes (R63, R136). -/
def Sel.okUn (P : Nat) : Sel → Bool
  | .none => true
  | .a s => decide (s.toNat < P)
  | _ => false

/-- fe is nonzero only with hs = 1 (R250). -/
def Fe.okWith (x : Fe) (slot : Option (BitVec 4)) : Bool := x = .none || slot.isSome

/-- gb and gx do not name the same register other than g0 (R250). -/
def regsDiffer (gb gx : Reg) : Bool := gb ≠ gx || gb = 0

/-- The units that the package has (R10, R368, R305): cores, dies, clusters, partitions, and a partition's streams. -/
def isCore (n : Nat) : Bool := n < Config.cores
def isDie (n : Nat) : Bool := n < Config.dies
def isCluster (n : Nat) : Bool := n < Config.dies * 9
def isPart (n : Nat) : Bool := n < 8
def isStream (n : Nat) : Bool := n < 64

/-- A unit of the halt line that the package has. -/
def HaltUnit.exists : HaltUnit → Bool
  | .seq c _ | .matrix c | .resolver c => isCore c
  | .copy n => isCluster n
  | .lamp d | .walker d | .gatherer d | .bmv d => isDie d

/-- A register window that the package has. -/
def Window.exists : Window → Bool
  | .device p => isPart p
  | .management => true

/-- A place of the package that an error can strike. -/
def ErrorSite.exists : ErrorSite → Bool
  | .dram _ => true
  | .sram c g => isCluster c && g < 524288

/-- The instruction has an encoding (R74). -/
def Instr.wf : Instr → Bool
  | .nop => true
  | .add _ _ _ => true
  | .sub _ _ _ => true
  | .mul _ _ _ => true
  | .mulh _ _ _ => true
  | .div _ _ _ => true
  | .rem _ _ _ => true
  | .andr _ _ _ => true
  | .orr _ _ _ => true
  | .xorr _ _ _ => true
  | .shl _ _ _ => true
  | .shr _ _ _ => true
  | .sra _ _ _ => true
  | .minr _ _ _ => true
  | .maxr _ _ _ => true
  | .seq _ _ _ => true
  | .slt _ _ _ => true
  | .sltu _ _ _ => true
  | .csel _ _ _ => true
  | .addx _ _ _ _ => true
  | .addi _ _ _ => true
  | .andi _ _ _ => true
  | .ori _ _ _ => true
  | .xori _ _ _ => true
  | .shli _ _ _ => true
  | .shri _ _ _ => true
  | .srai _ _ _ => true
  | .slti _ _ _ => true
  | .lui _ _ => true
  | .beq _ _ _ => true
  | .bne _ _ _ => true
  | .blt _ _ _ => true
  | .bge _ _ _ => true
  | .bltu _ _ _ => true
  | .bgeu _ _ _ => true
  | .jmp _ => true
  | .jal _ => true
  | .jr _ => true
  | .loop _ _ body => body ≠ 0
  | .loopi _ _ body => body ≠ 0
  | .lbrk _ => true
  | .mfs _ _ => true
  | .mts _ _ => true
  | .bankWake core => isCore core
  | .waitc _ => true
  | .trap _ => true
  | .rte => true
  | .brk _ => true
  | .idle => true
  | .tlbi _ _ => true
  | .tlbs _ _ => true
  | .cswap _ => true
  | .scalarDivideComplete core _ => isCore core
  | .vadd f _ sel d a b _ => sel.okBin (perLane f.width) && d.isDst && a.isSrc && b.isSrc
  | .vsub f _ sel d a b _ => sel.okBin (perLane f.width) && d.isDst && a.isSrc && b.isSrc
  | .vmul f _ sel d a b _ => sel.okBin (perLane f.width) && d.isDst && a.isSrc && b.isSrc
  | .vmulh f sel d a b _ => sel.okBin (perLane f.width) && d.isDst && a.isSrc && b.isSrc
  | .vmad _ _ d a b c _ => d.isDst && a.isSrc && b.isSrc && c.isSrc
  | .vabs f _ sel d a _ => sel.okUn (perLane f.width) && d.isDst && a.isSrc
  | .vneg f _ sel d a _ => sel.okUn (perLane f.width) && d.isDst && a.isSrc
  | .vmin f sel d a b _ => sel.okBin (perLane f.width) && d.isDst && a.isSrc && b.isSrc
  | .vmax f sel d a b _ => sel.okBin (perLane f.width) && d.isDst && a.isSrc && b.isSrc
  | .vand d a b _ => d.isDst && a.isSrc && b.isSrc
  | .vor d a b _ => d.isDst && a.isSrc && b.isSrc
  | .vxor d a b _ => d.isDst && a.isSrc && b.isSrc
  | .vandn d a b _ => d.isDst && a.isSrc && b.isSrc
  | .vshl f sel d a b _ => sel.okBin (perLane f.width) && d.isDst && a.isSrc && b.isSrc
  | .vshr f sel d a b _ => sel.okBin (perLane f.width) && d.isDst && a.isSrc && b.isSrc
  | .vsra f sel d a b _ => sel.okBin (perLane f.width) && d.isDst && a.isSrc && b.isSrc
  | .vcmp f p sel _ a b _ => p ≠ .un && sel.okBin (perLane f.width) && a.isSrc && b.isSrc
  | .vsel d a b _ => d.isDst && a.isSrc && b.isSrc
  | .vsat _ d a _ => d.isDst && a.isSrc
  | .vtacc _ sel d a b _ => sel.okUn 8 && d.isRs && a.isSrc && b.isSrc
  | .tunp sel d a _ => sel.okUn 4 && d.isDst && a.isSrc
  | .vfadd f sel d a b _ => f.isArith && sel.okBin (perLane f.width) && d.isDst && a.isSrc && b.isSrc
  | .vfsub f sel d a b _ => f.isArith && sel.okBin (perLane f.width) && d.isDst && a.isSrc && b.isSrc
  | .vfmul f sel d a b _ => f.isArith && sel.okBin (perLane f.width) && d.isDst && a.isSrc && b.isSrc
  | .vfma f d a b c _ => f.isArith && d.isDst && a.isSrc && b.isSrc && c.isSrc
  | .vfnma f d a b c _ => f.isArith && d.isDst && a.isSrc && b.isSrc && c.isSrc
  | .vfmin f sel d a b _ => f.isArith && sel.okBin (perLane f.width) && d.isDst && a.isSrc && b.isSrc
  | .vfmax f sel d a b _ => f.isArith && sel.okBin (perLane f.width) && d.isDst && a.isSrc && b.isSrc
  | .vfcmp f _ sel _ a b _ => f.isArith && sel.okBin (perLane f.width) && a.isSrc && b.isSrc
  | .vfcls f sel d a _ => sel.okUn (perLane f.width) && d.isDst && a.isSrc
  | .vfdiv f sel d a b _ => f.isArith && sel.okBin (perLane f.width) && d.isDst && a.isSrc && b.isSrc
  | .vrcp f sel d a _ => f.isArith && sel.okUn (perLane f.width) && d.isDst && a.isSrc
  | .vrsq f sel d a _ => f.isArith && sel.okUn (perLane f.width) && d.isDst && a.isSrc
  | .vexp2 f sel d a _ => f.isArith && sel.okUn (perLane f.width) && d.isDst && a.isSrc
  | .vlog2 f sel d a _ => f.isArith && sel.okUn (perLane f.width) && d.isDst && a.isSrc
  | .vcvtFloatToFloat _ sf _ _ sel d a _ => sel.okUn (perLane sf.width) && d.isDst && a.isSrc
  | .vcvtFloatToInteger _ sf _ sel d a _ => sel.okUn (perLane sf.width) && d.isDst && a.isSrc
  | .vcvtIntegerToFloat _ sf _ _ sel d a _ => sel.okUn (perLane sf.width) && d.isDst && a.isSrc
  | .vcvtIntegerToInteger _ sf _ sel d a _ => sel.okUn (perLane sf.width) && d.isDst && a.isSrc
  | .vpack f r d a b _ => f.width < 32 && (match f with | .int _ => r = .rne | .fp _ => true) && d.isDst && a.isSrc && b.isSrc
  | .vunpk f d a _ => f.width < 32 && d.isDst && a.isSrc
  | .cbx _ _ d a _ => d.isDst && a.isSrc
  | .cbld _ a q => a.isSrc && q.k = 0
  | .vmov d a _ => d.isMovDst && a.isMovSrc
  | .vbcst d _ _ => d.isDst
  | .vidx d _ => d.isDst
  | .vperm d a b _ => d.isDst && a.isSrc && b.isSrc
  | .vrot d a _ _ => d.isDst && a.isSrc
  | .vgth d a b _ => d.isDst && a.isRs && b.isSrc
  | .vsct d a b _ => d.isRs && a.isSrc && b.isSrc
  | .vxtr _ _ a _ q => a.isSrc && q.k = 0
  | .vins _ d _ _ _ => d.isRs
  | .vrsum f d a _ => (match f with | .fp g => g.isArith | .int _ => true) && d.isDst && a.isSrc
  | .vrmax f d a _ => (match f with | .fp g => g.isArith | .int _ => true) && d.isDst && a.isSrc
  | .vrmin f d a _ => (match f with | .fp g => g.isArith | .int _ => true) && d.isDst && a.isSrc
  | .vmcnt _ _ _ => true
  | .vmscl f sel d a b _ => f.isArith && sel.okUn (perLane f.width) && d.isDst && a.isSrc && b.isSrc
  | .kop _ _ _ _ _ => true
  | .kset _ _ _ => true
  | .xResultLand core => isCore core
  | .sms q => q.k = 0
  | .wpw q => q.k = 0
  | .gbar q => q.k = 0
  | .gangBarrierComplete core => isCore core
  | .sig _ q => q.k = 0
  | .tail q => q.k = 0
  | .yld q => q.k = 0
  | .qtst _ _ q => q.k = 0
  | .qfwd _ _ q => q.k = 0
  | .mcfg _ _ q => q.k = 0
  | .mcfgl a q => a.isSrc && q.k = 0
  | .mgo q => q.k = 0
  | .mwait _ q => q.k = 0
  | .aclr d _ _ q => d.isRs && q.k = 0
  | .aanc d _ _ q => d.isRs && q.k = 0
  | .rslvCanonical d _ q => d.isRs && q.k = 0
  | .rslvToFormat _ _ _ d a _ q => d.isRs && a.isRs && q.k = 0
  | .rslvWireForm d a _ _ q => d.isRs && a.isRs && q.k = 0
  | .ascl d a b _ q => d.isRs && a.isRs && b.isRs && q.k = 0
  | .acmp p raw _ a b _ _ => p ≠ .un && (!raw || p = .eq || p = .ne) && a.isRs && b.isRs
  | .amov d a _ q => d.isRs && a.isRs && q.k = 0
  | .achk a _ q => a.isRs && q.k = 0
  | .nestJobStart core => isCore core
  | .shardLatchReady core => isCore core
  | .beatLand core => isCore core
  | .nestJobComplete core => isCore core
  | .resolverJobStart core => isCore core
  | .resolverJobComplete core => isCore core
  | .ldv d e x => d.isRs && x.okWith e.slot
  | .ldq _ e x => x.okWith e.slot
  | .lds _ _ e x => x.okWith e.slot
  | .gthq _ _ _ => true
  | .prf e => e.slot.isNone
  | .qpsh _ _ _ => true
  | .qeos _ => true
  | .strm _ e x => x.okWith e.slot && regsDiffer e.gb e.gx
  | .loadDataArrive core => isCore core
  | .tokw _ => true
  | .hget _ _ _ => true
  | .hpass _ _ _ _ => true
  | .hrel _ => true
  | .itin _ e => e.slot.isNone
  | .jcpy _ e => e.slot.isNone
  | .jwait _ => true
  | .rcon _ gb gx _ _ => regsDiffer gb gx
  | .rqgt _ _ => true
  | .mca _ _ _ => true
  | .stv d e x => d.isRs && x.okWith e.slot
  | .stq _ e x => x.okWith e.slot
  | .sts _ _ e x => x.okWith e.slot
  | .sta _ d _ _ => d.isRs
  | .sct _ _ _ => true
  | .atadd _ _ _ _ _ _ => true
  | .atfadd _ _ _ _ _ _ => true
  | .atmin _ _ _ _ _ _ => true
  | .atmax _ _ _ _ _ _ => true
  | .atxch _ _ _ _ _ _ => true
  | .atcas _ _ _ _ _ _ => true
  | .fence k _ => k ≠ .none
  | .bfen _ => true
  | .toks _ _ => true
  | .rrsv _ _ _ _ => true
  | .rpub _ gb gx _ _ => regsDiffer gb gx
  | .bmv _ e => e.slot.isNone
  | .coll _ e => e.slot.isNone
  | .mcj _ e => e.slot.isNone
  | .writePerformHome core _ => isCore core
  | .remoteUpdateInstall die _ => isDie die
  | .fullEmptyGrant core => isCore core
  | .itineraryStart die part => isDie die && isPart part
  | .itineraryEntryIssue die part => isDie die && isPart part
  | .itineraryGranuleLand die part _ _ => isDie die && isPart part
  | .itineraryEntryComplete die part _ => isDie die && isPart part
  | .entryLate die part _ => isDie die && isPart part
  | .itineraryEnd die part => isDie die && isPart part
  | .multicastDelivery die part _ _ => isDie die && isPart part
  | .copyCardStart die part => isDie die && isPart part
  | .copyCardComplete cluster => isCluster cluster
  | .bmvJobComplete core => isCore core
  | .collectiveAdmission _ _ => true
  | .blockEmit die part => isDie die && isPart part
  | .switchContribution _ _ _ => true
  | .switchBlockTimeout _ _ _ => true
  | .endMarker _ _ => true
  | .topSwitchTimerStart _ => true
  | .resultBlockDelivery part _ _ _ => isPart part
  | .collectiveComplete die part => isDie die && isPart part
  | .flitLoss core _ _ => isCore core
  | .remoteAccess _ _ _ => true
  | .gathererTakeSlot die part => isDie die && isPart part
  | .batchCloseDeadline die part => isDie die && isPart part
  | .launchRecordTake part stream => isPart part && isStream stream
  | .streamWaitSatisfied part stream => isPart part && isStream stream
  | .signalRecord part stream => isPart part && isStream stream
  | .kernelResident part stream => isPart part && isStream stream
  | .earlyResident part stream => isPart part && isStream stream
  | .placementAsk core => isCore core
  | .cellStart core => isCore core
  | .cellEnd core => isCore core
  | .retirementEntryRetire core _ => isCore core
  | .kernelComplete part _ => isPart part
  | .priorityAging part stream => isPart part && isStream stream
  | .sensorRefresh core _ _ => isCore core
  | .powerLimitReached _ => true
  | .bucketRefill => true
  | .watchdogExpire core => isCore core
  | .haltLineArrive part u => isPart part && u.exists
  | .engineStopPoint part u => isPart part && u.exists
  | .haltComplete part => isPart part
  | .shadowFlip core => isCore core
  | .contextSpillComplete core => isCore core
  | .contextWake core _ => isCore core
  | .contextResume core _ => isCore core
  | .cxctlPark core => isCore core
  | .haltctlResume part => isPart part
  | .haltctlAbandon part => isPart part
  | .haltctlParkAll part => isPart part
  | .prqPop => true
  | .prqAck _ _ => true
  | .debugHalt => true
  | .debugResume => true
  | .debugStep => true
  | .debugEngineStep => true
  | .debugAttach _ => true
  | .dbgdataWrite _ => true
  | .pdbgWrite part _ => isPart part
  | .partitionReset part => isPart part
  | .prstctlGo part => isPart part
  | .functionLevelReset part => isPart part
  | .resetAccessDrain part => isPart part
  | .pcfgWrite part _ => isPart part
  | .partitionEnable part => isPart part
  | .partitionDestroy part => isPart part
  | .clusterScrubComplete cluster => isCluster cluster
  | .exportGrant part _ => isPart part
  | .exportWithdraw part _ => isPart part
  | .mgmtMemoryAccess part _ _ _ => isPart part
  | .invalidatePage _ _ => true
  | .invalidateAsid _ => true
  | .invalidateAll => true
  | .invalidateExportUnit _ => true
  | .invalidationDone => true
  | .keyLoad => true
  | .keyClear => true
  | .cxlRekey _ => true
  | .migrateSwap die => isDie die
  | .migrateOptimistic die => isDie die
  | .migrationEnd die => isDie die
  | .llclrHop die part _ => isDie die && isPart part
  | .llclrPace die part => isDie die && isPart part
  | .streamTailWrite part stream _ => isPart part && isStream stream
  | .streamClearError part stream => isPart part && isStream stream
  | .gathererConfigWrite die part _ _ => isDie die && isPart part
  | .registerWrite w _ _ => w.exists
  | .dieFence die => isDie die
  | .heartbeatTimeout die => isDie die
  | .masterElection => true
  | .perstDeassert _ => true
  | .stage1Ready => true
  | .attestationRequest part _ _ => isPart part
  | .sidebandResetRequest => true
  | .hostWindowAccess part _ _ _ _ => isPart part
  | .joinRecorded core => match core with
    | .mcj c => isCore c
    | .far _ _ => true
  | .softError site _ => site.exists
  | .subarrayRefresh die _ => isDie die

end Sys2Proof
end

