-- ==== Sys2Proof/Machine/Formats.lean ====
section
/-! DEFINITION. Number formats and rounding (R108 to R122): every format decoded to an exact value, every exact result rounded once. -/

namespace Sys2Proof.Machine

/-! ## Exact values -/

/-- What a code stands for: NaN, NaR, an infinity, or (-1)^neg × m × 2^e. -/
inductive Val where
  | nan
  | nar
  | inf (neg : Bool)
  | fin (neg : Bool) (m : Nat) (e : Int)
deriving DecidableEq, Repr

/-- Fraction bits of a binary format (R108); 0 for MK8. -/
def fracBits : FFmt → Nat
  | .f32 => 23 | .bf16 => 7 | .f16 => 10 | .fp8e4 => 3 | .fp8e5 => 2 | .fp4 => 1 | .mk8 => 0

/-- Exponent bits. -/
def expBits : FFmt → Nat
  | .f32 => 8 | .bf16 => 8 | .f16 => 5 | .fp8e4 => 4 | .fp8e5 => 5 | .fp4 => 2 | .mk8 => 0

/-- Bias. -/
def fbias : FFmt → Int
  | .f32 => 127 | .bf16 => 127 | .f16 => 15 | .fp8e4 => 7 | .fp8e5 => 15 | .fp4 => 1 | .mk8 => 0

/-- The magnitude code of the largest finite value M (R108, R116). -/
def maxCode : FFmt → Nat
  | .f32 => 0x7F7FFFFF | .bf16 => 0x7F7F | .f16 => 0x7BFF | .fp8e4 => 0x7E | .fp8e5 => 0x7B | .fp4 => 7 | .mk8 => 0x7F

/-- The canonical NaN, NaR for MK8 (R110); FP4 holds none and takes +0 (R114). -/
def canonNaN : FFmt → Nat
  | .f32 => 0x7FC00000 | .bf16 => 0x7FC0 | .f16 => 0x7E00 | .fp8e4 => 0x7F | .fp8e5 => 0x7E | .fp4 => 0 | .mk8 => 0x80

/-- The sign bit of a format. -/
def signBit (f : FFmt) : Nat := 2 ^ (f.width - 1)

/-- Exponent of the smallest normal magnitude; for MK8 of 2^-12 (R113). -/
def minNormal : FFmt → Int
  | .f32 => -126 | .bf16 => -126 | .f16 => -14 | .fp8e4 => -6 | .fp8e5 => -14 | .fp4 => 0 | .mk8 => -12

/-- Leading zeros of a nonzero 7-bit field (R116). -/
def mk8Lead (m : Nat) : Nat := 6 - Nat.log2 m

/-- The magnitude m × 2^e of a magnitude code: the code after the largest finite one stands for Ω (R112). -/
def magVal (f : FFmt) (c : Nat) : Nat × Int :=
  match f with
  | .mk8 =>
    if c = 0 then (0, 0)
    else if 128 ≤ c then (4, 0)
    else
      let z := mk8Lead c
      let p := 6 - z
      if p = 0 then (1, -2 * (z : Int))
      else
        let e := bits c (p - 1) (p - 1)
        let q := p - 1
        (2 ^ q + c % 2 ^ q, (e : Int) - 2 * z - q)
  | f =>
    let mb := fracBits f
    let ex := c / 2 ^ mb
    let fr := c % 2 ^ mb
    if ex = 0 then (fr, 1 - fbias f - mb) else (2 ^ mb + fr, (ex : Int) - fbias f - mb)

/-- Decode a code (R108, R109, R116). -/
def decodeF (f : FFmt) (code : Nat) : Val :=
  let c := code % 2 ^ f.width
  let neg := signBit f ≤ c
  let mag := c % signBit f
  match f with
  | .mk8 => if c = 0x80 then .nar else let v := magVal f mag; .fin neg v.1 v.2
  | .fp4 => let v := magVal f mag; .fin neg v.1 v.2
  | .fp8e4 => if mag = 0x7F then .nan else let v := magVal f mag; .fin neg v.1 v.2
  | f =>
    if mag ≤ maxCode f then let v := magVal f mag; .fin neg v.1 v.2
    else if mag = maxCode f + 1 then .inf neg
    else .nan

/-! ## Rounding once (R111 to R113) -/

/-- Compare a × 2^i with b × 2^j. -/
def cmpDyadic (a : Nat) (i : Int) (b : Nat) (j : Int) : Ordering :=
  if j ≤ i then compare (a * 2 ^ (i - j).toNat) b else compare a (b * 2 ^ (j - i).toNat)

/-- An exact nonzero magnitude as the rounding sees it: how a given m × 2^e compares with it. -/
abbrev Cmp := Nat → Int → Ordering

/-- The greatest magnitude code from lo to hi - 1 whose value is at most the magnitude. -/
def searchCode (f : FFmt) (x : Cmp) : Nat → Nat → Nat → Nat
  | 0, lo, _ => lo
  | n + 1, lo, hi =>
    if hi ≤ lo + 1 then lo
    else
      let mid := (lo + hi) / 2
      let v := magVal f mid
      if x v.1 v.2 = .gt then searchCode f x n lo mid else searchCode f x n mid hi

/-- The value halfway between a code and the next. -/
def midVal (f : FFmt) (c : Nat) : Nat × Int :=
  let a := magVal f c
  let b := magVal f (c + 1)
  let e := min a.2 b.2
  (a.1 * 2 ^ (a.2 - e).toNat + b.1 * 2 ^ (b.2 - e).toNat, e - 1)

/-- Whether a value strictly between a code and the next rounds to the next. -/
def roundsUp (f : FFmt) (r : Round) (neg : Bool) (x : Cmp) (c : Nat) : Bool :=
  let v := midVal f c
  match r with
  | .rz => false
  | .rup => !neg
  | .rdn => neg
  | .rne => match x v.1 v.2 with
    | .lt => true
    | .gt => false
    | .eq => c % 2 == 1
  | .rna => x v.1 v.2 != .gt

/-- A code with its sign; MK8 has no -0 (R117). -/
def withSign (f : FFmt) (neg : Bool) (mag : Nat) : Nat :=
  if neg && !(f == .mk8 && mag == 0) then mag + signBit f else mag

/-- What ±Ω becomes (R112). -/
def overflowCode (f : FFmt) (sat neg : Bool) : Nat × Flags :=
  match f with
  | .fp8e4 => if sat then (withSign f neg 0x7E, flagSAT) else (canonNaN f, 0)
  | .fp4 | .mk8 => (withSign f neg (maxCode f), flagSAT)
  | f => (withSign f neg (maxCode f + 1), 0)

/-- Round an exact nonzero result to a format: code and flags (R111 to R113). -/
def roundMag (f : FFmt) (r : Round) (sat neg : Bool) (x : Cmp) : Nat × Flags :=
  let omega := maxCode f + 1
  let c := searchCode f x 40 0 (omega + 1)
  let v := magVal f c
  let exact := x v.1 v.2 == .eq
  let tiny := x 1 (minNormal f) == .gt
  let beyond := c == omega
  let up := !exact && !beyond && roundsUp f r neg x c
  let toward := r == .rz || (r == .rup && neg) || (r == .rdn && !neg)
  if beyond && toward then (withSign f neg (maxCode f), flagOF ||| flagNX)
  else if beyond || (up && c + 1 == omega) then
    let o := overflowCode f sat neg
    (o.1, o.2 ||| flagOF ||| flagNX)
  else (withSign f neg (if up then c + 1 else c), flagIf (!exact) flagNX ||| flagIf (!exact && tiny) flagUF)

/-- Round a dyadic value; a zero keeps the sign it is given (R111). -/
def roundDyadic (f : FFmt) (r : Round) (sat neg : Bool) (m : Nat) (e : Int) : Nat × Flags :=
  if m = 0 then (withSign f neg 0, 0) else roundMag f r sat neg fun a i => cmpDyadic a i m e

/-- Deliver a value in a format: R114 for what the format cannot hold. -/
def deliverVal (f : FFmt) (r : Round) (sat : Bool) : Val → Nat × Flags
  | .nan => (canonNaN f, flagIf (f == .fp4) flagNV)
  | .nar => (canonNaN f, flagIf (f == .fp4) flagNV)
  | .inf neg =>
    match f with
    | .fp8e4 => if sat then (withSign f neg 0x7E, flagSAT) else (canonNaN f, flagNV)
    | .fp4 => (withSign f neg 7, flagSAT)
    | .mk8 => (canonNaN f, flagNV)
    | f => (withSign f neg (maxCode f + 1), 0)
  | .fin neg m e => roundDyadic f r sat neg m e

/-! ## Arithmetic (R149 to R151, R170) -/

/-- The canonical NaN with NV: an invalid operation. -/
def invalidOp (f : FFmt) : Nat × Flags := (canonNaN f, flagNV)

/-- Whether a value is NaN or NaR. -/
def isNaN : Val → Bool
  | .nan | .nar => true
  | _ => false

/-- The value with its sign changed. -/
def negVal : Val → Val
  | .inf n => .inf !n
  | .fin n m e => .fin (!n) m e
  | v => v

/-- An exact product, or none where it is invalid (0 × ∞). -/
def mulVal (a b : Val) : Option Val :=
  match a, b with
  | .fin s m e, .fin t n g => some (.fin (s != t) (m * n) (e + g))
  | .inf s, .inf t => some (.inf (s != t))
  | .inf s, .fin t n _ => if n = 0 then none else some (.inf (s != t))
  | .fin s m _, .inf t => if m = 0 then none else some (.inf (s != t))
  | _, _ => some .nan

/-- A signed dyadic. -/
def signedM (neg : Bool) (m : Nat) : Int := if neg then -(m : Int) else m

/-- An exact sum, or none where it is invalid (∞ - ∞). A zero sum is +0 unless both terms are -0 (R111, .rne). -/
def addVal (a b : Val) : Option Val :=
  match a, b with
  | .fin s m e, .fin t n g =>
    let k := min e g
    let x := signedM s m * ((2 ^ (e - k).toNat : Nat) : Int) + signedM t n * ((2 ^ (g - k).toNat : Nat) : Int)
    some (.fin (if x = 0 then (m == 0 && n == 0 && s && t) else decide (x < 0)) x.natAbs k)
  | .inf s, .inf t => if s = t then some (.inf s) else none
  | .inf s, .fin _ _ _ => some (.inf s)
  | .fin _ _ _, .inf t => some (.inf t)
  | _, _ => some .nan

/-- Round an operation's exact result with .rne: none is an invalid operation, NaN the canonical NaN. -/
def deliverOp (f : FFmt) : Option Val → Nat × Flags
  | none => invalidOp f
  | some v => deliverVal f .rne false v

def fadd (f : FFmt) (a b : Val) : Nat × Flags :=
  if isNaN a || isNaN b then (canonNaN f, 0) else deliverOp f (addVal a b)
def fsub (f : FFmt) (a b : Val) : Nat × Flags := fadd f a (negVal b)
def fmul (f : FFmt) (a b : Val) : Nat × Flags :=
  if isNaN a || isNaN b then (canonNaN f, 0) else deliverOp f (mulVal a b)

/-- C plus the product, negated for VFNMA (log entry 12), rounded once. -/
def ffma (f : FFmt) (negate : Bool) (a b c : Val) : Nat × Flags :=
  if isNaN a || isNaN b || isNaN c then (canonNaN f, 0)
  else
    match mulVal a b with
    | none => invalidOp f
    | some p => deliverOp f (addVal (if negate then negVal p else p) c)

/-- The rational n × 2^i / (d × 2^j) rounded with .rne, n and d nonzero. -/
def roundRatio (f : FFmt) (neg : Bool) (n : Nat) (i : Int) (d : Nat) (j : Int) : Nat × Flags :=
  roundMag f .rne false neg fun a e => cmpDyadic (a * d) (e + j) n i

/-- Division (R150). The quotient of a zero and a finite value is an exact zero, so +0 whatever the signs (R111); a finite value over an infinity is ±0
with the sign of the operands (R150). -/
def fdiv (f : FFmt) (a b : Val) : Nat × Flags :=
  if isNaN a || isNaN b then (canonNaN f, 0)
  else
    match a, b with
    | .fin s m e, .fin t n g =>
      if n = 0 then (if m = 0 then invalidOp f else ((deliverVal f .rne false (.inf (s != t))).1, flagDZ))
      else if m = 0 then (0, 0)
      else roundRatio f (s != t) m e n g
    | .inf s, .fin t _ _ => deliverVal f .rne false (.inf (s != t))
    | .fin s _ _, .inf t => (withSign f (s != t) 0, 0)
    | _, _ => invalidOp f

/-- Reciprocal. -/
def frcp (f : FFmt) (a : Val) : Nat × Flags := fdiv f (.fin false 1 0) a

/-- Reciprocal square root: m × 2^e is compared through its square times the operand with 1. -/
def frsq (f : FFmt) (a : Val) : Nat × Flags :=
  match a with
  | .fin s m e =>
    if m = 0 then ((deliverVal f .rne false (.inf s)).1, flagDZ)
    else if s then invalidOp f
    else roundMag f .rne false false fun c i => cmpDyadic (c * c * m) (2 * i + e) 1 0
  | .inf false => (0, 0)
  | .inf true => invalidOp f
  | _ => (canonNaN f, 0)

/-! ## Powers and logarithms of two: 320-bit fixed point (log entry 13) -/

/-- Fixed-point bits. -/
def fxBits : Nat := 320

/-- 2 × (z + z^3/3 + z^5/5 + ...) in fixed point: the logarithm of (1 + z)/(1 - z). -/
def atanhSeries (z : Nat) : Nat :=
  let z2 := (z * z) >>> fxBits
  2 * ((List.range 104).foldl (fun (acc, t) k => (acc + t / (2 * k + 1), (t * z2) >>> fxBits)) (0, z)).1

/-- ln 2 in fixed point, as the logarithm of (1 + 1/3)/(1 - 1/3). -/
def ln2Fixed : Nat := atanhSeries (2 ^ fxBits / 3)

/-- e^y for a fixed-point y from 0 to 1. -/
def expSeries (y : Nat) : Nat :=
  ((List.range 90).foldl (fun (acc, t) k => (acc + t, ((t * y) >>> fxBits) / (k + 1))) (0, 2 ^ fxBits)).1

/-- floor(x) and the fractional part of (-1)^neg × m × 2^e in fixed point, for |x| below 2^11; the integer part is clamped beyond. -/
def splitInt (neg : Bool) (m : Nat) (e : Int) : Int × Nat :=
  if 11 ≤ (Nat.log2 m : Int) + e then (if neg then -2048 else 2048, 0)
  else
    let x : Int := shiftFloor (signedM neg m) (-(e + fxBits))
    (x / ((2 ^ fxBits : Nat) : Int), (x % ((2 ^ fxBits : Nat) : Int)).toNat)

/-- 2^A (R150): exact for an integer A. -/
def fexp2 (f : FFmt) (a : Val) : Nat × Flags :=
  match a with
  | .inf neg => if neg then (0, 0) else deliverVal f .rne false (.inf false)
  | .fin neg m e =>
    let (n, fr) := splitInt neg m e
    if fr = 0 then roundMag f .rne false false fun c i => cmpDyadic c i 1 n
    else
      let p := expSeries ((fr * ln2Fixed) >>> fxBits)
      roundMag f .rne false false fun c i => if c = 0 then .lt else cmpDyadic c i p (n - fxBits)
  | _ => (canonNaN f, 0)

/-- log2 A (R150): exact for a power of two. -/
def flog2 (f : FFmt) (a : Val) : Nat × Flags :=
  match a with
  | .inf neg => if neg then invalidOp f else deliverVal f .rne false (.inf false)
  | .fin neg m e =>
    if m = 0 then ((deliverVal f .rne false (.inf true)).1, flagDZ)
    else if neg then invalidOp f
    else
      let k := Nat.log2 m
      let n : Int := (k : Int) + e
      if m = 2 ^ k then roundDyadic f .rne false (n < 0) n.natAbs 0
      else
        -- z = (g - 1)/(g + 1) for g = m / 2^k
        let z := (m - 2 ^ k) * 2 ^ fxBits / (m + 2 ^ k)
        let l : Int := n * ((2 ^ fxBits : Nat) : Int) + ((atanhSeries z * 2 ^ fxBits / ln2Fixed : Nat) : Int)
        roundMag f .rne false (l < 0) fun c i => cmpDyadic c i l.natAbs (-fxBits)
  | _ => (canonNaN f, 0)

/-! ## Order, classes, minimum and maximum (R151 to R153) -/

/-- Compare two values that are no NaN; zeros are equal. -/
def cmpVal (a b : Val) : Ordering :=
  match a, b with
  | .inf s, .inf t => if s = t then .eq else if s then .lt else .gt
  | .inf s, _ => if s then .lt else .gt
  | _, .inf t => if t then .gt else .lt
  | .fin s m e, .fin t n g =>
    let k := min e g
    compare (signedM s m * ((2 ^ (e - k).toNat : Nat) : Int)) (signedM t n * ((2 ^ (g - k).toNat : Nat) : Int))
  | _, _ => .eq

/-- The sign of a value. -/
def valNeg : Val → Bool
  | .inf s => s
  | .fin s _ _ => s
  | _ => false

/-- a orders below b, -0 below +0. -/
def below (a b : Val) : Bool :=
  match cmpVal a b with
  | .lt => true
  | .gt => false
  | .eq => valNeg a && !valNeg b

/-- The smaller (or larger) of two codes; a NaN yields to the other operand (R151). -/
def fpick (f : FFmt) (largest : Bool) (a b : Nat) : Nat :=
  let x := decodeF f a
  let y := decodeF f b
  if isNaN x then (if isNaN y then canonNaN f else b)
  else if isNaN y then a
  else if largest then (if below x y then b else a) else (if below y x then b else a)

/-- A predicate on an ordering, none meaning unordered (R152). -/
def predHolds (p : Pred) (o : Option Ordering) : Bool :=
  match p, o with
  | .eq, some .eq => true
  | .ne, some .eq => false
  | .ne, _ => true
  | .lt, some .lt => true
  | .le, some .lt => true
  | .le, some .eq => true
  | .gt, some .gt => true
  | .ge, some .gt => true
  | .ge, some .eq => true
  | .un, none => true
  | _, _ => false

/-- The order of two codes, none when either is NaN. -/
def fcompare (f : FFmt) (a b : Nat) : Option Ordering :=
  let x := decodeF f a
  let y := decodeF f b
  if isNaN x || isNaN y then none else some (cmpVal x y)

/-- The class number of a code (R153). -/
def fclass (f : FFmt) (a : Nat) : Nat :=
  match decodeF f a with
  | .nan => 8
  | .nar => 9
  | .inf s => if s then 7 else 6
  | .fin s m e =>
    if m = 0 then (if s then 1 else 0)
    else if f ≠ .mk8 ∧ cmpDyadic m e 1 (minNormal f) = .lt then (if s then 3 else 2)
    else (if s then 5 else 4)

/-! ## Conversions (R114, R115, R154) -/

/-- The range of an integer format. -/
def intRange (f : IFmt) : Int × Int :=
  if f.signed then (-(2 ^ (f.width - 1) : Nat), (2 ^ (f.width - 1) : Nat) - 1) else (0, (2 ^ f.width : Nat) - 1)

/-- An element read in an integer format. -/
def readInt (f : IFmt) (x : Nat) : Int := if f.signed then sextN x f.width else ((x % 2 ^ f.width : Nat) : Int)

/-- Deliver an exact integer: wrapped, or clamped with SAT (R115, R141). -/
def deliverInt (f : IFmt) (sat : Bool) (x : Int) : Nat × Flags :=
  if sat then
    let y := clampI x (intRange f).1 (intRange f).2
    (zextI y f.width, flagIf (y != x) flagSAT)
  else (zextI x f.width, 0)

/-- A dyadic rounded to an integer by a mode, and whether it was inexact. -/
def roundToInt (r : Round) (neg : Bool) (m : Nat) (e : Int) : Int × Bool :=
  if 0 ≤ e then (signedM neg (m * 2 ^ e.toNat), false)
  else
    let d := 2 ^ (-e).toNat
    let q := m / d
    let rest := m % d
    let up := match r with
      | .rz => false
      | .rup => !neg
      | .rdn => neg
      | .rne => d < 2 * rest || (d == 2 * rest && q % 2 == 1)
      | .rna => d ≤ 2 * rest
    (signedM neg (if rest != 0 && up then q + 1 else q), rest != 0)

/-- Float or MK8 to integer (R115). -/
def floatToInt (df : IFmt) (r : Round) (v : Val) : Nat × Flags :=
  match v with
  | .nan | .nar => (0, flagNV)
  | .inf neg => (zextI (if neg then (intRange df).1 else (intRange df).2) df.width, flagSAT)
  | .fin neg m e =>
    let (x, inexact) := roundToInt r neg m e
    let (c, fl) := deliverInt df true x
    (c, fl ||| flagIf inexact flagNX)

/-- Integer to float (R115). -/
def intToFloat (df : FFmt) (r : Round) (sat : Bool) (x : Int) : Nat × Flags := roundDyadic df r sat (x < 0) x.natAbs 0

/-- A × N / COUNT, rounded once (R170). -/
def fscale (f : FFmt) (a : Val) (n count : Nat) : Nat × Flags :=
  match a with
  | .nan | .nar => (canonNaN f, 0)
  | .inf s => if n = 0 then invalidOp f else deliverVal f .rne false (.inf s)
  | .fin s m e => if m * n = 0 then (withSign f s 0, 0) else roundRatio f s (m * n) e count 0

/-! ## Ternary (R120, R121) -/

/-- The digit i (0, 1 or 2) of a ternary byte v ≤ 242, by the multiplications of R121. -/
def tritDigit (v i : Nat) : Nat :=
  let k := ([65536, 21846, 7282, 2428, 810] : List Nat).getD i 0
  let q := (v * k) >>> 16
  q - 3 * ((q * 21846) >>> 16)

/-- The trit value of a digit. -/
def tritVal (d : Nat) : Int := if d = 1 then 1 else if d = 2 then -1 else 0

end Sys2Proof.Machine
end

