-- ==== Sys2Proof/Machine/Table.lean ====
section
/-! DEFINITION. Sparse tables: a list of (key, value) pairs with strictly rising keys, and what an unlisted key
holds given by the reader. Every indexed piece of state is one of these. -/

namespace Sys2Proof.Machine

/-- A sparse table from numbers to values. -/
abbrev Table (α : Type) := List (Nat × α)

/-- The value at a key, if the key is listed. -/
def tfind {α : Type} : Table α → Nat → Option α
  | [], _ => none
  | (k, v) :: t, n => if k = n then some v else tfind t n

/-- The value at a key, d where the key is not listed. -/
def tget {α : Type} (d : α) (t : Table α) (n : Nat) : α := (tfind t n).getD d

/-- Write the value at a key; the keys stay strictly rising. -/
def tput {α : Type} : Table α → Nat → α → Table α
  | [], n, v => [(n, v)]
  | (k, w) :: t, n, v =>
    if n < k then (n, v) :: (k, w) :: t
    else if n = k then (n, v) :: t
    else (k, w) :: tput t n v

/-- Remove a key. -/
def tdel {α : Type} (t : Table α) (n : Nat) : Table α := t.filter fun p => p.1 != n

/-- Apply a function to the value at a key. -/
def tupd {α : Type} (d : α) (t : Table α) (n : Nat) (f : α → α) : Table α := tput t n (f (tget d t n))

/-- Remove every key from lo to hi - 1. -/
def tdelRange {α : Type} (t : Table α) (lo hi : Nat) : Table α := t.filter fun p => p.1 < lo || hi ≤ p.1

/-- The keys of a table strictly rise. -/
def tableOrdered {α : Type} : Table α → Bool
  | [] => true
  | [_] => true
  | (a, _) :: (b, v) :: t => a < b && tableOrdered ((b, v) :: t)

/-- The first index below n for which p holds. -/
def firstIndex (p : Nat → Bool) (n : Nat) : Option Nat := (List.range n).find? p

/-- Remove the element at an index of a list. -/
def dropAt {α : Type} : List α → Nat → List α
  | [], _ => []
  | _ :: t, 0 => t
  | a :: t, n + 1 => a :: dropAt t n

/-- Change the element at an index of a list. -/
def changeAt {α : Type} : List α → Nat → (α → α) → List α
  | [], _, _ => []
  | a :: t, 0, f => f a :: t
  | a :: t, n + 1, f => a :: changeAt t n f

end Sys2Proof.Machine
end

