-- ==== Sys2Proof/Machine/State.lean ====
section
/-! DEFINITION. The state of the LZB-640: everything that the manual gives one package, the other parties of its
fabric as far as the manual describes what they hold, and the two faults and the refusal of the model. Reset values
that the manual does not give are named in log entry 5. -/

namespace Sys2Proof.Machine

/-! ## A sequencer (R12, R29, R39, R40, R53, R94) -/

/-- A loop counter with its loop record (R40, R94). A greater age is younger. -/
structure LoopRec where
  count : BitVec 32 := 0
  active : Bool := false
  start : BitVec 16 := 0
  stop : BitVec 16 := 0
  level : BitVec 2 := 0
  age : Nat := 0
deriving DecidableEq, Repr

/-- A bank of trap registers (R53). -/
structure TrapBank where
  epc : BitVec 16 := 0
  ecause : BitVec 8 := 0
  eaddr : BitVec 56 := 0
  escr : Word := 0
deriving DecidableEq, Repr

/-- What a sequencer waits for: nothing, the WAIT codes 1 to 7 of R410, or something that R410 gives no code. -/
inductive Wait where
  | none | queue | fullEmpty | token | job | gbar | ring | page | other
deriving DecidableEq, Repr

/-- The sequencer's part of a cell (R42, R317). -/
inductive Run where
  | noCell | running | ended
deriving DecidableEq, Repr

/-- What a stop record says of the cause of an origin (R406, R410). -/
structure StopInfo where
  cause : BitVec 8
  eaddr : BitVec 56
  fpc : BitVec 16
  parcels : BitVec 64
  imprecise : Bool
deriving DecidableEq, Repr

/-- One sequencer of a context. -/
structure SeqState where
  /-- g1 to g31 (R39) -/
  g : Table Word := []
  /-- lc0 to lc3 (R40, R94) -/
  lc : Table LoopRec := []
  /-- program counter; 32 bits hold the address just past a 64 KiB store (R56) -/
  pc : BitVec 32 := 0
  /-- the private instruction store, by parcel number (R12, R54) -/
  istore : Table Parcel := []
  tlevel : BitVec 2 := 0
  tvec : BitVec 16 := 0
  bank0 : TrapBank := {}
  bank1 : TrapBank := {}
  run : Run := .noCell
  /-- what the instruction at pc waits for (R410) -/
  wait : Wait := .none
  /-- the page request tag of a stall on page not present, and whether it was answered with FAIL (R403) -/
  pageTag : Option Nat := none
  pageFail : Bool := false
  /-- the lowest granule that met page not present (R218) -/
  stallAddr : BitVec 56 := 0
  /-- the sequencer's earliest next issue, on its own clock (R67, R82, R106) -/
  clock : Nat := 0
  /-- the cycles of clock that a WAITC alone asks for (R106) -/
  waitc : Nat := 0
  /-- the clock at which a dependent instruction may read each g register (R81, R82, R69) -/
  gready : Table Nat := []
  /-- the clock at which an instruction that depends on a system register written by MTS may issue, by register number (R82) -/
  sysReady : Table Nat := []
  /-- a DIV or REM runs, and the cycle in which it completes (R82) -/
  divBusy : Bool := false
  divDue : Nat := 0
  /-- stopped by the halt line or a park (R405) -/
  halted : Bool := false
  /-- CYCLE when it stopped (R410) -/
  haltedAt : Nat := 0
  /-- this sequencer is an origin (R405) -/
  origin : Option StopInfo := none
  /-- the CSWAP at pc waits in place until this CYCLE value (R421) -/
  wakeAt : Option Nat := none
deriving DecidableEq, Repr

/-! ## Queues, handles, results and accesses in flight of a context -/

/-- A queue entry (R44). -/
structure QEntry where
  data : Vec
  mask : Mask
  eos : Bool
deriving DecidableEq, Repr

/-- A queue (R44, R46): entries oldest first; head is the slot of the oldest. -/
structure Queue where
  head : BitVec 4 := 0
  entries : List QEntry := []
deriving DecidableEq, Repr

/-- A handle slot (R52): none when VALID = 0. batch names the die whose gatherer owns the buffer, and the buffer's number there (R366). -/
structure Handle where
  base : Nat
  len : Nat
  batch : Option (Nat × Nat)
deriving DecidableEq, Repr

/-- A granule that an access touches, resolved at issue (R217, R226, R402). -/
inductive Loc where
  /-- DRAM: physical address of the granule's first byte, bank layout, MIRE, key slot, partition -/
  | dram (pa : Nat) (layout mire : Bool) (key part : Nat)
  /-- a granule of a cluster's pool, with the buffer offset the program used -/
  | sram (cluster granule off : Nat)
  /-- a granule beyond the end of its buffer (R227) -/
  | beyond
  /-- another package of the domain (R337): package, export offset, MIRE, and the partition and die of the agent -/
  | remote (pkg off : Nat) (mire : Bool) (part die : Nat)
  /-- a granule of another package whose mire flit was lost (R338) -/
  | lost
  /-- a register of the partition's device window (R372) -/
  | device (off : Nat)
deriving DecidableEq, Repr

/-- A byte range of an access inside one granule: the location, the first byte and the number of bytes in it, and the
byte of the access that the first byte is. addr is the virtual address or buffer offset of the granule, for EADDR (R218). -/
structure Piece where
  loc : Loc
  addr : Nat
  first : Nat
  count : Nat
  pos : Nat
deriving DecidableEq, Repr

/-- What an L instruction in flight delivers its bytes to (R255, R259 to R264). -/
inductive LDest where
  /-- granules of the register store, none where out of range -/
  | store (granules : List (Option Nat))
  | queue (q : Nat)
  /-- a gather: lanes with their piece, none where no access is made (R261) -/
  | gather (q : Nat) (lanes : List (Option Piece))
  | scalar (d : Reg) (f : SFmt)
  /-- an entry that is complete at issue and waits for its turn (R263) -/
  | entry (q : Nat) (e : QEntry)
deriving DecidableEq, Repr

/-- What reading a granule gives: data, whether it is lost, and the machine fault it raises, if any. -/
structure Got where
  data : Granule
  lost : Bool
  fault : Option (BitVec 8)
deriving DecidableEq, Repr

/-- An L access in flight (R255, R258). -/
structure LAccess where
  dest : LDest
  pieces : List Piece
  fe : Fe
  fpc : BitVec 16
  parcels : BitVec 64
  /-- what each granule showed when the access became the oldest in flight; of each granule the access reads that or what it shows when it lands
  (R299; log entry 94) -/
  early : List Got := []
  /-- an entry of a STRM: the base register, the count register and the step of the base, which change once the entry is pushed (R264) -/
  strm : Option (Reg × Reg × Word) := none
  /-- of a load to the register store, the granules that have landed (R299, R430) -/
  landed : List Nat := []
deriving DecidableEq, Repr

/-- The read-modify-write of an atomic (R270). -/
inductive AtomOp where
  | add | fadd | min | max | xch | cas
deriving DecidableEq, Repr

/-- What an S access does at its home. -/
inductive SAct where
  /-- store: bytes (little-endian, byte i at position i) and the positions that come from an invalid lane (R266) -/
  | store (bytes : List Byte) (bad : List Nat)
  /-- the lanes of SCT, each a store of its own: bytes by position (R268) -/
  | scatter (bytes : List Byte)
  /-- atomic: operation, width in bits, signedness, float format, operand, compare value, destination register, whether a FENCE.acq
  follows it, and the scope of the FENCE.full that follows it -/
  | atomic (op : AtomOp) (width : Nat) (signed : Bool) (ff : Option AFFmt) (opnd cmp : Word) (d : Reg) (acq : Bool) (full : Option Scope)
  /-- the image of the STA whose resolver job has this arrival number, not formed yet (R269) -/
  | image (arrival : Nat)
  /-- TOKS: scope and destination register (R273) -/
  | token (sc : Scope) (d : Reg)
deriving DecidableEq, Repr

/-- An S access in flight (R258, R270). range is the range that the retirement tracker would hold (R318). -/
structure SAccess where
  act : SAct
  pieces : List Piece
  fe : Fe
  /-- the virtual range first, count of the access for R318; none through a handle -/
  range : Option (Nat × Nat)
  /-- dependency vector of R299: one counter per home die -/
  deps : List Nat
  /-- performed at its home, with the home and stamp that each update carries (R299) -/
  performed : Bool
  /-- of a store or scatter that has been performed in part, the bytes of the access where pieces that are performed begin (R217, R299) -/
  parts : List Nat := []
  stamps : List (Nat × Nat)
  /-- it reached another package, and whether it is known to be performed there (R297, R303) -/
  remote : Bool := false
  acked : Bool := false
  fpc : BitVec 16
  parcels : BitVec 64
  /-- number among the accesses that S issued (R327) -/
  num : Nat
  /-- the store of an STA (R269) -/
  sta : Bool
deriving DecidableEq, Repr

/-- An X engine result that has not landed (R32, R45, R68, R69). -/
structure XResult where
  due : Nat
  /-- granule number, byte mask spread to 128 bits, data -/
  writes : List (Nat × Granule × Granule)
  /-- mask register, bits written, value -/
  k : Option (Nat × Mask × Mask)
  /-- sticky flags to OR in -/
  orFlags : LaneFlags
  /-- flags written as a vector: bit mask and value (R48) -/
  setFlags : Option (LaneFlags × LaneFlags)
  push : Option (Nat × QEntry)
deriving DecidableEq, Repr

/-! ## Matrix engine and resolver (R176 to R207) -/

/-- A weight latch: the shard offset it holds and the shard's granules with their validity (R183). -/
structure Latch where
  ws : Int
  granules : List (Granule × Bool)
deriving DecidableEq, Repr

/-- A nest job (R192): its active table and what MGO latched, and how far it has come. -/
structure NestJob where
  table : Table Word
  tview : Word
  aview : Word
  foot : BitVec 8
  /-- arrival number among the jobs of both engines (R193) -/
  arrival : Nat
  started : Bool
  /-- number of the next beat (R178) -/
  beat : Nat
  /-- the latch that the array uses, and the shard loaded ahead into the other latch (R183) -/
  latch : Option Latch
  ahead : Option Latch
  /-- the granules of the shard being loaded that the expander has read so far, in order (R181) -/
  loading : Option Latch
  /-- shard offset of the last landed beat (R181) -/
  lastWs : Option Int
  /-- shards whose bits this job has cleared (R181) -/
  cleared : List Int
  nv : Bool
  mz : Bool
  ilt : Bool
  woor : Bool
  aoor : Bool
  /-- cycles in which the expander waited on a granule of a codebook table (R182) -/
  tstall : Nat := 0
  fpc : BitVec 16
  parcels : BitVec 64
deriving DecidableEq, Repr

/-- The eight shapes of a resolver job (R192, R201 to R207, R269). Byte address of the destination or scales operand is
an index through the latched view. -/
inductive RKind where
  | aclr (anchor : BitVec 16)
  | aanc (e : Int)
  | canon
  | toFormat (f : RFmt) (r : Round) (sat nf : Bool) (dst : Nat)
  | wire (x : Int) (nf : Bool) (dst : Nat)
  | ascl (src scales : Nat)
  | amov (src : Nat)
  | achk
  /-- store of the image -/
  | sta (raw : Bool)
deriving DecidableEq, Repr

/-- A resolver job (R192): the tile index through the latched AVIEW, H, and progress. -/
structure RJob where
  kind : RKind
  tile : Nat
  h : Nat
  aview : Word
  vview : Word
  foot : BitVec 8
  seq : Seq
  arrival : Nat
  /-- CYCLE at its issue: an X job arrives before an S job of the same cycle (R192) -/
  issuedAt : Nat
  started : Bool
  row : Nat
  transform : Bool
  fpc : BitVec 16
  parcels : BitVec 64
deriving DecidableEq, Repr

/-! ## The cell, its gang and its jobs -/

/-- Bytes lo to lo + n - 1 of the register store, which the job with this arrival number writes (R193, R194). -/
structure JobRange where
  arrival : Nat
  lo : Nat
  n : Nat
deriving DecidableEq, Repr

/-- The cell that a context runs (R42, R313, R314). -/
structure CellInfo where
  part : Nat
  serial : Nat
  ordinal : Nat
  gangBase : Nat
  gangSize : Nat
  /-- number of the placement (R314) -/
  place : Nat := 0
  /-- passed successor-may-start (R324) -/
  sms : Bool
  /-- GBARs executed, whether the last one waits, and whether its barrier has completed (R326) -/
  gbars : Nat
  gbarOpen : Bool
  gbarGo : Bool
  /-- X has completed WPW, TAIL or IDLE (R322) -/
  lsReleased : Bool
deriving DecidableEq, Repr

/-- The status of a job as JWAIT returns it (R278): running, or RESULT and LOST. -/
inductive JobStatus where
  | running
  /-- stamps is the latest stamp of each home among the job's writes (R295: JWAIT acquires at .pkg) -/
  | done (result : BitVec 2) (lost : Bool) (stamps : List Nat)
deriving DecidableEq, Repr

/-- What decides between out-of-range accesses of one cycle (R35, R104): the cycle of the record that RSOOR holds, and the
latest out-of-range access with its cycle, the one with the lowest SRC among those of that cycle. -/
structure OorCycle where
  heldAt : Nat := 0
  latest : Option (Nat × Word) := none
deriving DecidableEq, Repr

/-- What decides between out-of-range buffer accesses of one cycle (R227): the cycle of the record that HOOR holds, and the latest such access with its
cycle, its HOOR value and its kernel, the one with the lowest AGENT among those of that cycle. -/
structure HoorCycle where
  heldAt : Nat := 0
  latest : Option (Nat × Word × Word) := none
deriving DecidableEq, Repr

/-- The context of a core (R29) with its engine state (R407). -/
structure Ctx where
  seqL : SeqState := {}
  seqX : SeqState := {}
  seqS : SeqState := {}
  /-- the register store: what the granules of bank b hold where unlisted (none: zero; some n: free granules from n), and
  the listed granules 0 to 65,535 (R30, R42, R43) -/
  fills : Table Nat := []
  store : Table Granule := []
  vview : Word := 0
  tview : Word := 0
  aview : Word := 0
  /-- BANKPWR.RET (R37) -/
  ret : BitVec 8 := 0
  /-- banks that are on (R37), and banks that are gated -/
  bankOn : BitVec 8 := 0
  gated : BitVec 8 := 0xFF
  /-- banks added to the footprint that have not woken (R36) -/
  waking : BitVec 8 := 0
  rsoor : Word := 0
  oor : OorCycle := {}
  /-- k1 to k7 (R41) -/
  k : Table Mask := []
  flags : LaneFlags := 0
  /-- q0 to q7 and w0 to w3 (R44) -/
  q : Table Queue := []
  w : Table Queue := []
  slots : Table Handle := []
  kargs : Word := 0
  kernid : Word := 0
  xres : List XResult := []
  lacc : List LAccess := []
  /-- the access of the L instruction that waits at pc on full-empty bits (R230) -/
  feWait : Option LAccess := none
  /-- the MCJ at which S is blocked: its join record and its destination (R364) -/
  joinWait : Option (List Word × Reg) := none
  sacc : List SAccess := []
  /-- stamps that S's atomics returned from remote homes (R299) -/
  sdeps : List Nat := []
  nestRun : Option NestJob := none
  nestPend : Option NestJob := none
  rjobs : List RJob := []
  /-- MWAIT status accumulated since the last MWAIT (R200) -/
  mwait : Word := 0
  /-- arrival counter of the two engines (R193) -/
  arrivals : Nat := 0
  /-- granules that incomplete jobs write, and the bytes of them that another agent has written since the job started, by granule (R194) -/
  writing : List JobRange := []
  raced : Table Granule := []
  /-- the matrix engine and the resolver are stopped by the halt line (R407) -/
  mHalted : Bool := false
  rHalted : Bool := false
  /-- what an engine of the context (UNIT 3 or 4) raised, for its stop record (R410) -/
  engStop : Table (Seq × StopInfo) := []
  cell : Option CellInfo := none
  /-- tickets with their status (R277, R278), and those of BMV jobs (R287) -/
  tickets : Table JobStatus := []
  bmvJobs : List Nat := []
  /-- the latest stamps of each home among the writes of its BMV jobs that have completed (R289, R299) -/
  bmvStamps : List Nat := []
  /-- a result of them went to another package and is not known to be performed there (R297, R301) -/
  bmvFar : Bool := false
  /-- X or L has written the token word: the tokens are undefined (R272) -/
  tokenBad : Bool := false
  /-- S accesses issued so far, and the accesses that a waiting SIG includes (R327) -/
  sissued : Nat := 0
  sigWait : Option Nat := none
  /-- watchdog count, and the cycle in which a job of the context last progressed (R404) -/
  wdog : Nat := 0
  wdogAt : Nat := 0
deriving DecidableEq, Repr

/-- A parked context in a slot of the context pool (R419), with the stamps of its image's writes, which a fill waits for (R293). -/
structure Parked where
  ctx : Ctx
  wake : Nat
  ready : Bool
  stamps : List (Nat × Nat) := []
deriving DecidableEq, Repr

/-- An item of a finished cell in the retirement tracker (R318): its virtual ranges, none for a store through a handle, which takes no entry,
and what they wait for. -/
structure Tracked where
  ranges : List (Nat × Nat)
  /-- the store, or the ticket of the card or BMV job -/
  acc : Option SAccess
  ticket : Option Nat
  serial : Nat
  /-- tickets given out when the entry was made: a job with a later ticket is of a later cell (R319) -/
  since : Nat := 0
deriving DecidableEq, Repr

/-- A core: its context and shadow, and what belongs to the core and to no context. -/
structure CoreState where
  ctx : Ctx := {}
  shadow : Ctx := {}
  /-- MPROG (R52) -/
  mprog : Word := 0
  /-- HOOR and HOORK (R227) -/
  hoor : Word := 0
  hoork : Word := 0
  hoorCycle : HoorCycle := {}
  /-- TEMP, DROOP and the pass counter P (R315) -/
  temp : BitVec 4 := 0
  droop : BitVec 4 := 0
  passed : Nat := 0
  tracker : List Tracked := []
  /-- the kernel whose cell ran last since partition reset: partition and serial (R443) -/
  lastKernel : Option (Nat × Nat) := none
  parked : Table Parked := []
  /-- a park requested or under way with its wake time: not yet flipped (R418) -/
  parkReq : Option Nat := none
  /-- the slot and wake time of the context that the spill engine writes out of the shadow (R419) -/
  spilling : Option (Nat × Nat) := none
  /-- the placement that the core belongs to (R312, R314): partition, kernel serial, first core and size of the gang -/
  range : Option (Nat × Nat × Nat × Nat) := none
  /-- number of that placement -/
  place : Nat := 0
  /-- buffers whose slot was released while an access or engine request might still name it: kernel serial, slot, buffer (R318, R412, R417) -/
  returning : List (Nat × Nat × Handle) := []
deriving DecidableEq, Repr

/-! ## Memory beside DRAM bytes -/

/-- A granule of a cluster's SRAM pool (R224, R228): data, full-empty bit, validity bit, uncorrectable. -/
structure SramGranule where
  data : Granule := 0
  f : Bool := false
  q : Bool := true
  bad : Bool := false
deriving DecidableEq, Repr

/-- A reservation of a gang in a pool (R274, R314): partition and serial of the kernel, the first core of the gang, first stripe, stripes, number of the
placement. -/
structure Reservation where
  part : Nat
  serial : Nat
  gangBase : Nat
  base : Nat
  len : Nat
  place : Nat := 0
deriving DecidableEq, Repr

/-- The engine jobs that a sequencer issued: who is told of their end (R400). -/
structure Owner where
  core : Nat
  seq : Seq
  part : Nat
  serial : Nat
  /-- the ordinal of the cell that issued it (R410) -/
  ordinal : Nat := 0
  ticket : Nat
  fpc : BitVec 16
  parcels : BitVec 64
deriving DecidableEq, Repr

/-- A copy card (R280) with its progress. -/
structure Card where
  owner : Owner
  fill : Bool
  swait : Nat
  mire : Bool
  rows : Nat
  rowlen : Nat
  src : Word
  dst : Word
  sstride : Int
  dstride : Int
  pattern : Word
  /-- used regions: is it a write region, its base endpoint, its length -/
  regions : List (Bool × Word × Nat)
  started : Bool
  row : Nat
  off : Nat
  lost : Bool
  /-- latest stamp of each home among its writes (R296, R299) -/
  stamps : List Nat := []
  /-- some row leaves the card's write regions; bytes that it has written outside them, and what other agents have touched since it started (R282) -/
  strays : Bool := false
  outside : List Piece := []
  touched : List Piece := []
deriving DecidableEq, Repr

/-- Who waits on full-empty bits of a pool (R230): an L access, RCON, the matrix expander of a core, or the cluster's copy engine. -/
inductive FeAgent where
  | load (core : Nat)
  | ring (core : Nat)
  | nest (core : Nat)
  | card
deriving DecidableEq, Repr

/-- A wait on full-empty bits: who waits, for what, and in how many cycles it found its granules not all full (R230). -/
structure Waiter where
  agent : FeAgent
  pieces : List Piece
  unfull : Nat := 0
deriving DecidableEq, Repr

/-- A cluster: SRAM pool, copy engine. The copy engine keeps no data between chunks, so its holding buffer of R423 is empty (log entry 18). -/
structure Cluster where
  /-- regions [lo, hi) of undefined granules: contents are free granules from the third number (R228) -/
  fills : List (Nat × Nat × Nat) := []
  granules : Table SramGranule := []
  reserved : List Reservation := []
  /-- waits on full-empty bits, in the order in which they began (R230) -/
  waiters : List Waiter := []
  /-- RRSVs that have reached the slice and wait, in that order (R284): granule of the ring's counters and core -/
  reservers : List (Nat × Nat) := []
  /-- the cores that have consumed from each ring, by the granule of its counters (R286) -/
  consumers : Table (List Nat) := []
  /-- copy engine: the running card, its halt, what it raised -/
  card : Option Card := none
  halted : Bool := false
  stopInfo : Option StopInfo := none
  /-- its scrub is complete (R368, R380) -/
  scrubbed : Bool := true
deriving DecidableEq, Repr

/-! ## Lamplighter (R231 to R240) and shared streams (R355 to R358) -/

/-- A move entry of the running itinerary (R233) with its progress. -/
structure ItinEntry where
  hop : Nat
  mire : Bool
  table : Bool
  group : Nat
  size : Nat
  src : Nat
  /-- destination virtual address, or stripe offset in the buffer for hop 2 -/
  dst : Nat
  slot : Nat
  dcore : Nat
  due : Nat
  watch : Nat
  issued : Bool
  issueCycle : Nat
  /-- sequence number of a group entry once issued (R356) -/
  sequ : Option Nat
  /-- granules landed -/
  landed : List Nat
  /-- cycle in which it became late (R237) -/
  lateAt : Option Nat
  complete : Bool
  /-- an access of it faulted: it never completes (R234, R237) -/
  failed : Bool
  /-- it met page not present: it waits, and the entries of its hop behind it (R234) -/
  stalled : Bool := false
  /-- latest stamp of each home among its writes (R296, R299) -/
  stamps : List Nat := []
deriving DecidableEq, Repr

/-- The running itinerary (R231, R232). -/
structure Itinerary where
  owner : Owner
  addr : Nat
  win : List Nat
  thresh : Nat
  pace : Nat
  entries : List ItinEntry
  ended : Bool
  lost : Bool
  /-- stopped by a fault (R234) -/
  stopped : Option StopInfo
  /-- entries that became late before they were read: index among the move entries, hop, cycle (R237) -/
  lateAhead : List (Nat × Nat × Nat) := []
deriving DecidableEq, Repr

/-- The capture unit of a hop (R239, R240). -/
structure Capture where
  min : BitVec 32 := 0xFFFFFFFF
  max : BitVec 32 := 0
  cnt : BitVec 32 := 0
  lmax : BitVec 32 := 0
  hist : Table (BitVec 32) := []
deriving DecidableEq, Repr

/-- A local multicast group of a Lamplighter context (R355 to R358, R365). -/
structure McGroup where
  source : Bool
  streamId : BitVec 32
  /-- W and MEMBERS of a source -/
  window : Nat
  members : Nat
  /-- the context's own acknowledgement A_m -/
  ack : Nat
  /-- source: next sequence number -/
  nextSeq : Nat
  /-- member: destination of hop-2 deliveries, delivered and dropped counts, its acknowledgement -/
  dcore : Nat
  dslot : Nat
  delivered : Nat
  dropped : Nat
  ended : Bool
  /-- of the entries delivered, the sequence numbers beyond the first that has not been (R357) -/
  ahead : List Nat := []
  /-- source: it has issued sequence 0 (R358) -/
  begun : Bool := false
deriving DecidableEq, Repr

/-- A member of a stream in another package, as the switches report it: its number, A_m, and the entries whose copy has landed or been dropped there
(R356, R357). -/
structure FarMember where
  id : Nat
  ack : Nat := 0
  done : List Nat := []
deriving DecidableEq, Repr

/-- What this package knows of a stream's part in other packages (R355 to R358): whether its source is live there, with W, whether it has issued sequence
0, whether it has left; and the members there. -/
structure FarStream where
  source : Bool := false
  window : Nat := 0
  begun : Bool := false
  ended : Bool := false
  members : List FarMember := []
deriving DecidableEq, Repr

/-- A time in which pacing was on (R238): after its first cycle up to its last, with PACE and the cores that the itinerary's entries watched. -/
structure PaceSpan where
  first : Nat
  last : Nat
  pace : Nat
  cores : List Nat
deriving DecidableEq, Repr

/-- A Lamplighter context of one die and partition. -/
structure Lamp where
  waiting : List (Owner × Nat) := []
  running : Option Itinerary := none
  /-- what the last itinerary raised, for the stop record (R410), and the owner of its fault -/
  lastStopped : Bool := false
  stopInfo : Option (Owner × StopInfo) := none
  late : Table (BitVec 32) := []
  lateNow : Table Nat := []
  paceCyc : BitVec 32 := 0
  /-- the cycle in which pacing turned on, while it is on, and the times in which it was on (R238) -/
  paceFrom : Option Nat := none
  paceSpans : List PaceSpan := []
  cap : Table Capture := []
  groups : Table McGroup := []
  halted : Bool := false
deriving DecidableEq, Repr

/-! ## Request gatherer (R359 to R366) -/

/-- A batch: buffer number, the buffer's first stripe and stripes as RGCFG gave them when the batch opened, rows, when it opened, and when and why it
closed (R360, R361). -/
structure Batch where
  buf : Nat
  base : Nat
  len : Nat
  rows : Nat
  opened : Nat
  closed : Nat
  deadline : Bool
deriving DecidableEq, Repr

/-- A request-gatherer context. -/
structure Gatherer where
  ring : Word := 0
  logsize : BitVec 4 := 0
  en : Bool := false
  drain : Bool := false
  tail : BitVec 16 := 0
  head : BitVec 16 := 0
  cfg : Word := 0
  dead : BitVec 32 := 0
  issued : BitVec 32 := 0
  openBatch : Option Batch := none
  ready : List Batch := []
  /-- buffers in use -/
  used : List Nat := []
  stopped : Bool := false
  /-- sequencers that wait at RQGT, in the order in which they began (R361) -/
  waiters : List Nat := []
  halted : Bool := false
deriving DecidableEq, Repr

/-! ## Fen units and collectives -/

/-- A BMV job (R287, R288). -/
structure BmvJob where
  owner : Owner
  waddr : Nat
  xaddr : Nat
  yaddr : Nat
  stat : Nat
  m : Nat
  k : Nat
  wfmt : Nat
  nv : Nat
  wrow : Nat
  xstr : Nat
  ystr : Nat
  row : Nat
  /-- 64-byte words of W and x read as zeros -/
  lost : List Nat
  nan : Bool
  inf : Bool
  /-- stopped by a fault (R288) -/
  stopped : Option StopInfo
  /-- dependency vector at its issue, and the latest stamp of each home among its writes (R296, R299) -/
  deps : List Nat := []
  stamps : List Nat := []
  /-- a result of it went to another package (R297, R301) -/
  far : Bool := false
deriving DecidableEq, Repr

/-- A collective record (R342). -/
structure CollRec where
  op : Nat
  rop : Nat
  mire : Bool
  int64 : Bool
  order : Bool
  group : Nat
  collid : BitVec 32
  x : Int
  timeout : Nat
  root : Nat
  len : Nat
  pbase : Nat
  src : Word
  dst : Word
  cnta : Word
  stat : Word
  cidx : Nat
  cen : Bool
  /-- BOUND, PSTR, SSTR, DSTR of levels 0 to 5 -/
  levels : List (Nat × Int × Int × Int)
deriving DecidableEq, Repr

/-- A job of the collective walker (R353). -/
structure CollJob where
  owner : Owner
  record : CollRec
  admitted : Bool
  /-- next block to emit -/
  block : Nat
  emitted : Bool
  landed : List Nat
  lost : Nat
  /-- RESULT once the job has ended with an error -/
  failed : Option Nat
  /-- what stopped the job on a fault, for the stop record (R410) -/
  stopped : Option StopInfo
  /-- S accesses of the issuing core numbered below this are visible to the job's reads (R363) -/
  after : Nat
deriving DecidableEq, Repr

/-- The walker queue of one die and partition (R353). -/
structure Walker where
  /-- jobs in queue order; those whose emission has ended stay until complete -/
  jobs : List CollJob := []
  lastCollid : Option (BitVec 32) := none
  halted : Bool := false
deriving DecidableEq, Repr

/-- A block in a reduction context of a switch (R346, R349). -/
structure SwBlock where
  collid : BitVec 32
  blk : Nat
  count : Nat
  acc : List Int
  arrived : List Nat
  timer : Option Nat
  closed : Bool
deriving DecidableEq, Repr

/-- A switch (R341, R349): contexts in use by collective, its blocks, stragglers discarded by group. -/
structure Switch where
  live : List (BitVec 32) := []
  blocks : List SwBlock := []
  late : Table Nat := []
deriving DecidableEq, Repr

/-- A fabric group as system software configures it (R340, R341): members, bound partition, and its tree: the top switch and, when
there are two levels, the leaf switches with their members. -/
structure Group where
  members : List Nat
  part : Nat
  top : Nat
  leaves : List (Nat × List Nat)
deriving DecidableEq, Repr

/-- A collective at its top switch (R351, R352). -/
structure LiveColl where
  group : Nat
  collid : BitVec 32
  record : CollRec
  admitted : Bool
  /-- members whose end marker has arrived (R349) -/
  ends : List Nat
  firstContribution : Option Nat
  /-- the cycle in which the top switch started every block timer (R349) -/
  allTimers : Option Nat
  /-- blocks closed at the top switch -/
  closed : Nat
  /-- blocks of a broadcast whose flit has left the switch towards this package (R341) -/
  sent : List Nat := []
  /-- blocks that a broadcast's root will have sent, once its job has stopped short (R341) -/
  cut : Option Nat := none
  /-- every context has been released -/
  finished : Bool
deriving DecidableEq, Repr

/-- What leaves the package over the fabric (R338, R357). -/
inductive FabricOut where
  | write (pkg off : Nat) (bytes : List Byte)
  | atomic (pkg off : Nat)
  | put (group peer dst : Nat) (b : WireBlock)
  | contribution (switch child : Nat) (b : WireBlock)
  | data (b : WireBlock)
  | result (b : WireBlock)
  | multicast (streamId : BitVec 32) (member sequ : Nat)
deriving DecidableEq, Repr

/-! ## Translation caches -/

/-- Where translations are cached (R382): the TLB of a core; the stream TLBs of a Lamplighter hop, a copy engine, a collective walker, a fabric
receive unit, a request gatherer and a die's bank-compute front end; the walk cache of a die; the export-map entries that fabric receive units keep (R383). -/
inductive Translator where
  | core (c : Nat)
  | hop (die h : Nat)
  | copy (cluster : Nat)
  | walker (die : Nat)
  | receive (die : Nat)
  | gatherer (die : Nat)
  | bank (die : Nat)
  | walk (die : Nat)
  | exportMap
deriving DecidableEq, Repr

/-! ## Partitions, streams and kernels -/

/-- A stream queue (R305, R316). -/
structure Stream where
  base : Word := 0
  logsize : BitVec 4 := 0
  prio : BitVec 2 := 0
  en : Bool := false
  tail : BitVec 16 := 0
  head : BitVec 16 := 0
  state : BitVec 2 := 0
  err : BitVec 8 := 0
  serial : BitVec 32 := 0
  done : Word := 0
  /-- effective priority above PRIO (R316) -/
  boost : Nat := 0
  agedAt : Nat := 0
  /-- records taken and not ended (a kernel resident early is the second) (R321) -/
  taken : Nat := 0
  /-- the record taken, as 8 words, until its kernel is resident or it ends (R306) -/
  record : List Word := []
  /-- records still to be taken that a write of SQTAIL made undefined (R305) -/
  undefs : Nat := 0
  /-- placements of other streams' kernels at E = 4 since this one waits at E = 4 with a ready cell (R334) -/
  overtaken : Nat := 0
deriving DecidableEq, Repr

/-- A range task of a kernel (R312): [next, hi) on a die, with the placement (first core) that owns it. -/
structure RangeTask where
  next : Nat
  hi : Nat
  die : Nat
  owner : Option Nat
deriving DecidableEq, Repr

/-- A resident kernel (R307 to R322). -/
structure Kernel where
  serial : BitVec 32
  stream : Nat
  prio : BitVec 2
  kargs : BitVec 56
  /-- the kernel record as 32 words (R308) -/
  record : List Word
  cen : Bool
  cidx : Nat
  early : Bool
  cells : Nat
  ranges : List RangeTask
  /-- ordinals started, ended and passed SMS -/
  started : List Nat
  ended : List Nat
  passedSms : List Nat
  /-- ordinals placed again after a die was lost, as ranges [lo, hi) (R332) -/
  reissued : List (Nat × Nat)
  /-- the code image as read when the kernel became resident (R308) -/
  codeL : Table Parcel
  codeX : Table Parcel
  codeS : Table Parcel
  /-- starts no further cell: lost non-reissuable, or abandoned with this ERR (R333, R412) -/
  failed : Option Nat
deriving DecidableEq, Repr

/-- The halt state of a partition (R405, R411). -/
structure Halt where
  raised : Bool := false
  /-- the cycle in which it was raised -/
  raisedAt : Nat := 0
  /-- cause, package core number and unit of the first origin -/
  cause : BitVec 8 := 0
  core : Nat := 0
  unit : Nat := 0
  serial : Nat := 0
  halted : Bool := false
  norec : Bool := false
  resumable : Bool := false
  debug : Bool := false
  count : BitVec 32 := 0
deriving DecidableEq, Repr

/-- A token bucket (R376). -/
structure Bucket where
  rate : BitVec 24 := 0xFFFFFF
  burst : BitVec 24 := 0xFFFFFF
  /-- the values that apply since the last boundary -/
  rateNow : BitVec 24 := 0xFFFFFF
  burstNow : BitVec 24 := 0xFFFFFF
  tokens : Nat := 0
  /-- tokens that a request larger than the bucket has drawn so far (R376; log entry 96) -/
  saved : Nat := 0
deriving DecidableEq, Repr

/-- The steps of a partition reset (R378): none runs, it runs, it runs as part of a destroy. -/
inductive ResetStage where
  | idle | draining | destroying
deriving DecidableEq, Repr

/-- A partition. -/
structure Partition where
  clusters : BitVec 36 := 0
  ktlbi : Bool := false
  err : Bool := false
  en : Bool := false
  asid : BitVec 16 := 0
  proot : BitVec 52 := 0
  reset : ResetStage := .idle
  pirq : BitVec 4 := 0
  pimask : BitVec 4 := 0xF
  dbgok : Bool := false
  consentRd : Bool := false
  consentWr : Bool := false
  budget : BitVec 32 := 0
  wdog : BitVec 32 := 0x00400000
  stopbase : BitVec 56 := 0
  cxpool : BitVec 56 := 0
  cxper : BitVec 3 := 0
  halt : Halt := {}
  streams : Table Stream := []
  cnt : Table Word := []
  ageq : BitVec 32 := 65536
  nextSerial : BitVec 32 := 0
  kernels : List Kernel := []
  /-- key slots 0 to 15 (R387) -/
  keys : Table (BitVec 768) := []
  integrity : BitVec 256 := 0
  transport : Option (BitVec 256) := none
  share : BitVec 256 := 0
  /-- buckets by 4 d + r (R376) -/
  buckets : Table Bucket := []
  /-- the core placed last on each die (R315), and the stream served last (R316) -/
  lastPlaced : Table Nat := []
  lastStream : Nat := 63
  /-- pages whose requests were answered with FAIL, each with the engine, by its translations, whose job waits on it and now stops (R403) -/
  failedPages : List (Nat × Option Translator) := []
  /-- flits that arrived while the partition was debug-halted, oldest first (R423) -/
  held : List Instr := []
deriving DecidableEq, Repr

/-! ## A die -/

/-- The key under which a 64-byte line was written (R214, R387, R392). -/
structure LineTag where
  key : BitVec 768
  integrity : BitVec 256
deriving DecidableEq, Repr

/-- What belongs to a 64-byte line beside its bytes: the key it was written under, and whether the word is uncorrectable (R214, R219). -/
structure LineMeta where
  tag : Option LineTag := none
  lost : Bool := false
deriving DecidableEq, Repr

/-- An update of remote lines in flight to a die (R294, R299): bytes, and what then belongs to each line. -/
structure Update where
  home : Nat
  stamp : Nat
  deps : List Nat
  cells : List (Nat × Byte)
  lines : Table LineMeta := []
deriving DecidableEq, Repr

/-- A migration block (R246) and a migration in progress (R247, R248). -/
structure Migration where
  base : BitVec 52 := 0
  rdth : BitVec 16 := 0
  wrth : BitVec 16 := 0
  ptea : BitVec 52 := 0
  pteb : BitVec 52 := 0
  frame : BitVec 52 := 0
  mode : Bool := false
  busy : Bool := false
  result : BitVec 2 := 0
  logsize : BitVec 4 := 0
  ring : BitVec 52 := 0
  rtail : BitVec 32 := 0
  ovf : Bool := false
  rhead : BitVec 32 := 0
  /-- partition whose translations the running request changes, and the versions of FA's frames at its start (R248) -/
  part : Nat := 0
  /-- the partition of page B of a swap (R249) -/
  partB : Nat := 0
  wver : List (BitVec 32) := []
deriving DecidableEq, Repr

/-- A die: its view's lag, its clocks, engines and health. -/
structure Die where
  /-- bytes whose latest write the die has not applied, with the value it still shows (R294) -/
  lag : List (Nat × Byte) := []
  /-- the same for what belongs to a line -/
  lagLines : Table LineMeta := []
  inbox : List Update := []
  /-- the last stamp applied from each home die (R299) -/
  clock : Table Nat := []
  lamps : Table Lamp := []
  gatherers : Table Gatherer := []
  walkers : Table Walker := []
  /-- the partition whose queue the collective walker served last (R353) -/
  lastEmit : Nat := 7
  /-- copy cards in arrival order, of each partition (R282) -/
  cards : Table (List Card) := []
  bmv : List BmvJob := []
  /-- partitions whose BMV front end the halt line has stopped -/
  bmvHalted : List Nat := []
  mig : Migration := {}
  /-- correctable errors counted (R219) -/
  eccCount : Nat := 0
  fenced : Bool := false
deriving DecidableEq, Repr

/-! ## Management -/

/-- A page request (R403). -/
structure PageRequest where
  part : Nat
  access : BitVec 2
  tag : Nat
  page : Nat
  popped : Bool
  cancel : Bool
  /-- the engines that wait on it, by their translations -/
  waiters : List (Option Translator) := []
deriving DecidableEq, Repr

/-- The debug block (R422). -/
structure DebugBlock where
  part : BitVec 3 := 0
  attach : Bool := false
  core : BitVec 10 := 0
  seq : BitVec 2 := 0
  eng : BitVec 3 := 0
  stepping : Bool := false
  stepFault : Bool := false
  /-- the sequencer of the step that has not finished -/
  stepCore : Nat := 0
  stepSeq : Seq := .L
  sel : Word := 0
deriving DecidableEq, Repr

/-- Boot (R396). -/
inductive Boot where
  | inReset | stage1 | ready | failed
deriving DecidableEq, Repr

/-- The counters of CXL lines (R389 to R391), numbered from the base of the CXL window. -/
structure CxlCounters where
  /-- MAJOR by 4 KiB group, MINOR by line -/
  major : Table Word := []
  minor : Table (BitVec 6) := []
  /-- for each level of the tree, from level 1, the counter of each child by its number: children of level 1 are counter blocks -/
  node : Table (Table (BitVec 56)) := []
  /-- ranges of 64 KiB frames re-keyed, one for each time: a frame's epoch is the number of ranges that hold it, and a frame that more than 255 hold
  takes no more writes -/
  rekeyed : List (Nat × Nat) := []
  /-- counter blocks (level 0) and tree nodes in memory, by level and number, whose MAC is under a tree key of an earlier boot (R387, R392) -/
  stale : List (Nat × Nat) := []
deriving DecidableEq, Repr

/-- A granule of another package as this package knows it (R293, R303): how often others have written it, and the bytes that this package has written
since. -/
structure FarGranule where
  version : Nat := 0
  known : Granule := 0
  data : Granule := 0
deriving DecidableEq, Repr

/-- An MSI-X message sent (R371, R375): by PF0 or by a partition's function. -/
inductive Message where
  | pf0 (vector : Nat)
  | vf (part vector : Nat)
deriving DecidableEq, Repr

/-- An attestation report that the part has given (R398): what it holds, and the signature. -/
structure Report where
  contents : List Nat
  signature : BitVec 512
deriving DecidableEq, Repr

/-- The management side of the package. -/
structure Management where
  mirq : BitVec 6 := 0
  mimask : BitVec 6 := 0x3F
  mirst : BitVec 8 := 0
  mifence : BitVec 4 := 0
  /-- PWRLIM.LIMIT as written: it reads back as the minimum with the fuse (R371) -/
  pwrlim : Option (BitVec 16) := none
  pwrmeas : BitVec 16 := 0
  /-- idle cycles the power limit asks for after a beat (R28) -/
  throttle : Nat := 0
  cxlpop : BitVec 15 := 0
  cxldata : BitVec 15 := 0
  expbase : BitVec 52 := 0
  /-- consent of export units (R374, R394): 8 × unit + partition for each grant -/
  exports : List Nat := []
  invPage : BitVec 56 := 0
  invAsid : BitVec 16 := 0
  invKind : BitVec 2 := 0
  invBusy : Bool := false
  /-- KIND, ASID and PAGE of the invalidation that runs -/
  invRun : Nat × BitVec 16 × Nat := (0, 0, 0)
  ksdata : Table Word := []
  ksPart : BitVec 3 := 0
  ksSlot : BitVec 4 := 0
  ksBusy : Bool := false
  ksResult : BitVec 2 := 0
  draws : Nat := 0
  treeKey : BitVec 256 := 0
  prq : List PageRequest := []
  prqva : BitVec 56 := 0
  prqhead : Word := 0
  dbg : DebugBlock := {}
  meas : Table (BitVec 512) := []
  boot : Boot := .inReset
  /-- the sealed allow-list of ports (R396) -/
  ports : List Nat := []
  /-- the sealed routes: a port and the package that it leads to (R393) -/
  routes : List (Nat × Nat) := []
  reports : List Report := []
  /-- a failure reported over the sideband (R19, R399) -/
  failure : Bool := false
  /-- the die whose distributor is master (R15, R426) -/
  master : Nat := 0
  messages : List Message := []
  /-- read data of the last management memory access, or refused (R394) -/
  portResult : Option (Option (BitVec 512)) := none
  /-- read data of the last host window access (R395) or remote access (R337), none where it failed -/
  windowResult : Option (List Byte) := none
deriving DecidableEq, Repr

/-- A cached table entry (R382): who caches it, the partition's ASID, the virtual page and its size in bits, the entry. A walk cache holds entries with
LEAF = 0, each for the span that its table entry covers. -/
structure TlbEntry where
  owner : Translator
  asid : BitVec 16
  page : Nat
  size : Nat
  leaf : Word
deriving DecidableEq, Repr

/-! ## The whole machine -/

/-- Who acts next (log entry 3): a sequencer of a core, or one indivisible step of another agent. -/
inductive Turn where
  | seq (core : Nat) (q : Seq)
  | event (i : Instr)
deriving DecidableEq, Repr

/-- The state of the machine. -/
structure State where
  /-- CYCLE (R51) -/
  cycle : Nat := 0
  cores : Table CoreState := []
  clusters : Table Cluster := []
  dies : Table Die := []
  parts : Table Partition := []
  mgmt : Management := {}
  /-- DRAM bytes by physical address: the last write performed at the home (R293), canonical; unlisted bytes read 0 (log entry 4) -/
  mem : List Host.Cell := []
  /-- uncorrectable 64-byte ECC words (R219), by word number -/
  lostWords : List Nat := []
  /-- the key each line was last written under, by line number (R214) -/
  lineTags : Table LineTag := []
  cxl : CxlCounters := {}
  tlb : List TlbEntry := []
  /-- entries evicted or replaced while updates of their page were still to be installed: an unmap waits for these too (R296, R383) -/
  tlbGone : List TlbEntry := []
  /-- FABID.PKG and DSIZE (R336) -/
  pkg : Nat := 0
  dsize : Nat := 1
  groups : Table Group := []
  switches : Table Switch := []
  colls : List LiveColl := []
  fabricOut : List FabricOut := []
  /-- by STREAMID, what other packages hold of a stream (R355 to R358) -/
  far : Table FarStream := []
  /-- granules of other packages, by 2^30 × package and number of the granule in its export window (R293, R337) -/
  farMem : Table FarGranule := []
  /-- tickets given out so far (R277; log entry 9) -/
  ticketCtr : Nat := 0
  /-- placements made so far (R314) -/
  placeCtr : Nat := 0
  /-- model: free values taken so far (log entry 6) -/
  freeCtr : Nat := 0
  /-- model: what the outside makes happen next (log entry 3) -/
  agenda : List Turn := []
  /-- model: whose turn it is when the agenda is empty (log entry 3) -/
  cur : Nat × Seq := (0, .L)
deriving DecidableEq, Repr

/-- The machine right after reset: package reset with nothing configured (R396, R378 step 6 and the reset columns of the
register maps). -/
def State.reset : State := {}

/-! ## Stops of the model -/

/-- Faults of the model. No fault of the manual is one: they are next states with the halt line raised (R405). -/
inductive Fault where
  /-- a turn of the agenda names a core, cluster, die, partition, stream or granule that the package does not have (R10, R305, R368); raised
  by the turn (Agents), before any meaning runs. Safe: no such agent exists -/
  | noSuchUnit
deriving DecidableEq, Repr

/-- Refusals of the model. -/
inductive Refusal where
  /-- no meaning yet for the instruction; raised by the dispatch alone. Safe: nothing is claimed of it -/
  | notModelled (mnemonic : String)
deriving DecidableEq, Repr

end Sys2Proof.Machine
end

