-- ==== Sys2Proof/Machine/Ops.lean ====
section
/-! DEFINITION. The named operations over the state that every meaning is written with: reaching cores, partitions, dies
and clusters; g registers; free values; completing an instruction and the end-of-body test (R96); the halt line (R405),
taking a fault, taking a trap (R414) and returning from one (R415); landing X results (R68); interrupts (R371, R375). -/

namespace Sys2Proof.Machine

/-- The outcome type of a meaning. -/
abbrev Res := Host.Outcome State Fault Refusal

/-! ## Reaching a part of the state -/

/-- A core. -/
def getCore (s : State) (c : Nat) : CoreState := tget {} s.cores c
/-- Replace a core. -/
def setCore (s : State) (c : Nat) (x : CoreState) : State := { s with cores := tput s.cores c x }
/-- A cluster 9d + c. -/
def getCluster (s : State) (c : Nat) : Cluster := tget {} s.clusters c
/-- Replace a cluster. -/
def setCluster (s : State) (c : Nat) (x : Cluster) : State := { s with clusters := tput s.clusters c x }
/-- A die. -/
def getDie (s : State) (d : Nat) : Die := tget {} s.dies d
/-- Replace a die. -/
def setDie (s : State) (d : Nat) (x : Die) : State := { s with dies := tput s.dies d x }
/-- A partition. -/
def getPart (s : State) (p : Nat) : Partition := tget {} s.parts p
/-- Replace a partition. -/
def setPart (s : State) (p : Nat) (x : Partition) : State := { s with parts := tput s.parts p x }

/-- Die of a core (R10). -/
def dieOfCore (c : Nat) : Nat := c / 144
/-- Cluster 9d + c of a core (R10). -/
def clusterOfCore (c : Nat) : Nat := c / 16
/-- Die of a cluster. -/
def dieOfCluster (c : Nat) : Nat := c / 9

/-- The enabled partition that owns a cluster (R368). -/
def partOfCluster (s : State) (c : Nat) : Option Nat :=
  firstIndex (fun p => (getPart s p).en && bitOf (getPart s p).clusters.toNat c) 8

/-- The enabled partition that owns a core. -/
def partOfCore (s : State) (c : Nat) : Option Nat := partOfCluster s (clusterOfCore c)

/-- The clusters of a partition. -/
def clustersOf (s : State) (p : Nat) : List Nat := indicesOf (bitOf (getPart s p).clusters.toNat) 36

/-- The cores of a partition, ascending. -/
def coresOf (s : State) (p : Nat) : List Nat := (clustersOf s p).flatMap fun c => (List.range 16).map (16 * c + ·)

/-- The dies on which a partition holds clusters. -/
def diesOf (s : State) (p : Nat) : List Nat := indicesOf (fun d => (clustersOf s p).any fun c => dieOfCluster c == d) 4

/-- A sequencer of a context. -/
def ctxSeq (x : Ctx) : Seq → SeqState
  | .L => x.seqL
  | .X => x.seqX
  | .S => x.seqS

/-- Replace a sequencer of a context. -/
def setCtxSeq (x : Ctx) : Seq → SeqState → Ctx
  | .L, q => { x with seqL := q }
  | .X, q => { x with seqX := q }
  | .S, q => { x with seqS := q }

/-- The active context of a core. -/
def getCtx (s : State) (c : Nat) : Ctx := (getCore s c).ctx
/-- Replace the active context of a core. -/
def setCtx (s : State) (c : Nat) (x : Ctx) : State := setCore s c { getCore s c with ctx := x }
/-- A sequencer of a core. -/
def getSeq (s : State) (c : Nat) (q : Seq) : SeqState := ctxSeq (getCtx s c) q
/-- Replace a sequencer of a core. -/
def setSeq (s : State) (c : Nat) (q : Seq) (v : SeqState) : State := setCtx s c (setCtxSeq (getCtx s c) q v)

/-- The context of the executing sequencer. -/
def curCtx (s : State) : Ctx := getCtx s s.cur.1
/-- Replace the context of the executing sequencer. -/
def setCurCtx (s : State) (x : Ctx) : State := setCtx s s.cur.1 x
/-- The executing sequencer. -/
def curSeq (s : State) : SeqState := getSeq s s.cur.1 s.cur.2
/-- Replace the executing sequencer. -/
def setCurSeq (s : State) (v : SeqState) : State := setSeq s s.cur.1 s.cur.2 v

/-! ## g registers (R39) -/

/-- A g register of a sequencer: g0 reads as zero. -/
def regOf (q : SeqState) (r : Reg) : Word := if r = 0 then 0 else tget 0 q.g r.toNat

/-- A sequencer with a g register written: writes of g0 are discarded. -/
def withReg (q : SeqState) (r : Reg) (v : Word) : SeqState := if r = 0 then q else { q with g := tput q.g r.toNat v }

/-- Read a g register of the executing sequencer. -/
def rd (s : State) (r : Reg) : Word := regOf (curSeq s) r

/-- Write a g register of the executing sequencer. -/
def wr (s : State) (r : Reg) (v : Word) : State := setCurSeq s (withReg (curSeq s) r v)

/-- Write a g register whose readers issue no earlier than n cycles later, and no earlier than every earlier write to it has landed (R81, R82). -/
def wrAt (s : State) (r : Reg) (v : Word) (n : Nat) : State :=
  let q := curSeq s
  setCurSeq s (withReg { q with gready := tput q.gready r.toNat (max (tget 0 q.gready r.toNat) (q.clock + n)) } r v)

/-- Write a g register of a named sequencer. -/
def wrSeq (s : State) (c : Nat) (q : Seq) (r : Reg) (v : Word) : State := setSeq s c q (withReg (getSeq s c q) r v)

/-! ## Free values (R7; log entry 6) -/

/-- Advance the counter of free values. -/
def takeFree (s : State) (n : Nat) : State := { s with freeCtr := s.freeCtr + n }

/-- The next free 64-bit value. -/
def freeW (s : State) : Word := Config.freeWord s.freeCtr

/-! ## Instruction stores and program counters (R12, R54, R56) -/

/-- Parcels of a sequencer's instruction store (R12). -/
def storeParcels : Seq → Nat
  | .L => 4096
  | .X => 16384
  | .S => 4096

/-- The parcel at a parcel number of a store: zero beyond what is loaded (R308). -/
def parcelAt (q : SeqState) (n : Nat) : Parcel := tget 0 q.istore n

/-- The parcels a stop record shows at an address: parcel 1 is zero for a control instruction (R410). -/
def parcelsAt (q : SeqState) (pc : Nat) : BitVec 64 :=
  let p0 := parcelAt q (pc / 4)
  let p1 : Parcel := if bitOf p0.toNat 31 then parcelAt q (pc / 4 + 1) else 0
  p1 ++ p0

/-- A program address meets R56: a multiple of 4 inside the store. -/
def goodTarget (sq : Seq) (a : Nat) : Bool := a % 4 == 0 && a / 4 < storeParcels sq

/-! ## Completing an instruction -/

/-- The youngest active record of the current level whose body ends at an address (R96). -/
def youngestAt (lc : Table LoopRec) (level : BitVec 2) (last : Nat) : Option Nat :=
  let hit (n : Nat) : Bool :=
    let r := tget {} lc n
    r.active && r.level == level && r.stop.toNat == last
  (List.range 4).foldl (fun best n =>
    if hit n then
      match best with
      | none => some n
      | some m => if (tget {} lc m).age < (tget {} lc n).age then some n else some m
    else best) none

/-- The end-of-body test of R96, youngest record first: the records after it and where control goes back to, if it does. -/
def endOfBody (lc : Table LoopRec) (level : BitVec 2) (last : Nat) : Nat → Table LoopRec × Option Nat
  | 0 => (lc, none)
  | n + 1 =>
    match youngestAt lc level last with
    | none => (lc, none)
    | some i =>
      let r := tget {} lc i
      if 2 ≤ r.count.toNat then (tput lc i { r with count := r.count - 1 }, some r.start.toNat)
      else endOfBody (tput lc i { r with count := 0, active := false }) level last n

/-- A sequencer after an instruction of len parcels at address p completes without transferring control, with the end-of-body
test applied (R96). -/
def fallThrough (q : SeqState) (p len : Nat) : SeqState :=
  let (lc, back) := endOfBody q.lc q.tlevel (p + 4 * len - 4) 4
  { q with lc := lc, pc := BitVec.ofNat 32 (back.getD (p + 4 * len)) }

/-- What every completed instruction leaves: no wait, and the next issue n cycles later (R67, R82). -/
def issued (q : SeqState) (n : Nat) : SeqState :=
  { q with wait := .none, pageFail := false, pageTag := none, wakeAt := none, clock := q.clock + n, waitc := 0 }

/-- The watchdog of a context counts from 0 after a job of it has progressed in cycle now (R404). -/
def petJob (now : Nat) (x : Ctx) : Ctx := { x with wdog := 0, wdogAt := now }

/-- A job has progressed: the context that issued it, where it still runs on its core, is not stuck (R404). -/
def progress (s : State) (o : Owner) : State :=
  let x := getCtx s o.core
  match x.cell with
  | some e => if e.part == o.part && e.serial == o.serial then setCtx s o.core (petJob s.cycle x) else s
  | none => s

/-- The watchdog of a context counts from 0 after an instruction issues (R404). -/
def petWatchdog (s : State) : State := setCurCtx s { curCtx s with wdog := 0 }

/-- The executing sequencer's instruction of len parcels completes; the next issues n cycles later. -/
def finish (len n : Nat) (s : State) : State :=
  let q := curSeq s
  petWatchdog (setCurSeq s (issued (fallThrough q q.pc.toNat len) n))

/-- The executing sequencer transfers control to an address. -/
def jumpTo (a : Nat) (n : Nat) (s : State) : State :=
  petWatchdog (setCurSeq s (issued { curSeq s with pc := BitVec.ofNat 32 a } n))

/-- The instruction is blocked: it has not issued and nothing changes but what the sequencer waits for (R401, R406). -/
def block (w : Wait) (s : State) : Res := .next (setCurSeq s { curSeq s with wait := w })

/-! ## Interrupts (R371, R375) -/

/-- Set cause bits of PIRQ; a message is sent for each enabled bit that rises. While a partition reset runs, a cause is
discarded (R379). -/
def setPirq (s : State) (p bit : Nat) : State :=
  let x := getPart s p
  if x.reset != .idle then s
  else
    let fire := !bitOf x.pirq.toNat bit && bitOf x.pimask.toNat bit
    let s := setPart s p { x with pirq := x.pirq ||| BitVec.ofNat 4 (2 ^ bit) }
    if fire then { s with mgmt := { s.mgmt with messages := s.mgmt.messages ++ [.vf p bit] } } else s

/-- Set a bit of MIRQ; PF0 sends a message when it rises and is enabled (R371). -/
def setMirq (s : State) (bit : Nat) : State :=
  let m := s.mgmt
  let fire := !bitOf m.mirq.toNat bit && bitOf m.mimask.toNat bit
  { s with mgmt := { m with mirq := m.mirq ||| BitVec.ofNat 6 (2 ^ bit),
                            messages := if fire then m.messages ++ [.pf0 bit] else m.messages } }

/-! ## Cause codes (R400) and the halt line (R405) -/

def causeTrap : BitVec 8 := 0x01
def causeBrk : BitVec 8 := 0x02
def causeIllegal : BitVec 8 := 0x10
def causeAlignment : BitVec 8 := 0x11
def causeTranslation : BitVec 8 := 0x12
def causeProtection : BitVec 8 := 0x13
def causeLayout : BitVec 8 := 0x14
def causeHandle : BitVec 8 := 0x15
def causeAlias : BitVec 8 := 0x16
def causeNest : BitVec 8 := 0x17
def causeCard : BitVec 8 := 0x18
def causeItinerary : BitVec 8 := 0x19
def causeDram : BitVec 8 := 0x20
def causeChecksum : BitVec 8 := 0x21
def causeSram : BitVec 8 := 0x22
def causeCxl : BitVec 8 := 0x23
def causeTable : BitVec 8 := 0x24
def causeFabric : BitVec 8 := 0x25
def causeWatchdog : BitVec 8 := 0x30
def causeThird : BitVec 8 := 0x31
def causeDebug : BitVec 8 := 0x40
def causePeer : BitVec 8 := 0x41

/-- The Resumable column of R400 (a nest fault at a job's start is passed as not resumable by its raiser). -/
def resumableCause (c : BitVec 8) : Bool :=
  [causeIllegal, causeAlignment, causeTranslation, causeProtection, causeLayout, causeHandle, causeAlias, causeNest, causeCard,
   causeWatchdog, causeDebug, causeBrk].contains c

/-- UNIT codes of R410. -/
def unitOfSeq : Seq → Nat
  | .L => 0
  | .X => 1
  | .S => 2

/-- An origin goes before the one that HALTST holds: they fall in the same cycle, and its core number is the lower, or on one core its unit's (R405). -/
def originWins (s : State) (h : Halt) (core unit : Nat) : Bool :=
  h.raisedAt == s.cycle && !h.halted && (core < h.core || (core == h.core && unit < h.unit))

/-- Raise a partition's halt line (R405): HALTST keeps the first origin. During a partition reset a fault is discarded (R379). -/
def raiseHalt (s : State) (p : Nat) (cause : BitVec 8) (core unit serial : Nat) (resumable debug : Bool) : State :=
  let x := getPart s p
  if x.reset != .idle then s
  else if x.halt.raised then
    let h := { x.halt with debug := x.halt.debug || debug }
    setPart s p { x with halt := if originWins s x.halt core unit then
        { h with cause := cause, core := core, unit := unit, serial := serial, resumable := resumable } else h }
  else
    setPart s p { x with halt := { x.halt with raised := true, raisedAt := s.cycle, cause := cause, core := core, unit := unit, serial := serial,
                                               halted := false, norec := false, resumable := resumable, debug := debug,
                                               count := if x.halt.count = 0xFFFFFFFF then x.halt.count else x.halt.count + 1 } }

/-- The halt line of a partition is raised, its halt is not complete, and n cycles have passed since it was raised: a sequencer has then stopped issuing
(n = 64 + 16), an engine is at its stop point (n = 64 + 256) (R405). -/
def haltBound (s : State) (p n : Nat) : Bool :=
  let h := (getPart s p).halt
  h.raised && !h.halted && decide (h.raisedAt + n ≤ s.cycle)

/-- The cycle in which a unit stops that the model stops now: no later than its bound (R405). -/
def stopCycle (s : State) (p n : Nat) : Nat := min s.cycle ((getPart s p).halt.raisedAt + n)

/-- Serial of the kernel that a core's context runs (KERNID.SERIAL). -/
def serialOfCore (s : State) (c : Nat) : Nat := fieldOf (getCtx s c).kernid 0 32

/-- The ordinal of the cell of a context, and of a core's active one. -/
def ctxOrdinal (x : Ctx) : Nat := match x.cell with
  | some e => e.ordinal % 2 ^ 48
  | none => 0
def ordinalOfCore (s : State) (c : Nat) : Nat := ctxOrdinal (getCtx s c)

/-- Raise the halt line of the partition of a core, from one of its sequencers. -/
def raiseFrom (s : State) (c : Nat) (sq : Seq) (cause : BitVec 8) (resumable : Bool) : State :=
  match partOfCore s c with
  | some p => setPirq (raiseHalt s p cause c (unitOfSeq sq) (serialOfCore s c) resumable false) p 0
  | none => s

/-- A precise fault of the executing sequencer (R74, R406): no effect, the sequencer stops at the instruction and is an
origin of its partition's halt line. EADDR names the granule of the address given (R218, R410). -/
def takeFault (cause : BitVec 8) (eaddr : Nat) (s : State) : State :=
  let q := curSeq s
  let info : StopInfo := { cause := cause, eaddr := BitVec.ofNat 56 (eaddr / 16 * 16), fpc := q.pc.setWidth 16,
                           parcels := parcelsAt q q.pc.toNat, imprecise := false }
  raiseFrom (setCurSeq s { q with origin := some info, halted := true, haltedAt := s.cycle, wait := .none, pageFail := false, pageTag := none })
    s.cur.1 s.cur.2 cause (resumableCause cause)

/-- The outcome of a precise fault. -/
def fault (cause : BitVec 8) (eaddr : Nat) (s : State) : Res := .next (takeFault cause eaddr s)

/-- The illegal-instruction fault. -/
def illegal (s : State) : Res := fault causeIllegal 0 s

/-- A machine fault of an access that a sequencer issued earlier (R406): the stop record names the access, the sequencer stops
at the first instruction not yet issued. -/
def machineFault (s : State) (c : Nat) (sq : Seq) (cause : BitVec 8) (eaddr : Nat) (fpc : BitVec 16) (parcels : BitVec 64) : State :=
  let q := getSeq s c sq
  let info : StopInfo := { cause := cause, eaddr := BitVec.ofNat 56 eaddr, fpc := fpc, parcels := parcels,
                           imprecise := fpc != q.pc.setWidth 16 }
  raiseFrom (setSeq s c sq { q with origin := some info, halted := true, haltedAt := s.cycle }) c sq cause false

/-- A fault of an engine job (R234, R400): attributed to the context whose sequencer issued it, not resumable when the cause
is not. -/
def jobFault (s : State) (o : Owner) (cause : BitVec 8) (unit : Nat) : State :=
  setPirq (raiseHalt s o.part cause o.core unit o.serial (resumableCause cause && cause != causeNest) false) o.part 0

/-! ## Transfers of control that may break R56 -/

/-- Transfer control to a target that a branch or jump computed: outside R56, the illegal-instruction fault at the offending
target's low 16 bits and no other state changed (log entry 7). -/
def transfer (a : Int) (n : Nat) (s t : State) : Res :=
  if 0 ≤ a ∧ goodTarget s.cur.2 a.toNat then .next (jumpTo a.toNat n t)
  else
    let q := curSeq s
    let info : StopInfo := { cause := causeIllegal, eaddr := 0, fpc := BitVec.ofInt 16 a, parcels := 0, imprecise := false }
    .next (raiseFrom (setCurSeq s { q with pc := (BitVec.ofInt 16 a).setWidth 32, origin := some info, halted := true, haltedAt := s.cycle, wait := .none })
      s.cur.1 s.cur.2 causeIllegal true)

/-! ## Landing X engine results (R32, R68, R69) -/

/-- Bank b of a granule number of the register store (R30). -/
def bankOfGranule (n : Nat) : Nat := n / 8192

/-- A granule of the register store as it stands. -/
def storeGranule (x : Ctx) (n : Nat) : Granule :=
  match tfind x.store n with
  | some g => g
  | none =>
    match tfind x.fills (bankOfGranule n) with
    | some base => Config.freeGranule (base + n)
    | none => 0

/-- Put the bytes of a granule that a bit mask selects. -/
def putGranule (x : Ctx) (n : Nat) (mask v : Granule) : Ctx :=
  { x with store := tput x.store n ((v &&& mask) ||| (storeGranule x n &&& ~~~ mask)) }

/-- The job with an arrival number has started (R193). -/
def jobStarted (x : Ctx) (arrival : Nat) : Bool :=
  (match x.nestRun with
    | some j => j.started && j.arrival == arrival
    | none => false) ||
  x.rjobs.any fun j => j.started && j.arrival == arrival

/-- Byte mask of bytes first to first + count - 1 of a granule. -/
def byteMask (first count : Nat) : Granule := BitVec.ofNat 128 ((2 ^ (8 * count) - 1) <<< (8 * first))

/-- The bits of granule n that byte ranges cover. -/
def rangesMask (rs : List JobRange) (n : Nat) : Granule :=
  rs.foldl (fun m r =>
    let first := max r.lo (16 * n)
    m ||| byteMask (first - 16 * n) (min (r.lo + r.n) (16 * n + 16) - first)) 0

/-- The bits of a granule that incomplete jobs write: other readers see undefined bytes there (R194). -/
def writingMask (x : Ctx) (n : Nat) : Granule := rangesMask x.writing n

/-- The bits of a granule that running jobs write (R194). -/
def jobWrites (x : Ctx) (n : Nat) : Granule := rangesMask (x.writing.filter fun r => jobStarted x r.arrival) n

/-- A granule as another agent than the job reads it: the bytes that an incomplete job writes are free (R194). -/
def settledOr (x : Ctx) (n free : Nat) (v : Granule) : Granule :=
  let m := writingMask x n
  if m = 0 then v else (v &&& ~~~ m) ||| (Config.freeGranule free &&& m)

/-- A write of a granule by an agent that is no job: the bytes written that a running job writes too end undefined (R194). -/
def writeGranule (x : Ctx) (n : Nat) (mask v : Granule) : Ctx :=
  let m := mask &&& jobWrites x n
  let x := if m = 0 then x else { x with raced := tput x.raced n (tget 0 x.raced n ||| m) }
  putGranule x n mask v

/-- Granule of the token word: bytes 8 to 15 of it (R272). -/
def tokenGranule : Nat := 0xFFDF

/-- A write of a granule by X or L: one that reaches the token word leaves the tokens undefined (R272). -/
def programWrite (x : Ctx) (n : Nat) (mask v : Granule) : Ctx :=
  let y := writeGranule x n mask v
  if n = tokenGranule && mask >>> 64 != 0 then { y with tokenBad := true } else y

/-- A queue of result queues w. -/
def getW (x : Ctx) (n : Nat) : Queue := tget {} x.w n
/-- An operand queue q. -/
def getQ (x : Ctx) (n : Nat) : Queue := tget {} x.q n

/-- Push an entry. -/
def pushEntry (q : Queue) (e : QEntry) : Queue := { q with entries := q.entries ++ [e] }

/-- Remove the oldest entry (R46). -/
def popQueue (q : Queue) : Queue := { head := q.head + 1, entries := q.entries.drop 1 }

/-- Apply one landed result to a context, but for its push. -/
def applyResult (x : Ctx) (r : XResult) : Ctx :=
  let x := r.writes.foldl (fun x (n, m, v) => programWrite x n m v) x
  let x := match r.k with
    | some (n, m, v) => if n = 0 then x else { x with k := tput x.k n ((v &&& m) ||| (tget 0 x.k n &&& ~~~ m)) }
    | none => x
  let x := match r.setFlags with
    | some (m, v) => { x with flags := (v &&& m) ||| (x.flags &&& ~~~ m) }
    | none => x
  { x with flags := x.flags ||| r.orFlags }

/-- The bits of granule n that a result writes. -/
def resultMask (r : XResult) (n : Nat) : Granule :=
  r.writes.foldl (fun m (g, w, _) => if g = n then m ||| w else m) 0

/-- An earlier result that lands after a later one keeps none of the bytes that the later one wrote (R32). -/
def yieldTo (later r : XResult) : XResult :=
  { r with writes := r.writes.map fun (n, m, v) => (n, m &&& ~~~ resultMask later n, v),
           k := match r.k, later.k with
             | some (a, m, v), some (b, m', _) => if a = b then some (a, m &&& ~~~ m', v) else some (a, m, v)
             | x, _ => x }

/-- Let the results land whose bound is at or before time t, in program order; a push enters once every earlier register-store write
has landed (R254) and every earlier push of the queue has entered (R45). done collects what stays. -/
def landList (t : Nat) : List XResult → List XResult → Ctx → Ctx
  | [], stay, x => { x with xres := stay }
  | r :: rest, stay, x =>
    if r.due ≤ t then
      let x := applyResult x r
      let stay := stay.map (yieldTo r)
      let waits := match r.push with
        | some (w, _) => stay.any fun e => !e.writes.isEmpty || match e.push with | some (w', _) => w' == w | none => false
        | none => false
      match r.push with
      | some (w, e) =>
        if waits then landList t rest (stay ++ [{ r with writes := [], k := none, orFlags := 0, setFlags := none }]) x
        else landList t rest stay { x with w := tput x.w w (pushEntry (getW x w) e) }
      | none => landList t rest stay x
    else landList t rest (stay ++ [r]) x

/-- The context after every result due by time t has landed. -/
def landBy (t : Nat) (x : Ctx) : Ctx := landList t x.xres [] x

/-- The latest bound of the results in flight. -/
def lastDue (x : Ctx) : Nat := x.xres.foldl (fun m r => max m r.due) 0

/-- The context once every X result has landed, X's clock having advanced to the last bound (R408, R414). -/
def landAll (x : Ctx) : Ctx :=
  let t := lastDue x
  let x := landBy t x
  { x with seqX := { x.seqX with clock := max x.seqX.clock t } }

/-! ## Traps (R414, R415) -/

/-- The trap registers of a level. -/
def trapBank (q : SeqState) (b : Nat) : TrapBank := if b = 0 then q.bank0 else q.bank1

/-- Write the trap registers of a level. -/
def setTrapBank (q : SeqState) (b : Nat) (t : TrapBank) : SeqState := if b = 0 then { q with bank0 := t } else { q with bank1 := t }

/-- A sequencer after taking a trap at level 0 or 1 (R414): EPC, ECAUSE and EADDR of the bank in use are saved, the level rises and
control goes to TVEC.BASE. -/
def trapEntry (q : SeqState) (cause : BitVec 8) (imm : BitVec 20) : SeqState :=
  let b := q.tlevel.toNat
  let old := trapBank q b
  let q := setTrapBank q b { old with epc := q.pc.setWidth 16, ecause := cause, eaddr := imm.setWidth 56 }
  { q with tlevel := BitVec.ofNat 2 (b + 1), pc := q.tvec.setWidth 32 }

/-- A sequencer after RTE at level 1 or 2 (R415): records of the level left are inactive, the level falls and control goes where the
end-of-body test after the instruction at EPC sends it. -/
def trapReturn (q : SeqState) : SeqState :=
  let b := q.tlevel.toNat - 1
  let lc := (List.range 4).foldl (fun lc n =>
    let r := tget {} lc n
    if r.active && r.level.toNat == b + 1 then tput lc n { r with active := false } else lc) q.lc
  let p := (trapBank q b).epc.toNat
  let len := if bitOf (parcelAt q (p / 4)).toNat 31 then 2 else 1
  fallThrough { q with lc := lc, tlevel := BitVec.ofNat 2 b } p len

/-! ## Views and the footprint (R33 to R37) -/

/-- The bank footprint (R34). -/
def footprint (x : Ctx) : BitVec 8 :=
  BitVec.ofNat 8 (fieldOf x.vview 48 8) ||| BitVec.ofNat 8 (fieldOf x.tview 48 8) ||| BitVec.ofNat 8 (fieldOf x.aview 48 8)

/-- Footprint bits that an active nest holds on (R36). -/
def nestFoot (x : Ctx) : BitVec 8 :=
  (match x.nestRun with | some j => j.foot | none => 0) ||| (match x.nestPend with | some j => j.foot | none => 0)

/-- Lose the contents of a bank (R37, R103). -/
def dropBank (x : Ctx) (b : Nat) : Ctx :=
  { x with fills := tdel x.fills b, store := tdelRange x.store (8192 * b) (8192 * (b + 1)) }

/-- Banks that left the footprint and no active nest holds become retained or gated; banks that entered it wait to wake (R36, R37). -/
def settleBanks (x : Ctx) : Ctx :=
  let want := footprint x ||| nestFoot x
  let x := (List.range 8).foldl (fun x b =>
    if bitOf x.bankOn.toNat b && !bitOf want.toNat b then
      if bitOf x.ret.toNat b then x
      else { dropBank x b with gated := x.gated ||| BitVec.ofNat 8 (2 ^ b) }
    else x) x
  { x with bankOn := x.bankOn &&& want, waking := footprint x &&& ~~~ x.bankOn }

/-- Gate the retained banks outside the footprint whose RET bit is clear (R37, R103): their contents are lost. -/
def gateRetained (x : Ctx) : Ctx :=
  (List.range 8).foldl (fun x b =>
    let bit : BitVec 8 := BitVec.ofNat 8 (2 ^ b)
    if (x.bankOn ||| x.gated) &&& bit = 0 ∧ x.ret &&& bit = 0 then { dropBank x b with gated := x.gated ||| bit } else x) x

/-- The cycles that the waiting banks take to wake: 40 from retention, 168 from the gated state; several wake in parallel (R36, R443). -/
def wakeCycles (x : Ctx) : Nat := if x.waking = 0 then 0 else if (x.waking &&& x.gated) = 0 then 40 else 168

/-- The banks that wait are on, gated ones scrubbed to zero (R36, R37). -/
def banksOn (x : Ctx) : Ctx :=
  let x := (List.range 8).foldl (fun x b => if bitOf (x.waking &&& x.gated).toNat b then dropBank x b else x) x
  { x with bankOn := x.bankOn ||| x.waking, gated := x.gated &&& ~~~ x.waking, waking := 0 }

/-- The banks that X waits for are on, and X's time has gone on by their waking, which is added to what an MTS asks of the instructions that depend on it
(BANK_WAKE, R36, R82). -/
def wakeBanks (x : Ctx) : Ctx :=
  let n := wakeCycles x
  let x := banksOn x
  { x with seqX := { x.seqX with clock := x.seqX.clock + n, sysReady := x.seqX.sysReady.map fun (r, t) => (r, t + n) } }

/-- SRC of an RSOOR record (R35). -/
def oorSrc (w : Word) : Nat := fieldOf w 22 3

/-- Of the out-of-range accesses of one cycle the one with the lowest SRC counts, the first where SRC is equal (R35; log entry 14). -/
def latestOor (o : OorCycle) (now : Nat) (w : Word) : Option (Nat × Word) :=
  match o.latest with
  | some (c, v) => if c = now ∧ oorSrc v ≤ oorSrc w then some (c, v) else some (now, w)
  | none => some (now, w)

/-- RSOOR's value for an access: the address, read or write, kept out by a limit or by the footprint, the source (R35). -/
def oorWord (addr : Nat) (read lim : Bool) (src : Nat) : Word :=
  BitVec.ofNat 64 (addr % 2 ^ 20 + (if read then 2 ^ 20 else 0) + (if lim then 2 ^ 21 else 0) + src * 2 ^ 22 + 2 ^ 63)

/-- Note an out-of-range access to the register store in cycle now (R35): it is recorded where no record is held, or where the record held is of
the same cycle and a greater SRC. -/
def recordOor (now : Nat) (x : Ctx) (addr : Nat) (read lim : Bool) (src : Nat) : Ctx :=
  let w := oorWord addr read lim src
  let latest := latestOor x.oor now w
  if bitOf x.rsoor.toNat 63 ∧ ¬ (x.oor.heldAt = now ∧ oorSrc w < oorSrc x.rsoor) then { x with oor := { x.oor with latest := latest } }
  else { x with rsoor := w, oor := { heldAt := now, latest := latest } }

/-- MTS to RSOOR in cycle now with a 1 for VALID (R103, R104): the record goes, unless an access of the same cycle was out of range, whose record is
then held. -/
def clearOor (now : Nat) (x : Ctx) : Ctx :=
  match x.oor.latest with
  | some (c, w) => if c = now then { x with rsoor := w, oor := { x.oor with heldAt := now } } else { x with rsoor := x.rsoor &&& 0x7FFFFFFFFFFFFFFF }
  | none => { x with rsoor := x.rsoor &&& 0x7FFFFFFFFFFFFFFF }

/-- AGENT of a value of HOOR. -/
def hoorAgent (w : Word) : Nat := fieldOf w 37 3

/-- Of the out-of-range buffer accesses of one cycle the one with the lowest AGENT counts, the first where AGENT is equal (R227; log entry 14). -/
def latestHoor (o : HoorCycle) (now : Nat) (w serial : Word) : Option (Nat × Word × Word) :=
  match o.latest with
  | some (c, v, k) => if c = now ∧ hoorAgent v ≤ hoorAgent w then some (c, v, k) else some (now, w, serial)
  | none => some (now, w, serial)

/-- HOOR's value for an access: the offset, the slot, read or write, the agent (R227). -/
def hoorWord (off slot : Nat) (read : Bool) (agent : Nat) : Word :=
  BitVec.ofNat 64 (off % 2 ^ 32 + slot * 2 ^ 32 + (if read then 2 ^ 36 else 0) + agent * 2 ^ 37 + 2 ^ 63)

/-- Record an out-of-range access to a buffer on a core, unless a record is held that is not of the same cycle with a greater AGENT (R227): serial is the
kernel that the access works for. -/
def recordHoor (s : State) (c serial off slot : Nat) (read : Bool) (agent : Nat) : State :=
  let x := getCore s c
  let w := hoorWord off slot read agent
  let latest := latestHoor x.hoorCycle s.cycle w (BitVec.ofNat 64 serial)
  if bitOf x.hoor.toNat 63 ∧ ¬ (x.hoorCycle.heldAt = s.cycle ∧ agent < hoorAgent x.hoor) then
    setCore s c { x with hoorCycle := { x.hoorCycle with latest := latest } }
  else setCore s c { x with hoor := w, hoork := BitVec.ofNat 64 serial, hoorCycle := { heldAt := s.cycle, latest := latest } }

/-- A write of HOOR with a 1 for VALID (R227): the record goes, unless an access of the same cycle was out of range, whose record is then held. -/
def clearHoor (s : State) (c : Nat) : State :=
  let x := getCore s c
  let gone := { x with hoor := x.hoor &&& 0x7FFFFFFFFFFFFFFF }
  setCore s c (match x.hoorCycle.latest with
    | some (n, w, k) => if n = s.cycle then { x with hoor := w, hoork := k, hoorCycle := { x.hoorCycle with heldAt := n } } else gone
    | none => gone)

/-- The granules of n bytes at a byte displacement from the operand with a given index, each tested by R34. -/
def spanGranules (view : Word) (foot : BitVec 8) (i off n : Nat) : List (Option Nat) :=
  let a := fieldOf view 0 16 + fieldOf view 16 16 * i + off / 16
  let ok := decide (i < min (fieldOf view 32 11) 1024)
  (List.range ((off % 16 + n + 15) / 16)).map fun t =>
    let g := a + t
    if !ok || 65536 ≤ g || !bitOf foot.toNat (bankOfGranule g) then none else some g

/-- Note in RSOOR an access to a span that has a granule out of range (R35). -/
def noteSpan (now : Nat) (x : Ctx) (view : Word) (foot : BitVec 8) (i off n : Nat) (read : Bool) (src : Nat) : Ctx :=
  if min (fieldOf view 32 11) 1024 ≤ i then recordOor now x i read true src
  else
    match (spanGranules view foot i off n).findIdx? (·.isNone) with
    | some t => recordOor now x (16 * (fieldOf view 0 16 + fieldOf view 16 16 * i + off / 16 + t)) read false src
    | none => x

/-- ViewGranules of R34: for each 16-byte granule of an operand of n granules, its granule number or none where out of range. -/
def viewGranules (view : Word) (foot : BitVec 8) (i n : Nat) : List (Option Nat) :=
  if min (fieldOf view 32 11) 1024 ≤ i then List.replicate n none
  else
    let a := fieldOf view 0 16 + fieldOf view 16 16 * i
    (List.range n).map fun t =>
      let g := a + t
      if 65536 ≤ g || !bitOf foot.toNat (bankOfGranule g) then none else some g

/-- What RSOOR records of an operand that is out of range: nothing, or the address (of the lowest such granule, or the index) and LIM. -/
def viewOor (view : Word) (foot : BitVec 8) (i n : Nat) : Option (Nat × Bool) :=
  if min (fieldOf view 32 11) 1024 ≤ i then some (i, true)
  else
    let a := fieldOf view 0 16 + fieldOf view 16 16 * i
    ((List.range n).find? fun t => 65536 ≤ a + t || !bitOf foot.toNat (bankOfGranule (a + t))).map fun t => (16 * (a + t), false)

/-- Note an operand access in RSOOR (R35). -/
def noteOor (now : Nat) (x : Ctx) (view : Word) (foot : BitVec 8) (i n : Nat) (read : Bool) (src : Nat) : Ctx :=
  match viewOor view foot i n with
  | some (a, lim) => recordOor now x a read lim src
  | none => x

end Sys2Proof.Machine
end

