-- ==== Sys2Proof/Machine/Memory.lean ====
section
/-! DEFINITION. Memory: physical regions and homes (R210, R211, R292), DRAM bytes with ECC, keys and CXL counters
(R219 to R222, R387 to R392), die views and updates (R293, R294, R299), translation (R212 to R216, R381, R382),
cluster SRAM granules (R224 to R230), and splitting an access into granules (R217, R218). -/

namespace Sys2Proof.Machine

/-! ## The byte map -/

/-- What a physical byte that nothing has written reads as (log entry 4). -/
def unlistedByte : Byte := 0

/-- The byte at a physical address. -/
def memGet : List Host.Cell → Nat → Byte
  | [], _ => unlistedByte
  | (a, v) :: t, n => if a = n then v else memGet t n

/-- Write one byte; the canonical form is kept: addresses strictly rise and no listed byte equals an unlisted one. -/
def memPut : List Host.Cell → Nat → Byte → List Host.Cell
  | [], n, v => if v = unlistedByte then [] else [(n, v)]
  | (a, w) :: t, n, v =>
    if n < a then (if v = unlistedByte then (a, w) :: t else (n, v) :: (a, w) :: t)
    else if n = a then (if v = unlistedByte then t else (n, v) :: t)
    else (a, w) :: memPut t n v

/-- The canonical form of a byte map. -/
def Memory.wf : List Host.Cell → Bool
  | [] => true
  | [(_, v)] => v != unlistedByte
  | (a, v) :: (b, w) :: t => v != unlistedByte && a < b && Memory.wf ((b, w) :: t)

/-- Write a list of cells. -/
def memPutAll (m : List Host.Cell) (cells : List Host.Cell) : List Host.Cell := cells.foldl (fun m (a, v) => memPut m a v) m

/-! ## Regions and homes -/

/-- The regions of R210. -/
inductive Region where
  | hbm | lpddr | cxl | device | fabric | unassigned
deriving DecidableEq, Repr

/-- Bytes of tree nodes above n children, from the level whose nodes have them (R390): a level with one node is on die. -/
def treeBytes (n : Nat) : Nat → Nat
  | 0 => 0
  | fuel + 1 =>
    let nodes := (n + 7) / 8
    if nodes ≤ 1 then 0 else (64 * nodes + 4095) / 4096 * 4096 + treeBytes nodes fuel

/-- Bytes of metadata for a data part of z GiB (R390). -/
def metaBytes (z : Nat) : Nat :=
  let b := z * 2 ^ 30
  b / 8 + b / 64 + b / 65536 + 4096 + treeBytes (b / 4096) 24

/-- Base of the CXL window (R210). -/
def cxlBase : Nat := 0x2000_0000_0000

/-- Levels of the tree over n counter blocks: the last has a single node (R390). -/
def treeDepth (n : Nat) : Nat → Nat
  | 0 => 1
  | fuel + 1 => if n ≤ 8 then 1 else 1 + treeDepth ((n + 7) / 8) fuel

/-- Size in bytes of the usable data part of the CXL window: 0 when it and its metadata do not fit (R371). -/
def cxlData (s : State) : Nat :=
  let z := s.mgmt.cxldata.toNat
  if z * 2 ^ 30 + metaBytes z ≤ s.mgmt.cxlpop.toNat * 2 ^ 30 then z * 2 ^ 30 else 0

/-- Region of a physical address (R210, R369); metadata and what lies beyond the data part count as unassigned (R371, R390). -/
def regionOf (s : State) (pa : Nat) : Region :=
  if pa < 0x60_0000_0000 then .hbm
  else if 0x1000_0000_0000 ≤ pa ∧ pa < 0x1400_0000_0000 then .lpddr
  else if cxlBase ≤ pa ∧ pa < cxlBase + cxlData s then .cxl
  else if 0xF_8000_0000_0000 ≤ pa ∧ pa < 0x10_0000_0000_0000 then .fabric
  else if 0xF_0000_0000_0000 ≤ pa ∧ pa < 0xF_8000_0000_0000 then .device
  else .unassigned

/-- A DRAM address. -/
def isDram (s : State) (pa : Nat) : Bool :=
  match regionOf s pa with
  | .hbm | .lpddr | .cxl => true
  | _ => false

/-- The home die of a DRAM byte (R211, R292). -/
def homeOf (pa : Nat) : Nat :=
  if pa < 0x1000_0000_0000 then bits pa 14 12 / 2
  else if pa < 0x2000_0000_0000 then bits (pa - 0x1000_0000_0000) 22 20 / 2
  else bits (pa - 0x2000_0000_0000) 9 8

/-- Frame index of R245. -/
def frameIndex (pa : Nat) : Nat :=
  if pa < 0x1000_0000_0000 then pa / 65536
  else if pa < 0x2000_0000_0000 then 0x600000 + (pa - 0x1000_0000_0000) / 65536
  else 0x4600000 + (pa - 0x2000_0000_0000) / 65536

/-- The bank-layout permutation of a physical address inside its 4 KiB chunk (R242). -/
def bankPermute (pa : Nat) : Nat :=
  pa / 4096 * 4096 + 256 * bits pa 7 4 + 16 * bits pa 11 8 + bits pa 3 0

/-- The physical address of a granule through a mapping with or without bank layout (R243). -/
def placed (pa : Nat) (layout : Bool) : Nat := if layout then bankPermute pa else pa

/-! ## Die views (R293, R294) -/

/-- The value a die's view shows of a byte. -/
def viewByte (s : State) (d pa : Nat) : Byte :=
  match (getDie s d).lag.find? (fun c => c.1 == pa) with
  | some c => c.2
  | none => memGet s.mem pa

/-- n bytes from an address in a die's view, as a little-endian number. -/
def viewNat (s : State) (d pa n : Nat) : Nat := ofBytes (fun i => viewByte s d (pa + i)) n

/-- What belongs to a line in a die's view (R294). -/
def viewLine (s : State) (d line : Nat) : LineMeta :=
  match tfind (getDie s d).lagLines line with
  | some m => m
  | none => { tag := tfind s.lineTags line, lost := s.lostWords.contains line }

/-- A word of DRAM is lost at its home: uncorrectable, or homed on a fenced die (R219, R425). -/
def wordLost (s : State) (pa : Nat) : Bool := s.lostWords.contains (pa / 64) || (getDie s (homeOf pa)).fenced

/-- A word of DRAM is lost in a die's view. -/
def viewLost (s : State) (d pa : Nat) : Bool := (viewLine s d (pa / 64)).lost || (getDie s (homeOf pa)).fenced

/-- Remember the old values of cells that a die has not applied. -/
def lagCells (s : State) (d : Nat) (cells : List Host.Cell) : List Host.Cell :=
  cells.foldl (fun l (a, _) => if l.any (fun c => c.1 == a) then l else (a, memGet s.mem a) :: l) (getDie s d).lag

/-- Remember what belonged to lines whose write a die has not applied. -/
def lagLinesOf (s : State) (d : Nat) (lines : Table LineMeta) : Table LineMeta :=
  lines.foldl (fun t (n, _) => tput t n (viewLine s d n)) (getDie s d).lagLines

/-- The greater counter of each home of two vectors (R299). -/
def maxVec (a b : List Nat) : List Nat := (List.range 4).map fun h => max (a.getD h 0) (b.getD h 0)

/-- Stamps merged into a vector. -/
def mergeStamps (deps : List Nat) (stamps : List (Nat × Nat)) : List Nat :=
  (List.range 4).map fun h => stamps.foldl (fun n (i, v) => if i = h then max n v else n) (deps.getD h 0)

/-- Whether a die may install an update: every earlier update from its home and everything its dependency vector names are
installed (R299). -/
def installable (x : Die) (u : Update) : Bool :=
  tget 0 x.clock u.home + 1 == u.stamp &&
  (List.range 4).all fun h => h == u.home || u.deps.getD h 0 ≤ tget 0 x.clock h

/-- Install the n-th update of a die's inbox: bytes and lines show the update's values until later updates of them install. -/
def installUpdate (s : State) (d n : Nat) : State :=
  let x := getDie s d
  match x.inbox[n]? with
  | none => s
  | some u =>
    if !installable x u then s
    else
      let rest := dropAt x.inbox n
      let lag := u.cells.foldl (fun l (a, v) =>
        let l' := l.filter fun c => c.1 != a
        if rest.any fun r => r.cells.any fun c => c.1 == a then (a, v) :: l' else l') x.lag
      let lines := u.lines.foldl (fun t (n, m) => if rest.any fun r => (tfind r.lines n).isSome then tput t n m else tdel t n) x.lagLines
      setDie s d { x with inbox := rest, lag := lag, lagLines := lines, clock := tput x.clock u.home u.stamp }

/-- What a die must have installed before it shows what depends on a vector: also what the updates that the vector names depend on. -/
def needed (inbox : List Update) (need : List Nat) : List Nat :=
  inbox.foldl (fun n _ => inbox.foldl (fun n u => if u.stamp ≤ n.getD u.home 0 then maxVec n u.deps else n) n) need

/-- Install the first update of a die that a vector names and that may be installed. -/
def installNext (d : Nat) (need : List Nat) (s : State) : State :=
  let x := getDie s d
  match x.inbox.findIdx? fun u => decide (u.stamp ≤ need.getD u.home 0) && installable x u with
  | some n => installUpdate s d n
  | none => s

/-- A die has installed every update that a vector names, and no other than what these depend on (R298, R299): where a rule makes an access wait for
updates, they are installed before it. -/
def catchUp (s : State) (d : Nat) (need : List Nat) : State :=
  let l := (getDie s d).inbox
  l.foldl (fun s _ => installNext d (needed l need) s) s

/-- Perform a write at its home (R293): the home has applied what the write depends on (R298), its clock ticks, the bytes change in memory, and every
other die lags until it installs the update. The result is the home and its stamp. -/
def performAtHome (s : State) (home : Nat) (cells : List Host.Cell) (lines : Table LineMeta) (deps : List Nat) : State × (Nat × Nat) :=
  let s := catchUp s home deps
  let stamp := tget 0 (getDie s home).clock home + 1
  let s1 := [0, 1, 2, 3].foldl (fun t d =>
    if d = home then setDie t d { getDie t d with clock := tput (getDie t d).clock home stamp }
    else setDie t d { getDie t d with lag := lagCells s d cells, lagLines := lagLinesOf s d lines,
                                      inbox := (getDie t d).inbox ++ [{ home := home, stamp := stamp, deps := deps, cells := cells, lines := lines }] }) s
  ({ s1 with
      mem := memPutAll s1.mem cells
      lineTags := lines.foldl (fun t (n, m) => match m.tag with
        | some k => tput t n k
        | none => tdel t n) s1.lineTags
      lostWords := lines.foldl (fun l (n, m) => if m.lost then n :: l.filter (· != n) else l.filter (· != n)) s1.lostWords }, (home, stamp))

/-- The stamps that a vector holds. -/
def vecStamps (v : List Nat) : List (Nat × Nat) := v.zipIdx.map fun (n, h) => (h, n)

/-- Every die's clock covers the stamps (R299): visible at .pkg. -/
def coveredPkg (s : State) (stamps : List (Nat × Nat)) : Bool :=
  stamps.all fun (h, n) => (List.range 4).all fun d => (getDie s d).fenced || n ≤ tget 0 (getDie s d).clock h

/-- One die's clock covers the stamps: visible at .core, .clus and .die. -/
def coveredDie (s : State) (d : Nat) (stamps : List (Nat × Nat)) : Bool :=
  stamps.all fun (h, n) => n ≤ tget 0 (getDie s d).clock h

/-- The dependency vector of a write that issues on a die (R299). -/
def clockVector (s : State) (d : Nat) (extra : List Nat) : List Nat :=
  (List.range 4).map fun h => max (tget 0 (getDie s d).clock h) (extra.getD h 0)

/-! ## Keys (R214, R381, R387, R392) -/

/-- The tag a partition writes lines with under a key slot: none when the slot is empty. -/
def tagFor (s : State) (part key : Nat) : Option LineTag :=
  match tfind (getPart s part).keys key with
  | some r => some { key := r, integrity := (getPart s part).integrity }
  | none => none

/-- Two key records decrypt a line alike: HBM4 and LPDDR-6 lines use the XTS pair, the first 64 bytes, CXL lines the CXL key (R387 to R389). -/
def sameKey (cxl : Bool) (a b : BitVec 768) : Bool := if cxl then a >>> 512 == b >>> 512 else a.setWidth 512 == b.setWidth 512

/-- Number of a line, a 4 KiB group and a 64 KiB frame of the CXL window. -/
def cxlLine (pa : Nat) : Nat := (pa - cxlBase) / 64
def cxlGroup (pa : Nat) : Nat := (pa - cxlBase) / 4096
def cxlFrame (pa : Nat) : Nat := (pa - cxlBase) / 65536

/-- The CXL counters of a line are both zero (R392). -/
def cxlFresh (s : State) (pa : Nat) : Bool := tget 0 s.cxl.major (cxlGroup pa) = 0 && tget 0 s.cxl.minor (cxlLine pa) = 0

/-- Levels of the tree over the counter blocks of the data part (R390). -/
def cxlDepth (s : State) : Nat := treeDepth (cxlData s / 4096) 24

/-- The counters above a group: level and number of the child (R391). -/
def cxlAncestors (s : State) (group : Nat) : List (Nat × Nat) := (List.range (cxlDepth s)).map fun i => (i + 1, group / 8 ^ i)

/-- A counter of a tree node for its child. -/
def nodeCounter (x : CxlCounters) (k : Nat × Nat) : BitVec 56 := tget 0 (tget [] x.node k.1) k.2

/-- Replace a counter of a tree node. -/
def setNode (x : CxlCounters) (k : Nat × Nat) (v : BitVec 56) : CxlCounters := { x with node := tput x.node k.1 (tput (tget [] x.node k.1) k.2 v) }

/-- Times that a frame was re-keyed; its epoch is at most 255 (R391). -/
def rekeys (x : CxlCounters) (frame : Nat) : Nat := x.rekeyed.countP fun r => decide (r.1 ≤ frame) && decide (frame < r.2)

/-- The epoch of a frame (R391). -/
def epochOf (x : CxlCounters) (frame : Nat) : Nat := min 255 (rekeys x frame)

/-- Every write to a frame raises the machine fault: its epoch would have passed 255 (R391). -/
def cxlExhausted (x : CxlCounters) (frame : Nat) : Bool := 255 < rekeys x frame

/-- A write of a CXL line would take MAJOR, or a counter above, past its end (R391). -/
def cxlFull (s : State) (pa : Nat) : Bool :=
  (tget 0 s.cxl.minor (cxlLine pa) == 63 && tget 0 s.cxl.major (cxlGroup pa) == BitVec.allOnes 64) ||
  (cxlAncestors s (cxlGroup pa)).any fun k => nodeCounter s.cxl k == BitVec.allOnes 56

/-- A write of a CXL line advances its counters (R391): the minor counter, on overflow the group's major counter with every minor of the
group cleared, and the counter of each ancestor for its child. -/
def cxlCount (s : State) (pa : Nat) : CxlCounters :=
  let x := s.cxl
  let line := cxlLine pa
  let group := cxlGroup pa
  let m := tget 0 x.minor line
  let x := if m = 63 then
      { x with minor := tdelRange x.minor (64 * group) (64 * group + 64), major := tput x.major group (tget 0 x.major group + 1) }
    else { x with minor := tput x.minor line (m + 1) }
  (cxlAncestors s group).foldl (fun x k => setNode x k (nodeCounter x k + 1)) x

/-! ### Metadata in the CXL window (R390) -/

/-- First byte of the metadata: CXLMETA. A data part that does not fit acts as 0 (R371). -/
def cxlMeta (s : State) : Nat := cxlBase + cxlData s

/-- An address of the metadata. -/
def inMeta (s : State) (a : Nat) : Bool := cxlData s ≠ 0 && cxlMeta s ≤ a && a < cxlMeta s + metaBytes s.mgmt.cxldata.toNat

/-- Addresses of the MAC of a line, of a group's counter block and of a frame's epoch byte. -/
def macAddr (s : State) (line : Nat) : Nat := cxlMeta s + 8 * line
def blockAddr (s : State) (group : Nat) : Nat := cxlMeta s + cxlData s / 8 + 64 * group
def epochAddr (s : State) (frame : Nat) : Nat := cxlMeta s + cxlData s / 8 + cxlData s / 64 + frame

/-- First byte of the nodes of a level: after the epoch bytes, each level from a 4 KiB boundary. -/
def levelAddr (s : State) : Nat → Nat
  | 0 => (epochAddr s 0 + cxlData s / 65536 + 4095) / 4096 * 4096
  | l + 1 => (levelAddr s l + 64 * ((cxlData s / 4096 + 8 ^ (l + 1) - 1) / 8 ^ (l + 1)) + 4095) / 4096 * 4096

/-- Address of node n of a level from 1 on. -/
def nodeAddr (s : State) (level n : Nat) : Nat := levelAddr s (level - 1) + 64 * n

/-- The counter block of a CXL line and the nodes above it, up to the one that is held on die: level 0 for the block, and number (R390, R392). -/
def metaPath (s : State) (pa : Nat) : List (Nat × Nat) :=
  (0, cxlGroup pa) :: (List.range (cxlDepth s - 1)).map fun i => (i + 1, cxlGroup pa / 8 ^ (i + 1))

/-- The word of a counter block or node. -/
def metaWord (s : State) (k : Nat × Nat) : Nat := (if k.1 = 0 then blockAddr s k.2 else nodeAddr s k.1 k.2) / 64

/-- The counter block of a CXL line, or a node above it, fails its check (R392): its word is uncorrectable, or its MAC is under the tree key of an earlier
boot. Nothing else makes it fail, since only the part writes it. -/
def treeBad (s : State) (pa : Nat) : Bool := (metaPath s pa).any fun k => s.lostWords.contains (metaWord s k) || s.cxl.stale.contains k

/-- The MAC of a CXL line, or the epoch that it covers, cannot be read. -/
def macBad (s : State) (pa : Nat) : Bool :=
  s.lostWords.contains (macAddr s (cxlLine pa) / 64) || s.lostWords.contains (epochAddr s (cxlFrame pa) / 64)

/-- A write of a CXL line, which renews its MAC, cannot be made: a check of what it advances fails (R391, R392). -/
def metaBad (s : State) (pa : Nat) : Bool := treeBad s pa || (macBad s pa && !cxlFresh s pa)

/-- Bytes 0 to 55 of a group's counter block, and of a tree node (R390). -/
def blockBytes (s : State) (group : Nat) : BitVec 448 :=
  BitVec.ofNat 448 ((tget 0 s.cxl.major group).toNat + packN 6 (fun k => (tget 0 s.cxl.minor (64 * group + k)).toNat) 64 <<< 64)
def nodeBytes (s : State) (level n : Nat) : BitVec 448 :=
  BitVec.ofNat 448 (packN 56 (fun c => (nodeCounter s.cxl (level, 8 * n + c)).toNat) 8)

/-! ## Reading a granule -/

/-- Read a granule of DRAM as a die sees it, under a key slot (R214, R220, R392). n numbers the free value that an undefined result
takes. -/
def readDram (s : State) (d pa : Nat) (mire : Bool) (key part n : Nat) : Got :=
  let data : Granule := BitVec.ofNat 128 (viewNat s d pa 16)
  let free : Granule := Config.freeGranule (s.freeCtr + n)
  if viewLost s d pa then { data := 0, lost := true, fault := if mire then none else some causeDram }
  else if regionOf s pa = .cxl ∧ treeBad s pa then { data := 0, lost := false, fault := some causeCxl }
  else if regionOf s pa = .cxl ∧ cxlFresh s pa then { data := 0, lost := false, fault := none }
  else if regionOf s pa = .cxl ∧ macBad s pa then { data := 0, lost := false, fault := some causeCxl }
  else
    match (viewLine s d (pa / 64)).tag, tagFor s part key with
    | some t, some k =>
      if regionOf s pa = .cxl ∧ t.integrity ≠ k.integrity then { data := 0, lost := false, fault := some causeCxl }
      else { data := if sameKey (regionOf s pa == .cxl) t.key k.key then data else free, lost := false, fault := none }
    | some _, none => { data := free, lost := false, fault := none }
    | none, _ => { data := data, lost := false, fault := none }

/-! ## Cluster SRAM (R224 to R229) -/

/-- A granule of a pool: an unlisted granule of an undefined region is empty and valid with free data (R228). -/
def sramGet (x : Cluster) (g : Nat) : SramGranule :=
  match tfind x.granules g with
  | some v => v
  | none =>
    match x.fills.find? (fun (lo, hi, _) => lo ≤ g && g < hi) with
    | some (_, _, base) => { data := Config.freeGranule (base + g), f := false, q := true, bad := false }
    | none => {}

/-- Replace a granule. -/
def sramPut (s : State) (c g : Nat) (v : SramGranule) : State :=
  let x := getCluster s c
  setCluster s c { x with granules := tput x.granules g v }

/-- A program writes a granule: where it held a ring's counters, another ring starts there (R283). -/
def sramStore (s : State) (c g : Nat) (v : SramGranule) : State :=
  let x := getCluster s c
  setCluster s c { x with granules := tput x.granules g v, consumers := tdel x.consumers g }

/-- Make granules lo to hi - 1 of a pool undefined, empty and valid (R228). Only a whole write clears an uncorrectable error (R224). -/
def sramFree (s : State) (c lo hi : Nat) : State :=
  let x := getCluster s c
  let kept := (x.granules.filter fun (g, v) => decide (lo ≤ g) && decide (g < hi) && v.bad).foldl
    (fun t (g, _) => tput t g { data := Config.freeGranule (s.freeCtr + g), bad := true }) (tdelRange x.granules lo hi)
  takeFree (setCluster s c { x with granules := kept, fills := (lo, hi, s.freeCtr) :: x.fills, consumers := tdelRange x.consumers lo hi }) hi

/-- Set or clear the full-empty bit of a granule. -/
def setF (s : State) (c g : Nat) (v : Bool) : State := sramPut s c g { sramGet (getCluster s c) g with f := v }

/-- A write of part of a granule: zeros for the bytes that come from an invalid lane or a lost source (R221, R229, R266). engine
says that the writer is an engine: it writes all 16 bytes, those it has no data for as they stand, so Q and an error are those of a whole write (R224,
R229; log entry 95), and it sets F. -/
def sramWrite (x : SramGranule) (mask data : Granule) (bad engine : Bool) : SramGranule :=
  let whole := engine || mask == BitVec.allOnes 128
  { data := (data &&& mask) ||| (x.data &&& ~~~ mask)
    f := x.f || engine
    q := if bad then false else if whole then true else x.q
    bad := if whole then false else x.bad }

/-! ## Which accesses meet -/

/-- Two locations are one granule. -/
def sameLoc (a b : Loc) : Bool :=
  match a, b with
  | .dram p l _ _ _, .dram q m _ _ _ => placed p l == placed q m
  | .sram c g _, .sram d h _ => c == d && g == h
  | .remote p o .., .remote q r .. => p == q && o / 16 == r / 16
  | .device a, .device b => a / 16 == b / 16
  | _, _ => false

/-- Two pieces touch one granule. -/
def sameGranule (a b : Piece) : Bool := sameLoc a.loc b.loc

/-- Two lists of pieces overlap. -/
def piecesMeet (a b : List Piece) : Bool := a.any fun p => b.any fun q => sameGranule p q

/-- A piece in another package. -/
def isRemote (p : Piece) : Bool := match p.loc with
  | .remote .. => true
  | _ => false

/-! ## Bytes that a copy card touches outside its regions (R282) -/

/-- A card runs that has bytes outside its write regions. -/
def strayCards (s : State) : Bool := s.clusters.any fun (_, x) => match x.card with
  | some c => c.strays
  | none => false

/-- An agent touches locations: each running card that strays takes note, since what both touch at the same time ends undefined (R282; log entry 107). -/
def noteTouch (s : State) (ps : List Piece) : State :=
  if strayCards s then
    { s with clusters := s.clusters.map fun (i, x) => (i, { x with card := x.card.map fun c => if c.strays then { c with touched := c.touched ++ ps } else c }) }
  else s

/-- The bytes of a granule that running cards have written outside their regions. -/
def strayMask (s : State) (l : Loc) : Granule :=
  s.clusters.foldl (fun m (_, x) => match x.card with
    | some c => c.outside.foldl (fun m p => if sameLoc p.loc l then m ||| byteMask p.first p.count else m) m
    | none => m) 0

/-- What another agent reads of them meanwhile is undefined. -/
def strayed (s : State) (l : Loc) (n : Nat) (g : Got) : Got :=
  let m := strayMask s l
  if m = 0 then g else { g with data := (g.data &&& ~~~ m) ||| (Config.freeGranule (s.freeCtr + n) &&& m) }

/-! ## Memory of other packages (R293, R337, R339) -/

/-- Number of a granule of another package. -/
def farKey (pkg off : Nat) : Nat := 2 ^ 30 * pkg + off / 16

/-- Others have written a granule of another package since this package last accessed it: a free choice for each granule and cycle. -/
def farWritten (s : State) (pkg off : Nat) : Bool := Config.freePick s.cycle (16 * farKey pkg off + 11)

/-- A granule of another package as an access finds it now. -/
def farNow (s : State) (pkg off : Nat) : FarGranule :=
  let x : FarGranule := tget {} s.farMem (farKey pkg off)
  if farWritten s pkg off then { version := x.version + 1 } else x

/-- What it holds: what this package has written since, and whatever others left. -/
def farData (s : State) (pkg off : Nat) : Granule :=
  let x := farNow s pkg off
  (x.data &&& x.known) ||| (Config.farGranule (farKey pkg off) x.version &&& ~~~ x.known)

/-- This package has seen granules of other packages: their writes keep their order (R293). -/
def farSeen (s : State) (ps : List Piece) : State :=
  { s with farMem := ps.foldl (fun t p => match p.loc with
      | .remote pkg off .. => tput t (farKey pkg off) (farNow s pkg off)
      | _ => t) s.farMem }

/-- This package writes bytes of a granule of another package. -/
def farPut (s : State) (pkg off : Nat) (mask data : Granule) : State :=
  let x := farNow s pkg off
  { s with farMem := tput s.farMem (farKey pkg off) { x with known := x.known ||| mask, data := (x.data &&& ~~~ mask) ||| (data &&& mask) } }

/-! ## Reading and writing a piece of an access -/

/-- The granule of a location as an agent of die d sees it (R220, R221, R224, R229, R293). -/
def plainLoc (s : State) (d : Nat) (l : Loc) (n : Nat) : Got :=
  match l with
  | .dram pa layout mire key part => readDram s d (placed pa layout) mire key part n
  | .sram c g _ =>
    let x := sramGet (getCluster s c) g
    if x.bad then { data := 0, lost := false, fault := some causeSram }
    else { data := x.data, lost := !x.q, fault := none }
  | .beyond => { data := 0, lost := false, fault := none }
  | .remote pkg off .. => { data := farData s pkg off, lost := false, fault := none }
  | .lost => { data := 0, lost := true, fault := none }
  | .device _ => { data := 0, lost := false, fault := none }

/-- Read the granule of a piece as an agent of die d sees it: undefined where a card strays (R282). -/
def readLoc (s : State) (d : Nat) (l : Loc) (n : Nat) : Got := strayed s l n (plainLoc s d l n)

/-- The die at which a location is homed: its view shows the last write in coherence order (R293). -/
def locDie (d : Nat) (l : Loc) : Nat := match l with
  | .dram pa layout _ _ _ => homeOf (placed pa layout)
  | _ => d

/-- Read the granules of a list of pieces each at its home, numbering free values from n. -/
def readHomes (s : State) (d : Nat) : List Piece → Nat → List Got
  | [], _ => []
  | p :: t, n => readLoc s (locDie d p.loc) p.loc n :: readHomes s d t (n + 1)

/-- Read the granules of a list of pieces, numbering free values from n. -/
def readPieces (s : State) (d : Nat) : List Piece → Nat → List Got
  | [], _ => []
  | p :: t, n => readLoc s d p.loc n :: readPieces s d t (n + 1)

/-- The fault of the lowest granule among those that meet one (R218). -/
def lowestFault : List (BitVec 8 × Nat) → Option (BitVec 8 × Nat)
  | [] => none
  | e :: t => match lowestFault t with
    | some f => some (if e.2 ≤ f.2 then e else f)
    | none => some e

/-- The machine fault of an access among the granules read, with the granule's address (R218). -/
def firstFault (ps : List Piece) (gs : List Got) : Option (BitVec 8 × Nat) :=
  lowestFault ((ps.zip gs).filterMap fun (p, g) => g.fault.map fun c => (c, p.addr))

/-- Byte i of an access from its pieces and what they read. -/
def accessByte (ps : List Piece) (gs : List Got) (i : Nat) : Byte :=
  match (ps.zip gs).find? (fun (p, _) => p.pos ≤ i && i < p.pos + p.count) with
  | some (p, g) => granuleByte g.data (p.first + (i - p.pos))
  | none => 0

/-- Byte i of an access comes from a lost word or granule. -/
def accessLost (ps : List Piece) (gs : List Got) (i : Nat) : Bool :=
  match (ps.zip gs).find? (fun (p, _) => p.pos ≤ i && i < p.pos + p.count) with
  | some (_, g) => g.lost
  | none => false

/-- What the fabric does to an engine's read of a granule in another package (R338): a mire flit may be lost, a reliable one may fail beyond the link's
retries, which is the machine fault; a free choice for each flit of 256 bytes. -/
def linkGot (s : State) (p : Piece) (g : Got) : Got :=
  match p.loc with
  | .remote _ _ mire .. =>
    if Config.freePick s.freeCtr (16 * (p.addr / 256 * 256) + 9) then
      (if mire then { g with data := 0, lost := true } else { g with fault := some causeFabric })
    else g
  | _ => g

/-- The same for a list of pieces. -/
def linkReads (s : State) (ps : List Piece) (gs : List Got) : List Got := (ps.zip gs).map fun (p, g) => linkGot s p g

/-- What the fabric does to an engine's write of a piece in another package (R338): none, or the machine fault of a reliable flit; a lost mire flit is not
performed. -/
def linkFails (s : State) (p : Piece) (mireFlit : Bool) : Bool :=
  match p.loc with
  | .remote _ _ mire .. => mire == mireFlit && Config.freePick s.freeCtr (16 * (p.addr / 256 * 256) + 10)
  | _ => false

/-- An access read: byte function and lost bytes, or the machine fault. -/
def readAccess (s : State) (d : Nat) (ps : List Piece) : Except (BitVec 8 × Nat) ((Nat → Byte) × (Nat → Bool)) :=
  let gs := readPieces s d ps 0
  match firstFault ps gs with
  | some e => .error e
  | none => .ok (accessByte ps gs, accessLost ps gs)

/-- The cells of a DRAM write: the physical bytes of each DRAM piece. -/
def dramCells (ps : List Piece) (byte : Nat → Byte) : List Host.Cell :=
  ps.flatMap fun p =>
    match p.loc with
    | .dram pa layout _ _ _ => (List.range p.count).map fun i => (placed pa layout + p.first + i, byte (p.pos + i))
    | _ => []

/-- Bytes of an ECC word that a list of cells covers. -/
def coverOf (cells : List Host.Cell) (word : Nat) : Nat := (cells.map (·.1)).eraseDups.countP fun a => a / 64 == word

/-- The DRAM pieces of an access with their ECC word, MIRE attribute, partition and key. -/
def dramWords (ps : List Piece) : List (Nat × Bool × Nat × Nat) :=
  (ps.filterMap fun p =>
    match p.loc with
    | .dram pa layout mire key part => some (placed pa layout / 64, mire, key, part)
    | _ => none).eraseDups

/-- The ECC word of a piece in DRAM. -/
def pieceWord (p : Piece) : Option Nat := match p.loc with
  | .dram pa layout _ _ _ => some (placed pa layout / 64)
  | _ => none

/-- The migration counter record of a frame after an event (R245): low half-words saturate, the version wraps. -/
def recordAfter (r : Word) (write : Bool) : Word :=
  let rdc := fieldOf r 0 16
  let wrc := fieldOf r 16 16
  if write then setField (setField r 16 16 (min (wrc + 1) 65535)) 32 32 (fieldOf r 32 32 + 1)
  else setField r 0 16 (min (rdc + 1) 65535)

/-- A write of 8 bytes that a die makes of its own, at a physical address (R245): nothing where no memory is assigned. It is itself not counted (log entry
10). -/
def homeWrite (s : State) (d a : Nat) (v : Nat) : State :=
  if isDram s a then
    let cells := (List.range 8).map fun k => (a + k, (BitVec.ofNat 8 (v >>> (8 * k)) : Byte))
    (performAtHome s (homeOf a) cells [(a / 64, { tag := tfind s.lineTags (a / 64), lost := s.lostWords.contains (a / 64) })]
      ((List.range 4).map fun h => tget 0 (getDie s d).clock h)).1
  else s

/-- Post a migration notification on a die's ring (R245, R246). -/
def notifyMig (s : State) (d i : Nat) (write : Bool) : State :=
  let x := getDie s d
  let m := x.mig
  if m.logsize = 0 then s
  else if (m.rtail - m.rhead).toNat = 2 ^ m.logsize.toNat then setDie s d { x with mig := { m with ovf := true } }
  else
    let slot := m.rtail.toNat % 2 ^ m.logsize.toNat
    let s := setDie s d { x with mig := { m with rtail := m.rtail + 1 } }
    setMirq (homeWrite s d (m.ring.toNat + 8 * slot) (i + if write then 2 ^ 32 else 0)) 2

/-- The counter record of a frame, at MIGBASE of the frame's home die (R245). -/
def recordAddrOf (s : State) (pa : Nat) : Nat := (getDie s (homeOf pa)).mig.base.toNat + 8 * frameIndex pa

/-- Count one access to a frame in its counter record; a count that reaches the die's threshold posts a notification (R245). -/
def countFrame (s : State) (pa : Nat) (write : Bool) : State :=
  if isDram s pa then
    let d := homeOf pa
    let m := (getDie s d).mig
    let a := recordAddrOf s pa
    let old : Word := BitVec.ofNat 64 (ofBytes (fun k => memGet s.mem (a + k)) 8)
    let new := recordAfter old write
    let s := homeWrite s d a new.toNat
    let count (r : Word) : Nat := if write then fieldOf r 16 16 else fieldOf r 0 16
    let th := if write then m.wrth.toNat else m.rdth.toNat
    if th ≠ 0 ∧ count new = th ∧ count old ≠ th then notifyMig s d (frameIndex pa) write else s
  else s

/-! ### Bandwidth (R376) -/

/-- The bucket of a partition that a DRAM address draws on, as 16 times the partition and the bucket. -/
def bucketOf (part a : Nat) : Nat := 16 * part + (4 * homeOf a + if a < 0x1000_0000_0000 then 0 else if a < cxlBase then 1 else 2)

/-- The bucket that a piece draws on: the partition, and the die and resource; none for cluster SRAM and registers. -/
def pieceBucket (p : Piece) : Option (Nat × Nat) :=
  match p.loc with
  | .dram pa layout _ _ part =>
    some (part, bucketOf part (placed pa layout) % 16)
  | .remote _ _ _ part die => some (part, 4 * die + 3)
  | _ => none

/-- Words of metadata that an access to a CXL line moves: that of its MAC, its counter block, and the nodes above it that the port does not hold verified
(R392), a free choice for each node. -/
def metaMoved (s : State) (pa : Nat) : List Nat :=
  macAddr s (cxlLine pa) / 64 :: ((metaPath s pa).filter fun k => k.1 == 0 || Config.freePick s.cycle (16 * k.2 + k.1)).map (metaWord s)

/-- A request of tokens, by bucket. -/
abbrev Demand := Table Nat

/-- Tokens that an access takes: one for each 64 bytes begun, and one for each word of CXL metadata. -/
def tokensOf (s : State) (ps : List Piece) : Demand :=
  let sums := ps.foldl (fun t p => match pieceBucket p with
    | some (part, k) => tupd 0 t (16 * part + k) (· + p.count)
    | none => t) ([] : Table Nat)
  let moved := ((dramWords ps).flatMap fun (w, _, _, part) =>
    if regionOf s (64 * w) = .cxl then (metaMoved s (64 * w)).map fun m => (m, part) else []).eraseDups
  moved.foldl (fun t (m, part) => tupd 0 t (bucketOf part (64 * m)) (· + 1)) (sums.map fun (k, n) => (k, (n + 63) / 64))

/-- Most tokens a bucket holds: values below 4 act as 4. -/
def bucketCap (b : Bucket) : Nat := max 4 b.burstNow.toNat

/-- A bucket limits nothing. -/
def unlimited (b : Bucket) : Bool := b.rateNow == 0xFFFFFF

/-- A bucket by 16 times the partition and its number. -/
def getBucket (s : State) (k : Nat) : Bucket := tget {} (getPart s (k / 16)).buckets (k % 16)

/-- A bucket has n tokens. An access of more than the bucket holds is several requests, whose tokens it draws as they come (log entry 96). -/
def bucketReady (s : State) (k n : Nat) : Bool :=
  let b := getBucket s k
  unlimited b || decide (n ≤ b.tokens) || (decide (bucketCap b < n) && decide (n ≤ b.tokens + b.saved))

/-- Replace a bucket. -/
def updBucket (s : State) (k : Nat) (f : Bucket → Bucket) : State :=
  let x := getPart s (k / 16)
  setPart s (k / 16) { x with buckets := tupd {} x.buckets (k % 16) f }

/-- Take n tokens of a bucket, and those drawn before where the access is larger than the bucket. -/
def takeBucket (s : State) (k n : Nat) : State :=
  if unlimited (getBucket s k) then s
  else updBucket s k fun b => { b with tokens := b.tokens - n, saved := b.saved - (n - b.tokens) }

/-- An access that waits for n tokens, more than the bucket holds, draws what there is. -/
def saveBucket (s : State) (k n : Nat) : State :=
  if unlimited (getBucket s k) || decide (n ≤ bucketCap (getBucket s k)) then s
  else updBucket s k fun b => { b with saved := b.saved + min b.tokens (n - b.saved), tokens := b.tokens - min b.tokens (n - b.saved) }

/-- Every bucket has the tokens of a demand. -/
def demandReady (s : State) (dm : Demand) : Bool := dm.all fun (k, n) => bucketReady s k n

/-- Take the tokens of a demand. -/
def takeDemand (s : State) (dm : Demand) : State := dm.foldl (fun s (k, n) => takeBucket s k n) s

/-- Two demands of one access. -/
def addDemand (a b : Demand) : Demand := b.foldl (fun t (k, n) => tupd 0 t k (· + n)) a

/-- What waiting for a demand leaves. -/
def awaitDemand (s : State) (dm : Demand) : State := dm.foldl (fun s (k, n) => saveBucket s k n) s

/-- Every bucket has the tokens that an access takes. -/
def tokensReady (s : State) (ps : List Piece) : Bool := demandReady s (tokensOf s ps)

/-- Take an access's tokens. -/
def takeTokens (s : State) (ps : List Piece) : State := takeDemand s (tokensOf s ps)

/-- What an access that waits for its tokens leaves. -/
def awaitTokens (s : State) (ps : List Piece) : State := awaitDemand s (tokensOf s ps)

/-- The bucket of a die's Benjor Link ports, and the tokens of a flit of 256 bytes (R338, R376). -/
def fabricBucket (part die : Nat) : Nat := 16 * part + (4 * die + 3)
def flitTokens : Nat := 4

/-! ### Writes -/

/-- Words of an access whose uncorrectable word a partial store meets without MIRE, or whose CXL metadata fails its check or epoch is exhausted: the
machine fault of the store (R222, R391, R392); an engine's write of an SRAM granule is whole (R224). -/
def storeFault (s : State) (ps : List Piece) (cells : List Host.Cell) (engine : Bool) : Option (BitVec 8 × Nat) :=
  lowestFault <| ps.filterMap fun p =>
    match p.loc with
    | .dram pa layout mire _ _ =>
      let q := placed pa layout
      if regionOf s q = .cxl ∧ (cxlExhausted s.cxl (cxlFrame q) || metaBad s q) then some (causeCxl, p.addr)
      else if !mire && wordLost s q && (coverOf cells (q / 64) < 64 || (getDie s (homeOf q)).fenced) then some (causeDram, p.addr)
      else none
    | .sram c g _ => if (sramGet (getCluster s c) g).bad && p.count < 16 && !engine then some (causeSram, p.addr) else none
    | .remote .. => if engine && linkFails s p false then some (causeFabric, p.addr) else none
    | _ => none

/-- A write waits while a counter of one of its CXL lines would pass its end: CXL_REKEY comes first, unless the epoch of its frame is used up, which faults
it (R391). -/
def writeWaits (s : State) (ps : List Piece) : Bool :=
  (dramWords ps).any fun (w, _) => regionOf s (64 * w) = .cxl && cxlFull s (64 * w) && !cxlExhausted s.cxl (cxlFrame (64 * w))

/-- The write of one line keeps it readable: not a partial store to an uncorrectable word, and no lost location (R222, R425). -/
def wordDead (s : State) (cells : List Host.Cell) (w : Nat) : Bool :=
  (wordLost s (64 * w) && coverOf cells w < 64) || (getDie s (homeOf (64 * w))).fenced

/-- A line goes to another key by a write: then what the write leaves of it is undefined (R214, R387). A CXL line also has its MAC (R392). -/
def rekeyed (s : State) (w key part : Nat) : Bool :=
  match tagFor s part key, tfind s.lineTags w with
  | some t, some o => !sameKey (regionOf s (64 * w) == .cxl) o.key t.key || (regionOf s (64 * w) == .cxl && o.integrity != t.integrity)
  | _, _ => false

/-- The rest of a line that goes to another key, undefined. -/
def restCells (w : Nat) (cells : List Host.Cell) (free : Nat) : List Host.Cell :=
  (((List.range 64).map (64 * w + ·)).filter fun a => !(cells.any fun c => c.1 == a)).map fun a =>
    (a, BitVec.ofNat 8 ((Config.freeGranule (free + a % 64 / 16)).toNat >>> (8 * (a % 16))))

/-- The ECC words that a write poisons: those that receive a byte from an invalid lane or lost source (R221, R266). -/
def poisonedWords (ps : List Piece) (bad : Nat → Bool) : List Nat :=
  ((ps.filter fun p => (List.range p.count).any fun i => bad (p.pos + i)).flatMap fun p =>
    match p.loc with
    | .dram pa layout _ _ _ => [placed pa layout / 64]
    | _ => []).eraseDups

/-- Write the SRAM pieces of an access. fa is the F action of a store (R253), engine says an engine writes. -/
def writeSram (s : State) (ps : List Piece) (byte : Nat → Byte) (bad : Nat → Bool) (fa : Fe) (engine : Bool) : State :=
  ps.foldl (fun s p =>
    match p.loc with
    | .sram c g _ =>
      let data : Granule := BitVec.ofNat 128
        (packN 8 (fun i => if i < p.count then (if bad (p.pos + i) then 0 else (byte (p.pos + i)).toNat) else 0) 16 <<< (8 * p.first))
      let anyBad := (List.range p.count).any fun i => bad (p.pos + i)
      let v := sramWrite (sramGet (getCluster s c) g) (byteMask p.first p.count) data anyBad engine
      let v := match fa with
        | .none => v
        | .fe => { v with f := true }
        | .fec => { v with f := false }
      sramStore s c g v
    | _ => s) s

/-- The pieces of a write that reach another package, each with its bytes: an engine's mire flit may be lost (R338). -/
def farWrites (s : State) (ps : List Piece) (engine : Bool) : List (Piece × Nat × Nat) := ps.filterMap fun p =>
  match p.loc with
  | .remote pkg off .. => if engine && linkFails s p true then none else some (p, pkg, off)
  | _ => none

/-- Write pieces in another package. -/
def writeFar (s : State) (l : List (Piece × Nat × Nat)) (byte : Nat → Byte) : State :=
  l.foldl (fun s (p, pkg, off) =>
    let data : Granule := BitVec.ofNat 128 (ofBytes (fun i => byte (p.pos + i)) p.count <<< (8 * p.first))
    let s := farPut s pkg off (byteMask p.first p.count) data
    { s with fabricOut := s.fabricOut ++ [.write pkg (off + p.first) ((List.range p.count).map fun i => byte (p.pos + i))] }) s

/-- Perform a write of an access at its homes (R222, R293): the state and the stamp of each home it reached, or the machine
fault. Bytes from an invalid lane or lost source poison their DRAM word (R221, R266). counted names the words that an earlier part of the access has
counted and drawn tokens for. -/
def writeAccess (s : State) (ps : List Piece) (byte : Nat → Byte) (bad : Nat → Bool) (fa : Fe) (engine : Bool) (deps : List Nat)
    (counted : List Nat := []) : Except (BitVec 8 × Nat) (State × List (Nat × Nat)) :=
  let all := dramCells ps byte
  let s0 := s
  match storeFault s ps all engine with
  | some e => .error e
  | none =>
    let words := (dramWords ps).filter fun (w, _) => !wordDead s all w
    let poisoned := poisonedWords ps bad
    let rest := (words.filter fun (w, _, key, part) => rekeyed s w key part).zipIdx.flatMap fun ((w, _), i) => restCells w all (s.freeCtr + 4 * i)
    let cells := all.filter (fun c => words.any fun (w, _) => w == c.1 / 64) ++ rest
    let lines : Table LineMeta := words.map fun (w, _, key, part) =>
      (w, { tag := (tagFor s part key).orElse fun _ => tfind s.lineTags w, lost := poisoned.contains w })
    let s := takeTokens (if rest.isEmpty then s else takeFree s (4 * words.length)) (ps.filter fun p => (pieceWord p).all (!counted.contains ·))
    let s := words.foldl (fun s (w, _, _, _) =>
      let s := if regionOf s (64 * w) = .cxl then { s with cxl := cxlCount s (64 * w) } else s
      if counted.contains w then s else countFrame s (64 * w) true) s
    let homes := (words.map fun (w, _) => homeOf (64 * w)).eraseDups
    let (s, stamps) := homes.foldl (fun (s, l) h =>
      let (s, st) := performAtHome s h (cells.filter fun c => homeOf c.1 == h) (lines.filter fun m => homeOf (64 * m.1) == h) deps
      (s, l ++ [st])) (s, [])
    .ok (noteTouch (writeSram (writeFar s (farWrites s0 ps engine) byte) ps byte bad fa engine) ps, stamps)

/-- Bytes end undefined where they stand (R7). -/
def freeBytes (s : State) (ps : List Piece) : State :=
  let free (k : Nat) : Granule := Config.freeGranule (s.freeCtr + k)
  let cells := ps.zipIdx.flatMap fun (p, k) => match p.loc with
    | .dram pa layout _ _ _ => (List.range p.count).map fun i => (placed pa layout + p.first + i, granuleByte (free k) (p.first + i))
    | _ => []
  let homes := (cells.map fun c => homeOf c.1).eraseDups
  let s' := homes.foldl (fun s h => (performAtHome s h (cells.filter fun c => homeOf c.1 == h) [] (clockVector s h [])).1) s
  takeFree (ps.zipIdx.foldl (fun s (p, k) => match p.loc with
    | .sram c g _ =>
      let x := sramGet (getCluster s c) g
      let m := byteMask p.first p.count
      sramPut s c g { x with data := (x.data &&& ~~~ m) ||| (free k &&& m) }
    | .remote pkg off .. => farPut s pkg off (byteMask p.first p.count) (free k)
    | _ => s) s') ps.length

/-! ## Translation (R212 to R216, R381, R382) -/

/-- How a walk ends (R215): a failed read of a table entry is a machine fault. -/
inductive Walk where
  | leaf (e : Word) (pageBits : Nat)
  | absent
  | bad
  | error (cause : BitVec 8)
deriving DecidableEq, Repr

/-- Levels of a walk: low index bit, index bits, and whether a leaf may stand there (R212). -/
def walkLevels : List (Nat × Nat × Bool) := [(48, 8, false), (39, 9, false), (30, 9, true), (21, 9, true), (16, 5, true)]

/-- Whether an address may be named by an entry: a leaf also by the fabric window (R215, R337, R369). -/
def nameable (s : State) (pa : Nat) (leafEntry : Bool) : Bool :=
  isDram s pa || (leafEntry && regionOf s pa == .fabric)

/-- What a table entry says (R213, R215): the page is absent, the entry breaks a rule, it maps a page, or it names the next table. -/
inductive EntryKind where
  | absent
  | bad
  | leaf
  | table (next : Nat)
deriving DecidableEq, Repr

/-- The kind of an entry of the level whose low index bit is lo; below gives the index bits of the next level, none at the last. A NEXT that is not aligned
to the size of its table, which R212 rules out and R215 names no outcome for, counts among the entries that break a rule (log entry 108: the model's
choice). -/
def entryKind (s : State) (lo : Nat) (leafOk : Bool) (below : Option Nat) (e : Word) : EntryKind :=
  if !bitOf e.toNat 0 then .absent
  else if bitOf e.toNat 4 then
    let frame := fieldOf e 16 36 * 65536
    if !leafOk || fieldOf e 14 2 ≠ 0 || fieldOf e 52 12 ≠ 0 || frame % 2 ^ lo ≠ 0 || !nameable s frame true then .bad else .leaf
  else
    let next := fieldOf e 8 44 * 256
    match below with
    | none => .bad
    | some n =>
      if fieldOf e 1 3 ≠ 0 || fieldOf e 5 3 ≠ 0 || fieldOf e 52 12 ≠ 0 || !nameable s next false || next % (8 * 2 ^ n) ≠ 0 then .bad else .table next

/-- The table entry at an address in the view of a die, under the partition's key slot 0 (R212, R302, R381), or the cause of the machine fault of an
entry that cannot be read, whatever MIRE says (R215, R223). -/
def tableWord (s : State) (d part a : Nat) : Except (BitVec 8) Word :=
  let g := readDram s d (a / 16 * 16) true 0 part 0
  match g.fault with
  | some c => .error c
  | none => if g.lost then .error causeTable else .ok (BitVec.ofNat 64 (g.data.toNat >>> (8 * (a % 16))))

/-- A cached entry serves an address of an address space (R382). -/
def serves (who : Translator) (asid : BitVec 16) (va : Nat) (t : TlbEntry) : Bool := t.owner == who && t.asid == asid && va / 2 ^ t.size == t.page

/-- The upper-level entry for an address that the walker of a die has cached for a level (R382). -/
def cachedTable (s : State) (d part va lo : Nat) : Option Word :=
  (s.tlb.find? fun t => serves (.walk d) (getPart s part).asid va t && t.size == lo).map (·.leaf)

/-- The entry that a walk uses at a level: from memory, or, when the walk cache holds one that differs, either (R302): a free choice. -/
def walkEntry (s : State) (d part va lo level a : Nat) : Except (BitVec 8) Word :=
  match cachedTable s d part va lo with
  | some e =>
    let old := Config.freePick s.freeCtr (8 * (va / 2 ^ lo) + level)
    match tableWord s d part a with
    | .ok m => .ok (if m ≠ e ∧ old then e else m)
    | .error c => if old then .ok e else .error c
  | none => tableWord s d part a

/-- Address of the entry for a virtual address in a table. -/
def entryAddr (va lo n table : Nat) : Nat := table + 8 * bits va (lo + n - 1) lo

/-- The walk of R212 to R215 below a table, in the view of a die. -/
def walkFrom (s : State) (d part va : Nat) : List (Nat × Nat × Bool) → Nat → Walk
  | [], _ => .bad
  | (lo, n, leafOk) :: rest, table =>
    match walkEntry s d part va lo rest.length (entryAddr va lo n table) with
    | .error c => .error c
    | .ok e =>
      match entryKind s lo leafOk (rest.head?.map (·.2.1)) e with
      | .absent => .absent
      | .bad => .bad
      | .leaf => .leaf e lo
      | .table next => walkFrom s d part va rest next

/-- The walk of a virtual address: with key slot 0 empty, the translation fault (R381). -/
def walk (s : State) (d part va : Nat) : Walk :=
  if (tfind (getPart s part).keys 0).isNone then .bad else walkFrom s d part va walkLevels (getPart s part).proot.toNat

/-- The tables that a walk goes through: the address of each entry that it reads, with the low index bit of its level and the entry. -/
def walkPath (s : State) (d part va : Nat) : List (Nat × Nat × Bool) → Nat → List (Nat × Nat × Word)
  | [], _ => []
  | (lo, n, leafOk) :: rest, table =>
    let a := entryAddr va lo n table
    match walkEntry s d part va lo rest.length a with
    | .error _ => [(a, lo, 0)]
    | .ok e =>
      (a, lo, e) :: match entryKind s lo leafOk (rest.head?.map (·.2.1)) e with
        | .table next => walkPath s d part va rest next
        | _ => []

/-- The translation that an agent has cached for an address (R382). -/
def cached (s : State) (who : Option Translator) (part va : Nat) : Option (Word × Nat) :=
  who.bind fun w => (s.tlb.find? (serves w (getPart s part).asid va)).map fun t => (t.leaf, t.size)

/-- Bytes between the interleave boundaries around an address that a leaf entry maps, at most a 64 KiB page (R211). -/
def interleave (e : Word) : Nat :=
  let pa := fieldOf e 16 36 * 65536
  if pa < 0x1000_0000_0000 then 4096 else if pa < cxlBase then 65536 else 256

/-- The sub-access of a granule: the bytes between two page or interleave boundaries of either translation (R217, R302). -/
def subAccess (w : Walk) (e : Word) (va : Nat) : Nat :=
  va / match w with
    | .leaf f _ => min (interleave e) (interleave f)
    | _ => interleave e

/-- The translation an access uses: the fresh walk, or, when the agent's cached entry differs from it, either (R302): a free choice for each
sub-access. -/
def lookup (s : State) (d part va : Nat) (who : Option Translator := none) : Walk :=
  let w := walk s d part va
  match cached s who part va with
  | some (e, n) => if w ≠ .leaf e n ∧ Config.freePick s.freeCtr (8 * subAccess w e va + 5) then .leaf e n else w
  | none => w

/-- Two cached entries share a place of limited size: a set of a core's TLB (the address bits just above the page size choose it), a stream TLB, a
walk cache (R382). -/
def sameSet (a b : TlbEntry) : Bool :=
  a.owner == b.owner && match a.owner with
    | .core _ => a.page % 64 == b.page % 64
    | _ => true

/-- Entries that such a place holds: 8 ways, 32 entries; the manual sets no size for a walk cache and for what holds export entries. -/
def placeSize : Translator → Option Nat
  | .core _ => some 8
  | .walk _ | .exportMap => none
  | _ => some 32

/-- Some die has yet to install an update of the page that an entry maps. -/
def entryPending (s : State) (t : TlbEntry) : Bool :=
  let f := fieldOf t.leaf 16 36 * 65536
  s.dies.any fun (_, x) => x.inbox.any fun u => u.cells.any fun c => decide (f ≤ c.1) && decide (c.1 < f + 2 ^ t.size)

/-- Entries leave the translators: those whose page still has updates on their way are remembered for an unmap, and those of the export map, which accesses
in flight may have used (R296, R302, R383). -/
def dropEntries (s : State) (f : TlbEntry → Bool) : State :=
  { s with tlb := s.tlb.filter (!f ·), tlbGone := ((s.tlb.filter f ++ s.tlbGone).filter fun t => t.owner == .exportMap || entryPending s t).eraseDups }

/-- The entry that goes from a full place to make room for another: a free choice. -/
def victim (s : State) (t : TlbEntry) : Option TlbEntry :=
  let mine := s.tlb.filter (sameSet t)
  match placeSize t.owner with
  | some n => if mine.length < n then none else mine[(Config.freeWord (s.freeCtr + t.page)).toNat % mine.length]?
  | none => none

/-- Keep an entry (R382): it replaces what its owner holds for the same span; from a full place one entry goes. -/
def keepEntry (s : State) (t : TlbEntry) : State :=
  let s := dropEntries s fun u => u.owner == t.owner && u.asid == t.asid && u.size == t.size && u.page == t.page
  let s := dropEntries s fun u => some u == victim s t
  { s with tlb := t :: s.tlb }

/-- What an access needs of a page (R216). -/
structure Need where
  rd : Bool := false
  wr : Bool := false
  ex : Bool := false
  bank : Bool := false
deriving DecidableEq, Repr

/-- Why an access cannot proceed: page not present, tokens of a bucket that are still to come (R376), or a fault cause. -/
inductive Stop where
  | page
  | busy (dm : Demand)
  | cause (c : BitVec 8)
deriving DecidableEq, Repr

/-- First address of the device aperture (R372). -/
def apertureBase : Nat := 0xFF_0000_0000_0000

/-- An address in the device aperture (R372). -/
def inAperture (a : Nat) : Bool := apertureBase ≤ a && a < apertureBase + 0x4_0000_0000

/-! ### The fabric window (R337, R394) -/

/-- The partition is enabled and not in reset. -/
def partLive (s : State) (p : Nat) : Bool := (getPart s p).en && (getPart s p).reset == .idle

/-- The entry of an export unit: as it stands in the map, or, when the receive unit has kept an older one, either (R302, R383). -/
def exportEntry (s : State) (unit : Nat) : Word :=
  let e : Word := BitVec.ofNat 64 (viewNat s 0 (s.mgmt.expbase.toNat + 8 * unit) 8)
  match s.tlb.find? fun t => t.owner == .exportMap && t.page == unit with
  | some t => if Config.freePick s.freeCtr (8 * unit + 7) then t.leaf else e
  | none => e

/-- Keep the entry of an export unit. -/
def keepExport (s : State) (unit : Nat) : State := keepEntry s { owner := .exportMap, asid := 0, page := unit, size := 16, leaf := exportEntry s unit }

/-- The partition, key slot and frame that an access reaches through an export unit, if its map entry is valid, permits it, and names a partition that
has granted the unit (R394). -/
def exportTarget (s : State) (off : Nat) (write : Bool) : Option (Nat × Nat × Nat) :=
  let unit := off / 65536
  let e := exportEntry s unit
  let p := fieldOf e 3 3
  let frame := fieldOf e 16 36 * 65536
  if 2 ^ 34 ≤ off || !bitOf e.toNat 0 || !bitOf e.toNat (if write then 2 else 1) || !partLive s p || !s.mgmt.exports.contains (8 * unit + p) ||
      !isDram s frame || (tfind (getPart s p).keys (fieldOf e 6 4)).isNone then none
  else some (p, fieldOf e 6 4, frame)

/-- A sealed route leads to a package over a port that stage 1 trained; other ports stay down (R393). -/
def routed (s : State) (pkg : Nat) : Bool := s.mgmt.routes.any fun r => r.2 == pkg && s.mgmt.ports.contains r.1

/-- The location of a fabric-window address with a leaf's LAYOUT and MIRE (R337): a flit to a package that no sealed route leads to is lost (R338, R393); in this package through its own export map; in another, whether the
unit is mapped and consents is that package's affair, so a free choice; a target of D or more is never mapped. -/
def fabricLoc (s : State) (d part va pa : Nat) (need : Need) (layout mire : Bool) : Except Stop Loc :=
  let pkg := bits pa 46 34
  let off := bits pa 33 0
  if s.dsize ≤ pkg then .error (.cause causeTranslation)
  else if pkg ≠ s.pkg ∧ !routed s pkg then (if mire then .ok .lost else .error (.cause causeFabric))
  else if pkg = s.pkg then
    match exportTarget s off need.wr, !need.rd || (exportTarget s off false).isSome with
    | some (p, key, frame), true => .ok (.dram ((frame + off % 65536) / 16 * 16) layout mire key p)
    | _, _ => .error (.cause causeTranslation)
  else if Config.freePick s.freeCtr (8 * (va / 65536) + 6) then .ok (.remote pkg off mire part d)
  else .error (.cause causeTranslation)

/-- The location of the granule at a virtual address for an agent of a die and partition that caches translations in who (R215, R251, R372). -/
def locate (s : State) (d part va : Nat) (need : Need) (who : Option Translator := none) : Except Stop Loc :=
  if inAperture va then .error (.cause causeProtection)
  else if 2 ^ 56 ≤ va || bits va 55 48 = 0xFF then .error (.cause causeTranslation)
  else
    match lookup s d part va who with
    | .absent => .error .page
    | .bad => .error (.cause causeTranslation)
    | .error c => .error (.cause c)
    | .leaf e n =>
      let pa := fieldOf e 16 36 * 65536 + va % 2 ^ n
      let key := fieldOf e 10 4
      if (need.rd && !bitOf e.toNat 1) || (need.wr && !bitOf e.toNat 2) || (need.ex && !bitOf e.toNat 3) then
        .error (.cause causeProtection)
      else if need.bank && !bitOf e.toNat 8 then .error (.cause causeLayout)
      else if regionOf s pa = .fabric then fabricLoc s d part va (pa / 16 * 16) need (bitOf e.toNat 8) (bitOf e.toNat 7)
      else if (tfind (getPart s part).keys key).isNone then .error (.cause causeProtection)
      else .ok (.dram (pa / 16 * 16) (bitOf e.toNat 8) (bitOf e.toNat 7) key part)

/-- The granules of n bytes from address a (R217): granule address, first byte, count, position. -/
def spans (a n : Nat) : List (Nat × Nat × Nat × Nat) :=
  (List.range ((a % 16 + n + 15) / 16)).map fun t =>
    let lo := max a (a / 16 * 16 + 16 * t)
    let hi := min (a + n) (a / 16 * 16 + 16 * t + 16)
    (a / 16 * 16 + 16 * t, lo % 16, hi - lo, lo - a)

/-- The granules at which an access to n bytes enters a page (R217). -/
def pageStarts (a n : Nat) : List Nat :=
  (spans a n).foldl (fun l g => if l.any (· / 65536 == g.1 / 65536) then l else l ++ [g.1]) []

/-- The translation of an address needs no walk: none has a table, or what the agent has cached serves. -/
def noWalk (s : State) (d part va : Nat) (who : Option Translator) : Bool :=
  inAperture va || decide (2 ^ 56 ≤ va) || bits va 55 48 == 0xFF ||
  match cached s who part va with
  | some (e, n) => lookup s d part va who == .leaf e n
  | none => false

/-- The table entries that the walk of an address reads: those that the walk cache does not serve. -/
def walkReads (s : State) (d part va : Nat) (who : Option Translator) : List (Nat × Nat × Word) :=
  if noWalk s d part va who || (tfind (getPart s part).keys 0).isNone then []
  else (walkPath s d part va walkLevels (getPart s part).proot.toNat).filter fun (_, lo, e) => cachedTable s d part va lo != some e

/-- The tokens of the walks that an access makes: one for each entry read (R376). -/
def walkDemand (s : State) (d part a n : Nat) (who : Option Translator) : Demand :=
  ((pageStarts a n).flatMap fun va => walkReads s d part va who).foldl (fun t (e, _, _) => tupd 0 t (bucketOf part e) (· + 1)) []

/-- Resolve n bytes from a virtual address: the pieces, or the lowest granule that stops the access (R218). -/
def resolveVirtual (s : State) (d part a n : Nat) (need : Need) (who : Option Translator := none) : Except (Stop × Nat) (List Piece) :=
  if !demandReady s (walkDemand s d part a n who) then .error (.busy (walkDemand s d part a n who), a)
  else (spans a n).foldr (fun (g, first, count, pos) acc =>
    match locate s d part g need who with
    | .error e => .error (e, g)
    | .ok l => acc.map fun ps => { loc := l, addr := g, first := first, count := count, pos := pos } :: ps) (.ok [])

/-- Pieces of n bytes at a physical address under a key slot of a partition. -/
def physPieces (pa n key part : Nat) : List Piece :=
  (spans pa n).map fun (g, first, count, pos) => { loc := .dram g false false key part, addr := g, first := first, count := count, pos := pos }

/-- The export unit of this package through which an access to an address goes, if it does (R337). -/
def ownExport (s : State) (d part va : Nat) (who : Option Translator) : Option Nat :=
  match lookup s d part va who with
  | .leaf e n =>
    let pa := fieldOf e 16 36 * 65536 + va % 2 ^ n
    if regionOf s pa = .fabric ∧ bits pa 46 34 = s.pkg then some (bits pa 33 0 / 65536) else none
  | _ => none

/-- The entry of the export map that an access uses stays with the receive unit (R383). -/
def keepOwnExport (s : State) (d part va : Nat) (who : Option Translator) : State := match ownExport s d part va who with
  | some u => keepExport s u
  | none => s

/-- What translating one address leaves behind for an agent of a die (R245, R382): a walk counts the reads of its entries and keeps those with LEAF = 0 in
the die's walk cache; the leaf stays with the agent. Nothing where the agent's own entry served. -/
def cacheWalk (s : State) (d part va : Nat) (who : Option Translator) : State :=
  if noWalk s d part va who then s
  else
    let asid := (getPart s part).asid
    let t := (walkReads s d part va who).foldl (fun t (a, lo, e) =>
      let t := countFrame t a false
      if bitOf e.toNat 0 && !bitOf e.toNat 4 then keepEntry t { owner := .walk d, asid := asid, page := va / 2 ^ lo, size := lo, leaf := e } else t) s
    match lookup s d part va who, who with
    | .leaf e n, some w => keepEntry t { owner := w, asid := asid, page := va / 2 ^ n, size := n, leaf := e }
    | _, _ => t

/-- The same, with what the receive unit keeps. -/
def cachePage (s : State) (d part va : Nat) (who : Option Translator) : State := cacheWalk (keepOwnExport s d part va who) d part va who

/-- What an access to n bytes leaves behind of its translations, page by page: the tokens of its walks, and what each leaves. -/
def cacheAccess (s : State) (d part a n : Nat) (who : Option Translator := none) : State :=
  (pageStarts a n).foldl (fun t va => cachePage t d part va who) (takeDemand s (walkDemand s d part a n who))

/-- What a walk that ends badly leaves: its reads are counted (R245); a stall that waits on its page request walks no more (R403). -/
def failedWalk (s : State) (d part va : Nat) (who : Option Translator) : State :=
  if s.mgmt.prq.any fun r => r.part == part && r.page == va / 65536 && !r.cancel then s
  else cachePage (takeDemand s (walkDemand s d part va 1 who)) d part va who

/-- A granule of a buffer (R225, R227). -/
def bufferLoc (cluster : Nat) (h : Handle) (off : Nat) : Loc :=
  if off < 128 * h.len then .sram cluster (8 * h.base + off / 16) off else .beyond

/-- Resolve n bytes from an offset of a buffer: a granule past 2^64 is out of range like one past the end of the buffer (R227, R251). -/
def resolveBuffer (cluster : Nat) (h : Handle) (off n : Nat) : List Piece :=
  (spans off n).map fun (g, first, count, pos) =>
    { loc := bufferLoc cluster h g, addr := g, first := first, count := count, pos := pos }

/-- The lowest granule of a buffer access that lies beyond the buffer (R227). -/
def firstBeyond (ps : List Piece) : Option Nat :=
  ps.foldl (fun m p => match p.loc, m with
    | .beyond, some a => some (min a p.addr)
    | .beyond, none => some p.addr
    | _, m => m) none

/-! ## Reads that reach memory (R245, R376) -/

/-- What an access that is being read leaves: it draws its tokens and counts the frames that it reached (R245, R376), what it saw of other packages stays
seen (R293), and cards that stray take note (R282). -/
def countReads (s : State) (ps : List Piece) : State :=
  (dramWords ps).foldl (fun s (w, _, _, _) => countFrame s (64 * w) false) (takeTokens (noteTouch (farSeen s ps) ps) ps)

/-- Bytes that were resolved as one little-endian number: a lost word is the machine fault whatever MIRE says (R220), at the lowest granule that is lost
(R218). -/
def readBare (s : State) (d a n : Nat) (ps : List Piece) : Except (BitVec 8 × Nat) Nat :=
  let gs := linkReads s ps (readPieces s d ps 0)
  let bad := (firstFault ps gs).toList ++ (((List.range n).find? (accessLost ps gs)).map fun i => (causeDram, (a + i) / 16 * 16)).toList
  match lowestFault bad with
  | some e => .error e
  | none => .ok (ofBytes (accessByte ps gs) n)

/-- Read n bytes at address a as one number, where walk is the demand of its translations. -/
def readWhole (s : State) (d a n : Nat) (ps : List Piece) (walk : Demand) : Except (Stop × Nat) Nat :=
  if !demandReady s (addDemand walk (tokensOf s ps)) then .error (.busy (addDemand walk (tokensOf s ps)), a)
  else
    match readBare s d a n ps with
    | .error (c, g) => .error (.cause c, g)
    | .ok v => .ok v

/-! ## Page requests (R403) -/

/-- Post a request for a page: stalls of one partition on one page share it; with every tag in use the stall waits without one. engine names the engine whose
job waits. -/
def postPage (s : State) (part va : Nat) (access : BitVec 2) (engine : List (Option Translator)) : State × Option Nat :=
  let page := va / 65536
  let mine (r : PageRequest) : Bool := r.part == part && r.page == page && !r.cancel
  match s.mgmt.prq.find? mine with
  | some r =>
    ({ s with mgmt := { s.mgmt with prq := s.mgmt.prq.map fun r => if mine r then { r with waiters := engine.filter (!r.waiters.contains ·) ++ r.waiters } else r } },
      some r.tag)
  | none =>
    match firstIndex (fun t => !(s.mgmt.prq.any fun r => r.tag == t && !r.cancel)) 256 with
    | none => (s, none)
    | some t =>
      let none0 := s.mgmt.prq.all fun r => r.popped
      let s := { s with mgmt := { s.mgmt with prq := s.mgmt.prq ++
        [{ part := part, access := access, tag := t, page := page, popped := false, cancel := false, waiters := engine }] } }
      (if none0 then setMirq s 1 else s, some t)

/-- The executing sequencer stops at its instruction on page not present, or on what stops the access (R256, R402). The reads of a walk that ended so are
counted (R245). -/
def stopAccess (s : State) (part : Nat) (e : Stop) (g : Nat) (access : BitVec 2) : Res :=
  let walked := failedWalk s (dieOfCore s.cur.1) part g (some (.core s.cur.1))
  match e with
  | .cause c => fault c g (if c = causeHandle then s else walked)
  | .busy dm => block .other (awaitDemand s dm)
  | .page =>
      let (t, tag) := postPage walked part g access []
      .next (setCurSeq t { curSeq t with wait := .page, pageTag := tag, stallAddr := BitVec.ofNat 56 g })

end Sys2Proof.Machine
end

