-- ==== Sys2Proof/Machine/Devices.lean ====
section
/-! DEFINITION. What the registers of a partition's device window read as (R227, R240, R305, R336, R359, R373, R374, R411, R419, R422), and which of
them an atomic may reach (R372). -/

namespace Sys2Proof.Machine

/-- One bit as a number. -/
def bitNat (b : Bool) : Nat := if b then 1 else 0

/-- Pacing is on (R238): the count of late entries of some hop is above the threshold of the running itinerary. -/
def pacingOn (l : Lamp) : Bool :=
  match l.running with
  | some it => it.thresh != 65535 && (List.range 3).any fun h => decide (it.thresh < tget 0 l.lateNow h)
  | none => false

/-- The partition control block (R374, R411, R422). -/
def controlRead (x : Partition) (p off : Nat) : Nat :=
  match off with
  | 0x00 => p + bitNat (x.reset != .idle) * 8 + x.clusters.toNat * 16
  | 0x08 => x.pirq.toNat
  | 0x10 => x.pimask.toNat
  | 0x20 => bitNat x.dbgok
  | 0x30 => bitNat x.consentRd + 2 * bitNat x.consentWr + x.budget.toNat * 2 ^ 16
  | 0x40 => x.wdog.toNat
  | 0x48 => x.stopbase.toNat
  | 0x58 => bitNat x.halt.halted + 2 * bitNat x.halt.norec + 4 * x.halt.cause.toNat + x.halt.core * 2 ^ 10 + bitNat x.halt.resumable * 2 ^ 20 +
      bitNat x.halt.debug * 2 ^ 21 + x.halt.count.toNat * 2 ^ 32
  | 0x60 => x.cxpool.toNat
  | 0x68 => x.cxper.toNat
  | _ => 0

/-- A stream's registers (R305). -/
def streamRead (x : Stream) (off : Nat) : Nat :=
  match off with
  | 0x00 => x.base.toNat
  | 0x08 => x.logsize.toNat + x.prio.toNat * 16 + bitNat x.en * 64
  | 0x10 => x.tail.toNat
  | 0x18 => x.head.toNat
  | 0x20 => x.state.toNat + x.err.toNat * 2 ^ 8 + x.serial.toNat * 2 ^ 16
  | 0x28 => x.done.toNat
  | _ => 0

/-- The scheduling block (R305). -/
def schedRead (x : Partition) (off : Nat) : Nat :=
  if off < 0x1000 then streamRead (tget {} x.streams (off / 64)) (off % 64)
  else if off < 0x1800 then (tget 0 x.cnt ((off - 0x1000) / 8)).toNat
  else if off = 0x1800 then x.ageq.toNat
  else 0

/-- LLSTAT.ENTRY: index of the oldest entry of an itinerary that has not completed. The first move entry is number 0, the header not being counted (log
entry 105: the model's choice). -/
def oldestEntry (it : Itinerary) : Nat := (it.entries.findIdx? fun e => !e.complete).getD it.entries.length

/-- A capture unit's registers (R239, R240). -/
def captureRead (c : Capture) (off : Nat) : Nat :=
  match off with
  | 0x00 => c.min.toNat
  | 0x08 => c.max.toNat
  | 0x10 => c.cnt.toNat
  | 0x18 => c.lmax.toNat
  | _ => if 0x40 ≤ off ∧ off < 0xC0 then (tget 0 c.hist ((off - 0x40) / 8)).toNat else 0

/-- A Lamplighter block (R240); LLSTAT.ENTRY reads 0 while no itinerary runs (log entry 105: the model's choice). -/
def lampRead (l : Lamp) (off : Nat) : Nat :=
  if off = 0 then bitNat l.running.isSome + 2 * bitNat l.lastStopped + 256 * (match l.running with
      | some it => oldestEntry it
      | none => 0)
  else if 0x10 ≤ off ∧ off < 0x28 then (tget 0 l.late ((off - 0x10) / 8)).toNat
  else if off = 0x28 then
    min 0xFFFF (tget 0 l.lateNow 0) + min 0xFFFF (tget 0 l.lateNow 1) * 2 ^ 16 + min 0xFFFF (tget 0 l.lateNow 2) * 2 ^ 32
  else if off = 0x30 then bitNat (pacingOn l) + l.paceCyc.toNat * 2 ^ 16
  else if 0x100 ≤ off ∧ off < 0x400 then captureRead (tget {} l.cap (off / 0x100 - 1)) (off % 0x100)
  else 0

/-- A request-gatherer block (R359). -/
def gathRead (g : Gatherer) (off : Nat) : Nat :=
  match off with
  | 0x00 => g.ring.toNat
  | 0x08 => g.logsize.toNat + bitNat g.en * 16 + bitNat g.drain * 32
  | 0x10 => g.tail.toNat
  | 0x18 => g.head.toNat
  | 0x20 => g.cfg.toNat
  | 0x28 => g.dead.toNat
  | 0x30 => (match g.openBatch with
      | some b => b.rows
      | none => 0) + g.ready.length * 2 ^ 16 + g.issued.toNat * 2 ^ 32
  | _ => 0

/-- The switch of a group that this package's ports reach: its leaf switch, or the only one. -/
def portSwitch (s : State) (g : Group) : Option Nat :=
  match g.leaves.find? fun l => l.2.contains s.pkg with
  | some l => some l.1
  | none => if g.leaves.isEmpty then some g.top else none

/-- Stragglers that this package's leaf switches have discarded for a partition's collectives (R336, R349); saturates. -/
def lateCount (s : State) (p : Nat) : Nat :=
  min 65535 (s.groups.foldl (fun n (i, g) =>
    if g.part ≠ p then n
    else
      match portSwitch s g with
      | some w => n + tget 0 (tget {} s.switches w : Switch).late i
      | none => n) 0)

/-- SWLATE of a partition at its reset value (R336, R378). -/
def clearLate (s : State) (p : Nat) : State :=
  s.groups.foldl (fun t (i, g) =>
    match if g.part = p then portSwitch s g else none with
    | some w =>
      let x : Switch := tget {} t.switches w
      if (tfind x.late i).isSome then { t with switches := tput t.switches w { x with late := tdel x.late i } } else t
    | none => t) s

/-- FABID (R336). -/
def fabidRead (s : State) (p : Nat) : Nat := s.pkg + s.dsize * 2 ^ 16 + lateCount s p * 2 ^ 32

/-- A core status block (R227, R419). -/
def coreRead (y : CoreState) (off : Nat) : Nat :=
  match off with
  | 0x00 => y.hoor.toNat
  | 0x08 => y.hoork.toNat
  | 0x10 => 2 * bitNat (y.parkReq.isSome || y.spilling.isSome) + 4 * ((List.range 4).foldl (fun n i => n + bitNat (tfind y.parked i).isSome * 2 ^ i) 0)
  | _ => 0

/-- A die holds clusters of a partition. -/
def dieHeld (x : Partition) (d : Nat) : Bool := (List.range 9).any fun c => bitOf x.clusters.toNat (9 * d + c)

/-- A register of a partition's device window, at an offset that is a multiple of 8 (R373): an offset with no register reads as zero, and so do the blocks
of dies and cores that hold none of its clusters. -/
def windowRead (s : State) (p off : Nat) : Nat :=
  let x := getPart s p
  if off < 0x10000 then controlRead x p off
  else if off < 0x20000 then schedRead x (off - 0x10000)
  else if off < 0x24000 then
    let d := off / 0x1000 % 16
    if dieHeld x d then lampRead (tget {} (getDie s d).lamps p) (off % 0x1000) else 0
  else if 0x30000 ≤ off ∧ off < 0x30400 then
    let d := off / 0x100 % 16
    if dieHeld x d then gathRead (tget {} (getDie s d).gatherers p) (off % 0x100) else 0
  else if off = 0x40000 then fabidRead s p
  else if 0x100000 ≤ off ∧ off < 0x100000 + 0x40 * 576 then
    let c := (off - 0x100000) / 0x40
    if bitOf x.clusters.toNat (c / 16) then coreRead (getCore s c) (off % 0x40) else 0
  else 0

/-- What a load of width 32 or 64 at an offset of the device window reads, from the low end. -/
def deviceRead (s : State) (p off : Nat) : Word := BitVec.ofNat 64 (windowRead s p (off / 8 * 8) >>> (8 * (off % 8)))

/-- Registers with a W1C field: PIRQ and HOOR. -/
def deviceW1c (off : Nat) : Bool :=
  let o := off / 8 * 8
  o == 0x08 || (0x100000 ≤ o && o < 0x100000 + 0x40 * 576 && o % 0x40 == 0)

/-- Registers with a WO field: PRST, EXPGRANT, HALTCTL, SQCTL, LLCLR and CXCTL. -/
def deviceWo (off : Nat) : Bool :=
  let o := off / 8 * 8
  o == 0x18 || o == 0x28 || o == 0x50 || (0x10000 ≤ o && o < 0x11000 && o % 0x40 == 8) || (0x20000 ≤ o && o < 0x24000 && o % 0x1000 == 0x38) ||
  (0x100000 ≤ o && o < 0x100000 + 0x40 * 576 && o % 0x40 == 0x10)

/-- An atomic may reach the register at an offset (R372). -/
def deviceAtomic (off : Nat) : Bool := !deviceW1c off && !deviceWo off

end Sys2Proof.Machine
end

