-- ==== Sys2Proof/Machine/Access.lean ====
section
/-! DEFINITION. What the L and S meanings share: addresses (R65, R250, R251), alignment (R252), the retirement tracker's
wait (R319), endpoints (R281), tickets (R277), handles, the token word (R272) and visibility at a scope (R271, R299). -/

namespace Sys2Proof.Machine

/-! ## Addresses -/

/-- The effective address of R65: base, index and signed offset modulo 2^64. -/
def effAddr (s : State) (e : Addr) : Nat := (rd s e.gb + rd s e.gx + e.off.signExtend 64).toNat

/-- The address of a base form: base and signed offset. -/
def baseAddr (s : State) (e : Base) : Nat := (rd s e.gb + e.off.signExtend 64).toNat

/-- The executing core's die. -/
def curDie (s : State) : Nat := dieOfCore s.cur.1
/-- The executing core's cluster. -/
def curCluster (s : State) : Nat := clusterOfCore s.cur.1
/-- The executing core's partition (0 where no partition holds the core, which no sequencer that runs sees). -/
def curPart (s : State) : Nat := (partOfCore s s.cur.1).getD 0

/-- The TLB of the executing core (R382). -/
def curTlb (s : State) : Option Translator := some (.core s.cur.1)

/-- Resolve an access of the executing sequencer (R251): virtual when slot is none, otherwise an offset in a buffer. -/
def resolve (s : State) (a n : Nat) (slot : Option (BitVec 4)) (need : Need) : Except (Stop × Nat) (List Piece) :=
  match slot with
  | none => resolveVirtual s (curDie s) (curPart s) a n need (curTlb s)
  | some k =>
    match tfind (curCtx s).slots k.toNat with
    | none => .error (.cause causeHandle, 0)
    | some h => .ok (resolveBuffer (curCluster s) h a n)

/-- Note the translations used and the free values that the access may take. -/
def afterResolve (s : State) (a n : Nat) (slot : Option (BitVec 4)) : State :=
  let s := takeFree s 32
  match slot with
  | none => cacheAccess s (curDie s) (curPart s) a n (curTlb s)
  | some _ => s

/-- Access code of a page request (R403). -/
def accessCode (need : Need) : BitVec 2 := if need.ex then 3 else if need.rd && need.wr then 2 else if need.wr then 1 else 0

/-- Granule ranges meet (R319: 16-byte granule resolution). -/
def rangesMeet (a m b n : Nat) : Bool := a / 16 * 16 < b + n && b / 16 * 16 < a + m && 0 < m && 0 < n

/-- A live tracker entry covers a granule of a virtual range (R319). -/
def trackerHit (s : State) (a n : Nat) (slot : Option (BitVec 4)) : Bool :=
  slot.isNone && (getCore s s.cur.1).tracker.any fun t => t.ranges.any fun (b, m) => rangesMeet a n b m

/-- Ticket a was given out before ticket b. -/
def ticketBefore (a b : Nat) : Bool := a != b && decide ((b + 2 ^ 32 - a) % 2 ^ 32 < 2 ^ 31)

/-- A live tracker entry of a cell earlier than the one that issued a job covers a granule of a virtual range that an engine would touch for the job (R319). -/
def trackerHolds (s : State) (o : Owner) (a n : Nat) : Bool :=
  (getCore s o.core).tracker.any fun t => ticketBefore (t.since % 2 ^ 32) o.ticket && t.ranges.any fun (b, m) => rangesMeet a n b m

/-- Record a buffer access that reaches beyond its buffer (R227). -/
def noteBeyond (s : State) (c : Nat) (ps : List Piece) (slot : Nat) (read : Bool) (agent : Nat) : State :=
  match firstBeyond ps with
  | some off => recordHoor s c (serialOfCore s c) off slot read agent
  | none => s

/-- Granules of a buffer that pieces touch. -/
def pieceInBuffer (cluster : Nat) (h : Handle) (p : Piece) : Bool :=
  match p.loc with
  | .sram c g _ => c == cluster && 8 * h.base ≤ g && g < 8 * (h.base + h.len)
  | _ => false

/-! ## Register-store operands of L and S (R254) -/

/-- Index of a register-store operand code: direct, or from a g register of the executing sequencer (R34, R254). -/
def opIndex (s : State) (o : Opnd) : Nat :=
  match o with
  | .dir i => i.toNat
  | .ind g => (rd s g).toNat
  | _ => 0

/-- Whether an operand is g-indirect (RSOOR source 2 of R35). -/
def isInd : Opnd → Bool
  | .ind _ => true
  | _ => false

/-! ## Visibility at a scope (R271, R297, R299) -/

/-- An S access is visible at a scope, as the issuing core's die knows it: at .dom also in the packages that it reached (R297). -/
def visibleAt (s : State) (c : Nat) (sc : Scope) (a : SAccess) : Bool :=
  a.performed &&
  match sc with
  | .core | .clus | .die => coveredDie s (dieOfCore c) a.stamps
  | .pkg => coveredPkg s a.stamps
  | .dom => coveredPkg s a.stamps && (!a.remote || a.acked)

/-- Word may have come by now that a store is performed in another package: a free choice for each store each time it is asked (R297). -/
def ackStore (s : State) (a : SAccess) : SAccess := if a.performed && a.remote && Config.freePick s.freeCtr a.num then { a with acked := true } else a

/-- Ask of the stores of a core and of the results of its BMV jobs in other packages whether they are performed there (R297, R301). -/
def askFar (s : State) (c : Nat) : State :=
  let x := getCtx s c
  if x.bmvFar ∨ x.sacc.any (fun a => a.performed && a.remote && !a.acked) then
    takeFree (setCtx s c { x with sacc := x.sacc.map (ackStore s), bmvFar := x.bmvFar && !Config.freePick s.freeCtr x.sissued }) 1
  else s

/-- A point of scope .dom asks. -/
def drawAcks (s : State) (c : Nat) (sc : Scope) : State := if sc = .dom then askFar s c else s

/-- Every S access of a core's context is visible at a scope. -/
def allVisible (s : State) (c : Nat) (sc : Scope) : Bool := (getCtx s c).sacc.all (visibleAt s c sc)

/-- Forget the S accesses that are visible at .dom, which the wider scopes ask no more. -/
def pruneStores (s : State) (c : Nat) : State :=
  let x := getCtx s c
  setCtx s c { x with sacc := x.sacc.filter fun a => !visibleAt s c .dom a }

/-- The access is a TOKS. -/
def isToken (a : SAccess) : Bool := match a.act with
  | .token _ _ => true
  | _ => false

/-- The access is an atomic. -/
def isAtomic (a : SAccess) : Bool := match a.act with
  | .atomic .. => true
  | _ => false

/-- The access is the image of an STA, which its resolver job forms. -/
def isImage (a : SAccess) : Bool := match a.act with
  | .image _ => true
  | _ => false

/-- An access waits for an earlier one that is not performed: same locations (R258), atomics (R295), stores of STA (R269), the setting of F (R295) and TOKS
(R273). -/
def waitsFor (b a : SAccess) : Bool := piecesMeet b.pieces a.pieces || (b.sta && a.sta) || (isAtomic b && isAtomic a) || a.fe == .fe || isToken a

/-- The accesses that a resolver job holds which has stopped: its image, and what waits for that. -/
def heldAccesses (l : List SAccess) : List SAccess :=
  l.foldl (fun held a => if !a.performed && (isImage a || held.any (waitsFor · a)) then held ++ [a] else held) []

/-- What a context's sequencers issued has completed (R406, R408): loads have landed, and stores and atomics are performed but for the images of resolver
jobs that have stopped and what waits for those, which are the jobs'. -/
def issuedDone (x : Ctx) : Bool := x.lacc.isEmpty && x.sacc.countP (!·.performed) == (heldAccesses x.sacc).length

/-- Accesses of S that are still to be performed. -/
def unperformed (x : Ctx) : Nat := x.sacc.countP fun a => !a.performed

/-- Accesses that hold a place of S: a remote one until it returns (R258, R339). -/
def placesHeld (x : Ctx) : Nat := x.sacc.countP fun a => !a.performed || (a.remote && !a.acked)

/-- An earlier atomic is followed by a fence that still holds back every later S access: FENCE.acq until its value has returned, FENCE.full
until it is visible at the scope (R270, R271). -/
def acqPending (s : State) (c : Nat) : Bool := (getCtx s c).sacc.any fun a => match a.act with
  | .atomic _ _ _ _ _ _ _ acq full => (acq && !a.performed) || match full with
    | some sc => !visibleAt s c sc a
    | none => false
  | _ => false

/-- S may issue another access: a place is free and no acquire is pending (R258, R270). -/
def storeRoom (s : State) : Bool := placesHeld (curCtx s) < Config.accessesInFlight && !acqPending s s.cur.1

/-- S waits for a place: remote accesses may have returned by now. -/
def awaitRoom (s : State) : State := if placesHeld (curCtx s) < Config.accessesInFlight then s else askFar s s.cur.1

/-- L may issue another access (R258). -/
def loadRoom (s : State) : Bool := (curCtx s).lacc.length < Config.accessesInFlight

/-! ## The token word (R272) -/

/-- The token word as L and S reach it: zero when bank 7 is outside the footprint, undefined once X or L has written it. -/
def tokenWord (s : State) (x : Ctx) : Nat :=
  if !bitOf (footprint x).toNat 7 then 0 else if x.tokenBad then (freeW s).toNat else (storeGranule x tokenGranule).toNat >>> 64

/-- Write the token word: dropped when bank 7 is outside the footprint. -/
def setToken (x : Ctx) (v : Nat) : Ctx :=
  if bitOf (footprint x).toNat 7 then
    writeGranule x tokenGranule (byteMask 8 8) (BitVec.ofNat 128 ((v % 2 ^ 64) <<< 64))
  else x

/-- Zero the token word at a cell start, whatever the power state of bank 7 (R272). -/
def clearToken (x : Ctx) : Ctx := { writeGranule x tokenGranule (byteMask 8 8) 0 with tokenBad := false }

/-! ## S's own reads (R293, R295) -/

/-- Before S reads n bytes itself, its die has applied what its earlier reads, which are its atomics, returned (R295), and its own performed stores to
them (R293). -/
def ownStoresSeen (s : State) (a n : Nat) : State :=
  let seen := (curCtx s).sdeps
  match resolve s a n none { rd := true } with
  | .error _ => catchUp s (curDie s) seen
  | .ok ps => catchUp s (curDie s) (mergeStamps seen (((curCtx s).sacc.filter fun b => piecesMeet b.pieces ps).flatMap (·.stamps)))

/-- An own store to n bytes that S would read is still to be performed (R258). -/
def ownStorePending (s : State) (a n : Nat) : Bool :=
  match resolve s a n none { rd := true } with
  | .error _ => false
  | .ok ps => (curCtx s).sacc.any fun b => !b.performed && piecesMeet b.pieces ps

/-! ## Endpoints (R281) -/

/-- An endpoint in SRAM: package core number, handle slot, byte offset. -/
def endpointSram (e : Word) : Option (Nat × Nat × Nat) :=
  if bitOf e.toNat 63 then some (fieldOf e 36 10, fieldOf e 32 4, fieldOf e 0 32) else none

/-- The reserved bits of an endpoint are zero. -/
def endpointClean (e : Word) : Bool := if bitOf e.toNat 63 then fieldOf e 46 17 == 0 else fieldOf e 56 7 == 0

/-- An endpoint breaks R281 for a core: reserved bits, another cluster or partition, or an empty slot. -/
def endpointBad (s : State) (core : Nat) (e : Word) : Bool :=
  !endpointClean e ||
  match endpointSram e with
  | some (c, k, _) => clusterOfCore c != clusterOfCore core || partOfCore s c != partOfCore s core || (tfind (getCtx s c).slots k).isNone
  | none => false

/-- The contexts of a core: active, shadow, parked (R418, R419). -/
def contextsOf (s : State) (c : Nat) : List Ctx :=
  let y := getCore s c
  y.ctx :: y.shadow :: y.parked.map fun p => p.2.ctx

/-- The buffer in a handle slot of a core as a job of a kernel names it: in the context of that kernel where the core holds one, else in the
active one, else a buffer that still returns (R226, R417, R419). -/
def slotFor (s : State) (c serial k : Nat) : Option Handle :=
  let mine := (contextsOf s c).filter fun x => match x.cell with
    | some e => e.serial == serial
    | none => false
  match (mine.findSome? fun x => tfind x.slots k).orElse (fun _ => tfind (getCtx s c).slots k) with
  | some h => some h
  | none => ((getCore s c).returning.find? fun r => r.1 == serial && r.2.1 == k).map fun r => r.2.2

/-- Resolve n bytes at a byte displacement from an endpoint, for an engine of a die working for a kernel of a partition. -/
def resolveEndpoint (s : State) (d part serial : Nat) (e : Word) (disp : Int) (n : Nat) (need : Need) (who : Option Translator := none) : Except (Stop × Nat) (List Piece) :=
  match endpointSram e with
  | some (c, k, off) =>
    let o := zextI ((off : Int) + disp) 64
    match slotFor s c serial k with
    | none => .error (.cause causeHandle, o)
    | some h => .ok (resolveBuffer (clusterOfCore c) h o n)
  | none =>
    let a := zextI ((fieldOf e 0 56 : Int) + disp) 64
    resolveVirtual s d part a n need who

/-- Active and shadow context exchanged. -/
def swapContexts (s : State) (core : Nat) : State :=
  let y := getCore s core
  setCore s core { y with ctx := y.shadow, shadow := y.ctx }

/-! ## Itinerary entries (R232, R233) -/

/-- Word i of a record. -/
def recWord (r i : Nat) : Word := BitVec.ofNat 64 (r >>> (64 * i))

/-- KIND of an entry. -/
def eKind (w : List Word) : Nat := fieldOf (w.getD 0 0) 0 2

/-- The move entry of 8 words. -/
def parseMove (w : List Word) : ItinEntry :=
  let w0 := w.getD 0 0
  let w2 := w.getD 2 0
  let hop := fieldOf w0 2 2
  { hop := hop, mire := bitOf w0.toNat 4, table := bitOf w0.toNat 5, group := fieldOf w0 8 8, size := fieldOf w0 32 32,
    src := fieldOf (w.getD 1 0) 0 56, dst := if hop = 2 then fieldOf w2 0 17 else fieldOf w2 0 56, slot := fieldOf w2 17 4,
    dcore := fieldOf w2 21 10, due := (w.getD 3 0).toNat, watch := fieldOf (w.getD 4 0) 0 10, issued := false, issueCycle := 0,
    sequ := none, landed := [], lateAt := none, complete := false, failed := false }

/-- The move entries that follow an itinerary's first k entries, as the die sees them in memory now: up to one that is no move entry or cannot be
read. -/
def unreadFrom (s : State) (d p a : Nat) : Nat → Nat → List ItinEntry
  | 0, _ => []
  | fuel + 1, k =>
    match resolveVirtual s d p (a + 64 * k) 64 { rd := true } with
    | .error _ => []
    | .ok ps =>
      let gs := readPieces s d ps 0
      let w := (List.range 8).map (recWord (ofBytes (accessByte ps gs) 64))
      if (firstFault ps gs).isSome || eKind w ≠ 0 || fieldOf (w.getD 0 0) 2 2 = 3 then [] else parseMove w :: unreadFrom s d p a fuel (k + 1)

/-- The move entries of a running itinerary that the Lamplighter has not read. -/
def unread (s : State) (d p : Nat) (it : Itinerary) : List ItinEntry :=
  if it.ended || it.stopped.isSome then [] else unreadFrom s d p it.addr 65536 (it.entries.length + 1)

/-! ## Pacing (R238, R240) -/

/-- Cores that the entries of a running itinerary watch, read or not. -/
def watchedCores (s : State) (d p : Nat) (it : Itinerary) : List Nat := (it.entries ++ unread s d p it).map (·.watch)

/-- Replace a Lamplighter context and note when this turns pacing on or off. -/
def putPaced (s : State) (d p : Nat) (new : Lamp) : State :=
  let x := getDie s d
  let old : Lamp := tget {} x.lamps p
  let l := match pacingOn old, pacingOn new, old.paceFrom, old.running with
    | false, true, _, _ => { new with paceFrom := some s.cycle }
    | true, false, some f, some it =>
      let span : PaceSpan := { first := f, last := s.cycle, pace := it.pace, cores := watchedCores s d p it }
      { new with paceFrom := none, paceSpans := span :: old.paceSpans.filter fun r => decide (s.cycle ≤ r.last + 12) }
    | _, _, _, _ => new
  setDie s d { x with lamps := tput x.lamps p l }

/-- Idle cycles that follow a beat which entered the array of a core in cycle e: PACE where pacing had turned on before and had not turned off before,
for a core that the itinerary's entries watch. -/
def beatPace (s : State) (core p : Nat) (l : Lamp) (e : Nat) : Nat :=
  match l.paceFrom, l.running with
  | some f, some it => if f < e && (watchedCores s (dieOfCore core) p it).contains core then it.pace else 0
  | _, _ => match l.paceSpans.find? fun r => decide (r.first < e) && decide (e ≤ r.last) && r.cores.contains core with
    | some r => r.pace
    | none => 0

/-- A beat that entered the array of a core 12 cycles ago lands: its idle cycles are counted in PACEST.CYC (R187, R238). -/
def notePace (s : State) (core : Nat) : State :=
  match partOfCore s core with
  | none => s
  | some p =>
    let x := getDie s (dieOfCore core)
    let l : Lamp := tget {} x.lamps p
    let n := beatPace s core p l (s.cycle - 12)
    if n = 0 then s
    else setDie s (dieOfCore core) { x with lamps := tput x.lamps p { l with paceCyc := BitVec.ofNat 32 (min (l.paceCyc.toNat + n) 0xFFFFFFFF) } }

/-! ## Lateness (R237) -/

/-- MPROG of an entry's WATCH core is past its due mark. -/
def pastDue (s : State) (e : ItinEntry) : Bool := decide (e.due < (getCore s e.watch).mprog.toNat)

/-- One more entry of a hop is late. -/
def oneMoreLate (l : Lamp) (hop : Nat) : Lamp := { l with late := tupd 0 l.late hop (· + 1), lateNow := tupd 0 l.lateNow hop (· + 1) }

/-- The i-th entry of a Lamplighter context's running itinerary becomes late. -/
def lateEntry (s : State) (d p i : Nat) (e : ItinEntry) : State :=
  let l : Lamp := tget {} (getDie s d).lamps p
  let run := l.running.map fun it => { it with entries := changeAt it.entries i fun e => { e with lateAt := some s.cycle } }
  putPaced s d p { oneMoreLate l e.hop with running := run }

/-- Entry i of the running itinerary, which has not been read, becomes late. -/
def lateUnread (s : State) (d p i : Nat) (e : ItinEntry) : State :=
  let l : Lamp := tget {} (getDie s d).lamps p
  let run := l.running.map fun it => { it with lateAhead := it.lateAhead ++ [(i, e.hop, s.cycle)] }
  putPaced s d p { oneMoreLate l e.hop with running := run }

/-- Every incomplete entry of a running itinerary whose WATCH core is among those that p holds of and which is now past due becomes late in this cycle,
read or not (R237). -/
def noteLateEntries (s : State) (d part : Nat) (p : Nat → Bool) : State :=
  match (tget {} (getDie s d).lamps part : Lamp).running with
  | none => s
  | some it =>
    let s' := it.entries.zipIdx.foldl (fun s (e, i) =>
      if p e.watch && !e.complete && e.lateAt.isNone && pastDue s e then lateEntry s d part i e else s) s
    (unread s d part it).zipIdx.foldl (fun s (e, k) =>
      let i := it.entries.length + k
      if p e.watch && !(it.lateAhead.any (·.1 == i)) && pastDue s e then lateUnread s d part i e else s) s'

/-- MPROG of a core has risen: every entry that watches it and is now past due becomes late (R237). -/
def noteLateness (s : State) (core : Nat) : State :=
  match partOfCore s core with
  | none => s
  | some p => noteLateEntries s (dieOfCore core) p (· == core)

/-! ## Records and tickets (R277) -/

/-- Read a record of n bytes at a virtual address for the executing sequencer: its bytes as a little-endian number, or what stops the access. -/
def readRecord (s : State) (a n : Nat) : Except (Stop × Nat) Nat :=
  match resolve s a n none { rd := true } with
  | .error e => .error e
  | .ok ps => readWhole s (curDie s) a n ps (walkDemand s (curDie s) (curPart s) a n (curTlb s))

/-- What reading n bytes at a virtual address leaves behind: translations, tokens and counts (R245, R376, R382). -/
def afterRecord (s : State) (a n : Nat) : State :=
  match resolve s a n none { rd := true } with
  | .error _ => s
  | .ok ps => countReads (afterResolve s a n none) ps

/-- The executing sequencer cannot read a record of n bytes: a read that reached memory is counted all the same (R245). -/
def stopRecord (s : State) (a n : Nat) (e : Stop) (g : Nat) : Res :=
  stopAccess (match e with
    | .cause _ => afterRecord s a n
    | _ => s) (curPart s) e g 0

/-- The owner of a job that the executing sequencer issues (R400). -/
def newOwner (s : State) : Owner :=
  let q := curSeq s
  { core := s.cur.1, seq := s.cur.2, part := curPart s, serial := serialOfCore s s.cur.1, ordinal := ordinalOfCore s s.cur.1, ticket := (s.ticketCtr + 1) % 2 ^ 32,
    fpc := q.pc.setWidth 16, parcels := parcelsAt q q.pc.toNat }

/-- A core holds 16 outstanding tickets (R277). -/
def ticketsFull (s : State) : Bool := Config.tickets ≤ (curCtx s).tickets.length

/-- Give out a ticket; outstanding for JWAIT or not. -/
def giveTicket (s : State) (d : Reg) (outstanding : Bool) : State :=
  let t := (s.ticketCtr + 1) % 2 ^ 32
  let s := { s with ticketCtr := s.ticketCtr + 1 }
  let x := curCtx s
  let s := if outstanding then setCurCtx s { x with tickets := tput x.tickets t .running } else s
  wr s d (BitVec.ofNat 64 t)

/-- Set a job's status in the context of its core that holds the ticket: active, shadow or parked (R278, R419). -/
def setTicket (s : State) (o : Owner) (st : JobStatus) : State :=
  let y := getCore s o.core
  let upd (x : Ctx) : Ctx := if (tfind x.tickets o.ticket).isSome then { x with tickets := tput x.tickets o.ticket st } else x
  setCore s o.core { y with ctx := upd y.ctx, shadow := upd y.shadow,
                            parked := y.parked.map fun (i, p) => (i, { p with ctx := upd p.ctx }) }

/-! ## Handles (R274 to R276) -/

/-- Accesses and requests in progress that use the buffer of a slot of a core (R275, R276), besides the nest jobs of its context. serial is the kernel
whose requests count, none for any. -/
def bufferBusy (s : State) (core slot : Nat) (serial : Option Nat) (h : Handle) : Bool :=
  let cl := clusterOfCore core
  let uses (ps : List Piece) : Bool := ps.any (pieceInBuffer cl h)
  let mine (o : Owner) : Bool := match serial with
    | some n => o.serial == n
    | none => true
  let names (e : Word) : Bool := match endpointSram e with
    | some (c, k, _) => c == core && k == slot
    | none => false
  let d := getDie s (dieOfCore core)
  let cores := (List.range 16).map (16 * cl + ·)
  cores.any (fun c => (contextsOf s c).any fun y => y.lacc.any (fun a => uses a.pieces) || y.sacc.any fun a => !a.performed && uses a.pieces) ||
  cores.any (fun c => (getCore s c).tracker.any fun t => match t.acc with
    | some a => !a.performed && uses a.pieces
    | none => false) ||
  d.cards.any (fun (_, l) => l.any fun c => mine c.owner && (names c.src || names c.dst)) ||
  (match (getCluster s cl).card with
    | some c => mine c.owner && (names c.src || names c.dst)
    | none => false) ||
  d.lamps.any (fun (_, l) => match l.running with
    | some it => mine it.owner && it.entries.any fun e => e.issued && !e.complete && e.hop == 2 && e.dcore == core && e.slot == slot
    | none => false) ||
  d.walkers.any fun (_, w) => w.jobs.any fun j =>
    mine j.owner && (names j.record.src || names j.record.dst || names j.record.cnta || names j.record.stat)

/-- Buffers of a cluster's pool that are not free: those that a slot of an active, shadow or parked context holds (R419), and released ones that are
still in use. -/
def liveBuffers (s : State) (cluster : Nat) : List (Nat × Nat) :=
  (List.range 16).flatMap fun n =>
    let c := 16 * cluster + n
    ((contextsOf s c).flatMap fun x => x.slots.map fun (_, h) => (h.base, h.len)) ++
    ((getCore s c).returning.filter fun (ser, k, h) => bufferBusy s c k (some ser) h).map fun (_, _, h) => (h.base, h.len)

/-- A run of len stripes at base meets no live buffer. -/
def runFree (live : List (Nat × Nat)) (base len : Nat) : Bool := live.all fun (b, n) => base + len ≤ b || b + n ≤ base

/-- The lowest run of len free stripes of a reservation (log entry 11: the manual lets the part choose). -/
def firstFit (r : Reservation) (live : List (Nat × Nat)) (len : Nat) : Option Nat :=
  let starts := r.base :: live.map fun (b, n) => b + n
  let ok := starts.filter fun b => r.base ≤ b && b + len ≤ r.base + r.len && runFree live b len
  ok.foldl (fun m b => match m with
    | none => some b
    | some a => some (min a b)) none

/-- The core is a member of the executing core's gang. -/
def inGang (s : State) (c : Nat) : Bool :=
  match (curCtx s).cell with
  | some x => x.gangBase ≤ c && c < x.gangBase + x.gangSize
  | none => c == s.cur.1

/-- Accesses and requests in progress that use the buffer in a slot of a core's context (R275, R276, R181). -/
def slotBusy (s : State) (core slot : Nat) : Bool :=
  let x := getCtx s core
  match tfind x.slots slot with
  | none => false
  | some h =>
    let nest (j : Option NestJob) : Bool := match j with
      | some j => fieldOf (tget 0 j.table 13) 0 4 == slot
      | none => false
    nest x.nestRun || nest x.nestPend || bufferBusy s core slot none h

/-- Return the buffer of a slot of a context: to the pool, or to the gatherer that filled it (R276, R366). -/
def releaseSlot (s : State) (part : Nat) (x : Ctx) (slot : Nat) : State × Ctx :=
  match tfind x.slots slot with
  | none => (s, x)
  | some h =>
    let s := match h.batch with
      | some (d, i) =>
        let y := getDie s d
        let g := tget {} y.gatherers part
        let g := { g with used := g.used.filter (· != i) }
        setDie s d { y with gatherers := tput y.gatherers part g }
      | none => s
    (s, { x with slots := tdel x.slots slot })

/-- Release every slot of a context (R317). -/
def releaseAll (s : State) (part : Nat) (x : Ctx) : State × Ctx :=
  (List.range 16).foldl (fun (s, x) k => releaseSlot s part x k) (s, x)

end Sys2Proof.Machine
end

