-- ==== Sys2Proof/Machine/Operands.lean ====
section
/-! DEFINITION. The operands of X instructions (R34, R45, R48, R61, R67 to R69, R137 to R139): reading sources at issue, popping
queues, governing masks, and writing a result that lands within its bound. -/

namespace Sys2Proof.Machine

/-! ## Sources -/

/-- A source as read at issue: data, lanes that are valid, lanes whose invalidity sets MZ (none for an end-of-stream entry), and the
EOS bit (R45, R139). -/
structure Src where
  data : Vec
  valid : Mask
  lost : Mask
  eos : Bool
deriving DecidableEq, Repr

/-- A register-store granule as X reads it: free when a result in flight or an incomplete job writes it (R32, R68, R194). -/
def xGranule (x : Ctx) (n free : Nat) : Granule :=
  if x.xres.any fun r => r.writes.any fun w => w.1 == n then Config.freeGranule free else settledOr x n free (storeGranule x n)

/-- A granule by number, zero where out of range. -/
def xGranuleOpt (x : Ctx) (n : Option Nat) (free : Nat) : Granule :=
  match n with
  | some g => xGranule x g free
  | none => 0

/-- The 256 bytes of a vector operand with a given index through VVIEW (R34). -/
def xVector (x : Ctx) (i free : Nat) : Vec :=
  let gs := viewGranules x.vview (footprint x) i 16
  ofGranules fun t => xGranuleOpt x (gs[t]?).join (free + t)

/-- The flag bits that a write of the flags in flight (VMOV, R48) covers. -/
def flagsPending (x : Ctx) : LaneFlags := x.xres.foldl (fun m r => match r.setFlags with
  | some (b, _) => m ||| b
  | none => m) 0

/-- The flags with the new flags of each result in flight seen as a whole or not at all (R69). -/
def flagsSeen (x : Ctx) (free : Nat) : LaneFlags :=
  x.xres.zipIdx.foldl (fun m (r, i) => if Config.freeBool (free + i) then m ||| r.orFlags else m) x.flags

/-- The sticky flags as a vector (R48): the flags of each result in flight are seen or not (R69); of a write of the flags that has not landed the
manual states no early read, so the bits it covers are free (log entry 89). -/
def flagsVector (x : Ctx) (free : Nat) : Vec :=
  let pend := flagsPending x
  let seen := flagsSeen x free
  let v := if pend = 0 then seen else (seen &&& ~~~ pend) ||| ((Config.freeVec free).setWidth 512 &&& pend)
  ofLanes fun j => (laneFlags v j).setWidth 32

/-- A mask register as X reads it: bits that a result in flight writes are free (R68, R172). -/
def readMask (x : Ctx) (k : Nat) (free : Nat) : Mask :=
  if k = 0 then BitVec.allOnes 64
  else
    let pend : Mask := x.xres.foldl (fun m r => match r.k with
      | some (n, b, _) => if n = k then m ||| b else m
      | none => m) 0
    if pend = 0 then tget 0 x.k k else (tget 0 x.k k &&& ~~~ pend) ||| (Config.freeWord free &&& pend)

/-- Read one source; a queue's head entry must exist. -/
def readSrc (s : State) (x : Ctx) (o : Opnd) (free : Nat) : Src :=
  match o with
  | .q n =>
    match (getQ x n.toNat).entries.head? with
    | some e =>
      if e.eos then { data := 0, valid := 0, lost := 0, eos := true }
      else { data := e.data, valid := e.mask, lost := ~~~ e.mask, eos := false }
    | none => { data := 0, valid := 0, lost := 0, eos := false }
  | .flags => { data := flagsVector x free, valid := BitVec.allOnes 64, lost := 0, eos := false }
  | o => { data := xVector x (opIndex s o) free, valid := BitVec.allOnes 64, lost := 0, eos := false }

/-- Read the sources, numbering free values 16 apart. -/
def readSrcs (s : State) (x : Ctx) : List Opnd → Nat → List Src
  | [], _ => []
  | o :: t, n => readSrc s x o n :: readSrcs s x t (n + 16)

/-- The operand queues among the sources, each once (R45). -/
def queuesOf (os : List Opnd) : List Nat :=
  (os.filterMap fun o => match o with
    | .q n => some n.toNat
    | _ => none).eraseDups

/-- Every queue source holds an entry. -/
def queuesReady (x : Ctx) (os : List Opnd) : Bool := (queuesOf os).all fun n => !(getQ x n).entries.isEmpty

/-- Pop each queue source once. -/
def popQueues (x : Ctx) (os : List Opnd) : Ctx :=
  (queuesOf os).foldl (fun x n => { x with q := tput x.q n (popQueue (getQ x n)) }) x

/-- Entries of a result queue with the slots reserved by results in flight (R45). -/
def pushLoad (x : Ctx) (n : Nat) : Nat :=
  (getW x n).entries.length + x.xres.countP fun r => match r.push with
    | some (w, _) => w == n
    | none => false

/-- A destination that is a result queue has a free slot. -/
def destReady (x : Ctx) (d : Opnd) : Bool :=
  match d with
  | .w n => pushLoad x n.toNat < Config.queueSlots
  | _ => true

/-- Record out-of-range register-store operands: source 2 of R35 for a g-indirect one, else 0 (log entry 32). All 16 granules of the operand count, whichever
of them the instruction writes (log entry 14: the model's choice). -/
def noteX (s : State) (x : Ctx) (o : Opnd) (read : Bool) : Ctx :=
  match o with
  | .dir _ => noteOor s.cycle x x.vview (footprint x) (opIndex s o) 16 read 0
  | .ind _ => noteOor s.cycle x x.vview (footprint x) (opIndex s o) 16 read 2
  | _ => x

/-- Record out-of-range accesses of one instruction, its operands and a per-lane access: the lowest source code first, a read before a write; every
granule of a 256-byte operand counts, whichever lanes the instruction writes (log entry 14). -/
def noteAll (s : State) (x : Ctx) (reads : List Opnd) (d : Option Opnd) (perLane : Option (Nat × Bool × Bool)) : Ctx :=
  let direct (o : Opnd) : Bool := !isInd o
  let d := d.toList
  let x := (reads.filter direct).foldl (fun x o => noteX s x o true) x
  let x := (d.filter direct).foldl (fun x o => noteX s x o false) x
  let x := match perLane with
    | some (a, lim, rdAcc) => recordOor s.cycle x a rdAcc lim 1
    | none => x
  let x := (reads.filter isInd).foldl (fun x o => noteX s x o true) x
  (d.filter isInd).foldl (fun x o => noteX s x o false) x

/-! ## What an instruction consumes (R139) -/

/-- Which lanes of source i result lane j consumes. -/
abbrev Consumes := Nat → Nat → List Nat

/-- An elementwise instruction consumes the same lane of each source. -/
def sameLane : Consumes := fun _ j => [j]

/-- Lanes whose consumed lanes are all valid. -/
def validLanes (srcs : List Src) (c : Consumes) : Mask :=
  ofMask fun j => srcs.zipIdx.all fun (x, i) => (c i j).all fun l => maskBit x.valid l

/-- Lanes that consume an invalid lane of an entry with EOS = 0. -/
def lostLanes (srcs : List Src) (c : Consumes) : Mask :=
  ofMask fun j => srcs.zipIdx.any fun (x, i) => (c i j).any fun l => maskBit x.lost l

/-! ## Results -/

/-- What an instruction delivers: data, flags of its own, the lanes and bits that it writes, the validity of a pushed entry, the lanes
that get MZ, and an out-of-range per-lane access (address or index, LIM, read). -/
structure XOut where
  data : Vec
  flags : LaneFlags
  bits : Vec
  lanes : Mask
  valid : Mask
  mz : Mask
  oor : Option (Nat × Bool × Bool)
deriving DecidableEq, Repr

/-- The usual delivery: active lanes, elementwise consumption. -/
def deliverLanes (srcs : List Src) (c : Consumes) (active : Mask) (data : Vec) (fl : LaneFlags) : XOut :=
  { data := data, flags := fl, bits := spreadMask active, lanes := active, valid := validLanes srcs c,
    mz := active &&& lostLanes srcs c, oor := none }

/-- Sticky flags of a delivery: none with .nf (R47). -/
def stickyOf (nf : Bool) (o : XOut) : LaneFlags :=
  if nf then 0 else o.flags ||| ofFlags fun j => flagIf (maskBit o.mz j) flagMZ

/-- The granule writes of a result to a register-store operand. -/
def storeWrites (x : Ctx) (i : Nat) (data bits : Vec) : List (Nat × Granule × Granule) :=
  (viewGranules x.vview (footprint x) i 16).zipIdx.filterMap fun (g, t) =>
    match g with
    | some n => if vecGranule bits t = 0 then none else some (n, vecGranule bits t, vecGranule data t)
    | none => none

/-- The result in flight of a delivery to a destination (R138). -/
def resultFor (s : State) (x : Ctx) (d : Opnd) (due : Nat) (nf eos : Bool) (o : XOut) : XResult :=
  let base : XResult := { due := due, writes := [], k := none, orFlags := stickyOf nf o, setFlags := none, push := none }
  match d with
  | .w n => { base with push := some (n.toNat, { data := o.data &&& spreadMask o.lanes, mask := o.lanes &&& o.valid, eos := eos }) }
  | .flags => { base with setFlags := some (ofFlags fun j => if maskBit o.lanes j then 0xFF else 0,
                                            ofFlags fun j => (lane o.data j).setWidth 8) }
  | d => { base with writes := storeWrites x (opIndex s d) o.data o.bits }

/-- X's context with everything landed that is due when X issues (R68). -/
def xContext (s : State) : Ctx := landBy (curSeq s).clock (curCtx s)

/-- The spacing an instruction's stall value asks for (R67). -/
def spacing (q : XQ) : Nat := q.stall.toNat + 1

/-- An X engine instruction: blocks until its queues are ready, reads its sources and mask at issue, and puts its result in flight with its
bound (R45, R67, R68). -/
def opX (bound : Nat) (srcs : List Opnd) (d : Opnd) (q : XQ) (f : State → List Src → Mask → XOut) (s : State) : Res :=
  let x := xContext s
  if !queuesReady x srcs || !destReady x d then block .queue s
  else
    let read := readSrcs s x srcs s.freeCtr
    let o := f (setCurCtx s x) read (readMask x q.k.toNat (s.freeCtr + 64))
    let x := noteAll s x srcs (some d) o.oor
    let x := popQueues x srcs
    let r := resultFor s x d ((curSeq s).clock + bound) q.nf (read.any (·.eos)) o
    .next (takeFree (finish 2 (spacing q) (setCurCtx s { x with xres := x.xres ++ [r] })) 256)

/-- An X engine instruction whose result is a g register, interlocked (R69): data is the value, the flags land within the bound. -/
def opXg (bound : Nat) (srcs : List Opnd) (d : Reg) (q : XQ) (f : State → List Src → Mask → Word × Mask) (s : State) : Res :=
  let x := xContext s
  if !queuesReady x srcs then block .queue s
  else
    let read := readSrcs s x srcs s.freeCtr
    let (v, mz) := f (setCurCtx s x) read (readMask x q.k.toNat (s.freeCtr + 64))
    let x := noteAll s x srcs none none
    let x := popQueues x srcs
    let fl := if q.nf then 0 else ofFlags fun j => flagIf (maskBit mz j) flagMZ
    let r : XResult := { due := (curSeq s).clock + bound, writes := [], k := none, orFlags := fl, setFlags := none, push := none }
    .next (takeFree (finish 2 (spacing q) (wrAt (setCurCtx s { x with xres := x.xres ++ [r] }) d v bound)) 256)

/-- An X engine instruction whose result is a mask register: bits of active lanes are written (R138). -/
def opXk (bound : Nat) (srcs : List Opnd) (kd : BitVec 3) (q : XQ) (f : State → List Src → Mask × LaneFlags) (s : State) : Res :=
  let x := xContext s
  if !queuesReady x srcs then block .queue s
  else
    let read := readSrcs s x srcs s.freeCtr
    let active := readMask x q.k.toNat (s.freeCtr + 64)
    let (v, fl) := f (setCurCtx s x) read
    let mz := active &&& lostLanes read sameLane
    let fl := if q.nf then 0 else fl ||| ofFlags fun j => flagIf (maskBit mz j) flagMZ
    let x := noteAll s x srcs none none
    let x := popQueues x srcs
    let r : XResult := { due := (curSeq s).clock + bound, writes := [], k := some (kd.toNat, active, v), orFlags := fl, setFlags := none,
                         push := none }
    .next (takeFree (finish 2 (spacing q) (setCurCtx s { x with xres := x.xres ++ [r] })) 256)

/-! ## Elements -/

/-- The selected element position of source a, or of source b (R63, R137). -/
def selA (sel : Sel) (e : Nat) : Nat :=
  match sel with
  | .a i | .ab i => i.toNat
  | _ => e
def selB (sel : Sel) (e : Nat) : Nat :=
  match sel with
  | .b i | .ab i => i.toNat
  | _ => e

/-- Data and flags of an elementwise operation of width w: f takes lane and element position; flags rise in active lanes only. -/
def elementwise (w : Nat) (active : Mask) (f : Nat → Nat → Nat × Flags) : Vec × LaneFlags :=
  let p := 32 / w
  (ofElems w fun n => (f (n / p) (n % p)).1,
   ofFlags fun j => if maskBit active j then orFlagsN (fun e => (f j e).2) p else 0)

/-- The n-th source of an instruction. -/
def srcAt (l : List Src) (n : Nat) : Vec := match l[n]? with
  | some x => x.data
  | none => 0

end Sys2Proof.Machine
end

