-- ==== Sys2Proof/Machine/Loads.lean ====
section
/-! DEFINITION. The L instructions of chapter 09 (R259 to R264, R272 to R281, R286) and the arrival of their data. -/

namespace Sys2Proof.Machine

/-! ## Shared operations -/

/-- Bytes of a scalar format (R257). -/
def sfmtBytes : SFmt → Nat
  | .w64 => 8
  | .i32 | .n32 => 4
  | .i16 | .n16 => 2
  | .i8 | .n8 => 1

/-- A scalar extended to 64 bits (R257, R260). -/
def extendScalar (f : SFmt) (v : Nat) : Word :=
  match f with
  | .w64 => BitVec.ofNat 64 v
  | .i32 => wordOfInt (sextN v 32)
  | .i16 => wordOfInt (sextN v 16)
  | .i8 => wordOfInt (sextN v 8)
  | .n32 => BitVec.ofNat 64 (v % 2 ^ 32)
  | .n16 => BitVec.ofNat 64 (v % 2 ^ 16)
  | .n8 => BitVec.ofNat 64 (v % 2 ^ 8)

/-- Entries of an operand queue with the slots reserved by accesses in flight (R255). -/
def queueLoad (x : Ctx) (q : Nat) : Nat :=
  (getQ x q).entries.length + x.lacc.countP fun a =>
    match a.dest with
    | .queue n | .gather n _ | .entry n _ => n == q
    | _ => false

/-- An operand queue has a slot that no earlier L instruction has reserved (R255). -/
def queueRoom (x : Ctx) (q : Nat) : Bool := queueLoad x q < Config.queueSlots

/-- Begin to wait on full-empty bits of a cluster's pool, or go on waiting in the same place for these pieces (R230). -/
def joinWait (s : State) (cluster : Nat) (g : FeAgent) (ps : List Piece) : State :=
  let cl := getCluster s cluster
  let l := if cl.waiters.any (·.agent == g) then cl.waiters.map fun w => if w.agent = g then { w with pieces := ps } else w
    else cl.waiters ++ [{ agent := g, pieces := ps }]
  setCluster s cluster { cl with waiters := l }

/-- Leave the waiters of a cluster. -/
def leaveWaiters (s : State) (cluster : Nat) (g : FeAgent) : State :=
  let cl := getCluster s cluster
  if cl.waiters.any (·.agent == g) then setCluster s cluster { cl with waiters := cl.waiters.filter fun w => w.agent != g } else s

/-- Leave the places that L and S of a core hold in a pool: the wait on full-empty bits, and the RRSV's (R230, R284). -/
def leavePool (s : State) (c : Nat) : State :=
  let s := leaveWaiters (leaveWaiters s (clusterOfCore c) (.load c)) (clusterOfCore c) (.ring c)
  (List.range 36).foldl (fun s k =>
    let cl := getCluster s k
    if cl.reservers.any fun r => r.2 == c then setCluster s k { cl with reservers := cl.reservers.filter fun r => r.2 != c } else s) s

/-- What the granules of a piece list show when the access becomes the oldest of L's (R299; log entry 94). -/
def snapshot (s : State) (c : Nat) (a : LAccess) : State × LAccess :=
  if a.early.isEmpty && a.fe == .none then (takeFree s (2 * a.pieces.length), { a with early := readPieces s (dieOfCore c) a.pieces a.pieces.length })
  else (s, a)

/-- The oldest access of L in flight shows its granules. -/
def headSnapshot (s : State) (c : Nat) : State :=
  match (getCtx s c).lacc with
  | [] => s
  | a :: rest =>
    let (t, b) := snapshot s c a
    if b = a then s else setCtx t c { getCtx t c with lacc := b :: rest }

/-- Put an L access in flight. -/
def fly (s : State) (dest : LDest) (ps : List Piece) (strm : Option (Reg × Reg × Word) := none) : State :=
  let q := curSeq s
  let x := curCtx s
  headSnapshot (setCurCtx s { x with lacc := x.lacc ++ [{ dest := dest, pieces := ps, fe := .none, fpc := q.pc.setWidth 16,
                                                          parcels := parcelsAt q q.pc.toNat, strm := strm }] }) s.cur.1

/-- L blocks at an access that waits on full-empty bits (R230, R406): FULL_EMPTY_GRANT serves it. -/
def waitFull (s : State) (dest : LDest) (ps : List Piece) (fa : Fe) (strm : Option (Reg × Reg × Word)) : Res :=
  let q := curSeq s
  let a : LAccess := { dest := dest, pieces := ps, fe := fa, fpc := q.pc.setWidth 16, parcels := parcelsAt q q.pc.toNat, strm := strm }
  block .fullEmpty (joinWait (setCurCtx s { curCtx s with feWait := some a }) (curCluster s) (.load s.cur.1) ps)

/-- Issue a load of n bytes at address a (R251, R402): the tracker's wait, translation and permission, then the access is in flight. note records
what else the instruction does when it issues. -/
def startLoad (note : State → State) (dest : LDest) (a n : Nat) (slot : Option (BitVec 4)) (fa : Fe) (s : State) : Res :=
  if (curCtx s).feWait.isSome then block .fullEmpty s
  else if !loadRoom s || trackerHit s a n slot then block .other s
  else
    match resolve s a n slot { rd := true } with
    | .error (e, g) => stopAccess s (curPart s) e g 0
    | .ok ps =>
      let t := noteBeyond (afterResolve s a n slot) s.cur.1 ps (slot.getD 0).toNat true 0
      if fa = .none then .next (finish 2 1 (fly (note t) dest ps)) else waitFull (note t) dest ps fa none

/-- Push an entry whose data is known at issue: at once when nothing of L is in flight, otherwise in its turn (R255). -/
def pushOperand (q : Nat) (e : QEntry) (s : State) : State :=
  let x := curCtx s
  if x.lacc.isEmpty then setCurCtx s { x with q := tput x.q q (pushEntry (getQ x q) e) }
  else fly s (.entry q e) []

/-- Note in RSOOR a register-store operand of the executing sequencer that is out of range through VVIEW (R35); a g-indirect one records the sequencer's own SRC,
5 or 6, too (log entry 32: the model's choice). -/
def noteOperand (s : State) (o : Opnd) (n : Nat) (read : Bool) (src : Nat) : State :=
  let x := curCtx s
  setCurCtx s (noteOor s.cycle x x.vview (footprint x) (opIndex s o) n read src)

/-! ## Loads (R259 to R262) -/

def execLdv (d : Opnd) (e : Addr) (fa : Fe) (s : State) : Res :=
  let a := effAddr s e
  if a % 16 ≠ 0 then fault causeAlignment a s
  else
    let x := curCtx s
    let gs := viewGranules x.vview (footprint x) (opIndex s d) 16
    startLoad (noteOperand · d 16 false 5) (.store gs) a 256 e.slot fa s

def execLdq (d : BitVec 3) (e : Addr) (fa : Fe) (s : State) : Res :=
  let a := effAddr s e
  if a % 16 ≠ 0 then fault causeAlignment a s
  else if !queueRoom (curCtx s) d.toNat then block .queue s
  else startLoad id (.queue d.toNat) a 256 e.slot fa s

/-- LDS (R260): the device aperture is reached at widths 32 and 64 (R372). -/
def execLds (f : SFmt) (d : Reg) (e : Addr) (fa : Fe) (s : State) : Res :=
  let a := effAddr s e
  let n := sfmtBytes f
  if a % n ≠ 0 then fault causeAlignment a s
  else if e.slot.isNone && inAperture a then
    if n < 4 then fault causeProtection a s
    else if !loadRoom s || trackerHit s a n none then block .other s
    else .next (finish 2 1 (fly s (.scalar d f)
      [{ loc := .device (a - apertureBase), addr := a, first := 0, count := n, pos := 0 }]))
  else startLoad id (.scalar d f) a n e.slot fa s

/-- The index vector of GTHQ and SCT: lanes with their validity, or what stops the access (R261, R268). The caller asks for its tokens. -/
def readIndices (s : State) (a : Nat) : Except (Stop × Nat) (List (Option Nat)) :=
  match resolve s a 256 none { rd := true } with
  | .error e => .error e
  | .ok ps =>
      match readAccess s (curDie s) ps with
      | .error (c, g) => .error (.cause c, g)
      | .ok (byte, lost) => .ok ((List.range 64).map fun j =>
          let x := ofBytes (fun i => byte (4 * j + i)) 4
          if x = 0xFFFFFFFF || (List.range 4).any fun i => lost (4 * j + i) then none else some x)

/-- The 4-byte access of a lane, none where the lane makes no access (R261, R268). -/
def resolveLane (s : State) (base : Nat) (slot : Option (BitVec 4)) (need : Need) (lane : Option Nat) (j : Nat) :
    Except (Stop × Nat) (Option Piece) :=
  match lane with
  | none => .ok none
  | some x =>
    match resolve s ((base + 4 * x) % 2 ^ 64) 4 slot need with
    | .error e => .error e
    | .ok ps => .ok (ps.head?.map fun p => { p with pos := 4 * j })

/-- Resolve the lanes of a gather or scatter from lane j on: a piece for each lane that makes an access, or the lowest granule that stops one
(R218, R261, R268). -/
def resolveLanes (s : State) (base : Nat) (slot : Option (BitVec 4)) (need : Need) :
    List (Option Nat) → Nat → Except (Stop × Nat) (List (Option Piece))
  | [], _ => .ok []
  | l :: t, j =>
    match resolveLane s base slot need l j, resolveLanes s base slot need t (j + 1) with
    | .ok p, .ok ps => .ok (p :: ps)
    | .ok _, .error e => .error e
    | .error e, .ok _ => .error e
    | .error e, .error e' => .error (if e.2 ≤ e'.2 then e else e')

/-- Addresses of lanes of which a later cell's wait is asked (R319). -/
def lanesHit (s : State) (base : Nat) (slot : Option (BitVec 4)) (lanes : List (Option Nat)) : Bool :=
  lanes.any fun l => match l with
    | some x => trackerHit s ((base + 4 * x) % 2 ^ 64) 4 slot
    | none => false

/-- The addresses at which the lanes of a gather or scatter enter a page. -/
def lanePages (base : Nat) (slot : Option (BitVec 4)) (lanes : List (Option Nat)) : List Nat :=
  if slot.isSome then []
  else (lanes.filterMap fun l => l.map fun x => (base + 4 * x) % 2 ^ 64).foldl (fun l a => if l.any (· / 65536 == a / 65536) then l else l ++ [a]) []

/-- The tokens that a gather or scatter draws when it issues: of its index vector, and of the walks of its lanes (R376). -/
def lanesDemand (s : State) (iv base : Nat) (slot : Option (BitVec 4)) (lanes : List (Option Nat)) : Demand :=
  let walk (t : Demand) (a n : Nat) : Demand := addDemand t (walkDemand s (curDie s) (curPart s) a n (curTlb s))
  let own : Demand := match resolve s iv 256 none { rd := true } with
    | .ok ps => tokensOf s ps
    | .error _ => []
  (lanePages base slot lanes).foldl (fun t a => walk t a 4) (walk own iv 256)

/-- What the lanes of a gather or scatter leave behind of their translations (R382). -/
def cacheLanes (s : State) (base : Nat) (slot : Option (BitVec 4)) (lanes : List (Option Nat)) : State :=
  (lanePages base slot lanes).foldl (fun t a => cacheAccess t (curDie s) (curPart s) a 4 (curTlb s)) s

/-- GTHQ (R261): the index vector is read when it issues, after L's earlier reads (R295). -/
def execGthq (d : BitVec 3) (gx : Reg) (e : Base) (s : State) : Res :=
  let iv := (rd s gx).toNat
  let base := baseAddr s e
  if iv % 16 ≠ 0 then fault causeAlignment iv s
  else if base % 4 ≠ 0 then fault causeAlignment base s
  else if !queueRoom (curCtx s) d.toNat then block .queue s
  else if !(curCtx s).lacc.isEmpty || trackerHit s iv 256 none then block .other s
  else
    match readIndices s iv with
    | .error (c, g) => stopRecord s iv 256 c g
    | .ok lanes =>
      if lanesHit s base e.slot lanes then block .other s
      else if !demandReady s (lanesDemand s iv base e.slot lanes) then block .other (awaitDemand s (lanesDemand s iv base e.slot lanes))
      else
        match resolveLanes s base e.slot { rd := true } lanes 0 with
        | .error (c, g) => stopAccess s (curPart s) c g 0
        | .ok ps =>
          let t := takeFree (cacheLanes (afterRecord s iv 256) base e.slot lanes) 96
          let t := noteBeyond t s.cur.1 (ps.filterMap id) (e.slot.getD 0).toNat true 0
          .next (finish 2 1 (fly t (.gather d.toNat ps) (ps.filterMap id)))

/-- PRF changes no visible state and never faults (R262). -/
def execPrf (_e : Addr) (s : State) : Res := .next (finish 2 1 s)

/-! ## Pushes (R263) -/

/-- The entry of QPSH: lanes 0 and 1 hold the first value, lanes 2 and 3 the second, the others zero, all valid. -/
def pairEntry (a b : Word) : QEntry :=
  { data := BitVec.ofNat 2048 (a.toNat + b.toNat * 2 ^ 64), mask := BitVec.allOnes 64, eos := false }

/-- The entry of QEOS. -/
def eosEntry : QEntry := { data := 0, mask := 0, eos := true }

def execQpsh (d : BitVec 3) (gb gx : Reg) (s : State) : Res :=
  if !queueRoom (curCtx s) d.toNat then block .queue s
  else if !loadRoom s then block .other s
  else .next (finish 2 1 (pushOperand d.toNat (pairEntry (rd s gb) (rd s gx)) s))

def execQeos (d : BitVec 3) (s : State) : Res :=
  if !queueRoom (curCtx s) d.toNat then block .queue s
  else if !loadRoom s then block .other s
  else .next (finish 2 1 (pushOperand d.toNat eosEntry s))

/-- An entry of a STRM that has not been pushed. -/
def strmOpen (x : Ctx) : Bool := x.lacc.any fun a => a.strm.isSome

/-- STRM (R264): each step issues the next entry; base and count change once it is pushed, and with the count at 0 the instruction completes. -/
def execStrm (d : BitVec 3) (e : Addr) (fa : Fe) (s : State) : Res :=
  let n := fieldOf (rd s e.gx) 0 32
  let a := (rd s e.gb).toNat
  let step := some (e.gb, e.gx, e.off.signExtend 64)
  if strmOpen (curCtx s) then block .other s
  else if n = 0 then (if (curCtx s).lacc.isEmpty then .next (finish 2 1 s) else block .other s)
  else if a % 16 ≠ 0 then fault causeAlignment a s
  else if !queueRoom (curCtx s) d.toNat then block .queue s
  else if (curCtx s).feWait.isSome then block .fullEmpty s
  else if !loadRoom s || trackerHit s a 256 e.slot then block .other s
  else
    match resolve s a 256 e.slot { rd := true } with
    | .error (c, g) => stopAccess s (curPart s) c g 0
    | .ok ps =>
      let t := noteBeyond (afterResolve s a 256 e.slot) s.cur.1 ps (e.slot.getD 0).toNat true 0
      if fa ≠ .none then waitFull t (.queue d.toNat) ps fa step
      else
        let t := fly t (.queue d.toNat) ps step
        .next (petWatchdog (setCurSeq t (issued (curSeq t) 1)))

/-! ## Data arriving (R255, R259 to R261, R221, R229) -/

/-- Lane flags with MZ in the lanes that p holds of (R47). -/
def mzLanes (p : Nat → Bool) : LaneFlags := ofFlags fun j => if p j then 0x80 else 0

/-- The in-range pool granules of a list of pieces. -/
def poolGranules (ps : List Piece) : List (Nat × Nat) :=
  ps.filterMap fun p => match p.loc with
    | .sram c g _ => some (c, g)
    | _ => none

/-- Every in-range granule of a wait is full (R230). -/
def allFull (s : State) (ps : List Piece) : Bool := (poolGranules ps).all fun (c, g) => (sramGet (getCluster s c) g).f

/-- Clear the F bits of the granules of a .fec access. -/
def clearAll (s : State) (ps : List Piece) : State := (poolGranules ps).foldl (fun s (c, g) => setF s c g false) s

/-- The cause of a lost word in an access without lane mask (R220, R229). -/
def lostCause (ps : List Piece) : BitVec 8 :=
  match ps with
  | { loc := .sram _ _ _, .. } :: _ => causeSram
  | _ => causeDram

/-- Write a granule that an L access delivers; where an X result in flight writes it too, the granule ends with one of the two values
(R32). -/
def landLoad (keep : Bool) (x : Ctx) (n : Nat) (v : Granule) : Ctx :=
  let x := programWrite x n (BitVec.allOnes 128) v
  if keep then x else { x with xres := x.xres.map fun r => { r with writes := r.writes.filter fun w => w.1 != n } }

/-- What each granule of an access reads: what it showed when the access became the oldest in flight, or what it shows now (R299). -/
def mixGot (s : State) (early now : List Got) : List Got :=
  now.zipIdx.map fun (g, i) => match early[i]? with
    | some e => if e ≠ g ∧ Config.freePick s.freeCtr i then e else g
    | none => g

/-- The granules of a load to the register store that land in one step: some of those left, or all of them, a free choice for each (R299, R430); all at once
where a wait on full-empty bits was served (R230). -/
def landsNow (s : State) (a : LAccess) : List Nat :=
  match a.dest with
  | .store gs =>
    let left := (List.range gs.length).filter fun t => !a.landed.contains t
    let some' := left.filter fun t => Config.freePick s.freeCtr (64 + t)
    if some'.isEmpty || a.fe != .none then left else some'
  | _ => []

/-- Deliver the data of an access from what its granules read: the machine fault of the lowest granule that has one, or the data; of a load to the register
store, the granules of now. -/
def deliver (s : State) (c : Nat) (a : LAccess) (gs : List Got) (now : List Nat) : State :=
  let x := getCtx s c
  let stop (code : BitVec 8) (g : Nat) : State := machineFault s c .L code g a.fpc a.parcels
  let push (q : Nat) (e : QEntry) : State :=
    let s := setCtx s c { x with q := tput x.q q (pushEntry (getQ x q) e) }
    match a.strm with
    | none => s
    | some (gb, gx, off) =>
      let s := wrSeq s c .L gb (regOf (getSeq s c .L) gb + off)
      wrSeq s c .L gx (regOf (getSeq s c .L) gx - 1)
  let byte := accessByte a.pieces gs
  let lost := accessLost a.pieces gs
  match firstFault a.pieces gs with
  | some (f, g) => stop f g
  | none =>
    match a.dest with
    | .entry q e => push q e
    | .gather q lanes =>
      let at' (j : Nat) : Option Piece := (lanes[j]?).join
      push q { data := ofLanes fun j => if (at' j).isSome then BitVec.ofNat 32 (ofBytes (fun i => byte (4 * j + i)) 4) else 0
               mask := ofMask fun j => (at' j).isSome && !lost (4 * j), eos := false }
    | .store gs =>
      let bad (j : Nat) : Bool := (List.range 4).any fun i => lost (4 * j + i)
      let v (t : Nat) : Granule := BitVec.ofNat 128 (ofBytes (fun i => if bad (4 * t + i / 4) then 0 else byte (16 * t + i)) 16)
      let x := gs.zipIdx.foldl (fun x (g, t) => match g, now.contains t with
        | some n, true => landLoad (Config.freeBool (s.freeCtr + t)) x n (v t)
        | _, _ => x) x
      setCtx s c { x with flags := x.flags ||| mzLanes fun j => bad j && now.contains (j / 4) }
    | .queue q =>
      push q { data := BitVec.ofNat 2048 (ofBytes byte 256)
               mask := ofMask fun j => !((List.range 4).any fun i => lost (4 * j + i)), eos := false }
    | .scalar r f =>
      match a.pieces with
      | { loc := .device off, .. } :: _ =>
        wrSeq s c .L r (extendScalar f (deviceRead s ((partOfCore s c).getD 0) off).toNat)
      | _ =>
        if (List.range (sfmtBytes f)).any lost then stop (lostCause a.pieces) ((a.pieces.map (·.addr)).headD 0)
        else wrSeq s c .L r (extendScalar f (ofBytes byte (sfmtBytes f)))

/-- The granules of an access as it reads them when it lands. -/
def landedGot (s : State) (c : Nat) (a : LAccess) : List Got := mixGot s a.early (readPieces s (dieOfCore c) a.pieces 0)

/-- A load to the register store has granules to land after those of now. -/
def landsLater (a : LAccess) (now : List Nat) : Bool := match a.dest with
  | .store gs => (List.range gs.length).any fun t => !a.landed.contains t && !now.contains t
  | _ => false

/-- What the first step of an access's landing leaves: the frames read are counted and tokens drawn (R245, R376). -/
def chargeLoad (s : State) (a : LAccess) : State := if a.landed.isEmpty then countReads s a.pieces else s

/-- The oldest L access of a core lands, in part or whole; whole, or with a fault, it leaves flight. -/
def deliverHead (s : State) (c : Nat) : State :=
  let x := getCtx s c
  match x.lacc with
  | [] => s
  | a :: rest =>
    let gs := landedGot s c a
    let now := landsNow s a
    let stays := landsLater a now && (firstFault a.pieces gs).isNone
    let t := setCtx s c { x with lacc := if stays then { a with landed := a.landed ++ now } :: rest else rest }
    headSnapshot (chargeLoad (takeFree (deliver t c a gs now) (96 + a.pieces.length)) a) c

/-- The oldest L access of a context has the tokens of its transfers (R376). -/
def headReady (s : State) (x : Ctx) : Bool := match x.lacc with
  | [] => false
  | a :: _ => !a.landed.isEmpty || tokensReady s a.pieces

/-- The oldest L access of a context waits for tokens. -/
def headAwaits (s : State) (x : Ctx) : State := match x.lacc with
  | [] => s
  | a :: _ => awaitTokens s a.pieces

/-- LOAD_DATA_ARRIVE (R255): the oldest L access of a core's active context lands, or of the shadow context, where what was in flight at a flip
still lands (R418). -/
def execLoadDataArrive (core : Nat) (s : State) : Res :=
  let y := getCore s core
  if !y.ctx.lacc.isEmpty then .next (if headReady s y.ctx then deliverHead s core else headAwaits s y.ctx)
  else if !headReady s y.shadow then .next (headAwaits s y.shadow)
  else
    let t := deliverHead (setCore s core { y with ctx := y.shadow, shadow := y.ctx }) core
    let z := getCore t core
    .next (setCore t core { z with ctx := z.shadow, shadow := z.ctx })

/-- An earlier waiter of the pool whose granules are all full and meet these is served first (R230). -/
def servedFirst (s : State) (cluster : Nat) (g : FeAgent) (ps : List Piece) : Bool :=
  ((getCluster s cluster).waiters.takeWhile (·.agent != g)).any fun w => allFull s w.pieces && piecesMeet w.pieces ps

/-- The L instruction whose wait has been served completes; STRM goes on with its next entry (R264). -/
def completeWait (a : LAccess) (s : State) : State :=
  if a.strm.isNone then finish 2 1 s else petWatchdog (setCurSeq s (issued (curSeq s) 1))

/-- FULL_EMPTY_GRANT (R230): L of a core waits on full-empty bits; when every in-range granule is full, its earlier accesses have landed and no
earlier waiter takes them, it reads them and, for .fec, clears them, as one action. -/
def execFullEmptyGrant (core : Nat) (s : State) : Res :=
  let x := getCtx s core
  match x.feWait with
  | none => .next s
  | some a =>
    if !x.lacc.isEmpty || x.seqL.halted || !allFull s a.pieces || servedFirst s (clusterOfCore core) (.load core) a.pieces then .next s
    else
      let t := setCtx s core { x with lacc := [a], feWait := none }
      let t := deliverHead t core
      let t := leaveWaiters (if a.fe = .fec then clearAll t a.pieces else t) (clusterOfCore core) (.load core)
      .next { completeWait a { t with cur := (core, .L) } with cur := s.cur }

/-- A stopped waiter leaves the wait (R230), also the wait for a batch: the instruction begins to wait afresh when L runs again. -/
def leaveWait (s : State) (core : Nat) : State :=
  let x := getCtx s core
  let s := leavePool (setCtx s core { x with feWait := none, joinWait := none }) core
  let y := getDie s (dieOfCore core)
  if y.gatherers.any fun (_, g) => g.waiters.contains core then
    setDie s (dieOfCore core) { y with gatherers := y.gatherers.map fun (p, g) => (p, { g with waiters := g.waiters.filter (· != core) }) }
  else s

/-! ## Tokens and handles (R272 to R276) -/

/-- TOKW (R273): L goes on when the token word is at least g[d]. -/
def execTokw (d : Reg) (s : State) : Res :=
  let x := curCtx s
  let s := if bitOf (footprint x).toNat 7 then s else setCurCtx s (recordOor s.cycle x (16 * tokenGranule) true false 5)
  let t := if (curCtx s).tokenBad then takeFree s 1 else s
  if (rd s d).toNat ≤ tokenWord s (curCtx s) then .next (finish 2 1 t) else block .token t

/-- HGET (R274). -/
def execHget (d gb : Reg) (slot : BitVec 4) (s : State) : Res :=
  let v := fieldOf (rd s gb) 0 17
  let len := if v = 0 then 65536 else v
  let x := curCtx s
  if 65536 < len || (tfind x.slots slot.toNat).isSome then fault causeHandle 0 s
  else
    let cl := curCluster s
    let gang := match x.cell with
      | some c => c.gangBase
      | none => s.cur.1
    let live := liveBuffers s cl
    let mine (r : Reservation) : Bool := r.gangBase == gang && match x.cell with
      | some c => r.part == c.part && r.serial == c.serial && r.place == c.place
      | none => true
    let got := ((getCluster s cl).reserved.filter mine).findSome? fun r => firstFit r live len
    match got with
    | none => .next (finish 2 1 (wr s d 0))
    | some b =>
      let t := sramFree s cl (8 * b) (8 * (b + len))
      let t := setCurCtx t { curCtx t with slots := tput (curCtx t).slots slot.toNat { base := b, len := len, batch := none } }
      .next (finish 2 1 (wr t d 1))

/-- HPASS (R275). -/
def execHpass (d gb gx : Reg) (slot : BitVec 4) (s : State) : Res :=
  let target := fieldOf (rd s gb) 0 10
  let k := fieldOf (rd s gx) 0 4
  match tfind (curCtx s).slots slot.toNat with
  | none => fault causeHandle 0 s
  | some h =>
    if !inGang s target then fault causeHandle 0 s
    else if slotBusy s s.cur.1 slot.toNat then block .ring s
    else if (tfind (getCtx s target).slots k).isSome then .next (finish 2 1 (wr s d 0))
    else
      let t := setCurCtx s { curCtx s with slots := tdel (curCtx s).slots slot.toNat }
      let t := setCtx t target { getCtx t target with slots := tput (getCtx t target).slots k h }
      .next (finish 2 1 (wr t d 1))

/-- HREL (R276). -/
def execHrel (slot : BitVec 4) (s : State) : Res :=
  if (tfind (curCtx s).slots slot.toNat).isNone then fault causeHandle 0 s
  else if slotBusy s s.cur.1 slot.toNat then block .ring s
  else
    let (t, x) := releaseSlot s (curPart s) (curCtx s) slot.toNat
    .next (finish 2 1 (setCurCtx t x))

/-! ## Engine requests of L (R277 to R282) -/

/-- ITIN (R279): the header is read when it issues; what it holds is checked as R234 states. -/
def execItin (d : Reg) (e : Addr) (s : State) : Res :=
  let a := effAddr s e
  let die := curDie s
  let part := curPart s
  let l : Lamp := tget {} (getDie s die).lamps part
  if a % 64 ≠ 0 then fault causeAlignment a s
  else if !(curCtx s).lacc.isEmpty || trackerHit s a 64 none then block .other s
  else if ticketsFull s || 4 ≤ l.waiting.length then block .job s
  else
    match readRecord s a 64 with
    | .error (c, g) => stopRecord s a 64 c g
    | .ok _ =>
      let l' := { l with waiting := l.waiting ++ [(newOwner s, a)] }
      let t := setDie s die { getDie s die with lamps := tput (getDie s die).lamps part l' }
      .next (finish 2 1 (giveTicket (afterRecord t a 64) d true))

/-- The card of a 192-byte record, with its reserved bits (R280). -/
def parseCard (o : Owner) (r : Nat) : Card :=
  let w := recWord r
  { owner := o, fill := fieldOf (w 0) 0 2 == 1, swait := fieldOf (w 0) 2 2, mire := bitOf (w 0).toNat 4,
    rows := fieldOf (w 1) 0 32, rowlen := fieldOf (w 1) 32 32, src := w 2, dst := w 3,
    sstride := (w 4).toInt, dstride := (w 5).toInt, pattern := w 6,
    regions := (List.range 8).filterMap fun k => if w (9 + 2 * k) = 0 then none else some (4 ≤ k, w (8 + 2 * k), (w (9 + 2 * k)).toNat),
    started := false, row := 0, off := 0, lost := false }

/-- A card record breaks R280 or R281. -/
def cardBad (s : State) (core : Nat) (r : Nat) (c : Card) : Bool :=
  let w := recWord r
  fieldOf (w 0) 5 59 != 0 || 2 ≤ fieldOf (w 0) 0 2 || c.swait == 3 || w 7 != 0 || c.rows == 0 || c.rowlen == 0 || c.rowlen % 16 != 0 ||
  c.sstride % 16 != 0 || c.dstride % 16 != 0 || (!c.fill && (endpointBad s core c.src || fieldOf c.src 0 4 != 0)) ||
  endpointBad s core c.dst || fieldOf c.dst 0 4 != 0 || c.regions.any fun (_, b, _) => endpointBad s core b

/-- The virtual ranges of a card's used regions. -/
def cardRanges (c : Card) : List (Nat × Nat) :=
  c.regions.filterMap fun (_, b, n) => if (endpointSram b).isSome then none else some (fieldOf b 0 56, n)

/-- JCPY (R280). -/
def execJcpy (d : Reg) (e : Addr) (s : State) : Res :=
  let a := effAddr s e
  let die := curDie s
  let part := curPart s
  if a % 64 ≠ 0 then fault causeAlignment a s
  else if !(curCtx s).lacc.isEmpty || trackerHit s a 192 none then block .other s
  else if ticketsFull s then block .job s
  else
    match readRecord s a 192 with
    | .error (c, g) => stopRecord s a 192 c g
    | .ok r =>
      let c := parseCard (newOwner s) r
      if cardBad s s.cur.1 r c then fault causeCard 0 s
      else if (cardRanges c).any fun (b, n) => trackerHit s b n none then block .other s
      else
        let y := getDie s die
        let t := setDie s die { y with cards := tput y.cards part (tget [] y.cards part ++ [c]) }
        .next (finish 2 1 (giveTicket (afterRecord t a 192) d true))

/-- JWAIT (R278): RESULT 0 acquires at .pkg once every die has applied the job's writes (R295). -/
def execJwait (d : Reg) (s : State) : Res :=
  let t := (rd s d).toNat
  match tfind (curCtx s).tickets t with
  | none => .next (finish 2 1 (wr s d 3))
  | some .running => block .job s
  | some (.done r lost stamps) =>
    if !coveredPkg s (vecStamps stamps) then block .job s
    else
      let x := curCtx s
      .next (finish 2 1 (wr (setCurCtx s { x with tickets := tdel x.tickets t }) d
        (BitVec.ofNat 64 (r.toNat + if lost then 4 else 0))))

/-! ## Rings (R283, R286) -/

/-- A ring as an instruction names it: cluster, handle, ring offset, RES, CON, N. -/
structure RingRef where
  holder : Nat
  handle : Handle
  off : Nat
  res : Nat
  con : Nat
  n : Nat
deriving DecidableEq, Repr

/-- The pool granule of a byte offset of a buffer. -/
def bufGranule (h : Handle) (off : Nat) : Nat := 8 * h.base + off / 16

/-- The ring that gb, slot and off name, or the fault with its address: the control granule's offset where that granule raises it, else 0 (R218, R252,
R283). -/
def findRing (s : State) (gb : Reg) (off : BitVec 18) (slot : BitVec 4) : Except (BitVec 8 × Nat) RingRef :=
  let holder := if gb = 0 then s.cur.1 else fieldOf (rd s gb) 0 10
  let r := (off.signExtend 64).toNat
  if r % 16 ≠ 0 then .error (causeAlignment, r)
  else if !inGang s holder then .error (causeHandle, 0)
  else
    match tfind (getCtx s holder).slots slot.toNat with
    | none => .error (causeHandle, 0)
    | some h =>
      if 128 * h.len < r + 16 then .error (causeHandle, 0)
      else
        let g := sramGet (getCluster s (clusterOfCore holder)) (bufGranule h r)
        if g.bad || !g.q then .error (causeSram, r)
        else
          let n := bits g.data.toNat 95 64
          if n = 0 || 128 * h.len < r + 16 + 272 * n then .error (causeHandle, 0)
          else .ok { holder := holder, handle := h, off := r, res := bits g.data.toNat 31 0, con := bits g.data.toNat 63 32, n := n }

/-- Write RES or CON of a ring. -/
def setRing (s : State) (r : RingRef) (lo v : Nat) : State :=
  let c := clusterOfCore r.holder
  let g := bufGranule r.handle r.off
  let x := sramGet (getCluster s c) g
  sramPut s c g { x with data := (x.data &&& ~~~ byteMask (lo / 8) 4) ||| BitVec.ofNat 128 ((v % 2 ^ 32) <<< lo) }

/-- The pieces of the slot of a sequence number. -/
def ringSlot (r : RingRef) (sequ : Nat) : List Piece :=
  resolveBuffer (clusterOfCore r.holder) r.handle (r.off + 16 + 272 * (sequ % 2 ^ 32 % r.n)) 272

/-- A core consumes from a ring (R286). -/
def noteConsumer (s : State) (r : RingRef) : State :=
  let c := clusterOfCore r.holder
  let g := bufGranule r.handle r.off
  let x := getCluster s c
  let l := tget [] x.consumers g
  if l.contains s.cur.1 then s else setCluster s c { x with consumers := tput x.consumers g (s.cur.1 :: l) }

/-- Another core has consumed from a ring too: its entries are undefined (R286). -/
def sharedRing (s : State) (r : RingRef) : Bool := (tget [] (getCluster s (clusterOfCore r.holder)).consumers (bufGranule r.handle r.off)).any (· != s.cur.1)

/-- An undefined entry. -/
def freeEntry (s : State) : QEntry := { data := Config.freeVec s.freeCtr, mask := freeW s, eos := Config.freeBool s.freeCtr }

/-- RCON (R286): the slot's granules are read and cleared as one action, the record is pushed, and CON and g[gx] advance. -/
def execRcon (d : BitVec 3) (gb gx : Reg) (off : BitVec 18) (slot : BitVec 4) (s : State) : Res :=
  if !queueRoom (curCtx s) d.toNat then block .queue s
  else if !(curCtx s).lacc.isEmpty then block .other s
  else
    match findRing s gb off slot with
    | .error (c, a) => fault c a s
    | .ok r =>
      let sequ := (rd s gx).toNat
      let ps := ringSlot r sequ
      if !allFull s ps || servedFirst s (clusterOfCore r.holder) (.ring s.cur.1) ps then
        block .ring (joinWait s (clusterOfCore r.holder) (.ring s.cur.1) ps)
      else
        let gs := readPieces s (curDie s) ps 0
        match firstFault ps gs with
        | some (c, g) => fault c g s
        | none =>
          let byte := accessByte ps gs
          let e : QEntry :=
            { data := BitVec.ofNat 2048 (ofBytes byte 256)
              mask := ofMask fun j => bitOf (ofBytes (fun i => byte (256 + i)) 8) j && !accessLost ps gs (4 * j)
              eos := bitOf (byte 264).toNat 0 }
          let t := setRing (clearAll (leaveWaiters (noteTouch s ps) (clusterOfCore r.holder) (.ring s.cur.1)) ps) r 32 (r.con + 1)
          let (t, e) := if sharedRing s r then (takeFree t 1, freeEntry s) else (t, e)
          .next (finish 2 1 (wr (pushOperand d.toNat e (noteConsumer t r)) gx (rd s gx + 1)))

end Sys2Proof.Machine
end

