-- ==== Sys2Proof/Machine/Stores.lean ====
section
/-! DEFINITION. The S instructions of chapter 09 as they issue: stores, STA, scatters, atomics, fences, tokens, rings and bank compute
(R265 to R271, R273, R284, R285, R287, R289). Their accesses are performed by WRITE_PERFORM_HOME. -/

namespace Sys2Proof.Machine

/-! ## Shared operations -/

/-- A granule of the register store as S reads it: with an X result in flight that writes it, the old or the new value (R254). -/
def storeRead (x : Ctx) (choice : Bool) (n : Nat) : Granule :=
  if choice then storeGranule (landAll x) n else storeGranule x n

/-- The 16 granules of a vector operand as S reads them; out of range reads zero. -/
def readOperandS (s : State) (o : Opnd) : Vec :=
  let x := curCtx s
  let gs := viewGranules x.vview (footprint x) (opIndex s o) 16
  ofGranules fun t => match (gs[t]?).join with
    | some n => settledOr x n (s.freeCtr + t) (storeRead x (Config.freeBool (s.freeCtr + t)) n)
    | none => 0

/-- Byte i of a vector operand. -/
def vecByte (v : Vec) (i : Nat) : Byte := BitVec.ofNat 8 (v.toNat >>> (8 * i))

/-- Put an S access in flight. -/
def flyStore (s : State) (act : SAct) (ps : List Piece) (fa : Fe) (range : Option (Nat × Nat)) : State :=
  let q := curSeq s
  let x := curCtx s
  let a : SAccess := { act := act, pieces := ps, fe := fa, range := range, deps := clockVector s (curDie s) x.sdeps,
                       performed := false, stamps := [], fpc := q.pc.setWidth 16, parcels := parcelsAt q q.pc.toNat,
                       num := x.sissued,
                       sta := match act with
                         | .image _ => true
                         | _ => false }
  setCurCtx s { x with sacc := x.sacc ++ [a], sissued := x.sissued + 1 }

/-- The virtual range of an access for the retirement tracker: none through a handle (R318). -/
def trackRange (a n : Nat) (slot : Option (BitVec 4)) : Option (Nat × Nat) := if slot.isNone then some (a, n) else none

/-- Issue a store of n bytes at address a: the tracker's wait, translation and permission, then what done does with the pieces. -/
def startStore (a n : Nat) (slot : Option (BitVec 4)) (need : Need) (done : State → List Piece → State) (s : State) : Res :=
  if !storeRoom s || trackerHit s a n slot then block .other (awaitRoom s)
  else
    match resolve s a n slot need with
    | .error (e, g) => stopAccess s (curPart s) e g (accessCode need)
    | .ok ps =>
      let t := noteBeyond (afterResolve s a n slot) s.cur.1 ps (slot.getD 0).toNat false 1
      .next (finish 2 1 (done t ps))

/-- The head of a result queue. -/
def headW (s : State) (d : BitVec 2) : Option QEntry := (getW (curCtx s) d.toNat).entries.head?

/-- Remove the head of a result queue. -/
def popW (s : State) (d : BitVec 2) : State :=
  let x := curCtx s
  setCurCtx s { x with w := tput x.w d.toNat (popQueue (getW x d.toNat)) }

/-- Bytes of the invalid lanes of an entry (R266). -/
def invalidBytes (e : QEntry) (n : Nat) : List Nat := (List.range n).filter fun i => i < 256 && !maskBit e.mask (i / 4)

/-- Every earlier S atomic has returned its value: S performs its reads in program order (R295). -/
def atomicsReturned (x : Ctx) : Bool := x.sacc.all fun a => a.performed || match a.act with
  | .atomic .. => false
  | _ => true

/-! ## Stores (R265 to R269) -/

def execStv (d : Opnd) (e : Addr) (fa : Fe) (s : State) : Res :=
  let a := effAddr s e
  if a % 16 ≠ 0 then fault causeAlignment a s
  else
    let v := readOperandS s d
    startStore a 256 e.slot { wr := true } (fun t ps =>
      flyStore (noteOperand t d 16 true 6) (.store ((List.range 256).map (vecByte v)) []) ps fa (trackRange a 256 e.slot)) s

/-- STQ (R255, R266): the entry is removed once its access is translated and permitted; an end-of-stream entry makes no access. -/
def execStq (d : BitVec 2) (e : Addr) (fa : Fe) (s : State) : Res :=
  match headW s d with
  | none => block .queue s
  | some h =>
    if h.eos then .next (finish 2 1 (popW s d))
    else
      let a := effAddr s e
      if a % 16 ≠ 0 then fault causeAlignment a s
      else startStore a 256 e.slot { wr := true } (fun t ps =>
        flyStore (popW t d) (.store ((List.range 256).map (vecByte h.data)) (invalidBytes h 256)) ps fa (trackRange a 256 e.slot)) s

/-- Little-endian bytes of a register value. -/
def wordBytes (v : Word) (n : Nat) : List Byte := (List.range n).map fun i => BitVec.ofNat 8 (v.toNat >>> (8 * i))

/-- The piece of a scalar access in the device aperture (R372). -/
def devicePiece (a n : Nat) : List Piece := [{ loc := .device (a - apertureBase), addr := a, first := 0, count := n, pos := 0 }]

def execSts (f : SFmt) (d : Reg) (e : Addr) (fa : Fe) (s : State) : Res :=
  let a := effAddr s e
  let n := sfmtBytes f
  let act := SAct.store (wordBytes (rd s d) n) []
  if a % n ≠ 0 then fault causeAlignment a s
  else if e.slot.isNone && inAperture a then
    if n < 4 then fault causeProtection a s
    else if !storeRoom s || trackerHit s a n none then block .other (awaitRoom s)
    else .next (finish 2 1 (flyStore s act (devicePiece a n) .none (trackRange a n none)))
  else startStore a n e.slot { wr := true } (fun t ps => flyStore t act ps fa (trackRange a n e.slot)) s

/-- The span from the lowest to the highest byte of lanes (R318). -/
def laneSpan (base : Nat) (lanes : List (Option Nat)) : Option (Nat × Nat) :=
  match lanes.filterMap id with
  | [] => none
  | x :: t =>
    let lo := t.foldl min x
    let hi := t.foldl max x
    some (base + 4 * lo, 4 * (hi - lo) + 4)

/-- SCT (R268): lanes are written in ascending order, so the higher lane wins where two name one word. -/
def execSct (d : BitVec 2) (gx : Reg) (e : Base) (s : State) : Res :=
  match headW s d with
  | none => block .queue s
  | some h =>
    if h.eos then .next (finish 2 1 (popW s d))
    else
      let iv := (rd s gx).toNat
      let base := baseAddr s e
      if iv % 16 ≠ 0 then fault causeAlignment iv s
      else if base % 4 ≠ 0 then fault causeAlignment base s
      else if !storeRoom s || !atomicsReturned (curCtx s) || trackerHit s iv 256 none || ownStorePending s iv 256 then block .other (awaitRoom s)
      else
        let s := ownStoresSeen s iv 256
        match readIndices s iv with
        | .error (c, g) => stopRecord s iv 256 c g
        | .ok all =>
          let lanes := all.zipIdx.map fun (x, j) => if maskBit h.mask j then x else none
          if lanesHit s base e.slot lanes then block .other s
          else if !demandReady s (lanesDemand s iv base e.slot lanes) then block .other (awaitDemand s (lanesDemand s iv base e.slot lanes))
          else
            match resolveLanes s base e.slot { wr := true } lanes 0 with
            | .error (c, g) => stopAccess s (curPart s) c g 1
            | .ok ps =>
              let t := takeFree (cacheLanes (afterRecord s iv 256) base e.slot lanes) 96
              let t := noteBeyond t s.cur.1 (ps.filterMap id) (e.slot.getD 0).toNat false 1
              let span := if e.slot.isNone then laneSpan base lanes else none
              .next (finish 2 1 (flyStore (popW t d)
                (.scatter ((List.range 256).map (vecByte h.data))) (ps.filterMap id) .none span))

/-- Bytes of the image of STA (R209): the tile's extent when raw, else header and one 12-byte value for each element. -/
def imageBytes (raw : Bool) (h : Nat) : Nat :=
  if raw then (16 + 24 * 257 * (h + 1) + 15) / 16 * 16 else 16 + 12 * 257 * (h + 1)

/-- STA (R269): a resolver job forms the image; its stores keep STA's place among S's accesses. -/
def execSta (raw : Bool) (d : Opnd) (gx : Reg) (e : Base) (s : State) : Res :=
  let a := baseAddr s e
  let h := fieldOf (rd s gx) 0 6 + 1
  let n := imageBytes raw h
  if a % 16 ≠ 0 then fault causeAlignment a s
  else if 8 ≤ (curCtx s).rjobs.length then block .job s
  else startStore a n e.slot { wr := true } (fun t ps =>
    let x := curCtx t
    let q := curSeq t
    let j : RJob := { kind := .sta raw, tile := opIndex t d, h := h, aview := x.aview, vview := x.vview, foot := footprint x, seq := .S,
                      arrival := x.arrivals, issuedAt := s.cycle, started := false, row := 0, transform := false, fpc := q.pc.setWidth 16,
                      parcels := parcelsAt q q.pc.toNat }
    let t := flyStore t (.image x.arrivals) ps .none (trackRange a n e.slot)
    setCurCtx t { curCtx t with rjobs := (curCtx t).rjobs ++ [j], arrivals := x.arrivals + 1 }) s

/-! ## Atomics (R270) -/

/-- Width in bytes of an integer atomic. -/
def afmtBytes : AFmt → Nat
  | .w64 => 8
  | .i32 | .n32 => 4

/-- Width in bytes of ATFADD. -/
def affmtBytes : AFFmt → Nat
  | .f32 => 4
  | .bf16 | .f16 => 2

/-- Whether an integer atomic's old value is sign-extended and its order signed. -/
def afmtSigned : AFmt → Bool
  | .n32 => false
  | _ => true

/-- A kind that is preceded by FENCE.rel, and one that is followed by FENCE.acq (R270). -/
def kindRel : AKind → Bool
  | .rel | .full => true
  | _ => false
def kindAcq : AKind → Bool
  | .acq | .full => true
  | _ => false

/-- An atomic: aligned, for .rel and .full after the earlier accesses are visible at the scope, in the aperture only for registers
that R372 lets it reach. -/
def opAtomic (op : AtomOp) (n : Nat) (signed : Bool) (ff : Option AFFmt) (k : AKind) (sc : Scope) (d gx : Reg) (e : Base) (s : State) : Res :=
  let a := baseAddr s e
  let act := SAct.atomic op (8 * n) signed ff (rd s gx) (rd s d) d (kindAcq k) (if k = .full then some sc else none)
  let u := if kindRel k then drawAcks s s.cur.1 sc else s
  if a % n ≠ 0 then fault causeAlignment a s
  else if kindRel k && !allVisible u u.cur.1 sc then block .other u
  else if e.slot.isNone && inAperture a then
    if ff.isSome || !deviceAtomic (a - apertureBase) then fault causeProtection a s
    else if !storeRoom u || trackerHit u a n none then block .other (awaitRoom u)
    else .next (finish 2 1 (flyStore u act (devicePiece a n) .none (trackRange a n none)))
  else startStore a n e.slot { rd := true, wr := true } (fun t ps => flyStore t act ps .none (trackRange a n e.slot)) u

def execAtadd (f : AFmt) (k : AKind) (sc : Scope) (d gx : Reg) (e : Base) (s : State) : Res :=
  opAtomic .add (afmtBytes f) (afmtSigned f) none k sc d gx e s
def execAtfadd (f : AFFmt) (k : AKind) (sc : Scope) (d gx : Reg) (e : Base) (s : State) : Res :=
  opAtomic .fadd (affmtBytes f) false (some f) k sc d gx e s
def execAtmin (f : AFmt) (k : AKind) (sc : Scope) (d gx : Reg) (e : Base) (s : State) : Res :=
  opAtomic .min (afmtBytes f) (afmtSigned f) none k sc d gx e s
def execAtmax (f : AFmt) (k : AKind) (sc : Scope) (d gx : Reg) (e : Base) (s : State) : Res :=
  opAtomic .max (afmtBytes f) (afmtSigned f) none k sc d gx e s
def execAtxch (f : AFmt) (k : AKind) (sc : Scope) (d gx : Reg) (e : Base) (s : State) : Res :=
  opAtomic .xch (afmtBytes f) (afmtSigned f) none k sc d gx e s
def execAtcas (f : AFmt) (k : AKind) (sc : Scope) (d gx : Reg) (e : Base) (s : State) : Res :=
  opAtomic .cas (afmtBytes f) (afmtSigned f) none k sc d gx e s

/-! ## Fences and tokens (R271, R273, R289) -/

/-- FENCE (R271): S blocks until what the kind orders before the fence has happened; for .acq its die has then applied what S's atomics returned
(R295, R299). -/
def execFence (k : AKind) (sc : Scope) (s : State) : Res :=
  let s := if kindRel k then drawAcks s s.cur.1 sc else s
  let rel := !kindRel k || allVisible s s.cur.1 sc
  let acq := !kindAcq k || atomicsReturned (curCtx s)
  if rel && acq then .next (finish 2 1 (if kindAcq k then catchUp s (curDie s) (curCtx s).sdeps else s)) else block .other s

/-- Every update in flight is installed where a scope asks for it. -/
def updatesInstalled (s : State) (d : Nat) (sc : Scope) : Bool :=
  match sc with
  | .core | .clus | .die => (getDie s d).inbox.isEmpty
  | .pkg | .dom => (List.range 4).all fun e => (getDie s e).fenced || (getDie s e).inbox.isEmpty

/-- BMV jobs of a core's context that have not completed. -/
def bmvPending (s : State) (c : Nat) : Bool :=
  (getDie s (dieOfCore c)).bmv.any fun j => (getCtx s c).bmvJobs.contains j.owner.ticket

/-- A vector of stamps is visible at a scope, as a die knows it; what went to other packages has no stamps. -/
def stampsVisible (s : State) (d : Nat) (sc : Scope) (v : List Nat) : Bool :=
  match sc with
  | .core | .clus | .die => coveredDie s d (vecStamps v)
  | .pkg | .dom => coveredPkg s (vecStamps v)

/-- BFEN (R289): at .dom also what the jobs wrote in other packages is performed there (R297, R301). -/
def execBfen (sc : Scope) (s : State) : Res :=
  let s := drawAcks s s.cur.1 sc
  if bmvPending s s.cur.1 then block .job s
  else if allVisible s s.cur.1 sc && stampsVisible s (curDie s) sc (curCtx s).bmvStamps && (sc != .dom || !(curCtx s).bmvFar) then .next (finish 2 1 s)
  else block .other s

/-- TOKS (R273): the addition waits in its place among S's accesses while later instructions issue. -/
def execToks (sc : Scope) (d : Reg) (s : State) : Res :=
  if !storeRoom s then block .other (awaitRoom s) else .next (finish 2 1 (flyStore s (.token sc d) [] .none none))

/-! ## Rings (R284, R285) -/

/-- The control granule of a ring has a store of this S still to be performed. -/
def ringStorePending (s : State) (r : RingRef) : Bool :=
  let ps := resolveBuffer (clusterOfCore r.holder) r.handle r.off 16
  (curCtx s).sacc.any fun a => !a.performed && piecesMeet a.pieces ps

/-- S has a store to a buffer still to be performed, so a ring in it is not read yet (R258). -/
def bufferStorePending (s : State) (gb : Reg) (slot : BitVec 4) : Bool :=
  let holder := if gb = 0 then s.cur.1 else fieldOf (rd s gb) 0 10
  match tfind (getCtx s holder).slots slot.toNat with
  | some h => (curCtx s).sacc.any fun a => !a.performed && a.pieces.any (pieceInBuffer (clusterOfCore holder) h)
  | none => false

/-- Where a ring's RRSVs wait: the slice that holds its control granule. -/
def ringPlace (r : RingRef) : Nat := bufGranule r.handle r.off

/-- Reach the slice and wait there, behind the RRSVs that reached it before (R284). -/
def joinRing (s : State) (r : RingRef) : State :=
  let cl := getCluster s (clusterOfCore r.holder)
  let me := (ringPlace r, s.cur.1)
  if cl.reservers.contains me then s else setCluster s (clusterOfCore r.holder) { cl with reservers := cl.reservers ++ [me] }

/-- Leave the slice. -/
def leaveRing (s : State) (r : RingRef) : State :=
  let cl := getCluster s (clusterOfCore r.holder)
  let me := (ringPlace r, s.cur.1)
  if cl.reservers.contains me then setCluster s (clusterOfCore r.holder) { cl with reservers := cl.reservers.filter (· != me) } else s

/-- An RRSV of the ring waits at the slice before this core's. -/
def ringBefore (s : State) (r : RingRef) : Bool :=
  ((getCluster s (clusterOfCore r.holder)).reservers.takeWhile (· != (ringPlace r, s.cur.1))).any fun w => w.1 == ringPlace r

/-- RRSV (R284). -/
def execRrsv (d gb : Reg) (off : BitVec 18) (slot : BitVec 4) (s : State) : Res :=
  if bufferStorePending s gb slot || !atomicsReturned (curCtx s) || acqPending s s.cur.1 then block .other s
  else
    match findRing s gb off slot with
    | .error (c, a) => fault c a s
    | .ok r =>
      if (r.res + 2 ^ 32 - r.con) % 2 ^ 32 < r.n && !ringBefore s r then
        .next (finish 2 1 (wr (setRing (leaveRing s r) r 0 (r.res + 1)) d (BitVec.ofNat 64 r.res)))
      else block .ring (joinRing s r)

/-- The 272-byte record of an entry (R44). -/
def entryBytes (e : QEntry) : List Byte :=
  (List.range 256).map (vecByte e.data) ++ (List.range 8).map (fun i => BitVec.ofNat 8 (e.mask.toNat >>> (8 * i))) ++
  [if e.eos then 1 else 0] ++ List.replicate 7 0

/-- A sequence has been published before: the consumer has passed it, a granule of its slot is full, or another publish of the slot is in flight
(R285). -/
def published (s : State) (r : RingRef) (sequ : Nat) : Bool :=
  let ps := ringSlot r sequ
  let gone := (r.con + 2 ^ 32 - sequ % 2 ^ 32) % 2 ^ 32
  (0 < gone && gone < 2 ^ 31) || (poolGranules ps).any (fun (c, g) => (sramGet (getCluster s c) g).f) ||
  (List.range 16).any fun i =>
    let c := 16 * clusterOfCore r.holder + i
    (contextsOf s c).any (fun x => x.sacc.any fun a => !a.performed && a.fe == .fe && piecesMeet a.pieces ps) ||
    (getCore s c).tracker.any fun t => match t.acc with
      | some a => !a.performed && a.fe == .fe && piecesMeet a.pieces ps
      | none => false

/-- The bytes that a publish writes: a second publish of one sequence leaves the slot undefined (R285). -/
def publishBytes (s : State) (r : RingRef) (sequ : Nat) (e : QEntry) : List Byte :=
  if published s r sequ then (List.range 272).map fun i => granuleByte (Config.freeGranule (s.freeCtr + i / 16)) (i % 16) else entryBytes e

/-- RPUB (R285): an entry of any kind is written to the slot of its sequence and sets the F bits of its 17 granules. -/
def execRpub (d : BitVec 2) (gb gx : Reg) (off : BitVec 18) (slot : BitVec 4) (s : State) : Res :=
  match headW s d with
  | none => block .queue s
  | some h =>
    if !storeRoom s then block .other (awaitRoom s)
    else
      match findRing s gb off slot with
      | .error (c, a) => fault c a s
      | .ok r =>
        if ringStorePending s r then block .other s
        else .next (finish 2 1 (flyStore (popW (takeFree s 17) d) (.store (publishBytes s r (rd s gx).toNat h) (invalidBytes h 256))
          (ringSlot r (rd s gx).toNat) .fe none))

/-! ## Bank compute (R287) -/

/-- The job of a 64-byte BMV descriptor. -/
def parseBmv (o : Owner) (r : Nat) : BmvJob :=
  let w := recWord r
  let size (x : Nat) : Nat := if x = 0 then 65536 else x
  { owner := o, waddr := fieldOf (w 0) 0 56, xaddr := fieldOf (w 1) 0 56, yaddr := fieldOf (w 2) 0 56, stat := fieldOf (w 3) 0 56,
    m := size (fieldOf (w 4) 0 32), k := size (fieldOf (w 4) 32 32), wfmt := fieldOf (w 5) 0 5, nv := fieldOf (w 5) 5 3 + 1,
    wrow := fieldOf (w 5) 32 32, xstr := fieldOf (w 6) 0 32, ystr := fieldOf (w 6) 32 32, row := 0, lost := [], nan := false, inf := false,
    stopped := none }

/-- A descriptor breaks R287. -/
def bmvBad (r : Nat) (j : BmvJob) : Bool :=
  let w := recWord r
  (List.range 4).any (fun i => fieldOf (w i) 56 8 != 0 || fieldOf (w i) 0 4 != 0) || 65536 < j.m || 65536 < j.k ||
  !([0, 2, 3, 4, 5, 10].contains j.wfmt) || fieldOf (w 5) 8 24 != 0 || j.wrow % 16 != 0 || j.xstr % 16 != 0 || j.ystr % 16 != 0 || w 7 != 0

/-- Bytes of a row of k columns of W in a format. -/
def bmvRowBytes (wfmt k : Nat) : Nat :=
  match wfmt with
  | 0 => 2 * k
  | 5 => (k + 1) / 2
  | 10 => (k + 4) / 5
  | _ => k

/-- The virtual ranges that a BMV job writes: its y vectors and its status record (R318). -/
def bmvRanges (j : BmvJob) : List (Nat × Nat) :=
  (List.range j.nv).map (fun v => (j.yaddr + v * j.ystr, 4 * j.m)) ++ if j.stat = 0 then [] else [(j.stat, 16)]

/-- The virtual ranges that a BMV job reads: W, from the first byte of its first row to the last of its last, and the x vectors. -/
def bmvReads (j : BmvJob) : List (Nat × Nat) :=
  (j.waddr, (j.m - 1) * j.wrow + bmvRowBytes j.wfmt j.k) :: (List.range j.nv).map fun v => (j.xaddr + v * j.xstr, 2 * j.k)

/-- BMV (R287): the ticket is never outstanding for JWAIT. -/
def execBmv (d : Reg) (e : Addr) (s : State) : Res :=
  let a := effAddr s e
  let die := curDie s
  if a % 64 ≠ 0 then fault causeAlignment a s
  else if acqPending s s.cur.1 || !atomicsReturned (curCtx s) || trackerHit s a 64 none || ownStorePending s a 64 then block .other s
  else
    let s := ownStoresSeen s a 64
    match readRecord s a 64 with
    | .error (c, g) => stopRecord s a 64 c g
    | .ok r =>
      let j := parseBmv (newOwner s) r
      if bmvBad r j then fault causeCard 0 s
      else if (bmvReads j ++ bmvRanges j).any fun (b, n) => trackerHit s b n none then block .other s
      else
        let y := getDie s die
        let t := setDie s die { y with bmv := y.bmv ++ [{ j with deps := clockVector s die (curCtx s).sdeps }] }
        let t := setCurCtx t { curCtx t with bmvJobs := j.owner.ticket :: (curCtx t).bmvJobs }
        .next (finish 2 1 (giveTicket (afterRecord t a 64) d false))

end Sys2Proof.Machine
end

