-- ==== Sys2Proof/Machine/Tiles.lean ====
section
/-! DEFINITION. Accumulator tiles (R125 to R130, R173 to R175): where their elements lie, carry-save compression, checksums, reading and
rewriting a tile, and the conflict rule of the jobs of both engines (R193). -/

namespace Sys2Proof.Machine

/-! ## Geometry (R173) -/

/-- A tile as a job names it: the view and footprint it latched, the index, the rows. -/
structure Tile where
  view : Word
  foot : BitVec 8
  index : Nat
  h : Nat
deriving DecidableEq, Repr

/-- The extent of a tile of h rows in bytes. -/
def tileExtent (h : Nat) : Nat := (16 + 24 * 257 * (h + 1) + 15) / 16 * 16

/-- Byte address of the operand of an index (R34). -/
def viewAddr (view : Word) (i : Nat) : Nat := 16 * fieldOf view 0 16 + 16 * fieldOf view 16 16 * i

/-- The tile address t0. -/
def tileAddr (t : Tile) : Nat := viewAddr t.view t.index

/-- Byte offset of a data element, a row checksum, a column checksum and the corner of a tile of h rows. -/
def dataOff (r n : Nat) : Nat := 16 + 24 * (256 * r + n)
def rowOff (h r : Nat) : Nat := 16 + 24 * (256 * h + r)
def colOff (h n : Nat) : Nat := 16 + 24 * (257 * h + n)
def cornerOff (h : Nat) : Nat := 16 + 24 * (257 * h + 256)

/-- Byte ranges as (first byte, bytes) meet. -/
def bytesMeet (a b : Nat × Nat) : Bool := a.1 < b.1 + b.2 && b.1 < a.1 + a.2

/-- The byte range of a tile's extent. -/
def tileRange (t : Tile) : Nat × Nat := (tileAddr t, tileExtent t.h)

/-! ## Bytes through a view -/

/-- n bytes at a byte displacement from an operand, as a little-endian number; out-of-range granules read zero (R35). -/
def readSpan (x : Ctx) (view : Word) (foot : BitVec 8) (i off n : Nat) : Nat :=
  let gs := spanGranules view foot i off n
  let v := packN 128 (fun t => match (gs[t]?).join with
    | some g => (storeGranule x g).toNat
    | none => 0) gs.length
  (v >>> (8 * (off % 16))) % 2 ^ (8 * n)

/-- Write n bytes at a byte displacement from an operand, as the job that owns them; out-of-range granules are dropped (R35). -/
def writeSpan (x : Ctx) (view : Word) (foot : BitVec 8) (i off n v : Nat) : Ctx :=
  let data := (v % 2 ^ (8 * n)) <<< (8 * (off % 16))
  let mask := (2 ^ (8 * n) - 1) <<< (8 * (off % 16))
  (spanGranules view foot i off n).zipIdx.foldl (fun x (g, t) => match g with
    | some k => putGranule x k (BitVec.ofNat 128 (mask >>> (128 * t))) (BitVec.ofNat 128 (data >>> (128 * t)))
    | none => x) x

/-- Bytes of a tile. -/
def tileRead (x : Ctx) (t : Tile) (off n : Nat) : Nat := readSpan x t.view t.foot t.index off n
def tileWrite (x : Ctx) (t : Tile) (off n v : Nat) : Ctx := writeSpan x t.view t.foot t.index off n v

/-- Note in RSOOR an access to a tile that has a granule out of range (R174). -/
def noteTile (now : Nat) (x : Ctx) (t : Tile) (off n : Nat) (read : Bool) (src : Nat) : Ctx :=
  noteSpan now x t.view t.foot t.index off n read src

/-! ## The header (R128) -/

/-- The header word. -/
def tileHeader (x : Ctx) (t : Tile) : Word := BitVec.ofNat 64 (tileRead x t 0 8)

/-- ANCHOR, STATE, NV and MZ of a tile. -/
def tileAnchor (x : Ctx) (t : Tile) : Int := sextN (tileHeader x t).toNat 16
def tileState (x : Ctx) (t : Tile) : Nat := fieldOf (tileHeader x t) 16 2
def tileFaulted (x : Ctx) (t : Tile) : Bool := tileState x t == 3

/-- Write fields of the header: anchor and state where given, NV and MZ raised where true. -/
def markTile (x : Ctx) (t : Tile) (anchor : Option Int) (state : Option Nat) (nv mz : Bool) : Ctx :=
  let w := tileHeader x t
  let w := match anchor with
    | some a => setField w 0 16 (zextI a 16)
    | none => w
  let w := match state with
    | some q => setField w 16 2 q
    | none => w
  let w := if nv then setField w 18 1 1 else w
  let w := if mz then setField w 19 1 1 else w
  tileWrite x t 0 8 w.toNat

/-! ## Elements (R125, R126) -/

/-- 2^96. -/
def mod96 : Nat := 2 ^ 96

/-- V(e): (S + C) mod 2^96 of the 24 bytes of an element. -/
def elemV (e : Nat) : Nat := (e % mod96 + (e / mod96) % mod96) % mod96

/-- Compress(e, P) of R126 on the 24 bytes of an element: a 3:2 compression. -/
def compressElem (e p : Nat) : Nat :=
  let s := e % mod96
  let c := (e / mod96) % mod96
  let q := p % mod96
  let maj := (s &&& c) ||| (s &&& q) ||| (c &&& q)
  (s ^^^ c ^^^ q) + ((2 * maj) % mod96) * mod96

/-- V of the element at a byte offset. -/
def valueAt (x : Ctx) (t : Tile) (off : Nat) : Nat := elemV (tileRead x t off 24)

/-- The exact signed value of V: Resolve(e) is this times 2^A (R6). -/
def signedV (v : Nat) : Int := sextN v 96

/-- The sum of f over the numbers below n. -/
def sumTo (f : Nat → Nat) (n : Nat) : Nat := (List.range n).foldl (fun a i => a + f i) 0

/-- V of every data element, in rows. -/
def tileValues (x : Ctx) (t : Tile) : List (List Nat) :=
  (List.range t.h).map fun r => (List.range 256).map fun n => valueAt x t (dataOff r n)

/-- The value of element (r, n) in a table of rows. -/
def at2 (v : List (List Nat)) (r n : Nat) : Nat := (v.getD r []).getD n 0

/-- The check of R129. -/
def tileChecks (x : Ctx) (t : Tile) : Bool :=
  let v := tileValues x t
  (List.range t.h).all (fun r => sumTo (at2 v r) 256 % mod96 == valueAt x t (rowOff t.h r)) &&
  (List.range 256).all (fun n => sumTo (at2 v · n) t.h % mod96 == valueAt x t (colOff t.h n)) &&
  sumTo (fun r => sumTo (at2 v r) 256) t.h % mod96 == valueAt x t (cornerOff t.h)

/-- Write S := f v and C := 0 in each of n elements that stand one after another from a byte offset, v its value. -/
def mapElems (x : Ctx) (t : Tile) (off n : Nat) (f : Nat → Nat) : Ctx :=
  (List.range n).foldl (fun x k => tileWrite x t (off + 24 * k) 24 (f (valueAt x t (off + 24 * k)))) x

/-- Write the checksum elements that the data elements give, in canonical form. -/
def sumTile (x : Ctx) (t : Tile) : Ctx :=
  let v := tileValues x t
  let x := (List.range t.h).foldl (fun x r => tileWrite x t (rowOff t.h r) 24 (sumTo (at2 v r) 256 % mod96)) x
  let x := (List.range 256).foldl (fun x n => tileWrite x t (colOff t.h n) 24 (sumTo (at2 v · n) t.h % mod96)) x
  tileWrite x t (cornerOff t.h) 24 (sumTo (fun r => sumTo (at2 v r) 256) t.h % mod96)

/-- Write S := V and C := 0 in the data elements of a row (R130). -/
def canonRow (x : Ctx) (t : Tile) (r : Nat) : Ctx := mapElems x t (dataOff r 0) 256 id

/-- Write S := V and C := 0 in the checksum elements, and STATE := CANON (R130). -/
def canonSums (x : Ctx) (t : Tile) : Ctx := markTile (mapElems x t (rowOff t.h 0) (t.h + 257) id) t none (some 2) false false

/-- Compress the aligned sums of one row into a tile: elements, column checksums, row checksum and corner (R187, R204). -/
def addRow (x : Ctx) (t : Tile) (r : Nat) (p : List Nat) : Ctx :=
  let upd (x : Ctx) (off v : Nat) : Ctx := tileWrite x t off 24 (compressElem (tileRead x t off 24) v)
  let x := p.zipIdx.foldl (fun x (v, n) => upd (upd x (dataOff r n) v) (colOff t.h n) v) x
  let q := p.foldl (· + ·) 0 % mod96
  upd (upd x (rowOff t.h r) q) (cornerOff t.h) q

/-! ## Jobs (R192 to R194) -/

/-- The byte ranges that a job reads and those that it writes (R193). -/
structure JobSets where
  reads : List (Nat × Nat)
  writes : List (Nat × Nat)
deriving DecidableEq, Repr

/-- One of two jobs writes what the other reads or writes. -/
def setsConflict (a b : JobSets) : Bool :=
  a.writes.any (fun p => (b.reads ++ b.writes).any (bytesMeet p)) || b.writes.any (fun p => a.reads.any (bytesMeet p))

/-- The byte ranges of a job's write set. -/
def jobRanges (arrival : Nat) (w : List (Nat × Nat)) : List JobRange := w.map fun (b, n) => { arrival := arrival, lo := b, n := n }

/-- A job leaves its engine: its write set is settled, and the bytes of it that another agent wrote while it ran are undefined (R194). free
numbers the free values. -/
def settleJob (x : Ctx) (arrival free : Nat) : Ctx :=
  let mine := rangesMask (x.writing.filter (·.arrival == arrival))
  let x' := x.raced.zipIdx.foldl (fun y ((n, m), i) => putGranule y n (m &&& mine n) (Config.freeGranule (free + i))) x
  { x' with writing := x.writing.filter (fun r => r.arrival != arrival),
            raced := (x.raced.map fun (n, m) => (n, m &&& ~~~ mine n)).filter fun r => r.2 != 0 }

/-- A fault of an engine of a core (R195, R400): it is an origin, and its record names the instruction that issued the job. -/
def engineFault (s : State) (c unit : Nat) (cause : BitVec 8) (eaddr : Nat) (seq : Seq) (fpc : BitVec 16) (parcels : BitVec 64) : State :=
  let x := getCtx s c
  let info : StopInfo := { cause := cause, eaddr := BitVec.ofNat 56 eaddr, fpc := fpc, parcels := parcels, imprecise := true }
  let s := setCtx s c { x with engStop := tput x.engStop unit (seq, info) }
  match partOfCore s c with
  | some p => setPirq (raiseHalt s p cause c unit (serialOfCore s c) false false) p 0
  | none => s

end Sys2Proof.Machine
end

