-- ==== Sys2Proof/Machine/Matrix.lean ====
section
/-! DEFINITION. The matrix engine: the nest table (R176, R177), the index space (R178), shards and the expander (R179 to R183, R120 to
R123), the activation path (R184 to R186), beats (R187), MCFG, MCFGL, MGO and MWAIT (R190, R191, R198 to R200), and a nest job's life
(R181, R188, R189, R192, R193). -/

namespace Sys2Proof.Machine

/-! ## The nest table (R176, R177) -/

/-- First granule of the shadow nest table. -/
def nestGranule : Nat := 0xFFE0

/-- Word w of an active table. -/
def nestWord (t : Table Word) (w : Nat) : Word := tget 0 t w

/-- Fields of the table. -/
def nBound (t : Table Word) (l : Nat) : Nat := fieldOf (nestWord t (2 * l)) 0 32
def nTick (t : Table Word) (l : Nat) : Bool := bitOf (nestWord t (2 * l)).toNat 32
def nAstr (t : Table Word) (l : Nat) : Int := sextN (fieldOf (nestWord t (2 * l + 1)) 0 16) 16
def nCstr (t : Table Word) (l : Nat) : Int := sextN (fieldOf (nestWord t (2 * l + 1)) 16 16) 16
def nWstr (t : Table Word) (l : Nat) : Int := sextN (fieldOf (nestWord t (2 * l + 1)) 32 17) 17
def nAbase (t : Table Word) : Nat := fieldOf (nestWord t 12) 0 10
def nApitch (t : Table Word) : Nat := fieldOf (nestWord t 12) 10 16
def nAfmt (t : Table Word) : Nat := fieldOf (nestWord t 12) 26 4
def nAsrc (t : Table Word) : Bool := bitOf (nestWord t 12).toNat 30
def nAscale (t : Table Word) : Bool := bitOf (nestWord t 12).toNat 31
def nAsbase (t : Table Word) : Nat := fieldOf (nestWord t 12) 32 10
def nDcfmt (t : Table Word) : Nat := fieldOf (nestWord t 12) 42 3
def nAh (t : Table Word) : Nat := fieldOf (nestWord t 12) 45 6
def nHslot (t : Table Word) : Nat := fieldOf (nestWord t 13) 0 4
def nWbase (t : Table Word) : Nat := fieldOf (nestWord t 13) 4 17
def nWfmt (t : Table Word) : Nat := fieldOf (nestWord t 13) 21 5
def nWscale (t : Table Word) : Bool := bitOf (nestWord t 13).toNat 26
def nFe (t : Table Word) : Nat := fieldOf (nestWord t 13) 27 2
def nKlen (t : Table Word) : Nat := fieldOf (nestWord t 13) 29 9
def nCbase (t : Table Word) : Nat := fieldOf (nestWord t 14) 0 10
def nCh (t : Table Word) : Nat := fieldOf (nestWord t 14) 10 6

/-- Beats of the nest: the product of the bounds. -/
def nBeats (t : Table Word) : Nat := (List.range 6).foldl (fun p l => p * nBound t l) 1

/-- Beats of one iteration of level l: the product of the bounds inside it. -/
def nInner (t : Table Word) (l : Nat) : Nat := (List.range 6).foldl (fun p i => if l < i then p * nBound t i else p) 1

/-- idx[l] of beat b (R178). -/
def nIdx (t : Table Word) (b l : Nat) : Nat := b / nInner t l % nBound t l

/-- A sum of index times stride over the levels. -/
def nSum (t : Table Word) (str : Table Word → Nat → Int) (b : Nat) : Int :=
  (List.range 6).foldl (fun a l => a + (nIdx t b l : Int) * str t l) 0

/-- arow, crow and ws of beat b. -/
def nArow (t : Table Word) (b : Nat) : Int := nSum t nAstr b
def nCrow (t : Table Word) (b : Nat) : Int := nSum t nCstr b
def nWs (t : Table Word) (b : Nat) : Int := (nWbase t : Int) + nSum t nWstr b

/-- The least and the greatest value of a stride sum over the whole index space. -/
def nExtremes (t : Table Word) (str : Table Word → Nat → Int) : Int × Int :=
  (List.range 6).foldl (fun (lo, hi) l =>
    let d := ((nBound t l : Int) - 1) * str t l
    (lo + min 0 d, hi + max 0 d)) (0, 0)

/-! ## The checks of MGO (R190, R191) -/

/-- Activation format of a unified code (R62, R180): a float format, or an integer format. -/
def aFormat (c : Nat) : Option DFmt :=
  match c with
  | 1 => some (.fp .bf16) | 2 => some (.fp .f16) | 3 => some (.fp .fp8e4) | 4 => some (.fp .fp8e5)
  | 5 => some (.fp .fp4) | 6 => some (.fp .mk8)
  | 10 => some (.int .i8) | 11 => some (.int .i4) | 14 => some (.int .n8) | 15 => some (.int .n4)
  | _ => none

/-- Reserved fields of the table are zero. -/
def nestClean (t : Table Word) : Bool :=
  (List.range 6).all (fun l => fieldOf (nestWord t (2 * l)) 33 31 == 0 && fieldOf (nestWord t (2 * l + 1)) 49 15 == 0) &&
  fieldOf (nestWord t 12) 51 13 == 0 && fieldOf (nestWord t 13) 38 26 == 0 && fieldOf (nestWord t 14) 16 48 == 0 &&
  (List.range 17).all fun i => nestWord t (15 + i) == 0

/-- Scales stand only with a floating-point format or MK8 (R180). -/
def isFloatCode (c : Nat) : Bool := match aFormat c with
  | some (.fp _) => true
  | _ => false

/-- The table breaks R190. -/
def nestBad (t : Table Word) : Bool :=
  !nestClean t || nFe t == 3 || 12 < nWfmt t || nKlen t == 0 || 256 < nKlen t ||
  (if nAsrc t then
    (nDcfmt t != 1 && nDcfmt t != 3) || nApitch t != 0 || nAfmt t != 0 || nAscale t || nAsbase t != 0
  else (aFormat (nAfmt t)).isNone || nDcfmt t != 0 || nAh t != 0 || (nAscale t && !isFloatCode (nAfmt t))) ||
  (nWscale t && 5 < nWfmt t) ||
  (nBeats t != 0 &&
    (decide ((nExtremes t nAstr).1 < 0) || decide ((nExtremes t nCstr).1 < 0) || decide ((nCh t : Int) < (nExtremes t nCstr).2) ||
     decide ((nWbase t : Int) + (nExtremes t nWstr).1 < 0) || (nAsrc t && decide ((nAh t : Int) < (nExtremes t nAstr).2))))

/-- Width in bits of an activation element. -/
def aWidth (t : Table Word) : Nat := match aFormat (nAfmt t) with
  | some f => f.width
  | none => 0

/-- The destination tile, and the source tile of ASRC = 1. -/
def nestDest (t : Table Word) (aview : Word) (foot : BitVec 8) : Tile := { view := aview, foot := foot, index := nCbase t, h := nCh t + 1 }
def nestSource (t : Table Word) (aview : Word) (foot : BitVec 8) : Tile := { view := aview, foot := foot, index := nAbase t, h := nAh t + 1 }

/-- The A range of R191: the bytes from the lowest to the highest that the rows and scale bytes reach, or the source tile's extent; none for a
nest of no beats without a source tile. -/
def nestARange (t : Table Word) (tview aview : Word) (foot : BitVec 8) : Option (Nat × Nat) :=
  if nAsrc t then some (tileRange (nestSource t aview foot))
  else if nBeats t = 0 then none
  else
    let lo := (nExtremes t nAstr).1.toNat
    let hi := (nExtremes t nAstr).2.toNat
    let a0 := viewAddr tview (nAbase t)
    let first := a0 + 16 * nApitch t * lo
    let last := a0 + 16 * nApitch t * hi + 32 * aWidth t
    if nAscale t then
      let s0 := viewAddr tview (nAsbase t)
      let f := min first (s0 + 8 * (lo / 32))
      some (f, max last (s0 + 8 * (hi / 32) + 8) - f)
    else some (first, last - first)

/-- The nest reads and writes one tile in beat order (R191). -/
def nestSequential (t : Table Word) (aview : Word) (foot : BitVec 8) : Bool :=
  nAsrc t && tileAddr (nestSource t aview foot) == tileAddr (nestDest t aview foot) && nAh t == nCh t

/-- The alias fault of R191. -/
def nestAlias (t : Table Word) (tview aview : Word) (foot : BitVec 8) : Bool :=
  !nestSequential t aview foot &&
  match nestARange t tview aview foot with
  | some r => bytesMeet r (tileRange (nestDest t aview foot))
  | none => false

/-! ## Jobs of the core's engines (R193) -/

/-- The sets of a nest job. -/
def nestSets (j : NestJob) : JobSets :=
  { reads := (0xFFE00, 256) :: (nestARange j.table j.tview j.aview j.foot).toList, writes := [tileRange (nestDest j.table j.aview j.foot)] }

/-- The tile that a resolver job names first, and the other tile of ASCL and AMOV. -/
def jobTile (j : RJob) : Tile := { view := j.aview, foot := j.foot, index := j.tile, h := j.h }
def jobTile2 (j : RJob) (i : Nat) : Tile := { view := j.aview, foot := j.foot, index := i, h := j.h }

/-- The format that RSLV writes. -/
def rfmtF : RFmt → FFmt
  | .f32 => .f32 | .bf16 => .bf16 | .f16 => .f16 | .fp8e4 => .fp8e4 | .fp8e5 => .fp8e5

/-- The sets of a resolver job, by which jobs start; ACHK counts as writing the header that it writes if its check fails. -/
def rjobSets (j : RJob) : JobSets :=
  let t := tileRange (jobTile j)
  match j.kind with
  | .aclr _ | .aanc _ | .canon => { reads := [t], writes := [t] }
  | .toFormat f _ _ _ d => { reads := [t], writes := [(viewAddr j.vview d, 32 * j.h * (rfmtF f).width)] }
  | .wire _ _ d => { reads := [t], writes := [(viewAddr j.vview d, 1024 * j.h)] }
  | .ascl src sc => { reads := [t, tileRange (jobTile2 j src), (viewAddr j.vview sc, 320)], writes := [t, tileRange (jobTile2 j src)] }
  | .amov src => { reads := [tileRange (jobTile2 j src)], writes := [t] }
  | .achk => { reads := [t], writes := [(t.1, 8)] }
  | .sta _ => { reads := [t], writes := [] }

/-- Incomplete jobs of a context with their arrival numbers. -/
def jobsOf (x : Ctx) : List (Nat × JobSets) :=
  (x.nestRun.toList ++ x.nestPend.toList).map (fun j => (j.arrival, nestSets j)) ++ x.rjobs.map fun j => (j.arrival, rjobSets j)

/-- No incomplete job that arrived earlier conflicts (R193). -/
def mayStart (x : Ctx) (arrival : Nat) (sets : JobSets) : Bool :=
  (jobsOf x).all fun (n, o) => !(n < arrival) || !setsConflict sets o

/-! ## Instructions (R198 to R200) -/

/-- Write granules of the shadow table as X, landing at once and in program order with earlier results (R198). -/
def writeTable (now : Nat) (x : Ctx) (writes : List (Nat × Granule × Granule)) (fl : LaneFlags) : Ctx :=
  if bitOf (footprint x).toNat 7 then
    let r : XResult := { due := x.seqX.clock, writes := writes, k := none, orFlags := fl, setFlags := none, push := none }
    landBy x.seqX.clock { x with xres := x.xres ++ [r] }
  else { recordOor now x (16 * (writes.map (·.1)).headD nestGranule) false false 0 with flags := x.flags ||| fl }

/-- MCFG (R198). -/
def execMcfg (word : BitVec 5) (a : Reg) (q : XQ) (s : State) : Res :=
  let x := xContext s
  let w := word.toNat
  let sh := 64 * (w % 2)
  let one := (nestGranule + w / 2, BitVec.ofNat 128 ((2 ^ 64 - 1) <<< sh), BitVec.ofNat 128 ((rd s a).toNat <<< sh))
  .next (finish 2 (spacing q) (setCurCtx s (writeTable s.cycle x [one] 0)))

/-- MCFGL (R198): word w is lanes 2w + 1 and 2w of the operand, so the table is its 256 bytes. -/
def execMcfgl (a : Opnd) (q : XQ) (s : State) : Res :=
  let x := xContext s
  if !queuesReady x [a] then block .queue s
  else
    let src := readSrc s x a s.freeCtr
    let x := popQueues (noteX s x a true) [a]
    let fl := if q.nf then 0 else ofFlags fun j => flagIf (maskBit src.lost j) flagMZ
    let writes := (List.range 16).map fun t => (nestGranule + t, BitVec.allOnes 128, vecGranule src.data t)
    .next (takeFree (finish 2 (spacing q) (setCurCtx s (writeTable s.cycle x writes fl))) 16)

/-- The table as MGO reads it: zero when bank 7 is outside the footprint (R176). -/
def latchTable (x : Ctx) (free : Nat) : Table Word :=
  if bitOf (footprint x).toNat 7 then
    (List.range 32).map fun w => (w, BitVec.ofNat 64 ((xGranule x (nestGranule + w / 2) (free + w / 2)).toNat >>> (64 * (w % 2))))
  else []

/-- The arrival number of a job that X hands over in cycle now (R192): an S job that arrived in the same cycle, has not started and is the latest of
all gives up its number and takes the next. -/
def xArrival (now : Nat) (x : Ctx) : Ctx × Nat :=
  match x.rjobs.getLast? with
  | some j =>
    if j.seq = .S ∧ j.issuedAt = now ∧ j.started = false ∧ j.arrival + 1 = x.arrivals then
      ({ x with rjobs := x.rjobs.dropLast ++ [{ j with arrival := x.arrivals }], arrivals := x.arrivals + 1,
                sacc := x.sacc.map fun a => if a.act = .image j.arrival then { a with act := .image x.arrivals } else a }, j.arrival)
    else ({ x with arrivals := x.arrivals + 1 }, x.arrivals)
  | none => ({ x with arrivals := x.arrivals + 1 }, x.arrivals)

/-- MGO (R190, R191, R199). Its read of a shadow table in a bank outside the footprint is recorded, SRC 3 (R176), also where the zeros that it reads
then raise a fault (log entry 92). -/
def execMgo (q : XQ) (s : State) : Res :=
  let x := xContext s
  if x.nestRun.isSome && x.nestPend.isSome then block .job s
  else
    let foot := footprint x
    let t := latchTable x s.freeCtr
    let seen := if bitOf foot.toNat 7 then s else setCurCtx s (recordOor s.cycle (curCtx s) (16 * nestGranule) true false 3)
    if (tfind x.slots (nHslot t)).isNone then fault causeHandle 0 seen
    else if nestBad t then fault causeNest 0 seen
    else if nestAlias t x.tview x.aview foot then fault causeAlias 0 seen
    else
      let p := curSeq s
      let (x, n) := xArrival s.cycle x
      let j : NestJob := { table := t, tview := x.tview, aview := x.aview, foot := foot, arrival := n, started := false, beat := 0,
                           latch := none, ahead := none, loading := none, lastWs := none, cleared := [], nv := false, mz := false, ilt := false,
                           woor := false, aoor := false, fpc := p.pc.setWidth 16,
                           parcels := parcelsAt p p.pc.toNat }
      let x := { x with writing := x.writing ++ jobRanges n (nestSets j).writes }
      let x := if x.nestRun.isNone then { x with nestRun := some j } else { x with nestPend := some j }
      .next (takeFree (finish 2 (spacing q) (setCurCtx s x)) 16)

/-- MWAIT (R200). -/
def execMwait (d : Reg) (q : XQ) (s : State) : Res :=
  let x := xContext s
  if x.nestRun.isSome || x.nestPend.isSome || x.rjobs.any (fun j => j.seq == .X) then block .job s
  else .next (finish 2 (spacing q) (wr (setCurCtx s { x with mwait := 0 }) d x.mwait))

/-! ## Array operands (R120 to R124) -/

/-- An array operand: its exact value m × 2^e, and what decoding it raised. -/
structure ANum where
  m : Int := 0
  e : Int := 0
  nv : Bool := false
  ilt : Bool := false
deriving DecidableEq, Repr

/-- A floating-point or MK8 code as an array operand: non-finite values become zero with NV (R124). -/
def anumF (f : FFmt) (code : Nat) : ANum :=
  match decodeF f code with
  | .fin neg m e => { m := signedM neg m, e := e }
  | _ => { nv := true }

/-- An integer as an array operand. -/
def anumI (v : Int) : ANum := { m := v }

/-- Under an E8M0 scale code: 0xFF makes it zero with NV (R118, R124). -/
def scaled (a : ANum) (code : Nat) : ANum := if code % 256 = 255 then { nv := true } else { a with e := a.e + (code % 256 : Nat) - 127 }

/-- A code of a DFmt. -/
def anumD (f : DFmt) (code : Nat) : ANum :=
  match f with
  | .fp f => anumF f code
  | .int f => anumI (readInt f code)

/-! ## Shards (R179) -/

/-- Row pitch of a weight format. -/
def rowPitch : Nat → Nat
  | 0 | 1 => 512
  | 2 | 3 | 4 | 6 | 8 => 256
  | 5 | 7 | 9 | 11 => 128
  | 10 => 64
  | _ => 192

/-- Bytes of the rows of a shard, and of the whole shard. -/
def shardRows (t : Table Word) : Nat := nKlen t * rowPitch (nWfmt t)
def shardBytes (t : Table Word) : Nat := ((shardRows t + 127) / 128 * 128) + if nWscale t then 128 else 0

/-- Granule numbers inside a shard that the expander reads: its rows and its 64 scale codes. -/
def shardReads (t : Table Word) : List Nat :=
  List.range ((shardRows t + 15) / 16) ++ if nWscale t then (List.range 4).map fun i => (shardRows t + 127) / 128 * 8 + i else []

/-- W(k, n) from the bytes of a shard: byte i is b i (R179). -/
def weightAt (t : Table Word) (b : Nat → Nat) (k n : Nat) : ANum :=
  let row := rowPitch (nWfmt t) * k
  let byte (i : Nat) : Nat := b (row + i)
  let half (i : Nat) : Nat := byte i + 256 * byte (i + 1)
  let nib (i : Nat) : Nat := (byte (i / 2) >>> (4 * (i % 2))) % 16
  let w : ANum := match nWfmt t with
    | 0 => anumF .bf16 (half (2 * n))
    | 1 => anumF .f16 (half (2 * n))
    | 2 => anumF .fp8e4 (byte n)
    | 3 => anumF .fp8e5 (byte n)
    | 4 => anumF .mk8 (byte n)
    | 5 => anumF .fp4 (nib n)
    | 6 => anumI (sextN (byte n) 8)
    | 7 => anumI (sextN (nib n) 4)
    | 8 => anumI (byte n)
    | 9 => anumI (nib n)
    | 10 => let v := byte (n / 5)
      if 242 < v then { ilt := true } else anumI (tritVal (tritDigit v (n % 5)))
    | 11 =>
      let base := 64 * (n / 128)
      let i := n % 128
      let word := ofBytes (fun j => BitVec.ofNat 8 (byte (base + 16 + j))) 48
      anumF .bf16 (half (base + 2 * bits word (3 * i + 2) (3 * i)))
    | _ =>
      let base := 96 * (n / 128)
      let i := n % 128
      anumF .bf16 (half (base + 2 * ((byte (base + 32 + i / 2) >>> (4 * (i % 2))) % 16)))
  if nWscale t then scaled w (b ((shardRows t + 127) / 128 * 128 + 8 * (k / 32) + n / 32)) else w

/-- The shard at a stripe offset as pieces of the weight buffer: one whole granule each. -/
def shardPieces (cluster : Nat) (h : Handle) (ws : Int) (gs : List Nat) : List Piece :=
  gs.map fun (g : Nat) =>
    let off := zextI (128 * ws + 16 * (g : Int)) 64
    { loc := bufferLoc cluster h off, addr := off, first := 0, count := 16, pos := 16 * g }

/-- Whether the job has cleared a granule of the buffer under FE = 2 (R181). -/
def jobCleared (j : NestJob) (off : Nat) : Bool :=
  j.cleared.any fun ws => decide (128 * ws ≤ (off : Int)) && decide ((off : Int) < 128 * ws + shardBytes j.table)

/-- The expander need not wait on a granule: it is full, or it takes no part in a wait (R181, R230). -/
def granuleReady (s : State) (j : NestJob) (p : Piece) : Bool :=
  nFe j.table == 0 || match p.loc with
    | .sram c g off => jobCleared j off || (sramGet (getCluster s c) g).f
    | _ => true

/-- The expander takes a granule that is ready, unless a waiter that began before it takes it first (R230). -/
def granuleTaken (s : State) (core : Nat) (j : NestJob) (p : Piece) : Bool :=
  granuleReady s j p && (nFe j.table == 0 || !servedFirst s (clusterOfCore core) (.nest core) [p])

/-- The granules of the shard being loaded that the expander has read (none of another shard). -/
def loadedOf (j : NestJob) (ws : Int) : List (Granule × Bool) :=
  match j.loading with
  | some l => if l.ws = ws then l.granules else []
  | none => []

/-- The bytes of a shard held in a latch. Granules that arrived invalid entered as zero (R181). -/
def latchByte (t : Table Word) (l : Latch) (i : Nat) : Nat :=
  match (shardReads t).findIdx? (· == i / 16) with
  | some k => (granuleByte (l.granules.getD k (0, true)).1 (i % 16)).toNat
  | none => 0

/-- Whether any weight of a latched shard is non-finite or under scale 0xFF, and whether any code is illegal. -/
def shardMarks (t : Table Word) (l : Latch) : Bool × Bool :=
  let ws := (List.range (nKlen t)).flatMap fun k => (List.range 256).map fun n => weightAt t (latchByte t l) k n
  (ws.any (·.nv), ws.any (·.ilt))

/-- The first beat at or after b, no more than fuel changes of index away, whose shard offset differs from ws (R183). -/
def nextShardBeat (t : Table Word) (ws : Int) : Nat → Nat → Option Nat
  | 0, _ => none
  | fuel + 1, b =>
    if nBeats t ≤ b then none
    else if nWs t b ≠ ws then some b
    else
      let run := [5, 4, 3, 2, 1, 0].foldl (fun p l => if nWstr t l = 0 ∧ p = nInner t l then p * nBound t l else p) 1
      nextShardBeat t ws fuel ((b / run + 1) * run)

/-- The shard that the expander loads next: the one the next beat needs, then the one after it (R183). -/
def wantedShard (j : NestJob) : Option Int :=
  if nBeats j.table ≤ j.beat then none
  else
    let ws := nWs j.table j.beat
    match j.latch with
    | none => some ws
    | some l =>
      if l.ws ≠ ws then some ws
      else if j.ahead.isSome then none
      else (nextShardBeat j.table ws 64 j.beat).map (nWs j.table ·)

/-- Replace the running job of a core. -/
def setNest (s : State) (c : Nat) (j : NestJob) : State := setCtx s c { getCtx s c with nestRun := some j }

/-- Place a loaded shard: in the latch in use when the array has none for the next beat, else in the other. -/
def placeLatch (j : NestJob) (l : Latch) : NestJob :=
  if (match j.latch with
    | some o => o.ws == nWs j.table j.beat
    | none => false) then { j with ahead := some l }
  else { j with latch := some l, ahead := none }

/-- Granule i of those that the expander reads of a shard belongs to a codebook table (R179, R182). -/
def codebookGranule (t : Table Word) (i : Nat) : Bool :=
  decide (i < (shardRows t + 15) / 16) && ((nWfmt t == 11 && i % 4 == 0) || (nWfmt t == 12 && decide (i % 6 < 2)))

/-- The expander of a core leaves its wait; the cycles in which it found a granule of a codebook table not full count in the job's TSTALL (R182, R230). -/
def leaveExpander (s : State) (core : Nat) : State :=
  let cl := clusterOfCore core
  let read (j : NestJob) : Nat := match wantedShard j with
    | some ws => (loadedOf j ws).length
    | none => 0
  let t := match (getCluster s cl).waiters.find? (·.agent == .nest core), (getCtx s core).nestRun with
    | some w, some j => if codebookGranule j.table (read j) then setNest s core { j with tstall := j.tstall + w.unfull } else s
    | _, _ => s
  leaveWaiters t cl (.nest core)

/-- SHARD_LATCH_READY (R181 to R183): the expander reads on in the next shard it needs, granule by granule in address order (log entry 93), up to the
first whose full bit it must wait for, each granule once; with the last one the shard is in a latch. -/
def execShardLatchReady (core : Nat) (s : State) : Res :=
  let x := getCtx s core
  match x.nestRun with
  | none => .next s
  | some j =>
    if !j.started || x.mHalted || (tfind x.engStop 3).isSome then .next s
    else
      match wantedShard j, tfind x.slots (nHslot j.table) with
      | some ws, some h =>
        let all := shardPieces (clusterOfCore core) h ws (shardReads j.table)
        let before := loadedOf j ws
        let cl := clusterOfCore core
        let left := all.drop before.length
        let ps := left.takeWhile (granuleTaken s core j)
        -- the granule that the expander now waits on: a wait of its own (R230)
        let waitOn (s : State) : State := match left.drop ps.length with
          | p :: _ => joinWait s cl (.nest core) [p]
          | [] => s
        if ps.isEmpty && before.length < all.length then .next (waitOn s)
        else
          let s := leaveExpander s core
          let j := (getCtx s core).nestRun.getD j
          let gs := readPieces s (dieOfCore core) ps 0
          match firstFault ps gs with
          | some (c, a) => .next (engineFault s core 3 c a .X j.fpc j.parcels)
          | none =>
            let l : Latch := { ws := ws, granules := before ++ gs.map fun g => (if g.lost then 0 else g.data, !g.lost) }
            let beyond := firstBeyond ps
            let s := takeFree (match beyond with
              | some off => recordHoor s core (serialOfCore s core) off (nHslot j.table) true 2
              | none => s) 16
            let s := waitOn s
            let j := { j with woor := j.woor || beyond.isSome }
            if l.granules.length < all.length then .next (setNest s core { j with loading := some l })
            else
              let mz := l.granules.any (!·.2)
              let (nv, ilt) := shardMarks j.table l
              let j := placeLatch { j with nv := j.nv || nv, mz := j.mz || mz, ilt := j.ilt || ilt, loading := none } l
              let d := nestDest j.table j.aview j.foot
              let x := { getCtx s core with nestRun := some j }
              .next (setCtx s core (if nv || mz then markTile (noteTile s.cycle x d 0 8 false 3) d none none nv mz else x))
      | _, _ => .next s

/-! ## The activation path (R184 to R186) -/

/-- A(arow, k) for k from 0 to 255, and whether a granule was out of range. -/
def activationRow (x : Ctx) (j : NestJob) (arow : Nat) : List ANum × Bool :=
  let t := j.table
  if nAsrc t then
    let src := nestSource t j.aview j.foot
    let f : FFmt := if nDcfmt t = 1 then .bf16 else .fp8e4
    let a := tileAnchor x src
    ((List.range 256).map fun k =>
      let v := signedV (valueAt x src (dataOff arow k))
      let code := (roundDyadic f .rne true (v < 0) v.natAbs a).1
      match decodeF f code with
      | .fin neg m e => { m := signedM neg m, e := e }
      | _ => let c := magVal f (maxCode f); { m := signedM (v < 0) c.1, e := c.2 },
      (spanGranules src.view src.foot src.index 0 16 ++ spanGranules src.view src.foot src.index (dataOff arow 0) (24 * 256)).any (·.isNone))
  else
    match aFormat (nAfmt t) with
    | none => ([], false)
    | some f =>
      let w := f.width
      let off := 16 * nApitch t * arow
      let row := readSpan x j.tview j.foot (nAbase t) off (32 * w)
      let soff := 8 * (arow / 32)
      let codes := readSpan x j.tview j.foot (nAsbase t) soff 8
      let out := (spanGranules j.tview j.foot (nAbase t) off (32 * w)).any (·.isNone) ||
        (nAscale t && (spanGranules j.tview j.foot (nAsbase t) soff 8).any (·.isNone))
      ((List.range 256).map fun k =>
        let a := anumD f ((row >>> (w * k)) % 2 ^ w)
        if nAscale t then scaled a ((codes >>> (8 * (k / 32))) % 256) else a, out)

/-- Note in RSOOR what a beat reaches out of range (R174, R184): the source's header gives its anchor, the destination's header its own, and each
element and checksum that Compress rewrites is read before it is written (R126, R187), so a read is recorded. -/
def noteBeat (now : Nat) (x : Ctx) (j : NestJob) (arow crow : Nat) : Ctx :=
  let t := j.table
  let src := nestSource t j.aview j.foot
  let noteTile := noteTile now
  let x := if nAsrc t then noteTile (noteTile x src 0 8 true 3) src (dataOff arow 0) (24 * 256) true 3
    else
      let x := noteSpan now x j.tview j.foot (nAbase t) (16 * nApitch t * arow) (32 * aWidth t) true 3
      if nAscale t then noteSpan now x j.tview j.foot (nAsbase t) (8 * (arow / 32)) 8 true 3 else x
  let d := nestDest t j.aview j.foot
  let x := noteTile x d 0 16 true 3
  let x := noteTile x d (dataOff crow 0) (24 * 256) true 3
  let x := noteTile x d (rowOff d.h crow) 24 true 3
  noteTile x d (colOff d.h 0) (24 * 257) true 3

/-! ## Beats (R187) -/

/-- Align(a × w, A): the product divided by 2^A and rounded toward minus infinity (R6, R125). -/
def alignProduct (a w : ANum) (anchor : Int) : Int := shiftFloor (a.m * w.m) (anchor - (a.e + w.e))

/-- P[n] for n from 0 to 255. -/
def beatSums (t : Table Word) (l : Latch) (row : List ANum) (anchor : Int) : List Nat :=
  let used := row.zipIdx.filter fun (a, k) => k < nKlen t && a.m != 0
  (List.range 256).map fun n =>
    zextI (used.foldl (fun acc (a, k) => acc + alignProduct a (weightAt t (latchByte t l) k n) anchor) 0) 96

/-- Levels whose TICK is 1 and whose iteration ends with beat b (R189). -/
def ticksAt (t : Table Word) (b : Nat) : Nat := (List.range 6).countP fun l => nTick t l && (b + 1) % nInner t l == 0

/-- Clear the F bits of the granules of a shard under FE = 2 (R181). -/
def clearShard (s : State) (core : Nat) (j : NestJob) (ws : Int) : State :=
  match nFe j.table, tfind (getCtx s core).slots (nHslot j.table) with
  | 2, some h => clearAll s (shardPieces (clusterOfCore core) h ws (List.range (shardBytes j.table / 16)))
  | _, _ => s

/-- BEAT_LAND (R178, R181, R187, R189): the next beat, whose shard is in a latch, is applied. -/
def execBeatLand (core : Nat) (s : State) : Res :=
  let x := getCtx s core
  match x.nestRun with
  | none => .next s
  | some j =>
    let t := j.table
    if !j.started || x.mHalted || nBeats t ≤ j.beat then .next s
    else
      let ws := nWs t j.beat
      -- the latch that holds this beat's shard
      let pick := [j.latch, j.ahead].findSome? fun o => o.bind fun l => if l.ws = ws then some l else none
      match pick with
      | none => .next s
      | some l =>
        let leaving := match j.lastWs with
          | some o => if o ≠ ws then some o else none
          | none => none
        let s := match leaving with
          | some o => clearShard s core j o
          | none => s
        let cleared := match leaving with
          | some o => if nFe t = 2 ∧ !j.cleared.contains o then o :: j.cleared else j.cleared
          | none => j.cleared
        let j := if leaving.isSome && (match j.latch with
            | some o => o.ws != ws
            | none => true) then { j with latch := some l, ahead := none } else j
        let arow := (nArow t j.beat).toNat
        let crow := (nCrow t j.beat).toNat
        let d := nestDest t j.aview j.foot
        let (row, out) := activationRow x j arow
        let nv := row.any (·.nv)
        let p := beatSums t l row (tileAnchor x d)
        let x := markTile (addRow (noteBeat s.cycle x j arow crow) d crow p) d none (some 1) nv false
        let s := notePace s core
        let y := getCore s core
        let x := { x with nestRun := some { j with beat := j.beat + 1, lastWs := some ws, cleared := cleared, nv := j.nv || nv,
                                                   aoor := j.aoor || out }, wdog := 0, wdogAt := s.cycle }
        .next (noteLateness (setCore s core { y with ctx := x, mprog := y.mprog + BitVec.ofNat 64 (ticksAt t j.beat) }) core)

/-! ## A nest job's life (R188, R192, R193, R200) -/

/-- A cycle count that the manual leaves to the timing of the part, in 24 bits (R183, R200). -/
def stallCount (n : Nat) : Nat := (Config.freeWord n).toNat % 2 ^ 24

/-- MWAIT's status with a job's added (R200): counts saturate. -/
def addStatus (w : Word) (j : NestJob) (lstall : Nat) : Word :=
  let sat (a b : Nat) : Nat := min (a + b) 0xFFFFFF
  let w := setField w 0 24 (sat (fieldOf w 0 24) lstall)
  let w := setField w 24 24 (sat (fieldOf w 24 24) j.tstall)
  let put (w : Word) (i : Nat) (p : Bool) : Word := if p then setField w i 1 1 else w
  put (put (put (put (put w 48 j.nv) 49 j.mz) 50 j.ilt) 51 j.woor) 52 j.aoor

/-- The running job leaves: the pending one takes its place, and banks that it held on may go (R36, R192). -/
def leaveNest (s : State) (core : Nat) : State :=
  let x := getCtx s core
  match x.nestRun with
  | none => s
  | some j =>
    let x := settleJob { x with nestRun := x.nestPend, nestPend := none } j.arrival s.freeCtr
    takeFree (setCtx s core (settleBanks x)) (getCtx s core).raced.length

/-- Both formats of a nest are integer or ternary (R188). -/
def integerNest (t : Table Word) : Bool :=
  6 ≤ nWfmt t && nWfmt t ≤ 10 && !nAsrc t && !isFloatCode (nAfmt t)

/-- NEST_JOB_START (R188, R193, R195). -/
def execNestJobStart (core : Nat) (s : State) : Res :=
  let x := getCtx s core
  match x.nestRun with
  | none => .next s
  | some j =>
    if j.started || x.mHalted || !mayStart x j.arrival (nestSets j) then .next s
    else
      let d := nestDest j.table j.aview j.foot
      let src := nestSource j.table j.aview j.foot
      -- the start reads the headers: STATE of both tiles (R174, R195)
      let x := noteTile s.cycle x d 0 8 true 3
      let x := if nAsrc j.table && !tileFaulted x d then noteTile s.cycle x src 0 8 true 3 else x
      let s := setCtx s core x
      let stop (cause : BitVec 8) (a : Nat) : Res := .next (engineFault (leaveNest s core) core 3 cause a .X j.fpc j.parcels)
      if tileFaulted x d then stop causeChecksum (tileAddr d)
      else if nAsrc j.table && tileFaulted x src then stop causeChecksum (tileAddr src)
      else
        let go (x : Ctx) : Res := .next (setCtx s core { x with nestRun := some { j with started := true } })
        if integerNest j.table then
          if tileState x d = 0 then go (markTile x d (some 0) none false false)
          else if tileAnchor x d ≠ 0 then stop causeNest 0
          else go x
        else go x

/-- NEST_JOB_COMPLETE (R181, R192, R200): after the last beat. LSTALL is a count of the part's timing, free here (log entry 34). -/
def execNestJobComplete (core : Nat) (s : State) : Res :=
  let x := getCtx s core
  match x.nestRun with
  | none => .next s
  | some j =>
    if !j.started || x.mHalted || j.beat < nBeats j.table then .next s
    else
      let s := match j.lastWs with
        | some ws => clearShard s core j ws
        | none => s
      let ls := if nBeats j.table = 0 then 0 else stallCount s.freeCtr
      let x := getCtx s core
      let s := takeFree (setCtx s core { x with mwait := addStatus x.mwait j ls }) 1
      .next (leaveNest s core)

end Sys2Proof.Machine
end

