-- ==== Sys2Proof/Machine/Resolver.lean ====
section
/-! DEFINITION. The resolver: the instructions that hand it jobs (R201 to R207), ACMP (R205), what a job checks and does (R195, R201 to R207,
R209), and a job's start and completion (R192 to R195). -/

namespace Sys2Proof.Machine

/-! ## Handing over a job (R192) -/

/-- A job takes its place in the resolver's queue, which is in order of arrival (R192). -/
def enqueueJob (q : List RJob) (j : RJob) : List RJob := (q.filter fun o => o.arrival < j.arrival) ++ j :: q.filter fun o => !(o.arrival < j.arrival)

/-- The bytes that a job writes as its context stands: ACHK writes the header of a tile whose check fails, and nothing of one whose check passes
(R193, R194). -/
def jobBytes (x : Ctx) (j : RJob) : List (Nat × Nat) :=
  match j.kind with
  | .achk => if tileFaulted x (jobTile j) || tileChecks x (jobTile j) then [] else (rjobSets j).writes
  | _ => (rjobSets j).writes

/-- Issue a resolver job on a tile from X; its queue holds 8. -/
def opResolver (kind : RKind) (tile : Opnd) (h : BitVec 6) (q : XQ) (s : State) : Res :=
  let x := xContext s
  if 8 ≤ x.rjobs.length then block .job s
  else
    let p := curSeq s
    let (x, n) := xArrival s.cycle x
    let j : RJob := { kind := kind, tile := opIndex s tile, h := h.toNat + 1, aview := x.aview, vview := x.vview, foot := footprint x,
                      seq := .X, arrival := n, issuedAt := s.cycle, started := false, row := 0, transform := false, fpc := p.pc.setWidth 16,
                      parcels := parcelsAt p p.pc.toNat }
    .next (finish 2 (spacing q) (setCurCtx s { x with rjobs := enqueueJob x.rjobs j, writing := x.writing ++ jobRanges n (jobBytes x j) }))

/-- ACLR (R201). -/
def execAclr (d : Opnd) (a : Reg) (h : BitVec 6) (q : XQ) (s : State) : Res := opResolver (.aclr ((rd s a).setWidth 16)) d h q s

/-- AANC (R202). -/
def execAanc (d : Opnd) (a : Reg) (h : BitVec 6) (q : XQ) (s : State) : Res := opResolver (.aanc (sextN (rd s a).toNat 16)) d h q s

/-- RSLV canonical (R203). -/
def execRslvCanonical (d : Opnd) (h : BitVec 6) (q : XQ) (s : State) : Res := opResolver .canon d h q s

/-- RSLV to a format (R203). -/
def execRslvToFormat (f : RFmt) (r : Round) (sat : Bool) (d a : Opnd) (h : BitVec 6) (q : XQ) (s : State) : Res :=
  opResolver (.toFormat f r sat q.nf (opIndex s d)) a h q s

/-- RSLV to the wire form (R203, R131). -/
def execRslvWireForm (d a : Opnd) (b : Reg) (h : BitVec 6) (q : XQ) (s : State) : Res :=
  opResolver (.wire (sextN (rd s b).toNat 16) q.nf (opIndex s d)) a h q s

/-- Two tiles of one height at issue: the same tile, apart, or overlapping otherwise. -/
def tilesOverlap (s : State) (a b : Opnd) (h : BitVec 6) : Bool :=
  let x := curCtx s
  let t (o : Opnd) : Tile := { view := x.aview, foot := footprint x, index := opIndex s o, h := h.toNat + 1 }
  tileAddr (t a) != tileAddr (t b) && bytesMeet (tileRange (t a)) (tileRange (t b))

/-- ASCL (R204). -/
def execAscl (d a b : Opnd) (h : BitVec 6) (q : XQ) (s : State) : Res :=
  if tilesOverlap s d a h then fault causeAlias 0 s else opResolver (.ascl (opIndex s a) (opIndex s b)) d h q s

/-- AMOV (R206). -/
def execAmov (d a : Opnd) (h : BitVec 6) (q : XQ) (s : State) : Res :=
  if tilesOverlap s d a h then fault causeAlias 0 s else opResolver (.amov (opIndex s a)) d h q s

/-- ACHK (R207). -/
def execAchk (a : Opnd) (h : BitVec 6) (q : XQ) (s : State) : Res := opResolver .achk a h q s

/-! ## ACMP (R205) -/

/-- Whether row j of a column compares under a predicate. -/
def acmpRow (x : Ctx) (p : Pred) (raw : Bool) (a b : Tile) (col j : Nat) : Bool :=
  let off := dataOff j col
  if raw then
    let same := tileAnchor x a == tileAnchor x b && tileRead x a off 24 == tileRead x b off 24
    if p == .eq then same else !same
  else
    let va := signedV (valueAt x a off)
    let vb := signedV (valueAt x b off)
    predHolds p (some (cmpVal (.fin (va < 0) va.natAbs (tileAnchor x a)) (.fin (vb < 0) vb.natAbs (tileAnchor x b))))

/-- The register store as an X instruction reads it: a granule that an earlier X result in flight writes holds undefined bytes (R32, R68). -/
def xView (x : Ctx) (free : Nat) : Ctx :=
  (x.xres.flatMap (·.writes)).foldl (fun y (n, _, _) => { y with store := tput y.store n (Config.freeGranule (free + n)) }) x

/-- ACMP (R205): X blocks while an earlier job that writes either tile is incomplete. ACMP names no H: the model takes each tile as one of 64 rows when
it looks for such jobs (log entry 91: the model's choice). -/
def execAcmp (p : Pred) (raw : Bool) (kd : BitVec 3) (a b : Opnd) (col : BitVec 8) (q : XQ) (s : State) : Res :=
  let x := xContext s
  let foot := footprint x
  let t (o : Opnd) : Tile := { view := x.aview, foot := foot, index := opIndex s o, h := 64 }
  let busy (o : Opnd) : Bool := (jobsOf x).any fun (_, sets) => sets.writes.any (bytesMeet (tileRange (t o)))
  if busy a || busy b then block .job s
  else
    let active := readMask x q.k.toNat s.freeCtr
    let v := ofMask fun j => acmpRow (xView x s.freeCtr) p raw (t a) (t b) col.toNat j
    let rows := (List.range 64).filter (maskBit active)
    let note (x : Ctx) (o : Opnd) : Ctx :=
      rows.foldl (fun x j => noteTile s.cycle x (t o) (dataOff j col.toNat) 24 true 0) (noteTile s.cycle x (t o) 0 8 true 0)
    let x := note (note x a) b
    let r : XResult := { due := (curSeq s).clock + (if raw then 2 else 12), writes := [], k := some (kd.toNat, active, v), orFlags := 0,
                         setFlags := none, push := none }
    .next (takeFree (finish 2 (spacing q) (setCurCtx s { x with xres := x.xres ++ [r] })) 65536)

/-! ## What a job does -/

/-- What one row of a pass leaves: the context, the job where it goes on, the tile address of a failed or faulted tile, and the bytes of an STA image. -/
structure RDone where
  ctx : Ctx
  next : Option RJob := none
  bad : Option Nat := none
  image : Option (List Byte) := none
deriving DecidableEq, Repr

/-- The tiles that a job names besides its own. -/
def otherTile (j : RJob) : Option Tile :=
  match j.kind with
  | .ascl src _ | .amov src => some (jobTile2 j src)
  | _ => none

/-- The tile whose checksums a job checks: the source of ASCL and AMOV, else its own; none for ACLR and for AANC on an EMPTY tile. -/
def checkedTile (x : Ctx) (j : RJob) : Option Tile :=
  match j.kind with
  | .aclr _ => none
  | .aanc _ => if tileState x (jobTile j) = 0 then none else some (jobTile j)
  | .ascl src _ | .amov src => some (jobTile2 j src)
  | _ => some (jobTile j)

/-- A job that passes its check goes on to a transform pass: not ACHK, nor AMOV of a tile onto itself, which acts as ACHK (R206, R207). -/
def transforms (j : RJob) : Bool :=
  match j.kind with
  | .achk => false
  | .amov src => tileAddr (jobTile2 j src) != tileAddr (jobTile j)
  | _ => true

/-- Rows of the transform pass: one where AANC only sets the anchor of an EMPTY tile (R202). -/
def transformRows (x : Ctx) (j : RJob) : Nat :=
  match j.kind with
  | .aanc _ => if tileState x (jobTile j) = 0 then 1 else j.h
  | _ => j.h

/-- A data element rounded to a format (R130, R203). -/
def resolveTo (f : FFmt) (r : Round) (sat : Bool) (anchor : Int) (v : Nat) : Nat × Flags :=
  roundDyadic f r sat (signedV v < 0) (signedV v).natAbs anchor

/-- The leaf integer of R131 with its flags. -/
def leafInteger (xexp anchor : Int) (v : Nat) : Int × Flags :=
  let (w, inexact) := roundToInt .rne (signedV v < 0) (signedV v).natAbs (anchor - xexp)
  let c := clampI w (-8388608) 8388607
  (c, flagIf (c != w) flagSAT ||| flagIf inexact flagNX)

/-- Sticky flags of one row of a job: element n sets its flags in lane n mod 64 (R203). -/
def rowFlags (f : Nat → Flags) : LaneFlags := ofFlags fun l => orFlagsN (fun i => f (64 * i + l)) 4

/-- The canonical image of STA (R209), or the tile's extent as it stands. -/
def imageOf (x : Ctx) (t : Tile) (raw : Bool) : List Byte :=
  let byteOf (n : Nat) (i : Nat) : Byte := BitVec.ofNat 8 (n >>> (8 * i))
  if raw then
    (List.range (tileExtent t.h / 16)).flatMap fun g => (List.range 16).map (byteOf (tileRead x t (16 * g) 16))
  else
    let head := (setField (tileHeader x t) 16 2 2).toNat
    (List.range 16).map (byteOf head) ++
    (List.range (257 * (t.h + 1))).flatMap fun k => (List.range 12).map (byteOf (valueAt x t (16 + 24 * k)))

/-- ASCL after row r of its source is canonical (R204): P of element (r, n), and whether a code 0xFF zeroed it. -/
def asclTerm (x : Ctx) (src d : Tile) (codes : Nat) (r n : Nat) : Nat × Bool :=
  let rc := (codes >>> (8 * (256 + r))) % 256
  let cc := (codes >>> (8 * n)) % 256
  if rc = 255 || cc = 255 then (0, true)
  else
    let sh : Int := tileAnchor x src + rc + cc - 254 - tileAnchor x d
    let v := sextN (tileRead x src (dataOff r n) 12) 96
    let p := if 0 ≤ sh then v * ((2 ^ sh.toNat : Nat) : Int) else (roundToInt .rne (v < 0) v.natAbs sh).1
    (zextI p 96, false)

/-- Row r of the write of 256 elements of w bits at an operand through VVIEW, with the flags they raise. -/
def resolveRow (x : Ctx) (j : RJob) (d w r : Nat) (nf : Bool) (el : Nat → Nat × Flags) : Ctx :=
  let y := writeSpan x j.vview j.foot d (32 * w * r) (32 * w) (packN w (fun n => (el n).1) 256)
  if nf then y else { y with flags := y.flags ||| rowFlags fun n => (el n).2 }

/-- Row r of the transform pass of a job, last telling that it is the last (R201 to R206). A row reads the store as it stands when it runs, so an RSLV
whose destination overlaps its own tile reads what its earlier rows wrote; checksum elements and headers are rewritten with the last row, and ASCL makes
its source's canonical with the first; AMOV copies bytes 8 to 15 of its source as they stand (log entry 91: the model's choices). -/
def transformRow (x : Ctx) (j : RJob) (r : Nat) (last : Bool) : Ctx :=
  let t := jobTile j
  let anchor : Int := tileAnchor x t
  match j.kind with
  | .aclr a =>
    let x := mapElems x t (dataOff r 0) 256 fun _ => 0
    if last then tileWrite (mapElems x t (rowOff t.h 0) (t.h + 257) fun _ => 0) t 0 16 a.toNat else x
  | .aanc e =>
    let a' := clampI (e - 71) (-32768) 32767
    if tileState x t = 0 then markTile x t (some a') none false false
    else
      let x := mapElems x t (dataOff r 0) 256 fun u => zextI (shiftFloor (signedV u) (a' - anchor)) 96
      if last then markTile (sumTile x t) t (some a') (some 2) false false else x
  | .canon => if last then canonSums (canonRow x t r) t else canonRow x t r
  | .toFormat f rnd sat nf d => resolveRow x j d (rfmtF f).width r nf fun n => resolveTo (rfmtF f) rnd sat anchor (valueAt x t (dataOff r n))
  | .wire xe nf d => resolveRow x j d 32 r nf fun n =>
      let (w, fl) := leafInteger xe anchor (valueAt x t (dataOff r n))
      (zextI w 32, fl)
  | .ascl src sc =>
    let a := jobTile2 j src
    let x := canonRow (if r = 0 then canonSums x a else x) a r
    let codes := readSpan x j.vview j.foot sc 0 320
    let terms := (List.range 256).map (asclTerm x a t codes r)
    let ha := tileHeader x a
    markTile (addRow x t r (terms.map (·.1))) t none (some 1) (terms.any (·.2) || fieldOf ha 18 1 == 1) (fieldOf ha 19 1 == 1)
  | .amov src =>
    let copy (x : Ctx) (off n : Nat) : Ctx :=
      (List.range (n / 16)).foldl (fun x g => tileWrite x t (off + 16 * g) 16 (tileRead x (jobTile2 j src) (off + 16 * g) 16)) x
    let x := copy x (dataOff r 0) (24 * 256)
    if last then copy (copy x (rowOff t.h 0) (tileExtent t.h - rowOff t.h 0)) 0 16 else x
  | .achk | .sta _ => x

/-- Note the granules out of range that row r of a pass reaches in a tile: the row, and with the last one the checksum elements (R174). -/
def noteRow (now : Nat) (x : Ctx) (t : Tile) (r : Nat) (last read : Bool) : Ctx :=
  let x := noteTile now x t (dataOff r 0) (24 * 256) read 4
  if last then noteTile now x t (rowOff t.h 0) (24 * (t.h + 257)) read 4 else x

/-- Note the granules out of range that row r of a transform pass writes or reads beyond what the check pass has read (R174). -/
def noteTransform (now : Nat) (x : Ctx) (j : RJob) (r : Nat) (last : Bool) : Ctx :=
  let t := jobTile j
  match j.kind with
  | .aclr _ | .amov _ =>
    let x := noteRow now x t r last false
    if last then noteTile now x t 0 16 false 4 else x
  | .toFormat f _ _ _ d => noteSpan now x j.vview j.foot d (32 * (rfmtF f).width * r) (32 * (rfmtF f).width) false 4
  | .wire _ _ d => noteSpan now x j.vview j.foot d (1024 * r) 1024 false 4
  | .ascl _ sc =>
    let x := if r = 0 then noteTile now (noteSpan now x j.vview j.foot sc 0 320 true 4) t 0 16 true 4 else x
    noteTile now (noteTile now x t (dataOff r 0) (24 * 256) true 4) t (rowOff t.h 0) (24 * (t.h + 257)) true 4
  | .aanc _ | .canon | .achk | .sta _ => x

/-- The next row of a transform pass; with the last one the job ends, and STA has its image (R195, R209). -/
def transformStep (now : Nat) (x : Ctx) (j : RJob) : RDone :=
  let last := decide (transformRows x j ≤ j.row + 1)
  let y := transformRow (noteTransform now x j j.row last) j j.row last
  { ctx := y, next := if last then none else some { j with row := j.row + 1, transform := true },
    image := match j.kind with
      | .sta raw => if last then some (imageOf x (jobTile j) raw) else none
      | _ => none }

/-- The next row of the check pass over tile t; with the last row come the checksum elements and the verdict (R129, R195). -/
def checkStep (now : Nat) (x : Ctx) (j : RJob) (t : Tile) : RDone :=
  let last := decide (j.h ≤ j.row + 1)
  let y := noteRow now x t j.row last true
  if !last then { ctx := y, next := some { j with row := j.row + 1 } }
  else if !tileChecks y t then { ctx := markTile y t none (some 3) false false, bad := some (tileAddr t) }
  else { ctx := y, next := if transforms j then some { j with row := 0, transform := true } else none }

/-- The tiles whose STATE a job looks at before anything else: all that it names, but none for ACLR (R195). -/
def namedTiles (j : RJob) : List Tile :=
  match j.kind with
  | .aclr _ => []
  | _ => jobTile j :: (otherTile j).toList

/-- One row of a job's current pass (R195, R196): the headers of the tiles that it names come first, a tile already FAULTED ends the job, then the check
pass and the transform pass run row by row. -/
def jobRow (now : Nat) (x : Ctx) (j : RJob) : RDone :=
  if j.transform then transformStep now x j
  else
    match if j.row = 0 then (namedTiles j).find? (tileFaulted x) else none with
    | some t => { ctx := noteTile now x t 0 8 true 4, bad := some (tileAddr t) }
    | none =>
      let x := if j.row = 0 then (namedTiles j).foldl (fun x t => noteTile now x t 0 8 true 4) x else x
      match checkedTile x j with
      | some t => checkStep now x j t
      | none => transformStep now x { j with row := 0, transform := true }

/-- RESOLVER_JOB_START (R193): the oldest job of the queue. -/
def execResolverJobStart (core : Nat) (s : State) : Res :=
  let x := getCtx s core
  match x.rjobs with
  | [] => .next s
  | j :: rest =>
    if j.started || x.rHalted || !mayStart x j.arrival (rjobSets j) then .next s
    else .next (setCtx s core { x with rjobs := { j with started := true } :: rest,
                                       writing := x.writing.filter (·.arrival != j.arrival) ++ jobRanges j.arrival (jobBytes x j) })

/-- Give an image to the store of its STA, or drop the store when the check failed (R195, R209). -/
def supplyImage (x : Ctx) (arrival : Nat) (image : Option (List Byte)) : Ctx :=
  let mine (a : SAccess) : Bool := match a.act with
    | .image n => n == arrival
    | _ => false
  match image with
  | some b => { x with sacc := x.sacc.map fun a => if mine a then { a with act := .store b [] } else a }
  | none => { x with sacc := x.sacc.filter fun a => !mine a }

/-- RESOLVER_JOB_COMPLETE (R192, R195, R196): the running job takes the next row of its pass, and with the last one it ends; its destination bytes are
undefined to others until then (R194). -/
def execResolverJobComplete (core : Nat) (s : State) : Res :=
  let x := getCtx s core
  match x.rjobs with
  | [] => .next s
  | j :: rest =>
    if !j.started || x.rHalted then .next s
    else
      let r := jobRow s.cycle x j
      match r.next with
      | some j' => .next (setCtx s core (petJob s.cycle { r.ctx with rjobs := j' :: rest }))
      | none =>
        let y := petJob s.cycle (settleJob { r.ctx with rjobs := rest } j.arrival s.freeCtr)
        let y := match j.kind with
          | .sta _ => supplyImage y j.arrival r.image
          | _ => y
        let s := takeFree (setCtx s core y) x.raced.length
        .next (match r.bad with
          | some a => engineFault s core 4 causeChecksum a j.seq j.fpc j.parcels
          | none => s)

end Sys2Proof.Machine
end

