-- ==== Sys2Proof/Machine/Engine.lean ====
section
/-! DEFINITION. What the engines that work outside a sequencer share: their reads and writes through a partition's translation, with page
requests that an answer of FAIL turns into a translation fault (R402, R403), the ring slots they read, and completion counters (R305, R307). -/

namespace Sys2Proof.Machine

/-- How an engine's access ends: with its result, waiting on a page with the request posted or on tokens, or stopped by a cause at a granule. -/
inductive Try (α : Type) where
  | ok (a : α)
  | wait (s : State)
  | stop (s : State) (cause : BitVec 8) (eaddr : Nat)

/-- The first page of an access of an engine whose request was answered with FAIL while its job waited on it (R403). -/
def failedAt (s : State) (part a n : Nat) (who : Option Translator) : Option Nat :=
  (pageStarts a n).find? fun va => (getPart s part).failedPages.contains (va / 65536, who)

/-- The job that waited on a failed page stops. -/
def endFailed (s : State) (part va : Nat) (who : Option Translator) : State :=
  let x := getPart s part
  setPart s part { x with failedPages := x.failedPages.filter (· != (va / 65536, who)) }

/-- What an engine does with what stopped an access at a virtual address (R245, R402, R403). -/
def engineStop {α : Type} (s : State) (d part : Nat) (e : Stop) (g : Nat) (access : BitVec 2) (who : Option Translator) : Try α :=
  match e with
  | .cause c => .stop (failedWalk s d part g who) c g
  | .busy dm => .wait (awaitDemand s dm)
  | .page => .wait (postPage (failedWalk s d part g who) part g access [who]).1

/-- Resolve n bytes at a virtual address for an engine of a die that caches translations in who. An answer of FAIL to the page request that its job waits
on is a translation fault (R403). -/
def engineResolve (s : State) (d part a n : Nat) (need : Need) (who : Option Translator := none) : Try (List Piece) :=
  match failedAt s part a n who with
  | some va => .stop (endFailed s part va who) causeTranslation va
  | none =>
    match resolveVirtual s d part a n need who with
    | .error (e, g) => engineStop s d part e g (accessCode need) who
    | .ok ps => .ok ps

/-- Resolve n bytes at a displacement from an endpoint, for an engine of a die working for a kernel of a partition. -/
def endpointPieces (s : State) (d part serial : Nat) (e : Word) (disp : Int) (n : Nat) (need : Need) (who : Option Translator) : Try (List Piece) :=
  if (endpointSram e).isSome then
    match resolveEndpoint s d part serial e disp n need who with
    | .error (.cause c, g) => .stop s c g
    | .error _ => .wait s
    | .ok ps => .ok ps
  else engineResolve s d part (zextI ((fieldOf e 0 56 : Int) + disp) 64) n need who

/-- The tokens of an access at a virtual address and of its walks (R376). -/
def engineDemand (s : State) (d part a n : Nat) (who : Option Translator) (ps : List Piece) : Demand :=
  addDemand (walkDemand s d part a n who) (tokensOf s ps)

/-- What an engine's read of n bytes leaves behind: the translations cached, the tokens drawn and the frames counted (R245, R376, R382). -/
def engineTouch (s : State) (d part a n : Nat) (need : Need) (who : Option Translator := none) : State :=
  match resolveVirtual s d part a n need who with
  | .error _ => s
  | .ok ps => takeFree (countReads (cacheAccess s d part a n who) ps) 32

/-- Read n bytes at a virtual address as a little-endian number; a lost word is a machine fault at its lowest granule (R218, R220). -/
def engineRead (s : State) (d part a n : Nat) (need : Need) (who : Option Translator := none) : Try Nat :=
  match engineResolve s d part a n need who with
  | .wait t => .wait t
  | .stop t c g => .stop t c g
  | .ok ps =>
    match readWhole s d a n ps (walkDemand s d part a n who) with
    | .error (.busy dm, _) => .wait (awaitDemand s dm)
    | .error (.cause c, g) => .stop (engineTouch s d part a n need who) c g
    | .error (.page, _) => .wait s
    | .ok v => .ok v

/-- Write n bytes at a virtual address for an engine of a die: the state and the stamps of the homes. deps is what the write depends on beside the
engine's die view. -/
def engineStore (s : State) (d part a : Nat) (bytes : List Byte) (deps : List Nat) (who : Option Translator := none) : Try (State × List (Nat × Nat)) :=
  match engineResolve s d part a bytes.length { wr := true } who with
  | .wait t => .wait t
  | .stop t c g => .stop t c g
  | .ok ps =>
    let dm := engineDemand s d part a bytes.length who ps
    if !demandReady s dm || writeWaits s ps then .wait (awaitDemand s dm)
    else
      let s := cacheAccess s d part a bytes.length who
      match writeAccess s ps (fun i => bytes.getD i 0) (fun _ => false) .none true (clockVector s d deps) with
      | .error (c, g) => .stop s c g
      | .ok (t, stamps) => .ok (takeFree t 32, stamps)

/-- The same where nobody asks for the stamps. -/
def engineWrite (s : State) (d part a : Nat) (bytes : List Byte) (who : Option Translator := none) : Try State :=
  match engineStore s d part a bytes [] who with
  | .wait t => .wait t
  | .stop t c g => .stop t c g
  | .ok (t, _) => .ok t

/-- An engine's step that waits on a page changes nothing but the page request. -/
def waits (s : State) : Res := .next s

/-- Add to a completion counter of a partition, modulo 2^64 (R307, R320, R327). -/
def addCounter (s : State) (part c : Nat) (v : Word) : State :=
  let p := getPart s part
  setPart s part { p with cnt := tput p.cnt c (tget 0 p.cnt c + v) }

/-- The partition takes work: enabled, not in reset, no halt (R378, R405). -/
def partRuns (s : State) (p : Nat) : Bool :=
  let x := getPart s p
  x.en && x.reset == .idle && !x.halt.raised

/-! ## Flits that arrive while a partition is debug-halted (R423) -/

/-- A partition is debug-halted, so its fabric ports hold what arrives (R423). -/
def debugHeld (s : State) (part : Nat) : Bool := (getPart s part).halt.halted && (getPart s part).halt.debug

/-- Flits that a port's 64 KiB holding buffer takes. -/
def holdingFlits : Nat := 256

/-- Hold an event that a flit brings. Which port it came through is the fabric's: with more flits held than one buffer takes, whether that buffer is
full is a free choice; then a mire flit is dropped as lost and reliable traffic is held back. -/
def holdFlit (s : State) (part : Nat) (kept : Instr) (dropped : Option Instr) : State :=
  let x := getPart s part
  if x.held.length < holdingFlits || !Config.freeBool s.freeCtr then takeFree (setPart s part { x with held := x.held ++ [kept] }) 2
  else
    match dropped with
    | some i => takeFree (setPart s part { x with held := x.held ++ [i] }) 2
    | none => takeFree s 2

end Sys2Proof.Machine
end

