-- ==== Sys2Proof/Machine/Lamp.lean ====
section
/-! DEFINITION. The Lamplighter (R231 to R240) and the group entries of shared streams (R355 to R358): reading and issuing entries, granules
landing, completion, lateness, capture and the end of an itinerary. -/

namespace Sys2Proof.Machine

/-- A Lamplighter context. -/
def getLamp (s : State) (d p : Nat) : Lamp := tget {} (getDie s d).lamps p
/-- Replace a Lamplighter context. -/
def setLamp (s : State) (d p : Nat) (l : Lamp) : State :=
  let x := getDie s d
  setDie s d { x with lamps := tput x.lamps p l }

/-- Replace the running itinerary. -/
def setItin (s : State) (d p : Nat) (it : Itinerary) : State := setLamp s d p { getLamp s d p with running := some it }

/-- A die has a Lamplighter context for a partition, which takes work. -/
def lampRuns (s : State) (d p : Nat) : Bool :=
  partRuns s p && !(getLamp s d p).halted && !(getDie s d).fenced && (diesOf s p).contains d

/-! ## Entries (R232 to R234) -/

/-- A header entry breaks R234. -/
def headerBad (w : List Word) : Bool :=
  eKind w != 1 || fieldOf (w.getD 0 0) 2 6 != 0 || fieldOf (w.getD 0 0) 14 2 != 0 || fieldOf (w.getD 0 0) 22 2 != 0 ||
  fieldOf (w.getD 0 0) 30 34 != 0 || fieldOf (w.getD 1 0) 24 40 != 0 || (List.range 6).any fun i => w.getD (2 + i) 0 != 0

/-- A core of the die and the partition. -/
def localCore (s : State) (d p c : Nat) : Bool := dieOfCore c == d && partOfCore s c == some p

/-- A move entry breaks R233. -/
def moveBad (s : State) (d p : Nat) (w : List Word) : Bool :=
  let w0 := w.getD 0 0
  let w2 := w.getD 2 0
  let hop := fieldOf w0 2 2
  let size := fieldOf w0 32 32
  hop == 3 || fieldOf w0 6 2 != 0 || fieldOf w0 16 16 != 0 || size == 0 || size % 128 != 0 ||
  fieldOf (w.getD 1 0) 0 7 != 0 || fieldOf (w.getD 1 0) 56 8 != 0 ||
  (if hop = 2 then fieldOf w2 31 33 != 0 || !localCore s d p (fieldOf w2 21 10) else fieldOf w2 0 7 != 0 || fieldOf w2 56 8 != 0) ||
  fieldOf (w.getD 4 0) 10 54 != 0 || !localCore s d p (fieldOf (w.getD 4 0) 0 10) || (List.range 3).any fun i => w.getD (5 + i) 0 != 0

/-- Stop the running itinerary on a fault (R234): entries in flight complete, the halt line of the issuing context is raised. -/
def stopItin (s : State) (d p : Nat) (cause : BitVec 8) (eaddr : Nat) : State :=
  let l := getLamp s d p
  match l.running with
  | none => s
  | some it =>
    let info : StopInfo := { cause := cause, eaddr := BitVec.ofNat 56 eaddr, fpc := it.owner.fpc, parcels := it.owner.parcels, imprecise := true }
    let s := setLamp s d p { l with running := some { it with stopped := some info }, stopInfo := some (it.owner, info) }
    jobFault s it.owner cause 6

/-- ITINERARY_START (R231, R232): the oldest waiting itinerary starts and its header is read. -/
def execItineraryStart (die part : Nat) (s : State) : Res :=
  let l := getLamp s die part
  match l.waiting with
  | [] => .next s
  | (o, a) :: rest =>
    if l.running.isSome || !lampRuns s die part then .next s
    else
      match engineRead s die part a 64 { rd := true } with
      | .wait t => .next t
      | r =>
        let it : Itinerary := { owner := o, addr := a, win := [1, 1, 1], thresh := 65535, pace := 0, entries := [], ended := false, lost := false,
                                stopped := none }
        let begin (s : State) (it : Itinerary) : State := putPaced s die part { l with waiting := rest, running := some it }
        match r with
        | .stop t c g => .next (stopItin (begin t it) die part c g)
        | .wait t => .next t
        | .ok v =>
          let w := (List.range 8).map (recWord v)
          let s := engineTouch s die part a 64 { rd := true }
          if headerBad w then .next (stopItin (begin s it) die part causeItinerary 0)
          else
            let w0 := w.getD 0 0
            let t := begin s
              { it with win := [fieldOf w0 8 6 + 1, fieldOf w0 16 6 + 1, fieldOf w0 24 6 + 1], thresh := fieldOf (w.getD 1 0) 0 16,
                        pace := fieldOf (w.getD 1 0) 16 8 }
            -- entries that are past due already are late from the start (R237)
            .next (noteLateEntries t die part fun _ => true)

/-! ## Issue (R235, R356) -/

/-- Where an entry writes, as a virtual range or a stripe range of a slot. -/
inductive Dest where
  | virt (a n : Nat)
  | buf (core slot lo n : Nat)

/-- The destination range of an entry. -/
def entryDest (e : ItinEntry) : Dest := if e.hop = 2 then .buf e.dcore e.slot e.dst (e.size / 128) else .virt e.dst e.size

/-- Ranges of numbers meet. -/
def spansMeet (a m b n : Nat) : Bool := a < b + n && b < a + m

/-- Two destinations meet. -/
def destsMeet : Dest → Dest → Bool
  | .virt a m, .virt b n => spansMeet a m b n
  | .buf c k a m, .buf d j b n => c == d && k == j && spansMeet a m b n
  | _, _ => false

/-- A destination meets a source range. -/
def destMeets (x : Dest) (b n : Nat) : Bool :=
  match x with
  | .virt a m => spansMeet a m b n
  | .buf .. => false

/-- Condition 3 of R235 against an earlier entry. -/
def entriesClash (old new : ItinEntry) : Bool :=
  !old.complete && (destsMeet (entryDest old) (entryDest new) || destMeets (entryDest old) new.src new.size ||
    destMeets (entryDest new) old.src old.size)

/-- Entries of a hop in flight. -/
def inFlight (it : Itinerary) (hop : Nat) : Nat := it.entries.countP fun e => e.hop == hop && e.issued && !e.complete

/-- An earlier entry of the same hop waits on page not present, and entry i waits with it (R234). -/
def behindStall (it : Itinerary) (i hop : Nat) : Bool := (it.entries.take i).any fun o => o.hop == hop && o.stalled && !o.complete && !o.failed

/-- Conditions 1 to 3 of R235 for entry i. -/
def mayIssue (it : Itinerary) (i : Nat) : Bool :=
  match it.entries[i]? with
  | none => false
  | some e =>
    let before := it.entries.take i
    !e.issued && before.all (fun o => o.hop != e.hop || o.issued) && decide (inFlight it e.hop < it.win.getD e.hop 1) && !behindStall it i e.hop &&
    before.all fun o => !entriesClash o e

/-- Members of a stream in this package: die, partition and local group of each live membership. -/
def localMembers (s : State) (streamId : BitVec 32) : List (Nat × Nat × Nat × McGroup) :=
  (List.range 4).flatMap fun d => (getDie s d).lamps.flatMap fun (p, l) => l.groups.filterMap fun (g, m) =>
    if !m.source && !m.ended && m.streamId == streamId then some (d, p, g, m) else none

/-- The live source group that an entry names. -/
def sourceGroup (l : Lamp) (e : ItinEntry) : Option McGroup :=
  match tfind l.groups e.group with
  | some m => if m.source && !m.ended then some m else none
  | none => none

/-- What this package knows of a stream's part in other packages. -/
def farStream (s : State) (streamId : BitVec 32) : FarStream := tget {} s.far streamId.toNat

/-- The sequence number of the entry at index i of a source's group: group entries are numbered in itinerary order (R356), so those before it that have
no number yet come first. -/
def sequFor (it : Itinerary) (m : McGroup) (group i : Nat) : Nat :=
  match (it.entries[i]?).bind (·.sequ) with
  | some n => n
  | none => m.nextSeq + (it.entries.take i).countP fun e => e.group == group && e.sequ.isNone

/-- Number the group entries up to index i, and give the group its next number. -/
def numberEntries (it : Itinerary) (m : McGroup) (group i : Nat) : Itinerary × McGroup :=
  let (l, n) := it.entries.zipIdx.foldl (fun (l, n) (e, k) =>
    if k ≤ i ∧ e.group = group ∧ e.sequ.isNone then (l ++ [{ e with sequ := some n }], n + 1) else (l ++ [e], n)) (([] : List ItinEntry), m.nextSeq)
  ({ it with entries := l }, { m with nextSeq := n })

/-- The acknowledgements A_m of a stream's members besides the source, in this package and in others (R356). -/
def memberAcks (s : State) (streamId : BitVec 32) : List Nat :=
  (localMembers s streamId).map (fun (_, _, _, o) => o.ack) ++ (farStream s streamId).members.map (·.ack)

/-- Condition 4 of R235 for the entry with sequence number n (R356): MEMBERS members have joined, once and for all when sequence 0 has issued, and n lies
within W of the slowest acknowledgement. -/
def windowOpen (s : State) (m : McGroup) (n : Nat) : Bool :=
  let acks := memberAcks s m.streamId
  decide (n < acks.foldl min m.ack + m.window) && (decide (m.members ≤ acks.length) || m.begun)

/-- Entry i of an itinerary meets condition 4 of R235, or stops the itinerary when it issues. -/
def groupReady (s : State) (d p : Nat) (it : Itinerary) (i : Nat) : Bool :=
  match it.entries[i]? with
  | none => false
  | some e =>
    e.group == 0 || match sourceGroup (getLamp s d p) e with
      | none => true
      | some m => windowOpen s m (sequFor it m e.group i)

/-- The retirement tracker of the issuing core holds back an entry (R319). -/
def entryTracked (s : State) (it : Itinerary) (i : Nat) : Bool :=
  match it.entries[i]? with
  | none => false
  | some e => trackerHolds s it.owner e.src e.size || (e.hop != 2 && trackerHolds s it.owner e.dst e.size)

/-- Issue entry i of the running itinerary, or stop on what R234 finds when it issues. -/
def issueEntry (s : State) (d p : Nat) (it : Itinerary) (i : Nat) (e : ItinEntry) : State :=
  let l := getLamp s d p
  let put (it : Itinerary) (l : Lamp) : State :=
    setLamp s d p { l with running := some { it with entries := changeAt it.entries i fun e => { e with issued := true, issueCycle := s.cycle } } }
  if e.hop = 2 && (slotFor s e.dcore it.owner.serial e.slot).isNone then stopItin s d p causeItinerary 0
  else if e.group = 0 then put it l
  else
    match sourceGroup l e with
    | none => stopItin s d p causeItinerary 0
    | some m =>
      let n := sequFor it m e.group i
      let (it, m) := numberEntries it m e.group i
      let t := put it { l with groups := tput l.groups e.group { m with begun := m.begun || n == 0 } }
      takeFree { t with fabricOut := t.fabricOut ++ [.multicast m.streamId 0 n] } 1

/-- Read the next entry of the running itinerary (R231), unless a live entry of the issuing core's retirement tracker holds it back (R319). One that is late
keeps the cycle in which it became late (R237). -/
def readEntry (s : State) (d p : Nat) (it : Itinerary) : State :=
  let n := it.entries.length
  let a := it.addr + 64 * (n + 1)
  if trackerHolds s it.owner a 64 then s
  else
  match engineRead s d p a 64 { rd := true } with
  | .wait t => t
  | .stop t c g => stopItin t d p c g
  | .ok v =>
    let w := (List.range 8).map (recWord v)
    let s := engineTouch s d p a 64 { rd := true }
    if eKind w = 2 then
      if v = 2 then setItin s d p { it with ended := true } else stopItin s d p causeItinerary 0
    else if eKind w ≠ 0 || moveBad s d p w then stopItin s d p causeItinerary 0
    else
      let e := { parseMove w with lateAt := (it.lateAhead.find? (·.1 == n)).map (·.2.2) }
      let t := setItin s d p { it with entries := it.entries ++ [e], lateAhead := it.lateAhead.filter (·.1 != n) }
      if e.lateAt.isNone && pastDue t e then lateEntry t d p n e else t

/-- ITINERARY_ENTRY_ISSUE (R235): the first entry that may issue does; when none may, the next entry is read. An entry that only its group's window holds
back holds back no other hop. -/
def execItineraryEntryIssue (die part : Nat) (s : State) : Res :=
  match (getLamp s die part).running with
  | none => .next s
  | some it =>
    if it.stopped.isSome || !lampRuns s die part then .next s
    else
      match firstIndex (fun i => mayIssue it i && !entryTracked s it i && groupReady s die part it i) it.entries.length with
      | some i =>
        match it.entries[i]? with
        | some e => .next (issueEntry s die part it i e)
        | none => .next s
      | none =>
        if !it.ended then .next (readEntry s die part it)
        else .next (if (List.range it.entries.length).any (mayIssue it) then takeFree s 1 else s)

/-! ## Granules (R236) -/

/-- The granules of a source: data and whether it is lost, or the fault (R221, R236, R338). -/
def sourceGot (s : State) (ps : List Piece) (gs : List Got) (mire : Bool) : Except (BitVec 8 × Nat) (List (Granule × Bool)) :=
  let gs := (linkReads s ps gs).map fun g =>
    if mire && g.fault = some causeDram then { g with data := 0, lost := true, fault := none } else g
  match firstFault ps gs with
  | some e => .error e
  | none => .ok (gs.map fun g => (if g.lost then 0 else g.data, g.lost))

/-- The same as an agent of a die reads them. -/
def engineSource (s : State) (d : Nat) (ps : List Piece) (mire : Bool) : Except (BitVec 8 × Nat) (List (Granule × Bool)) :=
  sourceGot s ps (readPieces s d ps 0) mire

/-- Bytes and lost positions of whole granules in a row. -/
def granuleBytes (gs : List (Granule × Bool)) : (Nat → Byte) × (Nat → Bool) :=
  (fun i => granuleByte (gs.getD (i / 16) (0, false)).1 (i % 16), fun i => (gs.getD (i / 16) (0, false)).2)

/-- The stream TLB of a hop (R382). -/
def hopTlb (d : Nat) (e : ItinEntry) : Option Translator := some (.hop d e.hop)

/-- The pieces of an entry's destination from byte off, n bytes. -/
def entryTarget (s : State) (d p : Nat) (serial : Nat) (e : ItinEntry) (off n : Nat) : Try (List Piece) :=
  if e.hop = 2 then
    match slotFor s e.dcore serial e.slot with
    | none => .stop s causeItinerary 0
    | some h => .ok (resolveBuffer (clusterOfCore e.dcore) h (128 * e.dst + off) n)
  else engineResolve s d p (e.dst + off) n { wr := true } (hopTlb d e)

/-! ### Bytes staged through aliases (R235) -/

/-- A virtual range reaches a physical granule, through its own translation. -/
def rangeReaches (s : State) (d p b m : Nat) (l : Loc) : Bool :=
  match l with
  | .dram q layout _ _ _ => (List.range ((b % 65536 + m + 65535) / 65536)).any fun k =>
      let lo := max b (65536 * (b / 65536 + k))
      let hi := min (b + m) (65536 * (b / 65536 + k + 1))
      match locate s d p (lo / 16 * 16) {} with
      | .ok (.dram pa lay _ _ _) =>
        -- the permutation is its own inverse: the address that shows this granule under the range's layout
        let x := placed (placed q layout) lay
        decide (pa ≤ x) && decide (x < pa + (hi - lo / 16 * 16))
      | _ => false
  | _ => false

/-- An incomplete entry writes, or when writes holds also reads, a physical granule that this access reaches at a virtual address outside the entry's
ranges: the two alias, and the bytes are undefined. -/
def aliased (s : State) (d p : Nat) (o : ItinEntry) (q : Piece) (writes : Bool) : Bool :=
  let outside (b m : Nat) : Bool := !(decide (b ≤ q.addr) && decide (q.addr < b + m))
  !o.complete && !o.failed &&
  ((o.hop != 2 && outside o.dst o.size && rangeReaches s d p o.dst o.size q.loc) ||
   (writes && outside o.src o.size && rangeReaches s d p o.src o.size q.loc))

/-- Granules of a move of entry i whose bytes are undefined because another incomplete entry stages through an alias of their source or destination. -/
def aliasFree (s : State) (d p : Nat) (it : Itinerary) (i : Nat) (src dst : List Piece) : List Bool :=
  let others := dropAt it.entries i
  (src.zip dst).map fun (a, b) => others.any fun o => aliased s d p o a false || aliased s d p o b true

/-- The tokens that a move draws: of both accesses and of their walks (R376). -/
def moveDemand (s : State) (d p : Nat) (e : ItinEntry) (off n : Nat) (src dst : List Piece) : Demand :=
  let walks := addDemand (walkDemand s d p (e.src + off) n (hopTlb d e)) (if e.hop = 2 then [] else walkDemand s d p (e.dst + off) n (hopTlb d e))
  addDemand walks (addDemand (tokensOf s src) (tokensOf s dst))

/-- Move n bytes of entry i from byte off: the state, whether a granule was lost, and the stamps of the writes. -/
def moveBytes (s : State) (d p : Nat) (it : Itinerary) (i : Nat) (e : ItinEntry) (off n : Nat) : Try (State × Bool × List (Nat × Nat)) :=
  match engineResolve s d p (e.src + off) n { rd := true } (hopTlb d e) with
  | .wait t => .wait t
  | .stop t c g => .stop t c g
  | .ok src =>
    match engineSource s d src e.mire with
    | .error (c, g) => .stop (engineTouch s d p (e.src + off) n { rd := true } (hopTlb d e)) c g
    | .ok gs =>
      match entryTarget s d p it.owner.serial e off n with
      | .wait t => .wait t
      | .stop t c g => .stop t c g
      | .ok dst =>
        if !demandReady s (moveDemand s d p e off n src dst) || writeWaits s dst then .wait (awaitDemand s (moveDemand s d p e off n src dst))
        else
          let free := aliasFree s d p it i src dst
          let gs := gs.zipIdx.map fun (g, k) => if free.getD k false then (Config.freeGranule (s.freeCtr + k), g.2) else g
          let (byte, bad) := granuleBytes gs
          let t := cacheAccess s d p (e.src + off) n (hopTlb d e)
          let t := if e.hop = 2 then t else cacheAccess t d p (e.dst + off) n (hopTlb d e)
          match writeAccess t dst byte bad .none true (clockVector t d []) with
          | .error (c, g) => .stop t c g
          | .ok (t, stamps) =>
            let t := match firstBeyond dst with
              | some o => if e.hop = 2 then recordHoor t e.dcore it.owner.serial o e.slot false 3 else t
              | none => t
            .ok (takeFree (countReads t src) 32, gs.any (·.2), stamps)

/-- What stops the move of n bytes of an entry from byte off is page not present (R234). -/
def moveStalls (s : State) (d p : Nat) (e : ItinEntry) (off n : Nat) : Bool :=
  let page (a : Nat) (need : Need) : Bool := match resolveVirtual s d p a n need (hopTlb d e) with
    | .error (.page, _) => true
    | _ => false
  page (e.src + off) { rd := true } || (e.hop != 2 && page (e.dst + off) { wr := true })

/-- The ECC word under a granule of a DRAM destination is lost: the whole word is written when its last granule lands (R222). -/
def wordWaits (s : State) (ps : List Piece) : Bool := ps.any fun p => match p.loc with
  | .dram pa layout _ _ _ => wordLost s (placed pa layout)
  | _ => false

/-- Granules of the ECC word of granule g that have landed with it, all four where the word is complete. -/
def wordComplete (e : ItinEntry) (g : Nat) : Bool := (List.range 4).all fun k => g / 4 * 4 + k == g || e.landed.contains (g / 4 * 4 + k)

/-- Put the i-th entry back. -/
def putEntry (s : State) (d p i : Nat) (f : ItinEntry → ItinEntry) (lost : Bool) : State :=
  match (getLamp s d p).running with
  | none => s
  | some it => setItin s d p { it with entries := changeAt it.entries i f, lost := it.lost || lost }

/-- A group's context has the entry with sequence number n: its copy has landed or been dropped (R357). -/
def seqDone (m : McGroup) (n : Nat) : Bool := n < m.delivered - m.ahead.length || m.ahead.contains n

/-- Take the numbers from base on out of a list. -/
def dropRun : List Nat → Nat → Nat → List Nat
  | l, _, 0 => l
  | l, base, fuel + 1 => if l.contains base then dropRun (l.filter (· != base)) (base + 1) fuel else l

/-- One more copy of a group entry has completed, in whatever order the copies do (R357, R365). -/
def deliverSeq (m : McGroup) (n : Nat) : McGroup :=
  if seqDone m n then m
  else { m with delivered := m.delivered + 1, ahead := dropRun (n :: m.ahead) (m.delivered - m.ahead.length) (m.ahead.length + 1) }

/-- The source's own copy of a group entry is there (R365). -/
def countOwn (s : State) (d p : Nat) (e : ItinEntry) : State :=
  let l := getLamp s d p
  match sourceGroup l e with
  | some m => setLamp s d p { l with groups := tput l.groups e.group (deliverSeq m (e.sequ.getD 0)) }
  | none => s

/-- ITINERARY_GRANULE_LAND (R236): granule number granule of an entry in flight lands, waits, or its access stops the itinerary. -/
def execItineraryGranuleLand (die part entry granule : Nat) (s : State) : Res :=
  match (getLamp s die part).running with
  | none => .next s
  | some it =>
    match it.entries[entry]? with
    | none => .next s
    | some e =>
      if !e.issued || e.complete || e.failed || e.landed.contains granule || e.size ≤ 16 * granule || behindStall it entry e.hop || !partLive s part ||
          (getDie s die).fenced then .next s
      else
        let fail (s : State) (c : BitVec 8) (g : Nat) : State := stopItin (putEntry s die part entry (fun e => { e with failed := true }) false) die part c g
        let land (t : State) (lost : Bool) (stamps : List (Nat × Nat)) : State :=
          let t := putEntry t die part entry (fun e => { e with landed := granule :: e.landed, stalled := false, stamps := mergeStamps e.stamps stamps }) lost
          if e.group ≠ 0 && 16 * (e.landed.length + 1) = e.size then countOwn t die part e else t
        let wait (t : State) (off n : Nat) : State :=
          if moveStalls s die part e off n && !e.stalled then putEntry t die part entry (fun e => { e with stalled := true }) false else t
        match entryTarget s die part it.owner.serial e (16 * granule) 16 with
        | .wait t => .next (wait t (16 * granule) 16)
        | .stop t c g => .next (fail t c g)
        | .ok ps =>
          let whole := e.hop ≠ 2 && wordWaits s ps
          if whole && !wordComplete e granule then .next (progress (land s false []) it.owner)
          else
            let off := if whole then granule / 4 * 64 else 16 * granule
            let n := if whole then 64 else 16
            match moveBytes s die part it entry e off n with
            | .wait t => .next (wait t off n)
            | .stop t c g => .next (fail t c g)
            | .ok (t, lost, stamps) => .next (progress (land t lost stamps) it.owner)

/-! ## Lateness, completion and capture (R237 to R239) -/

/-- ENTRY_LATE (R237): an entry that is past due and not yet counted becomes late. -/
def execEntryLate (die part entry : Nat) (s : State) : Res :=
  match (getLamp s die part).running with
  | none => .next s
  | some it =>
    match it.entries[entry]? with
    | none => .next s
    | some e => if !e.complete && e.lateAt.isNone && pastDue s e then .next (lateEntry s die part entry e) else .next s

/-- The histogram bin of a latency (R239). -/
def latencyBin (x : Nat) : Nat := min 15 (log2Floor x - 6)

/-- Add one to a count that saturates at 32 bits. -/
def satInc (x : BitVec 32) : BitVec 32 := if x = 0xFFFFFFFF then x else x + 1

/-- Record a completed entry in a capture unit (R239). -/
def captureEntry (c : Capture) (lat : Nat) (late : Option Nat) : Capture :=
  let v : BitVec 32 := BitVec.ofNat 32 (min lat 0xFFFFFFFF)
  { min := if v.ult c.min then v else c.min
    max := if c.max.ult v then v else c.max
    cnt := satInc c.cnt
    lmax := match late with
      | some n => BitVec.ofNat 32 (Nat.max c.lmax.toNat (Nat.min n 0xFFFFFFFF))
      | none => c.lmax
    hist := tupd 0 c.hist (latencyBin lat) satInc }

/-- Every member's copy of a group entry has landed or been dropped (R357). -/
def membersServed (s : State) (l : Lamp) (e : ItinEntry) : Bool :=
  match e.sequ, tfind l.groups e.group with
  | some n, some m => m.ended || ((localMembers s m.streamId).all (fun (_, _, _, o) => seqDone o n) &&
      (farStream s m.streamId).members.all fun o => o.done.contains n)
  | _, _ => true

/-- ITINERARY_ENTRY_COMPLETE (R235, R237, R239): later entries that waited for it read what it wrote (R296). -/
def execItineraryEntryComplete (die part entry : Nat) (s : State) : Res :=
  let l := getLamp s die part
  match l.running with
  | none => .next s
  | some it =>
    match it.entries[entry]? with
    | none => .next s
    | some e =>
      if !e.issued || e.complete || e.failed || 16 * e.landed.length ≠ e.size || !membersServed s l e then .next s
      else
        let s := if e.lateAt.isNone && pastDue s e then lateEntry s die part entry e else s
        let l := getLamp s die part
        let at' := match l.running with
          | some it => (it.entries[entry]?).bind (·.lateAt)
          | none => none
        let l := { l with lateNow := if at'.isSome then tupd 0 l.lateNow e.hop (· - 1) else l.lateNow,
                          cap := tupd {} l.cap e.hop fun c => captureEntry c (s.cycle - e.issueCycle) (at'.map (s.cycle - ·)) }
        .next (putEntry (catchUp (putPaced s die part l) die e.stamps) die part entry (fun e => { e with complete := true }) false)

/-- ITINERARY_END (R279, R234, R237): the end entry has been reached and every entry has completed, or the itinerary has stopped and nothing of it
is in flight. -/
def execItineraryEnd (die part : Nat) (s : State) : Res :=
  let l := getLamp s die part
  match l.running with
  | none => .next s
  | some it =>
    let quiet := it.entries.all fun e => !e.issued || e.complete || e.failed
    let done := it.stopped.isNone && it.ended && it.entries.all (·.complete)
    if !quiet || !(done || it.stopped.isSome) then .next s
    else
      let left := (it.entries.filter fun e => !e.complete && e.lateAt.isSome).map (·.hop) ++ it.lateAhead.map (·.2.1)
      let lateNow := left.foldl (fun t h => tupd 0 t h (· - 1)) l.lateNow
      let s := putPaced s die part { l with running := none, lastStopped := it.stopped.isSome, lateNow := lateNow }
      .next (setTicket s it.owner (.done (if it.stopped.isSome then 1 else 0) it.lost (it.entries.foldl (fun v e => maxVec v e.stamps) [])))

/-! ## LLCLR (R240) -/

/-- A partition's block of a die stands in its device window: the partition is live and holds clusters there (R373, R378). -/
def blockHeld (s : State) (d p : Nat) : Bool := partLive s p && dieHeld (getPart s p) d

/-- LLCLR_HOP: clear LATE and the capture unit of a hop. -/
def execLlclrHop (die part hop : Nat) (s : State) : Res :=
  let l := getLamp s die part
  .next (if blockHeld s die part then setLamp s die part { l with late := tput l.late hop 0, cap := tput l.cap hop {} } else s)

/-- LLCLR_PACE: clear PACEST.CYC. -/
def execLlclrPace (die part : Nat) (s : State) : Res :=
  .next (if blockHeld s die part then setLamp s die part { getLamp s die part with paceCyc := 0 } else s)

/-! ## Delivery of a shared stream (R357) -/

/-- A block whose mire flits were dropped: its data arrives as lost (R338). -/
def loseData (m : McBlock) : McBlock := { m with data := m.data.map fun g => (g.1, false) }

/-- Count a delivery of a member, and whether it was dropped. -/
def countDelivery (s : State) (d p g : Nat) (m : McGroup) (n : Nat) (dropped : Bool) : State :=
  let l := getLamp s d p
  setLamp s d p { l with groups := tput l.groups g { deliverSeq m n with dropped := if dropped then m.dropped + 1 else m.dropped } }

/-- The live source of a stream in this package: die, partition, its Lamplighter and local group. -/
def sourceOf (s : State) (streamId : BitVec 32) : Option (Nat × Nat × Lamp × Nat) :=
  (List.range 4).findSome? fun d => (getDie s d).lamps.findSome? fun (p, l) => l.groups.findSome? fun (g, m) =>
    if m.source && !m.ended && m.streamId == streamId then some (d, p, l, g) else none

/-- The source of a stream in another package may have issued sequence number n: it is live, and n lies within W of the slowest acknowledgement in this
package (R356). -/
def farIssued (s : State) (streamId : BitVec 32) (n : Nat) : Bool :=
  let f := farStream s streamId
  f.source && !f.ended && (localMembers s streamId).all fun (_, _, _, o) => decide (n < o.ack + f.window)

/-- What a delivery brings: hop, destination and granules. -/
structure Delivery where
  hop : Nat
  dst : Nat
  granules : List (Granule × Bool)
deriving DecidableEq, Repr

/-- The delivery of a block (R357). From a source in another package, which issues no entry beyond the stream's window (R356), the bytes are the fabric's
(log entry 19). From a source in this package they are the
source's bytes of its entry with that sequence number, at the entry's destination; of a mire entry's flits those may be lost that the block says.
None where the source has no such entry in flight, or its page or a fault holds it. -/
def deliveryOf (s : State) (streamId : BitVec 32) (m : McBlock) : Option Delivery :=
  match sourceOf s streamId with
  | none =>
    if farIssued s streamId m.sequ then some { hop := m.hop, dst := m.dst, granules := m.data.map fun (g, ok) => (if ok then g else 0, !ok) } else none
  | some (d, p, l, g) =>
    match l.running.bind fun it => it.entries.find? fun e => e.group == g && e.sequ == some m.sequ && e.issued && !e.complete with
    | none => none
    | some e =>
      match resolveVirtual s d p e.src e.size { rd := true } (hopTlb d e) with
      | .error _ => none
      | .ok ps =>
        match engineSource s d ps e.mire with
        | .error _ => none
        | .ok gs => some { hop := e.hop, dst := e.dst, granules := gs.zipIdx.map fun (g, i) =>
            if e.mire && ((m.data[i]?).map (·.2) == some false) then (0, true) else g }

/-- A machine fault of the write of a delivery is no drop (R21): the halt line of the member's partition is raised for its Lamplighter context, and the
delivery stays undelivered (log entry 106: the model's choice). -/
def deliveryFault (s : State) (part core : Nat) (cause : BitVec 8) : State :=
  setPirq (raiseHalt s part cause core 6 (serialOfCore s core) false false) part 0

/-- A cause for which the copy of a group entry is dropped: translation or permission fails (R21, R357). -/
def dropCause (c : BitVec 8) : Bool := c == causeTranslation || c == causeProtection || c == causeLayout

/-- MULTICAST_DELIVERY (R357): the copy of one group entry for a member context arrives in this package. An empty DSLOT and a destination that fails translation
or permission drop it; page not present makes it wait. -/
def execMulticastDelivery (die part group : Nat) (m : McBlock) (s : State) : Res :=
  match tfind (getLamp s die part).groups group with
  | none => .next s
  | some g =>
    if g.source || g.ended || seqDone g m.sequ || !partLive s part || (getDie s die).fenced then .next s
    else if debugHeld s part then
      .next (holdFlit s part (.multicastDelivery die part group m)
        (if Config.freeBool (s.freeCtr + 1) then some (.multicastDelivery die part group (loseData m)) else none))
    else
      match deliveryOf s g.streamId m with
      | none => .next s
      | some v =>
        let (byte, bad) := granuleBytes v.granules
        let n := 16 * v.granules.length
        let write (s : State) (ps : List Piece) : Res :=
          if !tokensReady s ps || writeWaits s ps then .next (awaitTokens s ps)
          else
            match writeAccess s ps byte bad .none true (clockVector s die []) with
            | .error (c, _) => .next (deliveryFault s part g.dcore c)
            | .ok (t, _) =>
              let t := match firstBeyond ps with
                | some o => recordHoor t g.dcore (serialOfCore t g.dcore) o g.dslot false 3
                | none => t
              .next (countDelivery (takeFree t 32) die part group g m.sequ false)
        if v.hop = 2 then
          match tfind (getCtx s g.dcore).slots g.dslot with
          | none => .next (countDelivery s die part group g m.sequ true)
          | some h => write s (resolveBuffer (clusterOfCore g.dcore) h (128 * v.dst) n)
        else
          match engineResolve s die part v.dst n { wr := true } (some (.receive die)) with
          | .wait t => .next t
          | .stop t c _ => .next (if dropCause c then countDelivery t die part group g m.sequ true else deliveryFault t part g.dcore c)
          | .ok ps => write (cacheAccess s die part v.dst n (some (.receive die))) ps

end Sys2Proof.Machine
end

