-- ==== Sys2Proof/Machine/Copy.lean ====
section
/-! DEFINITION. The copy engine and its task scheduler (R280 to R282): starting a card, its chunks, and its end. -/

namespace Sys2Proof.Machine

/-! ## The task scheduler (R282) -/

/-- Two regions meet: virtual ranges, or offsets of one slot of one core. -/
def regionsMeet (a : Word) (m : Nat) (b : Word) (n : Nat) : Bool :=
  match endpointSram a, endpointSram b with
  | some (c, k, x), some (d, j, y) => c == d && k == j && spansMeet x m y n
  | none, none => spansMeet (fieldOf a 0 56) m (fieldOf b 0 56) n
  | _, _ => false

/-- An earlier card holds back a later one: its write regions meet any region of the later, or its read regions the later's write regions. -/
def cardsClash (old new : Card) : Bool :=
  old.regions.any fun (w, a, m) => new.regions.any fun (v, b, n) => (w || v) && regionsMeet a m b n

/-- The cards of a partition on a die that are not complete. -/
def cardsOf (s : State) (d p : Nat) : List Card :=
  tget [] (getDie s d).cards p ++
  ((List.range 9).filterMap fun c => (getCluster s (9 * d + c)).card).filter fun c => c.owner.part == p

/-- A waiting card may start: its copy engine is free and runs, and no earlier card holds it back. -/
def cardReady (s : State) (d p : Nat) (c : Card) : Bool :=
  let cl := getCluster s (clusterOfCore c.owner.core)
  cl.card.isNone && !cl.halted && (cardsOf s d p).all fun o => !(ticketBefore o.owner.ticket c.owner.ticket) || !cardsClash o c

/-- Some region of a card holds n bytes at a displacement from an endpoint; a write region, where write asks for one. -/
def inRegions (c : Card) (e : Word) (disp : Int) (n : Nat) (write : Bool) : Bool :=
  c.regions.any fun (w, b, m) => (w || !write) && match endpointSram e, endpointSram b with
    | some (p, k, x), some (q, j, y) => p == q && k == j && decide ((y : Int) ≤ x + disp) && decide (x + disp + n ≤ y + m)
    | none, none => decide ((fieldOf b 0 56 : Int) ≤ (fieldOf e 0 56 : Int) + disp) && decide ((fieldOf e 0 56 : Int) + disp + n ≤ (fieldOf b 0 56 : Int) + m)
    | _, _ => false

/-- A card as its copy engine takes it: some row of its destination may leave its write regions (R282). -/
def startedCard (c : Card) : Card :=
  { c with started := true, strays := (List.range c.rows).any fun i => !inRegions c c.dst (i * c.dstride) c.rowlen true }

/-- COPY_CARD_START (R282): the first waiting card that may start goes to its cluster's copy engine. -/
def execCopyCardStart (die part : Nat) (s : State) : Res :=
  let y := getDie s die
  let l := tget [] y.cards part
  match l.findIdx? (cardReady s die part), partRuns s part && !y.fenced with
  | some i, true =>
    match l[i]? with
    | none => .next s
    | some c =>
      let s := setDie s die { y with cards := tput y.cards part (dropAt l i) }
      let n := clusterOfCore c.owner.core
      .next (setCluster s n { getCluster s n with card := some (startedCard c) })
  | _, _ => .next s

/-! ## Chunks (R280) -/

/-- Bytes of the next chunk: up to 256 of the row, one granule where the source is waited on. -/
def chunkSize (c : Card) : Nat := if c.swait ≠ 0 then 16 else min 256 (c.rowlen - c.off)

/-- A pattern repeated by a fill. -/
def fillByte (p : Word) (i : Nat) : Byte := BitVec.ofNat 8 (p.toNat >>> (8 * (i % 8)))

/-- Some row i below rows of rowlen bytes at base + i × stride meets the 16 bytes at a. -/
def rowsMeet (base stride : Int) (rows rowlen : Nat) (a : Int) : Bool :=
  if stride = 0 then decide (a < base + rowlen) && decide (base < a + 16)
  else
    -- i × k lies strictly between lo and hi for k = |stride|
    let k := (stride.natAbs : Int)
    let (lo, hi) := if 0 < stride then (a - base - rowlen, a + 16 - base) else (base - a - 16, base + rowlen - a)
    let first := max 0 (lo / k + 1)
    decide (first < rows) && decide (first * k < hi)

/-- The 16 bytes at a displacement from one endpoint meet the rows from the other. -/
def endpointMeets (mine : Word) (disp : Int) (other : Word) (stride : Int) (rows rowlen : Nat) : Bool :=
  match endpointSram mine, endpointSram other with
  | some (c, k, x), some (d, j, y) => c == d && k == j && rowsMeet y stride rows rowlen (x + disp)
  | none, none => rowsMeet (fieldOf other 0 56) stride rows rowlen ((fieldOf mine 0 56 : Int) + disp)
  | _, _ => false

/-- Granules of the next chunk that end undefined: the card's source and destination overlap there. -/
def chunkFree (c : Card) (n : Nat) : List Bool :=
  (List.range ((n + 15) / 16)).map fun t =>
    let i := c.off + 16 * t
    !c.fill &&
    (endpointMeets c.dst (c.row * c.dstride + i) c.src c.sstride c.rows c.rowlen ||
     endpointMeets c.src (c.row * c.sstride + i) c.dst c.dstride c.rows c.rowlen)

/-- The stream TLB of the copy engine that runs a card (R382). -/
def cardTlb (c : Card) : Option Translator := some (.copy (clusterOfCore c.owner.core))

/-- Resolve n bytes at a displacement from an endpoint of a card. -/
def cardPieces (s : State) (d : Nat) (c : Card) (e : Word) (disp : Int) (n : Nat) (need : Need) : Try (List Piece) :=
  endpointPieces s d c.owner.part c.owner.serial e disp n need (cardTlb c)

/-- The tokens of an access of a card at a displacement from an endpoint (R376). -/
def cardDemand (s : State) (d : Nat) (c : Card) (e : Word) (disp : Int) (n : Nat) (ps : List Piece) : Demand :=
  if (endpointSram e).isSome then tokensOf s ps else engineDemand s d c.owner.part (zextI ((fieldOf e 0 56 : Int) + disp) 64) n (cardTlb c) ps

/-- Bytes outside a card's regions that another agent has touched while it ran (R282). -/
def racedBytes (c : Card) : List Piece := c.outside.filter fun p => c.touched.any (sameGranule p)

/-- The card of a copy engine runs no more: the bytes outside its regions that another agent touched meanwhile end undefined (R282; log entry 107). -/
def settleCard (s : State) (n : Nat) : State :=
  let x := getCluster s n
  match x.card with
  | none => s
  | some c => if c.strays then freeBytes (setCluster s n { x with card := some { c with strays := false, outside := [], touched := [] } }) (racedBytes c) else s

/-- The card on a cluster's engine stops on a fault: JWAIT returns RESULT 1. -/
def stopCard (s : State) (n : Nat) (c : Card) (cause : BitVec 8) (eaddr : Nat) : State :=
  let info : StopInfo := { cause := cause, eaddr := BitVec.ofNat 56 eaddr, fpc := c.owner.fpc, parcels := c.owner.parcels, imprecise := true }
  let s := settleCard s n
  let s := setCluster s n { getCluster s n with stopInfo := some info }
  jobFault (setTicket (leaveWaiters s n .card) c.owner (.done 1 c.lost c.stamps)) c.owner cause 5

/-- What a card's access through a buffer endpoint leaves in HOOR (R227). -/
def noteCard (s : State) (serial : Nat) (e : Word) (ps : List Piece) (read : Bool) : State :=
  match endpointSram e, firstBeyond ps with
  | some (c, k, _), some o => recordHoor s c serial o k read 4
  | _, _ => s

/-- The translations of a chunk stay in the copy engine's stream TLB. -/
def cacheEndpoint (s : State) (d : Nat) (c : Card) (e : Word) (disp : Int) (n : Nat) : State :=
  if (endpointSram e).isSome then s else cacheAccess s d c.owner.part (zextI ((fieldOf e 0 56 : Int) + disp) 64) n (cardTlb c)

/-- What a chunk reads: the granules with their loss, the state with F bits cleared; more is what the chunk's write draws. -/
def chunkSource (s : State) (d : Nat) (c : Card) (n : Nat) (more : Demand) : Try (State × List (Granule × Bool)) :=
  if c.fill then
    if !demandReady s more then .wait (awaitDemand s more)
    else .ok (s, (List.range ((n + 15) / 16)).map fun t => (BitVec.ofNat 128 (ofBytes (fun i => fillByte c.pattern (c.off + 16 * t + i)) 16), false))
  else
    match cardPieces s d c c.src (c.row * c.sstride + c.off) n { rd := true } with
    | .wait t => .wait t
    | .stop t e g => .stop t e g
    | .ok ps =>
      let cl := clusterOfCore c.owner.core
      if c.swait ≠ 0 && (!allFull s ps || servedFirst s cl .card ps) then .wait (joinWait s cl .card ps)
      else if !demandReady s (addDemand more (cardDemand s d c c.src (c.row * c.sstride + c.off) n ps)) then
        .wait (awaitDemand s (addDemand more (cardDemand s d c c.src (c.row * c.sstride + c.off) n ps)))
      else
        match engineSource s d ps c.mire with
        | .error (e, g) => .stop s e g
        | .ok gs =>
          let t := noteCard (countReads (cacheEndpoint s d c c.src (c.row * c.sstride + c.off) n) ps) c.owner.serial c.src ps true
          .ok (leaveWaiters (if c.swait = 2 then clearAll t ps else t) cl .card, gs)

/-- The bytes of a chunk's write that lie outside the card's write regions (R282). -/
def strayBytes (c : Card) (ps : List Piece) : List Piece :=
  if !c.strays then []
  else ps.flatMap fun p => (List.range p.count).filterMap fun i =>
    if inRegions c c.dst (c.row * c.dstride + (c.off + p.pos + i : Nat)) 1 true then none
    else some { p with first := p.first + i, count := 1, pos := p.pos + i }

/-- One chunk of a card: the state after it, whether a granule was lost, and the stamps of its writes. -/
def cardChunk (s : State) (d : Nat) (c : Card) : Try (State × Bool × List (Nat × Nat)) :=
  let n := chunkSize c
  match cardPieces s d c c.dst (c.row * c.dstride + c.off) n { wr := true } with
  | .wait t => .wait t
  | .stop t e g => .stop t e g
  | .ok dst =>
    if writeWaits s dst then .wait s
    else
      match chunkSource s d c n (cardDemand s d c c.dst (c.row * c.dstride + c.off) n dst) with
      | .wait t => .wait t
      | .stop t e g => .stop t e g
      | .ok (t, gs) =>
        let gs := gs.zipIdx.map fun (g, i) => if (chunkFree c n).getD i false then (Config.freeGranule (s.freeCtr + i), false) else g
        let (byte, bad) := granuleBytes gs
        let t := cacheEndpoint t d c c.dst (c.row * c.dstride + c.off) n
        match writeAccess t dst byte bad .none true (clockVector t d []) with
        | .error (e, g) => .stop t e g
        | .ok (u, stamps) => .ok (takeFree (noteCard u c.owner.serial c.dst dst false) 32, gs.any (·.2), stamps)

/-- What a chunk writes, resolved. -/
def chunkTarget (s : State) (d : Nat) (c : Card) : List Piece :=
  match cardPieces s d c c.dst (c.row * c.dstride + c.off) (chunkSize c) { wr := true } with
  | .ok ps => ps
  | _ => []

/-- A card after n more bytes of its row, which it wrote through the given pieces. -/
def advanceCard (c : Card) (n : Nat) (lost : Bool) (stamps : List (Nat × Nat)) (ps : List Piece) : Card :=
  let c := { c with stamps := mergeStamps c.stamps stamps, outside := c.outside ++ strayBytes c ps }
  if c.rowlen ≤ c.off + n then { c with row := c.row + 1, off := 0, lost := c.lost || lost }
  else { c with off := c.off + n, lost := c.lost || lost }

/-- COPY_CARD_COMPLETE (R280): the copy engine of a cluster performs the next chunk of its card; with the last one the card is complete (log entry
20), and the cards that waited for it find its writes in the die's view (R282, R296). -/
def execCopyCardComplete (cluster : Nat) (s : State) : Res :=
  let x := getCluster s cluster
  let d := dieOfCluster cluster
  match x.card with
  | none => .next s
  | some c =>
    if x.halted || x.stopInfo.isSome || !partLive s c.owner.part || (getDie s d).fenced then .next s
    else
      match cardChunk s d c with
      | .wait t => .next t
      | .stop t e g => .next (stopCard t cluster c e g)
      | .ok (t, lost, stamps) =>
        -- its own accesses are not another agent's, so the card goes on from what it was before the chunk
        let c' := advanceCard c (chunkSize c) lost stamps (chunkTarget s d c)
        let t := progress (setCluster t cluster { getCluster t cluster with card := some c' }) c.owner
        if c'.row = c'.rows then
          let u := settleCard t cluster
          .next (setTicket (catchUp (setCluster u cluster { getCluster u cluster with card := none }) d c'.stamps) c.owner (.done 0 c'.lost c'.stamps))
        else .next t

end Sys2Proof.Machine
end

