-- ==== Sys2Proof/Machine/Bmv.lean ====
section
/-! DEFINITION. Bank compute (R132, R241, R287, R288): the rows of a BMV job and its status record. -/

namespace Sys2Proof.Machine

/-- Element k of a row of W whose bytes are b (R179, R287). -/
def bmvWeight (wfmt : Nat) (b : Nat → Nat) (k : Nat) : ANum :=
  let half (i : Nat) : Nat := b i + 256 * b (i + 1)
  match wfmt with
  | 0 => anumF .bf16 (half (2 * k))
  | 2 => anumF .fp8e4 (b k)
  | 3 => anumF .fp8e5 (b k)
  | 4 => anumF .mk8 (b k)
  | 5 => anumF .fp4 ((b (k / 2) >>> (4 * (k % 2))) % 16)
  | _ => let v := b (k / 5)
    if 242 < v then { ilt := true } else anumI (tritVal (tritDigit v (k % 5)))

/-- The exponent of a nonzero product (log entry 21). -/
def productExp (p : Int × Int) : Int := (log2Floor p.1.natAbs : Int) + p.2

/-- One segment of a fen-unit sum as an FP32 code: each product aligned to the segment's largest exponent minus 70, summed exactly, rounded once. -/
def segmentSum (ps : List (Int × Int)) : Nat :=
  let nz := ps.filter fun p => p.1 != 0
  match nz with
  | [] => 0
  | p :: t =>
    let a := t.foldl (fun m q => max m (productExp q)) (productExp p) - 70
    let sum := nz.foldl (fun n q => n + shiftFloor q.1 (a - q.2)) 0
    (roundDyadic .f32 .rne false (sum < 0) sum.natAbs a).1

/-- The segments of 1,024 products. -/
def segments (ps : List (Int × Int)) : List (List (Int × Int)) :=
  (List.range ((ps.length + 1023) / 1024)).map fun i => (ps.drop (1024 * i)).take 1024

/-- One output element from its terms (R132, R288): the canonical NaN when a term is not finite. -/
def bmvElement (terms : List (ANum × ANum)) : Nat :=
  if terms.any fun (w, x) => w.nv || x.nv then canonNaN .f32
  else
    match (segments (terms.map fun (w, x) => (w.m * x.m, w.e + x.e))).map segmentSum with
    | [] => 0
    | a :: t => t.foldl (fun n b => (fadd .f32 (decodeF .f32 n) (decodeF .f32 b)).1) a

/-- The bytes of an operand of a fen unit, read at the home of each granule (R301): lost words of a mire page read as zeros and are named (R220, R288). -/
def bmvRead (s : State) (d p a n : Nat) (need : Need) : Try ((Nat → Nat) × List Nat) :=
  match engineResolve s d p a n need (some (.bank d)) with
  | .wait t => .wait t
  | .stop t c g => .stop t c g
  | .ok ps =>
    let dm := engineDemand s d p a n (some (.bank d)) ps
    if !demandReady s dm then .wait (awaitDemand s dm)
    else
    match sourceGot s ps (readHomes s d ps 0) false with
    | .error (c, g) => .stop (engineTouch s d p a n need (some (.bank d))) c g
    | .ok gs =>
      let words := (ps.zip gs).filterMap fun (q, _, lost) => match q.loc with
        | .dram pa layout _ _ _ => if lost then some (placed pa layout / 64) else none
        | _ => none
      let data : Table Granule := (gs.zipIdx.map fun (g, i) => (i, g.1))
      .ok (fun i => (granuleByte (tget 0 data ((a % 16 + i) / 16)) ((a % 16 + i) % 16)).toNat, words.eraseDups)

/-- The x vectors of a job. -/
def bmvVectors (s : State) (d : Nat) (j : BmvJob) : Nat → Try (List (Nat → Nat) × List Nat)
  | 0 => .ok ([], [])
  | n + 1 =>
    match bmvVectors s d j n with
    | .wait t => .wait t
    | .stop t c g => .stop t c g
    | .ok (l, ws) =>
      match bmvRead s d j.owner.part (j.xaddr + n * j.xstr) (2 * j.k) { rd := true } with
      | .wait t => .wait t
      | .stop t c g => .stop t c g
      | .ok (f, w) => .ok (l ++ [f], ws ++ w)

/-- Write n bytes of a job's results at their home: what the job's own agents saw when it issued goes before them (R296). -/
def bmvStore (s : State) (d : Nat) (j : BmvJob) (a : Nat) (bytes : List Byte) : Try (State × BmvJob) :=
  match engineStore s d j.owner.part a bytes j.deps (some (.bank d)) with
  | .wait t => .wait t
  | .stop t c g => .stop t c g
  | .ok (t, stamps) =>
    let away := match resolveVirtual s d j.owner.part a bytes.length { wr := true } (some (.bank d)) with
      | .ok ps => ps.any isRemote
      | .error _ => false
    .ok (t, { j with stamps := mergeStamps j.stamps stamps, far := j.far || away })

/-- Write the y elements of a row. -/
def bmvWrite (s : State) (d : Nat) (j : BmvJob) (ys : List Nat) : Nat → Try (State × BmvJob)
  | 0 => .ok (s, j)
  | n + 1 =>
    match bmvWrite s d j ys n with
    | .ok (t, j) => bmvStore t d j (j.yaddr + n * j.ystr + 4 * j.row) (natBytes (ys.getD n 0) 4)
    | r => r

/-- The 16-byte status record of R288. -/
def bmvStatus (j : BmvJob) : List Byte :=
  natBytes j.owner.ticket 4 ++ natBytes (min j.lost.length 0xFFFFFFFF) 4 ++
  natBytes ((if j.nan then 1 else 0) + if j.inf then 2 else 0) 1 ++ List.replicate 7 (0 : Byte)

/-- An FP32 code is infinite. -/
def isInfCode (c : Nat) : Bool := match decodeF .f32 c with
  | .inf _ => true
  | _ => false

/-- What reading a row leaves behind: translations, tokens and counts, for W and each vector of x (R245, R376, R382). -/
def bmvTouch (s : State) (d : Nat) (j : BmvJob) : State :=
  let who : Option Translator := some (.bank d)
  let s := engineTouch s d j.owner.part (j.waddr + j.row * j.wrow) (bmvRowBytes j.wfmt j.k) { rd := true, bank := true } who
  (List.range j.nv).foldl (fun s n => engineTouch s d j.owner.part (j.xaddr + n * j.xstr) (2 * j.k) { rd := true } who) s

/-- One row of a job for every vector; after the last row, the status record. The job after it. -/
def bmvRow (s : State) (d : Nat) (j : BmvJob) : Try (State × BmvJob) :=
  let p := j.owner.part
  let n := bmvRowBytes j.wfmt j.k
  match bmvRead s d p (j.waddr + j.row * j.wrow) n { rd := true, bank := true } with
  | .wait t => .wait t
  | .stop t c g => .stop t c g
  | .ok (w, lw) =>
    match bmvVectors s d j j.nv with
    | .wait t => .wait t
    | .stop t c g => .stop t c g
    | .ok (xs, lx) =>
      let ys := xs.map fun x => bmvElement ((List.range j.k).map fun k => (bmvWeight j.wfmt w k, anumF .bf16 (x (2 * k) + 256 * x (2 * k + 1))))
      match bmvWrite (bmvTouch s d j) d j ys j.nv with
      | .wait t => .wait t
      | .stop t c g => .stop t c g
      | .ok (t, j) =>
        let j' := { j with row := j.row + 1, lost := (j.lost ++ lw ++ lx).eraseDups, nan := j.nan || ys.any (fun y => isNaN (decodeF .f32 y)),
                           inf := j.inf || ys.any isInfCode }
        if j'.row < j'.m || j.stat = 0 then .ok (t, j') else bmvStore t d j' j.stat (bmvStatus j')

/-- The core's context that issued a BMV job keeps the stamps of its writes for BFEN, and that some went to another package (R289): active, shadow or
parked. -/
def noteBmv (s : State) (j : BmvJob) : State :=
  let y := getCore s j.owner.core
  let upd (x : Ctx) : Ctx := if x.bmvJobs.contains j.owner.ticket then { x with bmvStamps := maxVec x.bmvStamps j.stamps, bmvFar := x.bmvFar || j.far } else x
  setCore s j.owner.core { y with ctx := upd y.ctx, shadow := upd y.shadow, parked := y.parked.map fun (i, p) => (i, { p with ctx := upd p.ctx }) }

/-- Stop a job on a fault (R288). -/
def stopBmv (s : State) (d i : Nat) (j : BmvJob) (cause : BitVec 8) (eaddr : Nat) : State :=
  let info : StopInfo := { cause := cause, eaddr := BitVec.ofNat 56 eaddr, fpc := j.owner.fpc, parcels := j.owner.parcels, imprecise := true }
  let y := getDie s d
  jobFault (setDie s d { y with bmv := changeAt y.bmv i fun j => { j with stopped := some info } }) j.owner cause 9

/-- A job has a step to make: a row, or after the last one its end, once its die shows what it wrote: until then the item is outstanding (R318). -/
def bmvDue (s : State) (d : Nat) (j : BmvJob) : Bool := decide (j.row < j.m) || stampsVisible s d .core j.stamps

/-- BMV_JOB_COMPLETE (R288): the oldest BMV job of a core computes its next row; with the last row it writes its status record, and it is complete when its
die shows its writes. -/
def execBmvJobComplete (core : Nat) (s : State) : Res :=
  let d := dieOfCore core
  let y := getDie s d
  match y.bmv.findIdx? fun j => j.owner.core == core && j.stopped.isNone && bmvDue s d j with
  | none => .next s
  | some i =>
    match y.bmv[i]? with
    | none => .next s
    | some j =>
      if y.bmvHalted.contains j.owner.part || !partLive s j.owner.part || y.fenced then .next s
      else if j.m ≤ j.row then .next (noteBmv (setDie s d { y with bmv := dropAt y.bmv i }) j)
      else
        match bmvRow s d j with
        | .wait t => .next t
        | .stop t c g => .next (stopBmv t d i j c g)
        | .ok (t, j') =>
          let t := progress t j.owner
          let z := getDie t d
          .next (setDie t d { z with bmv := changeAt z.bmv i fun _ => j' })

end Sys2Proof.Machine
end

