-- ==== Sys2Proof/Machine/Collective.lean ====
section
/-! DEFINITION. Collectives (R340 to R354, R363): COLL, the collective walker, the switches of a group's tree with their reduction contexts, and the
delivery of blocks at this package. -/

namespace Sys2Proof.Machine

/-! ## Records (R342, R343) -/

/-- The collective record of 256 bytes. -/
def parseColl (r : Nat) : CollRec :=
  let w := recWord r
  { op := fieldOf (w 0) 0 3, rop := fieldOf (w 0) 3 2, mire := bitOf (w 0).toNat 5, int64 := bitOf (w 0).toNat 6, order := bitOf (w 0).toNat 7,
    group := fieldOf (w 0) 8 16, collid := BitVec.ofNat 32 (fieldOf (w 0) 32 32), x := sextN (fieldOf (w 1) 0 16) 16,
    timeout := fieldOf (w 1) 16 16, root := fieldOf (w 1) 32 13, len := fieldOf (w 2) 0 32, pbase := fieldOf (w 2) 32 13,
    src := w 3, dst := w 4, cnta := w 5, stat := w 6, cidx := fieldOf (w 7) 0 8, cen := bitOf (w 7).toNat 8,
    levels := (List.range 6).map fun l =>
      (fieldOf (w (8 + 2 * l)) 0 32, sextN (fieldOf (w (8 + 2 * l)) 32 16) 16, sextN (fieldOf (w (9 + 2 * l)) 0 32) 32,
       sextN (fieldOf (w (9 + 2 * l)) 32 32) 32) }

/-- An endpoint meets R281 with an alignment. -/
def endpointOk (s : State) (core : Nat) (e : Word) (align : Nat) : Bool := !endpointBad s core e && fieldOf e 0 32 % align == 0

/-- A record breaks R342, R281 or the checks of R363 that need no other state than the groups. -/
def collBad (s : State) (core part : Nat) (r : Nat) (c : CollRec) : Bool :=
  let w := recWord r
  let red := c.op == 2
  2 < c.op || (if red then c.rop == 3 else c.rop != 0 || c.int64) || fieldOf (w 0) 24 8 != 0 || fieldOf (w 1) 45 19 != 0 ||
  fieldOf (w 2) 45 19 != 0 || fieldOf (w 7) 9 55 != 0 || ((List.range 6).any fun l => fieldOf (w (8 + 2 * l)) 48 16 != 0) ||
  ((List.range 12).any fun i => w (20 + i) != 0) ||
  c.len == 0 || c.len % 256 != 0 || 65536 < c.len || (c.levels.any fun (_, _, ss, ds) => ss % 256 != 0 || ds % 256 != 0) ||
  (red && c.mire && c.timeout == 0) ||
  (match tfind s.groups c.group with
    | some g => g.part != part || !g.members.contains s.pkg
    | none => true) ||
  ((c.op != 1 || c.root == s.pkg) && !endpointOk s core c.src 16) || !endpointOk s core c.dst 16 ||
  (red && c.cnta != 0 && !endpointOk s core c.cnta 4) || (c.stat != 0 && !endpointOk s core c.stat 16)

/-- Transfers of a record: the product of its bounds. -/
def transfers (c : CollRec) : Nat := c.levels.foldl (fun n (b, _) => n * max b 1) 1

/-- Blocks of a transfer. -/
def blocksPer (c : CollRec) : Nat := c.len / 256

/-- Blocks of a record. -/
def totalBlocks (c : CollRec) : Nat := transfers c * blocksPer c

/-- The index vector of transfer t, last level first. -/
def indexDown : List (Nat × Int × Int × Int) → Nat → List Nat
  | [], _ => []
  | (b, _) :: rest, t => t % max b 1 :: indexDown rest (t / max b 1)

/-- The sum over the levels of index times a step, for transfer t; level 5 varies fastest. -/
def stepSum (c : CollRec) (step : Nat × Int × Int × Int → Int) (t : Nat) : Int :=
  ((indexDown c.levels.reverse t).zip c.levels.reverse).foldl (fun n (i, l) => n + i * step l) 0

/-- Source displacement of global block f. -/
def srcDisp (c : CollRec) (f : Nat) : Int := stepSum c (fun l => l.2.2.1) (f / blocksPer c) + 256 * (f % blocksPer c)

/-- Destination displacement of global block f; 64-bit results take 512 bytes a block. -/
def dstDisp (c : CollRec) (f : Nat) : Int :=
  stepSum c (fun l => l.2.2.2) (f / blocksPer c) + (if c.op = 2 ∧ c.int64 then 512 else 256) * (f % blocksPer c)

/-- The peer of a PUT block (R343). -/
def peerOf (s : State) (c : CollRec) (f : Nat) : Nat :=
  (((c.pbase : Int) + stepSum c (fun l => l.2.1) (f / blocksPer c)) % (s.dsize : Int)).toNat

/-- The fields that the top switch compares (R351) agree. -/
def recordsAgree (a b : CollRec) : Bool :=
  a.op == b.op && a.rop == b.rop && a.mire == b.mire && a.int64 == b.int64 && a.group == b.group && a.x == b.x && a.timeout == b.timeout &&
  a.len == b.len && a.root == b.root && a.levels.map (·.1) == b.levels.map (·.1)

/-! ## Walkers, jobs and live collectives -/

/-- A walker queue. -/
def getWalker (s : State) (d p : Nat) : Walker := tget {} (getDie s d).walkers p
/-- Replace a walker queue. -/
def setWalker (s : State) (d p : Nat) (w : Walker) : State :=
  let y := getDie s d
  setDie s d { y with walkers := tput y.walkers p w }

/-- Change the job with a ticket. -/
def updJob (s : State) (d p ticket : Nat) (f : CollJob → CollJob) : State :=
  let w := getWalker s d p
  setWalker s d p { w with jobs := w.jobs.map fun j => if j.owner.ticket = ticket then f j else j }

/-- Change every job of this package with a collective identifier that takes part in a reduction or broadcast. -/
def updMembers (s : State) (collid : BitVec 32) (f : CollJob → CollJob) : State :=
  { s with dies := s.dies.map fun (d, y) => (d, { y with walkers := y.walkers.map fun (p, w) =>
      (p, { w with jobs := w.jobs.map fun j => if j.record.collid = collid ∧ j.record.op ≠ 0 then f j else j }) }) }

/-- The live collective with an identifier. -/
def liveColl (s : State) (collid : BitVec 32) : Option LiveColl := s.colls.find? fun c => c.collid == collid && !c.finished

/-- Change the live collective with an identifier. -/
def updColl (s : State) (collid : BitVec 32) (f : LiveColl → LiveColl) : State :=
  { s with colls := s.colls.map fun c => if c.collid = collid ∧ !c.finished then f c else c }

/-- The switches of a group's tree (R341). -/
def treeOf (g : Group) : List Nat := g.top :: g.leaves.map (·.1)

/-- Release the contexts of a collective on every switch (R341). -/
def releaseColl (s : State) (collid : BitVec 32) : State :=
  updColl { s with switches := s.switches.map fun (n, w) => (n, { w with live := w.live.filter (· != collid) }) } collid
    fun c => { c with finished := true }

/-- Blocks of a broadcast whose flit will leave the switches. -/
def flitsDue (c : LiveColl) : Nat := c.cut.getD (totalBlocks c.record)

/-- A broadcast whose last flit has left the switch gives its contexts back (R341). -/
def settleColl (s : State) (collid : BitVec 32) : State := match liveColl s collid with
  | some c => if c.admitted && c.record.op == 1 && decide (flitsDue c ≤ c.sent.length) then releaseColl s collid else s
  | none => s

/-- A block of a broadcast leaves the switch towards this package. -/
def sendBlock (s : State) (collid : BitVec 32) (blk : Nat) : State :=
  settleColl (updColl s collid fun c => { c with sent := if c.sent.contains blk then c.sent else blk :: c.sent }) collid

/-- The job is this package's part of the live collective with its identifier. -/
def partOfLive (s : State) (j : CollJob) : Option LiveColl :=
  if j.record.op = 0 || j.failed.isSome then none
  else (liveColl s j.record.collid).bind fun c => if c.group = j.record.group then some c else none

/-- A job stops short. A collective goes on at its switches; of a broadcast with its root here, no flit follows those that were emitted. -/
def cutColl (s : State) (j : CollJob) : State := match partOfLive s j with
  | some c => if c.record.op = 1 ∧ c.record.root = s.pkg ∧ !j.emitted then
      settleColl (updColl s c.collid fun c => { c with cut := some j.block }) c.collid else s
  | none => s

/-- A job ends as step 4 of R378 ends it: the switches end a reliable collective, and a mire one goes on without the job's later blocks (R350). -/
def endColl (s : State) (j : CollJob) : State := match partOfLive s j with
  | some c => if c.record.mire then cutColl s j else releaseColl s c.collid
  | none => s

/-- A member asks for admission (R352): the collective is pending from the first on. Records that disagree end every member's job with
RESULT 1, and so does an identifier that is live with another group for its later issuer (R351). -/
def askAdmission (s : State) (j : CollJob) : State × CollJob :=
  let c := j.record
  if c.op = 0 then (s, j)
  else
    match liveColl s c.collid with
    | none =>
      let n : LiveColl := { group := c.group, collid := c.collid, record := c, admitted := false, ends := [], firstContribution := none,
                            allTimers := none, closed := 0, finished := false }
      ({ s with colls := s.colls.filter (fun o => o.collid != c.collid) ++ [n],
                switches := s.switches.map fun (i, w) => (i, { w with blocks := w.blocks.filter fun b => b.collid != c.collid }) }, j)
    | some o =>
      if o.group ≠ c.group then (s, { j with failed := some 1 })
      else if !recordsAgree o.record c then
        (releaseColl (updMembers s c.collid fun k => { k with failed := some 1 }) c.collid, { j with failed := some 1 })
      else (s, { j with admitted := o.admitted })

/-- What S waits for before it reads a record of n bytes: the tracker, its own stores to them and the values of its atomics (R258, R295, R319). -/
def recordHeld (s : State) (a n : Nat) : Bool :=
  acqPending s s.cur.1 || !atomicsReturned (curCtx s) || trackerHit s a n none || ownStorePending s a n

/-- The virtual ranges that a collective job touches: its transfers, its count words and its status record (R319). -/
def collRanges (s : State) (c : CollRec) : List (Nat × Nat) :=
  let at' (e : Word) (disp : Int) (n : Nat) : List (Nat × Nat) := if (endpointSram e).isSome || e = 0 then [] else [(zextI ((fieldOf e 0 56 : Int) + disp) 64, n)]
  let wide := if c.op = 2 ∧ c.int64 then 2 else 1
  at' c.stat 0 16 ++ at' c.cnta 0 (4 * totalBlocks c) ++
  (List.range (transfers c)).flatMap fun t =>
    at' c.src (srcDisp c (t * blocksPer c)) c.len ++ if c.op = 0 ∧ peerOf s c (t * blocksPer c) ≠ s.pkg then [] else at' c.dst (dstDisp c (t * blocksPer c)) (wide * c.len)

/-- A live tracker entry covers a granule that a collective job touches. -/
def collTracked (s : State) (c : CollRec) : Bool :=
  !(getCore s s.cur.1).tracker.isEmpty && (collRanges s c).any fun (b, n) => trackerHit s b n none

/-- Jobs of a walker queue: those whose emission has not ended (R353). -/
def queued (w : Walker) : Nat := w.jobs.countP fun j => !j.emitted && j.failed.isNone

/-- COLL (R363): the record is checked, and the job enters the queue of its partition on its die; a full queue blocks S. -/
def execColl (d : Reg) (e : Addr) (s : State) : Res :=
  let a := effAddr s e
  let die := curDie s
  let part := curPart s
  if a % 64 ≠ 0 then fault causeAlignment a s
  else if recordHeld s a 256 then block .other s
  else
    let s := ownStoresSeen s a 256
    match readRecord s a 256 with
    | .error (c, g) => stopRecord s a 256 c g
    | .ok r =>
      let c := parseColl r
      let w := getWalker s die part
      let late := match w.lastCollid with
        | some l => c.collid.toNat ≤ l.toNat
        | none => false
      if collBad s s.cur.1 part r c || late then fault causeCard 0 s
      else if 8 ≤ queued w then block .job s
      else if collTracked s c then block .other s
      else
        let j : CollJob := { owner := newOwner s, record := c, admitted := false, block := 0, emitted := false, landed := [], lost := 0,
                             failed := none, stopped := none, after := (curCtx s).sissued }
        let (t, j) := askAdmission (afterRecord s a 256) j
        let w := getWalker t die part
        .next (finish 2 1 (giveTicket (setWalker t die part { w with jobs := w.jobs ++ [j], lastCollid := some c.collid }) d false))

/-! ## Admission (R352) -/

/-- A pending collective needs a context on one of these switches. -/
def needsOne (s : State) (c : LiveColl) (tree : List Nat) : Bool :=
  match tfind s.groups c.group with
  | some g => (treeOf g).any tree.contains
  | none => false

/-- Every switch of a tree has a free context and no pending collective with a lower identifier needs one of them. -/
def mayAdmit (s : State) (c : LiveColl) (tree : List Nat) : Bool :=
  (tree.all fun n => (tget {} s.switches n).live.length < Config.reductionContexts) &&
  s.colls.all fun o => o.finished || o.admitted || c.collid.toNat ≤ o.collid.toNat || !needsOne s o tree

/-- Reserve a context of every switch of a tree. -/
def reserve (s : State) (tree : List Nat) (collid : BitVec 32) : State :=
  { s with switches := tree.foldl (fun t n => tupd {} t n (fun w => { w with live := collid :: w.live })) s.switches }

/-- COLLECTIVE_ADMISSION: all contexts are reserved in one step. Whether the records of members in other packages agree (R351) is theirs
to know: a free choice. -/
def execCollectiveAdmission (group : Nat) (collid : BitVec 32) (s : State) : Res :=
  match liveColl s collid, tfind s.groups group with
  | some c, some g =>
    if c.group ≠ group || c.admitted || !mayAdmit s c (treeOf g) then .next s
    else
      let t := updColl (updMembers (reserve s (treeOf g) collid) collid fun j => { j with admitted := true }) collid fun c => { c with admitted := true }
      if (g.members.any (· != s.pkg)) && Config.freeBool s.freeCtr then
        .next (takeFree (releaseColl (updMembers t collid fun j => { j with failed := some 1 }) collid) 1)
      else .next (takeFree t 1)
  | _, _ => .next s

/-! ## Emission (R343 to R345, R353) -/

/-- The S accesses of the issuing core that COLL orders before its job are visible (R363). -/
def earlierSeen (s : State) (j : CollJob) : Bool :=
  let c := j.owner.core
  (contextsOf s c).all (fun x => match x.cell with
    | some e => e.part != j.owner.part || e.serial != j.owner.serial || x.sacc.all fun a => j.after ≤ a.num || visibleAt s c .core a
    | none => true) &&
  (getCore s c).tracker.all fun t => t.serial != j.owner.serial || match t.acc with
    | some a => j.after ≤ a.num || visibleAt s c .core a
    | none => true

/-- Stop a job on a fault (R363): RESULT 3. -/
def stopColl (s : State) (d p : Nat) (j : CollJob) (cause : BitVec 8) (eaddr : Nat) : State :=
  let info : StopInfo := { cause := cause, eaddr := BitVec.ofNat 56 eaddr, fpc := j.owner.fpc, parcels := j.owner.parcels, imprecise := true }
  jobFault (updJob (cutColl s j) d p j.owner.ticket fun j => { j with failed := some 3, stopped := some info }) j.owner cause 7

/-- The pieces of n bytes at a displacement from an endpoint of a job, for the walker or receive unit of a die. -/
def collPieces (s : State) (d : Nat) (j : CollJob) (e : Word) (disp : Int) (n : Nat) (need : Need) (who : Translator) : Try (List Piece) :=
  endpointPieces s d j.owner.part j.owner.serial e disp n need (some who)

/-- The tokens of an access of a job, with those of its walks (R376). -/
def collDemand (s : State) (d : Nat) (j : CollJob) (e : Word) (disp : Int) (n : Nat) (who : Translator) (ps : List Piece) : Demand :=
  if (endpointSram e).isSome then tokensOf s ps else engineDemand s d j.owner.part (zextI ((fieldOf e 0 56 : Int) + disp) 64) n (some who) ps

/-- What an access of a job to n bytes leaves behind: the translations, and an offset beyond the buffer (R227, R382). The manual gives no AGENT code for the
collective walker and the receive unit: a free value (log entry 99). -/
def collTouch (s : State) (d : Nat) (j : CollJob) (e : Word) (disp : Int) (n : Nat) (who : Translator) (ps : List Piece) (read : Bool) : State :=
  match endpointSram e with
  | some (c, k, _) => match firstBeyond ps with
    | some o => takeFree (recordHoor s c j.owner.serial o k read (bits (freeW s).toNat 2 0)) 1
    | none => s
  | none => cacheAccess s d j.owner.part (zextI ((fieldOf e 0 56 : Int) + disp) 64) n (some who)

/-- The 64 words of a block from its granules. -/
def granuleWords (gs : List (Granule × Bool)) : List Int :=
  let (byte, _) := granuleBytes gs
  (List.range 64).map fun e => ((ofBytes (fun i => byte (4 * e + i)) 4 : Nat) : Int)

/-- The block f that a job reads from its source, once there are the tokens of the read and those of what follows. -/
def readBlock (s : State) (d : Nat) (j : CollJob) (f : Nat) (more : Demand) : Try (State × WireBlock) :=
  match collPieces s d j j.record.src (srcDisp j.record f) 256 { rd := true } (.walker d) with
  | .wait t => .wait t
  | .stop t c g => .stop t c g
  | .ok ps =>
    let dm := addDemand (collDemand s d j j.record.src (srcDisp j.record f) 256 (.walker d) ps) ((fabricBucket j.owner.part d, flitTokens) :: more)
    if !demandReady s dm then .wait (awaitDemand s dm)
    else
    match engineSource s d ps false with
    | .error (c, g) => .stop (collTouch s d j j.record.src (srcDisp j.record f) 256 (.walker d) ps true) c g
    | .ok gs =>
      let ok := gs.all fun g => !g.2
      let t := takeBucket (countReads (collTouch s d j j.record.src (srcDisp j.record f) 256 (.walker d) ps true) ps) (fabricBucket j.owner.part d) flitTokens
      .ok (takeFree t 32,
        { collid := j.record.collid, blk := f, count := if ok ∧ j.record.op = 2 then 1 else 0, valid := ok,
          payload := if ok then granuleWords gs else List.replicate 64 0 })

/-- The leaf integers of a contribution (R345). -/
def leafInts (l : List Int) : List Int := (List.range 64).map fun e => sextN ((l.getD e 0).toNat % 2 ^ 24) 24

/-- The first switch of a package's flits in a group. -/
def firstSwitch (s : State) (g : Group) : Nat :=
  match g.leaves.find? fun l => l.2.contains s.pkg with
  | some l => l.1
  | none => g.top

/-- The bytes of a block of 64 32-bit words. -/
def wordsBytes (l : List Int) : Nat → Byte := fun i => BitVec.ofNat 8 ((zextI (l.getD (i / 4) 0) 32) >>> (8 * (i % 4)))

/-- The die that holds the first granule of a destination, whose receive unit writes it (R346); d where it is in no die of this package. -/
def holderDie (d : Nat) (ps : List Piece) : Nat := match ps with
  | p :: _ => match p.loc with
    | .sram c _ _ => dieOfCluster c
    | l => locDie d l
  | [] => d

/-- A granule at a displacement from an endpoint is one of the job's own source bytes: as a destination it is undefined (R344). -/
def ownSource (c : CollRec) (e : Word) (disp : Int) : Bool :=
  (List.range (totalBlocks c)).any fun f => (List.range 16).any fun k =>
    let x := srcDisp c f + 16 * k
    match endpointSram e, endpointSram c.src with
    | some (p, m, o), some (q, n, b) => p == q && m == n && zextI ((o : Int) + disp) 64 == zextI ((b : Int) + x) 64
    | none, none => zextI ((fieldOf e 0 56 : Int) + disp) 64 == zextI ((fieldOf c.src 0 56 : Int) + x) 64
    | _, _ => false

/-- The bytes of a destination block, free in the granules that undef names. -/
def blockBytesAt (s : State) (undef : Nat → Bool) (byte : Nat → Byte) (i : Nat) : Byte :=
  if undef (i / 16) then granuleByte (Config.freeGranule (s.freeCtr + i / 16)) (i % 16) else byte i

/-- Where a data block goes at a virtual address of a partition: the die that holds the destination, whose receive unit writes it (R346), the pieces and
their tokens. A page not present waits; another fault drops the block. -/
def putTarget (s : State) (d p a : Nat) : Try (Nat × List Piece × Demand) :=
  match engineResolve s d p a 256 { wr := true } with
  | .wait t => .wait t
  | .stop t c g => .stop t c g
  | .ok qs =>
    let h := holderDie d qs
    match engineResolve s h p a 256 { wr := true } (some (.receive h)) with
    | .wait t => .wait t
    | .stop t c g => .stop t c g
    | .ok ps =>
      let dm := engineDemand s h p a 256 (some (.receive h)) ps
      if writeWaits s ps then .wait (awaitDemand s dm) else .ok (h, ps, dm)

/-- Write a data block at a virtual address of a partition by the receive unit of die h; a machine fault drops it. The flag says that it is dropped or
lost; undef names granules of it that end undefined. -/
def putBlock (s : State) (h p a : Nat) (ps : List Piece) (b : WireBlock) (lost : Bool) (undef : Nat → Bool) : State × Bool :=
  let bad := lost || !b.valid
  let s := cacheAccess s h p a 256 (some (.receive h))
  match writeAccess s ps (blockBytesAt s undef (if bad then fun _ => 0 else wordsBytes b.payload)) (fun _ => bad) .none true (clockVector s h []) with
  | .error _ => (s, true)
  | .ok (t, _) => (takeFree t 32, bad)

/-- Where a PUT block goes in this package: the die whose receive unit writes it, the virtual address and the pieces. -/
structure PutHere where
  die : Nat
  addr : Nat
  pieces : List Piece

/-- What a block that the walker pushes meets before it leaves: a PUT to this package resolves its destination, and where that fails drops the block
(R344). -/
def pushTarget (s : State) (d : Nat) (j : CollJob) (g : Group) (f : Nat) : Try (State × Option PutHere × Demand) :=
  let c := j.record
  let a := zextI ((fieldOf c.dst 0 56 : Int) + dstDisp c f) 64
  if c.op ≠ 0 || peerOf s c f ≠ s.pkg || !g.members.contains s.pkg || (endpointSram c.dst).isSome then .ok (s, none, [])
  else
    match putTarget s d g.part a with
    | .wait t => .wait t
    | .stop t _ _ => .ok (t, none, [])
    | .ok (h, ps, dm) => .ok (s, some { die := h, addr := a, pieces := ps }, dm)

/-- A flit that no trained port or sealed route takes (R393): a mire one is lost, a reliable one is the machine fault (R338). -/
def noRoute (s : State) (mire : Bool) : Try (State × Bool) := if mire then .ok (s, true) else .stop s causeFabric 0

/-- Push a block: a contribution to the first switch, a broadcast block to the members, a PUT block to its peer (R344). The flag says that the block
is dropped or lost on the way; of a peer in another package that is a free choice. -/
def pushBlock (s : State) (j : CollJob) (g : Group) (f : Nat) (b : WireBlock) (here : Option PutHere) : Try (State × Bool) :=
  let c := j.record
  if c.op = 2 then
    if s.mgmt.ports.isEmpty then (match noRoute s c.mire with
      | .ok (t, _) => .ok (t, false)
      | x => x)
    else .ok ({ s with fabricOut := s.fabricOut ++ [.contribution (firstSwitch s g) s.pkg { b with payload := leafInts b.payload }] }, false)
  else if c.op = 1 then
    if s.mgmt.ports.isEmpty then noRoute s c.mire else .ok ({ s with fabricOut := s.fabricOut ++ [.data b] }, false)
  else
    let peer := peerOf s c f
    let a := zextI ((fieldOf c.dst 0 56 : Int) + dstDisp c f) 64
    if !g.members.contains peer || (endpointSram c.dst).isSome then .ok (s, true)
    else if peer = s.pkg then
      match here with
      | some x => .ok (putBlock s x.die g.part x.addr x.pieces b false fun k => g.part == j.owner.part && ownSource c c.dst (dstDisp c f + 16 * k))
      | none => .ok (s, true)
    else if !routed s peer then noRoute s c.mire
    else .ok (takeFree { s with fabricOut := s.fabricOut ++ [.put c.group peer a b] } 1, !b.valid || Config.freeBool s.freeCtr)

/-- The walker reads the next block of a job and pushes it (R353). -/
def emitBlock (s : State) (d : Nat) (j : CollJob) (g : Group) : Try (State × Bool) :=
  match pushTarget s d j g j.block with
  | .wait t => .wait t
  | .stop t c a => .stop t c a
  | .ok (t, here, more) =>
    match readBlock t d j j.block more with
    | .wait u => .wait u
    | .stop u c a => .stop u c a
    | .ok (u, b) => pushBlock u j g j.block b here

/-- A PUT block goes to a peer in another package, whose home performs it (R347). -/
def goesFar (s : State) (c : CollRec) (g : Group) (f : Nat) (dropped : Bool) : Bool :=
  c.op == 0 && !dropped && peerOf s c f != s.pkg && g.members.contains (peerOf s c f)

/-- A job has nothing to emit: the members of a broadcast besides its root. -/
def silent (s : State) (c : CollRec) : Bool := c.op == 1 && c.root != s.pkg

/-- The head job of a queue: the oldest whose emission has not ended, with what stands before it. -/
def headJob (w : Walker) : Option (Nat × CollJob) :=
  match w.jobs.findIdx? fun j => !j.emitted && j.failed.isNone with
  | some i => (w.jobs[i]?).map fun j => (i, j)
  | none => none

/-- The job that a partition's queue may emit a block of now, with its group: its head job, admitted, ORDER holding, and S's earlier writes visible
(R353, R363). -/
def emitJob (s : State) (die part : Nat) : Option (CollJob × Group) :=
  let w := getWalker s die part
  match headJob w with
  | none => none
  | some (i, j) =>
    if w.halted || !partLive s part || (getDie s die).fenced || (j.record.op ≠ 0 && !j.admitted) || (j.record.order && i ≠ 0) || !earlierSeen s j then none
    else (tfind s.groups j.record.group).map fun g => (j, g)

/-- A queue's head job is ready to emit: nothing of its next block waits. -/
def readyToEmit (s : State) (die part : Nat) : Bool :=
  match emitJob s die part with
  | none => false
  | some (j, g) => silent s j.record || match emitBlock s die j g with
    | .wait _ => false
    | _ => true

/-- Another partition's queue comes before this one's in the walker's round (R353). -/
def otherFirst (s : State) (die part : Nat) : Bool :=
  let last := (getDie s die).lastEmit
  (((List.range 8).map fun k => (last + 1 + k) % 8).takeWhile (· != part)).any (readyToEmit s die)

/-- A job after the emission of its next block. -/
def blockEmitted (j : CollJob) (far dropped : Bool) : CollJob :=
  { j with block := j.block + 1, emitted := decide (totalBlocks j.record ≤ j.block + 1), lost := if dropped then j.lost + 1 else j.lost,
           landed := if j.record.op = 0 ∧ !far then j.block :: j.landed else j.landed }

/-- BLOCK_EMIT (R353): the head job of a queue emits its next block, when it is the queue's turn among those that are ready. A PUT block in this package
lands at once; one that is dropped is awaited no more. -/
def execBlockEmit (die part : Nat) (s : State) : Res :=
  match emitJob s die part with
  | none => .next s
  | some (j, g) =>
    let c := j.record
    if silent s c then .next (if otherFirst s die part then s else updJob s die part j.owner.ticket fun j => { j with emitted := true })
    else
      match emitBlock s die j g with
      | .wait t => .next t
      | r =>
        if otherFirst s die part then .next s
        else
          match r with
          | .wait t => .next t
          | .stop t e a => .next (stopColl t die part j e a)
          | .ok (u, dropped) =>
            let u := updJob u die part j.owner.ticket (blockEmitted · (goesFar s c g j.block dropped) dropped)
            .next (progress (setDie u die { getDie u die with lastEmit := part }) j.owner)

/-! ## Switches (R346, R349) -/

/-- The children of a switch in a group's tree. -/
def childrenOf (g : Group) (sw : Nat) : List Nat :=
  if sw = g.top then (if g.leaves.isEmpty then g.members else g.leaves.map (·.1))
  else
    match g.leaves.find? fun l => l.1 == sw with
    | some l => l.2
    | none => []

/-- The switch ALU combines two elements (R346). -/
def combine (rop : Nat) (a b : Int) : Int := if rop = 0 then a + b else if rop = 1 then max a b else min a b

/-- A block in a context, empty before its first contribution. -/
def switchBlock (w : Switch) (collid : BitVec 32) (blk : Nat) : SwBlock :=
  match w.blocks.find? fun b => b.collid == collid && b.blk == blk with
  | some b => b
  | none => { collid := collid, blk := blk, count := 0, acc := [], arrived := [], timer := none, closed := false }

/-- Replace a block of a switch. -/
def putSwBlock (s : State) (sw : Nat) (b : SwBlock) : State :=
  let w : Switch := tget {} s.switches sw
  let w' : Switch := { w with blocks := w.blocks.filter (fun o => !(o.collid == b.collid && o.blk == b.blk)) ++ [b] }
  { s with switches := tput s.switches sw w' }

/-- The payload of a combined block. -/
def blockPayload (b : SwBlock) : List Int := if b.acc.isEmpty then List.replicate 64 0 else b.acc

/-- A context closes a block and forwards it: up from a leaf switch, down as the result from the top. With its last block closed at the top, the
collective leaves its switches. -/
def closeBlock (s : State) (c : LiveColl) (g : Group) (sw : Nat) (b : SwBlock) : State :=
  let s := putSwBlock s sw { b with closed := true }
  let out : WireBlock := { collid := c.collid, blk := b.blk, count := b.count, valid := true, payload := blockPayload b }
  if sw = g.top then
    let s := updColl { s with fabricOut := s.fabricOut ++ [.result out] } c.collid fun c => { c with closed := c.closed + 1 }
    if totalBlocks c.record ≤ c.closed + 1 then releaseColl s c.collid else s
  else { s with fabricOut := s.fabricOut ++ [.contribution g.top sw { out with valid := b.count != 0 }] }

/-- Count a straggler at a switch (R349). -/
def countLate (s : State) (sw group : Nat) : State :=
  let w : Switch := tget {} s.switches sw
  { s with switches := tput s.switches sw { w with late := tupd 0 w.late group (· + 1) } }

/-- What the fabric carries of a contribution: a child in this package or a switch has sent the block, a member of another package sends leaf integers. -/
def takeContribution (s : State) (sw child : Nat) (own : Bool) (b : WireBlock) : Option (State × WireBlock) :=
  if own then
    if s.fabricOut.contains (.contribution sw child b) then some ({ s with fabricOut := s.fabricOut.erase (.contribution sw child b) }, b) else none
  else some (s, { b with count := if b.valid then 1 else 0, payload := leafInts b.payload })

/-- A block after a contribution: an absent one adds neither data nor COUNT. -/
def addContribution (s : State) (c : CollRec) (child : Nat) (b : SwBlock) (w : WireBlock) : SwBlock :=
  let b := { b with arrived := child :: b.arrived, timer := if c.mire && b.timer.isNone then some s.cycle else b.timer }
  if !w.valid then b
  else { b with count := b.count + w.count,
                acc := if b.acc.isEmpty then w.payload else (b.acc.zip w.payload).map fun (x, y) => combine c.rop x y }

/-- Height of a switch in a group's tree (R349). -/
def heightOf (g : Group) (sw : Nat) : Nat := if sw = g.top ∧ !g.leaves.isEmpty then 2 else 1

/-- The cycle at which the top switch started the timer of every block: with the markers of every member, or 2 × TIMEOUT × 1,024 cycles after the first
contribution (R349). -/
def allTimersOf (s : State) (c : LiveColl) : Option Nat :=
  match c.allTimers, c.firstContribution with
  | some t, _ => some t
  | none, some f => if f + 2 * c.record.timeout * 1024 ≤ s.cycle then some (f + 2 * c.record.timeout * 1024) else none
  | none, none => none

/-- The cycle at which the timer of a block started: its own, or at the top switch the one that started every timer. -/
def timerOf (s : State) (c : LiveColl) (g : Group) (sw : Nat) (b : SwBlock) : Option Nat :=
  match b.timer, (if sw = g.top then allTimersOf s c else none) with
  | some a, some b => some (min a b)
  | some a, none => some a
  | none, x => x

/-- The cycle in which a mire block closes whatever has arrived (R349). -/
def blockLimit (s : State) (c : LiveColl) (g : Group) (sw : Nat) (b : SwBlock) : Option Nat :=
  if c.record.mire then (timerOf s c g sw b).map fun t => t + heightOf g sw * c.record.timeout * 1024 else none

/-- A block whose limit has passed is closed. -/
def closeExpired (s : State) (c : LiveColl) (g : Group) (sw : Nat) (b : SwBlock) : State :=
  match blockLimit s c g sw b with
  | some t => if t < s.cycle && !b.closed && !c.finished then closeBlock s c g sw b else s
  | none => s

/-- SWITCH_CONTRIBUTION (R346, R349): a contribution that comes after its block's limit finds it closed. -/
def execSwitchContribution (switch child : Nat) (b : WireBlock) (s : State) : Res :=
  match s.colls.find? fun c => c.collid == b.collid with
  | none => .next s
  | some c =>
    match tfind s.groups c.group with
    | none => .next s
    | some g =>
      let upper := switch = g.top ∧ !g.leaves.isEmpty
      if !c.admitted || c.record.op ≠ 2 || !(childrenOf g switch).contains child || totalBlocks c.record ≤ b.blk then .next s
      else
        match takeContribution s switch child (upper || child = s.pkg) b with
        | none => .next s
        | some (t, w) =>
          let t := closeExpired t c g switch (switchBlock (tget {} t.switches switch) b.collid b.blk)
          let k := switchBlock (tget {} t.switches switch) b.collid b.blk
          if k.closed || c.finished then .next (countLate t switch c.group)
          else if k.arrived.contains child then .next t
          else
            let k := addContribution t c.record child k w
            let t := if switch = g.top && c.firstContribution.isNone then updColl t b.collid fun c => { c with firstContribution := some t.cycle } else t
            if (childrenOf g switch).all k.arrived.contains then .next (closeBlock t c g switch k) else .next (putSwBlock t switch k)

/-- SWITCH_BLOCK_TIMEOUT (R349): the timer of a block reaches its limit, and the block closes with what has arrived. -/
def execSwitchBlockTimeout (switch : Nat) (collid : BitVec 32) (blk : Nat) (s : State) : Res :=
  match liveColl s collid with
  | none => .next s
  | some c =>
    match tfind s.groups c.group with
    | none => .next s
    | some g =>
      let k := switchBlock (tget {} s.switches switch) collid blk
      if !c.admitted || c.record.op ≠ 2 || !c.record.mire || !(treeOf g).contains switch || totalBlocks c.record ≤ blk || k.closed then .next s
      else
        match blockLimit s c g switch k with
        | none => .next s
        | some t => .next (closeBlock { s with cycle := max s.cycle t } c g switch k)

/-- This package's walker has ended the emission of its job of a collective, so it sends its end marker. -/
def emissionOver (s : State) (collid : BitVec 32) : Bool :=
  s.dies.any fun (_, y) => y.walkers.any fun (_, w) => w.jobs.any fun j => j.record.collid == collid && j.record.op != 0 && j.emitted

/-- END_MARKER (R349): with the markers of every member, the top switch starts every timer that has not started. -/
def execEndMarker (collid : BitVec 32) (member : Nat) (s : State) : Res :=
  match liveColl s collid with
  | none => .next s
  | some c =>
    match tfind s.groups c.group with
    | none => .next s
    | some g =>
      if !c.admitted || !g.members.contains member || c.ends.contains member || (member = s.pkg && !emissionOver s collid) then .next s
      else
        let ends := member :: c.ends
        let all := g.members.all ends.contains && c.record.mire
        let t := allTimersOf s c
        .next (updColl s collid fun c => { c with ends := ends, allTimers := if all && t.isNone then some s.cycle else t })

/-- TOP_SWITCH_TIMER_START (R349): 2 × TIMEOUT × 1,024 cycles after the first contribution, every timer that has not started starts; CYCLE is not earlier. -/
def execTopSwitchTimerStart (collid : BitVec 32) (s : State) : Res :=
  match liveColl s collid with
  | none => .next s
  | some c =>
    match c.firstContribution with
    | none => .next s
    | some f =>
      if !c.record.mire || c.record.op ≠ 2 || c.allTimers.isSome then .next s
      else
        let t := f + 2 * c.record.timeout * 1024
        .next (updColl { s with cycle := max s.cycle t } collid fun c => { c with allTimers := some t })

/-! ## Delivery (R346, R348) -/

/-- The bytes of a block at its destination. -/
def resultBytes (c : CollRec) (b : WireBlock) : Nat → Byte :=
  if c.op ≠ 2 then wordsBytes b.payload
  else if c.int64 then fun i => BitVec.ofNat 8 ((zextI (b.payload.getD (i / 8) 0) 64) >>> (8 * (i % 8)))
  else
    let codes := b.payload.map fun r => ((roundDyadic .f32 .rne false (r < 0) r.natAbs c.x).1 : Int)
    wordsBytes codes

/-- Deliver a block to a member's job by the receive unit of die d: data, and the count word when CNTA is not 0. A lost block is zeros with its validity
cleared; destination bytes among the job's own source bytes are free (R344). -/
def deliverAt (s : State) (d : Nat) (j : CollJob) (g : Group) (b : WireBlock) (lost : Bool) : Try State :=
  let c := j.record
  let bad := lost || !b.valid
  let n := if c.op = 2 ∧ c.int64 then 512 else 256
  let undef (k : Nat) : Bool := (c.op != 1 || c.root == s.pkg) && ownSource c c.dst (dstDisp c b.blk + 16 * k)
  match collPieces s d j c.dst (dstDisp c b.blk) n { wr := true } (.receive d) with
  | .wait t => .wait t
  | .stop t e a => .stop t e a
  | .ok ps =>
    match (if c.op = 2 ∧ c.cnta ≠ 0 then collPieces s d j c.cnta (4 * b.blk) 4 { wr := true } (.receive d) else .ok []) with
    | .wait t => .wait t
    | .stop t e a => .stop t e a
    | .ok cs =>
      let dm := addDemand (addDemand (collDemand s d j c.dst (dstDisp c b.blk) n (.receive d) ps)
        (if cs.isEmpty then [] else collDemand s d j c.cnta (4 * b.blk) 4 (.receive d) cs)) [(fabricBucket j.owner.part d, flitTokens)]
      if !demandReady s dm || writeWaits s (ps ++ cs) then .wait (awaitDemand s dm)
      else
      let s := takeBucket (collTouch s d j c.dst (dstDisp c b.blk) n (.receive d) ps false) (fabricBucket j.owner.part d) flitTokens
      match writeAccess s ps (blockBytesAt s undef (if bad then fun _ => 0 else resultBytes c b)) (fun _ => bad) .none true (clockVector s d []) with
      | .error (e, a) => .stop s e a
      | .ok (t, _) =>
        let word := natBytes ((if bad then 0 else b.count) + g.members.length * 65536) 4
        let t := takeFree (if cs.isEmpty then t else collTouch t d j c.cnta (4 * b.blk) 4 (.receive d) cs false) 32
        match writeAccess t cs (fun i => word.getD i 0) (fun _ => false) .none true (clockVector t d []) with
        | .error (e, a) => .stop s e a
        | .ok (u, _) => .ok (takeFree u 32)

/-- The receive unit of the die that holds a block's destination delivers it (R346). -/
def deliverBlock (s : State) (d : Nat) (j : CollJob) (g : Group) (b : WireBlock) (lost : Bool) : Try State :=
  match collPieces s d j j.record.dst (dstDisp j.record b.blk) 256 { wr := true } (.receive d) with
  | .wait t => .wait t
  | .stop t e a => .stop t e a
  | .ok ps => deliverAt s (holderDie d ps) j g b lost

/-- The job of a partition that receives a block, with its die. -/
def receiver (s : State) (part : Nat) (b : WireBlock) : Option (Nat × CollJob) :=
  (List.range 4).findSome? fun d =>
    ((getWalker s d part).jobs.find? fun j => j.record.op != 0 && j.record.collid == b.collid && j.failed.isNone && j.admitted &&
      !j.landed.contains b.blk && b.blk < totalBlocks j.record).map fun j => (d, j)

/-- What the fabric brings of a block: the result that the top switch sent, the root's own block, or a block of a root in another package. -/
def takeBlock (s : State) (c : CollRec) (b : WireBlock) : Option State :=
  let out : Option FabricOut := if c.op = 2 then some (.result b) else if c.root = s.pkg then some (.data b) else none
  match out with
  | none => some s
  | some o => if s.fabricOut.contains o then some { s with fabricOut := s.fabricOut.erase o } else none

/-- A block of a broadcast that no job of the partition takes any more has left the switch all the same (R341). -/
def passBlock (s : State) (part : Nat) (b : WireBlock) : State := match liveColl s b.collid with
  | some c =>
    if c.record.op ≠ 1 || !c.admitted || totalBlocks c.record ≤ b.blk || !((tfind s.groups c.group).any fun g => g.part == part) then s
    else match takeBlock s c.record b with
      | some t => sendBlock t b.collid b.blk
      | none => s
  | none => s

/-- RESULT_BLOCK_DELIVERY (R344, R346, R348): a block reaches this package. Only the mire class loses blocks. -/
def execResultBlockDelivery (part : Nat) (lost : Bool) (put : Option PutDst) (b : WireBlock) (s : State) : Res :=
  if debugHeld s part then .next (holdFlit s part (.resultBlockDelivery part lost put b) (match put, receiver s part b with
    | none, some (_, j) => if j.record.mire then some (.resultBlockDelivery part true none b) else none
    | _, _ => none))
  else
  match put with
  | some q =>
    match tfind s.groups q.group, diesOf s part with
    | some g, d :: _ =>
      if g.part ≠ part || !g.members.contains s.pkg || s.dsize ≤ 1 || !partLive s part then .next s
      else
        match putTarget s d part q.dst with
        | .wait t => .next t
        | .stop t _ _ => .next t
        | .ok (h, ps, dm) =>
          let dm := addDemand dm [(fabricBucket part h, flitTokens)]
          if !demandReady s dm then .next (awaitDemand s dm)
          else .next (putBlock (takeBucket s (fabricBucket part h) flitTokens) h part q.dst ps b lost fun _ => false).1
    | _, _ => .next s
  | none =>
    match receiver s part b with
    | none => .next (passBlock s part b)
    | some (d, j) =>
      match tfind s.groups j.record.group, takeBlock s j.record b with
      | some g, some t =>
        if (lost && !j.record.mire) || !partLive s part || (getDie s d).fenced then .next s
        else
          match deliverBlock t d j g b lost with
          | .wait u => .next { u with fabricOut := s.fabricOut }
          | .stop u e a => .next (sendBlock (stopColl u d part j e a) b.collid b.blk)
          | .ok u =>
            let u := updJob u d part j.owner.ticket fun j =>
              { j with landed := b.blk :: j.landed, lost := if lost || !b.valid then j.lost + 1 else j.lost }
            .next (progress (sendBlock u b.collid b.blk) j.owner)
      | _, _ => .next s

/-! ## Completion (R347) -/

/-- A job is over: it has ended with an error, or its emission has ended and every block that it awaits has landed: the results, and of a PUT what it
wrote. -/
def collOver (j : CollJob) : Bool := j.failed.isSome || (j.emitted && decide (totalBlocks j.record ≤ j.landed.length))

/-- A PUT whose blocks in other packages have all left: the peers' homes may have performed them. -/
def putOut (j : CollJob) : Bool := j.record.op == 0 && j.failed.isNone && j.emitted && !collOver j

/-- The peers' homes have performed every block of a PUT (R347). -/
def putLanded (j : CollJob) : CollJob := { j with landed := List.range (totalBlocks j.record) }

/-- The 16-byte status record. -/
def collStatus (j : CollJob) : List Byte :=
  natBytes j.owner.ticket 4 ++ natBytes j.record.collid.toNat 4 ++ natBytes (j.failed.getD 0) 1 ++ List.replicate 3 (0 : Byte) ++
  natBytes (min j.lost 0xFFFFFFFF) 4

/-- Every update in flight is installed on every die (R299). -/
def allInstalled (s : State) : Bool := (List.range 4).all fun d => (getDie s d).fenced || (getDie s d).inbox.isEmpty

/-- Write a job's status record, if it has one. -/
def writeStatus (s : State) (d : Nat) (j : CollJob) : Try State :=
  if j.record.stat = 0 then .ok s
  else
    match collPieces s d j j.record.stat 0 16 { wr := true } (.walker d) with
    | .wait t => .wait t
    | .stop t e a => .stop t e a
    | .ok ps =>
      let dm := collDemand s d j j.record.stat 0 16 (.walker d) ps
      if !demandReady s dm || writeWaits s ps then .wait (awaitDemand s dm)
      else
      let s := collTouch s d j j.record.stat 0 16 (.walker d) ps false
      match writeAccess s ps (fun i => (collStatus j).getD i 0) (fun _ => false) .none true (clockVector s d []) with
      | .error (e, a) => .stop s e a
      | .ok (t, _) => .ok (takeFree t 32)

/-- A reliable collective with members in other packages, whose results have not all landed here: it ends when the partition of one of them is reset
(R350). -/
def abortable (s : State) (j : CollJob) : Bool :=
  j.record.op != 0 && !j.record.mire && !collOver j && match tfind s.groups j.record.group with
    | some g => g.members.any (· != s.pkg)
    | none => false

/-- The switches end a reliable collective in which a job of this package takes part: RESULT 2 (R350). -/
def abortColl (s : State) (collid : BitVec 32) : State :=
  releaseColl (updMembers s collid fun j => if collOver j then j else { j with failed := some 2 }) collid

/-- COLLECTIVE_COMPLETE (R347, R375): what the job wrote is visible everywhere before its signals. Where no job is over, a PUT's peers may have performed its
blocks, and a reset in another package may have ended a job: theirs to know, so free choices (R347, R350). -/
def execCollectiveComplete (die part : Nat) (s : State) : Res :=
  let w := getWalker s die part
  match w.jobs.find? collOver with
  | none =>
    match w.jobs.find? putOut, w.jobs.find? (abortable s) with
    | some j, _ => .next (takeFree (if Config.freePick s.freeCtr j.owner.ticket then updJob s die part j.owner.ticket putLanded else s) 1)
    | none, some j => .next (takeFree (if Config.freePick s.freeCtr j.owner.ticket then abortColl s j.record.collid else s) 1)
    | none, none => .next s
  | some j =>
    if !partLive s part || !allInstalled s then .next s
    else
      let close (t : State) : State :=
        let w := getWalker t die part
        let t := setWalker t die part { w with jobs := w.jobs.filter fun k => k.owner.ticket != j.owner.ticket }
        let t := if j.record.cen then addCounter t part j.record.cidx 1 else t
        if (j.failed.getD 0) ≠ 0 then setPirq t part 2 else t
      match writeStatus s die j with
      | .wait t => .next t
      | .stop t e a => if j.failed.isSome then .next (close t) else .next (stopColl t die part j e a)
      | .ok t => .next (close t)

/-- A collective's group is bound to a partition of this package. -/
def collOfPart (s : State) (part : Nat) (c : LiveColl) : Bool := match tfind s.groups c.group with
  | some g => g.part == part
  | none => false

/-- The switches end the reliable collectives of a member whose partition is reset; a mire collective goes on without its later contributions (R350):
this package's part of a group. -/
def leaveCollectives (s : State) (part : Nat) : State :=
  let gone := (s.colls.filter fun c => collOfPart s part c && !c.record.mire).map (·.collid)
  { s with colls := s.colls.map (fun c => if gone.contains c.collid then { c with finished := true } else c)
           switches := s.switches.map (fun (n, w) => (n, { w with live := w.live.filter fun i => !gone.contains i })) }

/-! ## Flits (R338) -/

/-- A piece of a remote access in a class. -/
def remotePiece (mire : Bool) (p : Piece) : Bool := match p.loc with
  | .remote _ _ m .. => m == mire
  | _ => false

/-- The flit that carries the first remote piece of an access: package and 256-byte block. -/
def firstFlit (ps : List Piece) : Option (Nat × Nat) := (ps.find? (remotePiece true)).bind fun q => match q.loc with
  | .remote a o .. => some (a, o / 256)
  | _ => none

/-- A piece whose flit is lost. -/
def losePiece (f : Option (Nat × Nat)) (p : Piece) : Piece := match p.loc with
  | .remote b r true .. => if f = some (b, r / 256) then { p with loc := .lost } else p
  | _ => p

/-- The flit that carries the first remote piece of an access is lost: its granules arrive as lost. -/
def loseFlit (ps : List Piece) : List Piece := ps.map (losePiece (firstFlit ps))

/-- What a granule of an access in flight read, once its flit is lost. -/
def lostGot (p : Piece) (g : Got) : Got := match p.loc with
  | .lost => { data := 0, lost := true, fault := none }
  | _ => g

/-- An L access with a lost flit; a gather keeps its lanes' pieces. -/
def loseLoad (a : LAccess) : LAccess :=
  let ps := loseFlit a.pieces
  let b := { a with pieces := ps, early := (ps.zip a.early).map fun (p, g) => lostGot p g }
  match a.dest with
  | .gather q lanes => { b with dest := .gather q (lanes.map fun l => l.map (losePiece (firstFlit a.pieces))) }
  | _ => b

/-- A scalar load or an atomic, which always travels in the reliable class (R338). -/
def loadReliable (a : LAccess) : Bool := match a.dest with
  | .scalar _ _ => true
  | _ => false
def storeReliable (a : SAccess) : Bool := match a.act with
  | .atomic .. => true
  | _ => false

/-- An access in flight has a flit of a class. -/
def loadFlit (mire : Bool) (a : LAccess) : Bool := a.pieces.any fun p => if loadReliable a then !mire && (remotePiece true p || remotePiece false p)
  else remotePiece mire p
def storeFlit (mire : Bool) (a : SAccess) : Bool := !a.performed && a.pieces.any fun p =>
  if storeReliable a then !mire && (remotePiece true p || remotePiece false p) else remotePiece mire p

/-- A contribution in the mire class on its way to a switch: of this package, or forwarded by a lower switch (R348). -/
def mireOut (s : State) (o : FabricOut) : Bool := match o with
  | .contribution _ _ b => b.valid && match liveColl s b.collid with
    | some l => l.record.mire
    | none => false
  | _ => false

/-- A contribution whose flit is lost arrives as zeros with its validity cleared. -/
def loseBlock (o : FabricOut) : FabricOut := match o with
  | .contribution a c b => .contribution a c { b with count := 0, valid := false, payload := List.replicate 64 0 }
  | x => x

/-- The reliable collective job that a core issued. -/
def reliableJob (s : State) (core : Nat) : Option (Nat × Nat × CollJob) :=
  let d := dieOfCore core
  (getDie s d).walkers.findSome? fun (p, w) =>
    (w.jobs.find? fun j => j.owner.core == core && !j.record.mire && j.failed.isNone).map fun j => (d, p, j)

/-- Granule address of the first piece of an access. -/
def firstAddr (ps : List Piece) : Nat := (ps.map (·.addr)).headD 0

/-- A mire flit of an access of a core's active context is lost; none where no such access is in flight. -/
def loseActive (s : State) (core : Nat) : Option State :=
  let x := getCtx s core
  match x.lacc.findIdx? (loadFlit true), x.sacc.findIdx? (storeFlit true) with
  | some i, _ => some (setCtx s core { x with lacc := changeAt x.lacc i loseLoad })
  | none, some i => some (setCtx s core { x with sacc := changeAt x.sacc i fun a => { a with pieces := loseFlit a.pieces } })
  | none, none => none

/-- A mire flit of a store in the retirement tracker of a core is lost. -/
def loseTracked (s : State) (core : Nat) : Option State :=
  let y := getCore s core
  let hit (k : Tracked) : Bool := match k.acc with
    | some a => storeFlit true a
    | none => false
  (y.tracker.findIdx? hit).map fun i =>
    setCore s core { y with tracker := changeAt y.tracker i fun k => { k with acc := k.acc.map fun a => { a with pieces := loseFlit a.pieces } } }

/-- A contribution in the mire class is lost. -/
def loseContribution (s : State) : Option State :=
  (s.fabricOut.findIdx? (mireOut s)).map fun i => { s with fabricOut := changeAt s.fabricOut i loseBlock }

/-- A reliable flit of an access of a core's active context fails: the machine fault of that access. -/
def failActive (s : State) (core : Nat) : Option State :=
  let x := getCtx s core
  match x.lacc.findIdx? (loadFlit false), x.sacc.findIdx? (storeFlit false) with
  | some i, _ => (x.lacc[i]?).map fun a =>
      machineFault (setCtx s core { x with lacc := dropAt x.lacc i }) core .L causeFabric (firstAddr a.pieces) a.fpc a.parcels
  | none, some i => (x.sacc[i]?).map fun a =>
      machineFault (setCtx s core { x with sacc := dropAt x.sacc i }) core .S causeFabric (firstAddr a.pieces) a.fpc a.parcels
  | none, none => none

/-- A reliable flit of a store in the retirement tracker fails. -/
def failTracked (s : State) (core : Nat) : Option State :=
  let y := getCore s core
  (y.tracker.zipIdx.findSome? fun (k, i) => match k.acc with
    | some a => if storeFlit false a then some (i, a) else none
    | none => none).map fun (i, a) =>
      machineFault (setCore s core { y with tracker := dropAt y.tracker i }) core .S causeFabric (firstAddr a.pieces) a.fpc a.parcels

/-- A reliable flit of a collective job that the core issued fails. -/
def failColl (s : State) (core : Nat) : Option State := (reliableJob s core).map fun (d, p, j) => stopColl s d p j causeFabric 0

/-- A reliable flit of a group entry that an itinerary of the core sends to members in other packages fails: the itinerary stops on the machine fault. -/
def failShare (s : State) (core : Nat) : Option State :=
  let d := dieOfCore core
  (getDie s d).lamps.findSome? fun (p, l) => l.running.bind fun it =>
    if it.owner.core != core || it.stopped.isSome then none
    else
      (it.entries.findIdx? fun e => e.group != 0 && e.issued && !e.complete && !e.failed && !e.mire && match sourceGroup l e with
        | some m => !(farStream s m.streamId).members.isEmpty
        | none => false).map fun i => stopItin (putEntry s d p i (fun e => { e with failed := true }) false) d p causeFabric 0

/-- An effect on the active context of a core, on what its shadow context has in flight. -/
def onShadow (f : State → Nat → Option State) (s : State) (core : Nat) : Option State :=
  (f (swapContexts s core) core).map fun t => swapContexts t core

/-- FLIT_LOSS (R338): a flit of an access that a core has in flight, or of a collective, is lost or corrupted. A reliable flit is sent again until the link's
retries are exhausted, and then it is the machine fault; a mire flit arrives as lost. What engines access for themselves meets the link in their own steps. -/
def execFlitLoss (core : Nat) (mire retriesExhausted : Bool) (s : State) : Res :=
  let found := if mire then
      (((loseActive s core).orElse fun _ => loseTracked s core).orElse fun _ => onShadow loseActive s core).orElse fun _ => loseContribution s
    else if !retriesExhausted then none
    else ((((failActive s core).orElse fun _ => failTracked s core).orElse fun _ => onShadow failActive s core).orElse fun _ => failColl s core).orElse fun _ =>
      failShare s core
  .next (found.getD s)

end Sys2Proof.Machine
end

