-- ==== Sys2Proof/Machine/Control.lean ====
section
/-! DEFINITION. The control subset (R81 to R107) but for the system-register and system instructions: integer operations, immediates,
branches, jumps, loops and WAITC. Each meaning is one line over a shared operation. -/

namespace Sys2Proof.Machine

/-! ## Values of the integer operations (R84 to R88), on 64-bit patterns -/

/-- High 64 bits of the signed 128-bit product. -/
def mulhW (a b : Word) : Word := BitVec.ofInt 64 ((a.toInt * b.toInt) / 2 ^ 64)

/-- Signed quotient rounded toward zero (R85). -/
def divW (a b : Word) : Word :=
  if b = 0 then 0xFFFFFFFFFFFFFFFF
  else if a = 0x8000000000000000 ∧ b = 0xFFFFFFFFFFFFFFFF then 0x8000000000000000
  else BitVec.ofInt 64 (a.toInt.tdiv b.toInt)

/-- Signed remainder, of the dividend's sign (R85). -/
def remW (a b : Word) : Word :=
  if b = 0 then a
  else if a = 0x8000000000000000 ∧ b = 0xFFFFFFFFFFFFFFFF then 0
  else BitVec.ofInt 64 (a.toInt - b.toInt * a.toInt.tdiv b.toInt)

/-- Shift amount: bits [5:0]. -/
def shamt (b : Word) : Nat := b.toNat % 64

/-- A truth value as a register value. -/
def boolW (p : Bool) : Word := if p then 1 else 0

/-! ## Shared operations -/

/-- Write a result and complete a control instruction whose dependants issue n cycles later. -/
def putResult (d : Reg) (v : Word) (n : Nat) (s : State) : Res := .next (finish 1 1 (wrAt s d v n))

/-- A register-register operation (R84). -/
def opRR (f : Word → Word → Word) (d a b : Reg) (n : Nat) (s : State) : Res := putResult d (f (rd s a) (rd s b)) n s

/-- A register-immediate operation (R87). -/
def opRI (f : Word → Word) (d a : Reg) (s : State) : Res := putResult d (f (rd s a)) 1 s

/-- DIV and REM: a second one waits until the first completes (R82). -/
def opDiv (f : Word → Word → Word) (d a b : Reg) (s : State) : Res :=
  if (curSeq s).divBusy then block .other s
  else
    let t := wrAt s d (f (rd s a) (rd s b)) 34
    .next (finish 1 1 (setCurSeq t { curSeq t with divBusy := true, divDue := (curSeq s).clock + 34 }))

/-- A conditional branch (R89). -/
def opBranch (p : Word → Word → Bool) (a b : Reg) (off : BitVec 15) (s : State) : Res :=
  if p (rd s a) (rd s b) then transfer ((curSeq s).pc.toNat + 4 * off.toInt) 3 s s
  else .next (finish 1 1 s)

/-! ## Register-register integer instructions (R84 to R86) -/

def execNop (s : State) : Res := .next (finish 1 1 s)
def execAdd (d a b : Reg) (s : State) : Res := opRR (· + ·) d a b 1 s
def execSub (d a b : Reg) (s : State) : Res := opRR (· - ·) d a b 1 s
def execMul (d a b : Reg) (s : State) : Res := opRR (· * ·) d a b 3 s
def execMulh (d a b : Reg) (s : State) : Res := opRR mulhW d a b 3 s
def execDiv (d a b : Reg) (s : State) : Res := opDiv divW d a b s
def execRem (d a b : Reg) (s : State) : Res := opDiv remW d a b s
def execAndr (d a b : Reg) (s : State) : Res := opRR (· &&& ·) d a b 1 s
def execOrr (d a b : Reg) (s : State) : Res := opRR (· ||| ·) d a b 1 s
def execXorr (d a b : Reg) (s : State) : Res := opRR (· ^^^ ·) d a b 1 s
def execShl (d a b : Reg) (s : State) : Res := opRR (fun x y => x <<< shamt y) d a b 1 s
def execShr (d a b : Reg) (s : State) : Res := opRR (fun x y => x >>> shamt y) d a b 1 s
def execSra (d a b : Reg) (s : State) : Res := opRR (fun x y => x.sshiftRight (shamt y)) d a b 1 s
def execMinr (d a b : Reg) (s : State) : Res := opRR (fun x y => if x.slt y then x else y) d a b 1 s
def execMaxr (d a b : Reg) (s : State) : Res := opRR (fun x y => if x.slt y then y else x) d a b 1 s
def execSeq (d a b : Reg) (s : State) : Res := opRR (fun x y => boolW (x == y)) d a b 1 s
def execSlt (d a b : Reg) (s : State) : Res := opRR (fun x y => boolW (x.slt y)) d a b 1 s
def execSltu (d a b : Reg) (s : State) : Res := opRR (fun x y => boolW (x.ult y)) d a b 1 s
/-- CSEL keeps the old g[d] when g[a] is zero (R84). -/
def execCsel (d a b : Reg) (s : State) : Res := putResult d (if rd s a ≠ 0 then rd s b else rd s d) 1 s
def execAddx (d a b : Reg) (sh : BitVec 3) (s : State) : Res := opRR (fun x y => x + y <<< sh.toNat) d a b 1 s

/-- SCALAR_DIVIDE_COMPLETE (R82): the divide of a sequencer completes, 34 cycles after its issue, and a waiting DIV or REM may issue. -/
def execScalarDivideComplete (core : Nat) (q : Seq) (s : State) : Res :=
  let v := getSeq s core q
  if v.divBusy then .next (setSeq { s with cycle := max s.cycle v.divDue } core q { v with divBusy := false }) else .next s

/-! ## Immediate forms (R87, R88) -/

def execAddi (d a : Reg) (imm : BitVec 15) (s : State) : Res := opRI (· + imm.signExtend 64) d a s
def execAndi (d a : Reg) (imm : BitVec 15) (s : State) : Res := opRI (· &&& imm.setWidth 64) d a s
def execOri (d a : Reg) (imm : BitVec 15) (s : State) : Res := opRI (· ||| imm.setWidth 64) d a s
def execXori (d a : Reg) (imm : BitVec 15) (s : State) : Res := opRI (· ^^^ imm.setWidth 64) d a s
def execShli (d a : Reg) (sh : BitVec 6) (s : State) : Res := opRI (· <<< sh.toNat) d a s
def execShri (d a : Reg) (sh : BitVec 6) (s : State) : Res := opRI (· >>> sh.toNat) d a s
def execSrai (d a : Reg) (sh : BitVec 6) (s : State) : Res := opRI (·.sshiftRight sh.toNat) d a s
def execSlti (d a : Reg) (imm : BitVec 15) (s : State) : Res := opRI (fun x => boolW (x.slt (imm.signExtend 64))) d a s
def execLui (d : Reg) (imm : BitVec 20) (s : State) : Res := putResult d (imm.signExtend 64 <<< 15) 1 s

/-! ## Branches and jumps (R89 to R91) -/

def execBeq (a b : Reg) (off : BitVec 15) (s : State) : Res := opBranch (fun x y => x == y) a b off s
def execBne (a b : Reg) (off : BitVec 15) (s : State) : Res := opBranch (fun x y => x != y) a b off s
def execBlt (a b : Reg) (off : BitVec 15) (s : State) : Res := opBranch (fun x y => x.slt y) a b off s
def execBge (a b : Reg) (off : BitVec 15) (s : State) : Res := opBranch (fun x y => !x.slt y) a b off s
def execBltu (a b : Reg) (off : BitVec 15) (s : State) : Res := opBranch (fun x y => x.ult y) a b off s
def execBgeu (a b : Reg) (off : BitVec 15) (s : State) : Res := opBranch (fun x y => !x.ult y) a b off s
def execJmp (off : BitVec 25) (s : State) : Res := transfer ((curSeq s).pc.toNat + 4 * off.toInt) 3 s s
/-- JAL writes g31 only when its target meets R56. -/
def execJal (off : BitVec 25) (s : State) : Res :=
  transfer ((curSeq s).pc.toNat + 4 * off.toInt) 3 s (wr s 31 (BitVec.ofNat 64 ((curSeq s).pc.toNat + 4)))
/-- JR (R91): any value of bits [63:16], a misaligned or an outside target breaks R56. -/
def execJr (a : Reg) (s : State) : Res := transfer (rd s a).toNat 3 s s

/-! ## Hardware loops (R94 to R98) -/

/-- Whether parcel END begins a two-parcel instruction when the body is decoded linearly from parcel n (R95). -/
def splitsPair (q : SeqState) (last : Nat) : Nat → Nat → Bool
  | 0, _ => false
  | fuel + 1, n =>
    if last < n then false
    else if bitOf (parcelAt q n).toNat 31 then (n == last || splitsPair q last fuel (n + 2))
    else splitsPair q last fuel (n + 1)

/-- How many active records but i are older than a record (R94). -/
def olderRecords (lc : Table LoopRec) (i : Nat) (r : LoopRec) : Nat :=
  (List.range 4).countP fun m => let e := tget {} lc m; m != i && e.active && e.age < r.age

/-- The records once record i starts a loop: AGE numbers the active records from 0 in the order in which they started, and the new one comes last (R94). -/
def startRecord (lc : Table LoopRec) (i : Nat) (r : LoopRec) : Table LoopRec :=
  let others := (List.range 4).foldl (fun t n =>
    let e := tget {} lc n
    if n != i && e.active then tput t n { e with age := olderRecords lc i e } else t) lc
  tput others i { r with age := (List.range 4).countP fun m => m != i && (tget {} lc m).active }

/-- LOOP and LOOPI with count n (R95). -/
def opLoop (i : BitVec 2) (n : Nat) (body : BitVec 10) (s : State) : Res :=
  let q := curSeq s
  let p := q.pc.toNat
  let last := p / 4 + body.toNat
  if body = 0 ∨ storeParcels s.cur.2 ≤ last ∨ splitsPair q last body.toNat (p / 4 + 1) then illegal s
  else if n = 0 then transfer ((4 * last + 4 : Nat) : Int) 3 s s
  else
    let r : LoopRec := { count := BitVec.ofNat 32 n, active := true, start := BitVec.ofNat 16 (p + 4),
                         stop := BitVec.ofNat 16 (4 * last), level := q.tlevel, age := 0 }
    .next (jumpTo (p + 4) 1 (setCurSeq s { q with lc := startRecord q.lc i.toNat r }))

/-- The count of LOOP: g[m] read as signed, clamped to 0 to 2^32 - 1 (R95). -/
def loopCount (v : Word) : Nat := (clampI v.toInt 0 0xFFFFFFFF).toNat

def execLoop (lc : BitVec 2) (a : Reg) (body : BitVec 10) (s : State) : Res := opLoop lc (loopCount (rd s a)) body s
def execLoopi (lc : BitVec 2) (cnt : BitVec 13) (body : BitVec 10) (s : State) : Res := opLoop lc cnt.toNat body s

/-- LBRK (R98): the named loop and every loop started inside it end. -/
def execLbrk (i : BitVec 2) (s : State) : Res :=
  let q := curSeq s
  let r := tget {} q.lc i.toNat
  if r.active ∧ r.level = q.tlevel then
    let lc := (List.range 4).foldl (fun lc n =>
      let e := tget {} lc n
      if e.active && e.level == q.tlevel && r.age ≤ e.age then tput lc n { e with count := 0, active := false } else lc) q.lc
    .next (jumpTo (r.stop.toNat + 4) 3 (setCurSeq s { q with lc := lc }))
  else .next (jumpTo (q.pc.toNat + 4) 1 s)

/-- WAITC (R106): the next instruction issues no earlier than n + 1 cycles later. -/
def execWaitc (imm : BitVec 20) (s : State) : Res :=
  let t := finish 1 (imm.toNat + 1) s
  .next (setCurSeq t { curSeq t with waitc := imm.toNat })

end Sys2Proof.Machine
end

