-- ==== Sys2Proof/Machine/Gather.lean ====
section
/-! DEFINITION. The request gatherer (R359 to R361, R366) and the joins and acknowledgements of shared weight streams (R355 to R358, R364, R365). -/

namespace Sys2Proof.Machine

/-! ## The gatherer context -/

/-- A gatherer context. -/
def getGath (s : State) (d p : Nat) : Gatherer := tget {} (getDie s d).gatherers p
/-- Replace a gatherer context. -/
def setGath (s : State) (d p : Nat) (g : Gatherer) : State :=
  let y := getDie s d
  setDie s d { y with gatherers := tput y.gatherers p g }

/-- Fields of RGCFG. -/
def rgCount (g : Gatherer) : Nat := fieldOf g.cfg 0 13
def rgRowb (g : Gatherer) : Nat := fieldOf g.cfg 16 8
def rgCluster (g : Gatherer) : Nat := fieldOf g.cfg 24 4
def rgNb (g : Gatherer) : Nat := fieldOf g.cfg 28 4 + 1
def rgPool (g : Gatherer) : Nat := fieldOf g.cfg 32 16

/-- LB, the stripes of a buffer (R359). -/
def rgStripes (g : Gatherer) : Nat := (128 * rgRowb g * rgCount g + 8 * rgCount g + 127) / 128

/-- First stripe of the buffer with a number. -/
def rgBase (g : Gatherer) (i : Nat) : Nat := rgPool g + i * rgStripes g

/-- The buffer of a batch of a die, as a handle. -/
def batchBuffer (d : Nat) (b : Batch) : Handle := { base := b.base, len := b.len, batch := some (d, b.buf) }

/-- The layout of RGCFG is unusable (R359). -/
def rgUnusable (s : State) (d p : Nat) (g : Gatherer) : Bool :=
  rgCount g == 0 || 4096 < rgCount g || rgRowb g == 0 || 8 < rgCluster g || !(clustersOf s p).contains (9 * d + rgCluster g) ||
  65536 < rgPool g + rgNb g * rgStripes g

/-- Stop a gatherer context (R366): PIRQ.FAULT is set. -/
def stopGath (s : State) (d p : Nat) : State := setPirq (setGath s d p { getGath s d p with stopped := true }) p 0

/-! ## Batches (R360, R361) -/

/-- Close the open batch. -/
def closeBatch (g : Gatherer) (cycle : Nat) (deadline : Bool) : Gatherer :=
  match g.openBatch with
  | none => g
  | some b => { g with openBatch := none, ready := g.ready ++ [{ b with closed := cycle, deadline := deadline }] }

/-- The cycle in which the open batch's deadline falls. -/
def batchDue (g : Gatherer) : Option Nat := match g.openBatch with
  | some b => if g.dead = 0 then none else some (b.opened + g.dead.toNat)
  | none => none

/-- The open batch as a write of the block leaves it: one that now holds COUNT rows, or is past a new deadline, closes in this cycle (R361). -/
def settleBatch (s : State) (g : Gatherer) : Gatherer :=
  match g.openBatch with
  | none => g
  | some b => if rgCount g ≤ b.rows then closeBatch g s.cycle false
      else match batchDue g with
        | some t => if t ≤ s.cycle then closeBatch g s.cycle true else g
        | none => g

/-- The open batch before a write: it has closed when its deadline has passed. -/
def agedBatch (s : State) (g : Gatherer) : Gatherer :=
  match batchDue g with
  | some t => if t < s.cycle then closeBatch g t true else g
  | none => g

/-- Write the register of a gatherer context at a byte offset of its block (R359). Enabling it and writing RGCFG while it is enabled check
the layout. -/
def writeGath (s : State) (d p off : Nat) (v : Word) : State :=
  let g := agedBatch s (getGath s d p)
  let put (g : Gatherer) : State := setGath s d p (settleBatch s g)
  let check (g : Gatherer) : State := if rgUnusable s d p g then stopGath (put g) d p else put g
  match off with
  | 0x00 => put { g with ring := BitVec.ofNat 64 (fieldOf v 6 50 * 64) }
  | 0x08 =>
    let h := { g with logsize := BitVec.ofNat 4 v.toNat, en := bitOf v.toNat 4, drain := bitOf v.toNat 5 }
    if h.en && !g.en then check h else put h
  | 0x10 => put { g with tail := BitVec.ofNat 16 v.toNat }
  | 0x20 =>
    let h := { g with cfg := BitVec.ofNat 64 (fieldOf v 0 13 + fieldOf v 16 32 * 65536) }
    if g.en then check h else put h
  | 0x28 => put { g with dead := BitVec.ofNat 32 v.toNat }
  | _ => s

/-- GATHERER_CONFIG_WRITE (R359, R373): a write of the block of a die that holds clusters of the partition. -/
def execGathererConfigWrite (die part : Nat) (offset : Nat) (v : Word) (s : State) : Res :=
  .next (if blockHeld s die part then writeGath s die part offset v else s)

/-- The batch that the next request joins: the open one, or a new one in a free buffer; R360 does not say in which, and the lowest is the
model's choice (log entry 110). -/
def batchFor (s : State) (g : Gatherer) : Option Batch :=
  match g.openBatch with
  | some b => some b
  | none => (firstIndex (fun i => !g.used.contains i) (rgNb g)).map fun i =>
    { buf := i, base := rgBase g i, len := rgStripes g, rows := 0, opened := s.cycle, closed := 0, deadline := false }

/-- Requests in the ring. -/
def ringPending (g : Gatherer) : Bool := g.tail != g.head

/-- A stripe of a pool lies in a kernel's reservation: there the bytes of a batch buffer are undefined (R8, R359). -/
def stripeReserved (s : State) (cluster stripe : Nat) : Bool := (getCluster s cluster).reserved.any fun r => decide (r.base ≤ stripe) && decide (stripe < r.base + r.len)

/-- Write bytes into a batch buffer. -/
def batchWrite (s : State) (d : Nat) (g : Gatherer) (b : Batch) (off : Nat) (gs : List (Granule × Bool)) (n : Nat) : State :=
  let (byte, bad) := granuleBytes gs
  let h := batchBuffer d b
  let undef (i : Nat) : Bool := stripeReserved s (9 * d + rgCluster g) (h.base + (off + 16 * i) / 128)
  takeFree (writeSram s (resolveBuffer (9 * d + rgCluster g) h off n) (blockBytesAt s undef byte) bad .none false) 32

/-- The stripes of a batch buffer that lie in a reservation are undefined when the batch is taken. -/
def freeOverlap (s : State) (d : Nat) (g : Gatherer) (b : Batch) : State :=
  let h := batchBuffer d b
  let cl := 9 * d + rgCluster g
  ((List.range h.len).filter fun k => stripeReserved s cl (h.base + k)).foldl (fun s k => sramFree s cl (8 * (h.base + k)) (8 * (h.base + k + 1))) s

/-- The gatherer reads n bytes of its ring. -/
def ringRead (s : State) (d p a n : Nat) : Try (State × List (Granule × Bool)) :=
  match engineResolve s d p a n { rd := true } (some (.gatherer d)) with
  | .wait t => .wait t
  | .stop t c g => .stop t c g
  | .ok ps =>
    let dm := engineDemand s d p a n (some (.gatherer d)) ps
    if !demandReady s dm then .wait (awaitDemand s dm)
    else
      let t := engineTouch s d p a n { rd := true } (some (.gatherer d))
      match engineSource s d ps false with
      | .error (c, g) => .stop t c g
      | .ok gs => .ok (t, gs)

/-- Copy the request at the head of the ring into a batch; with COUNT rows the batch closes. -/
def takeRequest (s : State) (d p : Nat) (g : Gatherer) (b : Batch) : State :=
  let rowb := 128 * rgRowb g
  let a := g.ring.toNat + (g.head.toNat % 2 ^ g.logsize.toNat) * (64 + rowb)
  match ringRead s d p a (64 + rowb) with
  | .wait t => t
  | .stop t _ _ => stopGath t d p
  | .ok (t, gs) =>
    let t := batchWrite t d g b (rowb * b.rows) (gs.drop 4) rowb
    let t := batchWrite t d g b (rowb * rgCount g + 8 * b.rows) (gs.take 1) 8
    let b := { b with rows := b.rows + 1 }
    let g := { g with head := g.head + 1, openBatch := some b, used := if g.used.contains b.buf then g.used else b.buf :: g.used }
    setGath t d p (if rgCount g ≤ b.rows then closeBatch g s.cycle false else g)

/-- GATHERER_TAKE_SLOT (R360): a batch whose deadline has passed closes first; the oldest request joins the open batch, or opens one while a
buffer is free. -/
def execGathererTakeSlot (die part : Nat) (s : State) : Res :=
  let g := getGath s die part
  if !g.en || g.logsize = 0 || g.stopped || g.halted || !ringPending g || !partLive s part || (getDie s die).fenced then .next s
  else
    let g := agedBatch s g
    match batchFor s g with
    | none => .next (setGath s die part g)
    | some b => .next (takeRequest (setGath s die part g) die part g b)

/-- BATCH_CLOSE_DEADLINE (R361): the first cycle in which the open batch is RGDEAD.CYC cycles old. -/
def execBatchCloseDeadline (die part : Nat) (s : State) : Res :=
  let g := getGath s die part
  match batchDue g with
  | none => .next s
  | some t =>
    if !partLive s part then .next s
    else .next (setGath { s with cycle := max s.cycle t } die part (closeBatch g t true))

/-! ## RQGT (R366) -/

/-- The entry of a batch. -/
def batchEntry (g : Gatherer) (b : Batch) : QEntry :=
  { data := ofLanes fun j => if j = 0 then g.issued else if j = 1 then BitVec.ofNat 32 b.rows else if j = 2 then (if b.deadline then 1 else 0)
      else if j = 3 then BitVec.ofNat 32 b.closed else if j = 4 then BitVec.ofNat 32 (b.closed / 2 ^ 32) else 0
    mask := BitVec.allOnes 64, eos := false }

/-- RQGT is answered with an end-of-stream entry: a stopped context with no closed batch, or an idle one with DRAIN = 1. -/
def rqgtEnds (g : Gatherer) : Bool :=
  g.ready.isEmpty && (g.stopped || (g.drain && g.openBatch.isNone && !ringPending g))

/-- RQGT: a closed batch goes to the cores that wait for one, in the order in which they began. -/
def execRqgt (d : BitVec 3) (slot : BitVec 4) (s : State) : Res :=
  let die := curDie s
  let part := curPart s
  let g := getGath s die part
  let me := s.cur.1
  if !queueRoom (curCtx s) d.toNat then block .queue s
  else if (tfind (curCtx s).slots slot.toNat).isSome || curCluster s != 9 * die + rgCluster g then fault causeHandle 0 s
  else if !loadRoom s then block .other s
  else
    let g := { g with waiters := if g.waiters.contains me then g.waiters else g.waiters ++ [me] }
    let served := { g with waiters := g.waiters.filter (· != me) }
    if g.waiters.head? ≠ some me then block .other (setGath s die part g)
    else if rqgtEnds g then .next (finish 2 1 (pushOperand d.toNat eosEntry (setGath s die part served)))
    else
      match g.ready with
      | [] => block .other (setGath s die part g)
      | b :: rest =>
        let t := setGath s die part { served with ready := rest, issued := g.issued + 1 }
        let t := freeOverlap t die g b
        let t := setCurCtx t { curCtx t with slots := tput (curCtx t).slots slot.toNat (batchBuffer die b) }
        .next (finish 2 1 (pushOperand d.toNat (batchEntry g b) t))

/-! ## Shared streams (R355, R358, R364, R365) -/

/-- The live source of a stream in this package. -/
def localSource (s : State) (streamId : BitVec 32) : Option McGroup :=
  (List.range 4).findSome? fun d => (getDie s d).lamps.findSome? fun (_, l) => l.groups.findSome? fun (_, m) =>
    if m.source && !m.ended && m.streamId == streamId then some m else none

/-- Word has come that the stream of a member has ended: its source, in another package, has left or been reset (R358). -/
def hearsEnd (s : State) (m : McGroup) : Bool := !m.source && (localSource s m.streamId).isNone && (farStream s m.streamId).ended

/-- MCA (R365): L's earlier reads have been made before the acknowledgement. -/
def execMca (d gb gx : Reg) (s : State) : Res :=
  if !(curCtx s).lacc.isEmpty then block .other s
  else
    let die := curDie s
    let part := curPart s
    let l := getLamp s die part
    let n := fieldOf (rd s gb) 0 8
    match tfind l.groups n with
    | none => .next (finish 2 1 (wr s d (BitVec.ofNat 64 (2 * 2 ^ 32))))
    | some m =>
      let ack := max m.ack (min (fieldOf (rd s gx) 0 32) m.delivered)
      let m := if hearsEnd s m then { m with ended := true } else m
      let t := setLamp s die part { l with groups := tput l.groups n { m with ack := ack } }
      let st := m.delivered % 2 ^ 32 + (if m.ended then 2 ^ 32 else 0) + min m.dropped 16383 * 2 ^ 34
      .next (finish 2 1 (wr t d (BitVec.ofNat 64 st)))

/-- ROLE, local group, W + 1, STREAMID, DCORE, DSLOT and MEMBERS of a join record. -/
def joinRole (w : List Word) : Nat := fieldOf (w.getD 0 0) 0 2
def joinGroup (w : List Word) : Nat := fieldOf (w.getD 0 0) 8 8
def joinStream (w : List Word) : BitVec 32 := BitVec.ofNat 32 (fieldOf (w.getD 0 0) 32 32)
def joinMembers (w : List Word) : Nat := fieldOf (w.getD 1 0) 16 13
def joinCore (w : List Word) : Nat := fieldOf (w.getD 1 0) 0 10

/-- A join record raises the card fault (R364). -/
def joinBad (s : State) (w : List Word) : Bool :=
  let w0 := w.getD 0 0
  let w1 := w.getD 1 0
  fieldOf w0 2 6 != 0 || fieldOf w0 22 10 != 0 || fieldOf w1 14 2 != 0 || fieldOf w1 29 35 != 0 || ((List.range 6).any fun i => w.getD (2 + i) 0 != 0) ||
  joinRole w == 3 || joinGroup w == 0 || (joinRole w == 0 && joinMembers w == 0) ||
  (joinRole w == 1 && !localCore s (curDie s) (curPart s) (joinCore w))

/-- MCJ (R364): the record is checked, and S blocks until the switches have recorded the join or leave (JOIN_RECORDED). -/
def execMcj (d : Reg) (e : Addr) (s : State) : Res :=
  let a := effAddr s e
  if a % 64 ≠ 0 then fault causeAlignment a s
  else if (curCtx s).joinWait.isSome || recordHeld s a 64 then block .other s
  else
    let s := ownStoresSeen s a 64
    match readRecord s a 64 with
    | .error (c, g) => stopAccess s (curPart s) c g 0
    | .ok r =>
      let w := (List.range 8).map (recWord r)
      if joinBad s w then fault causeCard 0 s
      else
        let t := afterRecord s a 64
        block .other (setCurCtx t { curCtx t with joinWait := some (w, d) })

/-- The status that MCJ returns: the first refusal that applies in the order 2, 3, 1, or 0 (R364). -/
def joinStatus (s : State) (l : Lamp) (w : List Word) : Nat :=
  let live := match tfind l.groups (joinGroup w) with
    | some m => !m.ended
    | none => false
  let source := localSource s (joinStream w)
  if joinRole w = 2 then 0
  else if live then 2
  else if joinRole w = 0 then (if source.isSome || (farStream s (joinStream w)).source then 3 else 0)
  else
    match source with
    | some m => if m.begun then 1 else 0
    | none => if (farStream s (joinStream w)).source && (farStream s (joinStream w)).begun then 1 else 0

/-- The stream of a source ends: every member in this package hears of it at its next MCA (R358). -/
def endStream (s : State) (streamId : BitVec 32) : State :=
  { s with dies := s.dies.map fun (d, y) => (d, { y with lamps := y.lamps.map fun (p, l) =>
      (p, { l with groups := l.groups.map fun (n, m) => (n, if m.streamId = streamId ∧ !m.source then { m with ended := true } else m) }) }) }

/-- The local group after a join that is not refused. -/
def joinedGroup (w : List Word) : McGroup :=
  { source := joinRole w = 0, streamId := joinStream w, window := fieldOf (w.getD 0 0) 16 6 + 1, members := joinMembers w, ack := 0, nextSeq := 0,
    dcore := joinCore w, dslot := fieldOf (w.getD 1 0) 10 4, delivered := 0, dropped := 0, ended := false }

/-- Record a join or leave of a Lamplighter context. -/
def recordJoin (s : State) (d p : Nat) (w : List Word) : State :=
  let l := getLamp s d p
  if joinRole w ≠ 2 then setLamp s d p { l with groups := tput l.groups (joinGroup w) (joinedGroup w) }
  else
    match tfind l.groups (joinGroup w) with
    | none => s
    | some m =>
      let t := setLamp s d p { l with groups := tdel l.groups (joinGroup w) }
      if m.source then endStream t m.streamId else t

/-- Change what this package knows of one member of a stream in another package. -/
def updFarMember (f : FarStream) (n : Nat) (g : FarMember → FarMember) : FarStream :=
  { f with members := f.members.map fun m => if m.id = n then g m else m }

/-- What the switches report of a stream's part in other packages (R355 to R358, R364, R365): a stream has one source; a member joins before sequence 0
issues; an acknowledgement only grows, up to the entries delivered; an entry is delivered only once the source has issued it. -/
def hearNews (s : State) (streamId : BitVec 32) (news : StreamNews) : State :=
  let f := farStream s streamId
  let put (f : FarStream) : State := { s with far := tput s.far streamId.toNat f }
  let here := localSource s streamId
  match news with
  | .source w => if here.isSome || f.source then s else put { f with source := true, window := w, begun := false, ended := false }
  | .gone => if f.source then put { f with source := false, ended := true } else s
  | .begun => if f.source then put { f with begun := true } else s
  | .join n =>
    if (match here with
      | some m => m.begun
      | none => f.source && f.begun) || f.members.any (·.id == n) then s
    else put { f with members := f.members ++ [{ id := n }] }
  | .leave n => put { f with members := f.members.filter (·.id != n) }
  | .ack n a => put (updFarMember f n fun m => { m with ack := max m.ack (min a m.done.length) })
  | .done n q =>
    match here with
    | some m => if q < m.nextSeq then put (updFarMember f n fun o => if o.done.contains q then o else { o with done := q :: o.done }) else s
    | none => s

/-- The MCJ on which S of a core blocks ends: the join or leave is recorded, unless it is refused, and the status is written (R358, R364). -/
def endMcj (core : Nat) (s : State) : Res :=
  let x := getCtx s core
  match x.joinWait, partOfCore s core with
  | some (w, d), some p =>
    if x.seqS.halted then .next s
    else
      let die := dieOfCore core
      let st := joinStatus s (getLamp s die p) w
      let t := if st = 0 then recordJoin s die p w else s
      let t := setCtx t core { getCtx t core with joinWait := none }
      .next { finish 2 1 (wr { t with cur := (core, .S) } d (BitVec.ofNat 64 st)) with cur := s.cur }
  | _, _ => .next s

/-- JOIN_RECORDED (R358, R364): the status is written and S goes on; or word comes of another package's part of a stream. -/
def execJoinRecorded (core : JoinSite) (s : State) : Res :=
  match core with
  | .mcj c => endMcj c s
  | .far streamId news => .next (hearNews s streamId news)

end Sys2Proof.Machine
end

