-- ==== Sys2Proof/Machine/Crypto.lean ====
section
/-! DEFINITION. The cryptographic functions of the standards that R387, R397 and R398 name: SHA-512 (FIPS 180-4), HKDF-SHA-512 (RFC 5869), X25519 (RFC 7748),
Ed25519 (RFC 8032) and the key unwrapping of RFC 3394 under AES-256 (FIPS 197). The manual names them and does not repeat their texts (log entry 8). A value of
many bytes has byte 0 in its lowest bits. -/

namespace Sys2Proof.Machine

/-! ## SHA-512 -/

/-- The primes below 410: 80 of them. -/
def shaPrimes : List Nat := (List.range 410).filter fun n => 2 ≤ n && (List.range n).all fun d => d < 2 || n % d != 0

/-- The first 64 bits of the fraction of the n-th root of a number below 2^9: its whole part and 64 more bits are found one by one, the highest first. -/
def rootFraction (n a : Nat) : BitVec 64 :=
  BitVec.ofNat 64 ((List.range 69).foldl (fun r i => let up := r + 2 ^ (68 - i); if up ^ n ≤ a * 2 ^ (64 * n) then up else r) 0)

/-- The round constants: of the cube roots of the primes. -/
def shaRounds : List (BitVec 64) := shaPrimes.map (rootFraction 3)

/-- The eight words before the first block: of the square roots of the first eight primes. -/
def shaStart : List (BitVec 64) := (shaPrimes.take 8).map (rootFraction 2)

/-- Bytes, the first highest, as a number. -/
def bigEndian (l : List Byte) : Nat := l.foldl (fun n b => 256 * n + b.toNat) 0

/-- A number as n bytes, the highest first. -/
def bigBytes (v n : Nat) : List Byte := (natBytes v n).reverse

/-- A message with its padding: a one bit, zeros to 16 bytes below a multiple of 128, and the length in bits. -/
def shaPad (m : List Byte) : List Byte := m ++ [0x80] ++ List.replicate ((239 - m.length % 128) % 128) 0 ++ bigBytes (8 * m.length) 16

/-- The 80 words of the schedule of a block, the last first. -/
def shaSchedule (block : List Byte) : List (BitVec 64) :=
  let first := ((List.range 16).map fun i => BitVec.ofNat 64 (bigEndian ((block.drop (8 * i)).take 8))).reverse
  (List.range 64).foldl (fun w _ =>
    let x := w.getD 14 0
    let y := w.getD 1 0
    let s0 := x.rotateRight 1 ^^^ x.rotateRight 8 ^^^ (x >>> 7)
    let s1 := y.rotateRight 19 ^^^ y.rotateRight 61 ^^^ (y >>> 6)
    (w.getD 15 0 + s0 + w.getD 6 0 + s1) :: w) first

/-- The exclusive or of a word rotated right by each of three amounts. -/
def rotXor (v : BitVec 64) (i j k : Nat) : BitVec 64 := v.rotateRight i ^^^ v.rotateRight j ^^^ v.rotateRight k

/-- One round on the eight words a to h: they move on by one place, and a and e are new. -/
def shaRound (s : List (BitVec 64)) (kw : BitVec 64 × BitVec 64) : List (BitVec 64) :=
  let at' (i : Nat) : BitVec 64 := s.getD i 0
  let choice := at' 6 ^^^ (at' 4 &&& (at' 5 ^^^ at' 6))
  let majority := (at' 0 &&& at' 1) ||| (at' 2 &&& (at' 0 ||| at' 1))
  let t := at' 7 + rotXor (at' 4) 14 18 41 + choice + kw.1 + kw.2
  ((t + rotXor (at' 0) 28 34 39 + majority) :: s.take 7).set 4 (at' 3 + t)

/-- A block of 128 bytes. -/
def shaBlock (s : List (BitVec 64)) (block : List Byte) : List (BitVec 64) :=
  ((shaRounds.zip (shaSchedule block).reverse).foldl shaRound s).zipWith (· + ·) s

/-- SHA-512 of a message: 64 bytes. -/
def sha512 (m : List Byte) : List Byte :=
  let p := shaPad m
  ((List.range (p.length / 128)).foldl (fun s i => shaBlock s ((p.drop (128 * i)).take 128)) shaStart).flatMap fun v => bigBytes v.toNat 8

/-! ## HMAC and HKDF -/

/-- HMAC-SHA-512 (RFC 2104): the key is filled up to a block, or its hash is. -/
def hmac512 (key m : List Byte) : List Byte :=
  let k := if 128 < key.length then sha512 key else key
  let pad (x : Byte) : List Byte := (k ++ List.replicate (128 - k.length) 0).map (· ^^^ x)
  sha512 (pad 0x5C ++ sha512 (pad 0x36 ++ m))

/-- The first 32 bytes of HKDF-SHA-512's output. -/
def hkdf32 (salt secret info : List Byte) : List Byte := (hmac512 (hmac512 salt secret) (info ++ [1])).take 32

/-! ## Arithmetic modulo 2^255 - 19 -/

def fieldPrime : Nat := 2 ^ 255 - 19
def fAdd (a b : Nat) : Nat := (a + b) % fieldPrime
def fSub (a b : Nat) : Nat := (a + (fieldPrime - b % fieldPrime)) % fieldPrime
def fMul (a b : Nat) : Nat := a * b % fieldPrime

/-- The lowest n bits of a number, the highest first. -/
def bitsDown (v n : Nat) : List Bool := ((List.range n).map fun i => v.testBit i).reverse

/-- A power by squaring. -/
def fPow (a e : Nat) : Nat := (bitsDown e 255).foldl (fun r b => if b then fMul (fMul r r) a else fMul r r) 1
def fInv (a : Nat) : Nat := fPow a (fieldPrime - 2)

/-- Little-endian bytes as a number, and a secret scalar from its bytes (RFC 7748, RFC 8032). -/
def littleEndian (l : List Byte) : Nat := bigEndian l.reverse
def clampScalar (v : Nat) : Nat := 2 ^ 254 + v % 2 ^ 254 / 8 * 8

/-! ## X25519 -/

/-- The two points of the ladder, (x2 : z2) and (x3 : z3). -/
structure Ladder where
  x2 : Nat
  z2 : Nat
  x3 : Nat
  z3 : Nat
deriving DecidableEq, Repr

/-- The points exchanged. -/
def ladderSwap (l : Ladder) (b : Bool) : Ladder := if b then { x2 := l.x3, z2 := l.z3, x3 := l.x2, z3 := l.z2 } else l

/-- A step of the ladder for a bit of the scalar. -/
def ladderStep (x1 : Nat) (l : Ladder) (b : Bool) : Ladder :=
  let l := ladderSwap l b
  let a := fAdd l.x2 l.z2
  let aa := fMul a a
  let b' := fSub l.x2 l.z2
  let bb := fMul b' b'
  let e := fSub aa bb
  let da := fMul (fSub l.x3 l.z3) a
  let cb := fMul (fAdd l.x3 l.z3) b'
  let s := fAdd da cb
  let d := fSub da cb
  ladderSwap { x2 := fMul aa bb, z2 := fMul e (fAdd aa (fMul 121665 e)), x3 := fMul s s, z3 := fMul x1 (fMul d d) } b

/-- X25519 of a scalar and a u-coordinate (R398). -/
def x25519 (k u : BitVec 256) : BitVec 256 :=
  let x1 := u.toNat % 2 ^ 255 % fieldPrime
  let l := (bitsDown (clampScalar k.toNat) 255).foldl (ladderStep x1) { x2 := 1, z2 := 0, x3 := x1, z3 := 1 }
  BitVec.ofNat 256 (fMul l.x2 (fInv l.z2))

/-- Bytes of a value, byte 0 first. -/
def valueBytes {w : Nat} (v : BitVec w) : List Byte := natBytes v.toNat (w / 8)

/-- The transport key of a partition from the part's secret scalar, the owner's share and the requester's nonce (R398). -/
def transportKey (part : Nat) (nonce secret peer : BitVec 256) : BitVec 256 :=
  let info : List Byte := ("LZB-640 XPORT".toList.map fun c => BitVec.ofNat 8 c.toNat) ++ [BitVec.ofNat 8 part]
  BitVec.ofNat 256 (littleEndian (hkdf32 (valueBytes nonce) (valueBytes (x25519 secret peer)) info))

/-! ## Ed25519 -/

/-- A point of the curve in extended coordinates. -/
structure EdPoint where
  x : Nat
  y : Nat
  z : Nat
  t : Nat
deriving DecidableEq, Repr

/-- The constant d of the curve, the order of its base point, and the square root of -1. -/
def edD : Nat := fMul (fieldPrime - 121665) (fInv 121666)
def edOrder : Nat := 2 ^ 252 + 27742317777372353535851937790883648493
def edRootMinusOne : Nat := fPow 2 ((fieldPrime - 1) / 4)

/-- The sum of two points. -/
def edAdd (p q : EdPoint) : EdPoint :=
  let a := fMul (fSub p.y p.x) (fSub q.y q.x)
  let b := fMul (fAdd p.y p.x) (fAdd q.y q.x)
  let c := fMul (fMul 2 p.t) (fMul edD q.t)
  let d := fMul (fMul 2 p.z) q.z
  let e := fSub b a
  let f := fSub d c
  let g := fAdd d c
  let h := fAdd b a
  { x := fMul e f, y := fMul g h, z := fMul f g, t := fMul e h }

def edZero : EdPoint := { x := 0, y := 1, z := 1, t := 0 }

/-- A multiple of a point. -/
def edMul (k : Nat) (p : EdPoint) : EdPoint := (bitsDown k 256).foldl (fun r b => if b then edAdd (edAdd r r) p else edAdd r r) edZero

/-- The x of a point with this y and sign, none where there is none. -/
def edRecover (y : Nat) (sign : Bool) : Option Nat :=
  let u := fSub (fMul y y) 1
  let v := fAdd (fMul edD (fMul y y)) 1
  let v3 := fMul v (fMul v v)
  let x := fMul (fMul u v3) (fPow (fMul u (fMul v3 (fMul v3 v))) ((fieldPrime - 5) / 8))
  let w := fMul v (fMul x x)
  let root : Option Nat := if w = u then some x else if w = fSub 0 u then some (fMul x edRootMinusOne) else none
  match root with
  | none => none
  | some x => if x = 0 ∧ sign then none else some (if (x % 2 == 1) == sign then x else fSub 0 x)

/-- Decode and encode a point. -/
def edDecode (v : BitVec 256) : Option EdPoint :=
  let y := v.toNat % 2 ^ 255
  if fieldPrime ≤ y then none
  else (edRecover y (v.getLsbD 255)).map fun x => { x := x, y := y, z := 1, t := fMul x y }
def edEncode (p : EdPoint) : BitVec 256 :=
  let i := fInv p.z
  BitVec.ofNat 256 (fMul p.y i + fMul p.x i % 2 * 2 ^ 255)

/-- The base point: y = 4/5, x even. -/
def edBase : EdPoint :=
  let y := fMul 4 (fInv 5)
  match edRecover y false with
  | some x => { x := x, y := y, z := 1, t := fMul x y }
  | none => edZero

/-- A hash as a scalar. -/
def hashScalar (l : List Byte) : Nat := littleEndian (sha512 l) % edOrder

/-- The signature of a message under a 32-byte secret: R, then S. -/
def ed25519Sign (secret : BitVec 256) (m : List Byte) : BitVec 512 :=
  let h := sha512 (valueBytes secret)
  let a := clampScalar (littleEndian (h.take 32))
  let key := edEncode (edMul a edBase)
  let r := hashScalar (h.drop 32 ++ m)
  let point := edEncode (edMul r edBase)
  let k := hashScalar (valueBytes point ++ valueBytes key ++ m)
  BitVec.ofNat 512 (point.toNat + (r + k * a) % edOrder * 2 ^ 256)

/-- Whether a signature of a message holds under a public key. -/
def ed25519Verify (key : BitVec 256) (m : List Byte) (sig : BitVec 512) : Bool :=
  let r : BitVec 256 := sig.setWidth 256
  let s := sig.toNat / 2 ^ 256
  match edDecode key, edDecode r with
  | some a, some p =>
    let k := hashScalar (valueBytes r ++ valueBytes key ++ m)
    s < edOrder && edEncode (edMul 8 (edMul s edBase)) == edEncode (edMul 8 (edAdd p (edMul k a)))
  | _, _ => false

/-! ## AES-256 and RFC 3394 -/

/-- The product of two bytes in the field of AES. -/
def gMul (a b : Byte) : Byte :=
  ((List.range 8).foldl (fun (r, a) i =>
    (if b.getLsbD i then r ^^^ a else r, (a <<< 1) ^^^ if a.getLsbD 7 then 0x1B else 0)) ((0 : Byte), a)).1

/-- The inverse of a byte, 0 for 0: its 254th power. -/
def gInv (a : Byte) : Byte :=
  let sq (x : Byte) : Byte := gMul x x
  ((List.range 6).foldl (fun (r, x) _ => (gMul r (sq x), sq x)) (sq a, sq a)).1

/-- The substitution of SubBytes and its inverse. -/
def subByte (a : Byte) : Byte :=
  let x := gInv a
  x ^^^ x.rotateLeft 1 ^^^ x.rotateLeft 2 ^^^ x.rotateLeft 3 ^^^ x.rotateLeft 4 ^^^ 0x63
def invSubByte (a : Byte) : Byte := gInv (a.rotateLeft 1 ^^^ a.rotateLeft 3 ^^^ a.rotateLeft 6 ^^^ 0x05)

/-- The expanded key of AES-256: 60 words of four bytes, the last first. -/
def aesSchedule (key : List Byte) : List (List Byte) :=
  let first := ((List.range 8).map fun i => (key.drop (4 * i)).take 4).reverse
  (List.range 52).foldl (fun w n =>
    let i := n + 8
    let last := w.getD 0 []
    let t : List Byte := if i % 8 = 0 then ((last.drop 1 ++ last.take 1).map subByte).zipWith (· ^^^ ·) [BitVec.ofNat 8 (2 ^ (i / 8 - 1)), 0, 0, 0]
      else if i % 8 = 4 then last.map subByte else last
    (t.zipWith (· ^^^ ·) (w.getD 7 [])) :: w) first

/-- The round key of a round: 16 bytes. -/
def roundKey (w : List (List Byte)) (r : Nat) : List Byte := (List.range 4).flatMap fun i => w.getD (4 * r + i) []

/-- The state after InvShiftRows: byte r of column c comes from column c - r. -/
def invShiftRows (s : List Byte) : List Byte := (List.range 16).map fun i => s.getD ((i % 4) + 4 * ((i / 4 + 4 - i % 4) % 4)) 0

/-- InvMixColumns. -/
def invMixColumns (s : List Byte) : List Byte := (List.range 16).map fun i =>
  let at' (k : Nat) : Byte := s.getD (i / 4 * 4 + (i + k) % 4) 0
  gMul 0x0E (at' 0) ^^^ gMul 0x0B (at' 1) ^^^ gMul 0x0D (at' 2) ^^^ gMul 0x09 (at' 3)

/-- AES-256 decryption of a block of 16 bytes under an expanded key, the first word first. -/
def aesDecrypt (w : List (List Byte)) (block : List Byte) : List Byte :=
  let add (r : Nat) (s : List Byte) : List Byte := s.zipWith (· ^^^ ·) (roundKey w r)
  let s := (List.range 13).foldl (fun s n => invMixColumns (add (13 - n) ((invShiftRows s).map invSubByte))) (add 14 block)
  add 0 ((invShiftRows s).map invSubByte)

/-- Unwrap the blocks of 8 bytes after the first under RFC 3394: the register A at the end and the blocks. -/
def unwrapBlocks (key : List Byte) (a : List Byte) (blocks : List (List Byte)) : List Byte × List (List Byte) :=
  let w := (aesSchedule key).reverse
  let n := blocks.length
  (List.range (6 * n)).foldl (fun (a, r) m =>
    let t := 6 * n - m
    let i := (t - 1) % n
    let b := aesDecrypt w (a.zipWith (· ^^^ ·) (bigBytes t 8) ++ r.getD i [])
    (b.take 8, r.set i (b.drop 8))) (a, blocks)

/-- The 96-byte key record in a 104-byte wrapped one, none when its check fails (R387). -/
def unwrapKey (transport : BitVec 256) (wrapped : BitVec 832) : Option (BitVec 768) :=
  let l := valueBytes wrapped
  let (a, r) := unwrapBlocks (valueBytes transport) (l.take 8) ((List.range 12).map fun i => (l.drop (8 + 8 * i)).take 8)
  if a = List.replicate 8 0xA6 then some (BitVec.ofNat 768 (littleEndian (r.flatMap id))) else none

end Sys2Proof.Machine
end

