-- ==== Sys2Proof/Decode.lean ====
section
/-! DEFINITION. The decoder of R54 to R74: parcels to an instruction or a named rejection, one function for each space
(control, X, L, S), total on every bit pattern; after it the encoder, from the same tables of the spec. -/

namespace Sys2Proof

/-- Why a pattern of bits is not an instruction (R74). Each raises the illegal-instruction fault. -/
inductive DecodeError where
  /-- major 0x00, major 0x7F, or a parcel of 0xFFFF_FFFF (R73) -/
  | permanentlyIllegal
  /-- a reserved major value -/
  | reservedMajor
  /-- a reserved fn or fn10 value -/
  | reservedFn
  /-- a nonzero unused or reserved field -/
  | unusedField
  /-- a reserved operand code, or one where R61, R66 or an opcode map forbids it -/
  | badOperand
  /-- a reserved or unaccepted format -/
  | badFormat
  /-- a selector that breaks R63 -/
  | badSelector
  /-- a reserved or unaccepted qualifier (rounding, predicate, scope, fe, kind, mask) -/
  | badQualifier
deriving DecidableEq, Repr

/-- The raw fields of an X instruction (R60). -/
structure XRaw where
  major : BitVec 7
  fn : BitVec 4
  d : BitVec 10
  a : BitVec 10
  b : BitVec 10
  c : BitVec 10
  fmt : BitVec 3
  stall : BitVec 3
  nf : BitVec 1
  k : BitVec 3
  sel : BitVec 2
deriving DecidableEq, Repr

/-- The raw fields of an L or S instruction (R65). -/
structure MRaw where
  major : BitVec 7
  fn : BitVec 4
  d : BitVec 10
  gb : BitVec 5
  gx : BitVec 5
  off : BitVec 18
  sc : BitVec 3
  fe : BitVec 2
  hs : BitVec 1
  hslot : BitVec 4
  fmt : BitVec 4
deriving DecidableEq, Repr

/-- The fields of the two parcels of an X instruction (R60). -/
def xUnpack (p0 p1 : Parcel) : XRaw :=
  { major := p0.extractLsb' 24 7, fn := p0.extractLsb' 20 4, d := p0.extractLsb' 10 10, a := p0.extractLsb' 0 10,
    b := p1.extractLsb' 22 10, c := p1.extractLsb' 12 10, fmt := p1.extractLsb' 9 3, stall := p1.extractLsb' 6 3,
    nf := p1.extractLsb' 5 1, k := p1.extractLsb' 2 3, sel := p1.extractLsb' 0 2 }

/-- The fields of the two parcels of an L or S instruction (R65). -/
def mUnpack (p0 p1 : Parcel) : MRaw :=
  { major := p0.extractLsb' 24 7, fn := p0.extractLsb' 20 4, d := p0.extractLsb' 10 10, gb := p0.extractLsb' 5 5,
    gx := p0.extractLsb' 0 5, off := p1.extractLsb' 14 18, sc := p1.extractLsb' 11 3, fe := p1.extractLsb' 9 2,
    hs := p1.extractLsb' 8 1, hslot := p1.extractLsb' 4 4, fmt := p1.extractLsb' 0 4 }

/-- Accept when the condition holds, reject by the name given otherwise. -/
def need (c : Bool) (e : DecodeError) : Except DecodeError Unit := if c then .ok () else .error e

/-- A 10-bit operand code (R61). -/
def decOpnd (c : BitVec 10) : Except DecodeError Opnd :=
  if c.toNat < 0x3C0 then .ok (.dir c)
  else if c.toNat < 0x3E0 then .ok (.ind (c.setWidth 5))
  else if c.toNat < 0x3E8 then .ok (.q (c.setWidth 3))
  else if c.toNat < 0x3EC then .ok (.w (c.setWidth 2))
  else if c.toNat = 0x3EC then .ok .flags
  else .error .badOperand

/-- An operand code where only the operands that p accepts are allowed (R61, R66). -/
def decWhere (p : Opnd → Bool) (c : BitVec 10) : Except DecodeError Opnd := do
  let o ← decOpnd c
  need (p o) .badOperand
  return o

/-- A source, destination, or register-store operand code (R61). -/
def decSrc : BitVec 10 → Except DecodeError Opnd := decWhere Opnd.isSrc
def decDst : BitVec 10 → Except DecodeError Opnd := decWhere Opnd.isDst
def decRs : BitVec 10 → Except DecodeError Opnd := decWhere Opnd.isRs

/-- A field that holds a g register in [4:0], [9:5] zero (R61). -/
def decG (c : BitVec 10) : Except DecodeError Reg := do
  need (c.extractLsb' 5 5 = 0) .unusedField
  return c.setWidth 5

/-- A field that holds a mask or table number in [2:0], [9:3] zero (R61). -/
def decK (c : BitVec 10) : Except DecodeError (BitVec 3) := do
  need (c.extractLsb' 3 7 = 0) .unusedField
  return c.setWidth 3

/-- A field that holds an operand queue code q0 to q7 (R66, R70). -/
def decQ (c : BitVec 10) : Except DecodeError (BitVec 3) := do
  need (c.extractLsb' 3 7 = 0x7C) .badOperand
  return c.setWidth 3

/-- A field that holds a result queue code w0 to w3 (R66, R70). -/
def decW (c : BitVec 10) : Except DecodeError (BitVec 2) := do
  need (c.extractLsb' 2 8 = 0xFA) .badOperand
  return c.setWidth 2

/-- A field that must be zero (R58, R61). -/
def decZero {n : Nat} (c : BitVec n) : Except DecodeError Unit := need (c = 0) .unusedField

/-- The X fmt field read through domain F (R62). -/
def decFFmt (f : BitVec 3) : Except DecodeError FFmt :=
  match f.toNat with
  | 0 => .ok .f32 | 1 => .ok .bf16 | 2 => .ok .f16 | 3 => .ok .fp8e4 | 4 => .ok .fp8e5 | 5 => .ok .fp4 | 6 => .ok .mk8
  | _ => .error .badFormat

/-- The X fmt field read through domain I (R62). -/
def decIFmt (f : BitVec 3) : IFmt :=
  match f.toNat with
  | 0 => .i32 | 1 => .i16 | 2 => .i8 | 3 => .i4 | 4 => .n32 | 5 => .n16 | 6 => .n8
  | _ => .n4

/-- The X fmt field of a domain D instruction: fn[3] selects the column (R62). -/
def decDFmt (fn : BitVec 4) (f : BitVec 3) : Except DecodeError DFmt := do
  if fn.extractLsb' 3 1 = 1 then return .fp (← decFFmt f)
  else return .int (decIFmt f)

/-- The rounding qualifier in fn[2:0] (R64). -/
def decRound (f : BitVec 3) : Except DecodeError Round :=
  match f.toNat with
  | 0 => .ok .rne | 1 => .ok .rz | 2 => .ok .rup | 3 => .ok .rdn | 4 => .ok .rna
  | _ => .error .badQualifier

/-- The predicate code (R64). -/
def decPred (f : BitVec 3) : Except DecodeError Pred :=
  match f.toNat with
  | 0 => .ok .eq | 1 => .ok .ne | 2 => .ok .lt | 3 => .ok .le | 4 => .ok .gt | 5 => .ok .ge | 6 => .ok .un
  | _ => .error .badQualifier

/-- sel and c of an instruction that accepts selectors (R63): without a selector, c is zero; with one, c[9:3] is zero. -/
def decSel (x : XRaw) (P : Nat) (hasB : Bool) : Except DecodeError Sel := do
  need (x.c.extractLsb' 3 7 = 0) .unusedField
  let s : BitVec 3 := x.c.setWidth 3
  match x.sel.toNat with
  | 0 => do need (s = 0) .unusedField; return .none
  | 1 => do need (s.toNat < P) .badSelector; return .a s
  | 2 => do need (hasB && s.toNat < P) .badSelector; return .b s
  | _ => do need (hasB && s.toNat < P) .badSelector; return .ab s

/-- No selector accepted, and no c operand (R63, R136). -/
def decNoSel (x : XRaw) : Except DecodeError Unit := do
  need (x.sel = 0) .badSelector
  decZero x.c

/-- The common fields of an X instruction (R60). -/
def XRaw.xq (x : XRaw) : XQ := { stall := x.stall, nf := x.nf = 1, k := x.k }

/-- fn[2:0] and fn[3] (R64). -/
def XRaw.fnLow (x : XRaw) : BitVec 3 := x.fn.extractLsb' 0 3
def XRaw.fnSat (x : XRaw) : Bool := x.fn.extractLsb' 3 1 = 1

/-- The instruction takes no mask: its k field is zero (R70). -/
def decNoMask (x : XRaw) : Except DecodeError Unit := need (x.k = 0) .badQualifier

/-- A domain N instruction: fmt is zero (R62). -/
def decN (x : XRaw) : Except DecodeError Unit := need (x.fmt = 0) .badFormat

/-- fn must be zero (R64, R136). -/
def decFn0 (x : XRaw) : Except DecodeError Unit := need (x.fn = 0) .reservedFn

/-- fn[2:0] must be zero, fn[3] is .sat (R64, R141). -/
def decFnSat (x : XRaw) : Except DecodeError Bool := do
  need (x.fnLow = 0) .reservedFn
  return x.fnSat

/-- A format of the floating-point arithmetic instructions (R149). -/
def decArith (x : XRaw) : Except DecodeError FFmt := do
  let f ← decFFmt x.fmt
  need f.isArith .badFormat
  return f

/-- A scheduling or engine instruction without operands: every field but stall and nf is zero (R323, R197). -/
def decBare (x : XRaw) : Except DecodeError Unit := do
  decFn0 x; decN x; decNoSel x; decNoMask x; decZero x.b

/-- The element formats that RSLV resolves to, fmt 0 to 4 (R197). -/
def decRFmt (f : BitVec 3) : Except DecodeError RFmt :=
  match f.toNat with
  | 0 => .ok .f32 | 1 => .ok .bf16 | 2 => .ok .f16 | 3 => .ok .fp8e4 | 4 => .ok .fp8e5
  | _ => .error .badFormat

/-- H - 1 in c[5:0] with c[9:6] zero (R197). -/
def decH (x : XRaw) : Except DecodeError (BitVec 6) := do
  need (x.sel = 0) .badSelector
  need (x.c.extractLsb' 6 4 = 0) .unusedField
  return x.c.setWidth 6

/-- The source format and selector of a VCVT: c[5:3] and c[2:0], c[9:6] zero (R62, R63). P gives the source's elements
per lane. -/
def decCvtSel (x : XRaw) (P : Nat) : Except DecodeError Sel := do
  need (x.c.extractLsb' 6 4 = 0) .unusedField
  let s : BitVec 3 := x.c.setWidth 3
  match x.sel.toNat with
  | 0 => do need (s = 0) .unusedField; return .none
  | 1 => do need (s.toNat < P) .badSelector; return .a s
  | _ => .error .badSelector

def XRaw.srcFmt (x : XRaw) : BitVec 3 := x.c.extractLsb' 3 3

/-- The operation of KOP in fn[2:0] (R171). -/
def decKOp (f : BitVec 3) : Except DecodeError KOpKind :=
  match f.toNat with
  | 0 => .ok .and | 1 => .ok .or | 2 => .ok .xor | 3 => .ok .andn | 4 => .ok .orn | 5 => .ok .xnor
  | _ => .error .reservedFn

/-- RSLV in its three forms: fmt 7 canonical, 0 to 4 to a format, 6 wire form (R197). -/
def decRslv (x : XRaw) : Except DecodeError Instr := do
  decNoMask x
  let h ← decH x
  let d ← decRs x.d
  match x.fmt.toNat with
  | 7 => do
    decFn0 x; decZero x.a; decZero x.b
    return .rslvCanonical d h x.xq
  | 6 => do
    decFn0 x
    let a ← decRs x.a
    let b ← decG x.b
    return .rslvWireForm d a b h x.xq
  | _ => do
    let f ← decRFmt x.fmt
    let r ← decRound x.fnLow
    decZero x.b
    let a ← decRs x.a
    return .rslvToFormat f r x.fnSat d a h x.xq

/-- VADD, X major 0x01 (R70). -/
def decVadd (x : XRaw) : Except DecodeError Instr := do
  let sat ← decFnSat x
  let f := decIFmt x.fmt
  let sel ← decSel x (perLane f.width) true
  let d ← decDst x.d
  let a ← decSrc x.a
  let b ← decSrc x.b
  return .vadd f sat sel d a b x.xq

/-- VSUB, X major 0x02 (R70). -/
def decVsub (x : XRaw) : Except DecodeError Instr := do
  let sat ← decFnSat x
  let f := decIFmt x.fmt
  let sel ← decSel x (perLane f.width) true
  let d ← decDst x.d
  let a ← decSrc x.a
  let b ← decSrc x.b
  return .vsub f sat sel d a b x.xq

/-- VMUL, X major 0x03 (R70). -/
def decVmul (x : XRaw) : Except DecodeError Instr := do
  let sat ← decFnSat x
  let f := decIFmt x.fmt
  let sel ← decSel x (perLane f.width) true
  let d ← decDst x.d
  let a ← decSrc x.a
  let b ← decSrc x.b
  return .vmul f sat sel d a b x.xq

/-- VMULH, X major 0x04 (R70). -/
def decVmulh (x : XRaw) : Except DecodeError Instr := do
  decFn0 x
  let f := decIFmt x.fmt
  let sel ← decSel x (perLane f.width) true
  let d ← decDst x.d
  let a ← decSrc x.a
  let b ← decSrc x.b
  return .vmulh f sel d a b x.xq

/-- VMAD, X major 0x05 (R70). -/
def decVmad (x : XRaw) : Except DecodeError Instr := do
  let sat ← decFnSat x
  need (x.sel = 0) .badSelector
  let d ← decDst x.d
  let a ← decSrc x.a
  let b ← decSrc x.b
  let c ← decSrc x.c
  return .vmad (decIFmt x.fmt) sat d a b c x.xq

/-- VABS, X major 0x06 (R70). -/
def decVabs (x : XRaw) : Except DecodeError Instr := do
  let sat ← decFnSat x
  let f := decIFmt x.fmt
  let sel ← decSel x (perLane f.width) false
  decZero x.b
  let d ← decDst x.d
  let a ← decSrc x.a
  return .vabs f sat sel d a x.xq

/-- VNEG, X major 0x07 (R70). -/
def decVneg (x : XRaw) : Except DecodeError Instr := do
  let sat ← decFnSat x
  let f := decIFmt x.fmt
  let sel ← decSel x (perLane f.width) false
  decZero x.b
  let d ← decDst x.d
  let a ← decSrc x.a
  return .vneg f sat sel d a x.xq

/-- VMIN, X major 0x08 (R70). -/
def decVmin (x : XRaw) : Except DecodeError Instr := do
  decFn0 x
  let f := decIFmt x.fmt
  let sel ← decSel x (perLane f.width) true
  let d ← decDst x.d
  let a ← decSrc x.a
  let b ← decSrc x.b
  return .vmin f sel d a b x.xq

/-- VMAX, X major 0x09 (R70). -/
def decVmax (x : XRaw) : Except DecodeError Instr := do
  decFn0 x
  let f := decIFmt x.fmt
  let sel ← decSel x (perLane f.width) true
  let d ← decDst x.d
  let a ← decSrc x.a
  let b ← decSrc x.b
  return .vmax f sel d a b x.xq

/-- VAND, X major 0x0A (R70). -/
def decVand (x : XRaw) : Except DecodeError Instr := do
  decFn0 x
  decN x
  decNoSel x
  let d ← decDst x.d
  let a ← decSrc x.a
  let b ← decSrc x.b
  return .vand d a b x.xq

/-- VOR, X major 0x0B (R70). -/
def decVor (x : XRaw) : Except DecodeError Instr := do
  decFn0 x
  decN x
  decNoSel x
  let d ← decDst x.d
  let a ← decSrc x.a
  let b ← decSrc x.b
  return .vor d a b x.xq

/-- VXOR, X major 0x0C (R70). -/
def decVxor (x : XRaw) : Except DecodeError Instr := do
  decFn0 x
  decN x
  decNoSel x
  let d ← decDst x.d
  let a ← decSrc x.a
  let b ← decSrc x.b
  return .vxor d a b x.xq

/-- VANDN, X major 0x0D (R70). -/
def decVandn (x : XRaw) : Except DecodeError Instr := do
  decFn0 x
  decN x
  decNoSel x
  let d ← decDst x.d
  let a ← decSrc x.a
  let b ← decSrc x.b
  return .vandn d a b x.xq

/-- VSHL, X major 0x0E (R70). -/
def decVshl (x : XRaw) : Except DecodeError Instr := do
  decFn0 x
  let f := decIFmt x.fmt
  let sel ← decSel x (perLane f.width) true
  let d ← decDst x.d
  let a ← decSrc x.a
  let b ← decSrc x.b
  return .vshl f sel d a b x.xq

/-- VSHR, X major 0x0F (R70). -/
def decVshr (x : XRaw) : Except DecodeError Instr := do
  decFn0 x
  let f := decIFmt x.fmt
  let sel ← decSel x (perLane f.width) true
  let d ← decDst x.d
  let a ← decSrc x.a
  let b ← decSrc x.b
  return .vshr f sel d a b x.xq

/-- VSRA, X major 0x10 (R70). -/
def decVsra (x : XRaw) : Except DecodeError Instr := do
  decFn0 x
  let f := decIFmt x.fmt
  let sel ← decSel x (perLane f.width) true
  let d ← decDst x.d
  let a ← decSrc x.a
  let b ← decSrc x.b
  return .vsra f sel d a b x.xq

/-- VCMP, X major 0x11 (R70). -/
def decVcmp (x : XRaw) : Except DecodeError Instr := do
  need (!x.fnSat) .reservedFn
  let p ← decPred x.fnLow
  need (p ≠ .un) .badQualifier
  let f := decIFmt x.fmt
  let sel ← decSel x (perLane f.width) true
  let kd ← decK x.d
  let a ← decSrc x.a
  let b ← decSrc x.b
  return .vcmp f p sel kd a b x.xq

/-- VSEL, X major 0x12 (R70). -/
def decVsel (x : XRaw) : Except DecodeError Instr := do
  decFn0 x
  decN x
  decNoSel x
  let d ← decDst x.d
  let a ← decSrc x.a
  let b ← decSrc x.b
  return .vsel d a b x.xq

/-- VSAT, X major 0x13 (R70). -/
def decVsat (x : XRaw) : Except DecodeError Instr := do
  decFn0 x
  decNoSel x
  decZero x.b
  let d ← decDst x.d
  let a ← decSrc x.a
  return .vsat (decIFmt x.fmt) d a x.xq

/-- VTACC, X major 0x14 (R70). -/
def decVtacc (x : XRaw) : Except DecodeError Instr := do
  let sat ← decFnSat x
  need (decIFmt x.fmt = .i4) .badFormat
  let sel ← decSel x 8 false
  let d ← decRs x.d
  let a ← decSrc x.a
  let b ← decSrc x.b
  return .vtacc sat sel d a b x.xq

/-- VFADD, X major 0x20 (R70). -/
def decVfadd (x : XRaw) : Except DecodeError Instr := do
  decFn0 x
  let f ← decArith x
  let sel ← decSel x (perLane f.width) true
  let d ← decDst x.d
  let a ← decSrc x.a
  let b ← decSrc x.b
  return .vfadd f sel d a b x.xq

/-- VFSUB, X major 0x21 (R70). -/
def decVfsub (x : XRaw) : Except DecodeError Instr := do
  decFn0 x
  let f ← decArith x
  let sel ← decSel x (perLane f.width) true
  let d ← decDst x.d
  let a ← decSrc x.a
  let b ← decSrc x.b
  return .vfsub f sel d a b x.xq

/-- VFMUL, X major 0x22 (R70). -/
def decVfmul (x : XRaw) : Except DecodeError Instr := do
  decFn0 x
  let f ← decArith x
  let sel ← decSel x (perLane f.width) true
  let d ← decDst x.d
  let a ← decSrc x.a
  let b ← decSrc x.b
  return .vfmul f sel d a b x.xq

/-- VFMA, X major 0x23 (R70). -/
def decVfma (x : XRaw) : Except DecodeError Instr := do
  decFn0 x
  let f ← decArith x
  need (x.sel = 0) .badSelector
  let d ← decDst x.d
  let a ← decSrc x.a
  let b ← decSrc x.b
  let c ← decSrc x.c
  return .vfma f d a b c x.xq

/-- VFNMA, X major 0x24 (R70). -/
def decVfnma (x : XRaw) : Except DecodeError Instr := do
  decFn0 x
  let f ← decArith x
  need (x.sel = 0) .badSelector
  let d ← decDst x.d
  let a ← decSrc x.a
  let b ← decSrc x.b
  let c ← decSrc x.c
  return .vfnma f d a b c x.xq

/-- VFMIN, X major 0x25 (R70). -/
def decVfmin (x : XRaw) : Except DecodeError Instr := do
  decFn0 x
  let f ← decArith x
  let sel ← decSel x (perLane f.width) true
  let d ← decDst x.d
  let a ← decSrc x.a
  let b ← decSrc x.b
  return .vfmin f sel d a b x.xq

/-- VFMAX, X major 0x26 (R70). -/
def decVfmax (x : XRaw) : Except DecodeError Instr := do
  decFn0 x
  let f ← decArith x
  let sel ← decSel x (perLane f.width) true
  let d ← decDst x.d
  let a ← decSrc x.a
  let b ← decSrc x.b
  return .vfmax f sel d a b x.xq

/-- VFCMP, X major 0x27 (R70). -/
def decVfcmp (x : XRaw) : Except DecodeError Instr := do
  need (!x.fnSat) .reservedFn
  let p ← decPred x.fnLow
  let f ← decArith x
  let sel ← decSel x (perLane f.width) true
  let kd ← decK x.d
  let a ← decSrc x.a
  let b ← decSrc x.b
  return .vfcmp f p sel kd a b x.xq

/-- VFCLS, X major 0x28 (R70). -/
def decVfcls (x : XRaw) : Except DecodeError Instr := do
  decFn0 x
  let f ← decFFmt x.fmt
  let sel ← decSel x (perLane f.width) false
  decZero x.b
  let d ← decDst x.d
  let a ← decSrc x.a
  return .vfcls f sel d a x.xq

/-- VFDIV, X major 0x29 (R70). -/
def decVfdiv (x : XRaw) : Except DecodeError Instr := do
  decFn0 x
  let f ← decArith x
  let sel ← decSel x (perLane f.width) true
  let d ← decDst x.d
  let a ← decSrc x.a
  let b ← decSrc x.b
  return .vfdiv f sel d a b x.xq

/-- VRCP, X major 0x2A (R70). -/
def decVrcp (x : XRaw) : Except DecodeError Instr := do
  decFn0 x
  let f ← decArith x
  let sel ← decSel x (perLane f.width) false
  decZero x.b
  let d ← decDst x.d
  let a ← decSrc x.a
  return .vrcp f sel d a x.xq

/-- VRSQ, X major 0x2B (R70). -/
def decVrsq (x : XRaw) : Except DecodeError Instr := do
  decFn0 x
  let f ← decArith x
  let sel ← decSel x (perLane f.width) false
  decZero x.b
  let d ← decDst x.d
  let a ← decSrc x.a
  return .vrsq f sel d a x.xq

/-- VEXP2, X major 0x2C (R70). -/
def decVexp2 (x : XRaw) : Except DecodeError Instr := do
  decFn0 x
  let f ← decArith x
  let sel ← decSel x (perLane f.width) false
  decZero x.b
  let d ← decDst x.d
  let a ← decSrc x.a
  return .vexp2 f sel d a x.xq

/-- VLOG2, X major 0x2D (R70). -/
def decVlog2 (x : XRaw) : Except DecodeError Instr := do
  decFn0 x
  let f ← decArith x
  let sel ← decSel x (perLane f.width) false
  decZero x.b
  let d ← decDst x.d
  let a ← decSrc x.a
  return .vlog2 f sel d a x.xq

/-- VCVT, X major 0x40 (R70). -/
def decVcvtFloatToFloat (x : XRaw) : Except DecodeError Instr := do
  let r ← decRound x.fnLow
  let df ← decFFmt x.fmt
  let sf ← decFFmt x.srcFmt
  let sel ← decCvtSel x (perLane sf.width)
  decZero x.b
  let d ← decDst x.d
  let a ← decSrc x.a
  return .vcvtFloatToFloat df sf r x.fnSat sel d a x.xq

/-- VCVT, X major 0x41 (R70). -/
def decVcvtFloatToInteger (x : XRaw) : Except DecodeError Instr := do
  let r ← decRound x.fnLow
  need (!x.fnSat) .reservedFn
  let sf ← decFFmt x.srcFmt
  let sel ← decCvtSel x (perLane sf.width)
  decZero x.b
  let d ← decDst x.d
  let a ← decSrc x.a
  return .vcvtFloatToInteger (decIFmt x.fmt) sf r sel d a x.xq

/-- VCVT, X major 0x42 (R70). -/
def decVcvtIntegerToFloat (x : XRaw) : Except DecodeError Instr := do
  let r ← decRound x.fnLow
  let df ← decFFmt x.fmt
  let sf := decIFmt x.srcFmt
  let sel ← decCvtSel x (perLane sf.width)
  decZero x.b
  let d ← decDst x.d
  let a ← decSrc x.a
  return .vcvtIntegerToFloat df sf r x.fnSat sel d a x.xq

/-- VCVT, X major 0x43 (R70). -/
def decVcvtIntegerToInteger (x : XRaw) : Except DecodeError Instr := do
  let sat ← decFnSat x
  let sf := decIFmt x.srcFmt
  let sel ← decCvtSel x (perLane sf.width)
  decZero x.b
  let d ← decDst x.d
  let a ← decSrc x.a
  return .vcvtIntegerToInteger (decIFmt x.fmt) sf sat sel d a x.xq

/-- VPACK, X major 0x44 (R70). -/
def decVpack (x : XRaw) : Except DecodeError Instr := do
  let f ← decDFmt x.fn x.fmt
  need (f.width < 32) .badFormat
  let r ← decRound x.fnLow
  need (match f with | .int _ => r = .rne | .fp _ => true) .reservedFn
  decNoSel x
  let d ← decDst x.d
  let a ← decSrc x.a
  let b ← decSrc x.b
  return .vpack f r d a b x.xq

/-- VUNPK, X major 0x45 (R70). -/
def decVunpk (x : XRaw) : Except DecodeError Instr := do
  let f ← decDFmt x.fn x.fmt
  need (f.width < 32) .badFormat
  need (x.fnLow = 0) .reservedFn
  decNoSel x
  decZero x.b
  let d ← decDst x.d
  let a ← decSrc x.a
  return .vunpk f d a x.xq

/-- TUNP, X major 0x46 (R70). -/
def decTunp (x : XRaw) : Except DecodeError Instr := do
  decFn0 x
  decN x
  let sel ← decSel x 4 false
  decZero x.b
  let d ← decDst x.d
  let a ← decSrc x.a
  return .tunp sel d a x.xq

/-- CBX, X major 0x47 (R70). -/
def decCbx (x : XRaw) : Except DecodeError Instr := do
  need (x.fmt = 1) .badFormat
  decNoSel x
  decZero x.b
  let d ← decDst x.d
  let a ← decSrc x.a
  return .cbx (if x.fnSat then .four else .three) x.fnLow d a x.xq

/-- CBLD, X major 0x48 (R70). -/
def decCbld (x : XRaw) : Except DecodeError Instr := do
  decFn0 x
  need (x.fmt = 1) .badFormat
  decNoSel x
  decNoMask x
  decZero x.b
  let t ← decK x.d
  let a ← decSrc x.a
  return .cbld t a x.xq

/-- VMOV, X major 0x50 (R70). -/
def decVmov (x : XRaw) : Except DecodeError Instr := do
  decFn0 x
  decN x
  decNoSel x
  decZero x.b
  let d ← decWhere Opnd.isMovDst x.d
  let a ← decWhere Opnd.isMovSrc x.a
  return .vmov d a x.xq

/-- VBCST, X major 0x51 (R70). -/
def decVbcst (x : XRaw) : Except DecodeError Instr := do
  decFn0 x
  decN x
  decNoSel x
  decZero x.b
  let d ← decDst x.d
  let a ← decG x.a
  return .vbcst d a x.xq

/-- VIDX, X major 0x52 (R70). -/
def decVidx (x : XRaw) : Except DecodeError Instr := do
  decFn0 x
  decN x
  decNoSel x
  decZero x.b
  decZero x.a
  let d ← decDst x.d
  return .vidx d x.xq

/-- VPERM, X major 0x53 (R70). -/
def decVperm (x : XRaw) : Except DecodeError Instr := do
  decFn0 x
  decN x
  decNoSel x
  let d ← decDst x.d
  let a ← decSrc x.a
  let b ← decSrc x.b
  return .vperm d a b x.xq

/-- VROT, X major 0x54 (R70). -/
def decVrot (x : XRaw) : Except DecodeError Instr := do
  decFn0 x
  decN x
  decNoSel x
  let d ← decDst x.d
  let a ← decSrc x.a
  let b ← decG x.b
  return .vrot d a b x.xq

/-- VGTH, X major 0x55 (R70). -/
def decVgth (x : XRaw) : Except DecodeError Instr := do
  decFn0 x
  decN x
  decNoSel x
  let d ← decDst x.d
  let a ← decRs x.a
  let b ← decSrc x.b
  return .vgth d a b x.xq

/-- VSCT, X major 0x56 (R70). -/
def decVsct (x : XRaw) : Except DecodeError Instr := do
  decFn0 x
  decN x
  decNoSel x
  let d ← decRs x.d
  let a ← decSrc x.a
  let b ← decSrc x.b
  return .vsct d a b x.xq

/-- VXTR, X major 0x57 (R70). -/
def decVxtr (x : XRaw) : Except DecodeError Instr := do
  decFn0 x
  decNoSel x
  decNoMask x
  let d ← decG x.d
  let a ← decSrc x.a
  let b ← decG x.b
  return .vxtr (decIFmt x.fmt) d a b x.xq

/-- VINS, X major 0x58 (R70). -/
def decVins (x : XRaw) : Except DecodeError Instr := do
  decFn0 x
  decNoSel x
  let d ← decRs x.d
  let a ← decG x.a
  let b ← decG x.b
  return .vins (decIFmt x.fmt) d a b x.xq

/-- VRSUM, X major 0x60 (R70). -/
def decVrsum (x : XRaw) : Except DecodeError Instr := do
  let f ← decDFmt x.fn x.fmt
  need (match f with | .fp g => g.isArith | .int _ => true) .badFormat
  need (x.fnLow = 0) .reservedFn
  decNoSel x
  decZero x.b
  let d ← decDst x.d
  let a ← decSrc x.a
  return .vrsum f d a x.xq

/-- VRMAX, X major 0x61 (R70). -/
def decVrmax (x : XRaw) : Except DecodeError Instr := do
  let f ← decDFmt x.fn x.fmt
  need (match f with | .fp g => g.isArith | .int _ => true) .badFormat
  need (x.fnLow = 0) .reservedFn
  decNoSel x
  decZero x.b
  let d ← decDst x.d
  let a ← decSrc x.a
  return .vrmax f d a x.xq

/-- VRMIN, X major 0x62 (R70). -/
def decVrmin (x : XRaw) : Except DecodeError Instr := do
  let f ← decDFmt x.fn x.fmt
  need (match f with | .fp g => g.isArith | .int _ => true) .badFormat
  need (x.fnLow = 0) .reservedFn
  decNoSel x
  decZero x.b
  let d ← decDst x.d
  let a ← decSrc x.a
  return .vrmin f d a x.xq

/-- VMCNT, X major 0x63 (R70). -/
def decVmcnt (x : XRaw) : Except DecodeError Instr := do
  decFn0 x
  decN x
  decNoSel x
  decZero x.b
  let d ← decG x.d
  let ka ← decK x.a
  return .vmcnt d ka x.xq

/-- VMSCL, X major 0x64 (R70). -/
def decVmscl (x : XRaw) : Except DecodeError Instr := do
  decFn0 x
  let f ← decArith x
  let sel ← decSel x (perLane f.width) false
  let d ← decDst x.d
  let a ← decSrc x.a
  let b ← decSrc x.b
  return .vmscl f sel d a b x.xq

/-- KOP, X major 0x65 (R70). -/
def decKop (x : XRaw) : Except DecodeError Instr := do
  decN x
  decNoSel x
  need (!x.fnSat) .reservedFn
  let op ← decKOp x.fnLow
  let kd ← decK x.d
  let ka ← decK x.a
  let kb ← decK x.b
  return .kop op kd ka kb x.xq

/-- KSET, X major 0x66 (R70). -/
def decKset (x : XRaw) : Except DecodeError Instr := do
  decFn0 x
  decN x
  decNoSel x
  decZero x.b
  let kd ← decK x.d
  let a ← decG x.a
  return .kset kd a x.xq

/-- SMS, X major 0x68 (R70). -/
def decSms (x : XRaw) : Except DecodeError Instr := do
  decBare x
  decZero x.d
  decZero x.a
  return .sms x.xq

/-- WPW, X major 0x69 (R70). -/
def decWpw (x : XRaw) : Except DecodeError Instr := do
  decBare x
  decZero x.d
  decZero x.a
  return .wpw x.xq

/-- GBAR, X major 0x6A (R70). -/
def decGbar (x : XRaw) : Except DecodeError Instr := do
  decBare x
  decZero x.d
  decZero x.a
  return .gbar x.xq

/-- SIG, X major 0x6B (R70). -/
def decSig (x : XRaw) : Except DecodeError Instr := do
  decBare x
  decZero x.d
  let a ← decG x.a
  return .sig a x.xq

/-- TAIL, X major 0x6C (R70). -/
def decTail (x : XRaw) : Except DecodeError Instr := do
  decBare x
  decZero x.d
  decZero x.a
  return .tail x.xq

/-- YLD, X major 0x6D (R70). -/
def decYld (x : XRaw) : Except DecodeError Instr := do
  decBare x
  decZero x.d
  decZero x.a
  return .yld x.xq

/-- QTST, X major 0x6E (R70). -/
def decQtst (x : XRaw) : Except DecodeError Instr := do
  decBare x
  let d ← decG x.d
  let a ← decQ x.a
  return .qtst d a x.xq

/-- QFWD, X major 0x6F (R70). -/
def decQfwd (x : XRaw) : Except DecodeError Instr := do
  decBare x
  let d ← decW x.d
  let a ← decQ x.a
  return .qfwd d a x.xq

/-- MCFG, X major 0x70 (R70). -/
def decMcfg (x : XRaw) : Except DecodeError Instr := do
  decBare x
  let w ← decG x.d
  let a ← decG x.a
  return .mcfg w a x.xq

/-- MCFGL, X major 0x71 (R70). -/
def decMcfgl (x : XRaw) : Except DecodeError Instr := do
  decBare x
  decZero x.d
  let a ← decSrc x.a
  return .mcfgl a x.xq

/-- MGO, X major 0x72 (R70). -/
def decMgo (x : XRaw) : Except DecodeError Instr := do
  decBare x
  decZero x.d
  decZero x.a
  return .mgo x.xq

/-- MWAIT, X major 0x73 (R70). -/
def decMwait (x : XRaw) : Except DecodeError Instr := do
  decBare x
  let d ← decG x.d
  decZero x.a
  return .mwait d x.xq

/-- ACLR, X major 0x74 (R70). -/
def decAclr (x : XRaw) : Except DecodeError Instr := do
  decFn0 x
  decN x
  decNoMask x
  decZero x.b
  let h ← decH x
  let d ← decRs x.d
  let a ← decG x.a
  return .aclr d a h x.xq

/-- AANC, X major 0x75 (R70). -/
def decAanc (x : XRaw) : Except DecodeError Instr := do
  decFn0 x
  decN x
  decNoMask x
  decZero x.b
  let h ← decH x
  let d ← decRs x.d
  let a ← decG x.a
  return .aanc d a h x.xq

/-- ASCL, X major 0x77 (R70). -/
def decAscl (x : XRaw) : Except DecodeError Instr := do
  decFn0 x
  decN x
  decNoMask x
  let h ← decH x
  let d ← decRs x.d
  let a ← decRs x.a
  let b ← decRs x.b
  return .ascl d a b h x.xq

/-- ACMP, X major 0x78 (R70). -/
def decAcmp (x : XRaw) : Except DecodeError Instr := do
  need (x.fn.extractLsb' 1 3 = 0) .reservedFn
  need (x.sel = 0) .badSelector
  let p ← decPred x.fmt
  let raw : Bool := x.fn.extractLsb' 0 1 = 1
  need (p ≠ .un && (!raw || p = .eq || p = .ne)) .badQualifier
  need (x.c.extractLsb' 8 2 = 0) .unusedField
  let kd ← decK x.d
  let a ← decRs x.a
  let b ← decRs x.b
  return .acmp p raw kd a b (x.c.setWidth 8) x.xq

/-- AMOV, X major 0x79 (R70). -/
def decAmov (x : XRaw) : Except DecodeError Instr := do
  decFn0 x
  decN x
  decNoMask x
  decZero x.b
  let h ← decH x
  let d ← decRs x.d
  let a ← decRs x.a
  return .amov d a h x.xq

/-- ACHK, X major 0x7A (R70). -/
def decAchk (x : XRaw) : Except DecodeError Instr := do
  decFn0 x
  decN x
  decNoMask x
  decZero x.b
  decZero x.d
  let h ← decH x
  let a ← decRs x.a
  return .achk a h x.xq

/-- The X space (R70). -/
def decodeX (x : XRaw) : Except DecodeError Instr :=
  match x.major.toNat with
  | 0x00 => .error .permanentlyIllegal
  | 0x7F => .error .permanentlyIllegal
  | 0x01 => decVadd x
  | 0x02 => decVsub x
  | 0x03 => decVmul x
  | 0x04 => decVmulh x
  | 0x05 => decVmad x
  | 0x06 => decVabs x
  | 0x07 => decVneg x
  | 0x08 => decVmin x
  | 0x09 => decVmax x
  | 0x0A => decVand x
  | 0x0B => decVor x
  | 0x0C => decVxor x
  | 0x0D => decVandn x
  | 0x0E => decVshl x
  | 0x0F => decVshr x
  | 0x10 => decVsra x
  | 0x11 => decVcmp x
  | 0x12 => decVsel x
  | 0x13 => decVsat x
  | 0x14 => decVtacc x
  | 0x20 => decVfadd x
  | 0x21 => decVfsub x
  | 0x22 => decVfmul x
  | 0x23 => decVfma x
  | 0x24 => decVfnma x
  | 0x25 => decVfmin x
  | 0x26 => decVfmax x
  | 0x27 => decVfcmp x
  | 0x28 => decVfcls x
  | 0x29 => decVfdiv x
  | 0x2A => decVrcp x
  | 0x2B => decVrsq x
  | 0x2C => decVexp2 x
  | 0x2D => decVlog2 x
  | 0x40 => decVcvtFloatToFloat x
  | 0x41 => decVcvtFloatToInteger x
  | 0x42 => decVcvtIntegerToFloat x
  | 0x43 => decVcvtIntegerToInteger x
  | 0x44 => decVpack x
  | 0x45 => decVunpk x
  | 0x46 => decTunp x
  | 0x47 => decCbx x
  | 0x48 => decCbld x
  | 0x50 => decVmov x
  | 0x51 => decVbcst x
  | 0x52 => decVidx x
  | 0x53 => decVperm x
  | 0x54 => decVrot x
  | 0x55 => decVgth x
  | 0x56 => decVsct x
  | 0x57 => decVxtr x
  | 0x58 => decVins x
  | 0x60 => decVrsum x
  | 0x61 => decVrmax x
  | 0x62 => decVrmin x
  | 0x63 => decVmcnt x
  | 0x64 => decVmscl x
  | 0x65 => decKop x
  | 0x66 => decKset x
  | 0x68 => decSms x
  | 0x69 => decWpw x
  | 0x6A => decGbar x
  | 0x6B => decSig x
  | 0x6C => decTail x
  | 0x6D => decYld x
  | 0x6E => decQtst x
  | 0x6F => decQfwd x
  | 0x70 => decMcfg x
  | 0x71 => decMcfgl x
  | 0x72 => decMgo x
  | 0x73 => decMwait x
  | 0x74 => decAclr x
  | 0x75 => decAanc x
  | 0x76 => decRslv x
  | 0x77 => decAscl x
  | 0x78 => decAcmp x
  | 0x79 => decAmov x
  | 0x7A => decAchk x
  | _ => .error .reservedMajor

/-- An address with its scope of use: hslot is zero when hs = 0 (R66). -/
def decSlot (m : MRaw) : Except DecodeError (Option (BitVec 4)) := do
  if m.hs = 1 then return some m.hslot
  else do
    decZero m.hslot
    return none

/-- The address operand of R65. -/
def decAddr (m : MRaw) : Except DecodeError Addr := do
  return { gb := m.gb, gx := m.gx, off := m.off, slot := ← decSlot m }

/-- The address operand without an index register (R250). -/
def decBase (m : MRaw) : Except DecodeError Base := do
  return { gb := m.gb, off := m.off, slot := ← decSlot m }

/-- The address operand of an instruction that requires hs = 0 (R250). -/
def decAddr0 (m : MRaw) : Except DecodeError Addr := do
  need (m.hs = 0) .unusedField
  decAddr m

/-- The handle slot of an instruction that requires hs = 1 (R250). -/
def decSlot1 (m : MRaw) : Except DecodeError (BitVec 4) := do
  need (m.hs = 1) .badQualifier
  return m.hslot

/-- The fe field, nonzero only with hs = 1 (R65, R250). -/
def decFe (m : MRaw) : Except DecodeError Fe :=
  match m.fe.toNat with
  | 0 => .ok .none
  | 1 => do need (m.hs = 1) .badQualifier; return .fe
  | 2 => do need (m.hs = 1) .badQualifier; return .fec
  | _ => .error .badQualifier

/-- The scope field (R64). -/
def decScope (m : MRaw) : Except DecodeError Scope :=
  match m.sc.toNat with
  | 0 => .ok .core | 1 => .ok .clus | 2 => .ok .die | 3 => .ok .pkg | 4 => .ok .dom
  | _ => .error .badQualifier

/-- The kind in fn[1:0] of an atomic or fence (R250). -/
def decKind (m : MRaw) : Except DecodeError AKind := do
  need (m.fn.extractLsb' 2 2 = 0) .reservedFn
  match (m.fn.extractLsb' 0 2).toNat with
  | 0 => return .none
  | 1 => return .acq
  | 2 => return .rel
  | _ => return .full

/-- The scalar width of LDS and STS (R257). -/
def decSFmt (m : MRaw) : Except DecodeError SFmt :=
  match m.fmt.toNat with
  | 0 => .ok .w64 | 8 => .ok .i32 | 9 => .ok .i16 | 10 => .ok .i8 | 12 => .ok .n32 | 13 => .ok .n16 | 14 => .ok .n8
  | _ => .error .badFormat

/-- The width of an integer atomic (R257). -/
def decAFmt (m : MRaw) : Except DecodeError AFmt :=
  match m.fmt.toNat with
  | 0 => .ok .w64 | 8 => .ok .i32 | 12 => .ok .n32
  | _ => .error .badFormat

/-- The format of ATFADD (R257). -/
def decAFFmt (m : MRaw) : Except DecodeError AFFmt :=
  match m.fmt.toNat with
  | 0 => .ok .f32 | 1 => .ok .bf16 | 2 => .ok .f16
  | _ => .error .badFormat

/-- Fields that an instruction does not use are zero (R66, R250). -/
def mFn0 (m : MRaw) : Except DecodeError Unit := need (m.fn = 0) .reservedFn
def mSc0 (m : MRaw) : Except DecodeError Unit := need (m.sc = 0) .unusedField
def mFe0 (m : MRaw) : Except DecodeError Unit := need (m.fe = 0) .unusedField
def mFmt0 (m : MRaw) : Except DecodeError Unit := need (m.fmt = 0) .unusedField
def mOff0 (m : MRaw) : Except DecodeError Unit := need (m.off = 0) .unusedField
def mGb0 (m : MRaw) : Except DecodeError Unit := need (m.gb = 0) .unusedField
def mGx0 (m : MRaw) : Except DecodeError Unit := need (m.gx = 0) .unusedField
def mHs0 (m : MRaw) : Except DecodeError Unit := do need (m.hs = 0) .unusedField; decZero m.hslot

/-- gb and gx do not name the same register other than g0 (R250). -/
def mDiffer (m : MRaw) : Except DecodeError Unit := need (regsDiffer m.gb m.gx) .badOperand

/-- LDV, L major 0x01 (R71, R72, R250, R362). -/
def decLdv (m : MRaw) : Except DecodeError Instr := do
  mFn0 m
  mSc0 m
  mFmt0 m
  let d ← decRs m.d
  let e ← decAddr m
  let w ← decFe m
  return .ldv d e w

/-- LDQ, L major 0x02 (R71, R72, R250, R362). -/
def decLdq (m : MRaw) : Except DecodeError Instr := do
  mFn0 m
  mSc0 m
  mFmt0 m
  let d ← decQ m.d
  let e ← decAddr m
  let w ← decFe m
  return .ldq d e w

/-- LDS, L major 0x03 (R71, R72, R250, R362). -/
def decLds (m : MRaw) : Except DecodeError Instr := do
  mFn0 m
  mSc0 m
  let f ← decSFmt m
  let d ← decG m.d
  let e ← decAddr m
  let w ← decFe m
  return .lds f d e w

/-- GTHQ, L major 0x04 (R71, R72, R250, R362). -/
def decGthq (m : MRaw) : Except DecodeError Instr := do
  mFn0 m
  mSc0 m
  mFe0 m
  mFmt0 m
  let d ← decQ m.d
  let e ← decBase m
  return .gthq d m.gx e

/-- PRF, L major 0x05 (R71, R72, R250, R362). -/
def decPrf (m : MRaw) : Except DecodeError Instr := do
  mFn0 m
  mSc0 m
  mFe0 m
  mFmt0 m
  decZero m.d
  let e ← decAddr0 m
  return .prf e

/-- QPSH, L major 0x06 (R71, R72, R250, R362). -/
def decQpsh (m : MRaw) : Except DecodeError Instr := do
  mFn0 m
  mSc0 m
  mFe0 m
  mFmt0 m
  mOff0 m
  mHs0 m
  let d ← decQ m.d
  return .qpsh d m.gb m.gx

/-- QEOS, L major 0x07 (R71, R72, R250, R362). -/
def decQeos (m : MRaw) : Except DecodeError Instr := do
  mFn0 m
  mSc0 m
  mFe0 m
  mFmt0 m
  mOff0 m
  mHs0 m
  mGb0 m
  mGx0 m
  let d ← decQ m.d
  return .qeos d

/-- STRM, L major 0x20 (R71, R72, R250, R362). -/
def decStrm (m : MRaw) : Except DecodeError Instr := do
  mFn0 m
  mSc0 m
  mFmt0 m
  mDiffer m
  let d ← decQ m.d
  let e ← decAddr m
  let w ← decFe m
  return .strm d e w

/-- TOKW, L major 0x30 (R71, R72, R250, R362). -/
def decTokw (m : MRaw) : Except DecodeError Instr := do
  mFn0 m
  mSc0 m
  mFe0 m
  mFmt0 m
  mOff0 m
  mHs0 m
  mGb0 m
  mGx0 m
  let d ← decG m.d
  return .tokw d

/-- HGET, L major 0x31 (R71, R72, R250, R362). -/
def decHget (m : MRaw) : Except DecodeError Instr := do
  mFn0 m
  mSc0 m
  mFe0 m
  mFmt0 m
  mOff0 m
  mGx0 m
  let d ← decG m.d
  let s ← decSlot1 m
  return .hget d m.gb s

/-- HPASS, L major 0x32 (R71, R72, R250, R362). -/
def decHpass (m : MRaw) : Except DecodeError Instr := do
  mFn0 m
  mSc0 m
  mFe0 m
  mFmt0 m
  mOff0 m
  let d ← decG m.d
  let s ← decSlot1 m
  return .hpass d m.gb m.gx s

/-- HREL, L major 0x33 (R71, R72, R250, R362). -/
def decHrel (m : MRaw) : Except DecodeError Instr := do
  mFn0 m
  mSc0 m
  mFe0 m
  mFmt0 m
  mOff0 m
  mGb0 m
  mGx0 m
  decZero m.d
  let s ← decSlot1 m
  return .hrel s

/-- ITIN, L major 0x40 (R71, R72, R250, R362). -/
def decItin (m : MRaw) : Except DecodeError Instr := do
  mFn0 m
  mSc0 m
  mFe0 m
  mFmt0 m
  let d ← decG m.d
  let e ← decAddr0 m
  return .itin d e

/-- JCPY, L major 0x41 (R71, R72, R250, R362). -/
def decJcpy (m : MRaw) : Except DecodeError Instr := do
  mFn0 m
  mSc0 m
  mFe0 m
  mFmt0 m
  let d ← decG m.d
  let e ← decAddr0 m
  return .jcpy d e

/-- JWAIT, L major 0x42 (R71, R72, R250, R362). -/
def decJwait (m : MRaw) : Except DecodeError Instr := do
  mFn0 m
  mSc0 m
  mFe0 m
  mFmt0 m
  mOff0 m
  mHs0 m
  mGb0 m
  mGx0 m
  let d ← decG m.d
  return .jwait d

/-- RCON, L major 0x50 (R71, R72, R250, R362). -/
def decRcon (m : MRaw) : Except DecodeError Instr := do
  mFn0 m
  mSc0 m
  mFe0 m
  mFmt0 m
  mDiffer m
  let d ← decQ m.d
  let s ← decSlot1 m
  return .rcon d m.gb m.gx m.off s

/-- RQGT, L major 0x51 (R71, R72, R250, R362). -/
def decRqgt (m : MRaw) : Except DecodeError Instr := do
  mFn0 m
  mSc0 m
  mFe0 m
  mFmt0 m
  mOff0 m
  mGb0 m
  mGx0 m
  let d ← decQ m.d
  let s ← decSlot1 m
  return .rqgt d s

/-- MCA, L major 0x52 (R71, R72, R250, R362). -/
def decMca (m : MRaw) : Except DecodeError Instr := do
  mFn0 m
  mSc0 m
  mFe0 m
  mFmt0 m
  mOff0 m
  mHs0 m
  let d ← decG m.d
  return .mca d m.gb m.gx

/-- The L space (R71). -/
def decodeL (m : MRaw) : Except DecodeError Instr :=
  match m.major.toNat with
  | 0x00 => .error .permanentlyIllegal
  | 0x7F => .error .permanentlyIllegal
  | 0x01 => decLdv m
  | 0x02 => decLdq m
  | 0x03 => decLds m
  | 0x04 => decGthq m
  | 0x05 => decPrf m
  | 0x06 => decQpsh m
  | 0x07 => decQeos m
  | 0x20 => decStrm m
  | 0x30 => decTokw m
  | 0x31 => decHget m
  | 0x32 => decHpass m
  | 0x33 => decHrel m
  | 0x40 => decItin m
  | 0x41 => decJcpy m
  | 0x42 => decJwait m
  | 0x50 => decRcon m
  | 0x51 => decRqgt m
  | 0x52 => decMca m
  | _ => .error .reservedMajor

/-- STV, S major 0x01 (R71, R72, R250, R362). -/
def decStv (m : MRaw) : Except DecodeError Instr := do
  mFn0 m
  mSc0 m
  mFmt0 m
  let d ← decRs m.d
  let e ← decAddr m
  let w ← decFe m
  return .stv d e w

/-- STQ, S major 0x02 (R71, R72, R250, R362). -/
def decStq (m : MRaw) : Except DecodeError Instr := do
  mFn0 m
  mSc0 m
  mFmt0 m
  let d ← decW m.d
  let e ← decAddr m
  let w ← decFe m
  return .stq d e w

/-- STS, S major 0x03 (R71, R72, R250, R362). -/
def decSts (m : MRaw) : Except DecodeError Instr := do
  mFn0 m
  mSc0 m
  let f ← decSFmt m
  let d ← decG m.d
  let e ← decAddr m
  let w ← decFe m
  return .sts f d e w

/-- STA, S major 0x04 (R71, R72, R250, R362). -/
def decSta (m : MRaw) : Except DecodeError Instr := do
  need (m.fn.extractLsb' 1 3 = 0) .reservedFn
  mSc0 m
  mFe0 m
  mFmt0 m
  let d ← decRs m.d
  let e ← decBase m
  return .sta (m.fn.extractLsb' 0 1 = 1) d m.gx e

/-- SCT, S major 0x05 (R71, R72, R250, R362). -/
def decSct (m : MRaw) : Except DecodeError Instr := do
  mFn0 m
  mSc0 m
  mFe0 m
  mFmt0 m
  let d ← decW m.d
  let e ← decBase m
  return .sct d m.gx e

/-- ATADD, S major 0x20 (R71, R72, R250, R362). -/
def decAtadd (m : MRaw) : Except DecodeError Instr := do
  mFe0 m
  let k ← decKind m
  let f ← decAFmt m
  let sc ← decScope m
  let d ← decG m.d
  let e ← decBase m
  return .atadd f k sc d m.gx e

/-- ATMIN, S major 0x22 (R71, R72, R250, R362). -/
def decAtmin (m : MRaw) : Except DecodeError Instr := do
  mFe0 m
  let k ← decKind m
  let f ← decAFmt m
  let sc ← decScope m
  let d ← decG m.d
  let e ← decBase m
  return .atmin f k sc d m.gx e

/-- ATMAX, S major 0x23 (R71, R72, R250, R362). -/
def decAtmax (m : MRaw) : Except DecodeError Instr := do
  mFe0 m
  let k ← decKind m
  let f ← decAFmt m
  let sc ← decScope m
  let d ← decG m.d
  let e ← decBase m
  return .atmax f k sc d m.gx e

/-- ATXCH, S major 0x24 (R71, R72, R250, R362). -/
def decAtxch (m : MRaw) : Except DecodeError Instr := do
  mFe0 m
  let k ← decKind m
  let f ← decAFmt m
  let sc ← decScope m
  let d ← decG m.d
  let e ← decBase m
  return .atxch f k sc d m.gx e

/-- ATCAS, S major 0x25 (R71, R72, R250, R362). -/
def decAtcas (m : MRaw) : Except DecodeError Instr := do
  mFe0 m
  let k ← decKind m
  let f ← decAFmt m
  let sc ← decScope m
  let d ← decG m.d
  let e ← decBase m
  return .atcas f k sc d m.gx e

/-- ATFADD, S major 0x21 (R71, R72, R250, R362). -/
def decAtfadd (m : MRaw) : Except DecodeError Instr := do
  mFe0 m
  let k ← decKind m
  let f ← decAFFmt m
  let sc ← decScope m
  let d ← decG m.d
  let e ← decBase m
  return .atfadd f k sc d m.gx e

/-- FENCE, S major 0x30 (R71, R72, R250, R362). -/
def decFence (m : MRaw) : Except DecodeError Instr := do
  mFe0 m
  mFmt0 m
  mOff0 m
  mHs0 m
  mGb0 m
  mGx0 m
  decZero m.d
  let k ← decKind m
  need (k ≠ .none) .badQualifier
  let sc ← decScope m
  return .fence k sc

/-- BFEN, S major 0x31 (R71, R72, R250, R362). -/
def decBfen (m : MRaw) : Except DecodeError Instr := do
  mFn0 m
  mFe0 m
  mFmt0 m
  mOff0 m
  mHs0 m
  mGb0 m
  mGx0 m
  decZero m.d
  let sc ← decScope m
  return .bfen sc

/-- TOKS, S major 0x32 (R71, R72, R250, R362). -/
def decToks (m : MRaw) : Except DecodeError Instr := do
  mFn0 m
  mFe0 m
  mFmt0 m
  mOff0 m
  mHs0 m
  mGb0 m
  mGx0 m
  let sc ← decScope m
  let d ← decG m.d
  return .toks sc d

/-- RRSV, S major 0x40 (R71, R72, R250, R362). -/
def decRrsv (m : MRaw) : Except DecodeError Instr := do
  mFn0 m
  mSc0 m
  mFe0 m
  mFmt0 m
  mGx0 m
  let d ← decG m.d
  let s ← decSlot1 m
  return .rrsv d m.gb m.off s

/-- RPUB, S major 0x41 (R71, R72, R250, R362). -/
def decRpub (m : MRaw) : Except DecodeError Instr := do
  mFn0 m
  mSc0 m
  mFe0 m
  mFmt0 m
  mDiffer m
  let d ← decW m.d
  let s ← decSlot1 m
  return .rpub d m.gb m.gx m.off s

/-- BMV, S major 0x50 (R71, R72, R250, R362). -/
def decBmv (m : MRaw) : Except DecodeError Instr := do
  mFn0 m
  mSc0 m
  mFe0 m
  mFmt0 m
  let d ← decG m.d
  let e ← decAddr0 m
  return .bmv d e

/-- COLL, S major 0x51 (R71, R72, R250, R362). -/
def decColl (m : MRaw) : Except DecodeError Instr := do
  mFn0 m
  mSc0 m
  mFe0 m
  mFmt0 m
  let d ← decG m.d
  let e ← decAddr0 m
  return .coll d e

/-- MCJ, S major 0x52 (R71, R72, R250, R362). -/
def decMcj (m : MRaw) : Except DecodeError Instr := do
  mFn0 m
  mSc0 m
  mFe0 m
  mFmt0 m
  let d ← decG m.d
  let e ← decAddr0 m
  return .mcj d e

/-- The S space (R72). -/
def decodeS (m : MRaw) : Except DecodeError Instr :=
  match m.major.toNat with
  | 0x00 => .error .permanentlyIllegal
  | 0x7F => .error .permanentlyIllegal
  | 0x01 => decStv m
  | 0x02 => decStq m
  | 0x03 => decSts m
  | 0x04 => decSta m
  | 0x05 => decSct m
  | 0x20 => decAtadd m
  | 0x22 => decAtmin m
  | 0x23 => decAtmax m
  | 0x24 => decAtxch m
  | 0x25 => decAtcas m
  | 0x21 => decAtfadd m
  | 0x30 => decFence m
  | 0x31 => decBfen m
  | 0x32 => decToks m
  | 0x40 => decRrsv m
  | 0x41 => decRpub m
  | 0x50 => decBmv m
  | 0x51 => decColl m
  | 0x52 => decMcj m
  | _ => .error .reservedMajor

/-- The register-register group, major 0x01 in CR format (R59, R84, R86). -/
def decCR (p : Parcel) : Except DecodeError Instr :=
  let d : Reg := p.extractLsb' 20 5
  let a : Reg := p.extractLsb' 15 5
  let b : Reg := p.extractLsb' 10 5
  match (p.extractLsb' 0 10).toNat with
  | 0x000 => do decZero d; decZero a; decZero b; return .nop
  | 0x001 => .ok (.add d a b)
  | 0x002 => .ok (.sub d a b)
  | 0x003 => .ok (.mul d a b)
  | 0x004 => .ok (.mulh d a b)
  | 0x005 => .ok (.div d a b)
  | 0x006 => .ok (.rem d a b)
  | 0x007 => .ok (.andr d a b)
  | 0x008 => .ok (.orr d a b)
  | 0x009 => .ok (.xorr d a b)
  | 0x00A => .ok (.shl d a b)
  | 0x00B => .ok (.shr d a b)
  | 0x00C => .ok (.sra d a b)
  | 0x00D => .ok (.minr d a b)
  | 0x00E => .ok (.maxr d a b)
  | 0x00F => .ok (.seq d a b)
  | 0x010 => .ok (.slt d a b)
  | 0x011 => .ok (.sltu d a b)
  | 0x012 => .ok (.csel d a b)
  | 0x018 => .ok (.addx d a b 0)
  | 0x019 => .ok (.addx d a b 1)
  | 0x01A => .ok (.addx d a b 2)
  | 0x01B => .ok (.addx d a b 3)
  | 0x01C => .ok (.addx d a b 4)
  | 0x01D => .ok (.addx d a b 5)
  | 0x01E => .ok (.addx d a b 6)
  | 0x01F => .ok (.addx d a b 7)
  | _ => .error .reservedFn

/-- The system group, major 0x3F in CR format (R59, R107). -/
def decSys (p : Parcel) : Except DecodeError Instr :=
  let d : Reg := p.extractLsb' 20 5
  let a : Reg := p.extractLsb' 15 5
  let b : Reg := p.extractLsb' 10 5
  match (p.extractLsb' 0 10).toNat with
  | 1 => do decZero d; return .tlbi a b
  | 2 => do decZero b; return .tlbs d a
  | 3 => do decZero d; decZero b; return .cswap a
  | _ => .error .reservedFn

/-- A shift by immediate: imm15[14:6] is zero (R58, R87). -/
def decShift (p : Parcel) (mk : Reg → Reg → BitVec 6 → Instr) : Except DecodeError Instr := do
  need (p.extractLsb' 6 9 = 0) .unusedField
  return mk (p.extractLsb' 20 5) (p.extractLsb' 15 5) (p.extractLsb' 0 6)

/-- A CU instruction whose d field is zero (R58, R107). -/
def decCU (p : Parcel) (mk : BitVec 20 → Instr) : Except DecodeError Instr := do
  need (p.extractLsb' 20 5 = 0) .unusedField
  return mk (p.extractLsb' 0 20)

/-- A CU instruction without operands (R107). -/
def decCU0 (p : Parcel) (i : Instr) : Except DecodeError Instr := do
  need (p.extractLsb' 0 25 = 0) .unusedField
  return i

/-- The control subset (R57, R59), for a parcel whose bit 31 is 0. -/
def decodeC (p : Parcel) : Except DecodeError Instr :=
  let d : Reg := p.extractLsb' 20 5
  let a : Reg := p.extractLsb' 15 5
  let imm : BitVec 15 := p.extractLsb' 0 15
  let off : BitVec 25 := p.extractLsb' 0 25
  let lc : BitVec 2 := p.extractLsb' 23 2
  let body : BitVec 10 := p.extractLsb' 0 10
  let sr : BitVec 12 := p.extractLsb' 3 12
  match (p.extractLsb' 25 6).toNat with
  | 0x00 => .error .permanentlyIllegal
  | 0x01 => decCR p
  | 0x02 => .ok (.addi d a imm)
  | 0x03 => .ok (.andi d a imm)
  | 0x04 => .ok (.ori d a imm)
  | 0x05 => .ok (.xori d a imm)
  | 0x09 => .ok (.slti d a imm)
  | 0x06 => decShift p .shli
  | 0x07 => decShift p .shri
  | 0x08 => decShift p .srai
  | 0x0A => .ok (.lui d (p.extractLsb' 0 20))
  | 0x20 => .ok (.beq d a imm)
  | 0x21 => .ok (.bne d a imm)
  | 0x22 => .ok (.blt d a imm)
  | 0x23 => .ok (.bge d a imm)
  | 0x24 => .ok (.bltu d a imm)
  | 0x25 => .ok (.bgeu d a imm)
  | 0x26 => .ok (.jmp off)
  | 0x27 => .ok (.jal off)
  | 0x28 => do
    decZero d
    need (p.extractLsb' 10 5 = 0) .unusedField
    need (p.extractLsb' 0 10 = 0) .reservedFn
    return .jr a
  | 0x30 => do
    need (p.extractLsb' 10 8 = 0) .unusedField
    need (body ≠ 0) .badOperand
    return .loop lc (p.extractLsb' 18 5) body
  | 0x31 => do
    need (body ≠ 0) .badOperand
    return .loopi lc (p.extractLsb' 10 13) body
  | 0x32 => do
    need (p.extractLsb' 0 23 = 0) .unusedField
    return .lbrk lc
  | 0x38 => do
    decZero a
    need (p.extractLsb' 0 3 = 0) .unusedField
    return .mfs d sr
  | 0x39 => do
    decZero d
    need (p.extractLsb' 0 3 = 0) .unusedField
    return .mts a sr
  | 0x3A => decCU p .waitc
  | 0x3B => decCU p .trap
  | 0x3C => decCU0 p .rte
  | 0x3D => decCU p .brk
  | 0x3E => decCU0 p .idle
  | 0x3F => decSys p
  | _ => .error .reservedMajor

/-- Parcel 0 frames a two-parcel instruction (R55). -/
def isWide (p0 : Parcel) : Bool := p0.extractLsb' 31 1 = 1

/-- The decoder (R55, R73): the instruction that sequencer sq reads from parcel 0 and parcel 1. A control instruction
ignores parcel 1, which belongs to the next instruction. -/
def decode (sq : Seq) (p0 p1 : Parcel) : Except DecodeError Instr :=
  if p0 = 0xFFFFFFFF then .error .permanentlyIllegal
  else if isWide p0 then
    if p1 = 0xFFFFFFFF then .error .permanentlyIllegal
    else
      match sq with
      | .L => decodeL (mUnpack p0 p1)
      | .X => decodeX (xUnpack p0 p1)
      | .S => decodeS (mUnpack p0 p1)
  else decodeC p0

/-- The parcel stored at byte b of a list of bytes, little-endian (R2, R54); bytes beyond the list are zero. -/
def parcelAt (bytes : List Byte) (b : Nat) : Parcel :=
  BitVec.ofNat 32 (Machine.ofBytes (fun i => bytes.getD (b + i) 0) 4)

/-- The decoder on bytes in ascending address order. -/
def decodeBytes (sq : Seq) (bytes : List Byte) : Except DecodeError Instr := decode sq (parcelAt bytes 0) (parcelAt bytes 4)

/-- The bytes of an instruction given as the opcode table numbers its bits: the first parcel is bits [31:0] and parcel 1
bits [63:32], each little-endian (R2, R54), so byte i is bits [8i+7:8i]. -/
def tableBytes (nbits w : Nat) : List Byte :=
  (List.range 8).map fun i => if 8 * i < nbits then BitVec.ofNat 8 ((w % 2 ^ nbits) >>> (8 * i)) else 0

/-- The sequencers in the order in which a table word is offered to them: a 64-bit word has a meaning of its own in each
of the three spaces (R55). DESIGN CHOICE, log entry 2. -/
def tableOrder : List Seq := [.X, .L, .S]

/-- The sequencer whose decoder accepts a table word, in tableOrder, and what it reads. -/
def decodeTable (nbits w : Nat) : Option (Seq × Instr) :=
  tableOrder.findSome? fun sq =>
    match decodeBytes sq (tableBytes nbits w) with
    | .ok i => some (sq, i)
    | .error _ => none

/-- The instruction that the decoder reads from a word numbered as the opcode table numbers it. -/
def decodeTableWord (nbits w : Nat) : Option Instr := (decodeTable nbits w).map Prod.snd

/-! ## The encoder -/

/-- The two parcels of an X instruction (R60). -/
def xPack (x : XRaw) : List Parcel :=
  [(1#1 ++ x.major ++ x.fn ++ x.d ++ x.a : BitVec 32), (x.b ++ x.c ++ x.fmt ++ x.stall ++ x.nf ++ x.k ++ x.sel : BitVec 32)]

/-- The two parcels of an L or S instruction (R65). -/
def mPack (m : MRaw) : List Parcel :=
  [(1#1 ++ m.major ++ m.fn ++ m.d ++ m.gb ++ m.gx : BitVec 32),
   (m.off ++ m.sc ++ m.fe ++ m.hs ++ m.hslot ++ m.fmt : BitVec 32)]

/-- The operand code of R61. -/
def encOpnd : Opnd → BitVec 10
  | .dir i => i
  | .ind g => 0x3C0#10 ||| g.setWidth 10
  | .q n => 0x3E0#10 ||| n.setWidth 10
  | .w n => 0x3E8#10 ||| n.setWidth 10
  | .flags => 0x3EC

/-- fmt codes of domains F and I (R62). -/
def encFFmt : FFmt → BitVec 3
  | .f32 => 0 | .bf16 => 1 | .f16 => 2 | .fp8e4 => 3 | .fp8e5 => 4 | .fp4 => 5 | .mk8 => 6
def encIFmt : IFmt → BitVec 3
  | .i32 => 0 | .i16 => 1 | .i8 => 2 | .i4 => 3 | .n32 => 4 | .n16 => 5 | .n8 => 6 | .n4 => 7
def encDFmt : DFmt → BitVec 1 × BitVec 3
  | .fp f => (1, encFFmt f)
  | .int f => (0, encIFmt f)

/-- Qualifier codes (R64, R171). -/
def encRound : Round → BitVec 3
  | .rne => 0 | .rz => 1 | .rup => 2 | .rdn => 3 | .rna => 4
def encPred : Pred → BitVec 3
  | .eq => 0 | .ne => 1 | .lt => 2 | .le => 3 | .gt => 4 | .ge => 5 | .un => 6
def encKOp : KOpKind → BitVec 3
  | .and => 0 | .or => 1 | .xor => 2 | .andn => 3 | .orn => 4 | .xnor => 5
def encBit (b : Bool) : BitVec 1 := if b then 1 else 0

/-- sel and the index in c[2:0] (R63). -/
def encSel : Sel → BitVec 2 × BitVec 3
  | .none => (0, 0) | .a s => (1, s) | .b s => (2, s) | .ab s => (3, s)

/-- An X instruction with its common fields and zero elsewhere. -/
def xBase (major : BitVec 7) (q : XQ) : XRaw :=
  { major, fn := 0, d := 0, a := 0, b := 0, c := 0, fmt := 0, stall := q.stall, nf := encBit q.nf, k := q.k, sel := 0 }

/-- An X instruction with a selector. -/
def xSel (x : XRaw) (s : Sel) : XRaw := { x with sel := (encSel s).1, c := x.c ||| (encSel s).2.setWidth 10 }

/-- fn from its top bit and its low three bits (R64). -/
def encFn (hi : BitVec 1) (lo : BitVec 3) : BitVec 4 := hi ++ lo

/-- Codes of the L and S fields (R64, R65, R250, R257). -/
def encFe : Fe → BitVec 2
  | .none => 0 | .fe => 1 | .fec => 2
def encScope : Scope → BitVec 3
  | .core => 0 | .clus => 1 | .die => 2 | .pkg => 3 | .dom => 4
def encKind : AKind → BitVec 4
  | .none => 0 | .acq => 1 | .rel => 2 | .full => 3
def encSFmt : SFmt → BitVec 4
  | .w64 => 0 | .i32 => 8 | .i16 => 9 | .i8 => 10 | .n32 => 12 | .n16 => 13 | .n8 => 14
def encAFmt : AFmt → BitVec 4
  | .w64 => 0 | .i32 => 8 | .n32 => 12
def encAFFmt : AFFmt → BitVec 4
  | .f32 => 0 | .bf16 => 1 | .f16 => 2
def encRFmt : RFmt → BitVec 3
  | .f32 => 0 | .bf16 => 1 | .f16 => 2 | .fp8e4 => 3 | .fp8e5 => 4

/-- An L or S instruction with its major and destination, zero elsewhere. -/
def mBase (major : BitVec 7) (d : BitVec 10) : MRaw :=
  { major, fn := 0, d, gb := 0, gx := 0, off := 0, sc := 0, fe := 0, hs := 0, hslot := 0, fmt := 0 }

/-- The slot fields (R65). -/
def mSlot (m : MRaw) (s : Option (BitVec 4)) : MRaw :=
  match s with
  | none => m
  | some n => { m with hs := 1, hslot := n }

/-- The address operand (R65). -/
def mAddr (m : MRaw) (e : Addr) : MRaw := mSlot { m with gb := e.gb, gx := e.gx, off := e.off } e.slot

/-- The base and the separate index register (R250). -/
def mBaseAddr (m : MRaw) (e : Base) (gx : Reg) : MRaw := mSlot { m with gb := e.gb, gx, off := e.off } e.slot

/-- Control formats (R57). -/
def encCR (major : BitVec 6) (d a b : Reg) (fn : BitVec 10) : List Parcel := [(0#1 ++ major ++ d ++ a ++ b ++ fn : BitVec 32)]
def encCI (major : BitVec 6) (d a : Reg) (imm : BitVec 15) : List Parcel := [(0#1 ++ major ++ d ++ a ++ imm : BitVec 32)]
def encCU (major : BitVec 6) (d : Reg) (imm : BitVec 20) : List Parcel := [(0#1 ++ major ++ d ++ imm : BitVec 32)]
def encCJ (major : BitVec 6) (off : BitVec 25) : List Parcel := [(0#1 ++ major ++ off : BitVec 32)]
def encCL (major : BitVec 6) (lc : BitVec 2) (cnt : BitVec 13) (body : BitVec 10) : List Parcel :=
  [(0#1 ++ major ++ lc ++ cnt ++ body : BitVec 32)]
def encCS (major : BitVec 6) (d a : Reg) (sr : BitVec 12) : List Parcel := [(0#1 ++ major ++ d ++ a ++ sr ++ 0#3 : BitVec 32)]

/-- The encoder: the parcels of an instruction, and none for a step of another agent. -/
def encode : Instr → List Parcel
  | .nop => encCR 1 0 0 0 0
  | .add d a b => encCR 1 d a b 0x001
  | .sub d a b => encCR 1 d a b 0x002
  | .mul d a b => encCR 1 d a b 0x003
  | .mulh d a b => encCR 1 d a b 0x004
  | .div d a b => encCR 1 d a b 0x005
  | .rem d a b => encCR 1 d a b 0x006
  | .andr d a b => encCR 1 d a b 0x007
  | .orr d a b => encCR 1 d a b 0x008
  | .xorr d a b => encCR 1 d a b 0x009
  | .shl d a b => encCR 1 d a b 0x00A
  | .shr d a b => encCR 1 d a b 0x00B
  | .sra d a b => encCR 1 d a b 0x00C
  | .minr d a b => encCR 1 d a b 0x00D
  | .maxr d a b => encCR 1 d a b 0x00E
  | .seq d a b => encCR 1 d a b 0x00F
  | .slt d a b => encCR 1 d a b 0x010
  | .sltu d a b => encCR 1 d a b 0x011
  | .csel d a b => encCR 1 d a b 0x012
  | .addx d a b s => encCR 1 d a b (0b11#7 ++ s)
  | .addi d a imm => encCI 2 d a imm
  | .andi d a imm => encCI 3 d a imm
  | .ori d a imm => encCI 4 d a imm
  | .xori d a imm => encCI 5 d a imm
  | .shli d a sh => encCI 6 d a (0#9 ++ sh)
  | .shri d a sh => encCI 7 d a (0#9 ++ sh)
  | .srai d a sh => encCI 8 d a (0#9 ++ sh)
  | .slti d a imm => encCI 9 d a imm
  | .lui d imm => encCU 0x0A d imm
  | .beq a b off => encCI 0x20 a b off
  | .bne a b off => encCI 0x21 a b off
  | .blt a b off => encCI 0x22 a b off
  | .bge a b off => encCI 0x23 a b off
  | .bltu a b off => encCI 0x24 a b off
  | .bgeu a b off => encCI 0x25 a b off
  | .jmp off => encCJ 0x26 off
  | .jal off => encCJ 0x27 off
  | .jr a => encCR 0x28 0 a 0 0
  | .loop lc a body => encCL 0x30 lc (a ++ 0#8) body
  | .loopi lc cnt body => encCL 0x31 lc cnt body
  | .lbrk lc => encCL 0x32 lc 0 0
  | .mfs d sr => encCS 0x38 d 0 sr
  | .mts a sr => encCS 0x39 0 a sr
  | .bankWake _ => []
  | .waitc imm => encCU 0x3A 0 imm
  | .trap imm => encCU 0x3B 0 imm
  | .rte => encCU 0x3C 0 0
  | .brk imm => encCU 0x3D 0 imm
  | .idle => encCU 0x3E 0 0
  | .tlbi a b => encCR 0x3F 0 a b 1
  | .tlbs d a => encCR 0x3F d a 0 2
  | .cswap a => encCR 0x3F 0 a 0 3
  | .scalarDivideComplete _ _ => []
  | .vadd f sat sel d a b q => xPack (xSel ({ xBase 0x01 q with fn := encFn (encBit sat) 0, fmt := encIFmt f, d := encOpnd d, a := encOpnd a, b := encOpnd b }) sel)
  | .vsub f sat sel d a b q => xPack (xSel ({ xBase 0x02 q with fn := encFn (encBit sat) 0, fmt := encIFmt f, d := encOpnd d, a := encOpnd a, b := encOpnd b }) sel)
  | .vmul f sat sel d a b q => xPack (xSel ({ xBase 0x03 q with fn := encFn (encBit sat) 0, fmt := encIFmt f, d := encOpnd d, a := encOpnd a, b := encOpnd b }) sel)
  | .vmulh f sel d a b q => xPack (xSel ({ xBase 0x04 q with fmt := encIFmt f, d := encOpnd d, a := encOpnd a, b := encOpnd b }) sel)
  | .vmad f sat d a b c q => xPack ({ xBase 0x05 q with fn := encFn (encBit sat) 0, fmt := encIFmt f, d := encOpnd d, a := encOpnd a, b := encOpnd b, c := encOpnd c })
  | .vabs f sat sel d a q => xPack (xSel ({ xBase 0x06 q with fn := encFn (encBit sat) 0, fmt := encIFmt f, d := encOpnd d, a := encOpnd a }) sel)
  | .vneg f sat sel d a q => xPack (xSel ({ xBase 0x07 q with fn := encFn (encBit sat) 0, fmt := encIFmt f, d := encOpnd d, a := encOpnd a }) sel)
  | .vmin f sel d a b q => xPack (xSel ({ xBase 0x08 q with fmt := encIFmt f, d := encOpnd d, a := encOpnd a, b := encOpnd b }) sel)
  | .vmax f sel d a b q => xPack (xSel ({ xBase 0x09 q with fmt := encIFmt f, d := encOpnd d, a := encOpnd a, b := encOpnd b }) sel)
  | .vand d a b q => xPack ({ xBase 0x0A q with d := encOpnd d, a := encOpnd a, b := encOpnd b })
  | .vor d a b q => xPack ({ xBase 0x0B q with d := encOpnd d, a := encOpnd a, b := encOpnd b })
  | .vxor d a b q => xPack ({ xBase 0x0C q with d := encOpnd d, a := encOpnd a, b := encOpnd b })
  | .vandn d a b q => xPack ({ xBase 0x0D q with d := encOpnd d, a := encOpnd a, b := encOpnd b })
  | .vshl f sel d a b q => xPack (xSel ({ xBase 0x0E q with fmt := encIFmt f, d := encOpnd d, a := encOpnd a, b := encOpnd b }) sel)
  | .vshr f sel d a b q => xPack (xSel ({ xBase 0x0F q with fmt := encIFmt f, d := encOpnd d, a := encOpnd a, b := encOpnd b }) sel)
  | .vsra f sel d a b q => xPack (xSel ({ xBase 0x10 q with fmt := encIFmt f, d := encOpnd d, a := encOpnd a, b := encOpnd b }) sel)
  | .vcmp f p sel kd a b q => xPack (xSel ({ xBase 0x11 q with fn := encFn 0 (encPred p), fmt := encIFmt f, d := kd.setWidth 10, a := encOpnd a, b := encOpnd b }) sel)
  | .vsel d a b q => xPack ({ xBase 0x12 q with d := encOpnd d, a := encOpnd a, b := encOpnd b })
  | .vsat f d a q => xPack ({ xBase 0x13 q with fmt := encIFmt f, d := encOpnd d, a := encOpnd a })
  | .vtacc sat sel d a b q => xPack (xSel ({ xBase 0x14 q with fn := encFn (encBit sat) 0, fmt := 3, d := encOpnd d, a := encOpnd a, b := encOpnd b }) sel)
  | .tunp sel d a q => xPack (xSel ({ xBase 0x46 q with d := encOpnd d, a := encOpnd a }) sel)
  | .vfadd f sel d a b q => xPack (xSel ({ xBase 0x20 q with fmt := encFFmt f, d := encOpnd d, a := encOpnd a, b := encOpnd b }) sel)
  | .vfsub f sel d a b q => xPack (xSel ({ xBase 0x21 q with fmt := encFFmt f, d := encOpnd d, a := encOpnd a, b := encOpnd b }) sel)
  | .vfmul f sel d a b q => xPack (xSel ({ xBase 0x22 q with fmt := encFFmt f, d := encOpnd d, a := encOpnd a, b := encOpnd b }) sel)
  | .vfma f d a b c q => xPack ({ xBase 0x23 q with fmt := encFFmt f, d := encOpnd d, a := encOpnd a, b := encOpnd b, c := encOpnd c })
  | .vfnma f d a b c q => xPack ({ xBase 0x24 q with fmt := encFFmt f, d := encOpnd d, a := encOpnd a, b := encOpnd b, c := encOpnd c })
  | .vfmin f sel d a b q => xPack (xSel ({ xBase 0x25 q with fmt := encFFmt f, d := encOpnd d, a := encOpnd a, b := encOpnd b }) sel)
  | .vfmax f sel d a b q => xPack (xSel ({ xBase 0x26 q with fmt := encFFmt f, d := encOpnd d, a := encOpnd a, b := encOpnd b }) sel)
  | .vfcmp f p sel kd a b q => xPack (xSel ({ xBase 0x27 q with fn := encFn 0 (encPred p), fmt := encFFmt f, d := kd.setWidth 10, a := encOpnd a, b := encOpnd b }) sel)
  | .vfcls f sel d a q => xPack (xSel ({ xBase 0x28 q with fmt := encFFmt f, d := encOpnd d, a := encOpnd a }) sel)
  | .vfdiv f sel d a b q => xPack (xSel ({ xBase 0x29 q with fmt := encFFmt f, d := encOpnd d, a := encOpnd a, b := encOpnd b }) sel)
  | .vrcp f sel d a q => xPack (xSel ({ xBase 0x2A q with fmt := encFFmt f, d := encOpnd d, a := encOpnd a }) sel)
  | .vrsq f sel d a q => xPack (xSel ({ xBase 0x2B q with fmt := encFFmt f, d := encOpnd d, a := encOpnd a }) sel)
  | .vexp2 f sel d a q => xPack (xSel ({ xBase 0x2C q with fmt := encFFmt f, d := encOpnd d, a := encOpnd a }) sel)
  | .vlog2 f sel d a q => xPack (xSel ({ xBase 0x2D q with fmt := encFFmt f, d := encOpnd d, a := encOpnd a }) sel)
  | .vcvtFloatToFloat df sf r sat sel d a q => xPack (xSel ({ xBase 0x40 q with fn := encFn (encBit sat) (encRound r), fmt := encFFmt df, c := 0#4 ++ encFFmt sf ++ 0#3, d := encOpnd d, a := encOpnd a }) sel)
  | .vcvtFloatToInteger df sf r sel d a q => xPack (xSel ({ xBase 0x41 q with fn := encFn 0 (encRound r), fmt := encIFmt df, c := 0#4 ++ encFFmt sf ++ 0#3, d := encOpnd d, a := encOpnd a }) sel)
  | .vcvtIntegerToFloat df sf r sat sel d a q => xPack (xSel ({ xBase 0x42 q with fn := encFn (encBit sat) (encRound r), fmt := encFFmt df, c := 0#4 ++ encIFmt sf ++ 0#3, d := encOpnd d, a := encOpnd a }) sel)
  | .vcvtIntegerToInteger df sf sat sel d a q => xPack (xSel ({ xBase 0x43 q with fn := encFn (encBit sat) 0, fmt := encIFmt df, c := 0#4 ++ encIFmt sf ++ 0#3, d := encOpnd d, a := encOpnd a }) sel)
  | .vpack f r d a b q => xPack ({ xBase 0x44 q with fn := encFn (encDFmt f).1 (encRound r), fmt := (encDFmt f).2, d := encOpnd d, a := encOpnd a, b := encOpnd b })
  | .vunpk f d a q => xPack ({ xBase 0x45 q with fn := encFn (encDFmt f).1 0, fmt := (encDFmt f).2, d := encOpnd d, a := encOpnd a })
  | .cbx w t d a q => xPack ({ xBase 0x47 q with fn := encFn (encBit (w = .four)) t, fmt := 1, d := encOpnd d, a := encOpnd a })
  | .cbld t a q => xPack ({ xBase 0x48 q with fmt := 1, d := t.setWidth 10, a := encOpnd a })
  | .vmov d a q => xPack ({ xBase 0x50 q with d := encOpnd d, a := encOpnd a })
  | .vbcst d a q => xPack ({ xBase 0x51 q with d := encOpnd d, a := a.setWidth 10 })
  | .vidx d q => xPack ({ xBase 0x52 q with d := encOpnd d })
  | .vperm d a b q => xPack ({ xBase 0x53 q with d := encOpnd d, a := encOpnd a, b := encOpnd b })
  | .vrot d a b q => xPack ({ xBase 0x54 q with d := encOpnd d, a := encOpnd a, b := b.setWidth 10 })
  | .vgth d a b q => xPack ({ xBase 0x55 q with d := encOpnd d, a := encOpnd a, b := encOpnd b })
  | .vsct d a b q => xPack ({ xBase 0x56 q with d := encOpnd d, a := encOpnd a, b := encOpnd b })
  | .vxtr f d a b q => xPack ({ xBase 0x57 q with fmt := encIFmt f, d := d.setWidth 10, a := encOpnd a, b := b.setWidth 10 })
  | .vins f d a b q => xPack ({ xBase 0x58 q with fmt := encIFmt f, d := encOpnd d, a := a.setWidth 10, b := b.setWidth 10 })
  | .vrsum f d a q => xPack ({ xBase 0x60 q with fn := encFn (encDFmt f).1 0, fmt := (encDFmt f).2, d := encOpnd d, a := encOpnd a })
  | .vrmax f d a q => xPack ({ xBase 0x61 q with fn := encFn (encDFmt f).1 0, fmt := (encDFmt f).2, d := encOpnd d, a := encOpnd a })
  | .vrmin f d a q => xPack ({ xBase 0x62 q with fn := encFn (encDFmt f).1 0, fmt := (encDFmt f).2, d := encOpnd d, a := encOpnd a })
  | .vmcnt d ka q => xPack ({ xBase 0x63 q with d := d.setWidth 10, a := ka.setWidth 10 })
  | .vmscl f sel d a b q => xPack (xSel ({ xBase 0x64 q with fmt := encFFmt f, d := encOpnd d, a := encOpnd a, b := encOpnd b }) sel)
  | .kop op kd ka kb q => xPack ({ xBase 0x65 q with fn := encFn 0 (encKOp op), d := kd.setWidth 10, a := ka.setWidth 10, b := kb.setWidth 10 })
  | .kset kd a q => xPack ({ xBase 0x66 q with d := kd.setWidth 10, a := a.setWidth 10 })
  | .xResultLand _ => []
  | .sms q => xPack (xBase 0x68 q)
  | .wpw q => xPack (xBase 0x69 q)
  | .gbar q => xPack (xBase 0x6A q)
  | .gangBarrierComplete _ => []
  | .sig a q => xPack ({ xBase 0x6B q with a := a.setWidth 10 })
  | .tail q => xPack (xBase 0x6C q)
  | .yld q => xPack (xBase 0x6D q)
  | .qtst d a q => xPack ({ xBase 0x6E q with d := d.setWidth 10, a := encOpnd (.q a) })
  | .qfwd d a q => xPack ({ xBase 0x6F q with d := encOpnd (.w d), a := encOpnd (.q a) })
  | .mcfg word a q => xPack ({ xBase 0x70 q with d := word.setWidth 10, a := a.setWidth 10 })
  | .mcfgl a q => xPack ({ xBase 0x71 q with a := encOpnd a })
  | .mgo q => xPack (xBase 0x72 q)
  | .mwait d q => xPack ({ xBase 0x73 q with d := d.setWidth 10 })
  | .aclr d a h q => xPack ({ xBase 0x74 q with d := encOpnd d, a := a.setWidth 10, c := h.setWidth 10 })
  | .aanc d a h q => xPack ({ xBase 0x75 q with d := encOpnd d, a := a.setWidth 10, c := h.setWidth 10 })
  | .rslvCanonical d h q => xPack ({ xBase 0x76 q with fmt := 7, d := encOpnd d, c := h.setWidth 10 })
  | .rslvToFormat f r sat d a h q => xPack ({ xBase 0x76 q with fn := encFn (encBit sat) (encRound r), fmt := encRFmt f, d := encOpnd d, a := encOpnd a, c := h.setWidth 10 })
  | .rslvWireForm d a b h q => xPack ({ xBase 0x76 q with fmt := 6, d := encOpnd d, a := encOpnd a, b := b.setWidth 10, c := h.setWidth 10 })
  | .ascl d a b h q => xPack ({ xBase 0x77 q with d := encOpnd d, a := encOpnd a, b := encOpnd b, c := h.setWidth 10 })
  | .acmp p raw kd a b col q => xPack ({ xBase 0x78 q with fn := encFn 0 (0#2 ++ encBit raw), fmt := encPred p, d := kd.setWidth 10, a := encOpnd a, b := encOpnd b, c := col.setWidth 10 })
  | .amov d a h q => xPack ({ xBase 0x79 q with d := encOpnd d, a := encOpnd a, c := h.setWidth 10 })
  | .achk a h q => xPack ({ xBase 0x7A q with a := encOpnd a, c := h.setWidth 10 })
  | .nestJobStart _ => []
  | .shardLatchReady _ => []
  | .beatLand _ => []
  | .nestJobComplete _ => []
  | .resolverJobStart _ => []
  | .resolverJobComplete _ => []
  | .ldv d e x => mPack (mAddr { mBase 0x01 (encOpnd d) with fe := encFe x } e)
  | .ldq d e x => mPack (mAddr { mBase 0x02 (encOpnd (.q d)) with fe := encFe x } e)
  | .lds f d e x => mPack (mAddr { mBase 0x03 (d.setWidth 10) with fe := encFe x, fmt := encSFmt f } e)
  | .gthq d gx e => mPack (mBaseAddr (mBase 0x04 (encOpnd (.q d))) e gx)
  | .prf e => mPack (mAddr (mBase 0x05 0) e)
  | .qpsh d gb gx => mPack ({ mBase 0x06 (encOpnd (.q d)) with gb, gx })
  | .qeos d => mPack (mBase 0x07 (encOpnd (.q d)))
  | .strm d e x => mPack (mAddr { mBase 0x20 (encOpnd (.q d)) with fe := encFe x } e)
  | .loadDataArrive _ => []
  | .tokw d => mPack (mBase 0x30 (d.setWidth 10))
  | .hget d gb slot => mPack (mSlot { mBase 0x31 (d.setWidth 10) with gb } (some slot))
  | .hpass d gb gx slot => mPack (mSlot { mBase 0x32 (d.setWidth 10) with gb, gx } (some slot))
  | .hrel slot => mPack (mSlot (mBase 0x33 0) (some slot))
  | .itin d e => mPack (mAddr (mBase 0x40 (d.setWidth 10)) e)
  | .jcpy d e => mPack (mAddr (mBase 0x41 (d.setWidth 10)) e)
  | .jwait d => mPack (mBase 0x42 (d.setWidth 10))
  | .rcon d gb gx off slot => mPack (mSlot { mBase 0x50 (encOpnd (.q d)) with gb, gx, off } (some slot))
  | .rqgt d slot => mPack (mSlot (mBase 0x51 (encOpnd (.q d))) (some slot))
  | .mca d gb gx => mPack ({ mBase 0x52 (d.setWidth 10) with gb, gx })
  | .stv d e x => mPack (mAddr { mBase 0x01 (encOpnd d) with fe := encFe x } e)
  | .stq d e x => mPack (mAddr { mBase 0x02 (encOpnd (.w d)) with fe := encFe x } e)
  | .sts f d e x => mPack (mAddr { mBase 0x03 (d.setWidth 10) with fe := encFe x, fmt := encSFmt f } e)
  | .sta raw d gx e => mPack (mBaseAddr { mBase 0x04 (encOpnd d) with fn := 0#3 ++ encBit raw } e gx)
  | .sct d gx e => mPack (mBaseAddr (mBase 0x05 (encOpnd (.w d))) e gx)
  | .atadd f k sc d gx e => mPack (mBaseAddr { mBase 0x20 (d.setWidth 10) with fn := encKind k, sc := encScope sc, fmt := encAFmt f } e gx)
  | .atfadd f k sc d gx e => mPack (mBaseAddr { mBase 0x21 (d.setWidth 10) with fn := encKind k, sc := encScope sc, fmt := encAFFmt f } e gx)
  | .atmin f k sc d gx e => mPack (mBaseAddr { mBase 0x22 (d.setWidth 10) with fn := encKind k, sc := encScope sc, fmt := encAFmt f } e gx)
  | .atmax f k sc d gx e => mPack (mBaseAddr { mBase 0x23 (d.setWidth 10) with fn := encKind k, sc := encScope sc, fmt := encAFmt f } e gx)
  | .atxch f k sc d gx e => mPack (mBaseAddr { mBase 0x24 (d.setWidth 10) with fn := encKind k, sc := encScope sc, fmt := encAFmt f } e gx)
  | .atcas f k sc d gx e => mPack (mBaseAddr { mBase 0x25 (d.setWidth 10) with fn := encKind k, sc := encScope sc, fmt := encAFmt f } e gx)
  | .fence k sc => mPack ({ mBase 0x30 0 with fn := encKind k, sc := encScope sc })
  | .bfen sc => mPack ({ mBase 0x31 0 with sc := encScope sc })
  | .toks sc d => mPack ({ mBase 0x32 (d.setWidth 10) with sc := encScope sc })
  | .rrsv d gb off slot => mPack (mSlot { mBase 0x40 (d.setWidth 10) with gb, off } (some slot))
  | .rpub d gb gx off slot => mPack (mSlot { mBase 0x41 (encOpnd (.w d)) with gb, gx, off } (some slot))
  | .bmv d e => mPack (mAddr (mBase 0x50 (d.setWidth 10)) e)
  | .coll d e => mPack (mAddr (mBase 0x51 (d.setWidth 10)) e)
  | .mcj d e => mPack (mAddr (mBase 0x52 (d.setWidth 10)) e)
  | .writePerformHome _ _ => []
  | .remoteUpdateInstall _ _ => []
  | .fullEmptyGrant _ => []
  | .itineraryStart _ _ => []
  | .itineraryEntryIssue _ _ => []
  | .itineraryGranuleLand _ _ _ _ => []
  | .itineraryEntryComplete _ _ _ => []
  | .entryLate _ _ _ => []
  | .itineraryEnd _ _ => []
  | .multicastDelivery _ _ _ _ => []
  | .copyCardStart _ _ => []
  | .copyCardComplete _ => []
  | .bmvJobComplete _ => []
  | .collectiveAdmission _ _ => []
  | .blockEmit _ _ => []
  | .switchContribution _ _ _ => []
  | .switchBlockTimeout _ _ _ => []
  | .endMarker _ _ => []
  | .topSwitchTimerStart _ => []
  | .resultBlockDelivery _ _ _ _ => []
  | .collectiveComplete _ _ => []
  | .flitLoss _ _ _ => []
  | .remoteAccess _ _ _ => []
  | .gathererTakeSlot _ _ => []
  | .batchCloseDeadline _ _ => []
  | .launchRecordTake _ _ => []
  | .streamWaitSatisfied _ _ => []
  | .signalRecord _ _ => []
  | .kernelResident _ _ => []
  | .earlyResident _ _ => []
  | .placementAsk _ => []
  | .cellStart _ => []
  | .cellEnd _ => []
  | .retirementEntryRetire _ _ => []
  | .kernelComplete _ _ => []
  | .priorityAging _ _ => []
  | .sensorRefresh _ _ _ => []
  | .powerLimitReached _ => []
  | .bucketRefill => []
  | .watchdogExpire _ => []
  | .haltLineArrive _ _ => []
  | .engineStopPoint _ _ => []
  | .haltComplete _ => []
  | .shadowFlip _ => []
  | .contextSpillComplete _ => []
  | .contextWake _ _ => []
  | .contextResume _ _ => []
  | .cxctlPark _ => []
  | .haltctlResume _ => []
  | .haltctlAbandon _ => []
  | .haltctlParkAll _ => []
  | .prqPop => []
  | .prqAck _ _ => []
  | .debugHalt => []
  | .debugResume => []
  | .debugStep => []
  | .debugEngineStep => []
  | .debugAttach _ => []
  | .dbgdataWrite _ => []
  | .pdbgWrite _ _ => []
  | .partitionReset _ => []
  | .prstctlGo _ => []
  | .functionLevelReset _ => []
  | .resetAccessDrain _ => []
  | .pcfgWrite _ _ => []
  | .partitionEnable _ => []
  | .partitionDestroy _ => []
  | .clusterScrubComplete _ => []
  | .exportGrant _ _ => []
  | .exportWithdraw _ _ => []
  | .mgmtMemoryAccess _ _ _ _ => []
  | .invalidatePage _ _ => []
  | .invalidateAsid _ => []
  | .invalidateAll => []
  | .invalidateExportUnit _ => []
  | .invalidationDone => []
  | .keyLoad => []
  | .keyClear => []
  | .cxlRekey _ => []
  | .migrateSwap _ => []
  | .migrateOptimistic _ => []
  | .migrationEnd _ => []
  | .llclrHop _ _ _ => []
  | .llclrPace _ _ => []
  | .streamTailWrite _ _ _ => []
  | .streamClearError _ _ => []
  | .gathererConfigWrite _ _ _ _ => []
  | .registerWrite _ _ _ => []
  | .dieFence _ => []
  | .heartbeatTimeout _ => []
  | .masterElection => []
  | .perstDeassert _ => []
  | .stage1Ready => []
  | .attestationRequest _ _ _ => []
  | .sidebandResetRequest => []
  | .hostWindowAccess _ _ _ _ _ => []
  | .joinRecorded _ => []
  | .softError _ _ => []
  | .subarrayRefresh _ _ => []

/-- The parcels an instruction occupies (R54). -/
def Instr.parcels (i : Instr) : Nat := (encode i).length

/-- The sequencer that executes an instruction of an engine-private space; any may execute a control instruction. -/
def Instr.space : Instr → Option Seq
  | .nop => none
  | .add _ _ _ => none
  | .sub _ _ _ => none
  | .mul _ _ _ => none
  | .mulh _ _ _ => none
  | .div _ _ _ => none
  | .rem _ _ _ => none
  | .andr _ _ _ => none
  | .orr _ _ _ => none
  | .xorr _ _ _ => none
  | .shl _ _ _ => none
  | .shr _ _ _ => none
  | .sra _ _ _ => none
  | .minr _ _ _ => none
  | .maxr _ _ _ => none
  | .seq _ _ _ => none
  | .slt _ _ _ => none
  | .sltu _ _ _ => none
  | .csel _ _ _ => none
  | .addx _ _ _ _ => none
  | .addi _ _ _ => none
  | .andi _ _ _ => none
  | .ori _ _ _ => none
  | .xori _ _ _ => none
  | .shli _ _ _ => none
  | .shri _ _ _ => none
  | .srai _ _ _ => none
  | .slti _ _ _ => none
  | .lui _ _ => none
  | .beq _ _ _ => none
  | .bne _ _ _ => none
  | .blt _ _ _ => none
  | .bge _ _ _ => none
  | .bltu _ _ _ => none
  | .bgeu _ _ _ => none
  | .jmp _ => none
  | .jal _ => none
  | .jr _ => none
  | .loop _ _ _ => none
  | .loopi _ _ _ => none
  | .lbrk _ => none
  | .mfs _ _ => none
  | .mts _ _ => none
  | .bankWake _ => none
  | .waitc _ => none
  | .trap _ => none
  | .rte => none
  | .brk _ => none
  | .idle => none
  | .tlbi _ _ => none
  | .tlbs _ _ => none
  | .cswap _ => none
  | .scalarDivideComplete _ _ => none
  | .vadd _ _ _ _ _ _ _ => some .X
  | .vsub _ _ _ _ _ _ _ => some .X
  | .vmul _ _ _ _ _ _ _ => some .X
  | .vmulh _ _ _ _ _ _ => some .X
  | .vmad _ _ _ _ _ _ _ => some .X
  | .vabs _ _ _ _ _ _ => some .X
  | .vneg _ _ _ _ _ _ => some .X
  | .vmin _ _ _ _ _ _ => some .X
  | .vmax _ _ _ _ _ _ => some .X
  | .vand _ _ _ _ => some .X
  | .vor _ _ _ _ => some .X
  | .vxor _ _ _ _ => some .X
  | .vandn _ _ _ _ => some .X
  | .vshl _ _ _ _ _ _ => some .X
  | .vshr _ _ _ _ _ _ => some .X
  | .vsra _ _ _ _ _ _ => some .X
  | .vcmp _ _ _ _ _ _ _ => some .X
  | .vsel _ _ _ _ => some .X
  | .vsat _ _ _ _ => some .X
  | .vtacc _ _ _ _ _ _ => some .X
  | .tunp _ _ _ _ => some .X
  | .vfadd _ _ _ _ _ _ => some .X
  | .vfsub _ _ _ _ _ _ => some .X
  | .vfmul _ _ _ _ _ _ => some .X
  | .vfma _ _ _ _ _ _ => some .X
  | .vfnma _ _ _ _ _ _ => some .X
  | .vfmin _ _ _ _ _ _ => some .X
  | .vfmax _ _ _ _ _ _ => some .X
  | .vfcmp _ _ _ _ _ _ _ => some .X
  | .vfcls _ _ _ _ _ => some .X
  | .vfdiv _ _ _ _ _ _ => some .X
  | .vrcp _ _ _ _ _ => some .X
  | .vrsq _ _ _ _ _ => some .X
  | .vexp2 _ _ _ _ _ => some .X
  | .vlog2 _ _ _ _ _ => some .X
  | .vcvtFloatToFloat _ _ _ _ _ _ _ _ => some .X
  | .vcvtFloatToInteger _ _ _ _ _ _ _ => some .X
  | .vcvtIntegerToFloat _ _ _ _ _ _ _ _ => some .X
  | .vcvtIntegerToInteger _ _ _ _ _ _ _ => some .X
  | .vpack _ _ _ _ _ _ => some .X
  | .vunpk _ _ _ _ => some .X
  | .cbx _ _ _ _ _ => some .X
  | .cbld _ _ _ => some .X
  | .vmov _ _ _ => some .X
  | .vbcst _ _ _ => some .X
  | .vidx _ _ => some .X
  | .vperm _ _ _ _ => some .X
  | .vrot _ _ _ _ => some .X
  | .vgth _ _ _ _ => some .X
  | .vsct _ _ _ _ => some .X
  | .vxtr _ _ _ _ _ => some .X
  | .vins _ _ _ _ _ => some .X
  | .vrsum _ _ _ _ => some .X
  | .vrmax _ _ _ _ => some .X
  | .vrmin _ _ _ _ => some .X
  | .vmcnt _ _ _ => some .X
  | .vmscl _ _ _ _ _ _ => some .X
  | .kop _ _ _ _ _ => some .X
  | .kset _ _ _ => some .X
  | .xResultLand _ => none
  | .sms _ => some .X
  | .wpw _ => some .X
  | .gbar _ => some .X
  | .gangBarrierComplete _ => none
  | .sig _ _ => some .X
  | .tail _ => some .X
  | .yld _ => some .X
  | .qtst _ _ _ => some .X
  | .qfwd _ _ _ => some .X
  | .mcfg _ _ _ => some .X
  | .mcfgl _ _ => some .X
  | .mgo _ => some .X
  | .mwait _ _ => some .X
  | .aclr _ _ _ _ => some .X
  | .aanc _ _ _ _ => some .X
  | .rslvCanonical _ _ _ => some .X
  | .rslvToFormat _ _ _ _ _ _ _ => some .X
  | .rslvWireForm _ _ _ _ _ => some .X
  | .ascl _ _ _ _ _ => some .X
  | .acmp _ _ _ _ _ _ _ => some .X
  | .amov _ _ _ _ => some .X
  | .achk _ _ _ => some .X
  | .nestJobStart _ => none
  | .shardLatchReady _ => none
  | .beatLand _ => none
  | .nestJobComplete _ => none
  | .resolverJobStart _ => none
  | .resolverJobComplete _ => none
  | .ldv _ _ _ => some .L
  | .ldq _ _ _ => some .L
  | .lds _ _ _ _ => some .L
  | .gthq _ _ _ => some .L
  | .prf _ => some .L
  | .qpsh _ _ _ => some .L
  | .qeos _ => some .L
  | .strm _ _ _ => some .L
  | .loadDataArrive _ => none
  | .tokw _ => some .L
  | .hget _ _ _ => some .L
  | .hpass _ _ _ _ => some .L
  | .hrel _ => some .L
  | .itin _ _ => some .L
  | .jcpy _ _ => some .L
  | .jwait _ => some .L
  | .rcon _ _ _ _ _ => some .L
  | .rqgt _ _ => some .L
  | .mca _ _ _ => some .L
  | .stv _ _ _ => some .S
  | .stq _ _ _ => some .S
  | .sts _ _ _ _ => some .S
  | .sta _ _ _ _ => some .S
  | .sct _ _ _ => some .S
  | .atadd _ _ _ _ _ _ => some .S
  | .atfadd _ _ _ _ _ _ => some .S
  | .atmin _ _ _ _ _ _ => some .S
  | .atmax _ _ _ _ _ _ => some .S
  | .atxch _ _ _ _ _ _ => some .S
  | .atcas _ _ _ _ _ _ => some .S
  | .fence _ _ => some .S
  | .bfen _ => some .S
  | .toks _ _ => some .S
  | .rrsv _ _ _ _ => some .S
  | .rpub _ _ _ _ _ => some .S
  | .bmv _ _ => some .S
  | .coll _ _ => some .S
  | .mcj _ _ => some .S
  | .writePerformHome _ _ => none
  | .remoteUpdateInstall _ _ => none
  | .fullEmptyGrant _ => none
  | .itineraryStart _ _ => none
  | .itineraryEntryIssue _ _ => none
  | .itineraryGranuleLand _ _ _ _ => none
  | .itineraryEntryComplete _ _ _ => none
  | .entryLate _ _ _ => none
  | .itineraryEnd _ _ => none
  | .multicastDelivery _ _ _ _ => none
  | .copyCardStart _ _ => none
  | .copyCardComplete _ => none
  | .bmvJobComplete _ => none
  | .collectiveAdmission _ _ => none
  | .blockEmit _ _ => none
  | .switchContribution _ _ _ => none
  | .switchBlockTimeout _ _ _ => none
  | .endMarker _ _ => none
  | .topSwitchTimerStart _ => none
  | .resultBlockDelivery _ _ _ _ => none
  | .collectiveComplete _ _ => none
  | .flitLoss _ _ _ => none
  | .remoteAccess _ _ _ => none
  | .gathererTakeSlot _ _ => none
  | .batchCloseDeadline _ _ => none
  | .launchRecordTake _ _ => none
  | .streamWaitSatisfied _ _ => none
  | .signalRecord _ _ => none
  | .kernelResident _ _ => none
  | .earlyResident _ _ => none
  | .placementAsk _ => none
  | .cellStart _ => none
  | .cellEnd _ => none
  | .retirementEntryRetire _ _ => none
  | .kernelComplete _ _ => none
  | .priorityAging _ _ => none
  | .sensorRefresh _ _ _ => none
  | .powerLimitReached _ => none
  | .bucketRefill => none
  | .watchdogExpire _ => none
  | .haltLineArrive _ _ => none
  | .engineStopPoint _ _ => none
  | .haltComplete _ => none
  | .shadowFlip _ => none
  | .contextSpillComplete _ => none
  | .contextWake _ _ => none
  | .contextResume _ _ => none
  | .cxctlPark _ => none
  | .haltctlResume _ => none
  | .haltctlAbandon _ => none
  | .haltctlParkAll _ => none
  | .prqPop => none
  | .prqAck _ _ => none
  | .debugHalt => none
  | .debugResume => none
  | .debugStep => none
  | .debugEngineStep => none
  | .debugAttach _ => none
  | .dbgdataWrite _ => none
  | .pdbgWrite _ _ => none
  | .partitionReset _ => none
  | .prstctlGo _ => none
  | .functionLevelReset _ => none
  | .resetAccessDrain _ => none
  | .pcfgWrite _ _ => none
  | .partitionEnable _ => none
  | .partitionDestroy _ => none
  | .clusterScrubComplete _ => none
  | .exportGrant _ _ => none
  | .exportWithdraw _ _ => none
  | .mgmtMemoryAccess _ _ _ _ => none
  | .invalidatePage _ _ => none
  | .invalidateAsid _ => none
  | .invalidateAll => none
  | .invalidateExportUnit _ => none
  | .invalidationDone => none
  | .keyLoad => none
  | .keyClear => none
  | .cxlRekey _ => none
  | .migrateSwap _ => none
  | .migrateOptimistic _ => none
  | .migrationEnd _ => none
  | .llclrHop _ _ _ => none
  | .llclrPace _ _ => none
  | .streamTailWrite _ _ _ => none
  | .streamClearError _ _ => none
  | .gathererConfigWrite _ _ _ _ => none
  | .registerWrite _ _ _ => none
  | .dieFence _ => none
  | .heartbeatTimeout _ => none
  | .masterElection => none
  | .perstDeassert _ => none
  | .stage1Ready => none
  | .attestationRequest _ _ _ => none
  | .sidebandResetRequest => none
  | .hostWindowAccess _ _ _ _ _ => none
  | .joinRecorded _ => none
  | .softError _ _ => none
  | .subarrayRefresh _ _ => none

end Sys2Proof
end

