-- ==== Sys2Proof/Machine/RegUse.lean ====
section
/-! DEFINITION. The g registers that an instruction reads and those that it writes, for the interlock of R81, R69 and R260. -/

namespace Sys2Proof.Machine

/-- The register of a g-indirect operand (R61). -/
def opndRegs : Opnd → List Reg
  | .ind g => [g]
  | _ => []

/-- The g registers that an instruction reads when it issues. -/
def regsRead : Instr → List Reg
  | .nop => []
  | .add _ a b => [a, b]
  | .sub _ a b => [a, b]
  | .mul _ a b => [a, b]
  | .mulh _ a b => [a, b]
  | .div _ a b => [a, b]
  | .rem _ a b => [a, b]
  | .andr _ a b => [a, b]
  | .orr _ a b => [a, b]
  | .xorr _ a b => [a, b]
  | .shl _ a b => [a, b]
  | .shr _ a b => [a, b]
  | .sra _ a b => [a, b]
  | .minr _ a b => [a, b]
  | .maxr _ a b => [a, b]
  | .seq _ a b => [a, b]
  | .slt _ a b => [a, b]
  | .sltu _ a b => [a, b]
  | .csel d a b => [d, a, b]
  | .addx _ a b _ => [a, b]
  | .addi _ a _ => [a]
  | .andi _ a _ => [a]
  | .ori _ a _ => [a]
  | .xori _ a _ => [a]
  | .shli _ a _ => [a]
  | .shri _ a _ => [a]
  | .srai _ a _ => [a]
  | .slti _ a _ => [a]
  | .lui _ _ => []
  | .beq a b _ => [a, b]
  | .bne a b _ => [a, b]
  | .blt a b _ => [a, b]
  | .bge a b _ => [a, b]
  | .bltu a b _ => [a, b]
  | .bgeu a b _ => [a, b]
  | .jmp _ => []
  | .jal _ => []
  | .jr a => [a]
  | .loop _ a _ => [a]
  | .loopi _ _ _ => []
  | .lbrk _ => []
  | .mfs _ _ => []
  | .mts a _ => [a]
  | .bankWake _ => []
  | .waitc _ => []
  | .trap _ => []
  | .rte => []
  | .brk _ => []
  | .idle => []
  | .tlbi a b => [a, b]
  | .tlbs _ a => [a]
  | .cswap a => [a]
  | .scalarDivideComplete _ _ => []
  | .vadd _ _ _ d a b _ => opndRegs d ++ opndRegs a ++ opndRegs b
  | .vsub _ _ _ d a b _ => opndRegs d ++ opndRegs a ++ opndRegs b
  | .vmul _ _ _ d a b _ => opndRegs d ++ opndRegs a ++ opndRegs b
  | .vmulh _ _ d a b _ => opndRegs d ++ opndRegs a ++ opndRegs b
  | .vmad _ _ d a b c _ => opndRegs d ++ opndRegs a ++ opndRegs b ++ opndRegs c
  | .vabs _ _ _ d a _ => opndRegs d ++ opndRegs a
  | .vneg _ _ _ d a _ => opndRegs d ++ opndRegs a
  | .vmin _ _ d a b _ => opndRegs d ++ opndRegs a ++ opndRegs b
  | .vmax _ _ d a b _ => opndRegs d ++ opndRegs a ++ opndRegs b
  | .vand d a b _ => opndRegs d ++ opndRegs a ++ opndRegs b
  | .vor d a b _ => opndRegs d ++ opndRegs a ++ opndRegs b
  | .vxor d a b _ => opndRegs d ++ opndRegs a ++ opndRegs b
  | .vandn d a b _ => opndRegs d ++ opndRegs a ++ opndRegs b
  | .vshl _ _ d a b _ => opndRegs d ++ opndRegs a ++ opndRegs b
  | .vshr _ _ d a b _ => opndRegs d ++ opndRegs a ++ opndRegs b
  | .vsra _ _ d a b _ => opndRegs d ++ opndRegs a ++ opndRegs b
  | .vcmp _ _ _ _ a b _ => opndRegs a ++ opndRegs b
  | .vsel d a b _ => opndRegs d ++ opndRegs a ++ opndRegs b
  | .vsat _ d a _ => opndRegs d ++ opndRegs a
  | .vtacc _ _ d a b _ => opndRegs d ++ opndRegs a ++ opndRegs b
  | .tunp _ d a _ => opndRegs d ++ opndRegs a
  | .vfadd _ _ d a b _ => opndRegs d ++ opndRegs a ++ opndRegs b
  | .vfsub _ _ d a b _ => opndRegs d ++ opndRegs a ++ opndRegs b
  | .vfmul _ _ d a b _ => opndRegs d ++ opndRegs a ++ opndRegs b
  | .vfma _ d a b c _ => opndRegs d ++ opndRegs a ++ opndRegs b ++ opndRegs c
  | .vfnma _ d a b c _ => opndRegs d ++ opndRegs a ++ opndRegs b ++ opndRegs c
  | .vfmin _ _ d a b _ => opndRegs d ++ opndRegs a ++ opndRegs b
  | .vfmax _ _ d a b _ => opndRegs d ++ opndRegs a ++ opndRegs b
  | .vfcmp _ _ _ _ a b _ => opndRegs a ++ opndRegs b
  | .vfcls _ _ d a _ => opndRegs d ++ opndRegs a
  | .vfdiv _ _ d a b _ => opndRegs d ++ opndRegs a ++ opndRegs b
  | .vrcp _ _ d a _ => opndRegs d ++ opndRegs a
  | .vrsq _ _ d a _ => opndRegs d ++ opndRegs a
  | .vexp2 _ _ d a _ => opndRegs d ++ opndRegs a
  | .vlog2 _ _ d a _ => opndRegs d ++ opndRegs a
  | .vcvtFloatToFloat _ _ _ _ _ d a _ => opndRegs d ++ opndRegs a
  | .vcvtFloatToInteger _ _ _ _ d a _ => opndRegs d ++ opndRegs a
  | .vcvtIntegerToFloat _ _ _ _ _ d a _ => opndRegs d ++ opndRegs a
  | .vcvtIntegerToInteger _ _ _ _ d a _ => opndRegs d ++ opndRegs a
  | .vpack _ _ d a b _ => opndRegs d ++ opndRegs a ++ opndRegs b
  | .vunpk _ d a _ => opndRegs d ++ opndRegs a
  | .cbx _ _ d a _ => opndRegs d ++ opndRegs a
  | .cbld _ a _ => opndRegs a
  | .vmov d a _ => opndRegs d ++ opndRegs a
  | .vbcst d a _ => opndRegs d ++ [a]
  | .vidx d _ => opndRegs d
  | .vperm d a b _ => opndRegs d ++ opndRegs a ++ opndRegs b
  | .vrot d a b _ => opndRegs d ++ opndRegs a ++ [b]
  | .vgth d a b _ => opndRegs d ++ opndRegs a ++ opndRegs b
  | .vsct d a b _ => opndRegs d ++ opndRegs a ++ opndRegs b
  | .vxtr _ _ a b _ => opndRegs a ++ [b]
  | .vins _ d a b _ => opndRegs d ++ [a, b]
  | .vrsum _ d a _ => opndRegs d ++ opndRegs a
  | .vrmax _ d a _ => opndRegs d ++ opndRegs a
  | .vrmin _ d a _ => opndRegs d ++ opndRegs a
  | .vmcnt _ _ _ => []
  | .vmscl _ _ d a b _ => opndRegs d ++ opndRegs a ++ opndRegs b
  | .kop _ _ _ _ _ => []
  | .kset _ a _ => [a]
  | .xResultLand _ => []
  | .sms _ => []
  | .wpw _ => []
  | .gbar _ => []
  | .gangBarrierComplete _ => []
  | .sig a _ => [a]
  | .tail _ => []
  | .yld _ => []
  | .qtst _ _ _ => []
  | .qfwd _ _ _ => []
  | .mcfg _ a _ => [a]
  | .mcfgl a _ => opndRegs a
  | .mgo _ => []
  | .mwait _ _ => []
  | .aclr d a _ _ => opndRegs d ++ [a]
  | .aanc d a _ _ => opndRegs d ++ [a]
  | .rslvCanonical d _ _ => opndRegs d
  | .rslvToFormat _ _ _ d a _ _ => opndRegs d ++ opndRegs a
  | .rslvWireForm d a b _ _ => opndRegs d ++ opndRegs a ++ [b]
  | .ascl d a b _ _ => opndRegs d ++ opndRegs a ++ opndRegs b
  | .acmp _ _ _ a b _ _ => opndRegs a ++ opndRegs b
  | .amov d a _ _ => opndRegs d ++ opndRegs a
  | .achk a _ _ => opndRegs a
  | .nestJobStart _ => []
  | .shardLatchReady _ => []
  | .beatLand _ => []
  | .nestJobComplete _ => []
  | .resolverJobStart _ => []
  | .resolverJobComplete _ => []
  | .ldv d e _ => opndRegs d ++ [e.gb, e.gx]
  | .ldq _ e _ => [e.gb, e.gx]
  | .lds _ _ e _ => [e.gb, e.gx]
  | .gthq _ gx e => [gx, e.gb]
  | .prf e => [e.gb, e.gx]
  | .qpsh _ gb gx => [gb, gx]
  | .qeos _ => []
  | .strm _ e _ => [e.gb, e.gx]
  | .loadDataArrive _ => []
  | .tokw d => [d]
  | .hget _ gb _ => [gb]
  | .hpass _ gb gx _ => [gb, gx]
  | .hrel _ => []
  | .itin _ e => [e.gb, e.gx]
  | .jcpy _ e => [e.gb, e.gx]
  | .jwait d => [d]
  | .rcon _ gb gx _ _ => [gb, gx]
  | .rqgt _ _ => []
  | .mca _ gb gx => [gb, gx]
  | .stv d e _ => opndRegs d ++ [e.gb, e.gx]
  | .stq _ e _ => [e.gb, e.gx]
  | .sts _ d e _ => [d, e.gb, e.gx]
  | .sta _ d gx e => opndRegs d ++ [gx, e.gb]
  | .sct _ gx e => [gx, e.gb]
  | .atadd _ _ _ _ gx e => [gx, e.gb]
  | .atfadd _ _ _ _ gx e => [gx, e.gb]
  | .atmin _ _ _ _ gx e => [gx, e.gb]
  | .atmax _ _ _ _ gx e => [gx, e.gb]
  | .atxch _ _ _ _ gx e => [gx, e.gb]
  | .atcas _ _ _ d gx e => [d, gx, e.gb]
  | .fence _ _ => []
  | .bfen _ => []
  | .toks _ d => [d]
  | .rrsv _ gb _ _ => [gb]
  | .rpub _ gb gx _ _ => [gb, gx]
  | .bmv _ e => [e.gb, e.gx]
  | .coll _ e => [e.gb, e.gx]
  | .mcj _ e => [e.gb, e.gx]
  | .writePerformHome _ _ => []
  | .remoteUpdateInstall _ _ => []
  | .fullEmptyGrant _ => []
  | .itineraryStart _ _ => []
  | .itineraryEntryIssue _ _ => []
  | .itineraryGranuleLand _ _ _ _ => []
  | .itineraryEntryComplete _ _ _ => []
  | .entryLate _ _ _ => []
  | .itineraryEnd _ _ => []
  | .multicastDelivery _ _ _ _ => []
  | .copyCardStart _ _ => []
  | .copyCardComplete _ => []
  | .bmvJobComplete _ => []
  | .collectiveAdmission _ _ => []
  | .blockEmit _ _ => []
  | .switchContribution _ _ _ => []
  | .switchBlockTimeout _ _ _ => []
  | .endMarker _ _ => []
  | .topSwitchTimerStart _ => []
  | .resultBlockDelivery _ _ _ _ => []
  | .collectiveComplete _ _ => []
  | .flitLoss _ _ _ => []
  | .remoteAccess _ _ _ => []
  | .gathererTakeSlot _ _ => []
  | .batchCloseDeadline _ _ => []
  | .launchRecordTake _ _ => []
  | .streamWaitSatisfied _ _ => []
  | .signalRecord _ _ => []
  | .kernelResident _ _ => []
  | .earlyResident _ _ => []
  | .placementAsk _ => []
  | .cellStart _ => []
  | .cellEnd _ => []
  | .retirementEntryRetire _ _ => []
  | .kernelComplete _ _ => []
  | .priorityAging _ _ => []
  | .sensorRefresh _ _ _ => []
  | .powerLimitReached _ => []
  | .bucketRefill => []
  | .watchdogExpire _ => []
  | .haltLineArrive _ _ => []
  | .engineStopPoint _ _ => []
  | .haltComplete _ => []
  | .shadowFlip _ => []
  | .contextSpillComplete _ => []
  | .contextWake _ _ => []
  | .contextResume _ _ => []
  | .cxctlPark _ => []
  | .haltctlResume _ => []
  | .haltctlAbandon _ => []
  | .haltctlParkAll _ => []
  | .prqPop => []
  | .prqAck _ _ => []
  | .debugHalt => []
  | .debugResume => []
  | .debugStep => []
  | .debugEngineStep => []
  | .debugAttach _ => []
  | .dbgdataWrite _ => []
  | .pdbgWrite _ _ => []
  | .partitionReset _ => []
  | .prstctlGo _ => []
  | .functionLevelReset _ => []
  | .resetAccessDrain _ => []
  | .pcfgWrite _ _ => []
  | .partitionEnable _ => []
  | .partitionDestroy _ => []
  | .clusterScrubComplete _ => []
  | .exportGrant _ _ => []
  | .exportWithdraw _ _ => []
  | .mgmtMemoryAccess _ _ _ _ => []
  | .invalidatePage _ _ => []
  | .invalidateAsid _ => []
  | .invalidateAll => []
  | .invalidateExportUnit _ => []
  | .invalidationDone => []
  | .keyLoad => []
  | .keyClear => []
  | .cxlRekey _ => []
  | .migrateSwap _ => []
  | .migrateOptimistic _ => []
  | .migrationEnd _ => []
  | .llclrHop _ _ _ => []
  | .llclrPace _ _ => []
  | .streamTailWrite _ _ _ => []
  | .streamClearError _ _ => []
  | .gathererConfigWrite _ _ _ _ => []
  | .registerWrite _ _ _ => []
  | .dieFence _ => []
  | .heartbeatTimeout _ => []
  | .masterElection => []
  | .perstDeassert _ => []
  | .stage1Ready => []
  | .attestationRequest _ _ _ => []
  | .sidebandResetRequest => []
  | .hostWindowAccess _ _ _ _ _ => []
  | .joinRecorded _ => []
  | .softError _ _ => []
  | .subarrayRefresh _ _ => []

/-- The g registers that an instruction writes. -/
def regsWritten : Instr → List Reg
  | .nop => []
  | .add d _ _ => [d]
  | .sub d _ _ => [d]
  | .mul d _ _ => [d]
  | .mulh d _ _ => [d]
  | .div d _ _ => [d]
  | .rem d _ _ => [d]
  | .andr d _ _ => [d]
  | .orr d _ _ => [d]
  | .xorr d _ _ => [d]
  | .shl d _ _ => [d]
  | .shr d _ _ => [d]
  | .sra d _ _ => [d]
  | .minr d _ _ => [d]
  | .maxr d _ _ => [d]
  | .seq d _ _ => [d]
  | .slt d _ _ => [d]
  | .sltu d _ _ => [d]
  | .csel d _ _ => [d]
  | .addx d _ _ _ => [d]
  | .addi d _ _ => [d]
  | .andi d _ _ => [d]
  | .ori d _ _ => [d]
  | .xori d _ _ => [d]
  | .shli d _ _ => [d]
  | .shri d _ _ => [d]
  | .srai d _ _ => [d]
  | .slti d _ _ => [d]
  | .lui d _ => [d]
  | .beq _ _ _ => []
  | .bne _ _ _ => []
  | .blt _ _ _ => []
  | .bge _ _ _ => []
  | .bltu _ _ _ => []
  | .bgeu _ _ _ => []
  | .jmp _ => []
  | .jal _ => [31]
  | .jr _ => []
  | .loop _ _ _ => []
  | .loopi _ _ _ => []
  | .lbrk _ => []
  | .mfs d _ => [d]
  | .mts _ _ => []
  | .bankWake _ => []
  | .waitc _ => []
  | .trap _ => []
  | .rte => []
  | .brk _ => []
  | .idle => []
  | .tlbi _ _ => []
  | .tlbs d _ => [d]
  | .cswap _ => []
  | .scalarDivideComplete _ _ => []
  | .vadd _ _ _ _ _ _ _ => []
  | .vsub _ _ _ _ _ _ _ => []
  | .vmul _ _ _ _ _ _ _ => []
  | .vmulh _ _ _ _ _ _ => []
  | .vmad _ _ _ _ _ _ _ => []
  | .vabs _ _ _ _ _ _ => []
  | .vneg _ _ _ _ _ _ => []
  | .vmin _ _ _ _ _ _ => []
  | .vmax _ _ _ _ _ _ => []
  | .vand _ _ _ _ => []
  | .vor _ _ _ _ => []
  | .vxor _ _ _ _ => []
  | .vandn _ _ _ _ => []
  | .vshl _ _ _ _ _ _ => []
  | .vshr _ _ _ _ _ _ => []
  | .vsra _ _ _ _ _ _ => []
  | .vcmp _ _ _ _ _ _ _ => []
  | .vsel _ _ _ _ => []
  | .vsat _ _ _ _ => []
  | .vtacc _ _ _ _ _ _ => []
  | .tunp _ _ _ _ => []
  | .vfadd _ _ _ _ _ _ => []
  | .vfsub _ _ _ _ _ _ => []
  | .vfmul _ _ _ _ _ _ => []
  | .vfma _ _ _ _ _ _ => []
  | .vfnma _ _ _ _ _ _ => []
  | .vfmin _ _ _ _ _ _ => []
  | .vfmax _ _ _ _ _ _ => []
  | .vfcmp _ _ _ _ _ _ _ => []
  | .vfcls _ _ _ _ _ => []
  | .vfdiv _ _ _ _ _ _ => []
  | .vrcp _ _ _ _ _ => []
  | .vrsq _ _ _ _ _ => []
  | .vexp2 _ _ _ _ _ => []
  | .vlog2 _ _ _ _ _ => []
  | .vcvtFloatToFloat _ _ _ _ _ _ _ _ => []
  | .vcvtFloatToInteger _ _ _ _ _ _ _ => []
  | .vcvtIntegerToFloat _ _ _ _ _ _ _ _ => []
  | .vcvtIntegerToInteger _ _ _ _ _ _ _ => []
  | .vpack _ _ _ _ _ _ => []
  | .vunpk _ _ _ _ => []
  | .cbx _ _ _ _ _ => []
  | .cbld _ _ _ => []
  | .vmov _ _ _ => []
  | .vbcst _ _ _ => []
  | .vidx _ _ => []
  | .vperm _ _ _ _ => []
  | .vrot _ _ _ _ => []
  | .vgth _ _ _ _ => []
  | .vsct _ _ _ _ => []
  | .vxtr _ d _ _ _ => [d]
  | .vins _ _ _ _ _ => []
  | .vrsum _ _ _ _ => []
  | .vrmax _ _ _ _ => []
  | .vrmin _ _ _ _ => []
  | .vmcnt d _ _ => [d]
  | .vmscl _ _ _ _ _ _ => []
  | .kop _ _ _ _ _ => []
  | .kset _ _ _ => []
  | .xResultLand _ => []
  | .sms _ => []
  | .wpw _ => []
  | .gbar _ => []
  | .gangBarrierComplete _ => []
  | .sig _ _ => []
  | .tail _ => []
  | .yld _ => []
  | .qtst d _ _ => [d]
  | .qfwd _ _ _ => []
  | .mcfg _ _ _ => []
  | .mcfgl _ _ => []
  | .mgo _ => []
  | .mwait d _ => [d]
  | .aclr _ _ _ _ => []
  | .aanc _ _ _ _ => []
  | .rslvCanonical _ _ _ => []
  | .rslvToFormat _ _ _ _ _ _ _ => []
  | .rslvWireForm _ _ _ _ _ => []
  | .ascl _ _ _ _ _ => []
  | .acmp _ _ _ _ _ _ _ => []
  | .amov _ _ _ _ => []
  | .achk _ _ _ => []
  | .nestJobStart _ => []
  | .shardLatchReady _ => []
  | .beatLand _ => []
  | .nestJobComplete _ => []
  | .resolverJobStart _ => []
  | .resolverJobComplete _ => []
  | .ldv _ _ _ => []
  | .ldq _ _ _ => []
  | .lds _ d _ _ => [d]
  | .gthq _ _ _ => []
  | .prf _ => []
  | .qpsh _ _ _ => []
  | .qeos _ => []
  | .strm _ e _ => [e.gb, e.gx]
  | .loadDataArrive _ => []
  | .tokw _ => []
  | .hget d _ _ => [d]
  | .hpass d _ _ _ => [d]
  | .hrel _ => []
  | .itin d _ => [d]
  | .jcpy d _ => [d]
  | .jwait d => [d]
  | .rcon _ _ gx _ _ => [gx]
  | .rqgt _ _ => []
  | .mca d _ _ => [d]
  | .stv _ _ _ => []
  | .stq _ _ _ => []
  | .sts _ _ _ _ => []
  | .sta _ _ _ _ => []
  | .sct _ _ _ => []
  | .atadd _ _ _ d _ _ => [d]
  | .atfadd _ _ _ d _ _ => [d]
  | .atmin _ _ _ d _ _ => [d]
  | .atmax _ _ _ d _ _ => [d]
  | .atxch _ _ _ d _ _ => [d]
  | .atcas _ _ _ d _ _ => [d]
  | .fence _ _ => []
  | .bfen _ => []
  | .toks _ d => [d]
  | .rrsv d _ _ _ => [d]
  | .rpub _ _ _ _ _ => []
  | .bmv d _ => [d]
  | .coll d _ => [d]
  | .mcj d _ => [d]
  | .writePerformHome _ _ => []
  | .remoteUpdateInstall _ _ => []
  | .fullEmptyGrant _ => []
  | .itineraryStart _ _ => []
  | .itineraryEntryIssue _ _ => []
  | .itineraryGranuleLand _ _ _ _ => []
  | .itineraryEntryComplete _ _ _ => []
  | .entryLate _ _ _ => []
  | .itineraryEnd _ _ => []
  | .multicastDelivery _ _ _ _ => []
  | .copyCardStart _ _ => []
  | .copyCardComplete _ => []
  | .bmvJobComplete _ => []
  | .collectiveAdmission _ _ => []
  | .blockEmit _ _ => []
  | .switchContribution _ _ _ => []
  | .switchBlockTimeout _ _ _ => []
  | .endMarker _ _ => []
  | .topSwitchTimerStart _ => []
  | .resultBlockDelivery _ _ _ _ => []
  | .collectiveComplete _ _ => []
  | .flitLoss _ _ _ => []
  | .remoteAccess _ _ _ => []
  | .gathererTakeSlot _ _ => []
  | .batchCloseDeadline _ _ => []
  | .launchRecordTake _ _ => []
  | .streamWaitSatisfied _ _ => []
  | .signalRecord _ _ => []
  | .kernelResident _ _ => []
  | .earlyResident _ _ => []
  | .placementAsk _ => []
  | .cellStart _ => []
  | .cellEnd _ => []
  | .retirementEntryRetire _ _ => []
  | .kernelComplete _ _ => []
  | .priorityAging _ _ => []
  | .sensorRefresh _ _ _ => []
  | .powerLimitReached _ => []
  | .bucketRefill => []
  | .watchdogExpire _ => []
  | .haltLineArrive _ _ => []
  | .engineStopPoint _ _ => []
  | .haltComplete _ => []
  | .shadowFlip _ => []
  | .contextSpillComplete _ => []
  | .contextWake _ _ => []
  | .contextResume _ _ => []
  | .cxctlPark _ => []
  | .haltctlResume _ => []
  | .haltctlAbandon _ => []
  | .haltctlParkAll _ => []
  | .prqPop => []
  | .prqAck _ _ => []
  | .debugHalt => []
  | .debugResume => []
  | .debugStep => []
  | .debugEngineStep => []
  | .debugAttach _ => []
  | .dbgdataWrite _ => []
  | .pdbgWrite _ _ => []
  | .partitionReset _ => []
  | .prstctlGo _ => []
  | .functionLevelReset _ => []
  | .resetAccessDrain _ => []
  | .pcfgWrite _ _ => []
  | .partitionEnable _ => []
  | .partitionDestroy _ => []
  | .clusterScrubComplete _ => []
  | .exportGrant _ _ => []
  | .exportWithdraw _ _ => []
  | .mgmtMemoryAccess _ _ _ _ => []
  | .invalidatePage _ _ => []
  | .invalidateAsid _ => []
  | .invalidateAll => []
  | .invalidateExportUnit _ => []
  | .invalidationDone => []
  | .keyLoad => []
  | .keyClear => []
  | .cxlRekey _ => []
  | .migrateSwap _ => []
  | .migrateOptimistic _ => []
  | .migrationEnd _ => []
  | .llclrHop _ _ _ => []
  | .llclrPace _ _ => []
  | .streamTailWrite _ _ _ => []
  | .streamClearError _ _ => []
  | .gathererConfigWrite _ _ _ _ => []
  | .registerWrite _ _ _ => []
  | .dieFence _ => []
  | .heartbeatTimeout _ => []
  | .masterElection => []
  | .perstDeassert _ => []
  | .stage1Ready => []
  | .attestationRequest _ _ _ => []
  | .sidebandResetRequest => []
  | .hostWindowAccess _ _ _ _ _ => []
  | .joinRecorded _ => []
  | .softError _ _ => []
  | .subarrayRefresh _ _ => []

end Sys2Proof.Machine
end

