-- ==== Sys2Proof/Machine/Issue.lean ====
section
/-! DEFINITION. What stands between a turn of a sequencer and the meaning of its instruction: whether the sequencer can issue (R12, R36,
R317, R322, R405), fetching and decoding (R54 to R56, R74), and the interlock on g registers (R69, R81, R82). -/

namespace Sys2Proof.Machine

/-- With HOLDLS = 1, L and S issue nothing until X has completed WPW, TAIL or IDLE (R322). -/
def heldBack (x : Ctx) (q : Seq) : Bool :=
  q != .X && match x.cell with
    | some c => !c.lsReleased
    | none => false

/-- The two parcels at a program counter. -/
def parcelPair (q : SeqState) : Parcel × Parcel := (parcelAt q (q.pc.toNat / 4), parcelAt q (q.pc.toNat / 4 + 1))

/-- The instruction at the program counter, none when it breaks R54 to R56 or R74. -/
def fetched (s : State) (c : Nat) (sq : Seq) : Option Instr :=
  let q := getSeq s c sq
  let (p0, p1) := parcelPair q
  if !goodTarget sq q.pc.toNat || (isWide p0 && storeParcels sq ≤ q.pc.toNat / 4 + 1) then none
  else
    match decode sq p0 p1 with
    | .ok i => some i
    | .error _ => none

/-- A register that an access in flight still has to write: a scalar load of L (R260), an atomic or TOKS of S (R270, R273). -/
def regPending (x : Ctx) (sq : Seq) (r : Reg) : Bool :=
  r != 0 &&
  match sq with
  | .L => x.lacc.any fun a => match a.dest with
    | .scalar d _ => d == r
    | _ => false
  | .X => false
  | .S => x.sacc.any fun a => !a.performed && match a.act with
    | .atomic _ _ _ _ _ _ d _ _ => d == r
    | .token _ d => d == r
    | _ => false

/-- An instruction waits for an earlier write of a register that it reads or writes (R81). -/
def interlocked (s : State) (c : Nat) (sq : Seq) (i : Instr) : Bool :=
  (regsRead i ++ regsWritten i).any (regPending (getCtx s c) sq)

/-- The system registers, by number, whose value an instruction depends on (R82): MFS and RTE name theirs; a two-parcel instruction of X that may
reach the register store depends on the three views (R34). -/
def sysUsed (i : Instr) : List Nat :=
  match i with
  | .mfs _ sr => [sr.toNat]
  | .rte => [0x110, 0x118]
  | .kop .. | .kset .. | .vmcnt .. | .mwait .. | .sms _ | .wpw _ | .gbar _ | .sig .. | .tail _ | .yld _ | .qtst .. | .qfwd .. => []
  | i => if (encode i).length = 2 then [0x10, 0x11, 0x12] else []

/-- The first cycle at which every g register that an instruction reads has its result, and every system register that it uses the value that MTS
wrote (R82). -/
def readyAt (q : SeqState) (i : Instr) : Nat :=
  (sysUsed i).foldl (fun n r => max n (tget 0 q.sysReady r)) ((regsRead i).foldl (fun n r => max n (tget 0 q.gready r.toNat)) q.clock)

/-- The cycle in which an instruction of a sequencer issues: the first one at or after CYCLE at which its clock and the results that it reads allow it (R67,
R81, R82). -/
def issueCycle (s : State) (c : Nat) (sq : Seq) (i : Instr) : Nat := max s.cycle (readyAt (getSeq s c sq) i)

/-- The state in which the instruction of a sequencer issues: it is the executing sequencer, CYCLE and its clock show the issue cycle, and every X result of
the core that is due by then has landed (R68). -/
def atIssue (s : State) (c : Nat) (sq : Seq) (i : Instr) : State :=
  let t := issueCycle s c sq i
  let u := setCtx { s with cur := (c, sq), cycle := t } c (landBy t (getCtx s c))
  setSeq u c sq { getSeq u c sq with clock := t }

/-- The halt line of a sequencer's partition would have stopped it by the cycle in which its next instruction issues (R405). -/
def pastHalt (s : State) (c : Nat) (q : Seq) : Bool :=
  let at' := match fetched s c q with
    | some i => issueCycle s c q i
    | none => max s.cycle (getSeq s c q).clock
  match partOfCore s c with
  | some p => haltBound { s with cycle := at' } p 80
  | none => false

/-- A partition reset runs on a core (R378). -/
def inReset (s : State) (c : Nat) : Bool := match partOfCore s c with
  | some p => (getPart s p).reset != .idle
  | none => false

/-- The sequencer has an instruction to issue: its part of a cell runs, it has not stopped, no park is under way, no partition reset runs, and for X no bank
waits to wake (R36). A sequencer of a partition whose halt line is raised stops within 80 cycles (R405). -/
def canIssue (s : State) (c : Nat) (q : Seq) : Bool :=
  let x := getCtx s c
  let v := ctxSeq x q
  v.run == .running && !v.halted && !heldBack x q && !(q == .X && x.waking != 0) && (getCore s c).parkReq.isNone && !inReset s c && !pastHalt s c q

/-! ## X results that are due (R68) -/

/-- A context whose X results that are due have landed. -/
def landCtx (now : Nat) (x : Ctx) : Ctx := if x.xres.any (·.due ≤ now) then landBy now x else x

/-- Every X result that is due by CYCLE has landed, in the active copy of a context or in its shadow (R68, R418). -/
def landDue (s : State) : State :=
  { s with cores := s.cores.map fun (n, y) => (n, { y with ctx := landCtx s.cycle y.ctx, shadow := landCtx s.cycle y.shadow }) }

end Sys2Proof.Machine
end

