-- ==== Sys2Proof/Machine/Migration.lean ====
section
/-! DEFINITION. Migration of pages (R245 to R249), memory errors and refresh (R219, R224, R244). -/

namespace Sys2Proof.Machine

/-! ## The leaf entries that a request names -/

/-- FRAME of a leaf entry. -/
def leafFrame (e : Word) : Nat := fieldOf e 16 36 * 65536

/-- The page size in bits of the leaf entry at a physical address, where some table of a partition below a given one holds it. -/
def leafBits (s : State) (d p a : Nat) : List (Nat × Nat × Bool) → Nat → Option Nat
  | [], _ => none
  | (lo, n, leafOk) :: rest, table =>
    let here := leafOk && decide (table ≤ a) && decide (a < table + 8 * 2 ^ n) && a % 8 == 0 && match tableWord s d p a with
      | .ok e => bitOf e.toNat 0 && bitOf e.toNat 4
      | .error _ => false
    if here then some lo
    else
      (List.range (2 ^ n)).findSome? fun i =>
        match tableWord s d p (table + 8 * i) with
        | .ok e => if bitOf e.toNat 0 && !bitOf e.toNat 4 then leafBits s d p a rest (fieldOf e 8 44 * 256) else none
        | .error _ => none

/-- The partition and page size of the leaf entry at a physical address. -/
def findLeaf (s : State) (d a : Nat) : Option (Nat × Nat) :=
  (List.range 8).findSome? fun p =>
    if (getPart s p).en then (leafBits s d p a walkLevels (getPart s p).proot.toNat).map fun n => (p, n) else none

/-- A page of a migration: its entry's address, partition, size in bits and entry. -/
structure MigPage where
  pte : Nat
  part : Nat
  bits : Nat
  leaf : Word

/-- The page that a leaf entry at a physical address maps. -/
def migPage (s : State) (d a : Nat) : Option MigPage :=
  match findLeaf s d a with
  | none => none
  | some (p, n) => match tableWord s d p a with
    | .ok e => some { pte := a, part := p, bits := n, leaf := e }
    | .error _ => none

/-- A leaf entry at none of some addresses, below a table, maps part of the 2^n bytes at a frame. -/
def mapsBelow (s : State) (d p f n : Nat) (except : List Nat) : List (Nat × Nat × Bool) → Nat → Bool
  | [], _ => false
  | (lo, k, leafOk) :: rest, table =>
    (List.range (2 ^ k)).any fun i =>
      match tableWord s d p (table + 8 * i) with
      | .ok e =>
        bitOf e.toNat 0 && if bitOf e.toNat 4 then
            leafOk && !except.contains (table + 8 * i) && decide (leafFrame e < f + 2 ^ n) && decide (f < leafFrame e + 2 ^ lo)
          else mapsBelow s d p f n except rest (fieldOf e 8 44 * 256)
      | .error _ => false

/-- A frame that a migration overwrites is still mapped, other than by the entries of its own pages (R246). -/
def stillMapped (s : State) (d f n : Nat) (except : List Nat) : Bool := (List.range 8).any fun p =>
  (getPart s p).en && mapsBelow s d p f n except walkLevels (getPart s p).proot.toNat

/-- The bytes of such a frame are undefined from then on: its mappings read undefined data (R7, R246). -/
def undefineMapped (s : State) (d f n : Nat) (except : List Nat) : State :=
  if !stillMapped s d f n except then s
  else
    let cells := (List.range (2 ^ n)).map fun i => (f + i, granuleByte (Config.freeGranule (s.freeCtr + i / 16)) (i % 16))
    takeFree { s with mem := memPutAll s.mem cells } (2 ^ n)

/-- A frame of a size in an assigned DRAM region. R246 does not say what makes a frame free-standing: a frame of one of the pages passes (log entry 114: the
model's choice). -/
def frameOk (s : State) (f n : Nat) : Bool := f % 2 ^ n == 0 && isDram s f && isDram s (f + 2 ^ n - 1) && regionOf s f == regionOf s (f + 2 ^ n - 1)

/-- A page whose leaf a request of a MODE accepts. -/
def pageFits (s : State) (m : MigPage) (mode : Bool) : Bool := bitOf m.leaf.toNat 9 == mode && isDram s (leafFrame m.leaf)

/-- WVER of a page (R245, R248): of every 64 KiB frame in it, what each die holds for the part of the frame that is homed there. -/
def wverOf (s : State) (f n : Nat) : List (BitVec 32) :=
  (List.range (2 ^ (n - 16))).flatMap fun k => (List.range 4).map fun d =>
    BitVec.ofNat 32 (ofBytes (fun i => memGet s.mem ((getDie s d).mig.base.toNat + 8 * frameIndex (f + 65536 * k) + 4 + i)) 4)

/-! ## Requests (R246) -/

/-- Replace the migration block of a die. -/
def setMig (s : State) (d : Nat) (m : Migration) : State := setDie s d { getDie s d with mig := m }

/-- A request ends with a RESULT and sets MIRQ.MIGDONE. -/
def endMig (s : State) (d : Nat) (result : BitVec 2) : State :=
  setMirq (setMig s d { (getDie s d).mig with busy := false, result := result }) 3

/-- MIGRATE_SWAP (R246, R247): MIGCTL.GO with MODE 0. -/
def execMigrateSwap (die : Nat) (s : State) : Res :=
  let m := (getDie s die).mig
  if m.busy || (getDie s die).fenced then .next s
  else
    let s := setMig s die { m with mode := false }
    match migPage s die m.ptea.toNat, migPage s die m.pteb.toNat with
    | some a, some b =>
      if a.bits ≠ b.bits || !pageFits s a false || !pageFits s b false || !frameOk s m.frame.toNat a.bits then .next (endMig s die 2)
      else .next (setMig s die { m with mode := false, busy := true, part := a.part, partB := b.part })
    | _, _ => .next (endMig s die 2)

/-- MIGRATE_OPTIMISTIC (R246, R248): MIGCTL.GO with MODE 1. -/
def execMigrateOptimistic (die : Nat) (s : State) : Res :=
  let m := (getDie s die).mig
  if m.busy || (getDie s die).fenced then .next s
  else
    let s := setMig s die { m with mode := true }
    match migPage s die m.ptea.toNat with
    | some a =>
      if !pageFits s a true || !frameOk s m.frame.toNat a.bits then .next (endMig s die 2)
      else .next (setMig s die { m with mode := true, busy := true, part := a.part, partB := a.part, wver := wverOf s (leafFrame a.leaf) a.bits })
    | none => .next (endMig s die 2)

/-! ## Copying a page -/

/-- The pieces of the 4 KiB chunk k of a frame as a leaf entry maps it. -/
def chunkPieces (e : Word) (part frame k : Nat) : List Piece :=
  (List.range 256).map fun t =>
    { loc := .dram (frame + 4096 * k + 16 * t) (bitOf e.toNat 8) (bitOf e.toNat 7) (fieldOf e 10 4) part,
      addr := frame + 4096 * k + 16 * t, first := 0, count := 16, pos := 16 * t }

/-- A line of a page fails its CXL check (R223, R392): nothing of the page is copied, so that the next program access to it raises the machine fault (log
entry 98). -/
def pageFails (s : State) (d : Nat) (m : MigPage) (src : Nat) : Bool :=
  (List.range (2 ^ (m.bits - 12))).any fun k => (readPieces s d (chunkPieces m.leaf m.part src k) 0).any fun g => g.fault == some causeCxl

/-- Copy one page from a frame to a frame under its entry's layout and key: losses travel, and raise no fault (R249). -/
def copyPage (s : State) (d : Nat) (m : MigPage) (src dst : Nat) : State :=
  (List.range (2 ^ (m.bits - 12))).foldl (fun s k =>
    let gs := (readPieces s d (chunkPieces m.leaf m.part src k) 0).map fun g => (if g.lost || g.fault.isSome then 0 else g.data, g.lost || g.fault.isSome)
    let (byte, bad) := granuleBytes gs
    match writeAccess (countReads s (chunkPieces m.leaf m.part src k)) (chunkPieces m.leaf m.part dst k) byte bad .none true
        (clockVector s d []) with
    | .ok (t, _) => takeFree t 256
    | .error _ => s) s

/-- Write an entry with another FRAME. -/
def repoint (s : State) (d : Nat) (m : MigPage) (frame : Nat) : State :=
  let v := setField m.leaf 16 36 (frame / 65536)
  let p : Piece := { loc := .dram (m.pte / 16 * 16) false true 0 m.part, addr := m.pte, first := m.pte % 16, count := 8, pos := 0 }
  match writeAccess s [p] (fun i => BitVec.ofNat 8 (v.toNat >>> (8 * i))) (fun _ => false) .none false (clockVector s d []) with
  | .ok (t, _) => t
  | .error _ => s

/-- Every die shows every write performed so far: what a hold that has ended leaves (R247). -/
def settleViews (s : State) : State :=
  (List.range 4).foldl (fun t d =>
    setDie t d { getDie t d with lag := [], lagLines := [], inbox := [],
                                 clock := (List.range 4).map fun h => (h, tget 0 (getDie s h).clock h) }) s

/-- An access in flight touches a frame. -/
def frameBusy (s : State) (f n : Nat) : Bool :=
  let hits (ps : List Piece) : Bool := ps.any fun p => match p.loc with
    | .dram pa _ _ _ _ => f ≤ pa && pa < f + 2 ^ n
    | _ => false
  s.cores.any fun (c, y) =>
    (contextsOf s c).any (fun x => x.lacc.any (fun a => hits a.pieces) || x.sacc.any fun a => !a.performed && hits a.pieces) ||
    y.tracker.any fun t => match t.acc with
      | some a => !a.performed && hits a.pieces
      | none => false

/-- Drop cached translations of a page. -/
def dropLeaf (s : State) (m : MigPage) : State := dropEntries s fun t => t.asid == (getPart s m.part).asid && t.leaf == m.leaf

/-- Finish a swap: both pages change frames, and every agent sees each page wholly before or wholly after (R247). -/
def finishSwap (s : State) (d : Nat) (a b : MigPage) (stage : Nat) : State :=
  let s := copyPage s d a (leafFrame a.leaf) stage
  let s := copyPage s d b (leafFrame b.leaf) (leafFrame a.leaf)
  let s := copyPage s d a stage (leafFrame b.leaf)
  let s := repoint (repoint s d a (leafFrame b.leaf)) d b (leafFrame a.leaf)
  undefineMapped (dropLeaf (dropLeaf (settleViews s) a) b) d stage a.bits []

/-- Finish an optimistic copy: the entry changes when no write came between; otherwise the new frame's contents are undefined (R248). -/
def finishOptimistic (s : State) (d : Nat) (a : MigPage) (new : Nat) (wver : List (BitVec 32)) : State :=
  if wverOf s (leafFrame a.leaf) a.bits = wver ∧ !pageFails s d a (leafFrame a.leaf) then
    let s := copyPage s d a (leafFrame a.leaf) new
    endMig (undefineMapped (dropLeaf (settleViews (repoint s d a new)) a) d new a.bits [a.pte]) d 0
  else
    let cells := (List.range (2 ^ a.bits)).map fun i =>
      (new + i, BitVec.ofNat 8 ((Config.freeGranule (s.freeCtr + i / 16)).toNat >>> (8 * (i % 16))))
    endMig (takeFree { s with mem := memPutAll s.mem cells } (2 ^ a.bits)) d 1

/-- MIGRATION_END (R246 to R248): accesses in flight to the frames have completed, and the request ends. -/
def execMigrationEnd (die : Nat) (s : State) : Res :=
  let m := (getDie s die).mig
  if !m.busy || (getDie s die).fenced || (List.range 4).any (fun d => !(getDie s d).inbox.isEmpty) then .next s
  else
    match migPage s die m.ptea.toNat with
    | none => .next (endMig s die 2)
    | some a =>
      if frameBusy s (leafFrame a.leaf) a.bits then .next s
      else if m.mode then .next (finishOptimistic s die a m.frame.toNat m.wver)
      else
        match migPage s die m.pteb.toNat with
        | none => .next (endMig s die 2)
        | some b =>
          if frameBusy s (leafFrame b.leaf) b.bits then .next s
          else if pageFails s die a (leafFrame a.leaf) || pageFails s die b (leafFrame b.leaf) then .next (endMig s die 1)
          else .next (endMig (finishSwap s die a b m.frame.toNat) die 0)

/-! ## Memory errors and refresh (R219, R224, R244) -/

/-- SOFT_ERROR (R219, R224): a correctable error of DRAM is counted, an uncorrectable one loses the word; an uncorrectable error of an SRAM
granule leaves undefined data and stays until the granule is written whole. -/
def execSoftError (site : ErrorSite) (correctable : Bool) (s : State) : Res :=
  match site with
  | .dram word =>
    if !isDram s (64 * word) && !inMeta s (64 * word) then .next s
    else if correctable then
      let d := homeOf (64 * word)
      .next (setDie s d { getDie s d with eccCount := (getDie s d).eccCount + 1 })
    else .next { s with lostWords := word :: s.lostWords.filter (· != word) }
  | .sram c g =>
    if correctable || 36 ≤ c || 524288 ≤ g then .next s
    else .next (takeFree (sramPut s c g { sramGet (getCluster s c) g with data := Config.freeGranule s.freeCtr, bad := true }) 1)

/-- SUBARRAY_REFRESH (R244) changes timing only. -/
def execSubarrayRefresh (_die _subarray : Nat) (s : State) : Res := .next s

end Sys2Proof.Machine
end

