-- ==== Sys2Proof/Machine/Scheduling.lean ====
section
/-! DEFINITION. From launch record to cell (R305 to R317, R320 to R322, R443): streams, kernel records, division of the iteration space,
placement, cell start and cell end, kernel completion. -/

namespace Sys2Proof.Machine

/-! ## Streams (R305 to R307) -/

/-- A stream of a partition. -/
def getStream (s : State) (p n : Nat) : Stream := tget {} (getPart s p).streams n
/-- Replace a stream. -/
def setStream (s : State) (p n : Nat) (x : Stream) : State :=
  let y := getPart s p
  setPart s p { y with streams := tput y.streams n x }

/-- Records pending: SQTAIL - SQHEAD modulo 2^LOGSIZE. -/
def pendingRecords (x : Stream) : Nat := (x.tail.toNat + 2 ^ 16 - x.head.toNat) % 2 ^ x.logsize.toNat

/-- The stream takes records. -/
def streamOpen (s : State) (p n : Nat) : Bool :=
  let x := getStream s p n
  partRuns s p && x.en && x.logsize != 0 && x.state != 3

/-- Virtual address of the record k places after the head. -/
def recordAddr (x : Stream) (k : Nat) : Nat := x.base.toNat + 64 * ((x.head.toNat + k) % 2 ^ x.logsize.toNat)

/-- A launch record as 8 words. -/
def splitWords (v n : Nat) : List Word := (List.range n).map (recWord v)

/-- Word i of a record. -/
def wordOf (l : List Word) (i : Nat) : Word := l.getD i 0

/-- A launch record breaks R306 or R307. -/
def launchBad (r : List Word) : Bool :=
  let w0 := wordOf r 0
  let kind := fieldOf w0 0 2
  kind == 3 || fieldOf w0 4 4 != 0 || fieldOf w0 16 48 != 0 || (List.range 5).any (fun i => wordOf r (3 + i) != 0) ||
  (if kind = 0 then fieldOf (wordOf r 1) 56 8 != 0 || fieldOf (wordOf r 1) 0 8 != 0 || fieldOf (wordOf r 2) 56 8 != 0
   else fieldOf w0 2 2 != 0 || wordOf r 2 != 0)

/-- The stream enters STATE 3 (R307, R375). -/
def streamError (s : State) (p n : Nat) (err serial : Nat) : State :=
  let x := getStream s p n
  setPirq (setStream s p n { x with state := 3, err := BitVec.ofNat 8 err, serial := BitVec.ofNat 32 serial }) p 1

/-- The oldest record of a stream ends: SQHEAD and SQDONE advance (R307). -/
def endRecord (s : State) (p n : Nat) : State :=
  let x := getStream s p n
  let x := { x with head := BitVec.ofNat 16 ((x.head.toNat + 1) % 2 ^ x.logsize.toNat), done := x.done + 1, taken := x.taken - 1, record := [],
                    undefs := x.undefs - 1 }
  setStream s p n { x with state := if x.state = 3 then 3 else if x.taken = 0 then 0 else 1 }

/-- The die on which the master distributor works. -/
def masterDie (s : State) : Nat := s.mgmt.master

/-- A launch record as read: what stands in memory, or, where a write of SQTAIL made it undefined, a free value (R8, R305). -/
def launchWords (s : State) (x : Stream) (v : Nat) : List Word :=
  if x.undefs = 0 then splitWords v 8 else (List.range 8).map fun i => Config.freeWord (s.freeCtr + i)

/-- LAUNCH_RECORD_TAKE (R307). -/
def execLaunchRecordTake (part stream : Nat) (s : State) : Res :=
  let x := getStream s part stream
  if !streamOpen s part stream || x.taken ≠ 0 || pendingRecords x = 0 then .next s
  else
    match engineRead s (masterDie s) part (recordAddr x 0) 64 { rd := true } with
    | .wait t => .next t
    | .stop t _ _ => .next (streamError t part stream 1 0)
    | .ok v =>
      let r := launchWords s x v
      let t := engineTouch (takeFree s 8) (masterDie s) part (recordAddr x 0) 64 { rd := true }
      if launchBad r then .next (streamError t part stream 1 0)
      else .next (setStream t part stream { x with taken := 1, record := r, state := if fieldOf (wordOf r 0) 0 2 = 1 then 2 else 1 })

/-- The record that a stream holds has a kind. -/
def holdsKind (x : Stream) (kind : Nat) : Bool := !x.record.isEmpty && fieldOf (wordOf x.record 0) 0 2 == kind

/-- STREAM_WAIT_SATISFIED (R307). -/
def execStreamWaitSatisfied (part stream : Nat) (s : State) : Res :=
  let x := getStream s part stream
  if !streamOpen s part stream || !holdsKind x 1 || tget 0 (getPart s part).cnt (fieldOf (wordOf x.record 0) 8 8) < wordOf x.record 1 then .next s
  else .next (endRecord s part stream)

/-- SIGNAL_RECORD (R307). -/
def execSignalRecord (part stream : Nat) (s : State) : Res :=
  let x := getStream s part stream
  if !streamOpen s part stream || !holdsKind x 2 then .next s
  else .next (endRecord (addCounter s part (fieldOf (wordOf x.record 0) 8 8) (wordOf x.record 1)) part stream)

/-! ## Kernel records (R308 to R310) -/

/-- BOUND, STRIDE and ORD of level l. -/
def kBound (r : List Word) (l : Nat) : Nat := fieldOf (wordOf r (8 + 2 * l)) 0 32
def kStride (r : List Word) (l : Nat) : Nat := fieldOf (wordOf r (8 + 2 * l)) 32 16
def kOrd (r : List Word) (l : Nat) : Nat := fieldOf (wordOf r (8 + 2 * l)) 48 3

/-- Extent of level l (R309). -/
def kExtent (r : List Word) (l : Nat) : Nat := if kBound r l = 0 then 1 else kBound r l

/-- The number of cells N. -/
def kCells (r : List Word) : Nat := (List.range 6).foldl (fun n l => n * kExtent r l) 1

/-- Cells that share the digits of rank at or below level l's: the product of the extents of greater ORD. -/
def kInner (r : List Word) (l : Nat) : Nat := (List.range 6).foldl (fun n m => if kOrd r l < kOrd r m then n * kExtent r m else n) 1

/-- Digit d_l of ordinal o (R309). -/
def kDigit (r : List Word) (o l : Nat) : Nat := o / kInner r l % kExtent r l

/-- Other fields of the kernel record. -/
def kCode (r : List Word) : Nat := fieldOf (wordOf r 0) 0 56
def kLpar (r : List Word) : Nat := fieldOf (wordOf r 1) 0 13
def kSpar (r : List Word) : Nat := fieldOf (wordOf r 1) 16 13
def kXpar (r : List Word) : Nat := fieldOf (wordOf r 1) 32 15
def kGang (r : List Word) : Nat := 2 ^ fieldOf (wordOf r 5) 0 3
def kZinit (r : List Word) : Bool := bitOf (wordOf r 5).toNat 3
def kNoReissue (r : List Word) : Bool := bitOf (wordOf r 5).toNat 4
def kHoldls (r : List Word) : Bool := bitOf (wordOf r 5).toNat 5
def kRet (r : List Word) : Nat := fieldOf (wordOf r 5) 8 8
def kSramg (r : List Word) : Nat := fieldOf (wordOf r 5) 16 17
def kTvec (r : List Word) (q : Seq) : Nat := match q with
  | .L => fieldOf (wordOf r 6) 0 16
  | .X => fieldOf (wordOf r 6) 16 16
  | .S => fieldOf (wordOf r 6) 32 16

/-- Reserved bits of a view value (R33). -/
def viewReserved (v : Word) : Bool := fieldOf v 43 5 != 0 || fieldOf v 56 8 != 0

/-- A kernel record breaks R310, but for the reading of its image. -/
def kernelBad (r : List Word) : Bool :=
  fieldOf (wordOf r 0) 56 8 != 0 || kCode r % 256 != 0 ||
  fieldOf (wordOf r 1) 13 3 != 0 || fieldOf (wordOf r 1) 29 3 != 0 || fieldOf (wordOf r 1) 47 17 != 0 ||
  [2, 3, 4].any (fun i => viewReserved (wordOf r i)) ||
  fieldOf (wordOf r 5) 6 2 != 0 || fieldOf (wordOf r 5) 33 31 != 0 || fieldOf (wordOf r 6) 48 16 != 0 || wordOf r 7 != 0 ||
  (List.range 6).any (fun l => fieldOf (wordOf r (8 + 2 * l)) 51 13 != 0 || wordOf r (9 + 2 * l) != 0) ||
  (List.range 12).any (fun i => wordOf r (20 + i) != 0) ||
  (List.range 6).any (fun n => !((List.range 6).any fun l => kOrd r l == n)) ||
  kLpar r == 0 || 4096 < kLpar r || kSpar r == 0 || 4096 < kSpar r || kXpar r == 0 || 16384 < kXpar r ||
  4 < fieldOf (wordOf r 5) 0 3 ||
  [Seq.L, Seq.X, Seq.S].any (fun q => kTvec r q % 64 != 0 || 4 * storeParcels q ≤ kTvec r q) ||
  2 ^ 48 ≤ kCells r || kCells r % kGang r != 0

/-- The distributor reads several stretches of memory, once there are the tokens of all of them: their values as numbers. Reads that end badly are counted
with the others (R245). -/
def readAll (s : State) (part : Nat) : List (Nat × Nat × Need) → Demand → Try (State × List Nat)
  | [], more => if demandReady s more then .ok (s, []) else .wait (awaitDemand s more)
  | (a, n, need) :: rest, more =>
    if n = 0 then
      match readAll s part rest more with
      | .ok (t, vs) => .ok (t, 0 :: vs)
      | r => r
    else
      match engineResolve s (masterDie s) part a n need with
      | .wait t => .wait t
      | .stop t c g => .stop t c g
      | .ok ps =>
        match readAll s part rest (addDemand more (engineDemand s (masterDie s) part a n none ps)) with
        | .ok (t, vs) =>
          match readBare s (masterDie s) a n ps with
          | .error (c, g) => .stop (engineTouch t (masterDie s) part a n need) c g
          | .ok v => .ok (engineTouch t (masterDie s) part a n need, v :: vs)
        | r => r

/-- The parcels of a code image that was read as a number: n of them. -/
def parcelsOf (n v : Nat) : Table Parcel := ((List.range n).map fun i => (i, BitVec.ofNat 32 (v >>> (32 * i)))).filter fun p => p.2 != 0

/-! ## Distribution (R311, R312) -/

/-- The dies of a partition that are not fenced. -/
def liveDies (s : State) (p : Nat) : List Nat := (diesOf s p).filter fun d => !(getDie s d).fenced

/-- Cores of a partition on a die. -/
def coresOnDie (s : State) (p d : Nat) : Nat := 16 * (clustersOf s p).countP fun c => dieOfCluster c == d

/-- Lengths of the ranges by die: proportional to the cores, rounded down to a multiple of G, the remainder to the lowest die (R311). -/
def rangeLengths (s : State) (p n g : Nat) : List (Nat × Nat) :=
  let ds := liveDies s p
  let total := ds.foldl (fun a d => a + coresOnDie s p d) 0
  let parts := ds.map fun d => (d, n * coresOnDie s p d / max 1 total / g * g)
  let given := parts.foldl (fun a (_, l) => a + l) 0
  match parts with
  | [] => []
  | (d, l) :: t => (d, l + (n - given)) :: t

/-- The unowned ranges that a kernel begins with. -/
def firstRanges (s : State) (p n g : Nat) : List RangeTask :=
  ((rangeLengths s p n g).foldl (fun (out, a) (d, l) =>
    (if l = 0 then out else out ++ [{ next := a, hi := a + l, die := d, owner := none }], a + l)) (([] : List RangeTask), 0)).1

/-- A ready cell of a kernel lies in some range (R316). -/
def kernelReady (k : Kernel) : Bool := k.failed.isNone && k.ranges.any fun r => r.next < r.hi

/-- A stream has a ready cell (R316). -/
def streamReady (s : State) (p n : Nat) : Bool := (getPart s p).kernels.any fun k => k.stream == n && kernelReady k

/-- A partition's aging quantum. -/
def quantum (s : State) (p : Nat) : Nat := max 1 (getPart s p).ageq.toNat

/-- A stream with the quanta counted that have passed with a ready cell and no start (R316). -/
def agedStream (s : State) (p n : Nat) : Stream :=
  let x := getStream s p n
  if streamReady s p n then
    let m := (s.cycle - x.agedAt) / quantum s p
    { x with boost := min 4 (x.boost + m), agedAt := x.agedAt + m * quantum s p }
  else x

/-- The priority that a stream's boost makes of PRIO. -/
def boosted (x : Stream) : Nat := min 4 (x.prio.toNat + x.boost)

/-- Effective priority of a stream (R316). -/
def effPrio (s : State) (p n : Nat) : Nat := boosted (agedStream s p n)

/-- A stream begins to count quanta where it had no ready cell and now has one. -/
def beginAging (s t : State) (p n : Nat) : State :=
  if !streamReady s p n && streamReady t p n then setStream t p n { getStream t p n with agedAt := t.cycle } else t

/-- Quanta that have passed are counted before something changes how they count. -/
def settleAging (s : State) (p : Nat) : State := (List.range 64).foldl (fun t n => if streamReady s p n then setStream t p n (agedStream s p n) else t) s

/-- The kernel that a launch record names, from its kernel record and the numbers that its three code images make. -/
def newKernel (s : State) (part stream : Nat) (r k : List Word) (early : Bool) (images : List Nat) : Kernel :=
  let p := getPart s part
  { serial := p.nextSerial, stream := stream, prio := (getStream s part stream).prio, kargs := BitVec.ofNat 56 (fieldOf (wordOf r 2) 0 56), record := k,
    cen := bitOf (wordOf r 0).toNat 3, cidx := fieldOf (wordOf r 0) 8 8, early := early, cells := kCells k,
    ranges := firstRanges s part (kCells k) (kGang k), started := [], ended := [], passedSms := [], reissued := [],
    codeL := parcelsOf (kLpar k) (images.getD 0 0), codeX := parcelsOf (kXpar k) (images.getD 1 0), codeS := parcelsOf (kSpar k) (images.getD 2 0),
    failed := none }

/-- What KERNEL_RESIDENT and EARLY_RESIDENT read of a launch record: the kernel, ready to become resident, or its ERR; every fault while the record or
the image is read is ERR 2. The state is what the reads leave behind (R245, R376, R382). -/
def loadKernel (s : State) (part stream : Nat) (r : List Word) (early : Bool) : Try (State × Except Nat Kernel) :=
  let krec : Nat × Nat × Need := (fieldOf (wordOf r 1) 0 56, 256, { rd := true })
  match readAll s part [krec] [] with
  | .wait t => .wait t
  | .stop t _ _ => .ok (t, .error 2)
  | .ok (t, vs) =>
    let k := splitWords (vs.headD 0) 32
    if kernelBad k then .ok (t, .error 2)
    else if 65536 < kSramg k then .ok (t, .error 3)
    else
      match readAll s part [krec, (kCode k, 4 * kLpar k, { ex := true }), (kCode k + 0x4000, 4 * kXpar k, { ex := true }),
                            (kCode k + 0x14000, 4 * kSpar k, { ex := true })] [] with
      | .wait u => .wait u
      | .stop u _ _ => .ok (u, .error 2)
      | .ok (u, ws) => .ok (u, .ok (newKernel s part stream r k early (ws.drop 1)))

/-- A kernel becomes resident: it takes the next launch serial number (R51, R311). -/
def makeResident (s : State) (part stream : Nat) (k : Kernel) : State :=
  let p := getPart s part
  let t := beginAging s (setPart s part { p with kernels := p.kernels ++ [k], nextSerial := p.nextSerial + 1 }) part stream
  let x := getStream t part stream
  setStream t part stream { x with record := [], taken := if k.early then 2 else 1 }

/-- KERNEL_RESIDENT (R308 to R311). -/
def execKernelResident (part stream : Nat) (s : State) : Res :=
  let x := getStream s part stream
  if !streamOpen s part stream || !holdsKind x 0 then .next s
  else
    match loadKernel s part stream x.record false with
    | .wait t => .next t
    | .stop t _ _ => .next t
    | .ok (t, .error e) =>
      let p := getPart t part
      .next (streamError (setPart t part { p with nextSerial := p.nextSerial + 1 }) part stream e p.nextSerial.toNat)
    | .ok (t, .ok k) => .next (makeResident t part stream k)

/-- EARLY_RESIDENT (R321): once every cell of the resident kernel has passed SMS. A bad record is met when it is taken. -/
def execEarlyResident (part stream : Nat) (s : State) : Res :=
  let x := getStream s part stream
  match (getPart s part).kernels.filter fun k => k.stream == stream with
  | [a] =>
    if !streamOpen s part stream || x.taken ≠ 1 || !x.record.isEmpty || pendingRecords x < 2 || a.failed.isSome ||
        a.passedSms.length ≠ a.cells then .next s
    else
      match engineRead s (masterDie s) part (recordAddr x 1) 64 { rd := true } with
      | .wait t => .next t
      | .stop t _ _ => .next t
      | .ok v =>
        let r := splitWords v 8
        let s := engineTouch s (masterDie s) part (recordAddr x 1) 64 { rd := true }
        if x.undefs ≠ 0 || launchBad r || fieldOf (wordOf r 0) 0 2 ≠ 0 || !bitOf (wordOf r 0).toNat 2 then .next s
        else
          match loadKernel s part stream r true with
          | .wait t => .next t
          | .stop t _ _ => .next t
          | .ok (t, .ok k) => .next (makeResident t part stream k)
          | .ok (t, .error _) => .next t
  | _ => .next s

/-! ## Kernels of a partition -/

/-- The resident kernel with a serial number. -/
def kernelOf (s : State) (p serial : Nat) : Option Kernel := (getPart s p).kernels.find? fun k => k.serial.toNat == serial

/-- Change a resident kernel. -/
def updKernel (s : State) (p serial : Nat) (f : Kernel → Kernel) : State :=
  let x := getPart s p
  setPart s p { x with kernels := x.kernels.map fun k => if k.serial.toNat = serial then f k else k }

/-! ## Placement (R312 to R316) -/

/-- Keep a core that is part of no placement, runs no cell, and is not busy with a context change. -/
def coreFree (s : State) (c : Nat) : Bool :=
  let y := getCore s c
  !(getDie s (dieOfCore c)).fenced && y.range.isNone && y.ctx.cell.isNone && y.parkReq.isNone &&
  (getCluster s (clusterOfCore c)).scrubbed

/-- Effective priority of the kernel of a context. -/
def ctxPrio (s : State) (p : Nat) (x : Ctx) : Nat := effPrio s p (fieldOf x.kernid 32 6)

/-- A ready parked context of a core that goes before new cells of effective priority e (R419). -/
def parkedFirst (s : State) (p c e : Nat) : Bool := (getCore s c).parked.any fun (_, k) => k.ready && e ≤ ctxPrio s p k.ctx

/-- The blocks of G cores on a die, by first core, that are free for a kernel: of the partition, and with room for the reservation (R314). -/
def reserveBase (s : State) (cluster len : Nat) : Option Nat :=
  let x := getCluster s cluster
  firstFit { part := 0, serial := 0, gangBase := 0, base := 0, len := 65536 } (x.reserved.map (fun r => (r.base, r.len)) ++ liveBuffers s cluster) len

/-- Free blocks of a die. -/
def freeBlocks (s : State) (p d g len e : Nat) : List Nat :=
  ((List.range (144 / g)).map fun i => 144 * d + g * i).filter fun b =>
    partOfCore s b == some p && (List.range g).all (fun r => coreFree s (b + r) && !parkedFirst s p (b + r) e) &&
    (len == 0 || (reserveBase s (clusterOfCore b) len).isSome)

/-- The first of a list in core order after a given core, wrapping (R315). -/
def afterCore (l : List Nat) (last : Nat) : Option Nat := (l.find? (last < ·)).orElse fun _ => l.head?

/-- The block that R315 chooses among free blocks, and the round-robin candidate. The core placed last is kept for each partition and die, as the
stream served last of R316 is for each partition (log entry 5: the model's choice). -/
def chooseBlock (s : State) (d p g : Nat) (blocks : List Nat) : Option (Nat × Nat) :=
  let last := tget (144 * d + 143) (getPart s p).lastPlaced d
  match afterCore blocks last with
  | none => none
  | some cand =>
    let members (b : Nat) : List Nat := (List.range g).map (b + ·)
    let score (b : Nat) : Nat := (members b).foldl (fun a c => a + (getCore s c).temp.toNat + (getCore s c).droop.toNat) 0
    match blocks.find? fun b => (members b).any fun c => (getCore s c).passed == 3 with
    | some b => some (b, cand)
    | none =>
      let least := blocks.foldl (fun m b => min m (score b)) (16 * 31)
      let ties := blocks.filter fun b => score b == least
      if g = 1 && ties.contains cand then some (cand, cand) else ties.head?.map fun b => (b, cand)

/-- Count the cores passed over, and note the core placed last (R315). -/
def countPassed (s : State) (d p g b cand : Nat) : State :=
  let s := if b = cand then s
    else (List.range g).foldl (fun s r =>
      let y := getCore s (cand + r)
      setCore s (cand + r) { y with passed := y.passed + 1 }) s
  let s := (List.range g).foldl (fun s r =>
    let y := getCore s (b + r)
    setCore s (b + r) { y with passed := 0 }) s
  let x := getPart s p
  setPart s p { x with lastPlaced := tput x.lastPlaced d (b + g - 1) }

/-- The index of the largest owned range that can be split, among those that p accepts (R312 step 2). -/
def splitChoice (k : Kernel) (accept : RangeTask → Bool) : Option Nat :=
  let g := kGang k.record
  let better (a b : RangeTask) : Bool := b.hi - b.next < a.hi - a.next || (a.hi - a.next == b.hi - b.next && a.next < b.next)
  let best := k.ranges.zipIdx.foldl (fun m (r, i) =>
    if r.owner.isSome && accept r then
      match m with
      | none => some (r, i)
      | some (o, j) => if better r o then some (r, i) else some (o, j)
    else m) (none : Option (RangeTask × Nat))
  match best with
  | some (r, i) => if 2 * g ≤ r.hi - r.next then some i else none
  | none => none

/-- Split the range at an index: the owner keeps the lower half, the asker takes the upper (R312). -/
def splitRange (k : Kernel) (i asker die : Nat) : Kernel :=
  match k.ranges[i]? with
  | none => k
  | some r =>
    let g := kGang k.record
    let mid := r.next + g * ((r.hi - r.next + 2 * g - 1) / (2 * g))
    { k with ranges := k.ranges.set i { r with hi := mid } ++ [{ next := mid, hi := r.hi, die := die, owner := some asker }] }

/-- Give a placement work of a kernel (R312): an unowned range of the die, a split on the die, a split anywhere. -/
def giveRange (k : Kernel) (asker die : Nat) : Option Kernel :=
  let open' := k.ranges.zipIdx.filter fun (r, _) => r.owner.isNone && r.die == die && r.next < r.hi
  match open' with
  | (r, i) :: t =>
    let (_, j) := t.foldl (fun (a, m) (b, n) => if b.next < a.next then (b, n) else (a, m)) (r, i)
    some { k with ranges := changeAt k.ranges j fun r => { r with owner := some asker } }
  | [] =>
    match splitChoice k fun r => r.die == die with
    | some i => some (splitRange k i asker die)
    | none => (splitChoice k fun _ => true).map fun i => splitRange k i asker die

/-- The ready kernels of a partition in the order in which cores are offered to them (R316): greatest E first, streams round-robin after the last one
served, the earlier kernel of a stream first. -/
def offerOrder (s : State) (p : Nat) : List Kernel :=
  let x := getPart s p
  let order := (List.range 64).map fun i => (x.lastStream + 1 + i) % 64
  [4, 3, 2, 1, 0].flatMap fun e => order.flatMap fun n =>
    if effPrio s p n = e then x.kernels.filter fun k => k.stream == n && kernelReady k else []

/-- A cell of a group of a placement is active, in the shadow, or parked on a core. -/
def memberBusy (s : State) (c part serial place : Nat) : Bool := (contextsOf s c).any fun x => match x.cell with
  | some e => e.part == part && e.serial == serial && e.place == place
  | none => false

/-- The group of a placement is in progress: some member's cell has not ended. -/
def groupBusy (s : State) (base g part serial place : Nat) : Bool := (List.range g).any fun r => memberBusy s (base + r) part serial place

/-- Drop the reservation of a placement once it no longer holds its first core and no member's cell is left (R314). -/
def dropReservation (s : State) (base g part serial place : Nat) : State :=
  let held := match (getCore s base).range with
    | some (p, k, _, _) => p == part && k == serial && (getCore s base).place == place
    | none => false
  if held || groupBusy s base g part serial place then s
  else
    let cl := getCluster s (clusterOfCore base)
    setCluster s (clusterOfCore base) { cl with reserved := cl.reserved.filter fun r =>
      r.gangBase != base || r.part != part || r.serial != serial || r.place != place }

/-- Free a placement's cores and reservation (R314). -/
def freePlacement (s : State) (base g part serial : Nat) : State :=
  let place := (getCore s base).place
  let s := (List.range g).foldl (fun s r =>
    let y := getCore s (base + r)
    setCore s (base + r) { y with range := none }) s
  dropReservation s base g part serial place

/-- Place a kernel on a free block. -/
def placeOn (s : State) (p d : Nat) (k : Kernel) (b cand : Nat) : Option State :=
  let g := kGang k.record
  match giveRange k b d with
  | none => none
  | some k' =>
    let s := countPassed (updKernel s p k.serial.toNat fun _ => k') d p g b cand
    let s := (List.range g).foldl (fun s r =>
      let y := getCore s (b + r)
      setCore s (b + r) { y with range := some (p, k.serial.toNat, b, g), place := s.placeCtr + 1 }) s
    let cl := clusterOfCore b
    let s : State := match reserveBase s cl (kSramg k.record) with
      | some base => let x := getCluster s cl
        setCluster s cl { x with reserved := x.reserved ++ [{ part := p, serial := k.serial.toNat, gangBase := b, base := base, len := kSramg k.record,
                                                              place := s.placeCtr + 1 }] }
      | none => s
    some { s with placeCtr := s.placeCtr + 1 }

/-- The other streams that wait at E = 4 with a ready cell, each with the placements at E = 4 that have gone before it. -/
def waitingAtFour (s : State) (p stream : Nat) : List (Nat × Nat) :=
  ((List.range 64).filter fun n => n != stream && streamReady s p n && effPrio s p n == 4).map fun n => (n, (getStream s p n).overtaken)

/-- A kernel of a stream may be placed now: each of the others that wait at E = 4 can still be among the first 64 placements, the most overtaken first
(R334). -/
def mayOvertake (s : State) (p stream : Nat) : Bool :=
  let l := waitingAtFour s p stream
  l.all fun (n, o) => decide (o + 1 + l.countP (fun (m, q) => o < q || (q == o && decide (m < n))) ≤ 63)

/-- A placement of a stream's kernel is counted by the others that wait at E = 4, if it is one at E = 4 (R334). -/
def countOvertaken (s : State) (p stream e : Nat) : State :=
  let l := if e = 4 then waitingAtFour s p stream else []
  let t := l.foldl (fun t (n, o) => setStream t p n { getStream t p n with overtaken := o + 1 }) s
  setStream t p stream { getStream t p stream with overtaken := 0 }

/-- The first kernel in the offer order that some free block of a die can run, with the block that R315 chooses. -/
def offer (s : State) (p d : Nat) : Option (Kernel × Nat × Nat) :=
  (offerOrder s p).findSome? fun k =>
    let g := kGang k.record
    if (giveRange k 0 d).isNone || !mayOvertake s p k.stream then none
    else
      let blocks := freeBlocks s p d g (kSramg k.record) (effPrio s p k.stream)
      (chooseBlock s d p g blocks).map fun (b, c) => (k, b, c)

/-- The range from which the walker of the placement whose first core is named can hand its cores a group now (R313). -/
def startable (s : State) (core : Nat) : Option (Nat × Nat × Nat × Kernel × Nat) :=
  match (getCore s core).range with
  | none => none
  | some (p, serial, base, g) =>
    let idle := (List.range g).all fun r => (getCtx s (base + r)).cell.isNone && (getCore s (base + r)).parkReq.isNone
    match kernelOf s p serial with
    | none => none
    | some k =>
      match k.ranges.findIdx? fun r => r.owner == some base && r.next < r.hi with
      | none => none
      | some i => if base ≠ core || !idle || groupBusy s base g p serial (getCore s base).place || k.failed.isSome || !partRuns s p then none else some (p, base, g, k, i)

/-- A placement of the partition has taken a range and its walker has not handed out the group that goes with the request (R313). -/
def groupDue (s : State) (p : Nat) : Bool := s.cores.any fun (c, y) => match y.range with
  | some (q, _, b, _) => q == p && b == c && (startable s c).isSome
  | none => false

/-- The placement whose first core is named has no range left and no group in progress: it asks. -/
def placementAsks (s : State) (p core : Nat) : Bool :=
  match (getCore s core).range with
  | none => false
  | some (_, serial, base, g) =>
    base == core && !groupBusy s base g p serial (getCore s core).place && match kernelOf s p serial with
      | none => true
      | some k => k.failed.isSome || !(k.ranges.any fun r => r.owner == some base && r.next < r.hi)

/-- A core of the partition with a lower number asks in this cycle: it comes first (R312). -/
def lowerAsks (s : State) (p core : Nat) : Bool :=
  (coresOf s p).any (fun c => c < core && placementAsks s p c) || (liveDies s p).any fun d => match offer s p d with
    | some (_, b, _) => decide (b < core)
    | none => false

/-- PLACEMENT_ASK (R312 to R316): the first core of a placement asks for more work of its kernel, or frees the placement when nothing is left; a free core
asks as the distributor chooses. The requests of one cycle go in core number order. -/
def execPlacementAsk (core : Nat) (s : State) : Res :=
  let d := dieOfCore core
  match partOfCore s core with
  | none => .next s
  | some p =>
    if !partRuns s p || groupDue s p || lowerAsks s p core then .next s
    else
      match (getCore s core).range with
      | some (_, serial, base, g) =>
        if !placementAsks s p core then .next s
        else
          match kernelOf s p serial with
          | none => .next (freePlacement s base g p serial)
          | some k =>
              match if k.failed.isSome then none else giveRange k base d with
              | some k' => .next (updKernel s p serial fun _ => k')
              | none => .next (freePlacement s base g p serial)
      | none =>
        match offer s p d with
        | none => .next s
        | some (k, b, cand) =>
          if b ≠ core then .next s
          else
            match placeOn s p d k b cand with
            | some t => .next (countOvertaken (setPart t p { getPart t p with lastStream := k.stream }) p k.stream (effPrio s p k.stream))
            | none => .next s

/-! ## Cell start (R42, R43, R309, R313, R443) -/

/-- A kernel start on a core: instruction stores, views, BANKPWR.RET, TVEC, RSOOR (R443). -/
def kernelStart (x : Ctx) (k : Kernel) : Ctx :=
  let r := k.record
  let seq (q : SeqState) (n : Seq) (code : Table Parcel) : SeqState := { q with istore := code, tvec := BitVec.ofNat 16 (kTvec r n) }
  { x with seqL := seq x.seqL .L k.codeL, seqX := seq x.seqX .X k.codeX, seqS := seq x.seqS .S k.codeS,
           vview := wordOf r 2, tview := wordOf r 3, aview := wordOf r 4, ret := BitVec.ofNat 8 (kRet r), rsoor := 0 }

/-- The g registers of a sequencer at cell start (R42, R309): g1 to g23 and g31 are undefined. -/
def cellRegs (r : List Word) (ordinal free : Nat) : Table Word :=
  (List.range 31).map fun i =>
    let n := i + 1
    (n, if 24 ≤ n && n < 30 then BitVec.ofNat 64 (kDigit r ordinal (n - 24) * kStride r (n - 24))
        else if n = 30 then BitVec.ofNat 64 ordinal
        else Config.freeWord (free + n))

/-- A sequencer at cell start: entry point, loop counters and records, registers. TLEVEL, EPC, ECAUSE, EADDR and ESCR, which R42 does not list, keep what
the earlier cell left (log entry 88: the model's choice). -/
def cellSeq (q : SeqState) (r : List Word) (ordinal free now : Nat) : SeqState :=
  { q with g := cellRegs r ordinal free, lc := [], pc := 0, run := .running, wait := .none, pageTag := none, pageFail := false,
           clock := max q.clock now, gready := [], sysReady := [], divBusy := false, halted := false, origin := none, wakeAt := none }

/-- The banks of the footprint at cell start: zero when the kernel declares it, else undefined (R42, R43). -/
def cellBanks (x : Ctx) (zinit : Bool) (free : Nat) : Ctx :=
  (List.range 8).foldl (fun x b =>
    if bitOf (footprint x).toNat b then
      let x := dropBank x b
      if zinit then x else { x with fills := tput x.fills b free }
    else x) x

/-- KERNID of a cell (R51). -/
def kernidOf (k : Kernel) (ordinal : Nat) : Word :=
  BitVec.ofNat 64 (k.serial.toNat + k.stream * 2 ^ 32 + k.prio.toNat * 2 ^ 38 + (if kZinit k.record then 2 ^ 40 else 0) +
    (if kNoReissue k.record then 2 ^ 41 else 0) + (if k.reissued.any (fun r => decide (r.1 ≤ ordinal) && decide (ordinal < r.2)) then 2 ^ 42 else 0))

/-- Start a cell of a kernel on a core. The queues are fresh: COUNT is 0 as R42 says, and HEAD, of which it says nothing, starts again at slot 0 (log
entry 88: the model's choice). Retained banks outside the footprint whose RET bit a kernel start cleared are gated (R37, R443). -/
def startCell (s : State) (core p : Nat) (k : Kernel) (ordinal base : Nat) : State :=
  let y := getCore s core
  let fresh := y.lastKernel != some (p, k.serial.toNat)
  let x := if fresh then kernelStart y.ctx k else y.ctx
  let x := settleBanks x
  -- the cell start waits for the banks that the footprint adds (R443) and for zeroing (R43)
  let now := s.cycle + wakeCycles x + (if kZinit k.record then 128 else 0)
  let x := cellBanks (gateRetained (banksOn x)) (kZinit k.record) s.freeCtr
  let r := k.record
  let free := s.freeCtr + 65536
  let x := { x with seqL := cellSeq x.seqL r ordinal free now, seqX := cellSeq x.seqX r ordinal (free + 32) now,
                    seqS := cellSeq x.seqS r ordinal (free + 64) now,
                    k := (List.range 7).map (fun i => (i + 1, Config.freeWord (free + 96 + i))), flags := 0, q := [], w := [], slots := [],
                    kargs := k.kargs.setWidth 64, kernid := kernidOf k ordinal, wdog := 0, tickets := [], bmvJobs := [], bmvFar := false, sigWait := none,
                    cell := some { part := p, serial := k.serial.toNat, ordinal := ordinal, gangBase := base, gangSize := kGang r, place := y.place, sms := false,
                                   gbars := 0, gbarOpen := false, gbarGo := false, lsReleased := !kHoldls r } }
  takeFree (setCore s core { y with ctx := clearToken x, lastKernel := some (p, k.serial.toNat) }) (65536 + 128)

/-- CELL_START (R42, R313, R314): the walker of the placement whose first core is named hands its cores the next group; of a group placed again, a member
whose cell has ended and been recorded starts nothing (R332). -/
def execCellStart (core : Nat) (s : State) : Res :=
  match startable s core with
  | none => .next s
  | some (p, base, g, k, i) =>
    let o := (k.ranges.getD i { next := 0, hi := 0, die := 0, owner := none }).next
    let k' := { k with ranges := (changeAt k.ranges i fun r => { r with next := r.next + g }).filter fun r => r.next < r.hi,
                       started := k.started ++ ((List.range g).map (o + ·)).filter fun n => !k.started.contains n }
    let s := (List.range g).foldl (fun s r => if k.ended.contains (o + r) then s else startCell s (base + r) p k (o + r) base)
      (updKernel s p k.serial.toNat fun _ => k')
    let x := getStream s p k.stream
    .next (setStream s p k.stream { x with boost := 0, agedAt := s.cycle, overtaken := 0 })

/-! ## Cell end (R317, R318) -/

/-- Nest and resolver jobs of a context are complete. -/
def enginesIdle (x : Ctx) : Bool := x.nestRun.isNone && x.nestPend.isNone && x.rjobs.isEmpty

/-- Every copy card of a die that is not complete, with its owner. -/
def openCards (s : State) (d : Nat) : List Card :=
  ((getDie s d).cards.flatMap fun (_, l) => l) ++ (List.range 9).filterMap fun c => (getCluster s (9 * d + c)).card

/-- Cards of a context that are not complete. -/
def ctxCards (s : State) (d : Nat) (x : Ctx) : List Card := (openCards s d).filter fun c => (tfind x.tickets c.owner.ticket).isSome

/-- BMV jobs of a context that are not complete. -/
def ctxBmv (s : State) (d : Nat) (x : Ctx) : List BmvJob := (getDie s d).bmv.filter fun j => x.bmvJobs.contains j.owner.ticket

/-- The writes of a context's finished cards and BMV jobs are in its die's view. -/
def engineWritesSeen (s : State) (d : Nat) (x : Ctx) : Bool := (x.tickets.isEmpty && x.bmvJobs.isEmpty) || (getDie s d).inbox.isEmpty

/-- The two other parts of X's cell, or all three, have ended. -/
def partsEnded (x : Ctx) (qs : List Seq) : Bool := qs.all fun q => (ctxSeq x q).run == .ended

/-- A cell counts as having passed SMS (R317, R324). -/
def passSms (s : State) (p serial ordinal : Nat) : State :=
  updKernel s p serial fun k => if k.passedSms.contains ordinal then k else { k with passedSms := ordinal :: k.passedSms }

/-- A context without its cell: queues, handle slots, tickets and X results gone (R317). -/
def clearCell (x : Ctx) : Ctx :=
  let done (q : SeqState) : SeqState := { q with run := .noCell, wait := .none }
  let x := landAll x
  { x with seqL := done x.seqL, seqX := done x.seqX, seqS := done x.seqS, q := [], w := [], slots := [], tickets := [], bmvJobs := [],
           cell := none, sigWait := none }

/-- Release the handle slots of a context of a core: pool buffers stay out of use while a request names them, a batch buffer returns to its gatherer
(R317, R366). -/
def retireSlotsOf (s : State) (core part serial : Nat) (x : Ctx) : State :=
  let (s, _) := releaseAll s part x
  let y := getCore s core
  setCore s core { y with returning := (y.returning.filter fun (ser, k, h) => bufferBusy s core k (some ser) h) ++
                                       x.slots.map fun (k, h) => (serial, k, h) }

/-- The same for the context that runs there. -/
def retireSlots (s : State) (core part serial : Nat) : State := retireSlotsOf s core part serial (getCtx s core)

/-- An S access that goes on after its core is reset: the image of a dropped resolver job does not. -/
def outlives (a : SAccess) : Bool := match a.act with
  | .image _ => false
  | _ => true

/-- Stores and atomics that a dropped context has issued and that are still to be performed, as items of the tracker that hold nothing back. -/
def leftStores (x : Ctx) : List Tracked := (x.sacc.filter fun a => !a.performed && outlives a).map fun a =>
  { ranges := [], acc := some a, ticket := none, serial := fieldOf x.kernid 0 32 }

/-- The end of a cell is recorded, once (R332). -/
def recordEnd (ordinal : Nat) (k : Kernel) : Kernel := if k.ended.contains ordinal then k else { k with ended := ordinal :: k.ended }

/-- End the cell of a core. Its record of the end is with every die's distributor at once; R332 gives no time for that (log entry 109: the model's
choice). -/
def endCell (s : State) (core : Nat) : State :=
  match (getCtx s core).cell with
  | none => s
  | some e =>
    let s := retireSlots s core e.part e.serial
    let s := setCtx s core (clearCell (getCtx s core))
    let s := dropReservation (passSms s e.part e.serial e.ordinal) e.gangBase e.gangSize e.part e.serial e.place
    updKernel s e.part e.serial (recordEnd e.ordinal)

/-- CELL_END (R317). -/
def execCellEnd (core : Nat) (s : State) : Res :=
  let x := getCtx s core
  let d := dieOfCore core
  if x.cell.isSome && partsEnded x [.L, .X, .S] && enginesIdle x && x.lacc.isEmpty && allVisible s core .core && (ctxCards s d x).isEmpty &&
      (ctxBmv s d x).isEmpty && engineWritesSeen s d x then .next (endCell s core)
  else .next s

/-! ## The retirement tracker (R318, R319) -/

/-- The items of a finished cell that are still outstanding. -/
def outstanding (s : State) (core : Nat) : List Tracked :=
  let x := getCtx s core
  let d := dieOfCore core
  let ser := match x.cell with
    | some e => e.serial
    | none => 0
  (x.sacc.filter (fun a => !visibleAt s core .core a)).map (fun a =>
    { ranges := match a.range with
        | some r => if a.pieces.isEmpty then [] else [r]
        | none => [], acc := some a, ticket := none, serial := ser, since := s.ticketCtr }) ++
  (ctxCards s d x).map (fun c =>
    { ranges := c.regions.filterMap fun (w, b, n) => if !w || (endpointSram b).isSome then none else some (fieldOf b 0 56, n),
      acc := none, ticket := some c.owner.ticket, serial := ser, since := s.ticketCtr }) ++
  (ctxBmv s d x).map fun j => { ranges := bmvRanges j, acc := none, ticket := some j.owner.ticket, serial := ser, since := s.ticketCtr }

/-- Entries that items take: none for a store through a handle. -/
def entriesTaken (l : List Tracked) : Nat := l.countP fun t => !t.ranges.isEmpty || t.acc.isNone

/-- The item of a tracker entry is visible at .core. -/
def itemVisible (s : State) (core : Nat) (t : Tracked) : Bool :=
  match t.acc, t.ticket with
  | some a, _ => visibleAt s core .core a
  | none, some n =>
    let d := dieOfCore core
    (openCards s d).all (fun c => c.owner.ticket != n) && (getDie s d).bmv.all (fun j => j.owner.ticket != n) && (getDie s d).inbox.isEmpty
  | none, none => true

/-- RETIREMENT_ENTRY_RETIRE (R319). -/
def execRetirementEntryRetire (core n : Nat) (s : State) : Res :=
  let y := getCore s core
  match y.tracker[n]? with
  | none => .next s
  | some t =>
    if itemVisible s core t then
      -- a store that .pkg does not show yet still counts for SIG and FENCE
      let keep := match t.acc with
        | some a => if visibleAt s core .pkg a then [] else [{ a with num := 0 }]
        | none => []
      .next (setCore s core { y with tracker := dropAt y.tracker n, ctx := { y.ctx with sacc := keep ++ y.ctx.sacc } })
    else .next s

/-! ## Kernel completion (R320) -/

/-- Engine jobs of a kernel that are not complete, on any die (R320). -/
def kernelJobs (s : State) (p serial : Nat) : Bool :=
  let mine (o : Owner) : Bool := o.part == p && o.serial == serial
  (List.range 4).any fun d =>
    (openCards s d).any (fun c => mine c.owner) || (getDie s d).bmv.any (fun j => mine j.owner) ||
    (getDie s d).lamps.any (fun (_, l) => l.waiting.any (fun w => mine w.1) || match l.running with
      | some it => mine it.owner
      | none => false) ||
    (getDie s d).walkers.any fun (_, w) => w.jobs.any fun j => mine j.owner

/-- The cells of a kernel have ended: all of them, or for a failed kernel all that had started. -/
def cellsEnded (k : Kernel) : Bool :=
  if k.failed.isSome then k.started.all fun o => k.ended.contains o else k.ended.length == k.cells

/-- Everything that a kernel did is done and visible at .pkg. -/
def kernelDone (s : State) (p : Nat) (k : Kernel) : Bool :=
  cellsEnded k && !kernelJobs s p k.serial.toNat &&
  (coresOf s p).all (fun c => (getCore s c).tracker.all fun t => t.serial != k.serial.toNat) &&
  updatesInstalled s 0 .pkg

/-- KERNEL_COMPLETE (R320, R333): a failed kernel counts nothing, and its stream enters STATE 3. -/
def execKernelComplete (part serial : Nat) (s : State) : Res :=
  match kernelOf s part serial with
  | none => .next s
  | some k =>
    let first := (getPart s part).kernels.find? fun o => o.stream == k.stream
    if !kernelDone s part k || !(first.map (·.serial)) == some k.serial then .next s
    else
      let x := getPart s part
      let s := setPart s part { x with kernels := x.kernels.filter fun o => o.serial != k.serial }
      let s := if k.cen && k.failed.isNone then addCounter s part k.cidx 1 else s
      let s := endRecord s part k.stream
      .next (match k.failed with
        | some e => streamError s part k.stream e serial
        | none => s)

/-! ## Aging and sensors (R315, R316) -/

/-- PRIORITY_AGING (R316): a quantum has passed in which the stream had a ready cell and started none. -/
def execPriorityAging (part stream : Nat) (s : State) : Res :=
  let x := agedStream s part stream
  if streamReady s part stream && boosted x < 4 then
    let t := x.agedAt + quantum s part
    .next (setStream { s with cycle := max s.cycle t } part stream { x with boost := x.boost + 1, agedAt := t })
  else .next s

/-- SENSOR_REFRESH (R315). -/
def execSensorRefresh (core : Nat) (temp droop : BitVec 4) (s : State) : Res :=
  if Config.cores ≤ core then .next s
  else
    let y := getCore s core
    .next (setCore s core { y with temp := temp, droop := droop })

end Sys2Proof.Machine
end

