-- ==== Sys2Proof/Machine/Image.lean ====
section
/-! DEFINITION. The context image of R420: the bytes that a spill writes, and the context that a fill makes of the bytes it reads. What the image
does not hold (a resolver queue entry's place, the cell's own record, tickets) comes back from the core's record of the parked context (log entry 16). -/

namespace Sys2Proof.Machine

/-! ## Values the image shares with the system registers and the stop record -/

/-- WAIT of a stop record and of an image (R408, R420). -/
def waitCode : Wait → Nat
  | .none | .other => 0
  | .queue => 1
  | .fullEmpty => 2
  | .token => 3
  | .job => 4
  | .gbar => 5
  | .ring => 6
  | .page => 7

/-- The wait that a WAIT byte names; the blocked instruction executes again as a whole when the context runs (R406). -/
def waitFrom (n : Nat) : Wait :=
  if n = 1 then .queue else if n = 2 then .fullEmpty else if n = 3 then .token else if n = 4 then .job else if n = 5 then .gbar
  else if n = 6 then .ring else if n = 7 then .page else .none

/-- QSTQn and QSTWn (R46). -/
def queueStatus (q : Queue) : Word :=
  let eos := match q.entries with
    | e :: _ => e.eos
    | [] => false
  BitVec.ofNat 64 (q.head.toNat + 16 * q.entries.length + if eos then 512 else 0)

/-- HSLOTn (R52). -/
def hslotValue (x : Ctx) (n : Nat) : Word :=
  match tfind x.slots n with
  | some h => BitVec.ofNat 64 (h.base % 2 ^ 16 + 2 ^ 16 * (h.len % 2 ^ 17) + 2 ^ 63)
  | none => 0

/-- BANKPWR (R37). -/
def bankpwrValue (x : Ctx) : Word := BitVec.ofNat 64 (x.ret.toNat + 256 * x.bankOn.toNat)

/-- RW bits of a view register (R33). -/
def viewMask : Word := 0x00FF07FFFFFFFFFF

/-- PC bits that EPC holds in a sequencer: bits [15:14] are 0 in L and S, bits [1:0] in all, since R53 calls the value a multiple of 4 (log entry 87:
MTS drops the other bits). -/
def epcMask : Seq → BitVec 16
  | .X => 0xFFFC
  | _ => 0x3FFC

/-! ## The layout -/

/-- Bytes of a context image (R420). -/
def imageSize : Nat := 0x125800

/-- Where a sequencer's instruction store, its block, the queue slots, the core block and the engine block begin. -/
def imageCode : Seq → Nat
  | .L => 0x100000
  | .X => 0x104000
  | .S => 0x114000
def imageQueues : Nat := 0x118000
def imageSeq : Seq → Nat
  | .L => 0x124C00
  | .X => 0x124E00
  | .S => 0x125000
def imageCore : Nat := 0x125200
def imageEngine : Nat := 0x125400

/-- Byte i of a little-endian number. -/
def byteOf (v i : Nat) : Byte := BitVec.ofNat 8 (v >>> (8 * i))

/-- An undefined byte: no rule says what it holds. -/
def freeImageByte (free o : Nat) : Byte := granuleByte (Config.freeGranule (free + o / 16)) (o % 16)

/-- Queue n of a context in the order q0 to q7, w0 to w3. -/
def imageQueue (x : Ctx) (n : Nat) : Queue := if n < 8 then getQ x n else getW x (n - 8)

/-- The entry in a slot of a queue, if the slot is in use. -/
def slotEntry (q : Queue) (slot : Nat) : Option QEntry := q.entries[(slot + 16 - q.head.toNat) % 16]?

/-- Byte i of a loop record: COUNT, START, END, LEVEL, AGE, ACTIVE, zeros. -/
def loopByte (r : LoopRec) (i : Nat) : Byte :=
  if i < 4 then byteOf r.count.toNat i
  else if i < 6 then byteOf r.start.toNat (i - 4)
  else if i < 8 then byteOf r.stop.toNat (i - 6)
  else if i = 8 then byteOf r.level.toNat 0
  else if i = 9 then byteOf r.age 0
  else if i = 10 then (if r.active then 1 else 0)
  else 0

/-- TLEVEL, TVEC and the trap registers of R53, in the order of their register numbers (log entry 16). -/
def trapWord (q : SeqState) : Nat → Nat
  | 0 => q.tlevel.toNat
  | 1 => q.tvec.toNat
  | 2 => q.bank0.epc.toNat
  | 3 => q.bank0.ecause.toNat
  | 4 => q.bank0.eaddr.toNat
  | 5 => q.bank0.escr.toNat
  | 6 => q.bank1.epc.toNat
  | 7 => q.bank1.ecause.toNat
  | 8 => q.bank1.eaddr.toNat
  | _ => q.bank1.escr.toNat

/-- Byte o of a sequencer's block. -/
def seqByte (q : SeqState) (o : Nat) : Byte :=
  if o < 256 then byteOf (tget 0 q.g (o / 8)).toNat (o % 8)
  else if o < 320 then loopByte (tget {} q.lc ((o - 256) / 16)) ((o - 256) % 16)
  else if o < 400 then byteOf (trapWord q ((o - 320) / 8)) (o % 8)
  else if o < 408 then byteOf q.pc.toNat (o % 8)
  else if o = 408 then byteOf (waitCode q.wait) 0
  else 0

/-- The words that end the core block, from its offset 352 on. -/
def coreWord (x : Ctx) (wake : Nat) : Nat → Nat
  | 0 => wake
  | 1 => x.kernid.toNat
  | 2 => x.kargs.toNat
  | 3 => x.vview.toNat
  | 4 => x.tview.toNat
  | 5 => x.aview.toNat
  | 6 => (bankpwrValue x).toNat
  | 7 => x.rsoor.toNat
  | _ => 0

/-- Byte o of the core block; k0 reads as all ones. -/
def coreByte (x : Ctx) (wake o : Nat) : Byte :=
  if o < 8 then 0xFF
  else if o < 64 then byteOf (tget 0 x.k (o / 8)).toNat (o % 8)
  else if o < 128 then byteOf x.flags.toNat (o - 64)
  else if o < 224 then byteOf (queueStatus (imageQueue x ((o - 128) / 8))).toNat (o % 8)
  else if o < 352 then byteOf (hslotValue x ((o - 224) / 8)).toNat (o % 8)
  else byteOf (coreWord x wake ((o - 352) / 8)) (o % 8)

/-- A byte of a nest table, zero where no job is. -/
def nestByte (j : Option NestJob) (i : Nat) : Byte :=
  match j with
  | some j => byteOf (nestWord j.table (i / 8)).toNat (i % 8)
  | none => 0

/-- The two operand values of a resolver job besides its tile: the anchor, the exponent, the destination, the source, the scales. -/
def rkindWords : RKind → Nat × Nat
  | .aclr v => (v.toNat, 0)
  | .aanc e => (zextI e 16, 0)
  | .toFormat _ _ _ _ d => (d, 0)
  | .wire x _ d => (d, zextI x 16)
  | .ascl a b => (a, b)
  | .amov a => (a, 0)
  | .canon | .achk | .sta _ => (0, 0)

/-- Byte i of a resolver queue entry: the parcels, then tile index and the two operand values, 4 bytes each, and zeros (log entry 16). -/
def rjobByte (j : RJob) (i : Nat) : Byte :=
  if i < 8 then byteOf j.parcels.toNat i
  else if i < 12 then byteOf j.tile (i - 8)
  else if i < 16 then byteOf (rkindWords j.kind).1 (i - 12)
  else if i < 20 then byteOf (rkindWords j.kind).2 (i - 16)
  else 0

/-- Byte o of the engine block. The latched views are VVIEW (which a nest does not use: zero), TVIEW and AVIEW of the running nest (log entry 16). -/
def engineByte (x : Ctx) (free o : Nat) : Byte :=
  if o < 256 then nestByte x.nestRun o
  else if o < 512 then nestByte x.nestPend (o - 256)
  else if o < 536 then
    match x.nestRun with
    | some j => byteOf (nIdx j.table j.beat ((o - 512) / 4)) (o % 4)
    | none => 0
  else if o < 544 then 0
  else if o < 560 then
    match x.nestRun with
    | some j => byteOf (if o < 552 then j.tview else j.aview).toNat (o % 8)
    | none => 0
  else if o < 816 then
    match x.rjobs[(o - 560) / 32]? with
    | some j => rjobByte j ((o - 560) % 32)
    | none => freeImageByte free o
  else if o < 824 then byteOf x.mwait.toNat (o % 8)
  else if o < 828 then
    match x.rjobs with
    | j :: _ => byteOf j.row (o - 824)
    | [] => 0
  else if o = 828 then
    match x.rjobs with
    | j :: _ => if j.transform then 1 else 0
    | [] => 0
  else if o = 829 then (if x.nestRun.isSome then 1 else 0)
  else if o = 830 then (if x.nestPend.isSome then 1 else 0)
  else if o < 835 then
    match x.nestRun with
    | some { lastWs := some w, .. } => byteOf (BitVec.ofInt 32 w).toNat (o - 831)
    | _ => 0
  else 0

/-- Byte o of the queue slots: an entry in the layout of R44, undefined bytes in a slot that is not in use. -/
def queueByte (x : Ctx) (free o : Nat) : Byte :=
  match slotEntry (imageQueue x (o / 4352)) (o / 272 % 16) with
  | some e => (entryBytes e).getD (o % 272) 0
  | none => freeImageByte free o

/-- The sequencer whose instruction store or block holds an offset. -/
def imageOwner (start : Seq → Nat) (o : Nat) : Seq := if o < start .X then .L else if o < start .S then .X else .S

/-- Byte o of the image of a context with its wake time (R420). -/
def imageByte (x : Ctx) (wake free o : Nat) : Byte :=
  if o < imageCode .L then granuleByte (storeGranule x (o / 16)) (o % 16)
  else if o < imageQueues then
    let q := imageOwner imageCode o
    byteOf (tget 0 (ctxSeq x q).istore ((o - imageCode q) / 4)).toNat (o % 4)
  else if o < imageSeq .L then queueByte x free (o - imageQueues)
  else if o < imageCore then
    let q := imageOwner imageSeq o
    seqByte (ctxSeq x q) (o - imageSeq q)
  else if o < imageEngine then coreByte x wake (o - imageCore)
  else engineByte x free (o - imageEngine)

/-! ## What a fill makes of an image -/

/-- n bytes at an offset of an image, as a number. -/
def imageNat (b : Nat → Byte) (o n : Nat) : Nat := ofBytes (fun i => b (o + i)) n

/-- n values in a row, as a table of what f gives. -/
def fullTable {α : Type} (n : Nat) (f : Nat → α) : Table α := (List.range n).map fun i => (i, f i)

/-- A loop record from its 16 bytes. -/
def loopFrom (b : Nat → Byte) (o : Nat) : LoopRec :=
  { count := BitVec.ofNat 32 (imageNat b o 4), start := BitVec.ofNat 16 (imageNat b (o + 4) 2), stop := BitVec.ofNat 16 (imageNat b (o + 6) 2),
    level := BitVec.ofNat 2 (imageNat b (o + 8) 1), age := imageNat b (o + 9) 1, active := imageNat b (o + 10) 1 ≠ 0 }

/-- The trap registers of a level from their 32 bytes. -/
def trapFrom (b : Nat → Byte) (o : Nat) (sq : Seq) : TrapBank :=
  { epc := BitVec.ofNat 16 (imageNat b o 8) &&& epcMask sq, ecause := BitVec.ofNat 8 (imageNat b (o + 8) 8),
    eaddr := BitVec.ofNat 56 (imageNat b (o + 16) 8), escr := BitVec.ofNat 64 (imageNat b (o + 24) 8) }

/-- A sequencer from its block and its instruction store. -/
def seqFrom (b : Nat → Byte) (sq : Seq) (q : SeqState) : SeqState :=
  let o := imageSeq sq
  { q with g := fullTable 32 fun r => BitVec.ofNat 64 (imageNat b (o + 8 * r) 8)
           lc := fullTable 4 fun n => loopFrom b (o + 256 + 16 * n)
           tlevel := BitVec.ofNat 2 (min 2 (imageNat b (o + 320) 1 % 4))
           tvec := BitVec.ofNat 16 (imageNat b (o + 328) 8)
           bank0 := trapFrom b (o + 336) sq
           bank1 := trapFrom b (o + 368) sq
           pc := BitVec.ofNat 32 (imageNat b (o + 400) 8)
           wait := waitFrom (imageNat b (o + 408) 1)
           istore := fullTable (if sq = .X then 16384 else 4096) fun n => BitVec.ofNat 32 (imageNat b (imageCode sq + 4 * n) 4) }

/-- A queue entry from its 272 bytes. -/
def entryFrom (b : Nat → Byte) (o : Nat) : QEntry :=
  { data := BitVec.ofNat 2048 (imageNat b o 256), mask := BitVec.ofNat 64 (imageNat b (o + 256) 8), eos := (imageNat b (o + 264) 1).testBit 0 }

/-- Queue n (q0 to q7, w0 to w3) from its status word and its slots. -/
def queueFrom (b : Nat → Byte) (n : Nat) : Queue :=
  let st := imageNat b (imageCore + 128 + 8 * n) 8
  { head := BitVec.ofNat 4 st
    entries := (List.range (min 16 (st / 16 % 32))).map fun i => entryFrom b (imageQueues + 4352 * n + 272 * ((st + i) % 16)) }

/-- A handle slot from its register value: the batch buffer that the slot held before stays its own. -/
def slotFrom (b : Nat → Byte) (x : Ctx) (n : Nat) : Option Handle :=
  let v := imageNat b (imageCore + 224 + 8 * n) 8
  if v.testBit 63 then some { base := v % 2 ^ 16, len := v / 2 ^ 16 % 2 ^ 17, batch := (tfind x.slots n).bind (·.batch) } else none

/-- A nest job with the table at an offset. -/
def nestFrom (b : Nat → Byte) (o : Nat) (j : NestJob) : NestJob := { j with table := fullTable 32 fun w => BitVec.ofNat 64 (imageNat b (o + 8 * w) 8) }

/-- The running nest job: its table, its views, its next beat and the shard offset of the last landed one. -/
def runFrom (b : Nat → Byte) (j : NestJob) : NestJob :=
  let o := imageEngine
  let j := nestFrom b o j
  { j with beat := (List.range 6).foldl (fun n l => n + imageNat b (o + 512 + 4 * l) 4 * nInner j.table l) 0
           tview := BitVec.ofNat 64 (imageNat b (o + 544) 8)
           aview := BitVec.ofNat 64 (imageNat b (o + 552) 8)
           lastWs := j.lastWs.map fun _ => (BitVec.ofNat 32 (imageNat b (o + 831) 4)).toInt }

/-- A nest job that was not spilled, before its table and views are read: an image that was altered can make it (R420). -/
def blankNest (x : Ctx) : NestJob :=
  { table := [], tview := x.tview, aview := x.aview, foot := footprint x, arrival := x.arrivals, started := false, beat := 0, latch := none, ahead := none,
    loading := none, lastWs := none, cleared := [], nv := false, mz := false, ilt := false, woor := false, aoor := false, fpc := 0, parcels := 0 }

/-- What a resolver job does, from its parcels and its two operand values: what it did, where the parcels name no resolver instruction. -/
def rkindFrom (j : RJob) (parcels : BitVec 64) (a b : Nat) : RKind :=
  match decode j.seq (parcels.setWidth 32) ((parcels >>> 32).setWidth 32) with
  | .ok (.aclr ..) => .aclr (BitVec.ofNat 16 a)
  | .ok (.aanc ..) => .aanc (sextN a 16)
  | .ok (.rslvCanonical ..) => .canon
  | .ok (.rslvToFormat f r sat _ _ _ q) => .toFormat f r sat q.nf a
  | .ok (.rslvWireForm _ _ _ _ q) => .wire (sextN b 16) q.nf a
  | .ok (.ascl ..) => .ascl a b
  | .ok (.amov ..) => .amov a
  | .ok (.achk ..) => .achk
  | .ok (.sta raw ..) => .sta raw
  | _ => j.kind

/-- H of a resolver job, from its parcels; an STA's comes from a register. -/
def rjobHeight (j : RJob) (parcels : BitVec 64) : Nat :=
  match decode j.seq (parcels.setWidth 32) ((parcels >>> 32).setWidth 32) with
  | .ok (.aclr _ _ h _) | .ok (.aanc _ _ h _) | .ok (.rslvCanonical _ h _) | .ok (.rslvToFormat _ _ _ _ _ h _) | .ok (.rslvWireForm _ _ _ h _)
  | .ok (.ascl _ _ _ h _) | .ok (.amov _ _ h _) | .ok (.achk _ h _) => h.toNat + 1
  | _ => j.h

/-- Entry i of the resolver queue from its 32 bytes. -/
def rjobFrom (b : Nat → Byte) (i : Nat) (j : RJob) : RJob :=
  let o := imageEngine + 560 + 32 * i
  let p := BitVec.ofNat 64 (imageNat b o 8)
  { j with parcels := p, tile := imageNat b (o + 8) 4, kind := rkindFrom j p (imageNat b (o + 12) 4) (imageNat b (o + 16) 4), h := rjobHeight j p }

/-- The resolver queue: its entries, with row and pass of the running job. -/
def rjobsFrom (b : Nat → Byte) (l : List RJob) : List RJob :=
  match l.zipIdx.map fun (j, i) => rjobFrom b i j with
  | j :: t => { j with row := imageNat b (imageEngine + 824) 4, transform := imageNat b (imageEngine + 828) 1 ≠ 0 } :: t
  | [] => []

/-- A context filled from an image (R419, R420): what the image holds comes from its bytes, the rest from the context that was spilled. Reserved bits of a
register read as zero; a TLEVEL of 3 acts as 2 and a COUNT above 16 as 16 (log entry 16). -/
def ctxFrom (b : Nat → Byte) (x : Ctx) : Ctx :=
  let word (i : Nat) : Word := BitVec.ofNat 64 (imageNat b (imageCore + 352 + 8 * i) 8)
  { x with seqL := seqFrom b .L x.seqL
           seqX := seqFrom b .X x.seqX
           seqS := seqFrom b .S x.seqS
           store := fullTable 65536 fun n => BitVec.ofNat 128 (imageNat b (16 * n) 16)
           k := fullTable 8 fun n => if n = 0 then 0 else BitVec.ofNat 64 (imageNat b (imageCore + 8 * n) 8)
           flags := BitVec.ofNat 512 (imageNat b (imageCore + 64) 64)
           q := fullTable 8 (queueFrom b)
           w := fullTable 4 fun n => queueFrom b (8 + n)
           slots := (List.range 16).filterMap fun n => (slotFrom b x n).map fun h => (n, h)
           kernid := word 1
           kargs := word 2
           vview := word 3 &&& viewMask
           tview := word 4 &&& viewMask
           aview := word 5 &&& viewMask
           ret := (word 6).setWidth 8
           bankOn := (word 6 >>> 8).setWidth 8
           rsoor := word 7 &&& 0x8000000001FFFFFF
           nestRun := if imageNat b (imageEngine + 829) 1 = 0 then none else some (runFrom b (x.nestRun.getD (blankNest x)))
           nestPend := if imageNat b (imageEngine + 830) 1 = 0 then none
                       else some (nestFrom b (imageEngine + 256) (x.nestPend.getD (blankNest x)))
           rjobs := rjobsFrom b x.rjobs
           mwait := BitVec.ofNat 64 (imageNat b (imageEngine + 816) 8) }

end Sys2Proof.Machine
end

