-- ==== Sys2Proof/Machine/Records.lean ====
section
/-! DEFINITION. The halt line's arrival at the units of a partition, their stop points and their stop records (R405 to R411). -/

namespace Sys2Proof.Machine

/-! ## Records (R409, R410) -/

/-- A 128-byte record from its fields: byte offset and value. -/
def packRecord (fields : List (Nat × Nat)) : List Byte := natBytes (fields.foldl (fun n (o, v) => n + v * 2 ^ (8 * o)) 0) 128

/-- Bytes 0 to 7 of a record. -/
def recordHead (unit place part : Nat) (origin : Option StopInfo) (imprecise : Bool) (tlevel iseq icore : Nat) : Nat :=
  unit + place * 2 ^ 8 + part * 2 ^ 18 + (if origin.isSome then 2 ^ 21 else 0) + (if imprecise then 2 ^ 22 else 0) +
  (match origin with
    | some i => i.cause
    | none => causePeer).toNat * 2 ^ 24 + tlevel * 2 ^ 32 + iseq * 2 ^ 34 + icore * 2 ^ 36

/-- KERNID.SERIAL of a context. -/
def ctxSerial (x : Ctx) : Nat := fieldOf x.kernid 0 32

/-- The record of a sequencer; where it is no origin, FPC and PARCELS show its own stop point. -/
def seqRecord (s : State) (part c : Nat) (sq : Seq) : List Byte :=
  let x := getCtx s c
  let q := ctxSeq x sq
  let info := q.origin.getD { cause := causePeer, eaddr := if q.wait = .page then q.stallAddr else 0, fpc := q.pc.setWidth 16, parcels := parcelsAt q q.pc.toNat, imprecise := false }
  packRecord ([(0, recordHead (unitOfSeq sq) c part q.origin info.imprecise q.tlevel.toNat 0 0), (8, q.haltedAt % 2 ^ 64), (16, ctxSerial x),
    (24, ctxOrdinal x), (32, q.pc.toNat % 2 ^ 16), (40, info.eaddr.toNat), (48, info.fpc.toNat), (56, info.parcels.toNat), (80, waitCode q.wait)] ++
    (List.range 4).map fun n => (64 + 4 * n, (tget {} q.lc n).count.toNat))

/-- The common fields of an engine's record. -/
def engineHead (s : State) (unit place part : Nat) (origin : Option StopInfo) (job : Option (Seq × Nat × BitVec 16 × BitVec 64))
    (serial ordinal : Nat) : List (Nat × Nat) :=
  let (iseq, icore, fpc, parcels) := match job with
    | some (q, c, f, p) => (unitOfSeq q, c, f.toNat, p.toNat)
    | none => (0, 0, 0, 0)
  [(0, recordHead unit place part origin true 0 iseq icore), (8, stopCycle s part 320 % 2 ^ 64), (16, serial), (24, ordinal),
   (40, match origin with
     | some i => i.eaddr.toNat
     | none => 0), (48, fpc), (56, parcels)]

/-- The owner of a job as the record names it. -/
def ownerJob (o : Owner) : Option (Seq × Nat × BitVec 16 × BitVec 64) := some (o.seq, o.core, o.fpc, o.parcels)

/-- The job that an engine of a core stopped on, which its record names (R410). -/
def stoppedJob (c : Nat) (e : Option (Seq × StopInfo)) : Option (Seq × Nat × BitVec 16 × BitVec 64) :=
  e.map fun (q, i) => (q, c, i.fpc, i.parcels)

/-- The record of a matrix engine. -/
def matrixRecord (s : State) (part c : Nat) : List Byte :=
  let x := getCtx s c
  let stop := tfind x.engStop 3
  let job := (stoppedJob c stop).orElse fun _ => x.nestRun.map fun j => (Seq.X, c, j.fpc, j.parcels)
  let idx := match x.nestRun with
    | some j => (List.range 6).map fun l => (64 + 4 * l, nIdx j.table j.beat l % 2 ^ 32)
    | none => []
  packRecord (engineHead s 3 c part (stop.map (·.2)) job (ctxSerial x) (ctxOrdinal x) ++ idx ++
    [(88, if x.nestRun.isSome then 1 else 0), (89, if x.nestPend.isSome then 1 else 0), (96, x.mwait.toNat)])

/-- The record of a resolver. -/
def resolverRecord (s : State) (part c : Nat) : List Byte :=
  let x := getCtx s c
  let stop := tfind x.engStop 4
  let job := (stoppedJob c stop).orElse fun _ => x.rjobs.head?.map fun j => (j.seq, c, j.fpc, j.parcels)
  let unit := match x.rjobs.head? with
    | some j => [(64, j.parcels.toNat), (72, j.row), (76, if j.transform then 1 else 0)]
    | none => []
  packRecord (engineHead s 4 c part (stop.map (·.2)) job (ctxSerial x) (ctxOrdinal x) ++ unit ++ [(77, x.rjobs.length % 256)])

/-- The record of a copy engine. -/
def copyRecord (s : State) (part cl : Nat) : List Byte :=
  let x := getCluster s cl
  match x.card with
  | some c => packRecord (engineHead s 5 cl part x.stopInfo (ownerJob c.owner) c.owner.serial c.owner.ordinal ++ [(64, c.owner.ticket), (72, c.row), (76, c.off)])
  | none => packRecord (engineHead s 5 cl part x.stopInfo none 0 0)

/-- Index of the next entry that an itinerary issues. -/
def nextEntry (it : Itinerary) : Nat := ((List.range it.entries.length).find? fun i => match it.entries[i]? with
  | some e => !e.issued
  | none => false).getD it.entries.length

/-- The record of a Lamplighter context. -/
def lampRecord (s : State) (part d : Nat) : List Byte :=
  let l := getLamp s d part
  let origin := l.stopInfo.map (·.2)
  match l.running with
  | some it => packRecord (engineHead s 6 d part origin (ownerJob it.owner) it.owner.serial it.owner.ordinal ++ [(64, it.addr), (72, nextEntry it)])
  | none => packRecord (engineHead s 6 d part origin (l.stopInfo.bind fun o => ownerJob o.1)
      ((l.stopInfo.map (·.1.serial)).getD 0) ((l.stopInfo.map (·.1.ordinal)).getD 0))

/-- The record of a collective walker: an origin's job, else the head job. -/
def walkerRecord (s : State) (part d : Nat) : List Byte :=
  let w := getWalker s d part
  match (w.jobs.find? fun j => j.stopped.isSome).orElse fun _ => (headJob w).map (·.2) with
  | some j => packRecord (engineHead s 7 d part j.stopped (ownerJob j.owner) j.owner.serial j.owner.ordinal ++
      [(64, j.owner.ticket), (68, j.record.collid.toNat), (72, j.block / max 1 (blocksPer j.record)), (76, j.block % max 1 (blocksPer j.record))])
  | none => packRecord (engineHead s 7 d part none none 0 0)

/-- The record of a request gatherer. -/
def gathererRecord (s : State) (part d : Nat) : List Byte :=
  let g := getGath s d part
  packRecord (engineHead s 8 d part none none 0 0 ++ [(64, g.head.toNat), (66, match g.openBatch with
    | some b => b.rows
    | none => 0)])

/-- The record of a BMV front end: an origin's job, else the oldest of the partition. -/
def bmvRecord (s : State) (part d : Nat) : List Byte :=
  let mine := (getDie s d).bmv.filter fun j => j.owner.part == part && decide (j.row < j.m)
  match (mine.find? fun j => j.stopped.isSome).orElse fun _ => mine.head? with
  | some j => packRecord (engineHead s 9 d part j.stopped (ownerJob j.owner) j.owner.serial j.owner.ordinal ++ [(64, j.owner.ticket), (68, j.row)])
  | none => packRecord (engineHead s 9 d part none none 0 0)

/-- The die on which a unit lies. -/
def unitDie : HaltUnit → Nat
  | .seq c _ | .matrix c | .resolver c => dieOfCore c
  | .copy cl => dieOfCluster cl
  | .lamp d | .walker d | .gatherer d | .bmv d => d

/-- Address of a unit's record in the stop area (R409). -/
def recordAt (base : Nat) : HaltUnit → Nat
  | .seq c q => base + 1024 * c + 128 * unitOfSeq q
  | .matrix c => base + 1024 * c + 384
  | .resolver c => base + 1024 * c + 512
  | .copy cl => base + 0x90000 + 128 * cl
  | .lamp d => base + 0x91200 + 1024 * d
  | .walker d => base + 0x91200 + 1024 * d + 128
  | .gatherer d => base + 0x91200 + 1024 * d + 256
  | .bmv d => base + 0x91200 + 1024 * d + 384

/-- The record of a unit. -/
def recordOf (s : State) (part : Nat) : HaltUnit → List Byte
  | .seq c q => seqRecord s part c q
  | .matrix c => matrixRecord s part c
  | .resolver c => resolverRecord s part c
  | .copy cl => copyRecord s part cl
  | .lamp d => lampRecord s part d
  | .walker d => walkerRecord s part d
  | .gatherer d => gathererRecord s part d
  | .bmv d => bmvRecord s part d

/-- Set HALTST.NOREC. -/
def noRecord (s : State) (part : Nat) : State :=
  setPart s part { getPart s part with halt := { (getPart s part).halt with norec := true } }

/-- Where a unit's record goes: its pieces and tokens, none with STOPBASE = 0 or a fault; page not present makes the write wait. -/
def recordTarget (s : State) (part : Nat) (u : HaltUnit) : Try (State × Option (List Piece) × Demand) :=
  let base := (getPart s part).stopbase.toNat
  if base = 0 then .ok (s, none, [])
  else
    match engineResolve s (unitDie u) part (recordAt base u) 128 { wr := true } with
    | .wait t => .wait t
    | .stop t _ _ => .ok (t, none, [])
    | .ok ps => if writeWaits s ps then .wait s else .ok (s, some ps, engineDemand s (unitDie u) part (recordAt base u) 128 none ps)

/-- Write a unit's record (R409); any fault and STOPBASE = 0 set NOREC. -/
def putRecord (s : State) (part : Nat) (u : HaltUnit) (ps : Option (List Piece)) : State :=
  match ps with
  | none => noRecord s part
  | some ps =>
    let l := recordOf s part u
    let t := cacheAccess s (unitDie u) part (recordAt (getPart s part).stopbase.toNat u) 128
    match writeAccess t ps (fun i => l.getD i 0) (fun _ => false) .none true (clockVector t (unitDie u) []) with
    | .error _ => noRecord t part
    | .ok (t, _) => takeFree t 32

/-- The targets of the records of a list of units, with the tokens of all of them. -/
def recordTargets (s : State) (part : Nat) : List HaltUnit → Demand → Try (State × List (HaltUnit × Option (List Piece)))
  | [], dm => if demandReady s dm then .ok (s, []) else .wait (awaitDemand s dm)
  | u :: rest, dm =>
    match recordTarget s part u with
    | .wait t => .wait t
    | .stop t c g => .stop t c g
    | .ok (t, ps, n) =>
      match recordTargets t part rest (addDemand dm n) with
      | .ok (v, l) => .ok (v, (u, ps) :: l)
      | r => r

/-- Write the records of a list of units; the first page not present makes all of them wait. -/
def writeRecords (s : State) (part : Nat) (us : List HaltUnit) : Try State :=
  match recordTargets s part us [] with
  | .wait t => .wait t
  | .stop t c g => .stop t c g
  | .ok (t, l) => .ok (l.foldl (fun t (u, ps) => putRecord t part u ps) t)

/-- Write a unit's record. -/
def writeRecord (s : State) (part : Nat) (u : HaltUnit) : Try State := writeRecords s part [u]

/-! ## Units (R405, R407) -/

/-- The units that hold state of a partition: those of cores with a cell, and engines with work. -/
def haltUnits (s : State) (p : Nat) : List HaltUnit :=
  let live (d : Nat) : Bool := !(getDie s d).fenced
  ((coresOf s p).filter fun c => live (dieOfCore c) && (getCtx s c).cell.isSome).flatMap
    (fun c => [.seq c .L, .seq c .X, .seq c .S, .matrix c, .resolver c]) ++
  ((clustersOf s p).filter fun cl => live (dieOfCluster cl) && (getCluster s cl).card.isSome).map .copy ++
  ((diesOf s p).filter live).flatMap fun d =>
    (if (getLamp s d p).running.isSome || (getLamp s d p).stopInfo.isSome then [.lamp d] else []) ++
    (if (getWalker s d p).jobs.isEmpty then [] else [.walker d]) ++
    (if (getGath s d p).en then [.gatherer d] else []) ++
    (if (getDie s d).bmv.any fun j => j.owner.part == p && decide (j.row < j.m) then [.bmv d] else [])

/-- A unit has stopped. -/
def unitStopped (s : State) (p : Nat) : HaltUnit → Bool
  | .seq c q => (getSeq s c q).halted
  | .matrix c => (getCtx s c).mHalted
  | .resolver c => (getCtx s c).rHalted
  | .copy cl => (getCluster s cl).halted
  | .lamp d => (getLamp s d p).halted
  | .walker d => (getWalker s d p).halted
  | .gatherer d => (getGath s d p).halted
  | .bmv d => (getDie s d).bmvHalted.contains p

/-- Stop a unit. A sequencer, the expander and the copy engine leave their waits on full-empty bits (R230, R406). -/
def stopUnit (s : State) (p : Nat) : HaltUnit → State
  | .seq c q =>
    let join := (getCtx s c).joinWait
    let s := match q with
      | .L => let t := leaveWait s c; setCtx t c { getCtx t c with joinWait := join }
      | .X => s
      | .S => setCtx s c { getCtx s c with joinWait := none }
    setSeq s c q { getSeq s c q with halted := true, haltedAt := stopCycle s p 80 }
  | .matrix c => let t := leaveExpander s c; setCtx t c { getCtx t c with mHalted := true }
  | .resolver c => setCtx s c { getCtx s c with rHalted := true }
  | .copy cl => let t := leaveWaiters s cl .card; setCluster t cl { getCluster t cl with halted := true }
  | .lamp d => setLamp s d p { getLamp s d p with halted := true }
  | .walker d => setWalker s d p { getWalker s d p with halted := true }
  | .gatherer d => setGath s d p { getGath s d p with halted := true }
  | .bmv d => setDie s d { getDie s d with bmvHalted := p :: (getDie s d).bmvHalted }

/-- A unit belongs to a partition. -/
def ownsUnit (s : State) (p : Nat) : HaltUnit → Bool
  | .seq c _ | .matrix c | .resolver c => partOfCore s c == some p
  | .copy cl => partOfCluster s cl == some p
  | .lamp d | .walker d | .gatherer d | .bmv d => (diesOf s p).contains d

/-- A unit is a sequencer. -/
def isSeqUnit : HaltUnit → Bool
  | .seq _ _ => true
  | _ => false

/-- HALT_LINE_ARRIVE (R405): a sequencer that the line reaches stops before its next instruction. Engines go on to their stop points. -/
def execHaltLineArrive (part : Nat) (u : HaltUnit) (s : State) : Res :=
  let h := (getPart s part).halt
  if !h.raised || h.halted || !isSeqUnit u || !ownsUnit s part u || unitStopped s part u then .next s else .next (stopUnit s part u)

/-- ENGINE_STOP_POINT (R407, R409): an engine stops after its current beat, row, chunk, entry or block and writes its record. -/
def execEngineStopPoint (part : Nat) (u : HaltUnit) (s : State) : Res :=
  let h := (getPart s part).halt
  if !h.raised || h.halted || (getPart s part).reset != .idle || isSeqUnit u || !ownsUnit s part u || unitStopped s part u then .next s
  else if !(haltUnits s part).contains u then .next (stopUnit s part u)
  else
    match writeRecord s part u with
    | .wait t => .next t
    | .stop t _ _ => .next t
    | .ok t => .next (stopUnit t part u)

/-- HALT_COMPLETE (R408, R411): every unit has stopped, what was issued has landed, and the sequencers' records are written. -/
def execHaltComplete (part : Nat) (s : State) : Res :=
  let x := getPart s part
  let units := haltUnits s part
  let cores := (coresOf s part).filter fun c => (getCtx s c).cell.isSome && !(getDie s (dieOfCore c)).fenced
  if !x.halt.raised || x.halt.halted || x.reset != .idle || !units.all (unitStopped s part) || !cores.all (fun c => issuedDone (getCtx s c)) then .next s
  else
    let s := cores.foldl (fun t c => setCtx t c (landAll (getCtx t c))) s
    match writeRecords s part (units.filter isSeqUnit) with
    | .wait t => .next t
    | .stop t _ _ => .next t
    | .ok t =>
      let y := getPart t part
      let t := setPart t part { y with halt := { y.halt with halted := true } }
      .next (if y.halt.cause = causeDebug ∨ y.halt.cause = causeBrk then t else setPirq t part 0)

end Sys2Proof.Machine
end

