-- ==== Sys2Proof/Machine/Parking.lean ====
section
/-! DEFINITION. Pre-emption (R418 to R420): slots of the context pool, asking for a park, the flip, the spill of a context to its slot, and its return. -/

namespace Sys2Proof.Machine

/-- Parking slots of a core's partition: values 5 to 7 of CXPER act as 4 (R411). -/
def parkSlots (s : State) (core : Nat) : Nat :=
  match partOfCore s core with
  | some p => min 4 (getPart s p).cxper.toNat
  | none => 0

/-- The lowest slot of a core that holds no context and takes none (R419). -/
def freeSlot (s : State) (core : Nat) : Option Nat :=
  let y := getCore s core
  firstIndex (fun i => (tfind y.parked i).isNone && (y.spilling.map (·.1)) != some i) (parkSlots s core)

/-- A park can start: the context runs a cell, none is under way, and a slot is free. -/
def canPark (s : State) (core : Nat) : Bool :=
  let y := getCore s core
  y.ctx.cell.isSome && y.parkReq.isNone && (freeSlot s core).isSome

/-- Ask for a park of a core's active context with a wake time (R419): its sequencers stop at their next boundary. -/
def askPark (s : State) (core wake : Nat) : State :=
  setCore s core { getCore s core with parkReq := some wake }

/-- The sequencer's gang has one core. -/
def aloneInGang (s : State) : Bool :=
  match (curCtx s).cell with
  | some e => e.gangSize == 1
  | none => true

/-- The distributor of a die holds a ready cell of another kernel with greater effective priority, and no core is free for it (R329). -/
def betterWaits (s : State) (core : Nat) : Bool :=
  match (getCtx s core).cell with
  | none => false
  | some e =>
    let d := dieOfCore core
    let mine := ctxPrio s e.part (getCtx s core)
    (getPart s e.part).kernels.any fun k =>
      let pr := effPrio s e.part k.stream
      k.serial.toNat != e.serial && decide (mine < pr) && kernelReady k && (giveRange k core d).isSome &&
      (freeBlocks s e.part d (kGang k.record) (kSramg k.record) pr).isEmpty

/-- What YLD does besides completing (R329, R421). -/
def yieldCore (s : State) : State :=
  if aloneInGang s && canPark s s.cur.1 && betterWaits s s.cur.1 then askPark s s.cur.1 0 else s

/-- The ranges that a core's placement owns become unowned (log entry 15: a parked cell no longer walks them). -/
def disown (s : State) (core : Nat) : State :=
  match (getCore s core).range with
  | some (p, serial, base, 1) =>
    let s := updKernel s p serial fun k => { k with ranges := k.ranges.map fun r => if r.owner = some base then { r with owner := none } else r }
    setCore s core { getCore s core with range := none }
  | _ => s

/-- Stopped sequencers of a context that goes off its core no longer wait on a page request (R406, R418); what they waited for stands in the image. -/
def stillCtx (x : Ctx) : Ctx :=
  let still (q : SeqState) : SeqState := { q with pageTag := none }
  { landAll x with seqL := still x.seqL, seqX := still (landAll x).seqX, seqS := still x.seqS }

/-- What the last kernel start on a core set and its cells changed since goes on in the copy that a flip makes active, so that the core's next cell, if
it is of the same kernel, finds it: the flip is no kernel start (R42, R443; log entry 15). -/
def inheritKernel (old new : Ctx) : Ctx :=
  let seq (o q : SeqState) : SeqState := { q with istore := o.istore, tvec := o.tvec }
  { new with seqL := seq old.seqL new.seqL, seqX := seq old.seqX new.seqX, seqS := seq old.seqS new.seqS, vview := old.vview, tview := old.tview,
             aview := old.aview, ret := old.ret, rsoor := old.rsoor, oor := old.oor }

/-- SHADOW_FLIP (R418): a park that was asked for exchanges the active and the shadow context once the shadow is empty; the spill of the old context
begins. The flip takes 48 cycles. -/
def execShadowFlip (core : Nat) (s : State) : Res :=
  let y := getCore s core
  match y.parkReq, freeSlot s core with
  | some w, some i =>
    if y.spilling.isSome || y.shadow.cell.isSome || !y.shadow.lacc.isEmpty || inReset s core then .next s
    else
      let s := disown (leaveExpander (leaveWait s core) core) core
      let y := getCore s core
      let old := stillCtx y.ctx
      let s := setCore s core { y with ctx := inheritKernel old y.shadow, shadow := old, parkReq := none, spilling := some (i, w) }
      .next { s with cycle := s.cycle + 48 }
  | some _, none => .next (setCore s core { y with parkReq := none })
  | none, _ => .next s

/-- Address of slot i of a core in the context pool (R419). -/
def slotAddr (s : State) (p core i : Nat) : Nat := (getPart s p).cxpool.toNat + 2 ^ 21 * (min 4 (getPart s p).cxper.toNat * core + i)

/-- Where the first granules of the 64 KiB frames lie that an image at an address touches, if each is there and permits an access (R419): otherwise a page
to wait for, or the cause. -/
def imagePages (s : State) (d p a : Nat) (need : Need) : Try (List Loc) :=
  (List.range ((imageSize + 65535) / 65536)).foldl (fun t k =>
    match t with
    | .ok l =>
      match engineResolve s d p (a + 65536 * k) 16 need with
      | .ok ps => .ok (l ++ ps.map (·.loc))
      | .wait u => .wait u
      | .stop t c g => .stop t c g
    | t => t) (.ok [])

/-- Granule i of a 64 KiB frame, from where its first one lies. -/
def frameLoc (i : Nat) : Loc → Loc
  | .dram pa layout mire key part => .dram (pa + 16 * i) layout mire key part
  | .remote pkg off mire part die => .remote pkg (off + 16 * i) mire part die
  | l => l

/-- The granules of an image at an address, from those of its frames. -/
def imagePieces (a : Nat) (heads : List Loc) : List Piece :=
  (List.range (imageSize / 16)).map fun g =>
    { loc := frameLoc (g % 4096) (heads.getD (g / 4096) .beyond), addr := a + 16 * g, first := 0, count := 16, pos := 16 * g }

/-- A fault on the image of a context (R419): the halt line is raised with the core as origin; the kernel is the context's. -/
def imageFault (s : State) (p core : Nat) (x : Ctx) (cause : BitVec 8) : State :=
  setPirq (raiseHalt s p cause core 1 (fieldOf x.kernid 0 32) (resumableCause cause) false) p 0

/-- The tokens of an image and of the walks to it (R376, R419). -/
def imageDemand (s : State) (d p a : Nat) (ps : List Piece) : Demand := addDemand (walkDemand s d p a imageSize none) (tokensOf s ps)

/-- CONTEXT_SPILL_COMPLETE (R419, R420): with everything it issued landed, the image of the shadow context is in its slot of the pool. What the image does
not hold stays with the core (log entry 16). -/
def execContextSpillComplete (core : Nat) (s : State) : Res :=
  let y := getCore s core
  match y.spilling, partOfCore s core with
  | some (i, w), some p =>
    if !issuedDone y.shadow || inReset s core then .next s
    else
      match imagePages s (dieOfCore core) p (slotAddr s p core i) { wr := true } with
      | .wait t => .next t
      | .stop t c _ => .next (imageFault t p core y.shadow c)
      | .ok heads =>
        let a := slotAddr s p core i
        let ps := imagePieces a heads
        let dm := imageDemand s (dieOfCore core) p a ps
        if !demandReady s dm || writeWaits s ps then .next (awaitDemand s dm)
        else
          let s := cacheAccess s (dieOfCore core) p a imageSize
          match writeAccess s ps (imageByte y.shadow w s.freeCtr) (fun _ => false) .none true (clockVector s (dieOfCore core) []) with
          | .error (c, _) => .next (imageFault s p core y.shadow c)
          | .ok (t, stamps) =>
            .next (takeFree (setCore t core { y with shadow := {}, spilling := none,
                                                     parked := tput y.parked i { ctx := y.shadow, wake := w, ready := false, stamps := stamps } }) imageSize)
  | _, _ => .next s

/-- CONTEXT_WAKE (R419): CYCLE has reached the wake time of the context in slot n. -/
def execContextWake (core n : Nat) (s : State) : Res :=
  let y := getCore s core
  match tfind y.parked n with
  | none => .next s
  | some k => .next { setCore s core { y with parked := tput y.parked n { k with ready := true } } with cycle := max s.cycle k.wake }

/-- The bytes that a fill reads, or the machine fault of the lowest granule that meets one (R218, R220, R338). -/
def imageRead (s : State) (d : Nat) (ps : List Piece) : Except (BitVec 8 × Nat) (Nat → Byte) :=
  let gs := linkReads s ps (readPieces s d ps 0)
  match firstFault ps gs with
  | some e => .error e
  | none => .ok (accessByte ps gs)

/-- Core numbers at which a ready parked context may come back: nothing runs there, no flip or spill is under way, and no placement of another
gang holds the core. -/
def resumeRoom (s : State) (core : Nat) (x : Ctx) : Bool :=
  let y := getCore s core
  y.ctx.cell.isNone && y.parkReq.isNone && y.spilling.isNone && !(getDie s (dieOfCore core)).fenced &&
  match y.range, x.cell with
  | none, _ => true
  | some (p, serial, base, _), some e => p == e.part && serial == e.serial && base == e.gangBase && y.place == e.place
  | some _, none => false

/-- A context with greater effective priority is ready on the core. -/
def outranked (s : State) (p core n : Nat) : Bool :=
  let y := getCore s core
  match tfind y.parked n with
  | none => true
  | some k => y.parked.any fun (m, o) => m != n && o.ready && decide (ctxPrio s p k.ctx < ctxPrio s p o.ctx)

/-- A nest that goes on after a stop loads its next beat's shard again (R196). -/
def resumeNest (j : NestJob) : NestJob := { j with latch := none, ahead := none, loading := none }

/-- A resolver job that goes on after a stop repeats a check pass from the first row, and continues a transform pass from the next (R196). -/
def resumeJob (j : RJob) : RJob := if j.transform then j else { j with row := 0 }

/-- Sequencers of a context that comes back begin at a cycle, without what remained of a WAITC (R106), and none is halted (R406); its engines go on as
after any stop (R196). -/
def resumeCtx (x : Ctx) (now : Nat) : Ctx :=
  let go (q : SeqState) : SeqState := { q with halted := false, origin := none, wait := .none, pageFail := false, clock := now }
  { x with seqL := go x.seqL, seqX := go x.seqX, seqS := go x.seqS, mHalted := false, rHalted := false, engStop := [], wdog := 0,
           nestRun := x.nestRun.map resumeNest, rjobs := x.rjobs.map resumeJob }

/-- CONTEXT_RESUME (R419, R420): a ready context whose image the core's die sees fills the shadow from the image, flips in, and frees its slot. The context
that it replaces has no cell and is dropped but for its performed stores. -/
def execContextResume (core n : Nat) (s : State) : Res :=
  let y := getCore s core
  match tfind y.parked n, partOfCore s core with
  | some k, some p =>
    if !k.ready || !resumeRoom s core k.ctx || outranked s p core n || !partRuns s p || !coveredDie s (dieOfCore core) k.stamps then .next s
    else
      match imagePages s (dieOfCore core) p (slotAddr s p core n) { rd := true } with
      | .wait t => .next t
      | .stop t c _ => .next (imageFault t p core k.ctx c)
      | .ok heads =>
        let a := slotAddr s p core n
        let ps := imagePieces a heads
        let dm := imageDemand s (dieOfCore core) p a ps
        if !demandReady s dm then .next (awaitDemand s dm)
        else
          let s := cacheAccess s (dieOfCore core) p a imageSize
          match imageRead s (dieOfCore core) ps with
          | .error (c, _) => .next (imageFault (countReads s ps) p core k.ctx c)
          | .ok byte =>
            let x := ctxFrom byte k.ctx
            let x := resumeCtx { x with sacc := y.ctx.sacc ++ x.sacc } (s.cycle + 48)
            .next (takeFree (setCore { countReads s ps with cycle := s.cycle + 48 } core
              { y with ctx := x, parked := tdel y.parked n, lastKernel := x.cell.map fun e => (e.part, e.serial) }) imageSize)
  | _, _ => .next s

/-- CXCTL_PARK (R419), ignored during a partition reset (R378). -/
def execCxctlPark (core : Nat) (s : State) : Res :=
  if canPark s core && !inReset s core then .next (askPark s core 0) else .next s

end Sys2Proof.Machine
end

