-- ==== Sys2Proof/Machine/SchedInstr.lean ====
section
/-! DEFINITION. The scheduling instructions of X (R318, R323 to R331), the gang barrier, and IDLE and CSWAP (R416, R421). -/

namespace Sys2Proof.Machine

/-- Change the cell record of the executing context. -/
def updCell (s : State) (f : CellInfo → CellInfo) : State :=
  let x := curCtx s
  setCurCtx s { x with cell := x.cell.map f }

/-- X has completed WPW, TAIL or IDLE (R322). -/
def releaseLS (s : State) : State := updCell s fun e => { e with lsReleased := true }

/-- SMS (R324). -/
def execSms (q : XQ) (s : State) : Res :=
  match (curCtx s).cell with
  | none => .next (finish 2 (spacing q) s)
  | some e => .next (finish 2 (spacing q) (updCell (passSms s e.part e.serial e.ordinal) fun e => { e with sms := true }))

/-- A kernel of the stream that became resident before the kernel of a cell is not complete (R320, R321). -/
def predecessorRuns (s : State) (e : CellInfo) : Bool :=
  let ks := (getPart s e.part).kernels
  match ks.find? fun k => k.serial.toNat == e.serial with
  | none => false
  | some k => (ks.takeWhile fun o => o.serial != k.serial).any fun o => o.stream == k.stream

/-- WPW (R325). -/
def execWpw (q : XQ) (s : State) : Res :=
  match (curCtx s).cell with
  | none => .next (finish 2 (spacing q) s)
  | some e => if predecessorRuns s e then block .other s else .next (finish 2 (spacing q) (releaseLS s))

/-! ## GBAR (R326) -/

/-- GBAR: the first attempt counts as the arrival. -/
def execGbar (q : XQ) (s : State) : Res :=
  match (curCtx s).cell with
  | none => .next (finish 2 (spacing q) s)
  | some e =>
    if e.gangSize ≤ 1 then .next (finish 2 (spacing q) s)
    else if e.gbarOpen then
      if e.gbarGo then .next (finish 2 (spacing q) (updCell s fun e => { e with gbarOpen := false, gbarGo := false })) else block .gbar s
    else block .gbar (updCell s fun e => { e with gbars := e.gbars + 1, gbarOpen := true })

/-- A context runs the cell of a gang's group that a given cell belongs to. -/
def sameGroup (e : CellInfo) (x : Ctx) : Bool :=
  match x.cell with
  | some f => f.part == e.part && f.serial == e.serial && f.gangBase == e.gangBase && f.place == e.place
  | none => false

/-- The member's cell, where it has not ended: active, in the shadow, or parked. -/
def memberCell (s : State) (e : CellInfo) (c : Nat) : Option CellInfo := ((contextsOf s c).find? (sameGroup e)).bind (·.cell)

/-- Change every context of a core. -/
def mapContexts (s : State) (c : Nat) (f : Ctx → Ctx) : State :=
  let y := getCore s c
  setCore s c { y with ctx := f y.ctx, shadow := f y.shadow, parked := y.parked.map fun (i, k) => (i, { k with ctx := f k.ctx }) }

/-- GANG_BARRIER_COMPLETE (R326): when every member has executed as many GBARs as the waiting one or has ended its cell, every member that waits at
that barrier goes on, 8 cycles after the last arrival. -/
def execGangBarrierComplete (core : Nat) (s : State) : Res :=
  match (getCtx s core).cell with
  | none => .next s
  | some e =>
    let members := (List.range e.gangSize).map (e.gangBase + ·)
    let arrived := members.all fun c => match memberCell s e c with
      | some f => e.gbars ≤ f.gbars
      | none => true
    if !e.gbarOpen || e.gbarGo || !arrived then .next s
    else
      let t := members.foldl (fun m c => max m (getCtx s c).seqX.clock) 0 + 8
      .next (members.foldl (fun s c => mapContexts s c fun x =>
        if sameGroup e x then
          match x.cell with
          | some f => if f.gbarOpen && f.gbars == e.gbars then
              { x with cell := some { f with gbarGo := true }, seqX := { x.seqX with clock := max x.seqX.clock t } } else x
          | none => x
        else x) s)

/-! ## SIG and TAIL (R318, R327) -/

/-- SIG: the accesses that it includes are those that S had issued when SIG first tried to issue, in whichever context of the core (R327). -/
def execSig (a : Reg) (q : XQ) (s : State) : Res :=
  let x := curCtx s
  let upto := x.sigWait.getD x.sissued
  let c := s.cur.1
  let seen := x.sacc.all (fun b => !(decide (b.num < upto)) || visibleAt s c .pkg b) &&
    ((contextsOf s c).drop 1).all (fun y => y.sacc.all (visibleAt s c .pkg)) &&
    (getCore s c).tracker.all fun t => match t.acc with
      | some b => visibleAt s c .pkg b
      | none => true
  if seen && enginesIdle x then
    let v := rd s a
    let t := setCurCtx s { x with sigWait := none }
    .next (finish 2 (spacing q) (addCounter t (curPart s) (fieldOf v 0 8) (BitVec.ofNat 64 (fieldOf v 32 32))))
  else block .other (setCurCtx s { x with sigWait := some upto })

/-- TAIL (R318): with L and S ended and the jobs of the core complete, what is still outstanding goes to the retirement tracker when it fits, and
the cell ends. -/
def execTail (q : XQ) (s : State) : Res :=
  let c := s.cur.1
  let x := curCtx s
  let items := outstanding s c
  let y := getCore s c
  if !partsEnded x [.L, .S] || !x.lacc.isEmpty || !enginesIdle x || Config.trackerEntries < entriesTaken items + entriesTaken y.tracker then
    block .job s
  else
    let t := finish 2 (spacing q) s
    let z := getCore t c
    let t := setCore t c { z with tracker := z.tracker ++ items, ctx := { z.ctx with sacc := z.ctx.sacc.filter (visibleAt s c .core) } }
    .next (endCell t c)

/-! ## YLD, QTST and QFWD (R329 to R331) -/

def execYld (q : XQ) (s : State) : Res := .next (yieldCore (finish 2 (spacing q) s))

/-- QTST (R330). -/
def execQtst (d : Reg) (a : BitVec 3) (q : XQ) (s : State) : Res :=
  let x := xContext s
  .next (finish 2 (spacing q) (wr (setCurCtx s x) d (queueStatus (getQ x a.toNat))))

/-- QFWD (R331): the entry takes its turn behind the pushes in flight (R45). -/
def execQfwd (d : BitVec 2) (a : BitVec 3) (q : XQ) (s : State) : Res :=
  let x := xContext s
  match (getQ x a.toNat).entries.head? with
  | none => block .queue s
  | some e =>
    if !destReady x (.w d) then block .queue s
    else
      let x := { x with q := tput x.q a.toNat (popQueue (getQ x a.toNat)) }
      let r : XResult := { due := (curSeq s).clock + 1, writes := [], k := none, orFlags := 0, setFlags := none, push := some (d.toNat, e) }
      .next (finish 2 (spacing q) (setCurCtx s { x with xres := x.xres ++ [r] }))

/-! ## IDLE and CSWAP (R416, R421) -/

/-- IDLE: at trap level 0 the sequencer's part of the cell ends. -/
def execIdle (s : State) : Res :=
  if (curSeq s).tlevel ≠ 0 then illegal s
  else
    let t := if s.cur.2 = .X then releaseLS s else s
    let t := finish 1 1 t
    .next (setCurSeq t { curSeq t with run := .ended })

/-- CSWAP (R421). -/
def execCswap (a : Reg) (s : State) : Res :=
  let w := (rd s a).toNat
  if !aloneInGang s || !canPark s s.cur.1 then
    if w ≤ s.cycle then .next (finish 1 1 s)
    else block .other (setCurSeq s { curSeq s with wakeAt := some w })
  else if w ≤ s.cycle then .next (yieldCore (finish 1 1 s))
  else .next (askPark (finish 1 1 s) s.cur.1 w)

end Sys2Proof.Machine
end

