-- ==== Sys2Proof/Machine/System.lean ====
section
/-! DEFINITION. System registers (R36, R37, R46 to R53, R99, R102 to R104), traps (R414, R415, R417, R423), and TLBI and TLBS (R385, R386). -/

namespace Sys2Proof.Machine

/-! ## The system-register map (R50) -/

/-- A system register as a sequencer names it. -/
inductive SysReg where
  | seqid | cycle | kargs | kernid
  | lc (n : Nat)
  | vview | tview | aview
  | bankpwr | rsoor | flagsum
  | qstq (n : Nat)
  | qstw (n : Nat)
  | mprog
  | hslot (n : Nat)
  | tlevel | tvec
  | epc (b : Nat)
  | ecause (b : Nat)
  | eaddr (b : Nat)
  | escr (b : Nat)
deriving DecidableEq, Repr

/-- The register with a number, none where the map assigns none. -/
def sysReg (n : Nat) : Option SysReg :=
  if n = 0 then some .seqid
  else if n = 1 then some .cycle
  else if n = 2 then some .kargs
  else if n = 3 then some .kernid
  else if 8 ≤ n ∧ n < 0xC then some (.lc (n - 8))
  else if n = 0x10 then some .vview
  else if n = 0x11 then some .tview
  else if n = 0x12 then some .aview
  else if n = 0x13 then some .bankpwr
  else if n = 0x14 then some .rsoor
  else if n = 0x15 then some .flagsum
  else if 0x20 ≤ n ∧ n < 0x28 then some (.qstq (n - 0x20))
  else if 0x28 ≤ n ∧ n < 0x2C then some (.qstw (n - 0x28))
  else if n = 0x30 then some .mprog
  else if 0x40 ≤ n ∧ n < 0x50 then some (.hslot (n - 0x40))
  else if n = 0x100 then some .tlevel
  else if n = 0x101 then some .tvec
  else if n = 0x110 then some (.epc 0)
  else if n = 0x111 then some (.ecause 0)
  else if n = 0x112 then some (.eaddr 0)
  else if n = 0x113 then some (.escr 0)
  else if n = 0x118 then some (.epc 1)
  else if n = 0x119 then some (.ecause 1)
  else if n = 0x11A then some (.eaddr 1)
  else if n = 0x11B then some (.escr 1)
  else none

/-- BANKPWR, RSOOR and FLAGSUM are X's alone; every other register is read by all three sequencers. -/
def readableBy (q : Seq) : SysReg → Bool
  | .bankpwr | .rsoor | .flagsum => q == .X
  | _ => true

/-- The writers of R50. -/
def writableBy (q : Seq) : SysReg → Bool
  | .lc _ | .epc _ | .ecause _ | .eaddr _ | .escr _ => true
  | .vview | .tview | .aview | .bankpwr | .rsoor => q == .X
  | _ => false

/-- FLAGSUM (R48): flags of results in flight are seen or not (R69). -/
def flagsumValue (x : Ctx) (free : Nat) : Word :=
  let v := flagsVector x free
  (orFlagsN (fun j => (lane v j).setWidth 8) 64).setWidth 64

/-- SEQID (R51). -/
def seqidValue (s : State) (c : Nat) (q : Seq) : Word :=
  BitVec.ofNat 64 (unitOfSeq q + 4 * c + 4096 * (partOfCore s c).getD 0)

/-- What MFS of a register gives a sequencer of a core whose context is x. -/
def sysRead (s : State) (x : Ctx) (c : Nat) (sq : Seq) : SysReg → Word
  | .seqid => seqidValue s c sq
  | .cycle => BitVec.ofNat 64 s.cycle
  | .kargs => x.kargs
  | .kernid => x.kernid
  | .lc n => (tget {} (ctxSeq x sq).lc n).count.setWidth 64
  | .vview => x.vview
  | .tview => x.tview
  | .aview => x.aview
  | .bankpwr => bankpwrValue x
  | .rsoor => x.rsoor
  | .flagsum => flagsumValue x s.freeCtr
  | .qstq n => queueStatus (getQ x n)
  | .qstw n => queueStatus (getW x n)
  | .mprog => (getCore s c).mprog
  | .hslot n => hslotValue x n
  | .tlevel => (ctxSeq x sq).tlevel.setWidth 64
  | .tvec => (ctxSeq x sq).tvec.setWidth 64
  | .epc b => (trapBank (ctxSeq x sq) b).epc.setWidth 64
  | .ecause b => (trapBank (ctxSeq x sq) b).ecause.setWidth 64
  | .eaddr b => (trapBank (ctxSeq x sq) b).eaddr.setWidth 64
  | .escr b => (trapBank (ctxSeq x sq) b).escr

/-- The context that a sequencer's system-register access sees: X's results due have landed (R68). -/
def sysContext (s : State) : Ctx := if s.cur.2 = .X then xContext s else curCtx s

/-- MFS (R102). -/
def execMfs (d : Reg) (sr : BitVec 12) (s : State) : Res :=
  match sysReg sr.toNat with
  | none => illegal s
  | some r =>
    if !readableBy s.cur.2 r then illegal s
    else
      let x := sysContext s
      let v := sysRead s x s.cur.1 s.cur.2 r
      .next (takeFree (finish 1 1 (wrAt (setCurCtx s x) d v 2)) 128)

/-- What MTS of a value in cycle now changes in a context. -/
def sysWrite (now : Nat) (x : Ctx) (sq : Seq) (v : Word) : SysReg → Ctx
  | .lc n => let q := ctxSeq x sq
    setCtxSeq x sq { q with lc := tupd {} q.lc n fun r => { r with count := v.setWidth 32 } }
  | .vview => settleBanks { x with vview := v &&& viewMask }
  | .tview => settleBanks { x with tview := v &&& viewMask }
  | .aview => settleBanks { x with aview := v &&& viewMask }
  | .bankpwr => gateRetained { x with ret := v.setWidth 8 }
  | .rsoor => if bitOf v.toNat 63 then clearOor now x else x
  | .epc b => let q := ctxSeq x sq
    setCtxSeq x sq (setTrapBank q b { trapBank q b with epc := v.setWidth 16 &&& epcMask sq })
  | .ecause b => let q := ctxSeq x sq
    setCtxSeq x sq (setTrapBank q b { trapBank q b with ecause := v.setWidth 8 })
  | .eaddr b => let q := ctxSeq x sq
    setCtxSeq x sq (setTrapBank q b { trapBank q b with eaddr := v.setWidth 56 })
  | .escr b => let q := ctxSeq x sq
    setCtxSeq x sq (setTrapBank q b { trapBank q b with escr := v })
  | _ => x

/-- MTS (R103). -/
def execMts (a : Reg) (sr : BitVec 12) (s : State) : Res :=
  match sysReg sr.toNat with
  | none => illegal s
  | some r =>
    if !writableBy s.cur.2 r then illegal s
    else
      let t := setCurCtx s (sysWrite s.cycle (sysContext s) s.cur.2 (rd s a) r)
      let q := curSeq t
      .next (finish 1 1 (setCurSeq t { q with sysReady := tput q.sysReady sr.toNat (q.clock + 2) }))

/-- BANK_WAKE (R36): the banks that X waits for are on. -/
def execBankWake (core : Nat) (s : State) : Res :=
  let x := getCtx s core
  if x.waking = 0 then .next s else .next (setCtx s core (wakeBanks x))

/-! ## The third-level trap (R417) -/

/-- The 64-byte crash record. -/
def crashRecord (s : State) (c : Nat) (sq : Seq) (cause : BitVec 8) (imm : BitVec 20) : List Byte :=
  let q := getSeq s c sq
  natBytes c 2 ++ natBytes (unitOfSeq sq) 1 ++ natBytes ((partOfCore s c).getD 0) 1 ++ natBytes (serialOfCore s c) 4 ++
  natBytes (s.cycle % 2 ^ 64) 8 ++ natBytes q.bank0.epc.toNat 2 ++ natBytes q.bank1.epc.toNat 2 ++ natBytes (q.pc.toNat % 2 ^ 16) 2 ++
  natBytes q.bank0.ecause.toNat 1 ++ natBytes q.bank1.ecause.toNat 1 ++ natBytes cause.toNat 1 ++ List.replicate 7 (0 : Byte) ++
  natBytes q.bank0.eaddr.toNat 8 ++ natBytes q.bank1.eaddr.toNat 8 ++ natBytes imm.toNat 8 ++
  natBytes (match (getCtx s c).cell with
    | some e => e.ordinal
    | none => 0) 8

/-- The buffers of the handle slots of a context that goes. -/
def retireCell (s : State) (c : Nat) (x : Ctx) : State := match x.cell with
  | some e => retireSlotsOf s c e.part e.serial x
  | none => s

/-- Reset a core (R417, step 6 of R378): its state is cleared, the shadow with a context that the spill engine is writing out of it included (log entry
17), and the jobs of its contexts are dropped; stores already issued are performed, the buffers of its handle slots return once nothing names them. MPROG
is cleared with the rest: R417 has everything of step 6 of R378 cleared, where R52 speaks of partition reset alone (log entry 90: the model's choice). -/
def coreReset (s : State) (c : Nat) : State :=
  let y := getCore s c
  let s := retireCell (retireCell (leaveExpander (leaveWait s c) c) c y.ctx) c y.shadow
  let y := getCore s c
  setCore s c { y with ctx := {}, shadow := {}, mprog := 0, lastKernel := none, hoor := 0, hoork := 0, hoorCycle := {}, parkReq := none, spilling := none,
                       tracker := (y.tracker.filter fun t => t.acc.isSome).map (fun t => { t with ranges := [] }) ++ leftStores y.ctx ++ leftStores y.shadow }

/-- Take the third-level trap: the crash record, the core's reset, and the halt line. -/
def thirdTrap (cause : BitVec 8) (imm : BitVec 20) (s : State) : Res :=
  let (c, sq) := s.cur
  match partOfCore s c with
  | none => .next (coreReset s c)
  | some p =>
    let serial := serialOfCore s c
    let x := getPart s p
    let stopNow (t : State) (noRec : Bool) : State :=
      let t := setPirq (raiseHalt (coreReset t c) p causeThird c (unitOfSeq sq) serial false false) p 0
      if noRec then setPart t p { getPart t p with halt := { (getPart t p).halt with norec := true } } else t
    if x.stopbase = 0 then .next (stopNow s true)
    else
      match engineWrite s (dieOfCore c) p (x.stopbase.toNat + 0xA0000 + 192 * c + 64 * unitOfSeq sq) (crashRecord s c sq cause imm) (curTlb s) with
      | .wait t => .next (setCurSeq t { curSeq t with wait := .page })
      | .stop t _ _ => .next (stopNow t true)
      | .ok t => .next (stopNow t false)

/-! ## TRAP, BRK and RTE (R414, R415, R423) -/

/-- Enter a trap with a cause and an immediate: X's results have landed first. -/
def takeTrap (cause : BitVec 8) (imm : BitVec 20) (s : State) : Res :=
  let s := if s.cur.2 = .X then setCurCtx s (landAll (curCtx s)) else s
  if (curSeq s).tlevel = 2 ∨ (curSeq s).tlevel = 3 then thirdTrap cause imm s
  else .next (petWatchdog (setCurSeq s (issued (trapEntry (curSeq s) cause imm) 1)))

def execTrap (imm : BitVec 20) (s : State) : Res := takeTrap causeTrap imm s

/-- A debugger is attached to a partition (R422). -/
def debugAttached (s : State) (p : Nat) : Bool := s.mgmt.dbg.attach && s.mgmt.dbg.part.toNat == p && (getPart s p).dbgok

/-- BRK: a debug halt with PC at its own address when a debugger is attached, otherwise a trap. -/
def execBrk (imm : BitVec 20) (s : State) : Res :=
  let p := curPart s
  if debugAttached s p then
    let q := curSeq s
    let info : StopInfo := { cause := causeBrk, eaddr := 0, fpc := q.pc.setWidth 16, parcels := parcelsAt q q.pc.toNat, imprecise := false }
    let t := setCurSeq s { q with origin := some info, halted := true, haltedAt := s.cycle, wait := .none }
    .next (raiseHalt t p causeBrk s.cur.1 (unitOfSeq s.cur.2) (serialOfCore s s.cur.1) true true)
  else takeTrap causeBrk imm s

/-- RTE (R415). -/
def execRte (s : State) : Res :=
  if (curSeq s).tlevel = 0 then illegal s
  else .next (petWatchdog (setCurSeq s (issued (trapReturn (curSeq s)) 1)))

/-! ## TLBI and TLBS (R383, R385, R386) -/

/-- Entries that an invalidation of an address space names: those that cover an address, or all. Entries of the export map belong to none. -/
def tlbNames (asid : BitVec 16) (va : Option Nat) (t : TlbEntry) : Bool :=
  t.owner != .exportMap && t.asid == asid && match va with
    | some a => a / 2 ^ t.size == t.page
    | none => true

/-- A piece of an access was translated by an entry that an invalidation names: it lies in the page at the address, or in what a named entry covers; all
pieces where the whole address space goes. An entry may have left its cache while the access is still in flight. -/
def pieceUses (va : Option Nat) (es : List TlbEntry) (p : Piece) : Bool :=
  match p.loc with
  | .dram .. | .remote .. => match va with
    | some a => p.addr / 65536 == a / 65536 || es.any fun t => p.addr / 2 ^ t.size == t.page
    | none => true
  | _ => false

/-- An access of S is still on its way: not performed, or not applied by every die (R296). -/
def stillGoing (s : State) (a : SAccess) : Bool := !a.performed || !coveredPkg s a.stamps

/-- An access in flight of a context went through one of the entries. -/
def ctxUses (s : State) (x : Ctx) (uses : Piece → Bool) : Bool :=
  (x.lacc ++ x.feWait.toList).any (fun a => a.pieces.any uses) || x.sacc.any fun a => stillGoing s a && a.pieces.any uses

/-- A write through a page that one of the entries maps has not reached every die. -/
def updatesThrough (s : State) (es : List TlbEntry) : Bool :=
  (List.range 4).any fun d => (getDie s d).inbox.any fun u => u.cells.any fun c => es.any fun t =>
    bitOf t.leaf.toNat 4 && fieldOf t.leaf 16 36 * 65536 ≤ c.1 && c.1 < fieldOf t.leaf 16 36 * 65536 + 2 ^ t.size

/-- The entries that caches hold, or held while accesses through them were still going, among those that an invalidation names. -/
def namedEntries (s : State) (f : TlbEntry → Bool) : List TlbEntry := (s.tlb ++ s.tlbGone).filter f

/-- An access in flight of a partition went through an entry that an invalidation names (R296, R302, R383). -/
def accessUses (s : State) (p : Nat) (va : Option Nat) (es : List TlbEntry) : Bool :=
  updatesThrough s es || (coresOf s p).any fun c =>
    (contextsOf s c).any (fun x => ctxUses s x (pieceUses va es)) || (getCore s c).tracker.any fun t => match t.acc with
      | some a => stillGoing s a && a.pieces.any (pieceUses va es)
      | none => false

/-- Earlier accesses of the executing sequencer are visible at .pkg. -/
def ownAccessesSeen (s : State) : Bool :=
  match s.cur.2 with
  | .L => (curCtx s).lacc.isEmpty
  | .X => true
  | .S => allVisible s s.cur.1 .pkg

/-- No cache holds the entries that an invalidation names (R383). -/
def forgetEntries (s : State) (f : TlbEntry → Bool) : State := { s with tlb := s.tlb.filter (!f ·), tlbGone := s.tlbGone.filter (!f ·) }

/-- TLBI (R385): it takes at least 64 cycles. -/
def execTlbi (a b : Reg) (s : State) : Res :=
  let p := curPart s
  let x := getPart s p
  if !x.ktlbi then fault causeProtection 0 s
  else if !ownAccessesSeen s then block .other s
  else
    let va := if fieldOf (rd s b) 0 2 = 0 then some (fieldOf (rd s a) 0 56) else none
    if accessUses s p va (namedEntries s (tlbNames x.asid va)) then block .other s
    else .next (finish 1 64 (forgetEntries s (tlbNames x.asid va)))

/-- TLBS (R386): what a walk of an address gives. -/
def probe (s : State) (d p : Nat) (a : Word) (who : Option Translator) : Except (BitVec 8) Word :=
  if fieldOf a 56 8 ≠ 0 then .ok 2
  else if inAperture a.toNat then .ok 3
  else if fieldOf a 48 8 = 0xFF then .ok 2
  else
    match lookup s d p a.toNat who with
    | .absent => .ok 1
    | .bad => .ok 2
    | .error c => .error c
    | .leaf e n =>
      .ok (BitVec.ofNat 64 (2 ^ 3 * fieldOf e 1 3 + 2 ^ 6 * fieldOf e 5 2 + 2 ^ 8 * fieldOf e 7 3 + 2 ^ 11 * fieldOf e 10 4 +
        2 ^ 15 * (if n = 16 then 0 else if n = 21 then 1 else 2)))

def execTlbs (d a : Reg) (s : State) : Res :=
  match probe s (curDie s) (curPart s) (rd s a) (curTlb s) with
  | .error c => fault c ((rd s a).toNat / 16 * 16) s
  | .ok v => .next (takeFree (finish 1 1 (wrAt (cacheAccess s (curDie s) (curPart s) (fieldOf (rd s a) 0 56) 1 (curTlb s)) d v 1)) 1)

end Sys2Proof.Machine
end

