-- ==== Sys2Proof/Machine/Recovery.lean ====
section
/-! DEFINITION. Recovery (R402 to R413, R422 to R426): what HALTCTL does after a halt, the watchdog, page requests, the debugger, and the loss of a die. -/

namespace Sys2Proof.Machine

/-! ## Resuming (R412, R423) -/

/-- A stopped sequencer runs again: at its stop point, but a BRK that made a debug halt counts as completed without transfer (R423). A WAITC that the
stop interrupted is complete: no wait of its own remains (R106); the other bounds on the next issue do (R67, R82). -/
def resumeSeq (q : SeqState) : SeqState :=
  let brk := match q.origin with
    | some i => i.cause == causeBrk
    | none => false
  let q := if brk then fallThrough q q.pc.toNat 1 else q
  { q with halted := false, origin := none, wait := .none, pageTag := none, pageFail := false, clock := q.clock - q.waitc, waitc := 0 }

/-- A halted context runs again. -/
def resumeHalted (x : Ctx) : Ctx :=
  { x with seqL := resumeSeq x.seqL, seqX := resumeSeq x.seqX, seqS := resumeSeq x.seqS, mHalted := false, rHalted := false,
           engStop := [], wdog := 0, nestRun := if x.mHalted then x.nestRun.map resumeNest else x.nestRun,
           rjobs := if x.rHalted then x.rjobs.map resumeJob else x.rjobs }

/-- The die-level units of a partition run again; a job that a fault has stopped is over. -/
def resumeUnits (s : State) (p : Nat) : State :=
  let s := (clustersOf s p).foldl (fun s cl =>
    let x := getCluster s cl
    setCluster s cl { x with halted := false, stopInfo := none, card := if x.stopInfo.isSome then none else x.card,
                             waiters := if x.stopInfo.isSome then x.waiters.filter (fun w => w.agent != .card) else x.waiters }) s
  (diesOf s p).foldl (fun s d =>
    let s := setLamp s d p { getLamp s d p with halted := false, stopInfo := none }
    let w := getWalker s d p
    let s := setWalker s d p { w with halted := false, jobs := w.jobs.map fun j => { j with stopped := none } }
    let s := setGath s d p { getGath s d p with halted := false }
    let y := getDie s d
    setDie s d { y with bmvHalted := y.bmvHalted.filter (· != p),
                        bmv := y.bmv.filter fun j => j.owner.part != p || j.stopped.isNone }) s

/-- The halt of a partition is over. -/
def clearHalt (s : State) (p : Nat) : State :=
  let x := getPart s p
  setPart s p { x with halt := { x.halt with raised := false, halted := false, debug := false }, failedPages := [] }

/-- Every halted context of a partition resumes at its stop points, and the engines resume (R407, R412). -/
def resumePart (s : State) (p : Nat) : State :=
  clearHalt (resumeUnits ((coresOf s p).foldl (fun s c => setCtx s c (resumeHalted (getCtx s c))) s) p) p

/-- HALTCTL acts while HALTED = 1 and DEBUG = 0 (R412), but not during a reset (R378). -/
def haltctlActs (s : State) (p : Nat) : Bool := (getPart s p).halt.halted && !(getPart s p).halt.debug && (getPart s p).reset == .idle

/-- HALTCTL_RESUME (R412). -/
def execHaltctlResume (part : Nat) (s : State) : Res :=
  if haltctlActs s part && (getPart s part).halt.resumable then .next (resumePart s part) else .next s

/-! ## Abandoning (R412) -/

/-- A context without its cell and its jobs; what S has had performed stays to be seen. -/
def emptyCtx (x : Ctx) : Ctx :=
  { clearCell x with lacc := [], feWait := none, joinWait := none, sacc := x.sacc.filter (·.performed), nestRun := none, nestPend := none, rjobs := [],
                     mwait := 0, writing := [], raced := [], engStop := [] }

/-- A context runs a cell of a kernel. -/
def ofKernel (p serial : Nat) (x : Ctx) : Bool := match x.cell with
  | some e => e.part == p && e.serial == serial
  | none => false

/-- The ordinal of a context's cell, ended without passing SMS. -/
def endOrdinal (s : State) (x : Ctx) : State := match x.cell with
  | some e => updKernel (dropReservation s e.gangBase e.gangSize e.part e.serial e.place) e.part e.serial (recordEnd e.ordinal)
  | none => s

/-- A core without the shadow and parked contexts of a kernel: their handle slots are released, and what their S parts have issued is performed. -/
def discardAway (p serial : Nat) (s : State) (c : Nat) : State :=
  let y := getCore s c
  let gone := (y.shadow :: y.parked.map fun k => k.2.ctx).filter (ofKernel p serial)
  let s := gone.foldl (fun s x => retireSlotsOf s c p serial x) s
  let y := getCore s c
  let hit := ofKernel p serial y.shadow
  setCore s c { y with shadow := if hit then {} else y.shadow, spilling := if hit then none else y.spilling,
                       parked := y.parked.filter fun k => !ofKernel p serial k.2.ctx, tracker := y.tracker ++ gone.flatMap leftStores }

/-- Discard every context of a kernel on a core: active, in the shadow, parked. -/
def discardOn (p serial : Nat) (s : State) (c : Nat) : State :=
  let s := (contextsOf s c).foldl (fun s x => if ofKernel p serial x then endOrdinal s x else s) s
  let s := if ofKernel p serial (getCtx s c) then
      let t := retireSlots (leaveWaiters (leaveWait s c) (clusterOfCore c) (.nest c)) c p serial
      setCore t c { getCore t c with ctx := emptyCtx (getCtx t c), parkReq := none }
    else s
  let s := discardAway p serial s c
  let y := getCore s c
  let own := match y.range with
    | some (q, n, _, _) => q == p && n == serial
    | none => false
  setCore s c { y with tracker := y.tracker.filter (fun t => t.serial != serial || t.ticket.isNone), range := if own then none else y.range }

/-- A job belongs to a kernel, or to any kernel of the partition. -/
def jobOf (p : Nat) (serial : Option Nat) (o : Owner) : Bool := o.part == p && match serial with
  | some n => o.serial == n
  | none => true

/-- A cluster without the running card of such jobs. -/
def endClusterJobs (mine : Owner → Bool) (x : Cluster) : Cluster := match x.card with
  | some c => if mine c.owner then { x with card := none, stopInfo := none, waiters := x.waiters.filter fun w => w.agent != .card } else x
  | none => x

/-- A Lamplighter context without such itineraries. -/
def endLampJobs (mine : Owner → Bool) (l : Lamp) : Lamp :=
  { l with waiting := l.waiting.filter (fun w => !mine w.1)
           running := match l.running with
             | some it => if mine it.owner then none else some it
             | none => none }

/-- A die without such jobs. -/
def endDieJobs (mine : Owner → Bool) (y : Die) : Die :=
  { y with cards := y.cards.map (fun (n, l) => (n, l.filter fun c => !mine c.owner))
           bmv := y.bmv.filter (fun j => !mine j.owner)
           lamps := y.lamps.map (fun (n, l) => (n, endLampJobs mine l))
           walkers := y.walkers.map (fun (n, w) => (n, { w with jobs := w.jobs.filter fun j => !mine j.owner })) }

/-- End the jobs of a kernel, or of a partition, as step 4 of R378 does. -/
def endJobs (s : State) (p : Nat) (serial : Option Nat) : State :=
  let mine := jobOf p serial
  let s := (List.range 36).foldl (fun s n => match (getCluster s n).card with
    | some c => if mine c.owner then settleCard s n else s
    | none => s) s
  let jobs := (List.range 4).flatMap fun d => (getWalker s d p).jobs.filter fun j => mine j.owner
  jobs.foldl endColl { s with clusters := s.clusters.map (fun (n, x) => (n, endClusterJobs mine x)),
                                   dies := s.dies.map (fun (d, y) => (d, endDieJobs mine y)) }

/-- Release every reservation of a kernel. -/
def dropReservations (s : State) (p serial : Nat) : State :=
  { s with clusters := s.clusters.map fun (n, x) => (n, { x with reserved := x.reserved.filter fun r => r.part != p || r.serial != serial }) }

/-- HALTCTL_ABANDON (R412, R333): the kernel that owns the first origin ends with ERR 5. -/
def execHaltctlAbandon (part : Nat) (s : State) : Res :=
  if !haltctlActs s part then .next s
  else
    let serial := (getPart s part).halt.serial
    let t := (coresOf s part).foldl (discardOn part serial) s
    -- no cell of the kernel has a context left, one whose core was reset included (R417)
    let t := dropReservations (endJobs t part (some serial)) part serial
    .next (resumePart (updKernel t part serial fun k => { k with failed := some 5, ended := k.started }) part)

/-! ## Parking all (R412, R419) -/

/-- Park a halted core's context, when a slot is free; while the shadow still spills, the flip comes after it. -/
def parkNow (s : State) (c : Nat) : State :=
  if canPark s c then
    match execShadowFlip c (askPark s c 0) with
    | .next t => t
    | .fault _ | .refused _ => s
  else s

/-- HALTCTL_PARK_ALL (R412): the flips happen within one bound of 1,050 cycles; contexts without a free slot stay halted, and the die-level units go on. -/
def execHaltctlParkAll (part : Nat) (s : State) : Res :=
  if !haltctlActs s part then .next s
  else
    let t := (coresOf s part).foldl parkNow s
    let rest := (coresOf t part).any fun c => (getCtx t c).cell.isSome && (getCore t c).parkReq.isNone
    let u := clearHalt (resumeUnits t part) part
    let x := getPart u part
    .next { setPart u part { x with halt := { x.halt with halted := rest } } with cycle := s.cycle + 48 }

/-! ## The watchdog (R404) -/

/-- A sequencer counts for the watchdog: it has no part of a cell to run, has ended, is held back by HOLDLS (R322), or waits on something that is
neither a page nor a time. -/
def stuckSeq (x : Ctx) (sq : Seq) : Bool :=
  let q := ctxSeq x sq
  q.run != .running || heldBack x sq || (q.wait != .none && q.wait != .page && q.wakeAt.isNone)

/-- A die-level job of a context that is not complete: a card, a BMV job, an itinerary, a collective (R404). -/
def openJob (s : State) (core : Nat) (e : CellInfo) : Bool :=
  let d := dieOfCore core
  let x := getCtx s core
  let mine (o : Owner) : Bool := o.core == core && o.serial == e.serial && o.part == e.part
  let l := getLamp s d e.part
  !(ctxCards s d x).isEmpty || !(ctxBmv s d x).isEmpty || (getWalker s d e.part).jobs.any (fun j => mine j.owner) ||
  l.waiting.any (fun w => mine w.1) || match l.running with
    | some it => mine it.owner
    | none => false

/-- A job of a context may wait on page not present: it is open while a request of its partition has no answer (R403, R404). -/
def jobOnPage (s : State) (core : Nat) (e : CellInfo) : Bool :=
  openJob s core e && s.mgmt.prq.any fun r => r.part == e.part && !r.cancel

/-- A cycle counts for the watchdog of a core's context: the watchdog is on, the context runs, every sequencer of it is stuck, and no job of it waits on a page
(R404; log entry 81). -/
def watchCounts (s : State) (core : Nat) : Bool :=
  let x := getCtx s core
  match x.cell with
  | none => false
  | some e =>
    let p := getPart s e.part
    let seqs := [x.seqL, x.seqX, x.seqS]
    p.wdog != 0 && !p.halt.raised && p.reset == .idle && seqs.any (·.run == .running) && !seqs.any (·.halted) && [Seq.L, .X, .S].all (stuckSeq x) &&
      !jobOnPage s core e

/-- The count at which a context's watchdog raises its fault. -/
def watchLimit (s : State) (core : Nat) : Nat := match (getCtx s core).cell with
  | some e => 1024 * (getPart s e.part).wdog.toNat
  | none => 0

/-- The watchdog's fault, in the cycle at which its count reached the limit (R404): the origin is X, at its stop point. -/
def watchFault (s : State) (core : Nat) : State :=
  let x := getCtx s core
  match x.cell with
  | none => s
  | some e =>
    let at' := s.cycle - (x.wdog - watchLimit s core)
    let info : StopInfo := { cause := causeWatchdog, eaddr := 0, fpc := x.seqX.pc.setWidth 16, parcels := parcelsAt x.seqX x.seqX.pc.toNat,
                             imprecise := false }
    let t := setSeq { s with cycle := at' } core .X { x.seqX with origin := some info, halted := true, haltedAt := at' }
    { setPirq (raiseHalt t e.part causeWatchdog core 1 e.serial true false) e.part 0 with cycle := s.cycle }

/-- WATCHDOG_EXPIRE (R404): no sequencer of the context has issued and no job of it has progressed for WDOG.CYC × 1,024 cycles. -/
def execWatchdogExpire (core : Nat) (s : State) : Res :=
  if watchCounts s core && watchLimit s core ≤ (getCtx s core).wdog then .next (watchFault s core) else .next s

/-- The cycles that a turn took count for a core's watchdog where they count before and after it; at the limit its fault is raised (R404). -/
def watchCore (before : State) (t : State) (core : Nat) : State :=
  if before.cycle < t.cycle && watchCounts before core && watchCounts t core then
    let x := getCtx t core
    let u := setCtx t core { x with wdog := x.wdog + (t.cycle - max before.cycle x.wdogAt) }
    if watchLimit u core ≤ (getCtx u core).wdog then watchFault u core else u
  else t

/-- The watchdogs of all cores after a turn (R404). -/
def watch (before t : State) : State := if before.cycle < t.cycle then (t.cores.map (·.1)).foldl (watchCore before) t else t

/-! ## Page requests (R403) -/

/-- The value of PRQHEAD for an entry. -/
def prqValue (r : PageRequest) : Word :=
  BitVec.ofNat 64 (1 + r.part * 2 + r.access.toNat * 2 ^ 4 + r.tag * 2 ^ 6 + if r.cancel then 2 ^ 14 else 0)

/-- PRQ_POP: a read of PRQHEAD takes the oldest entry and latches its page. -/
def execPrqPop (s : State) : Res :=
  let m := s.mgmt
  match m.prq.findIdx? fun r => !r.popped with
  | none => .next { s with mgmt := { m with prqhead := 0 } }
  | some i =>
    match m.prq[i]? with
    | none => .next s
    | some r =>
      .next { s with mgmt := { m with prqhead := prqValue r, prqva := BitVec.ofNat 56 (r.page * 65536),
                                      prq := if r.cancel then dropAt m.prq i else changeAt m.prq i fun r => { r with popped := true } } }

/-- A sequencer that waits on a tag walks again, or has its stall turned into the translation fault; a halted one walks again when it runs (R413). -/
def answerSeq (tag : Nat) (fail : Bool) (q : SeqState) : SeqState :=
  if q.pageTag = some tag then { q with pageTag := none, pageFail := fail && !q.halted, wait := .none } else q

/-- Every context of a core hears of an answer. -/
def answerCtx (tag : Nat) (fail : Bool) (x : Ctx) : Ctx :=
  { x with seqL := answerSeq tag fail x.seqL, seqX := answerSeq tag fail x.seqX, seqS := answerSeq tag fail x.seqS }

/-- PRQ_ACK (R403): the tag is freed. -/
def execPrqAck (tag : BitVec 8) (fail : Bool) (s : State) : Res :=
  let n := tag.toNat
  match s.mgmt.prq.find? fun r => r.tag == n && !r.cancel with
  | none => .next s
  | some r =>
    let s := { s with mgmt := { s.mgmt with prq := s.mgmt.prq.filter fun r => r.cancel || r.tag != n },
                      cores := s.cores.map fun (c, y) => (c, { y with ctx := answerCtx n fail y.ctx }) }
    if fail then
      let x := getPart s r.part
      .next (setPart s r.part { x with failedPages := r.waiters.map (fun w => (r.page, w)) ++ x.failedPages })
    else .next s

/-! ## The debugger (R422 to R424) -/

/-- The partition that the debug block names, while its owner allows debug and no reset of it runs (R378, R422). -/
def debugPart (s : State) : Option Nat :=
  let p := s.mgmt.dbg.part.toNat
  if (getPart s p).dbgok && (getPart s p).reset == .idle then some p else none

/-- Change the debug block. -/
def updDbg (s : State) (f : DebugBlock → DebugBlock) : State := { s with mgmt := { s.mgmt with dbg := f s.mgmt.dbg } }

/-- The sequencer that STEP names. -/
def dbgSeq (b : DebugBlock) : Seq := if b.seq = 0 then .L else if b.seq = 1 then .X else .S

/-- The stepped sequencer issues nothing more. -/
def haltStepped (s : State) (c : Nat) (q : Seq) : State := setSeq s c q { getSeq s c q with halted := true, haltedAt := s.cycle }

/-- Stop a step that has not finished: a stepped sequencer that is blocked leaves its wait and halts again. -/
def cancelStep (s : State) : State :=
  let b := s.mgmt.dbg
  if !b.stepping then s
  else
    let q := getSeq s b.stepCore b.stepSeq
    let t := if q.halted then s else haltStepped (stopUnit s b.part.toNat (.seq b.stepCore b.stepSeq)) b.stepCore b.stepSeq
    updDbg t fun b => { b with stepping := false, stepFault := q.origin.isSome }

/-- DEBUG_HALT (R423). -/
def execDebugHalt (s : State) : Res :=
  match debugPart s with
  | none => .next s
  | some p => .next (raiseHalt (cancelStep s) p causeDebug s.mgmt.dbg.core.toNat 0 0 true true)

/-- DEBUG_RESUME (R423): the held flits are written out in arrival order, then the contexts resume. -/
def execDebugResume (s : State) : Res :=
  match debugPart s with
  | none => .next s
  | some p =>
    let x := getPart s p
    if !x.halt.halted || !x.halt.debug then .next s
    else
      let t := cancelStep s
      let t := { t with agenda := x.held.map .event ++ t.agenda }
      .next (resumePart (setPart t p { getPart t p with held := [] }) p)

/-- A core of the debugged partition, halted by the debugger. -/
def debugCore (s : State) : Option (Nat × Nat) :=
  match debugPart s with
  | none => none
  | some p =>
    let c := s.mgmt.dbg.core.toNat
    if (getPart s p).halt.halted && (getPart s p).halt.debug && partOfCore s c == some p then some (p, c) else none

/-- DEBUG_STEP (R424): the named sequencer runs until it has issued one instruction; what ends the step is its turn (endStep) and the landing of its results
(finishStep). While a step has not finished, nothing happens (log entry 80). -/
def execDebugStep (s : State) : Res :=
  match debugCore s with
  | none => .next s
  | some (_, c) =>
    let q := dbgSeq s.mgmt.dbg
    let v := getSeq s c q
    if v.run != .running || s.mgmt.dbg.stepping then .next s
    else
      let t := setSeq s c q { resumeSeq v with halted := false }
      .next { updDbg t fun b => { b with stepping := true, stepFault := false, stepCore := c, stepSeq := q } with agenda := .seq c q :: t.agenda }

/-- A stepped sequencer has issued and halted again: the step ends once the instruction's results have landed, or with a fault, whose record is then
written; page not present makes the record wait (R403, R424). -/
def finishStep (s : State) : State :=
  let b := s.mgmt.dbg
  let x := getCtx s b.stepCore
  let q := ctxSeq x b.stepSeq
  if !b.stepping || !q.halted || !(q.origin.isSome || issuedDone x) then s
  else
    let t := updDbg (setCtx s b.stepCore (landAll x)) fun b => { b with stepping := false, stepFault := q.origin.isSome }
    if q.origin.isNone then t
    else
      match writeRecord t b.part.toNat (.seq b.stepCore b.stepSeq) with
      | .ok u => u
      | .wait u => updDbg u fun _ => b
      | .stop u _ _ => noRecord u b.part.toNat

/-- After a turn of a stepped sequencer: once its instruction has issued, or has met a fault, the sequencer halts again. -/
def endStep (s : State) (c : Nat) (sq : Seq) : State :=
  let b := s.mgmt.dbg
  let q := getSeq s c sq
  if !b.stepping || b.stepCore ≠ c || b.stepSeq ≠ sq || (q.wait != .none && q.origin.isNone) then s else finishStep (haltStepped s c sq)

/-- Run an event of an engine of a halted partition as if it were not halted. A fault that arises is recorded as at a halt, and DBGST.FAULT shows it; while
the record's page is not present, the step is tried again later (R403, R424). -/
def unhalted (s : State) (p : Nat) (u : HaltUnit) (f : State → Res) : State :=
  let h := (getPart s p).halt
  let lift (s : State) (v : Bool) : State := setPart s p { getPart s p with halt := { (getPart s p).halt with raised := v } }
  match f (lift (updDbg s fun b => { b with stepFault := false }) false) with
  | .next t =>
    let now := (getPart t p).halt
    let t := setPart t p { getPart t p with halt := { h with norec := h.norec || now.norec } }
    if !now.raised then t
    else
      match writeRecord (updDbg t fun b => { b with stepFault := true }) p u with
      | .ok v => v
      | .stop v _ _ => noRecord v p
      | .wait v => { s with mgmt := { v.mgmt with dbg := s.mgmt.dbg }, agenda := s.agenda ++ [.event .debugEngineStep] }
  | .fault _ | .refused _ => s

/-- The matrix engine of a core takes one beat, starting its job first if it must. -/
def stepMatrix (c : Nat) (s : State) : Res :=
  let run (f : Nat → State → Res) (s : State) : State := match f c s with
    | .next t => t
    | .fault _ | .refused _ => s
  let t := setCtx s c { getCtx s c with mHalted := false }
  let t := run execBeatLand (run execShardLatchReady (run execShardLatchReady (run execNestJobStart t)))
  .next (setCtx t c { getCtx t c with mHalted := true })

/-- The resolver of a core takes one row, starting its job first if it must. -/
def stepResolver (c : Nat) (s : State) : Res :=
  let run (f : Nat → State → Res) (s : State) : State := match f c s with
    | .next t => t
    | .fault _ | .refused _ => s
  let t := run execResolverJobComplete (run execResolverJobStart (setCtx s c { getCtx s c with rHalted := false }))
  .next (setCtx t c { getCtx t c with rHalted := true })

/-- The copy engine of a core's cluster takes one chunk. -/
def stepCopy (p c : Nat) (s : State) : Res :=
  let n := clusterOfCore c
  let s := setCluster s n { getCluster s n with halted := false }
  let t := match execCopyCardStart (dieOfCore c) p s with
    | .next t => t
    | .fault _ | .refused _ => s
  match execCopyCardComplete n t with
  | .next u => .next (setCluster u n { getCluster u n with halted := true })
  | r => r

/-- The Lamplighter context issues its next entry. -/
def stepLamp (p d : Nat) (s : State) : Res :=
  let s := setLamp s d p { getLamp s d p with halted := false }
  let t := match execItineraryStart d p s with
    | .next t => t
    | .fault _ | .refused _ => s
  match execItineraryEntryIssue d p t with
  | .next u => .next (setLamp u d p { getLamp u d p with halted := true })
  | r => r

/-- The walker emits one block. -/
def stepWalker (p d : Nat) (s : State) : Res :=
  match execBlockEmit d p (setWalker s d p { getWalker s d p with halted := false }) with
  | .next u => .next (setWalker u d p { getWalker u d p with halted := true })
  | r => r

/-- The BMV front end computes one row of a core's oldest job. -/
def stepBmv (p d c : Nat) (s : State) : Res :=
  match execBmvJobComplete c (setDie s d { getDie s d with bmvHalted := (getDie s d).bmvHalted.filter (· != p) }) with
  | .next u => .next (setDie u d { getDie u d with bmvHalted := p :: (getDie u d).bmvHalted })
  | r => r

/-- DEBUG_ENGINE_STEP (R424): the named engine advances by one unit. -/
def execDebugEngineStep (s : State) : Res :=
  match debugCore s with
  | none => .next s
  | some (p, c) =>
    let d := dieOfCore c
    .next (match s.mgmt.dbg.eng.toNat with
      | 0 => unhalted s p (.matrix c) (stepMatrix c)
      | 1 => unhalted s p (.resolver c) (stepResolver c)
      | 2 => unhalted s p (.copy (clusterOfCore c)) (stepCopy p c)
      | 3 => unhalted s p (.lamp d) (stepLamp p d)
      | 4 => unhalted s p (.walker d) (stepWalker p d)
      | 5 => unhalted s p (.bmv d) (stepBmv p d c)
      | _ => s)

/-- DEBUG_ATTACH (R422): attaching needs the owner's consent. -/
def execDebugAttach (attach : Bool) (s : State) : Res :=
  if attach && (debugPart s).isNone then .next s else .next (updDbg s fun b => { b with attach := attach })

/-- PDBG_WRITE (R374, R422), ignored during a reset (R378): with DBGOK cleared, a debugger that is attached is detached and the partition resumes. -/
def execPdbgWrite (part : Nat) (ok : Bool) (s : State) : Res :=
  let t := setPart s part { getPart s part with dbgok := ok }
  if !partLive s part then .next s
  else if !ok then
    -- the partition may have been halted before DBGCTL.PART came to name another one
    let t := if s.mgmt.dbg.part.toNat = part then updDbg (cancelStep t) fun b => { b with attach := false } else t
    let x := getPart t part
    .next (if x.halt.raised && x.halt.debug then
        resumePart (setPart { t with agenda := x.held.map .event ++ t.agenda } part { x with held := [] }) part
      else t)
  else .next t

/-! ## Debug spaces (R422) -/

/-- Fields of DBGSEL. -/
def selSpace (v : Word) : Nat := fieldOf v 0 4
def selCore (v : Word) : Nat := fieldOf v 4 10
def selSeq (v : Word) : Seq := if fieldOf v 14 2 = 0 then .L else if fieldOf v 14 2 = 1 then .X else .S
def selOff (v : Word) : Nat := fieldOf v 16 20

/-- The context that DBGSEL reaches: of a core of the debugged partition. -/
def selCtx (s : State) : Option Nat :=
  match debugPart s with
  | none => none
  | some p => let c := selCore s.mgmt.dbg.sel; if partOfCore s c == some p then some c else none

/-- The queue, slot and byte of an offset in the queue-slot space: q0 to q7, then w0 to w3, 16 slots of 272 bytes each (R420). -/
def slotOf (off : Nat) : Nat × Nat × Nat := (off / 4352, off / 272 % 16, off % 272)

/-- The entry that a queue's slot holds. -/
def entryAt (q : Queue) (slot : Nat) : Option (Nat × QEntry) :=
  let i := (slot + 16 - q.head.toNat) % 16
  (q.entries[i]?).map fun e => (i, e)

/-- Change 8 bytes of a queue entry. -/
def patchEntry (e : QEntry) (byte : Nat) (v : Word) : QEntry :=
  if byte < 256 then { e with data := (e.data &&& ~~~ BitVec.ofNat 2048 (0xFFFFFFFFFFFFFFFF <<< (8 * byte))) ||| BitVec.ofNat 2048 (v.toNat <<< (8 * byte)) }
  else if byte < 264 then { e with mask := v }
  else { e with eos := bitOf v.toNat 0 }

/-- Queue n of the 12 queues. -/
def queueAt (x : Ctx) (n : Nat) : Queue := if n < 8 then getQ x n else getW x (n - 8)

/-- A context with 8 bytes of a debug space written. -/
def debugPatch (now : Nat) (x : Ctx) (sel v : Word) : Ctx :=
  let off := selOff sel / 8 * 8
  match selSpace sel with
  | 0 => putGranule x (off / 16) (byteMask (off % 16) 8) (BitVec.ofNat 128 (v.toNat <<< (8 * (off % 16))))
  | 1 => if off / 8 < 32 then setCtxSeq x (selSeq sel) (withReg (ctxSeq x (selSeq sel)) (BitVec.ofNat 5 (off / 8)) v) else x
  | 2 => match sysReg (off / 8) with
    | some r => if writableBy (selSeq sel) r then sysWrite now x (selSeq sel) v r else x
    | none => x
  | 3 =>
    let (n, slot, byte) := slotOf off
    if 12 ≤ n then x
    else
      match entryAt (queueAt x n) slot with
      | none => x
      | some (i, e) =>
        let q := queueAt x n
        let q := { q with entries := q.entries.set i (patchEntry e byte v) }
        if n < 8 then { x with q := tput x.q n q } else { x with w := tput x.w (n - 8) q }
  | 4 =>
    if off < 64 then (if off = 0 then x else { x with k := tput x.k (off / 8) v })
    else if off < 128 then
      let b := off - 64
      { x with flags := (x.flags &&& ~~~ BitVec.ofNat 512 (0xFFFFFFFFFFFFFFFF <<< (8 * b))) ||| BitVec.ofNat 512 (v.toNat <<< (8 * b)) }
    else x
  | _ => x

/-- The 8 bytes that DBGDATA shows; an empty queue slot and an offset with no register read as zero. -/
def debugPeek (s : State) (c : Nat) (sel : Word) : Word :=
  let x := getCtx s c
  let off := selOff sel / 8 * 8
  match selSpace sel with
  | 0 => BitVec.ofNat 64 ((storeGranule x (off / 16)).toNat >>> (8 * (off % 16)))
  | 1 => if off / 8 < 32 then regOf (ctxSeq x (selSeq sel)) (BitVec.ofNat 5 (off / 8)) else 0
  | 2 => match sysReg (off / 8) with
    | some r => if readableBy (selSeq sel) r then sysRead s x c (selSeq sel) r else 0
    | none => 0
  | 3 =>
    let (n, slot, byte) := slotOf off
    match entryAt (queueAt x n) slot with
    | some (_, e) => if 12 ≤ n then 0 else if byte < 256 then BitVec.ofNat 64 (e.data.toNat >>> (8 * byte))
      else if byte < 264 then e.mask else if e.eos then 1 else 0
    | none => 0
  | 4 =>
    if off = 0 then BitVec.allOnes 64
    else if off < 64 then tget 0 x.k (off / 8)
    else if off < 128 then BitVec.ofNat 64 (x.flags.toNat >>> (8 * (off - 64)))
    else 0
  | _ => 0

/-- DBGDATA_WRITE (R422): ignored unless the partition is debug-halted. -/
def execDbgdataWrite (data : Word) (s : State) : Res :=
  match selCtx s, debugPart s with
  | some c, some p =>
    if !(getPart s p).halt.halted || !(getPart s p).halt.debug then .next s
    else .next (setCtx s c (debugPatch s.cycle (getCtx s c) s.mgmt.dbg.sel data))
  | _, _ => .next s

/-! ## Losing a die (R425, R426) -/

/-- Package reset (R51, R396): everything is at its reset value but DRAM with its metadata, which no key reaches any more. -/
def packageReset (s : State) (failure : Bool) : State :=
  { State.reset with mem := s.mem, lostWords := s.lostWords, lineTags := s.lineTags, cxl := s.cxl, fabricOut := s.fabricOut, freeCtr := s.freeCtr,
                     agenda := s.agenda, mgmt := { State.reset.mgmt with draws := s.mgmt.draws, failure := failure } }

/-- What is left of a core and of a cluster whose die is lost. -/
def lostCore (y : CoreState) : CoreState :=
  { y with ctx := {}, shadow := {}, tracker := [], parked := [], parkReq := none, spilling := none, range := none, returning := [] }
def lostCluster (x : Cluster) : Cluster := { x with card := none, waiters := [], reservers := [] }

/-- Fence a die: its cores and engines stop without records and its jobs are lost; with D0 the package restarts (R19). -/
def fenceDie (s : State) (d : Nat) : State :=
  if Config.dies ≤ d || (getDie s d).fenced then s
  else if d = 0 then packageReset s true
  else
    let s := ((getDie s d).walkers.flatMap fun (_, w) => w.jobs).foldl cutColl s
    let s := (List.range 36).foldl (fun s n => if dieOfCluster n = d then settleCard s n else s) s
    let y := getDie s d
    let s := setDie s d { y with fenced := true, mig := { y.mig with busy := false }, lamps := [], walkers := [], cards := [], bmv := [], gatherers := [] }
    let s := { s with clusters := s.clusters.map (fun (n, x) => (n, if dieOfCluster n = d then lostCluster x else x)),
                      cores := s.cores.map (fun (c, y) => (c, if dieOfCore c = d then lostCore y else y)) }
    setMirq { s with mgmt := { s.mgmt with mifence := s.mgmt.mifence ||| BitVec.ofNat 4 (2 ^ d) } } 5

/-- DIE_FENCE (R425). -/
def execDieFence (die : Nat) (s : State) : Res := .next (fenceDie s die)

/-- HEARTBEAT_TIMEOUT (R425): a heartbeat has been missing for 16,384 cycles. -/
def execHeartbeatTimeout (die : Nat) (s : State) : Res :=
  if Config.dies ≤ die || (getDie s die).fenced then .next s else .next (fenceDie { s with cycle := s.cycle + 16384 } die)

/-- Ordinals of a kernel whose cells a surviving core still runs, in any of its contexts. -/
def heldOrdinals (s : State) (p serial : Nat) : List Nat :=
  s.cores.flatMap fun (c, _) => (contextsOf s c).filterMap fun x => match x.cell with
    | some e => if e.part = p ∧ e.serial = serial then some e.ordinal else none
    | none => none

/-- A range lay on a lost die, or a core of one owned it (R332). -/
def rangeLost (s : State) (r : RangeTask) : Bool := (getDie s r.die).fenced || match r.owner with
  | some c => (getDie s (dieOfCore c)).fenced
  | none => false

/-- A kernel after its package lost a die (R332, R333): the lost die's ranges go to the survivors unowned, and so do the cells that it had started and not
recorded, whole gangs at a time (log entry 72); all of them start as reissued. A kernel that must not be reissued and had such cells starts no
further cell, and its lost cells are no longer awaited. -/
def reissueKernel (s : State) (p : Nat) (home : Nat) (k : Kernel) : Kernel :=
  let held := heldOrdinals s p k.serial.toNat
  let g := kGang k.record
  let lost := k.started.filter fun o => !k.ended.contains o && !held.contains o
  let moved := k.ranges.filter (rangeLost s)
  let ranges := k.ranges.map fun r => if rangeLost s r then { r with die := if (getDie s r.die).fenced then home else r.die, owner := none } else r
  let k := { k with ranges := ranges, reissued := moved.map (fun r => (r.next, r.hi)) ++ k.reissued, started := k.started.filter fun o => !lost.contains o,
                    passedSms := k.passedSms.filter fun o => !lost.contains o }
  if lost.isEmpty || k.failed.isSome then k
  else if kNoReissue k.record then { k with failed := some 4 }
  else
    let groups := (lost.map fun o => o / g).eraseDups
    { k with ranges := ranges ++ groups.map (fun n => { next := g * n, hi := g * n + g, die := home, owner := none }),
             reissued := groups.map (fun n => (g * n, g * n + g)) ++ k.reissued }

/-- The kernels of a partition after a die was lost. -/
def reissuePart (s : State) (p : Nat) : State :=
  match liveDies s p with
  | [] => s
  | home :: _ =>
    let x := getPart s p
    let t := setPart s p { x with kernels := x.kernels.map (reissueKernel s p home) }
    (List.range 64).foldl (fun t n => beginAging s t p n) t

/-- MASTER_ELECTION (R426, R332): the lowest healthy die becomes master, and every kernel's lost ranges are reissued. -/
def execMasterElection (s : State) : Res :=
  match (List.range 4).find? fun d => !(getDie s d).fenced with
  | none => .next s
  | some m => .next ((List.range 8).foldl reissuePart { s with mgmt := { s.mgmt with master := m } })

/-- POWER_LIMIT_REACHED (R28): idle cycles after a beat; timing only. -/
def execPowerLimitReached (idle : Nat) (s : State) : Res := .next { s with mgmt := { s.mgmt with throttle := idle } }

end Sys2Proof.Machine
end

