-- ==== Sys2Proof/Machine/Isolation.lean ====
section
/-! DEFINITION. Isolation (R368 to R399): configuring, resetting and destroying partitions, consent and the management memory port, invalidation, the key
store, CXL re-keying, token buckets, the host's memory window, remote accesses, boot, attestation and the sideband. -/

namespace Sys2Proof.Machine

/-! ## Configuration (R368) -/

/-- Two numbers of clusters share a cluster. -/
def clustersMeet (a b : BitVec 36) : Bool := (a &&& b) != 0

/-- Setting EN of a partition is refused (R368). -/
def enableRefused (s : State) (p : Nat) (clusters : BitVec 36) : Bool :=
  ((List.range 8).any fun q => q != p && (getPart s q).en && (clustersMeet (getPart s q).clusters clusters || (getPart s q).asid == (getPart s p).asid)) ||
  (List.range 36).any fun c => bitOf clusters.toNat c && !(getCluster s c).scrubbed

/-- Set PCFG.ERR. -/
def refusePcfg (s : State) (p : Nat) : State := setPart s p { getPart s p with err := true }

/-- A partition that EN starts: its integrity key is drawn and its queues, buckets and windows are at their reset values. -/
def enabledPart (x : Partition) (clusters : BitVec 36) (ktlbi : Bool) (integrity : BitVec 256) : Partition :=
  { clusters := clusters, ktlbi := ktlbi, en := true, asid := x.asid, proot := x.proot, keys := x.keys, integrity := integrity,
    transport := x.transport, share := x.share }

/-! ## Partition reset (R378, R379, R249, R350, R358, R403) -/

/-- The running migration of a die changes translations of a partition: page A's, or page B's of a swap. -/
def migrates (m : Migration) (p : Nat) : Bool := m.busy && (m.part == p || (!m.mode && m.partB == p))

/-- The migration of a die ends as R249 states for a partition that is reset: an optimistic copy is cancelled, a swap completes. -/
def resetMigration (p : Nat) (s : State) (d : Nat) : State :=
  let m := (getDie s d).mig
  if migrates m p && m.mode then endMig s d 3 else s

/-- The partition's Lamplighter contexts leave their shared streams (R358). -/
def leaveStreams (s : State) (p : Nat) : State :=
  let sources := (List.range 4).flatMap fun d => (getLamp s d p).groups.filterMap fun (_, m) => if m.source then some m.streamId else none
  let s := sources.foldl endStream s
  (List.range 4).foldl (fun s d => setLamp s d p { getLamp s d p with groups := [] }) s

/-- The partition's page requests: entries not yet popped show CANCEL, and its tags are free (R403). -/
def cancelRequests (s : State) (p : Nat) : State :=
  { s with mgmt := { s.mgmt with prq := (s.mgmt.prq.filter fun r => r.part != p || !r.popped).map fun r => if r.part = p then { r with cancel := true } else r } }

/-- Halt a core's sequencers and engines for good, dropping what an engine has not begun to store. A spill or a park under way is abandoned, and the slots
of the context pool are emptied (R413). -/
def haltCore (s : State) (c : Nat) : State :=
  let s := leaveExpander (leaveWait s c) c
  let stop (q : SeqState) : SeqState := { q with halted := true, wait := .none, pageTag := none }
  let left (x : Ctx) : Ctx := { x with sacc := x.sacc.filter fun a => a.performed || !(isImage a || isToken a) }
  let y := getCore s c
  let x := left y.ctx
  setCore s c { y with ctx := { x with seqL := stop x.seqL, seqX := stop x.seqX, seqS := stop x.seqS, mHalted := true, rHalted := true },
                       shadow := left { y.shadow with cell := none }, parked := [], parkReq := none, spilling := none }

/-- Steps 1 to 4 of R378. -/
def startReset (s : State) (p : Nat) (destroy : Bool) : State :=
  let x := getPart s p
  if !x.en then s
  else if x.reset != .idle then (if destroy then setPart s p { x with reset := .destroying } else s)
  else
    let s := setPart s p { x with reset := if destroy then .destroying else .draining, pirq := 0, consentRd := false, consentWr := false, budget := 0,
                                  held := [] }
    let s := { s with mgmt := { s.mgmt with exports := s.mgmt.exports.filter fun n => n % 8 != p } }
    let s := (coresOf s p).foldl haltCore s
    let s := (List.range 4).foldl (resetMigration p) s
    cancelRequests (leaveStreams (leaveCollectives (endJobs s p none) p) p) p

/-- PARTITION_RESET (R378): PRST.GO. -/
def execPartitionReset (part : Nat) (s : State) : Res := .next (startReset s part false)
/-- PRSTCTL_GO (R378). -/
def execPrstctlGo (part : Nat) (s : State) : Res := .next (startReset s part false)
/-- FUNCTION_LEVEL_RESET (R378). -/
def execFunctionLevelReset (part : Nat) (s : State) : Res := .next (startReset s part false)

/-- The accesses that the partition's agents issued have been performed or dropped, and no swap of it runs (step 5 of R378, R249). A re-keying is one step
here, and an access that waits for one is not performed (R391). -/
def resetDrained (s : State) (p : Nat) : Bool :=
  ((coresOf s p).all fun c => (contextsOf s c).all (fun x => x.lacc.isEmpty && x.feWait.isNone && unperformed x == 0) &&
    (getCore s c).tracker.all fun t => match t.acc with
      | some a => a.performed
      | none => true) &&
  (List.range 4).all fun d => !migrates (getDie s d).mig p

/-- A core at its reset values; its sensor scores are measurements (R315). -/
def cleanCore (y : CoreState) : CoreState := { temp := y.temp, droop := y.droop }

/-- A die without the partition's contexts. -/
def cleanDie (p : Nat) (y : Die) : Die :=
  { y with lamps := tdel y.lamps p, gatherers := tdel y.gatherers p, walkers := tdel y.walkers p, cards := tdel y.cards p,
           bmvHalted := y.bmvHalted.filter (· != p) }

/-- The partition's die contexts and the registers of its window that no core holds are at their reset values (R227, R240, R336, R359). -/
def cleanWindows (s : State) (p : Nat) : State := clearLate ((List.range 4).foldl (fun s d => setDie s d (cleanDie p (getDie s d))) s) p

/-- Step 6 of R378: cores, clusters, die contexts and the device window are at their reset values. -/
def scrubPart (s : State) (p : Nat) (scrubbed : Bool) : State :=
  let s := (coresOf s p).foldl (fun s c => setCore s c (cleanCore (getCore s c))) s
  let s := (clustersOf s p).foldl (fun s c => setCluster s c { scrubbed := scrubbed }) s
  let s := cleanWindows s p
  let x := getPart s p
  let s := setPart s p { clusters := x.clusters, ktlbi := x.ktlbi, err := x.err, en := x.en, asid := x.asid, proot := x.proot, keys := x.keys,
                         integrity := x.integrity, transport := x.transport, share := x.share, buckets := x.buckets }
  if s.mgmt.dbg.part.toNat = p then updDbg s fun b => { b with attach := false, stepping := false } else s

/-- The running invalidation is of one address space: of a page of it, or of all of it. -/
def invOf (m : Management) (asid : BitVec 16) : Bool := m.invBusy && m.invRun.1 < 2 && m.invRun.2.1 == asid

/-- RESET_ACCESS_DRAIN (steps 5 to 7 of R378, R380). -/
def execResetAccessDrain (part : Nat) (s : State) : Res :=
  let x := getPart s part
  if x.reset == .idle || !resetDrained s part then .next s
  else
    let destroy := x.reset == .destroying
    -- an invalidation of the ASID completes with step 5 (R379)
    let s := { forgetEntries s (fun t => t.owner != .exportMap && t.asid == x.asid) with
                      mgmt := if invOf s.mgmt x.asid then { s.mgmt with invBusy := false } else s.mgmt }
    let s := setPirq (scrubPart s part (!destroy)) part 3
    let s := if destroy then setPart s part { getPart s part with en := false, keys := [], integrity := 0 } else s
    .next (setMirq { s with mgmt := { s.mgmt with mirst := s.mgmt.mirst ||| BitVec.ofNat 8 (2 ^ part) } } 4)

/-- A write of PCFG (R368): refused, or accepted with what EN and KTLBI ask for. While a destroy runs EN reads 1, until the drain ends, so that a write with
EN set enables nothing then; R380 does not say what it does (log entry 111: the model's choice). -/
def writePcfg (s : State) (p : Nat) (v : Word) : State :=
  let x := getPart s p
  let clusters : BitVec 36 := v.setWidth 36
  let en := bitOf v.toNat 63
  let kt := bitOf v.toNat 61
  if x.en && clusters != x.clusters then refusePcfg s p
  else if en && !x.en then
    if enableRefused s p clusters then refusePcfg s p
    else { cleanWindows (setPart s p (enabledPart x clusters kt (Config.drawKey s.mgmt.draws))) p with mgmt := { s.mgmt with draws := s.mgmt.draws + 1 } }
  else
    let t := setPart s p { x with clusters := clusters, ktlbi := kt, err := false }
    if x.en && !en then startReset t p true else t

/-- PCFG_WRITE (R368). -/
def execPcfgWrite (part : Nat) (v : Word) (s : State) : Res := if 8 ≤ part then .next s else .next (writePcfg s part v)

/-- The value of PCFG. -/
def pcfgValue (x : Partition) : Word :=
  BitVec.ofNat 64 (x.clusters.toNat + (if x.ktlbi then 2 ^ 61 else 0) + (if x.err then 2 ^ 62 else 0) + if x.en then 2 ^ 63 else 0)

/-- PARTITION_ENABLE (R368): PCFG is written with EN set. -/
def execPartitionEnable (part : Nat) (s : State) : Res :=
  if 8 ≤ part then .next s else .next (writePcfg s part (pcfgValue (getPart s part) ||| BitVec.ofNat 64 (2 ^ 63)))

/-- PARTITION_DESTROY (R380): PCFG is written with EN clear. -/
def execPartitionDestroy (part : Nat) (s : State) : Res :=
  if 8 ≤ part then .next s else .next (writePcfg s part (pcfgValue (getPart s part) &&& BitVec.ofNat 64 (2 ^ 63 - 1)))

/-- CLUSTER_SCRUB_COMPLETE (R38, R380): the scrub of a cluster that no partition owns finishes. -/
def execClusterScrubComplete (cluster : Nat) (s : State) : Res :=
  if 36 ≤ cluster || (partOfCluster s cluster).isSome then .next s
  else
    let s := (List.range 16).foldl (fun s n => setCore s (16 * cluster + n) (cleanCore (getCore s (16 * cluster + n)))) s
    .next (setCluster s cluster { scrubbed := true })

/-! ## Export units (R337, R374, R394) -/

/-- EXPORT_GRANT (R374): EXPGRANT with GRANT = 1; ignored during a reset. -/
def execExportGrant (part unit : Nat) (s : State) : Res :=
  if !partLive s part || 262144 ≤ unit || s.mgmt.exports.contains (8 * unit + part) then .next s
  else .next { s with mgmt := { s.mgmt with exports := (8 * unit + part) :: s.mgmt.exports } }

/-- EXPORT_WITHDRAW (R374). -/
def execExportWithdraw (part unit : Nat) (s : State) : Res :=
  if !partLive s part then .next s
  else .next { s with mgmt := { s.mgmt with exports := s.mgmt.exports.filter (· != 8 * unit + part) } }

/-- The bytes that granules read for the outside give, none where a word is lost or a check fails. -/
def portBytes (ps : List Piece) (gs : List Got) (n : Nat) : Option (List Byte) :=
  if (firstFault ps gs).isSome || (List.range n).any (accessLost ps gs) then none else some ((List.range n).map (accessByte ps gs))

/-- Read bytes for the outside as an agent of a die sees them. -/
def portRead (s : State) (d : Nat) (ps : List Piece) (n : Nat) : Option (List Byte) := portBytes ps (readPieces s d ps 0) n

/-- Write bytes for the outside. -/
def portWrite (s : State) (d : Nat) (ps : List Piece) (data : List Byte) : Option State :=
  match writeAccess s ps (fun i => data.getD i 0) (fun _ => false) .none false (clockVector s d []) with
  | .error _ => none
  | .ok (t, _) => some (takeFree t 32)

/-- The result of an access by the host or by another package. -/
def windowDone (s : State) (r : Option (List Byte)) : State := { s with mgmt := { s.mgmt with windowResult := r } }

/-- Read or write through pieces, as an agent of a die, and show the result. -/
def windowAccess (s : State) (d : Nat) (ps : List Piece) (write : Bool) (data : List Byte) : State :=
  if write then
    match portWrite s d ps data with
    | some t => windowDone t (some data)
    | none => windowDone s none
  else windowDone (takeFree (countReads s ps) 32) (portRead s d ps data.length)

/-- REMOTE_ACCESS (R337, R394): refused, it is the translation fault of the agent in the other package, and nothing is touched here. The receive unit keeps
the entry that it read (R383), and the transfer draws on this partition's buckets: until they have its tokens it does not take place (R376). It reads each location at its home (R339). -/
def execRemoteAccess (exportOff : Nat) (write : Bool) (data : List Byte) (s : State) : Res :=
  match exportTarget s exportOff write with
  | none => .next (windowDone s none)
  | some (p, key, frame) =>
    let ps := physPieces (frame + exportOff % 65536) data.length key p
    let link := fabricBucket p 0
    if debugHeld s p then .next (holdFlit s p (.remoteAccess exportOff write data) none)
    else
      let dm := addDemand (tokensOf s ps) [(link, flitTokens)]
      if !demandReady s dm || (write && writeWaits s ps) then .next (awaitDemand s dm)
      else
        let t := takeBucket (keepExport s (exportOff / 65536)) link flitTokens
        if write then .next (windowAccess t 0 ps true data)
        else .next (windowDone (takeFree (countReads t ps) 32) (portBytes ps (readHomes t 0 ps 0) data.length))

/-! ## The management memory port and the host window (R394, R395) -/

/-- A line as bytes, and bytes as a line. -/
def lineBytes (v : BitVec 512) : List Byte := natBytes v.toNat 64
def bytesLine (l : List Byte) : BitVec 512 := BitVec.ofNat 512 (ofBytes (fun i => l.getD i 0) 64)

/-- MGMT_MEMORY_ACCESS (R394): one line of a consenting partition; an access that proceeds takes one from BUDGET. One whose line is lost or fails its check
has taken it and returns refused, of which R394 says nothing (log entry 112: the model's choice). -/
def execMgmtMemoryAccess (part va : Nat) (write : Bool) (data : BitVec 512) (s : State) : Res :=
  let x := getPart s part
  let a := va / 64 * 64
  let show' (s : State) (r : Option (BitVec 512)) : State := { s with mgmt := { s.mgmt with portResult := some r } }
  let refused := show' s none
  if !partLive s part || !(if write then x.consentWr else x.consentRd) || x.budget = 0 then .next refused
  else
    match resolveVirtual s 0 part a 64 { rd := !write, wr := write } with
    | .error (.busy dm, _) => .next (awaitDemand s dm)
    | .error (_, g) => .next (show' (failedWalk s 0 part g none) none)
    | .ok ps =>
      let dm := engineDemand s 0 part a 64 none ps
      let t := cacheAccess (setPart s part { x with budget := x.budget - 1 }) 0 part a 64
      if !demandReady s dm || (write && writeWaits s ps) then .next (awaitDemand s dm)
      else if write then
        match portWrite t 0 ps (lineBytes data) with
        | some u => .next (show' u (some data))
        | none => .next (show' t none)
      else .next (show' (takeFree (countReads t ps) 32) ((portRead t 0 ps 64).map bytesLine))

/-- Bytes of a partition's BAR 2 window (R395). -/
def hostWindow : Nat := 2 ^ 36

/-- HOST_WINDOW_ACCESS (R395): within the 64 GiB of BAR 2; virtual, like an agent of the partition; physical, writes of frames under slot 0 while no kernel
is resident. The offset in the window is the address (log entry 100). -/
def execHostWindowAccess (part : Nat) (physical : Bool) (addr : Nat) (write : Bool) (data : List Byte) (s : State) : Res :=
  let x := getPart s part
  let failed := windowDone s none
  if !partLive s part || hostWindow < addr + data.length then .next failed
  else if physical then
    let ps := physPieces addr data.length 0 part
    if !write || !x.kernels.isEmpty || (tfind x.keys 0).isNone || !(spans addr data.length).all (fun g => isDram s g.1) then .next failed
    else if !tokensReady s ps || writeWaits s ps then .next (awaitTokens s ps)
    else .next (windowAccess s 0 ps true data)
  else if write then
    match engineWrite s 0 part addr data with
    | .wait t => .next (windowDone t none)
    | .stop t _ _ => .next (windowDone t none)
    | .ok t => .next (windowDone t (some data))
  else
    match engineRead s 0 part addr data.length { rd := true } with
    | .wait t => .next (windowDone t none)
    | .stop t _ _ => .next (windowDone t none)
    | .ok v => .next (windowDone (engineTouch s 0 part addr data.length { rd := true }) (some (natBytes v data.length)))

/-! ## Invalidation (R383, R384) -/

/-- GO of INVCTL: an invalidation of what INVADDR and INVCTL then hold starts, unless one runs. -/
def startInval (s : State) : State :=
  let m := s.mgmt
  if m.invBusy then s else { s with mgmt := { m with invBusy := true, invRun := (m.invKind.toNat, m.invAsid, m.invPage.toNat) } }

/-- INVALIDATE_PAGE (R384): KIND 0. -/
def execInvalidatePage (asid page : Nat) (s : State) : Res :=
  .next (startInval { s with mgmt := { s.mgmt with invKind := 0, invAsid := BitVec.ofNat 16 asid, invPage := BitVec.ofNat 56 (page * 65536) } })
/-- INVALIDATE_ASID (R384): KIND 1; INVADDR keeps its value. -/
def execInvalidateAsid (asid : Nat) (s : State) : Res :=
  .next (startInval { s with mgmt := { s.mgmt with invKind := 1, invAsid := BitVec.ofNat 16 asid } })
/-- INVALIDATE_ALL (R384): KIND 2; what it does not name keeps its value. -/
def execInvalidateAll (s : State) : Res := .next (startInval { s with mgmt := { s.mgmt with invKind := 2 } })
/-- INVALIDATE_EXPORT_UNIT (R384): KIND 3, with the export-window offset of the unit in PAGE. -/
def execInvalidateExportUnit (unit : Nat) (s : State) : Res :=
  .next (startInval { s with mgmt := { s.mgmt with invKind := 3, invPage := BitVec.ofNat 56 (unit * 65536) } })

/-- Entries that an invalidation of a kind, an ASID and a page names. -/
def invNames (k : Nat × BitVec 16 × Nat) (t : TlbEntry) : Bool :=
  match k.1 with
  | 0 => tlbNames k.2.1 (some k.2.2) t
  | 1 => tlbNames k.2.1 none t
  | 2 => t.owner != .exportMap
  | _ => t.owner == .exportMap && t.page == k.2.2 / 65536

/-- A piece of an access of this package lies in a frame to which an entry of the export map leads. -/
def pieceExported (es : List TlbEntry) (p : Piece) : Bool := match p.loc with
  | .dram pa _ _ _ _ => es.any fun t => decide (fieldOf t.leaf 16 36 * 65536 ≤ pa) && decide (pa < fieldOf t.leaf 16 36 * 65536 + 65536)
  | _ => false

/-- An access of a partition of this package may have gone through an entry of the export map (R337, R383). -/
def exportUses (s : State) (p : Nat) (es : List TlbEntry) : Bool :=
  updatesThrough s (es.map fun t => { t with leaf := t.leaf ||| 16, size := 16 }) || (coresOf s p).any fun c =>
    (contextsOf s c).any (fun x => ctxUses s x (pieceExported es)) || (getCore s c).tracker.any fun t => match t.acc with
      | some a => stillGoing s a && a.pieces.any (pieceExported es)
      | none => false

/-- An access of a partition went through an entry that the invalidation names (R383). Each access of another package is one step, so none is under way. -/
def invUsed (s : State) (k : Nat × BitVec 16 × Nat) (p : Nat) : Bool :=
  let named := namedEntries s (invNames k)
  match k.1 with
  | 0 => (getPart s p).asid == k.2.1 && accessUses s p (some k.2.2) named
  | 1 => (getPart s p).asid == k.2.1 && accessUses s p none named
  | 2 => accessUses s p none named
  | _ => exportUses s p named

/-- INVALIDATION_DONE (R383): every access that used a named entry has been performed or dropped. For an ASID whose partition is being reset it comes with
step 5 of the reset (R379). -/
def execInvalidationDone (s : State) : Res :=
  let k := s.mgmt.invRun
  let inReset := (List.range 8).any fun p => (getPart s p).reset != .idle && invOf s.mgmt (getPart s p).asid
  if !s.mgmt.invBusy || inReset || (List.range 8).any (invUsed s k) then .next s
  else .next { forgetEntries s (invNames k) with mgmt := { s.mgmt with invBusy := false } }

/-! ## The key store (R387) -/

/-- The 104-byte wrapped record in KSDATA. -/
def wrappedRecord (m : Management) : BitVec 832 := BitVec.ofNat 832 (packN 64 (fun i => (tget 0 m.ksdata i).toNat) 13)

/-- KEY_LOAD (R387): KSCTL.GO. -/
def execKeyLoad (s : State) : Res :=
  let m := s.mgmt
  let p := m.ksPart.toNat
  let x := getPart s p
  let done (s : State) (r : BitVec 2) : Res := .next { s with mgmt := { s.mgmt with ksResult := r, ksBusy := false } }
  if !x.en then done s 2
  else
    match x.transport.bind fun t => unwrapKey t (wrappedRecord m) with
    | none => done s 1
    | some k => done (setPart s p { x with keys := tput x.keys m.ksSlot.toNat k }) 0

/-- KEY_CLEAR (R387): KSCTL.CLEAR. -/
def execKeyClear (s : State) : Res :=
  let p := s.mgmt.ksPart.toNat
  let x := getPart s p
  .next (setPart s p { x with keys := tdel x.keys s.mgmt.ksSlot.toNat })

/-! ## CXL re-keying (R391) -/

/-- The highest counter above a frame that is at its limit: its level and the number of its child. -/
def fullNode (s : State) (frame : Nat) : Option (Nat × Nat) :=
  (((List.range 16).flatMap fun g => cxlAncestors s (16 * frame + g)).filter fun k => nodeCounter s.cxl k == BitVec.allOnes 56).foldl
    (fun m k => match m with
      | some n => if n.1 < k.1 then some k else m
      | none => some k) none

/-- A write of one of a frame's lines would take its group's MAJOR past its end. -/
def majorFull (s : State) (frame : Nat) : Bool := (List.range 1024).any fun i =>
  tget 0 s.cxl.minor (1024 * frame + i) == 63 && tget 0 s.cxl.major ((1024 * frame + i) / 64) == BitVec.allOnes 64

/-- The 4 KiB groups that a re-keying for a frame affects: those under the node whose counter is at its limit, or the frame's own; none where no counter is
at its limit. -/
def rekeyGroups (s : State) (frame : Nat) : Option (Nat × Nat) :=
  match fullNode s frame with
  | some (l, child) => some (child / 8 * 8 ^ l, (child / 8 + 1) * 8 ^ l)
  | none => if majorFull s frame then some (16 * frame, 16 * frame + 16) else none

/-- The tree counters of a subtree, of every level up to one, start again. -/
def clearNodes (x : CxlCounters) (lo hi : Nat) : Nat → CxlCounters
  | 0 => x
  | l + 1 => clearNodes { x with node := tput x.node (l + 1) (tdelRange (tget [] x.node (l + 1)) (lo / 8 ^ l) (hi / 8 ^ l)) } lo hi l

/-- CXL_REKEY (R391): of each affected frame the epoch rises and the counters restart; re-encryption writes each of its lines that hold data once. An epoch
that would pass 255 is not raised: that frame keeps its counters and takes no more writes. -/
def execCxlRekey (frame : Nat) (s : State) : Res :=
  match rekeyGroups s frame with
  | none => .next s
  | some (g0, g1) =>
    let f0 := g0 / 16
    let f1 := (g1 + 15) / 16
    let x := s.cxl
    let hit (f : Nat) : Bool := decide (f0 ≤ f) && decide (f < f1) && decide (rekeys x f < 255)
    let base := cxlBase / 64
    let lines := ((s.lineTags.filter (base ≤ ·.1)).map (·.1 - base)).filter fun i => hit (i / 1024)
    let y := { x with rekeyed := (f0, f1) :: x.rekeyed, stale := x.stale.filter fun (l, n) => !(decide (g0 ≤ n * 8 ^ l) && decide ((n + 1) * 8 ^ l ≤ g1) && hit (n * 8 ^ l / 16)),
                      major := x.major.filter fun k => !hit (k.1 / 16),
                      minor := lines.foldl (fun t i => tput t i 1) (x.minor.filter fun k => !hit (k.1 / 1024)) }
    .next { s with cxl := match fullNode s frame with
      | some (l, _) => clearNodes y g0 g1 l
      | none => y }

/-! ## Buckets (R376) -/

/-- A bucket at a 1,024-cycle boundary: the values written since the last one apply, and the tokens are clamped to BURST. -/
def refill (b : Bucket) : Bucket :=
  let b := { b with rateNow := b.rate, burstNow := b.burst }
  { b with tokens := min (b.tokens + b.rateNow.toNat) (bucketCap b) }

/-- BUCKET_REFILL (R376): the next 1,024-cycle boundary. -/
def execBucketRefill (s : State) : Res :=
  let t := { s with cycle := (s.cycle / 1024 + 1) * 1024 }
  .next ((List.range 8).foldl (fun t p =>
    let x := getPart t p
    if !x.en then t else setPart t p { x with buckets := (List.range 16).foldl (fun l i => tupd {} l i refill) x.buckets }) t)

/-! ## Boot, attestation and the sideband (R396 to R399) -/

/-- The check of a firmware image (R397): the fused hash of its key, the fused rollback counter, and its signature of its digest. -/
def imageAccepted (x : Image) : Bool :=
  sha512 (valueBytes x.key) == valueBytes Config.fusedKeyHash && decide (Config.rollbackCounter ≤ x.version) &&
  ed25519Verify x.key (valueBytes x.digest) x.signature

/-- MEAS := SHA-512(MEAS followed by the digest) (R397). -/
def extendMeasurement (meas digest : BitVec 512) : BitVec 512 := BitVec.ofNat 512 (littleEndian (sha512 (valueBytes meas ++ valueBytes digest)))

/-- A report with these contents, signed: the message is the SHA-512 digest of its bytes (R398). -/
def signReport (meas0 : BitVec 512) (contents : List Nat) : Report :=
  { contents := contents, signature := ed25519Sign (Config.deviceKey meas0) (sha512 (Config.reportBytes contents)) }

/-- A new tree key: every counter block and node that holds a count has its MAC under the key of the boot before (R387, R392). -/
def staleCxl (x : CxlCounters) : CxlCounters :=
  let blocks := (x.major.filter (·.2 != 0)).map (·.1) ++ (x.minor.filter (·.2 != 0)).map (·.1 / 64)
  let nodes := x.node.flatMap fun (l, t) => (t.filter (·.2 != 0)).map fun (c, _) => (l, c / 8)
  { x with stale := (blocks.map (0, ·) ++ nodes).eraseDups }

/-- PERST_DEASSERT (R396, R397): the stages' images are verified, and each stage's digest is extended into its measurement register before it runs.
CYCLE starts here (R51). -/
def execPerstDeassert (images : List Image) (s : State) : Res :=
  let m := s.mgmt
  if m.boot != .inReset then .next s
  else
    let m := { m with treeKey := Config.drawKey m.draws, draws := m.draws + 1 }
    let good := images.takeWhile imageAccepted
    let meas := good.zipIdx.foldl (fun t (x, i) => tupd 0 t (min i 7) fun v => extendMeasurement v x.digest) m.meas
    .next { s with cycle := 0, cxl := staleCxl s.cxl, mgmt := { m with meas := meas, boot := if good.length = images.length ∧ !images.isEmpty then .stage1 else .failed } }

/-- STAGE1_READY (R396): the ports and routes that stage 1 has trained from its allow-list are sealed, and PF0 comes up. -/
def execStage1Ready (s : State) : Res :=
  if s.mgmt.boot != .stage1 then .next s
  else
    let ports := Config.allowedPorts.filter (· < 36)
    let routes := Config.allowedRoutes.filter fun r => ports.contains r.1
    .next (setMirq { s with mgmt := { s.mgmt with boot := .ready, ports := ports, routes := routes } } 0)

/-- The management window answers: to the management processor from stage 1 on, to the host once PF0 is up; after a failed check PF0 reports only the
failure (R396, R397). -/
def mgmtUp (s : State) : Bool := s.mgmt.boot == .stage1 || s.mgmt.boot == .ready

/-- What an attestation report holds (R398). -/
def reportOf (s : State) (nonce share : BitVec 256) : List Nat :=
  nonce.toNat :: ((List.range 8).map fun i => (tget 0 s.mgmt.meas i).toNat) ++ [Config.fusedVersions] ++
  ((List.range 8).flatMap fun p => [if (getPart s p).en then 1 else 0, (getPart s p).clusters.toNat, if (getPart s p).dbgok then 1 else 0]) ++ [share.toNat]

/-- ATTESTATION_REQUEST (R398): a signed report with a fresh share; the partition's transport key is replaced. -/
def execAttestationRequest (part : Nat) (nonce peer : BitVec 256) (s : State) : Res :=
  if 8 ≤ part then .next s
  else
    let secret := Config.drawKey s.mgmt.draws
    let share := x25519 secret 9
    let t := setPart s part { getPart s part with share := share, transport := some (transportKey part nonce secret peer) }
    .next { t with mgmt := { t.mgmt with draws := t.mgmt.draws + 1, reports := t.mgmt.reports ++ [signReport (tget 0 s.mgmt.meas 0) (reportOf s nonce share)] } }

/-- SIDEBAND_RESET_REQUEST (R399): accepted once a failure has been reported. -/
def execSidebandResetRequest (s : State) : Res := if s.mgmt.failure then .next (packageReset s false) else .next s

/-! ## Streams (R305, R333) -/

/-- STREAM_TAIL_WRITE (R305): a value of more than LOGSIZE bits that leaves more records than the queue holds makes the contents of the records to be taken
undefined (R8; log entry 101). -/
def execStreamTailWrite (part stream : Nat) (v : Word) (s : State) : Res :=
  if !partLive s part || 64 ≤ stream then .next s
  else
    let x := { getStream s part stream with tail := v.setWidth 16 }
    let size := 2 ^ x.logsize.toNat
    let full := size ≤ x.tail.toNat && size ≤ (x.tail.toNat + 2 ^ 16 - x.head.toNat) % 2 ^ 16
    .next (setStream s part stream (if full then { x with undefs := pendingRecords x } else x))

/-- STREAM_CLEAR_ERROR (R305, R333): after ERR 1 to 3 the failed record is skipped; after 4 and 5 it has ended. -/
def execStreamClearError (part stream : Nat) (s : State) : Res :=
  let x := getStream s part stream
  if !partLive s part || x.state != 3 then .next s
  else
    let skip := x.err = 1 || x.err = 2 || x.err = 3
    let y := if skip then { x with head := BitVec.ofNat 16 ((x.head.toNat + 1) % 2 ^ x.logsize.toNat), taken := x.taken - 1, record := [],
                                   undefs := x.undefs - 1 } else x
    .next (setStream s part stream { y with err := 0, serial := 0, state := if y.taken = 0 then 0 else 1 })

end Sys2Proof.Machine
end

