-- ==== Sys2Proof/Machine/Registers.lean ====
section
/-! DEFINITION. Writes of registers: the device window of a partition (R227, R240, R305, R359, R373 to R375, R411, R419) and the management window
(R246, R368, R370, R371, R376, R384, R387, R403, R422), and what the management window reads as. -/

namespace Sys2Proof.Machine

/-- The state after an event that always goes on. -/
def stateAfter (r : Res) (s : State) : State := match r with
  | .next t => t
  | .fault _ | .refused _ => s

/-- Write PIMASK: a message is sent for a cause that is pending and becomes enabled (R375). -/
def writePimask (s : State) (p : Nat) (v : BitVec 4) : State :=
  let x := getPart s p
  let new := (List.range 4).filter fun i => bitOf x.pirq.toNat i && bitOf v.toNat i && !bitOf x.pimask.toNat i
  let s := setPart s p { x with pimask := v }
  { s with mgmt := { s.mgmt with messages := s.mgmt.messages ++ new.map (.vf p) } }

/-- Write HALTCTL (R412). -/
def writeHaltctl (s : State) (p : Nat) (action : Nat) : State :=
  match action with
  | 1 => stateAfter (execHaltctlResume p s) s
  | 2 => stateAfter (execHaltctlAbandon p s) s
  | 3 => stateAfter (execHaltctlParkAll p s) s
  | _ => s

/-- Write a register of the partition control block. -/
def controlWrite (s : State) (p off : Nat) (v : Word) : State :=
  let x := getPart s p
  match off with
  | 0x08 => setPart s p { x with pirq := x.pirq &&& ~~~ v.setWidth 4 }
  | 0x10 => writePimask s p (v.setWidth 4)
  | 0x18 => if bitOf v.toNat 0 then startReset s p false else s
  | 0x20 => stateAfter (execPdbgWrite p (bitOf v.toNat 0) s) s
  | 0x28 => if bitOf v.toNat 18 then stateAfter (execExportGrant p (fieldOf v 0 18) s) s else stateAfter (execExportWithdraw p (fieldOf v 0 18) s) s
  | 0x30 => setPart s p { x with consentRd := bitOf v.toNat 0, consentWr := bitOf v.toNat 1, budget := BitVec.ofNat 32 (fieldOf v 16 32) }
  | 0x40 => setPart s p { x with wdog := v.setWidth 32 }
  | 0x48 => setPart s p { x with stopbase := BitVec.ofNat 56 (fieldOf v 20 36 * 2 ^ 20) }
  | 0x50 => writeHaltctl s p (fieldOf v 0 2)
  | 0x60 => setPart s p { x with cxpool := BitVec.ofNat 56 (fieldOf v 21 35 * 2 ^ 21) }
  | 0x68 => setPart s p { x with cxper := v.setWidth 3 }
  | _ => s

/-- Write SQCTL: CLRERR acts after the other fields. -/
def writeSqctl (s : State) (p n : Nat) (v : Word) : State :=
  let t := setStream s p n { getStream s p n with logsize := v.setWidth 4, prio := BitVec.ofNat 2 (fieldOf v 4 2), en := bitOf v.toNat 6 }
  if bitOf v.toNat 7 then stateAfter (execStreamClearError p n t) t else t

/-- Write a register of the scheduling block. -/
def schedWrite (s : State) (p off : Nat) (v : Word) : State :=
  let x := getPart s p
  if off < 0x1000 then
    let n := off / 64
    match off % 64 with
    | 0x00 => setStream s p n { getStream s p n with base := BitVec.ofNat 64 (fieldOf v 6 50 * 64) }
    | 0x08 => writeSqctl s p n v
    | 0x10 => stateAfter (execStreamTailWrite p n v s) s
    | _ => s
  else if off < 0x1800 then setPart s p { x with cnt := tput x.cnt ((off - 0x1000) / 8) v }
  else if off = 0x1800 then
    -- the quanta that have passed count under the old value (R316)
    let t := settleAging s p
    setPart t p { getPart t p with ageq := v.setWidth 32 }
  else s

/-- Write LLCLR (R240). -/
def llclrWrite (s : State) (d p : Nat) (v : Word) : State :=
  let s := (List.range 3).foldl (fun s h => if bitOf v.toNat h then stateAfter (execLlclrHop d p h s) s else s) s
  if bitOf v.toNat 3 then stateAfter (execLlclrPace d p s) s else s

/-- Write a register of a core status block. -/
def coreWrite (s : State) (c off : Nat) (v : Word) : State :=
  match off with
  | 0x00 => if bitOf v.toNat 63 then clearHoor s c else s
  | 0x10 => if bitOf v.toNat 0 then stateAfter (execCxctlPark c s) s else s
  | _ => s

/-- Write a whole register of a device window. -/
def windowWrite (s : State) (p off : Nat) (v : Word) : State :=
  let x := getPart s p
  if off < 0x10000 then controlWrite s p off v
  else if off < 0x20000 then schedWrite s p (off - 0x10000) v
  else if off < 0x24000 then
    if dieHeld x (off / 0x1000 % 16) && off % 0x1000 == 0x38 then llclrWrite s (off / 0x1000 % 16) p v else s
  else if 0x30000 ≤ off ∧ off < 0x30400 then
    if dieHeld x (off / 0x100 % 16) then writeGath s (off / 0x100 % 16) p (off % 0x100) v else s
  else if 0x100000 ≤ off ∧ off < 0x100000 + 0x40 * 576 then
    let c := (off - 0x100000) / 0x40
    if bitOf x.clusters.toNat (c / 16) then coreWrite s c (off % 0x40) v else s
  else s

/-- A write of 4 or 8 bytes at an offset of a partition's device window (R372): the other half of the register is written with what it reads as, a W1C
field with 0. During a partition reset only PIRQ takes writes (R378). -/
def deviceWrite (s : State) (p off width : Nat) (v : Word) : State :=
  let o := off / 8 * 8
  let old : Word := if deviceW1c off then 0 else BitVec.ofNat 64 (windowRead s p o)
  let full := if width = 8 then v else setField old (8 * (off % 8)) 32 (v.toNat % 2 ^ 32)
  if !(getPart s p).en || ((getPart s p).reset != .idle && o != 0x08) then s else windowWrite s p o full

/-! ## The management window (R370) -/

/-- The management interrupt block and the security block (R371). -/
def mgmtBlockRead (s : State) (off : Nat) : Nat :=
  let m := s.mgmt
  match off with
  | 0x0000 => m.mirq.toNat
  | 0x0008 => m.mimask.toNat
  | 0x0010 => m.mirst.toNat
  | 0x0018 => m.mifence.toNat
  | 0x1000 =>
    let ceil := Config.pwrCeil % 65536
    min (match m.pwrlim with
      | some v => v.toNat
      | none => ceil) ceil + ceil * 2 ^ 16 + m.pwrmeas.toNat * 2 ^ 32
  | 0x1008 => m.cxlpop.toNat
  | 0x1010 => m.cxldata.toNat
  | 0x1018 => cxlMeta s
  | 0x1020 => m.expbase.toNat
  | _ => 0

/-- The key-store, invalidation, page-request and debug blocks; reads of PRQHEAD are PRQ_POP. -/
def mgmtPortRead (s : State) (off : Nat) : Nat :=
  let m := s.mgmt
  if off = 0x2068 then m.ksPart.toNat + m.ksSlot.toNat * 8
  else if off = 0x2070 then bitNat m.ksBusy + m.ksResult.toNat * 2
  else if 0x2080 ≤ off ∧ off < 0x20C0 then
    (List.range 16).foldl (fun n k => n + bitNat (tfind (getPart s ((off - 0x2080) / 8)).keys k).isSome * 2 ^ k) 0
  else if off = 0x3000 then m.invPage.toNat
  else if off = 0x3008 then m.invAsid.toNat + m.invKind.toNat * 2 ^ 16
  else if off = 0x3010 then bitNat m.invBusy
  else if off = 0x4000 then m.prqhead.toNat
  else if off = 0x4008 then m.prqva.toNat
  else if off = 0x4018 then m.prq.countP fun r => !r.popped
  else if off = 0x5000 then
    m.dbg.part.toNat + bitNat m.dbg.attach * 8 + m.dbg.core.toNat * 2 ^ 8 + m.dbg.seq.toNat * 2 ^ 18 + m.dbg.eng.toNat * 2 ^ 20
  else if off = 0x5008 then
    let h := (getPart s m.dbg.part.toNat).halt
    bitNat (h.halted && h.debug) + 2 * bitNat m.dbg.stepping + 4 * bitNat m.dbg.stepFault
  else if off = 0x5010 then m.dbg.sel.toNat
  else if off = 0x5018 then match selCtx s with
    | some c => (debugPeek s c m.dbg.sel).toNat
    | none => 0
  else 0

/-- A partition's configuration block (R368, R376). -/
def configRead (x : Partition) (off : Nat) : Nat :=
  match off with
  | 0x00 => (pcfgValue x).toNat
  | 0x08 => x.asid.toNat
  | 0x10 => x.proot.toNat
  | 0x18 => 2 * bitNat (x.reset != .idle)
  | _ =>
    if 0x100 ≤ off ∧ off < 0x200 ∧ off % 0x40 < 0x20 then
      let b : Bucket := tget {} x.buckets (4 * ((off - 0x100) / 0x40) + off % 0x40 / 8)
      b.rate.toNat + b.burst.toNat * 2 ^ 24
    else 0

/-- A migration block (R246). -/
def migRead (m : Migration) (off : Nat) : Nat :=
  match off with
  | 0x00 => m.base.toNat
  | 0x08 => m.rdth.toNat + m.wrth.toNat * 2 ^ 16
  | 0x10 => m.ptea.toNat
  | 0x18 => m.pteb.toNat
  | 0x20 => m.frame.toNat
  | 0x28 => 2 * bitNat m.mode
  | 0x30 => bitNat m.busy + 2 * m.result.toNat
  | 0x38 => m.logsize.toNat + m.ring.toNat
  | 0x40 => m.rtail.toNat + bitNat m.ovf * 2 ^ 32
  | 0x48 => m.rhead.toNat
  | _ => 0

/-- A register of the management window: an offset that holds none reads as zero. After a failed check PF0 reports only the failure (R397), in a form that
the manual does not give: a free value. -/
def mgmtRead (s : State) (off : Nat) : Word :=
  if s.mgmt.boot = .failed then Config.failureReport off
  else BitVec.ofNat 64 (
    if off < 0x2000 then mgmtBlockRead s off
    else if off < 0x6000 then mgmtPortRead s off
    else if off < 0x6200 then (tget 0 s.mgmt.meas ((off - 0x6000) / 64)).toNat >>> (64 * (off % 64 / 8))
    else if 0x10000 ≤ off ∧ off < 0x18000 then configRead (getPart s (off / 0x1000 % 16)) (off % 0x1000)
    else if 0x20000 ≤ off ∧ off < 0x20400 then migRead (getDie s (off / 0x100 % 16)).mig (off % 0x100)
    else 0)

/-- No partition is enabled. -/
def nonePartition (s : State) : Bool := (List.range 8).all fun p => !(getPart s p).en

/-- Write MIMASK: a message for a cause that is pending and becomes enabled (R371). -/
def writeMimask (s : State) (v : BitVec 6) : State :=
  let m := s.mgmt
  let new := (List.range 6).filter fun i => bitOf m.mirq.toNat i && bitOf v.toNat i && !bitOf m.mimask.toNat i
  { s with mgmt := { m with mimask := v, messages := m.messages ++ new.map .pf0 } }

/-- Write the interrupt and security blocks: CXLPOP, CXLDATA and EXPBASE only while no partition is enabled. -/
def mgmtBlockWrite (s : State) (off : Nat) (v : Word) : State :=
  let m := s.mgmt
  match off with
  | 0x0000 => { s with mgmt := { m with mirq := m.mirq &&& ~~~ v.setWidth 6 } }
  | 0x0008 => writeMimask s (v.setWidth 6)
  | 0x0010 => { s with mgmt := { m with mirst := m.mirst &&& ~~~ v.setWidth 8 } }
  | 0x1000 => { s with mgmt := { m with pwrlim := some (v.setWidth 16) } }
  -- a value beyond the CXL window of R210 is kept as written (log entry 113: the model's choice)
  | 0x1008 => if nonePartition s then { s with mgmt := { m with cxlpop := v.setWidth 15 } } else s
  | 0x1010 => if nonePartition s then { s with mgmt := { m with cxldata := v.setWidth 15 } } else s
  | 0x1020 => if nonePartition s then { s with mgmt := { m with expbase := BitVec.ofNat 52 (fieldOf v 12 40 * 4096) } } else s
  | _ => s

/-- Write DBGCTL (R422): PART, CORE, SEQ and ENG, then ATTACH, HALT, RESUME, STEP and ESTEP in this order. -/
def writeDbgctl (s : State) (v : Word) : State :=
  let b := s.mgmt.dbg
  let s := if b.part ≠ v.setWidth 3 then updDbg (cancelStep s) fun b => { b with attach := false } else s
  let s := updDbg s fun b => { b with part := v.setWidth 3, core := BitVec.ofNat 10 (fieldOf v 8 10), seq := BitVec.ofNat 2 (fieldOf v 18 2),
                                      eng := BitVec.ofNat 3 (fieldOf v 20 3) }
  let act (i : Nat) (f : State → Res) (s : State) : State := if bitOf v.toNat i then stateAfter (f s) s else s
  act 7 execDebugEngineStep (act 6 execDebugStep (act 5 execDebugResume (act 4 execDebugHalt (stateAfter (execDebugAttach (bitOf v.toNat 3) s) s))))

/-- Write the key-store, invalidation, page-request and debug blocks. -/
def mgmtPortWrite (s : State) (off : Nat) (v : Word) : State :=
  let m := s.mgmt
  if 0x2000 ≤ off ∧ off < 0x2068 then { s with mgmt := { m with ksdata := tput m.ksdata ((off - 0x2000) / 8) v } }
  else if off = 0x2068 then
    let s := { s with mgmt := { m with ksPart := v.setWidth 3, ksSlot := BitVec.ofNat 4 (fieldOf v 3 4) } }
    let s := if bitOf v.toNat 7 then stateAfter (execKeyLoad s) s else s
    if bitOf v.toNat 8 then stateAfter (execKeyClear s) s else s
  else if off = 0x3000 then { s with mgmt := { m with invPage := BitVec.ofNat 56 (fieldOf v 16 40 * 65536) } }
  else if off = 0x3008 then
    let s := { s with mgmt := { m with invAsid := v.setWidth 16, invKind := BitVec.ofNat 2 (fieldOf v 16 2) } }
    if bitOf v.toNat 18 then startInval s else s
  else if off = 0x4010 then stateAfter (execPrqAck (v.setWidth 8) (bitOf v.toNat 8) s) s
  else if off = 0x5000 then writeDbgctl s v
  else if off = 0x5010 then updDbg s fun b => { b with sel := v &&& 0xFFFFFFFFF }
  else if off = 0x5018 then stateAfter (execDbgdataWrite v s) s
  else s

/-- Write ASIDR or PROOT (R368): refused while it would change an enabled partition. -/
def writeRoot (s : State) (p : Nat) (asid : BitVec 16) (proot : BitVec 52) : State :=
  let x := getPart s p
  if x.en && (asid != x.asid || proot != x.proot) then refusePcfg s p else setPart s p { x with asid := asid, proot := proot, err := false }

/-- Write a partition's configuration block. -/
def configWrite (s : State) (p off : Nat) (v : Word) : State :=
  let x := getPart s p
  match off with
  | 0x00 => writePcfg s p v
  | 0x08 => writeRoot s p (v.setWidth 16) x.proot
  | 0x10 => writeRoot s p x.asid (BitVec.ofNat 52 (fieldOf v 11 41 * 2 ^ 11))
  | 0x18 => if bitOf v.toNat 0 then startReset s p false else s
  | _ =>
    if 0x100 ≤ off ∧ off < 0x200 ∧ off % 0x40 < 0x20 then
      setPart s p { x with buckets := tupd {} x.buckets (4 * ((off - 0x100) / 0x40) + off % 0x40 / 8) fun b =>
        { b with rate := v.setWidth 24, burst := BitVec.ofNat 24 (fieldOf v 24 24) } }
    else s

/-- Write a migration block. -/
def migWrite (s : State) (d off : Nat) (v : Word) : State :=
  let m := (getDie s d).mig
  match off with
  | 0x00 => setMig s d { m with base := BitVec.ofNat 52 (fieldOf v 12 40 * 4096) }
  | 0x08 => setMig s d { m with rdth := v.setWidth 16, wrth := BitVec.ofNat 16 (fieldOf v 16 16) }
  | 0x10 => setMig s d { m with ptea := v.setWidth 52 }
  | 0x18 => setMig s d { m with pteb := v.setWidth 52 }
  | 0x20 => setMig s d { m with frame := BitVec.ofNat 52 (fieldOf v 16 36 * 65536) }
  | 0x28 =>
    let t := if m.busy then s else setMig s d { m with mode := bitOf v.toNat 1 }
    if !bitOf v.toNat 0 then t else if bitOf v.toNat 1 then stateAfter (execMigrateOptimistic d t) t else stateAfter (execMigrateSwap d t) t
  | 0x38 => setMig s d { m with logsize := v.setWidth 4, ring := BitVec.ofNat 52 (fieldOf v 12 40 * 4096) }
  | 0x40 => if bitOf v.toNat 32 then setMig s d { m with ovf := false } else s
  | 0x48 => setMig s d { m with rhead := v.setWidth 32 }
  | _ => s

/-- Write a register of the management window: an offset that holds none ignores it, and the window takes no write before stage 1 of the firmware runs
and after a failed boot (R396, R397). -/
def mgmtWrite (s : State) (off : Nat) (v : Word) : State :=
  if !mgmtUp s then s
  else if off < 0x2000 then mgmtBlockWrite s off v
  else if off < 0x6000 then mgmtPortWrite s off v
  else if 0x10000 ≤ off ∧ off < 0x18000 then configWrite s (off / 0x1000 % 16) (off % 0x1000) v
  else if 0x20000 ≤ off ∧ off < 0x20400 then migWrite s (off / 0x100 % 16) (off % 0x100) v
  else s

/-- REGISTER_WRITE (R4): a write of 8 bytes by the host or the management processor. -/
def execRegisterWrite (w : Window) (offset : Nat) (v : Word) (s : State) : Res :=
  let o := offset / 8 * 8
  match w with
  | .device p => .next (deviceWrite s p o 8 v)
  | .management => .next (mgmtWrite s o v)

end Sys2Proof.Machine
end

