-- ==== Sys2Proof/Machine/Perform.lean ====
section
/-! DEFINITION. Stores, atomics and token writes of S take effect (R222, R253, R258, R266, R270, R271, R273, R293), and dies install updates (R294,
R299). -/

namespace Sys2Proof.Machine

/-! ## When an access may be performed -/

/-- The access is there to be performed: the image of an STA is formed first (R269). -/
def formed (a : SAccess) : Bool := match a.act with
  | .image _ => false
  | _ => true

/-- An access of S may be performed after the earlier ones: same locations in program order (R258), atomics in program order, for they read (R295), stores
of STA in order (R269), the setting of F after earlier stores and atomics are visible at .clus (R295), TOKS after everything earlier is visible at
its scope (R273). -/
def performable (s : State) (core : Nat) (earlier : List SAccess) (a : SAccess) : Bool :=
  !a.performed && formed a &&
  !(earlier.any fun b => !b.performed && (piecesMeet b.pieces a.pieces || (b.sta && a.sta) || (isAtomic b && isAtomic a))) &&
  (a.fe != .fe || (earlier.filter (!isToken ·)).all (visibleAt s core .clus)) &&
  match a.act with
  | .token sc _ => earlier.all (visibleAt s core sc)
  | _ => true

/-! ## Atomics (R270) -/

/-- The float format of ATFADD. -/
def affmtOf : AFFmt → FFmt
  | .f32 => .f32
  | .bf16 => .bf16
  | .f16 => .f16

/-- The smaller or larger of two W-bit values. -/
def pickInt (signed largest : Bool) (w a b : Nat) : Nat :=
  let le : Bool := if signed then sextN a w ≤ sextN b w else a ≤ b
  if le == largest then b else a

/-- The new memory value of an atomic, for memory value m, operand g and compare value. -/
def atomicNew (op : AtomOp) (w : Nat) (signed : Bool) (ff : Option AFFmt) (m g cmp : Nat) : Nat :=
  match op with
  | .add => (m + g) % 2 ^ w
  | .fadd => match ff with
    | some f => (fadd (affmtOf f) (decodeF (affmtOf f) m) (decodeF (affmtOf f) g)).1
    | none => m
  | .min => pickInt signed false w m g
  | .max => pickInt signed true w m g
  | .xch => g
  | .cas => if m = cmp then g else m

/-- The old value as g[d] receives it. -/
def atomicOld (w : Nat) (signed : Bool) (m : Nat) : Word := if signed then wordOfInt (sextN m w) else BitVec.ofNat 64 m

/-! ## Performing one access -/

/-- How performing an access ends: not yet, for want of tokens or of a CXL counter (R376, R391); with the stamps of its homes, the bytes of the access where
pieces now performed begin, none if all are, and the value that goes back to S; or as a machine fault. -/
inductive Performed where
  | later (s : State)
  | done (s : State) (stamps : List (Nat × Nat)) (parts : Option (List Nat)) (result : Option (Reg × Word))
  | bad (cause : BitVec 8) (addr : Nat)

/-- The word of a piece is written as one: it is uncorrectable, or a lane of it is poisoned, or it changes its key, or it is a CXL line (R221, R222, R388,
R391). -/
def wordWhole (s : State) (bad : List Nat) (all : List Piece) (p : Piece) : Bool := match p.loc with
  | .dram pa layout _ key part =>
    let w := placed pa layout / 64
    wordLost s (64 * w) || regionOf s (64 * w) == .cxl || rekeyed s w key part ||
    all.any fun q => pieceWord q == some w && bad.any fun i => decide (q.pos ≤ i) && decide (i < q.pos + q.count)
  | _ => false

/-- Where a piece is performed as one: its granule, or its ECC word (R217). -/
def pieceUnit (s : State) (bad : List Nat) (all : List Piece) (p : Piece) : Nat := match p.loc with
  | .dram pa layout _ _ _ => if wordWhole s bad all p then 8 * (placed pa layout / 64) else 8 * (placed pa layout / 16) + 1
  | .sram c g _ => 8 * (65536 * 8 * c + g) + 2
  | .remote _ off _ _ _ => 8 * (off / 64) + 3
  | _ => 4

/-- The bytes of a store that come from an invalid lane. -/
def badBytes (a : SAccess) : List Nat := match a.act with
  | .store _ bad => bad
  | _ => []

/-- The pieces of a store that are still to be performed. -/
def openPieces (a : SAccess) : List Piece := a.pieces.filter fun p => !a.parts.contains p.pos

/-- The pieces of a store that are performed now: the granules of one access have no order among themselves (R217, R299), so which go first is a free
choice for each unit; where it falls on none, all go. -/
def storePart (s : State) (a : SAccess) : List Piece :=
  let o := openPieces a
  let unit := pieceUnit s (badBytes a) a.pieces
  let l := o.filter fun p => Config.freePick s.freeCtr (unit p)
  if (o.map unit).eraseDups.length ≤ 1 ∨ l.isEmpty then o else l

/-- The words that parts of a store performed before have counted. -/
def countedWords (a : SAccess) : List Nat := (a.pieces.filter fun p => a.parts.contains p.pos).filterMap pieceWord

/-- The pieces of a store performed so far, none when all are. -/
def partsAfter (a : SAccess) (ps : List Piece) : Option (List Nat) :=
  if (openPieces a).all fun p => ps.contains p then none else some (a.parts ++ ps.map (·.pos))

/-- Read, modify and write at the home of a DRAM or SRAM location. The write depends on what S's earlier atomics returned (R295, R299). -/
def atomicMemory (s : State) (core : Nat) (a : SAccess) (p : Piece) (w : Nat) (new : Nat → Nat) (old : Nat → Word) (d : Reg) : Performed :=
  let g := readLoc s (locDie (dieOfCore core) p.loc) p.loc 0
  match g.fault with
  | some c => .bad c p.addr
  | none =>
    if g.lost then .bad (lostCause [p]) p.addr
    else
      let m := (g.data.toNat >>> (8 * p.first)) % 2 ^ w
      let s := takeFree (countReads s [p]) 4
      match writeAccess s [p] (fun i => BitVec.ofNat 8 (new m >>> (8 * i))) (fun _ => false) .none false (maxVec a.deps (getCtx s core).sdeps) with
      | .error (c, e) => .bad c e
      | .ok (t, stamps) => .done t stamps none (some (d, old m))

/-- An atomic at its home (R270): a register of the device window, memory, or another package; out of range reads zero and writes nothing (R227). -/
def performAtomic (s : State) (core : Nat) (a : SAccess) (w : Nat) (new : Nat → Nat) (old : Nat → Word) (d : Reg) : Performed :=
  match a.pieces with
  | [] => .done s [] none (some (d, old 0))
  | p :: _ =>
    match p.loc with
    | .device off =>
      let part := (partOfCore s core).getD 0
      let m := (deviceRead s part off).toNat % 2 ^ w
      .done (deviceWrite s part off (w / 8) (BitVec.ofNat 64 (new m))) [] none (some (d, old m))
    | .beyond => .done s [] none (some (d, old 0))
    | .remote pkg off .. =>
      let m := ((farData s pkg off).toNat >>> (8 * p.first)) % 2 ^ w
      let s := farPut (takeTokens s [p]) pkg off (byteMask p.first (w / 8)) (BitVec.ofNat 128 (new m <<< (8 * p.first)))
      .done (noteTouch { s with fabricOut := s.fabricOut ++ [.atomic pkg (off + p.first)] } [p]) [] none (some (d, old m))
    | .lost => .bad causeDram p.addr
    | .dram .. | .sram .. => atomicMemory s core a p w new old d

/-- Writes to registers of the device window (R372). -/
def performDevice (s : State) (core : Nat) (ps : List Piece) (bytes : List Byte) : State :=
  ps.foldl (fun s p => match p.loc with
    | .device off => deviceWrite s ((partOfCore s core).getD 0) off p.count (BitVec.ofNat 64 (ofBytes (fun i => bytes.getD (p.pos + i) 0) p.count))
    | _ => s) s

/-- The lanes of SCT one after another, in ascending order (R268). -/
def performLanes (s : State) (a : SAccess) (ps : List Piece) (bytes : List Byte) : Performed :=
  match lowestFault (ps.filterMap fun p => storeFault s [p] (dramCells [p] fun i => bytes.getD i 0) false) with
  | some (c, e) => .bad c e
  | none =>
    let (t, stamps) := ps.foldl (fun (t, l) p =>
      match writeAccess t [p] (fun i => bytes.getD i 0) (fun _ => false) a.fe false a.deps with
      | .error _ => (t, l)
      | .ok (u, st) => (takeFree u 4, l ++ st)) (s, [])
    .done t stamps (partsAfter a ps) none

/-- The pieces for which the access still draws tokens. -/
def unpaid (a : SAccess) (ps : List Piece) : List Piece := ps.filter fun p => (pieceWord p).all (!(countedWords a).contains ·)

/-- An access of S at its home, for a core whose active context issued it. A token write and an image act on the context, not at a home. -/
def performAccess (s : State) (core : Nat) (a : SAccess) : Performed :=
  let ps := if isAtomic a then a.pieces else storePart s a
  if !tokensReady s (unpaid a ps) || writeWaits s ps then .later (awaitTokens s (unpaid a ps))
  else
    match a.act with
    | .store bytes bad =>
      match writeAccess s ps (fun i => bytes.getD i 0) (fun i => bad.contains i) a.fe false a.deps (countedWords a) with
      | .error (c, g) => .bad c g
      | .ok (t, stamps) => .done (takeFree (performDevice t core ps bytes) 64) stamps (partsAfter a ps) none
    | .atomic op w signed ff g cmp d _ _ =>
      performAtomic s core a w (fun m => atomicNew op w signed ff m (g.toNat % 2 ^ w) (cmp.toNat % 2 ^ w)) (atomicOld w signed) d
    | .scatter bytes => performLanes s a ps bytes
    | .token _ _ | .image _ => .done s [] none none

/-- An access that has been performed: a value that an atomic brought back says that it is performed in the other package too. -/
def markDone (stamps : List (Nat × Nat)) (a : SAccess) : SAccess :=
  { a with performed := true, stamps := a.stamps ++ stamps, parts := [], remote := a.pieces.any isRemote, acked := isAtomic a }

/-- An access of which pieces have been performed. -/
def markParts (stamps : List (Nat × Nat)) (parts : Option (List Nat)) (a : SAccess) : SAccess :=
  match parts with
  | none => markDone stamps a
  | some l => { a with stamps := a.stamps ++ stamps, parts := l }

/-- Advance the token word and give its value to S (R273). -/
def performToken (s : State) (core n : Nat) (d : Reg) : State :=
  let x := getCtx s core
  let x := if bitOf (footprint x).toNat 7 then x else recordOor s.cycle x (16 * tokenGranule) true false 6
  let v := (tokenWord s x + 1) % 2 ^ 64
  let y := setToken { x with sacc := changeAt x.sacc n (markDone []) } v
  wrSeq (setCtx (if x.tokenBad then takeFree s 1 else s) core y) core .S d (BitVec.ofNat 64 v)

/-- A FENCE.acq follows the access (R270). -/
def isAcq (a : SAccess) : Bool := match a.act with
  | .atomic _ _ _ _ _ _ _ acq _ => acq
  | _ => false

/-- The state with an atomic's value in S (R270): its stamps join those that S's later writes depend on (R299), and the FENCE.acq of a kind .acq or .full
has the die apply what the atomic read. -/
def giveValue (t : State) (core : Nat) (a : SAccess) (stamps : List (Nat × Nat)) (d : Reg) (v : Word) : State :=
  let x := getCtx t core
  let deps := mergeStamps x.sdeps stamps
  let t := wrSeq (setCtx t core { x with sdeps := deps }) core .S d v
  if isAcq a then catchUp t (dieOfCore core) deps else t

/-- What performing the n-th access of a context leaves of its core. -/
def afterPerform (s : State) (core n : Nat) (a : SAccess) : Performed → State
  | .later t => t
  | .bad c e =>
    let x := getCtx s core
    machineFault (setCtx s core { x with sacc := dropAt x.sacc n }) core .S c e a.fpc a.parcels
  | .done t stamps parts result =>
    let x := getCtx t core
    let t := setCtx t core { x with sacc := changeAt x.sacc n (markParts stamps parts) }
    match result with
    | some (d, v) => giveValue t core a stamps d v
    | none => t

/-- A token write waits for word from other packages (R273, R297). -/
def askAcks (s : State) (core : Nat) (a : SAccess) : State := match a.act with
  | .token sc _ => drawAcks s core sc
  | _ => s

/-- Perform the n-th access of the active context of a core, where before holds what S issued earlier. -/
def performActive (s : State) (core n : Nat) (before : List SAccess) : State :=
  match (getCtx s core).sacc[n]? with
  | none => s
  | some a =>
    let s := askAcks s core a
    if !performable s core (before ++ (getCtx s core).sacc.take n) a then s
    else match a.act with
      | .token _ d => pruneStores (performToken s core n d) core
      | _ => pruneStores (afterPerform s core n a (performAccess s core a)) core

/-- Accesses that the retirement tracker still holds. -/
def trackedAccesses (s : State) (core : Nat) : List SAccess := (getCore s core).tracker.filterMap (·.acc)

/-- Perform the access of the n-th tracker item: registers and the token word of its cell are gone. -/
def performTracked (s : State) (core n : Nat) : State :=
  match (getCore s core).tracker[n]? with
  | none => s
  | some k =>
    match k.acc with
    | none => s
    | some a =>
      if !performable s core (((getCore s core).tracker.take n).filterMap (·.acc)) a then s
      else match performAccess s core a with
        | .later t => t
        | .done t stamps parts _ =>
          let y := getCore t core
          setCore t core { y with tracker := changeAt y.tracker n fun k => { k with acc := some (markParts stamps parts a) } }
        | .bad c e =>
          let y := getCore s core
          machineFault (setCore s core { y with tracker := dropAt y.tracker n }) core .S c e a.fpc a.parcels

/-- WRITE_PERFORM_HOME (R293): an access of S that a core has in flight is performed. n numbers the accesses of the active context, then the items of
the retirement tracker, then the accesses of the shadow context (R318, R418). -/
def execWritePerformHome (core n : Nat) (s : State) : Res :=
  let y := getCore s core
  let k := y.ctx.sacc.length
  if n < k then .next (performActive s core n (y.shadow.sacc ++ trackedAccesses s core))
  else if n < k + y.tracker.length then .next (performTracked s core (n - k))
  else if n < k + y.tracker.length + y.shadow.sacc.length then
    .next (swapContexts (performActive (swapContexts s core) core (n - k - y.tracker.length) []) core)
  else .next s

/-- REMOTE_UPDATE_INSTALL (R294, R299). -/
def execRemoteUpdateInstall (die n : Nat) (s : State) : Res := .next (installUpdate s die n)

end Sys2Proof.Machine
end

