-- ==== Sys2Proof/Machine/Vector.lean ====
section
/-! DEFINITION. The vector instructions (R141 to R172) and X_RESULT_LAND. -/

namespace Sys2Proof.Machine

/-! ## Shared shapes -/

/-- Elementwise integer operation of one to three sources: op takes the codes of the elements. -/
def opElems (bound w : Nat) (sel : Sel) (srcs : List Opnd) (d : Opnd) (q : XQ) (op : Nat → Nat → Nat → Nat × Flags) (s : State) : Res :=
  opX bound srcs d q (fun _ l active =>
    let p := 32 / w
    let r := elementwise w active fun j e =>
      op (elem w (srcAt l 0) (p * j + selA sel e)) (elem w (srcAt l 1) (p * j + selB sel e)) (elem w (srcAt l 2) (p * j + e))
    deliverLanes l sameLane active r.1 r.2) s

/-- Integer arithmetic in a format, delivered by R141. -/
def opInt (bound : Nat) (f : IFmt) (sat : Bool) (sel : Sel) (srcs : List Opnd) (d : Opnd) (q : XQ) (op : Int → Int → Int → Int)
    (s : State) : Res :=
  opElems bound f.width sel srcs d q (fun a b c => deliverInt f sat (op (readInt f a) (readInt f b) (readInt f c))) s

/-- Floating-point arithmetic on decoded values (R149). -/
def opFloat (bound : Nat) (f : FFmt) (sel : Sel) (srcs : List Opnd) (d : Opnd) (q : XQ) (op : Val → Val → Val → Nat × Flags)
    (s : State) : Res :=
  opElems bound f.width sel srcs d q (fun a b c => op (decodeF f a) (decodeF f b) (decodeF f c)) s

/-- Whole-lane operation on the lanes of up to two sources. -/
def opLanes (bound : Nat) (srcs : List Opnd) (d : Opnd) (q : XQ) (op : BitVec 32 → BitVec 32 → BitVec 32 × Flags) (s : State) : Res :=
  opX bound srcs d q (fun _ l active =>
    let f (j : Nat) := op (lane (srcAt l 0) j) (lane (srcAt l 1) j)
    deliverLanes l sameLane active (ofLanes fun j => (f j).1) (ofFlags fun j => if maskBit active j then (f j).2 else 0)) s

/-! ## Integer instructions (R141 to R146) -/

def execVadd (f : IFmt) (sat : Bool) (sel : Sel) (d a b : Opnd) (q : XQ) (s : State) : Res :=
  opInt 2 f sat sel [a, b] d q (fun x y _ => x + y) s
def execVsub (f : IFmt) (sat : Bool) (sel : Sel) (d a b : Opnd) (q : XQ) (s : State) : Res :=
  opInt 2 f sat sel [a, b] d q (fun x y _ => x - y) s
def execVmul (f : IFmt) (sat : Bool) (sel : Sel) (d a b : Opnd) (q : XQ) (s : State) : Res :=
  opInt 4 f sat sel [a, b] d q (fun x y _ => x * y) s
def execVmulh (f : IFmt) (sel : Sel) (d a b : Opnd) (q : XQ) (s : State) : Res :=
  opInt 4 f false sel [a, b] d q (fun x y _ => (x * y) / ((2 ^ f.width : Nat) : Int)) s
def execVmad (f : IFmt) (sat : Bool) (d a b c : Opnd) (q : XQ) (s : State) : Res :=
  opInt 4 f sat .none [a, b, c] d q (fun x y z => x * y + z) s
def execVabs (f : IFmt) (sat : Bool) (sel : Sel) (d a : Opnd) (q : XQ) (s : State) : Res :=
  opInt 2 f sat sel [a] d q (fun x _ _ => if x < 0 then -x else x) s
def execVneg (f : IFmt) (sat : Bool) (sel : Sel) (d a : Opnd) (q : XQ) (s : State) : Res :=
  opInt 2 f sat sel [a] d q (fun x _ _ => -x) s
def execVmin (f : IFmt) (sel : Sel) (d a b : Opnd) (q : XQ) (s : State) : Res :=
  opInt 2 f false sel [a, b] d q (fun x y _ => min x y) s
def execVmax (f : IFmt) (sel : Sel) (d a b : Opnd) (q : XQ) (s : State) : Res :=
  opInt 2 f false sel [a, b] d q (fun x y _ => max x y) s
def execVand (d a b : Opnd) (q : XQ) (s : State) : Res := opLanes 2 [a, b] d q (fun x y => (x &&& y, 0)) s
def execVor (d a b : Opnd) (q : XQ) (s : State) : Res := opLanes 2 [a, b] d q (fun x y => (x ||| y, 0)) s
def execVxor (d a b : Opnd) (q : XQ) (s : State) : Res := opLanes 2 [a, b] d q (fun x y => (x ^^^ y, 0)) s
def execVandn (d a b : Opnd) (q : XQ) (s : State) : Res := opLanes 2 [a, b] d q (fun x y => (x &&& ~~~ y, 0)) s

/-- VSHL (R142). -/
def execVshl (f : IFmt) (sel : Sel) (d a b : Opnd) (q : XQ) (s : State) : Res :=
  opElems 2 f.width sel [a, b] d q (fun x m _ => (if f.width ≤ m then 0 else (x * 2 ^ m) % 2 ^ f.width, 0)) s
/-- VSHR (R142). -/
def execVshr (f : IFmt) (sel : Sel) (d a b : Opnd) (q : XQ) (s : State) : Res :=
  opElems 2 f.width sel [a, b] d q (fun x m _ => (if f.width ≤ m then 0 else x / 2 ^ m, 0)) s
/-- VSRA (R142): a shift of the width or more leaves copies of the top bit. -/
def execVsra (f : IFmt) (sel : Sel) (d a b : Opnd) (q : XQ) (s : State) : Res :=
  opElems 2 f.width sel [a, b] d q (fun x m _ =>
    (zextI (sextN x f.width / ((2 ^ (min m f.width) : Nat) : Int)) f.width, 0)) s

/-- A lane comparison (R144, R152): the predicate holds for every element of the lane. -/
def opCompare (bound w : Nat) (sel : Sel) (kd : BitVec 3) (a b : Opnd) (q : XQ) (p : Nat → Nat → Bool) (s : State) : Res :=
  opXk bound [a, b] kd q (fun _ l =>
    let n := 32 / w
    (ofMask fun j => (List.range n).all fun e =>
      p (elem w (srcAt l 0) (n * j + selA sel e)) (elem w (srcAt l 1) (n * j + selB sel e)), 0)) s

def execVcmp (f : IFmt) (p : Pred) (sel : Sel) (kd : BitVec 3) (a b : Opnd) (q : XQ) (s : State) : Res :=
  opCompare 2 f.width sel kd a b q (fun x y => predHolds p (some (compare (readInt f x) (readInt f y)))) s

/-- VSEL (R145): writes all 64 lanes; lane j consumes the lane it takes. -/
def execVsel (d a b : Opnd) (q : XQ) (s : State) : Res :=
  opX 2 [a, b] d q (fun _ l kn =>
    let c : Consumes := fun i j => if maskBit kn j == (i == 0) then [j] else []
    deliverLanes l c (BitVec.allOnes 64) (ofLanes fun j => if maskBit kn j then lane (srcAt l 0) j else lane (srcAt l 1) j) 0) s

/-- VSAT (R146): the range of a format, in a 32-bit lane. -/
def execVsat (f : IFmt) (d a : Opnd) (q : XQ) (s : State) : Res :=
  opLanes 2 [a] d q (fun x _ =>
    let y := clampI x.toInt (intRange f).1 (intRange f).2
    (BitVec.ofInt 32 y, flagIf (y != x.toInt) flagSAT)) s

/-! ## Ternary instructions (R147, R148) -/

/-- The eight nibbles of a decoded ternary byte. -/
def unpackTrits (v : Nat) : Nat :=
  if 243 ≤ v then 0
  else packN 4 (fun i => if i < 5 then (match tritDigit v i with | 1 => 1 | 2 => 15 | _ => 0) else 0) 8

def execTunp (sel : Sel) (d a : Opnd) (q : XQ) (s : State) : Res :=
  opLanes 3 [a] d q (fun x _ =>
    let v := bits x.toNat (8 * selA sel 0 + 7) (8 * selA sel 0)
    (BitVec.ofNat 32 (unpackTrits v), flagIf (243 ≤ v) flagILT)) s

/-- The trit of a nibble; nibbles other than 0, 1 and 15 count as 0 and set ILT (R148). -/
def nibbleTrit (x : Nat) : Int := if x = 1 then 1 else if x = 15 then -1 else 0

/-- VTACC (R148): the element positions that sel names, or all eight. -/
def execVtacc (sat : Bool) (sel : Sel) (d a b : Opnd) (q : XQ) (s : State) : Res :=
  opX 2 [a, b, d] d q (fun _ l active =>
    let es := match sel with
      | .a i => [i.toNat]
      | _ => List.range 8
    let nib (j e : Nat) : Nat := elem 4 (srcAt l 0) (8 * j + e)
    let f (j : Nat) : Nat × Flags :=
      let x := (lane (srcAt l 2) j).toInt + (es.foldl (fun t e => t + nibbleTrit (nib j e)) 0) * (lane (srcAt l 1) j).toInt
      let ill := es.any fun e => !([0, 1, 15].contains (nib j e))
      let r := deliverInt .i32 sat x
      (r.1, r.2 ||| flagIf ill flagILT)
    deliverLanes l sameLane active (ofElems 32 fun j => (f j).1) (ofFlags fun j => if maskBit active j then (f j).2 else 0)) s

/-! ## Floating-point instructions (R149 to R153) -/

def execVfadd (f : FFmt) (sel : Sel) (d a b : Opnd) (q : XQ) (s : State) : Res := opFloat 5 f sel [a, b] d q (fun x y _ => fadd f x y) s
def execVfsub (f : FFmt) (sel : Sel) (d a b : Opnd) (q : XQ) (s : State) : Res := opFloat 5 f sel [a, b] d q (fun x y _ => fsub f x y) s
def execVfmul (f : FFmt) (sel : Sel) (d a b : Opnd) (q : XQ) (s : State) : Res := opFloat 5 f sel [a, b] d q (fun x y _ => fmul f x y) s
def execVfma (f : FFmt) (d a b c : Opnd) (q : XQ) (s : State) : Res := opFloat 5 f .none [a, b, c] d q (fun x y z => ffma f false x y z) s
def execVfnma (f : FFmt) (d a b c : Opnd) (q : XQ) (s : State) : Res := opFloat 5 f .none [a, b, c] d q (fun x y z => ffma f true x y z) s
def execVfdiv (f : FFmt) (sel : Sel) (d a b : Opnd) (q : XQ) (s : State) : Res := opFloat 12 f sel [a, b] d q (fun x y _ => fdiv f x y) s
def execVrcp (f : FFmt) (sel : Sel) (d a : Opnd) (q : XQ) (s : State) : Res := opFloat 12 f sel [a] d q (fun x _ _ => frcp f x) s
def execVrsq (f : FFmt) (sel : Sel) (d a : Opnd) (q : XQ) (s : State) : Res := opFloat 12 f sel [a] d q (fun x _ _ => frsq f x) s
def execVexp2 (f : FFmt) (sel : Sel) (d a : Opnd) (q : XQ) (s : State) : Res := opFloat 12 f sel [a] d q (fun x _ _ => fexp2 f x) s
def execVlog2 (f : FFmt) (sel : Sel) (d a : Opnd) (q : XQ) (s : State) : Res := opFloat 12 f sel [a] d q (fun x _ _ => flog2 f x) s
def execVfmin (f : FFmt) (sel : Sel) (d a b : Opnd) (q : XQ) (s : State) : Res :=
  opElems 5 f.width sel [a, b] d q (fun x y _ => (fpick f false x y, 0)) s
def execVfmax (f : FFmt) (sel : Sel) (d a b : Opnd) (q : XQ) (s : State) : Res :=
  opElems 5 f.width sel [a, b] d q (fun x y _ => (fpick f true x y, 0)) s
def execVfcmp (f : FFmt) (p : Pred) (sel : Sel) (kd : BitVec 3) (a b : Opnd) (q : XQ) (s : State) : Res :=
  opCompare 5 f.width sel kd a b q (fun x y => predHolds p (fcompare f x y)) s
def execVfcls (f : FFmt) (sel : Sel) (d a : Opnd) (q : XQ) (s : State) : Res :=
  opElems 5 f.width sel [a] d q (fun x _ _ => (fclass f x, 0)) s

/-! ## Conversions (R154 to R157) -/

/-- Convert the elements of each lane from width ws to width wd (R155): without a selector, element e of the source to element e; with
one, the selected element to element 0; zeros elsewhere. -/
def opConvert (ws wd : Nat) (sel : Sel) (d a : Opnd) (q : XQ) (cvt : Nat → Nat × Flags) (s : State) : Res :=
  opX 3 [a] d q (fun _ l active =>
    let ps := 32 / ws
    let r := elementwise wd active fun j e =>
      match sel with
      | .a i => if e = 0 then cvt (elem ws (srcAt l 0) (ps * j + i.toNat)) else (0, 0)
      | _ => if e < ps then cvt (elem ws (srcAt l 0) (ps * j + e)) else (0, 0)
    deliverLanes l sameLane active r.1 r.2) s

/-- Float to float: the same format keeps the value and canonicalises NaN (R154). -/
def cvtFF (df sf : FFmt) (r : Round) (sat : Bool) (x : Nat) : Nat × Flags :=
  if df = sf then (match decodeF sf x with
    | .nan | .nar => (canonNaN df, 0)
    | _ => (x, 0))
  else deliverVal df r sat (decodeF sf x)

def execVcvtFloatToFloat (df sf : FFmt) (r : Round) (sat : Bool) (sel : Sel) (d a : Opnd) (q : XQ) (s : State) : Res :=
  opConvert sf.width df.width sel d a q (cvtFF df sf r sat) s
def execVcvtFloatToInteger (df : IFmt) (sf : FFmt) (r : Round) (sel : Sel) (d a : Opnd) (q : XQ) (s : State) : Res :=
  opConvert sf.width df.width sel d a q (fun x => floatToInt df r (decodeF sf x)) s
def execVcvtIntegerToFloat (df : FFmt) (sf : IFmt) (r : Round) (sat : Bool) (sel : Sel) (d a : Opnd) (q : XQ) (s : State) : Res :=
  opConvert sf.width df.width sel d a q (fun x => intToFloat df r sat (readInt sf x)) s
def execVcvtIntegerToInteger (df sf : IFmt) (sat : Bool) (sel : Sel) (d a : Opnd) (q : XQ) (s : State) : Res :=
  opConvert sf.width df.width sel d a q (fun x => deliverInt df sat (readInt sf x)) s

/-- The float source format of VPACK and destination format of VUNPK (R156, R157). -/
def widerF : FFmt → FFmt
  | .bf16 | .f16 => .f32
  | .fp8e4 | .fp8e5 | .mk8 => .f16
  | .fp4 => .fp8e4
  | .f32 => .f32

/-- One element of VPACK. -/
def packElem (f : DFmt) (r : Round) (x : Nat) : Nat × Flags :=
  match f with
  | .int i => (x % 2 ^ i.width, 0)
  | .fp g => deliverVal g r false (decodeF (widerF g) x)

/-- One element of VUNPK: exact. -/
def unpackElem (f : DFmt) (x : Nat) : Nat :=
  match f with
  | .int i => if i.signed then zextI (sextN x i.width) (2 * i.width) else x
  | .fp g => (deliverVal (widerF g) .rne false (decodeF g x)).1

def execVpack (f : DFmt) (r : Round) (d a b : Opnd) (q : XQ) (s : State) : Res :=
  opX 3 [a, b] d q (fun _ l active =>
    let w := f.width
    let p := 32 / w
    let res := elementwise w active fun j e =>
      let n := p * j + e
      packElem f r (if n < 32 * p then elem (2 * w) (srcAt l 0) n else elem (2 * w) (srcAt l 1) (n - 32 * p))
    let c : Consumes := fun i j =>
      if i = 0 then (if j < 32 then [2 * j, 2 * j + 1] else []) else (if j < 32 then [] else [2 * j - 64, 2 * j - 63])
    deliverLanes l c active res.1 res.2) s

def execVunpk (f : DFmt) (d a : Opnd) (q : XQ) (s : State) : Res :=
  opX 3 [a] d q (fun _ l active =>
    deliverLanes l (fun _ j => [j / 2]) active (ofElems (2 * f.width) fun n => unpackElem f (elem f.width (srcAt l 0) n)) 0) s

/-! ## Codebooks (R158 to R160) -/

/-- The first granule of codebook table t (R158). -/
def tableGranule (t : Nat) : Nat := 65520 + 2 * t

/-- Note an access to granules of bank 7 that is addressed without a view, when bank 7 is outside the footprint (R158, R176). -/
def noteBank7 (now : Nat) (x : Ctx) (g : Nat) (read : Bool) : Ctx :=
  if bitOf (footprint x).toNat 7 then x else recordOor now x (16 * g) read false 0

/-- Entry i of table t as X reads it. -/
def tableEntry (x : Ctx) (t i free : Nat) : Nat :=
  if bitOf (footprint x).toNat 7 then elem 16 (((xGranule x (tableGranule t + i / 8) (free + i / 8)).setWidth 2048)) (i % 8) else 0

/-- CBLD (R159): lanes 0 to 7 become table t. -/
def execCbld (t : BitVec 3) (a : Opnd) (q : XQ) (s : State) : Res :=
  let x := xContext s
  if !queuesReady x [a] then block .queue s
  else
    let read := readSrcs s x [a] s.freeCtr
    let v := srcAt read 0
    let mz := (match read[0]? with | some r => r.lost | none => 0) &&& 0xFF
    let x := noteBank7 s.cycle (noteX s x a true) (tableGranule t.toNat) false
    let x := popQueues x [a]
    let all : Granule := BitVec.allOnes 128
    let writes := if bitOf (footprint x).toNat 7 then
        [(tableGranule t.toNat, all, vecGranule v 0), (tableGranule t.toNat + 1, all, vecGranule v 1)] else []
    let fl := if q.nf then 0 else ofFlags fun j => flagIf (maskBit mz j) flagMZ
    let r : XResult := { due := (curSeq s).clock + 3, writes := writes, k := none, orFlags := fl, setFlags := none, push := none }
    .next (takeFree (finish 2 (spacing q) (setCurCtx s { x with xres := x.xres ++ [r] })) 256)

/-- CBX (R160): every result lane consumes lanes 0 to 11, or 0 to 15. Where both its table and its direct source are out of range (SRC 0 for both), the
table counts as the first access (log entry 14). -/
def execCbx (w : CbBits) (t : BitVec 3) (d a : Opnd) (q : XQ) (s : State) : Res :=
  if !queuesReady (xContext s) [a] || !destReady (xContext s) d then block .queue s
  else
    opX 3 [a] d q (fun s' l active =>
      let n := match w with
        | .three => 12
        | .four => 16
      let idx (i : Nat) : Nat := match w with
        | .three => ((srcAt l 0).toNat >>> (3 * i)) % 8
        | .four => elem 4 (srcAt l 0) i
      deliverLanes l (fun _ _ => List.range n) active
        (ofElems 16 fun i => tableEntry (curCtx s') t.toNat (idx i) (s.freeCtr + 80)) 0)
      (setCurCtx s (noteBank7 s.cycle (curCtx s) (tableGranule t.toNat) true))

/-! ## Moves and permutes (R161 to R166) -/

def execVmov (d a : Opnd) (q : XQ) (s : State) : Res :=
  opX 2 [a] d q (fun _ l active => deliverLanes l sameLane active (srcAt l 0) 0) s
def execVbcst (d : Opnd) (a : Reg) (q : XQ) (s : State) : Res :=
  opX 2 [] d q (fun s' _ active => deliverLanes [] sameLane active (ofLanes fun _ => (rd s' a).setWidth 32) 0) s
def execVidx (d : Opnd) (q : XQ) (s : State) : Res :=
  opX 2 [] d q (fun _ _ active => deliverLanes [] sameLane active (ofLanes fun j => BitVec.ofNat 32 j) 0) s
def execVperm (d a b : Opnd) (q : XQ) (s : State) : Res :=
  opX 4 [a, b] d q (fun _ l active =>
    let idx (j : Nat) : Nat := (lane (srcAt l 1) j).toNat
    let c : Consumes := fun i j => if i = 1 then [j] else if idx j < 64 then [idx j] else []
    deliverLanes l c active (ofLanes fun j => if idx j < 64 then lane (srcAt l 0) (idx j) else 0) 0) s
def execVrot (d a : Opnd) (b : Reg) (q : XQ) (s : State) : Res :=
  opX 4 [a] d q (fun s' l active =>
    let r := (rd s' b).toNat % 64
    deliverLanes l (fun _ j => [(j + r) % 64]) active (ofLanes fun j => lane (srcAt l 0) ((j + r) % 64)) 0) s

/-- The granule that holds lane j of the vector operand with index i, and what RSOOR records when it is out of range (R164, R165). -/
def laneGranule (x : Ctx) (i j : Nat) : Option Nat × Option (Nat × Bool) :=
  if min (fieldOf x.vview 32 11) 1024 ≤ i then (none, some (i, true))
  else
    let g := fieldOf x.vview 0 16 + fieldOf x.vview 16 16 * i + j / 4
    if 65536 ≤ g || !bitOf (footprint x).toNat (bankOfGranule g) then (none, some (16 * g, false)) else (some g, none)

/-- The lowest out-of-range access among the active lanes: an index failure first (log entry 14). -/
def lanesOor (x : Ctx) (active : Mask) (idx : Nat → Nat) (read : Bool) : Option (Nat × Bool × Bool) :=
  let bad := (List.range 64).filterMap fun j => if maskBit active j then (laneGranule x (idx j) j).2 else none
  bad.foldl (fun m (a, lim) => match m with
    | none => some (a, lim, read)
    | some (b, l, r) => if (lim && !l) || (lim == l && a < b) then some (a, lim, r) else some (b, l, r)) none

/-- VGTH (R164): consumes b lane j only. -/
def execVgth (d a b : Opnd) (q : XQ) (s : State) : Res :=
  opX 6 [b] d q (fun s' l active =>
    let x := curCtx s'
    let idx (j : Nat) : Nat := opIndex s' a + (lane (srcAt l 0) j).toNat
    let data := ofLanes fun j => match (laneGranule x (idx j) j).1 with
      | some g => BitVec.ofNat 32 ((xGranule x g (s.freeCtr + 100 + j)).toNat >>> (32 * (j % 4)))
      | none => 0
    { deliverLanes l sameLane active data 0 with oor := lanesOor x active idx true }) s

/-- VSCT (R165): a lane whose offset came from an invalid queue lane is not written. -/
def execVsct (d a b : Opnd) (q : XQ) (s : State) : Res :=
  let x := xContext s
  if !queuesReady x [a, b] then block .queue s
  else
    let read := readSrcs s x [a, b] s.freeCtr
    let active := readMask x q.k.toNat (s.freeCtr + 64)
    let lostB := match read[1]? with
      | some r => ~~~ r.valid
      | none => 0
    let lanes := active &&& ~~~ lostB
    let idx (j : Nat) : Nat := opIndex s d + (lane (srcAt read 1) j).toNat
    let writes := (List.range 64).filterMap fun j =>
      if maskBit lanes j then
        match (laneGranule x (idx j) j).1 with
        | some g => some (g, byteMask (4 * (j % 4)) 4, BitVec.ofNat 128 ((lane (srcAt read 0) j).toNat <<< (32 * (j % 4))))
        | none => none
      else none
    let mz := active &&& lostLanes read sameLane
    let fl := if q.nf then 0 else ofFlags fun j => flagIf (maskBit mz j) flagMZ
    let x := noteAll s x [a, b] none (lanesOor x lanes idx false)
    let x := popQueues x [a, b]
    let r : XResult := { due := (curSeq s).clock + 6, writes := writes, k := none, orFlags := fl, setFlags := none, push := none }
    .next (takeFree (finish 2 (spacing q) (setCurCtx s { x with xres := x.xres ++ [r] })) 256)

/-- VXTR (R166). -/
def execVxtr (f : IFmt) (d : Reg) (a : Opnd) (b : Reg) (q : XQ) (s : State) : Res :=
  opXg 2 [a] d q (fun s' l _ =>
    let n := (rd s' b).toNat
    let p := 32 / f.width
    if 64 * p ≤ n then (0, 0)
    else
      let lost := match l[0]? with
        | some r => maskBit r.lost (n / p)
        | none => false
      (wordOfInt (readInt f (elem f.width (srcAt l 0) n)), ofMask fun j => j == n / p && lost)) s

/-- VINS (R166): only the element's bits change. -/
def execVins (f : IFmt) (d : Opnd) (a b : Reg) (q : XQ) (s : State) : Res :=
  opX 2 [] d q (fun s' _ active =>
    let n := (rd s' b).toNat
    let p := 32 / f.width
    let hit := n < 64 * p && maskBit active (n / p)
    let only (v : Nat) : Vec := if hit then BitVec.ofNat 2048 ((v % 2 ^ f.width) <<< (f.width * n)) else 0
    { data := only (rd s' a).toNat, flags := 0, bits := only (2 ^ f.width - 1), lanes := active, valid := BitVec.allOnes 64, mz := 0,
      oor := none }) s

/-! ## Reductions, rescaling and masks (R167 to R172) -/

/-- Elements of a list added in pairs, n times (R132). -/
def sumTree (add : Nat × Flags → Nat × Flags → Nat × Flags) : Nat → List (Nat × Flags) → List (Nat × Flags)
  | 0, l => l
  | n + 1, l => sumTree add n (pairs l)
where
  pairs : List (Nat × Flags) → List (Nat × Flags)
    | a :: b :: t => add a b :: pairs t
    | l => l

/-- FP32 addition of two codes with the flags of both (R132). -/
def addF32 (x y : Nat × Flags) : Nat × Flags :=
  let r := fadd .f32 (decodeF .f32 x.1) (decodeF .f32 y.1)
  (r.1, x.2 ||| y.2 ||| r.2)

/-- The lowest lane of a mask. -/
def lowestLane (k : Mask) : Option Nat := firstIndex (maskBit k) 64

/-- A reduction's delivery: the value in every lane whatever k, flags in the lowest active lane (R167). -/
def deliverReduced (srcs : List Src) (active : Mask) (data : Vec) (fl : Flags) : XOut :=
  { data := data, flags := ofFlags fun j => if lowestLane active == some j then fl else 0, bits := BitVec.allOnes 2048,
    lanes := BitVec.allOnes 64, valid := BitVec.allOnes 64, mz := active &&& lostLanes srcs sameLane, oor := none }

/-- Element numbers that participate: active and valid lanes. -/
def participates (srcs : List Src) (active : Mask) (p n : Nat) : Bool :=
  maskBit active (n / p) && maskBit (match srcs[0]? with | some r => r.valid | none => 0) (n / p)

/-- VRSUM (R132, R167). -/
def execVrsum (f : DFmt) (d a : Opnd) (q : XQ) (s : State) : Res :=
  opX 8 [a] d q (fun _ l active =>
    let w := f.width
    let p := 32 / w
    let on := participates l active p
    match f with
    | .fp g =>
      let leaves := (List.range (64 * p)).map fun n =>
        if on n then ((deliverVal .f32 .rne false (decodeF g (elem w (srcAt l 0) n))).1, (0 : Flags)) else (0, 0)
      let top := (sumTree addF32 (6 + Nat.log2 p) leaves).headD (0, 0)
      let r := cvtFF g .f32 .rne false top.1
      deliverReduced l active (ofElems w fun _ => r.1) (top.2 ||| r.2)
    | .int i =>
      let x := (List.range (64 * p)).foldl (fun t n => if on n then t + readInt i (elem w (srcAt l 0) n) else t) 0
      let r := deliverInt (if i.signed then .i32 else .n32) true x
      deliverReduced l active (ofElems 32 fun _ => r.1) r.2) s

/-- What VRMAX and VRMIN give when no element participates (R168). -/
def emptyExtreme (f : DFmt) (largest : Bool) : Nat :=
  match f with
  | .fp g => (deliverVal g .rne false (.inf largest)).1
  | .int i => zextI (if largest then (intRange i).1 else (intRange i).2) 32

/-- VRMAX and VRMIN (R168). -/
def opExtreme (largest : Bool) (f : DFmt) (d a : Opnd) (q : XQ) (s : State) : Res :=
  opX 8 [a] d q (fun _ l active =>
    let w := f.width
    let p := 32 / w
    let xs := ((List.range (64 * p)).filter (participates l active p)).map fun n => elem w (srcAt l 0) n
    match f, xs with
    | .fp _, [] => deliverReduced l active (ofElems w fun _ => emptyExtreme f largest) 0
    | .fp g, x :: t =>
      let r := t.foldl (fpick g largest) x
      deliverReduced l active (ofElems w fun _ => if isNaN (decodeF g r) then canonNaN g else r) 0
    | .int _, [] => deliverReduced l active (ofElems 32 fun _ => emptyExtreme f largest) 0
    | .int i, x :: t =>
      let r := t.foldl (fun m y => if largest then max m (readInt i y) else min m (readInt i y)) (readInt i x)
      deliverReduced l active (ofElems 32 fun _ => zextI r 32) 0) s

def execVrmax (f : DFmt) (d a : Opnd) (q : XQ) (s : State) : Res := opExtreme true f d a q s
def execVrmin (f : DFmt) (d a : Opnd) (q : XQ) (s : State) : Res := opExtreme false f d a q s

/-- VMCNT (R169). -/
def execVmcnt (d : Reg) (ka : BitVec 3) (q : XQ) (s : State) : Res :=
  opXg 8 [] d q (fun s' _ kn =>
    (BitVec.ofNat 64 (popCount (readMask (curCtx s') ka.toNat (s.freeCtr + 65) &&& kn).toNat 64), 0)) s

/-- VMSCL (R170). -/
def execVmscl (f : FFmt) (sel : Sel) (d a b : Opnd) (q : XQ) (s : State) : Res :=
  opX 5 [a, b] d q (fun _ l active =>
    let w := f.width
    let p := 32 / w
    let count (j : Nat) : Nat := bits (lane (srcAt l 1) j).toNat 15 0
    let r := elementwise w active fun j e =>
      if count j = 0 then (0, flagMZ)
      else fscale f (decodeF f (elem w (srcAt l 0) (p * j + selA sel e))) (bits (lane (srcAt l 1) j).toNat 31 16) (count j)
    deliverLanes l sameLane active r.1 r.2) s

/-- KOP (R171). -/
def kopBits (op : KOpKind) (x y : Mask) : Mask :=
  match op with
  | .and => x &&& y
  | .or => x ||| y
  | .xor => x ^^^ y
  | .andn => x &&& ~~~ y
  | .orn => x ||| ~~~ y
  | .xnor => ~~~ (x ^^^ y)

def execKop (op : KOpKind) (kd ka kb : BitVec 3) (q : XQ) (s : State) : Res :=
  opXk 1 [] kd q (fun s' _ =>
    (kopBits op (readMask (curCtx s') ka.toNat (s.freeCtr + 65)) (readMask (curCtx s') kb.toNat (s.freeCtr + 66)), 0)) s

/-- KSET (R172). -/
def execKset (kd : BitVec 3) (a : Reg) (q : XQ) (s : State) : Res := opXk 1 [] kd q (fun s' _ => (rd s' a, 0)) s

/-- X_RESULT_LAND (R68): the oldest result of a core lands, X's clock having reached its bound. -/
def execXResultLand (core : Nat) (s : State) : Res :=
  let x := getCtx s core
  match x.xres with
  | [] => .next s
  | r :: _ =>
    let t := max x.seqX.clock r.due
    let y := landBy t x
    .next (setCtx s core { y with seqX := { y.seqX with clock := t } })

end Sys2Proof.Machine
end

