-- ==== Sys2Proof/Machine/Dispatch.lean ====
section
/-! DEFINITION. The dispatch: one arm per instruction, one meaning per arm. -/

namespace Sys2Proof.Machine

/-- The effect of one instruction, or of one indivisible step of another agent, on the state. -/
def exec (i : Instr) (s : State) : Host.Outcome State Fault Refusal :=
  match i with
  | .nop => Sys2Proof.Machine.execNop s
  | .add d a b => Sys2Proof.Machine.execAdd d a b s
  | .sub d a b => Sys2Proof.Machine.execSub d a b s
  | .mul d a b => Sys2Proof.Machine.execMul d a b s
  | .mulh d a b => Sys2Proof.Machine.execMulh d a b s
  | .div d a b => Sys2Proof.Machine.execDiv d a b s
  | .rem d a b => Sys2Proof.Machine.execRem d a b s
  | .andr d a b => Sys2Proof.Machine.execAndr d a b s
  | .orr d a b => Sys2Proof.Machine.execOrr d a b s
  | .xorr d a b => Sys2Proof.Machine.execXorr d a b s
  | .shl d a b => Sys2Proof.Machine.execShl d a b s
  | .shr d a b => Sys2Proof.Machine.execShr d a b s
  | .sra d a b => Sys2Proof.Machine.execSra d a b s
  | .minr d a b => Sys2Proof.Machine.execMinr d a b s
  | .maxr d a b => Sys2Proof.Machine.execMaxr d a b s
  | .seq d a b => Sys2Proof.Machine.execSeq d a b s
  | .slt d a b => Sys2Proof.Machine.execSlt d a b s
  | .sltu d a b => Sys2Proof.Machine.execSltu d a b s
  | .csel d a b => Sys2Proof.Machine.execCsel d a b s
  | .addx d a b sq => Sys2Proof.Machine.execAddx d a b sq s
  | .addi d a imm => Sys2Proof.Machine.execAddi d a imm s
  | .andi d a imm => Sys2Proof.Machine.execAndi d a imm s
  | .ori d a imm => Sys2Proof.Machine.execOri d a imm s
  | .xori d a imm => Sys2Proof.Machine.execXori d a imm s
  | .shli d a sh => Sys2Proof.Machine.execShli d a sh s
  | .shri d a sh => Sys2Proof.Machine.execShri d a sh s
  | .srai d a sh => Sys2Proof.Machine.execSrai d a sh s
  | .slti d a imm => Sys2Proof.Machine.execSlti d a imm s
  | .lui d imm => Sys2Proof.Machine.execLui d imm s
  | .beq a b off => Sys2Proof.Machine.execBeq a b off s
  | .bne a b off => Sys2Proof.Machine.execBne a b off s
  | .blt a b off => Sys2Proof.Machine.execBlt a b off s
  | .bge a b off => Sys2Proof.Machine.execBge a b off s
  | .bltu a b off => Sys2Proof.Machine.execBltu a b off s
  | .bgeu a b off => Sys2Proof.Machine.execBgeu a b off s
  | .jmp off => Sys2Proof.Machine.execJmp off s
  | .jal off => Sys2Proof.Machine.execJal off s
  | .jr a => Sys2Proof.Machine.execJr a s
  | .loop lc a body => Sys2Proof.Machine.execLoop lc a body s
  | .loopi lc cnt body => Sys2Proof.Machine.execLoopi lc cnt body s
  | .lbrk lc => Sys2Proof.Machine.execLbrk lc s
  | .mfs d sr => Sys2Proof.Machine.execMfs d sr s
  | .mts a sr => Sys2Proof.Machine.execMts a sr s
  | .bankWake core => Sys2Proof.Machine.execBankWake core s
  | .waitc imm => Sys2Proof.Machine.execWaitc imm s
  | .trap imm => Sys2Proof.Machine.execTrap imm s
  | .rte => Sys2Proof.Machine.execRte s
  | .brk imm => Sys2Proof.Machine.execBrk imm s
  | .idle => Sys2Proof.Machine.execIdle s
  | .tlbi a b => Sys2Proof.Machine.execTlbi a b s
  | .tlbs d a => Sys2Proof.Machine.execTlbs d a s
  | .cswap a => Sys2Proof.Machine.execCswap a s
  | .scalarDivideComplete core sq => Sys2Proof.Machine.execScalarDivideComplete core sq s
  | .vadd f sat sel d a b q => Sys2Proof.Machine.execVadd f sat sel d a b q s
  | .vsub f sat sel d a b q => Sys2Proof.Machine.execVsub f sat sel d a b q s
  | .vmul f sat sel d a b q => Sys2Proof.Machine.execVmul f sat sel d a b q s
  | .vmulh f sel d a b q => Sys2Proof.Machine.execVmulh f sel d a b q s
  | .vmad f sat d a b c q => Sys2Proof.Machine.execVmad f sat d a b c q s
  | .vabs f sat sel d a q => Sys2Proof.Machine.execVabs f sat sel d a q s
  | .vneg f sat sel d a q => Sys2Proof.Machine.execVneg f sat sel d a q s
  | .vmin f sel d a b q => Sys2Proof.Machine.execVmin f sel d a b q s
  | .vmax f sel d a b q => Sys2Proof.Machine.execVmax f sel d a b q s
  | .vand d a b q => Sys2Proof.Machine.execVand d a b q s
  | .vor d a b q => Sys2Proof.Machine.execVor d a b q s
  | .vxor d a b q => Sys2Proof.Machine.execVxor d a b q s
  | .vandn d a b q => Sys2Proof.Machine.execVandn d a b q s
  | .vshl f sel d a b q => Sys2Proof.Machine.execVshl f sel d a b q s
  | .vshr f sel d a b q => Sys2Proof.Machine.execVshr f sel d a b q s
  | .vsra f sel d a b q => Sys2Proof.Machine.execVsra f sel d a b q s
  | .vcmp f p sel kd a b q => Sys2Proof.Machine.execVcmp f p sel kd a b q s
  | .vsel d a b q => Sys2Proof.Machine.execVsel d a b q s
  | .vsat f d a q => Sys2Proof.Machine.execVsat f d a q s
  | .vtacc sat sel d a b q => Sys2Proof.Machine.execVtacc sat sel d a b q s
  | .tunp sel d a q => Sys2Proof.Machine.execTunp sel d a q s
  | .vfadd f sel d a b q => Sys2Proof.Machine.execVfadd f sel d a b q s
  | .vfsub f sel d a b q => Sys2Proof.Machine.execVfsub f sel d a b q s
  | .vfmul f sel d a b q => Sys2Proof.Machine.execVfmul f sel d a b q s
  | .vfma f d a b c q => Sys2Proof.Machine.execVfma f d a b c q s
  | .vfnma f d a b c q => Sys2Proof.Machine.execVfnma f d a b c q s
  | .vfmin f sel d a b q => Sys2Proof.Machine.execVfmin f sel d a b q s
  | .vfmax f sel d a b q => Sys2Proof.Machine.execVfmax f sel d a b q s
  | .vfcmp f p sel kd a b q => Sys2Proof.Machine.execVfcmp f p sel kd a b q s
  | .vfcls f sel d a q => Sys2Proof.Machine.execVfcls f sel d a q s
  | .vfdiv f sel d a b q => Sys2Proof.Machine.execVfdiv f sel d a b q s
  | .vrcp f sel d a q => Sys2Proof.Machine.execVrcp f sel d a q s
  | .vrsq f sel d a q => Sys2Proof.Machine.execVrsq f sel d a q s
  | .vexp2 f sel d a q => Sys2Proof.Machine.execVexp2 f sel d a q s
  | .vlog2 f sel d a q => Sys2Proof.Machine.execVlog2 f sel d a q s
  | .vcvtFloatToFloat df sf r sat sel d a q => Sys2Proof.Machine.execVcvtFloatToFloat df sf r sat sel d a q s
  | .vcvtFloatToInteger df sf r sel d a q => Sys2Proof.Machine.execVcvtFloatToInteger df sf r sel d a q s
  | .vcvtIntegerToFloat df sf r sat sel d a q => Sys2Proof.Machine.execVcvtIntegerToFloat df sf r sat sel d a q s
  | .vcvtIntegerToInteger df sf sat sel d a q => Sys2Proof.Machine.execVcvtIntegerToInteger df sf sat sel d a q s
  | .vpack f r d a b q => Sys2Proof.Machine.execVpack f r d a b q s
  | .vunpk f d a q => Sys2Proof.Machine.execVunpk f d a q s
  | .cbx w t d a q => Sys2Proof.Machine.execCbx w t d a q s
  | .cbld t a q => Sys2Proof.Machine.execCbld t a q s
  | .vmov d a q => Sys2Proof.Machine.execVmov d a q s
  | .vbcst d a q => Sys2Proof.Machine.execVbcst d a q s
  | .vidx d q => Sys2Proof.Machine.execVidx d q s
  | .vperm d a b q => Sys2Proof.Machine.execVperm d a b q s
  | .vrot d a b q => Sys2Proof.Machine.execVrot d a b q s
  | .vgth d a b q => Sys2Proof.Machine.execVgth d a b q s
  | .vsct d a b q => Sys2Proof.Machine.execVsct d a b q s
  | .vxtr f d a b q => Sys2Proof.Machine.execVxtr f d a b q s
  | .vins f d a b q => Sys2Proof.Machine.execVins f d a b q s
  | .vrsum f d a q => Sys2Proof.Machine.execVrsum f d a q s
  | .vrmax f d a q => Sys2Proof.Machine.execVrmax f d a q s
  | .vrmin f d a q => Sys2Proof.Machine.execVrmin f d a q s
  | .vmcnt d ka q => Sys2Proof.Machine.execVmcnt d ka q s
  | .vmscl f sel d a b q => Sys2Proof.Machine.execVmscl f sel d a b q s
  | .kop op kd ka kb q => Sys2Proof.Machine.execKop op kd ka kb q s
  | .kset kd a q => Sys2Proof.Machine.execKset kd a q s
  | .xResultLand core => Sys2Proof.Machine.execXResultLand core s
  | .sms q => Sys2Proof.Machine.execSms q s
  | .wpw q => Sys2Proof.Machine.execWpw q s
  | .gbar q => Sys2Proof.Machine.execGbar q s
  | .gangBarrierComplete core => Sys2Proof.Machine.execGangBarrierComplete core s
  | .sig a q => Sys2Proof.Machine.execSig a q s
  | .tail q => Sys2Proof.Machine.execTail q s
  | .yld q => Sys2Proof.Machine.execYld q s
  | .qtst d a q => Sys2Proof.Machine.execQtst d a q s
  | .qfwd d a q => Sys2Proof.Machine.execQfwd d a q s
  | .mcfg word a q => Sys2Proof.Machine.execMcfg word a q s
  | .mcfgl a q => Sys2Proof.Machine.execMcfgl a q s
  | .mgo q => Sys2Proof.Machine.execMgo q s
  | .mwait d q => Sys2Proof.Machine.execMwait d q s
  | .aclr d a h q => Sys2Proof.Machine.execAclr d a h q s
  | .aanc d a h q => Sys2Proof.Machine.execAanc d a h q s
  | .rslvCanonical d h q => Sys2Proof.Machine.execRslvCanonical d h q s
  | .rslvToFormat f r sat d a h q => Sys2Proof.Machine.execRslvToFormat f r sat d a h q s
  | .rslvWireForm d a b h q => Sys2Proof.Machine.execRslvWireForm d a b h q s
  | .ascl d a b h q => Sys2Proof.Machine.execAscl d a b h q s
  | .acmp p raw kd a b col q => Sys2Proof.Machine.execAcmp p raw kd a b col q s
  | .amov d a h q => Sys2Proof.Machine.execAmov d a h q s
  | .achk a h q => Sys2Proof.Machine.execAchk a h q s
  | .nestJobStart core => Sys2Proof.Machine.execNestJobStart core s
  | .shardLatchReady core => Sys2Proof.Machine.execShardLatchReady core s
  | .beatLand core => Sys2Proof.Machine.execBeatLand core s
  | .nestJobComplete core => Sys2Proof.Machine.execNestJobComplete core s
  | .resolverJobStart core => Sys2Proof.Machine.execResolverJobStart core s
  | .resolverJobComplete core => Sys2Proof.Machine.execResolverJobComplete core s
  | .ldv d e x => Sys2Proof.Machine.execLdv d e x s
  | .ldq d e x => Sys2Proof.Machine.execLdq d e x s
  | .lds f d e x => Sys2Proof.Machine.execLds f d e x s
  | .gthq d gx e => Sys2Proof.Machine.execGthq d gx e s
  | .prf e => Sys2Proof.Machine.execPrf e s
  | .qpsh d gb gx => Sys2Proof.Machine.execQpsh d gb gx s
  | .qeos d => Sys2Proof.Machine.execQeos d s
  | .strm d e x => Sys2Proof.Machine.execStrm d e x s
  | .loadDataArrive core => Sys2Proof.Machine.execLoadDataArrive core s
  | .tokw d => Sys2Proof.Machine.execTokw d s
  | .hget d gb slot => Sys2Proof.Machine.execHget d gb slot s
  | .hpass d gb gx slot => Sys2Proof.Machine.execHpass d gb gx slot s
  | .hrel slot => Sys2Proof.Machine.execHrel slot s
  | .itin d e => Sys2Proof.Machine.execItin d e s
  | .jcpy d e => Sys2Proof.Machine.execJcpy d e s
  | .jwait d => Sys2Proof.Machine.execJwait d s
  | .rcon d gb gx off slot => Sys2Proof.Machine.execRcon d gb gx off slot s
  | .rqgt d slot => Sys2Proof.Machine.execRqgt d slot s
  | .mca d gb gx => Sys2Proof.Machine.execMca d gb gx s
  | .stv d e x => Sys2Proof.Machine.execStv d e x s
  | .stq d e x => Sys2Proof.Machine.execStq d e x s
  | .sts f d e x => Sys2Proof.Machine.execSts f d e x s
  | .sta raw d gx e => Sys2Proof.Machine.execSta raw d gx e s
  | .sct d gx e => Sys2Proof.Machine.execSct d gx e s
  | .atadd f k sc d gx e => Sys2Proof.Machine.execAtadd f k sc d gx e s
  | .atfadd f k sc d gx e => Sys2Proof.Machine.execAtfadd f k sc d gx e s
  | .atmin f k sc d gx e => Sys2Proof.Machine.execAtmin f k sc d gx e s
  | .atmax f k sc d gx e => Sys2Proof.Machine.execAtmax f k sc d gx e s
  | .atxch f k sc d gx e => Sys2Proof.Machine.execAtxch f k sc d gx e s
  | .atcas f k sc d gx e => Sys2Proof.Machine.execAtcas f k sc d gx e s
  | .fence k sc => Sys2Proof.Machine.execFence k sc s
  | .bfen sc => Sys2Proof.Machine.execBfen sc s
  | .toks sc d => Sys2Proof.Machine.execToks sc d s
  | .rrsv d gb off slot => Sys2Proof.Machine.execRrsv d gb off slot s
  | .rpub d gb gx off slot => Sys2Proof.Machine.execRpub d gb gx off slot s
  | .bmv d e => Sys2Proof.Machine.execBmv d e s
  | .coll d e => Sys2Proof.Machine.execColl d e s
  | .mcj d e => Sys2Proof.Machine.execMcj d e s
  | .writePerformHome core n => Sys2Proof.Machine.execWritePerformHome core n s
  | .remoteUpdateInstall die n => Sys2Proof.Machine.execRemoteUpdateInstall die n s
  | .fullEmptyGrant core => Sys2Proof.Machine.execFullEmptyGrant core s
  | .itineraryStart die part => Sys2Proof.Machine.execItineraryStart die part s
  | .itineraryEntryIssue die part => Sys2Proof.Machine.execItineraryEntryIssue die part s
  | .itineraryGranuleLand die part entry granule => Sys2Proof.Machine.execItineraryGranuleLand die part entry granule s
  | .itineraryEntryComplete die part entry => Sys2Proof.Machine.execItineraryEntryComplete die part entry s
  | .entryLate die part entry => Sys2Proof.Machine.execEntryLate die part entry s
  | .itineraryEnd die part => Sys2Proof.Machine.execItineraryEnd die part s
  | .multicastDelivery die part group m => Sys2Proof.Machine.execMulticastDelivery die part group m s
  | .copyCardStart die part => Sys2Proof.Machine.execCopyCardStart die part s
  | .copyCardComplete cluster => Sys2Proof.Machine.execCopyCardComplete cluster s
  | .bmvJobComplete core => Sys2Proof.Machine.execBmvJobComplete core s
  | .collectiveAdmission group collid => Sys2Proof.Machine.execCollectiveAdmission group collid s
  | .blockEmit die part => Sys2Proof.Machine.execBlockEmit die part s
  | .switchContribution switch child b => Sys2Proof.Machine.execSwitchContribution switch child b s
  | .switchBlockTimeout switch collid blk => Sys2Proof.Machine.execSwitchBlockTimeout switch collid blk s
  | .endMarker collid member => Sys2Proof.Machine.execEndMarker collid member s
  | .topSwitchTimerStart collid => Sys2Proof.Machine.execTopSwitchTimerStart collid s
  | .resultBlockDelivery part lost put b => Sys2Proof.Machine.execResultBlockDelivery part lost put b s
  | .collectiveComplete die part => Sys2Proof.Machine.execCollectiveComplete die part s
  | .flitLoss core mire retriesExhausted => Sys2Proof.Machine.execFlitLoss core mire retriesExhausted s
  | .remoteAccess exportOff write data => Sys2Proof.Machine.execRemoteAccess exportOff write data s
  | .gathererTakeSlot die part => Sys2Proof.Machine.execGathererTakeSlot die part s
  | .batchCloseDeadline die part => Sys2Proof.Machine.execBatchCloseDeadline die part s
  | .launchRecordTake part stream => Sys2Proof.Machine.execLaunchRecordTake part stream s
  | .streamWaitSatisfied part stream => Sys2Proof.Machine.execStreamWaitSatisfied part stream s
  | .signalRecord part stream => Sys2Proof.Machine.execSignalRecord part stream s
  | .kernelResident part stream => Sys2Proof.Machine.execKernelResident part stream s
  | .earlyResident part stream => Sys2Proof.Machine.execEarlyResident part stream s
  | .placementAsk core => Sys2Proof.Machine.execPlacementAsk core s
  | .cellStart core => Sys2Proof.Machine.execCellStart core s
  | .cellEnd core => Sys2Proof.Machine.execCellEnd core s
  | .retirementEntryRetire core n => Sys2Proof.Machine.execRetirementEntryRetire core n s
  | .kernelComplete part serial => Sys2Proof.Machine.execKernelComplete part serial s
  | .priorityAging part stream => Sys2Proof.Machine.execPriorityAging part stream s
  | .sensorRefresh core temp droop => Sys2Proof.Machine.execSensorRefresh core temp droop s
  | .powerLimitReached idle => Sys2Proof.Machine.execPowerLimitReached idle s
  | .bucketRefill => Sys2Proof.Machine.execBucketRefill s
  | .watchdogExpire core => Sys2Proof.Machine.execWatchdogExpire core s
  | .haltLineArrive part u => Sys2Proof.Machine.execHaltLineArrive part u s
  | .engineStopPoint part u => Sys2Proof.Machine.execEngineStopPoint part u s
  | .haltComplete part => Sys2Proof.Machine.execHaltComplete part s
  | .shadowFlip core => Sys2Proof.Machine.execShadowFlip core s
  | .contextSpillComplete core => Sys2Proof.Machine.execContextSpillComplete core s
  | .contextWake core n => Sys2Proof.Machine.execContextWake core n s
  | .contextResume core n => Sys2Proof.Machine.execContextResume core n s
  | .cxctlPark core => Sys2Proof.Machine.execCxctlPark core s
  | .haltctlResume part => Sys2Proof.Machine.execHaltctlResume part s
  | .haltctlAbandon part => Sys2Proof.Machine.execHaltctlAbandon part s
  | .haltctlParkAll part => Sys2Proof.Machine.execHaltctlParkAll part s
  | .prqPop => Sys2Proof.Machine.execPrqPop s
  | .prqAck tag fail => Sys2Proof.Machine.execPrqAck tag fail s
  | .debugHalt => Sys2Proof.Machine.execDebugHalt s
  | .debugResume => Sys2Proof.Machine.execDebugResume s
  | .debugStep => Sys2Proof.Machine.execDebugStep s
  | .debugEngineStep => Sys2Proof.Machine.execDebugEngineStep s
  | .debugAttach attach => Sys2Proof.Machine.execDebugAttach attach s
  | .dbgdataWrite data => Sys2Proof.Machine.execDbgdataWrite data s
  | .pdbgWrite part ok => Sys2Proof.Machine.execPdbgWrite part ok s
  | .partitionReset part => Sys2Proof.Machine.execPartitionReset part s
  | .prstctlGo part => Sys2Proof.Machine.execPrstctlGo part s
  | .functionLevelReset part => Sys2Proof.Machine.execFunctionLevelReset part s
  | .resetAccessDrain part => Sys2Proof.Machine.execResetAccessDrain part s
  | .pcfgWrite part v => Sys2Proof.Machine.execPcfgWrite part v s
  | .partitionEnable part => Sys2Proof.Machine.execPartitionEnable part s
  | .partitionDestroy part => Sys2Proof.Machine.execPartitionDestroy part s
  | .clusterScrubComplete cluster => Sys2Proof.Machine.execClusterScrubComplete cluster s
  | .exportGrant part unit => Sys2Proof.Machine.execExportGrant part unit s
  | .exportWithdraw part unit => Sys2Proof.Machine.execExportWithdraw part unit s
  | .mgmtMemoryAccess part va write data => Sys2Proof.Machine.execMgmtMemoryAccess part va write data s
  | .invalidatePage asid page => Sys2Proof.Machine.execInvalidatePage asid page s
  | .invalidateAsid asid => Sys2Proof.Machine.execInvalidateAsid asid s
  | .invalidateAll => Sys2Proof.Machine.execInvalidateAll s
  | .invalidateExportUnit unit => Sys2Proof.Machine.execInvalidateExportUnit unit s
  | .invalidationDone => Sys2Proof.Machine.execInvalidationDone s
  | .keyLoad => Sys2Proof.Machine.execKeyLoad s
  | .keyClear => Sys2Proof.Machine.execKeyClear s
  | .cxlRekey frame => Sys2Proof.Machine.execCxlRekey frame s
  | .migrateSwap die => Sys2Proof.Machine.execMigrateSwap die s
  | .migrateOptimistic die => Sys2Proof.Machine.execMigrateOptimistic die s
  | .migrationEnd die => Sys2Proof.Machine.execMigrationEnd die s
  | .llclrHop die part hop => Sys2Proof.Machine.execLlclrHop die part hop s
  | .llclrPace die part => Sys2Proof.Machine.execLlclrPace die part s
  | .streamTailWrite part stream v => Sys2Proof.Machine.execStreamTailWrite part stream v s
  | .streamClearError part stream => Sys2Proof.Machine.execStreamClearError part stream s
  | .gathererConfigWrite die part offset v => Sys2Proof.Machine.execGathererConfigWrite die part offset v s
  | .registerWrite w offset v => Sys2Proof.Machine.execRegisterWrite w offset v s
  | .dieFence die => Sys2Proof.Machine.execDieFence die s
  | .heartbeatTimeout die => Sys2Proof.Machine.execHeartbeatTimeout die s
  | .masterElection => Sys2Proof.Machine.execMasterElection s
  | .perstDeassert images => Sys2Proof.Machine.execPerstDeassert images s
  | .stage1Ready => Sys2Proof.Machine.execStage1Ready s
  | .attestationRequest part nonce peer => Sys2Proof.Machine.execAttestationRequest part nonce peer s
  | .sidebandResetRequest => Sys2Proof.Machine.execSidebandResetRequest s
  | .hostWindowAccess part physical addr write data => Sys2Proof.Machine.execHostWindowAccess part physical addr write data s
  | .joinRecorded core => Sys2Proof.Machine.execJoinRecorded core s
  | .softError site correctable => Sys2Proof.Machine.execSoftError site correctable s
  | .subarrayRefresh die subarray => Sys2Proof.Machine.execSubarrayRefresh die subarray s

end Sys2Proof.Machine
end

