-- ==== Sys2Proof/Machine/Agents.lean ====
section
/-! DEFINITION. Turns: what one turn of a sequencer or of another agent does, and the model's own order when the outside has chosen
nothing (log entry 3). -/

namespace Sys2Proof.Machine

/-- The executing sequencer runs an instruction that it has fetched, or waits for a register; an answer of FAIL to the page request on which it has stopped is the
translation fault at that instruction (R403). -/
def runFetched (s : State) (c : Nat) (sq : Seq) (i : Instr) : Res :=
  if interlocked s c sq i then block .other { s with cur := (c, sq) }
  else if (getSeq s c sq).pageFail then fault causeTranslation (getSeq s c sq).stallAddr.toNat (atIssue s c sq i)
  else exec i (atIssue s c sq i)

/-- After a turn of a sequencer, a step of the debugger may have ended (R424). -/
def endTurn (c : Nat) (sq : Seq) : Res → Res
  | .next s => .next (endStep s c sq)
  | .fault f => .fault f
  | .refused r => .refused r

/-- A turn of a sequencer (R81): its next instruction, the illegal-instruction fault where there is none (R56, R73, R74), or nothing. -/
def seqTurn (s : State) (c : Nat) (sq : Seq) : Res :=
  if !canIssue s c sq then .next { s with cur := (c, sq) }
  else
    endTurn c sq (match fetched s c sq with
      | none => illegal { s with cur := (c, sq) }
      | some i => runFetched s c sq i)

/-- The sequencer whose blocked instruction an event completes: L at a full-empty wait (R230), S at MCJ (R364). -/
def completedBy : Instr → Option (Nat × Seq)
  | .fullEmptyGrant c => some (c, .L)
  | .joinRecorded (.mcj c) => some (c, .S)
  | _ => none

/-- After a step of another agent, a step of the debugger may have ended: the instruction on which the given sequencer was blocked is complete, or the stepped
instruction's results have landed (R424). -/
def agentEnds (s : State) (done : Option (Nat × Seq)) : Res → Res
  | .next t => .next (match done with
    | some (c, q) => if (getSeq s c q).wait == .none then finishStep t else endStep t c q
    | none => finishStep t)
  | .fault f => .fault f
  | .refused r => .refused r

/-- After an event, a step of the debugger may have ended. -/
def eventEnds (s : State) (i : Instr) (r : Res) : Res := agentEnds s (completedBy i) r

/-- The progress of an engine that a stop point ends, by the partition that it works for: once its bound has passed after the halt line was raised, it
makes none (R405, R407, R424). -/
def engineOf (s : State) : Instr → Option Nat
  | .nestJobStart c | .shardLatchReady c | .beatLand c | .resolverJobStart c | .resolverJobComplete c | .bmvJobComplete c => partOfCore s c
  | .copyCardComplete cl => partOfCluster s cl
  | .itineraryStart _ p | .itineraryEntryIssue _ p | .copyCardStart _ p | .blockEmit _ p | .gathererTakeSlot _ p => some p
  | _ => none

/-- Engines of a partition are at their stop points (R405); while the halt lasts they advance only through ESTEP, also with a job that STEP has
enqueued (R424). -/
def enginesStopped (s : State) (p : Nat) : Bool := haltBound s p 320 || let h := (getPart s p).halt; h.raised && h.halted

/-- What the host or the management processor does through the management window, and what the fabric brings through a port: nothing while the window does not
answer (R396, R397), and nothing over ports that stage 1 has not trained (R393, R396). -/
def cannotReach (s : State) : Instr → Bool
  | .prqPop | .prqAck .. | .debugHalt | .debugResume | .debugStep | .debugEngineStep | .debugAttach .. | .dbgdataWrite .. | .prstctlGo .. | .pcfgWrite ..
  | .partitionEnable .. | .partitionDestroy .. | .mgmtMemoryAccess .. | .invalidatePage .. | .invalidateAsid .. | .invalidateAll | .invalidateExportUnit ..
  | .keyLoad | .keyClear | .migrateSwap .. | .migrateOptimistic .. => !mgmtUp s
  | .remoteAccess .. | .resultBlockDelivery .. | .joinRecorded (.far ..) => s.mgmt.ports.isEmpty
  | _ => false

/-- An event that cannot take place now. -/
def eventHeld (s : State) (i : Instr) : Bool := cannotReach s i || match engineOf s i with
  | some p => enginesStopped s p
  | none => false

/-- A turn of another agent. An instruction with an encoding is no event: nothing happens. An event of a unit that the package does not have is the
model's own fault. -/
def eventTurn (s : State) (i : Instr) : Res :=
  if !(encode i).isEmpty then .next s
  else if !i.wf then .fault .noSuchUnit
  else if eventHeld s i then .next s
  else eventEnds s i (exec i s)

/-! ## The model's own order (log entry 3) -/

/-- Steps inside a core, in the order in which the model tries them. -/
def coreSteps (s : State) (c : Nat) : List (State → Res) :=
  let y := getCore s c
  let n := y.ctx.sacc.length + y.tracker.length + y.shadow.sacc.length
  let stopped := match partOfCore s c with
    | some p => enginesStopped s p
    | none => false
  [execXResultLand c, execLoadDataArrive c, fun s => agentEnds s (some (c, .L)) (execFullEmptyGrant c s)] ++ (List.range n).map (execWritePerformHome c) ++
  [execBankWake c, execScalarDivideComplete c .L, execScalarDivideComplete c .X, execScalarDivideComplete c .S,
   execNestJobComplete c, execGangBarrierComplete c, fun s => agentEnds s (some (c, .S)) (execJoinRecorded (.mcj c) s), execCellEnd c] ++
  (if stopped then [] else [execNestJobStart c, execShardLatchReady c, execBeatLand c, execResolverJobStart c, execResolverJobComplete c,
    execBmvJobComplete c]) ++
  (List.range y.tracker.length).map (execRetirementEntryRetire c) ++
  [execShadowFlip c, execContextSpillComplete c] ++ y.parked.map (fun k => execContextResume c k.1) ++ [execCellStart c, execPlacementAsk c]

/-- Steps of a running itinerary: the first granule of each entry that has not landed. -/
def itinerarySteps (s : State) (d p : Nat) : List (State → Res) :=
  match (getLamp s d p).running with
  | none => if enginesStopped s p then [] else [execItineraryStart d p]
  | some it =>
    (it.entries.zipIdx.flatMap fun (e, i) =>
      let land : List (State → Res) := match (List.range (e.size / 16)).find? fun g => !e.landed.contains g with
        | some g => [execItineraryGranuleLand d p i g]
        | none => []
      execEntryLate d p i :: land ++ [execItineraryEntryComplete d p i]) ++
      (if enginesStopped s p then [] else [execItineraryEntryIssue d p]) ++ [execItineraryEnd d p]

/-- Steps of the engines that work for a partition on a die. -/
def engineSteps (s : State) (d p : Nat) : List (State → Res) :=
  itinerarySteps s d p ++ execCollectiveComplete d p ::
    (if enginesStopped s p then [] else [execCopyCardStart d p, execBlockEmit d p, execGathererTakeSlot d p])

/-- Steps of a partition: its halt, its reset, its engines, its streams and kernels. -/
def partitionSteps (s : State) (p : Nat) : List (State → Res) :=
  let x := getPart s p
  if !x.en then []
  else
    (if x.halt.raised && !x.halt.halted then
      ((coresOf s p).flatMap fun c => ([.L, .X, .S].map fun q => execHaltLineArrive p (.seq c q))) ++
      ((haltUnits s p).filter fun u => !isSeqUnit u).map (execEngineStopPoint p) ++ [execHaltComplete p]
    else []) ++
    (if x.reset == .idle then [] else [execResetAccessDrain p]) ++ (diesOf s p).flatMap (engineSteps s · p) ++
    (if enginesStopped s p then [] else (clustersOf s p).map execCopyCardComplete) ++
    (x.streams.flatMap fun (n, _) =>
      [execStreamWaitSatisfied p n, execSignalRecord p n, execKernelResident p n, execEarlyResident p n, execLaunchRecordTake p n]) ++
    x.kernels.map fun k => execKernelComplete p k.serial.toNat

/-- Steps of the package. -/
def packageSteps (s : State) : List (State → Res) :=
  ((List.range 4).flatMap fun d => (List.range (getDie s d).inbox.length).map (execRemoteUpdateInstall d)) ++
  (List.range 8).flatMap (partitionSteps s) ++
  (if s.mgmt.invBusy then [execInvalidationDone] else []) ++ ((List.range 4).filter fun d => (getDie s d).mig.busy).map execMigrationEnd

/-- Steps that the machine's own agents may take, those around a core first. -/
def ownSteps (s : State) (c : Nat) : List (State → Res) := coreSteps s c ++ packageSteps s

/-- Steps inside the other cores that hold anything. -/
def otherSteps (s : State) (c : Nat) : List (State → Res) :=
  (s.cores.filter fun k => k.1 != c).flatMap (fun k => coreSteps s k.1) ++
  (List.range 8).flatMap fun p => if (getPart s p).kernels.isEmpty then [] else (coresOf s p).map execPlacementAsk

/-- The first of a list of steps that changes the state. -/
def firstChange (s : State) : List (State → Res) → Option State
  | [] => none
  | f :: t =>
    match f s with
    | .next s' => if s' = s then firstChange s t else some s'
    | .fault _ | .refused _ => firstChange s t

/-- The sequencer after a given one, in core order with L, X, S in each core. -/
def seqIndex (c : Nat) : Seq → Nat
  | .L => 3 * c
  | .X => 3 * c + 1
  | .S => 3 * c + 2

/-- The sequencer with a given index. -/
def seqOfIndex (n : Nat) : Nat × Seq := (n / 3, if n % 3 = 0 then .L else if n % 3 = 1 then .X else .S)

/-- The next sequencer after the current one that can issue. -/
def nextSeq (s : State) : Option (Nat × Seq) :=
  let here := seqIndex s.cur.1 s.cur.2
  (List.range (3 * Config.cores)).findSome? fun k =>
    let (c, q) := seqOfIndex ((here + 1 + k) % (3 * Config.cores))
    if canIssue s c q then some (c, q) else none

/-- The model's own choice: the current sequencer goes on until it waits, then the agents around its core, then the next sequencer; with
nobody left, the clock ticks. -/
def ownTurn (s : State) : Res :=
  let (c, q) := s.cur
  if canIssue s c q && (getSeq s c q).wait == .none then seqTurn s c q
  else
    match firstChange s (ownSteps s c) with
    | some s' => .next (finishStep s')
    | none =>
      match nextSeq s with
      | some (c', q') =>
        -- every waiting sequencer has been asked once: a cycle passes
        seqTurn (if seqIndex c' q' ≤ seqIndex c q then { s with cycle := s.cycle + 1 } else s) c' q'
      | none => .next (finishStep ((firstChange s (otherSteps s c)).getD { s with cycle := s.cycle + 1 }))

/-- What a turn does: the outside's next choice, or the model's own. -/
def choice (s : State) : Res :=
  match s.agenda with
  | .seq c q :: rest => if isCore c then seqTurn { s with agenda := rest } c q else .fault .noSuchUnit
  | .event i :: rest => eventTurn { s with agenda := rest } i
  | [] => ownTurn s

/-- The cycles that a turn took have passed for every wait on full-empty bits that found its granules not all full (R230). -/
def countWaits (before t : State) : State :=
  if t.cycle = before.cycle || t.clusters.all (·.2.waiters.isEmpty) then t
  else
    { t with clusters := t.clusters.map fun (n, c) =>
        (n, { c with waiters := c.waiters.map fun w =>
          if !(getCluster before n).waiters.contains w || allFull before w.pieces then w else { w with unfull := w.unfull + (t.cycle - before.cycle) } }) }

/-- After a turn, the cycles that it took have passed for the watchdogs (R404) and for the waits on full-empty bits. -/
def passTime (before : State) : Res → Res
  | .next t => .next (countWaits before (watch before t))
  | .fault f => .fault f
  | .refused r => .refused r

/-- One turn: the X results that are due have landed before it, and the time that it took has passed after it. -/
def turn (s : State) : Res := passTime s (choice (landDue s))

/-- The sequencer that a table word is given to: the one whose decoder reads it (log entry 2), X for a word that none reads. -/
def seqForWord (nbits w : Nat) : Seq :=
  match decodeTable nbits w with
  | some (q, _) => q
  | none => .X

/-- A program of one word on a core (log entry 1): a partition that owns cluster 0 is enabled, core 0 runs a cell, and the sequencer's
instruction store holds the word's parcels at its program counter. -/
def placeWord (s : State) (nbits w : Nat) : State :=
  let sq := seqForWord nbits w
  let b := tableBytes nbits w
  let p := getPart s 0
  let s := setPart s 0 { p with en := true, clusters := p.clusters ||| 1, reset := .idle }
  let x := getCtx s 0
  let cell : CellInfo := { part := 0, serial := 0, ordinal := 0, gangBase := 0, gangSize := 1, sms := false, gbars := 0,
                           gbarOpen := false, gbarGo := false, lsReleased := true }
  let s := setCtx s 0 { x with cell := some cell, waking := 0 }
  let q := getSeq s 0 sq
  let at0 := q.pc.toNat / 4
  let q := { q with run := .running, halted := false, wait := .none, pc := BitVec.ofNat 32 (4 * at0),
                    istore := tput (tput q.istore at0 (Sys2Proof.parcelAt b 0)) (at0 + 1) (Sys2Proof.parcelAt b 4) }
  { setSeq s 0 sq q with agenda := [], cur := (0, sq) }

end Sys2Proof.Machine
end

