-- ==== Sys2Proof/Safety.lean ====
section
/-! DEFINITION. The terms in which the statements speak of the machine: an instruction that completes, what it leaves alone, what an X instruction
puts in flight, and the invariant of memory. -/

namespace Sys2Proof.Machine

/-! ## Completion -/

/-- exec answers a next state of which P holds. -/
def Completes (i : Instr) (s : State) (P : State → Prop) : Prop := ∃ t, exec i s = .next t ∧ P t

/-- The memory invariant: the byte map keeps its canonical form (addresses strictly rising, no listed byte equal to an unlisted one). -/
def MemoryCanonical (s : State) : Prop := Memory.wf s.mem = true

/-- exec answers next states for one event after another, and the last of them is t. -/
def RunsThrough : List Instr → State → State → Prop
  | [], s, t => s = t
  | i :: l, s, t => ∃ u, exec i s = .next u ∧ RunsThrough l u t

/-! ## Frames -/

/-- Every byte of memory reads as before. -/
def MemSame (s t : State) : Prop := ∀ a, memGet t.mem a = memGet s.mem a

/-- Outside the active context of the executing core nothing has changed but the counter of free values. -/
def OnlyContext (s t : State) : Prop := t = { setCurCtx s (curCtx t) with freeCtr := t.freeCtr } ∧ MemSame s t

/-- Outside the active context and the die of the executing core nothing has changed but the counters of free values and tickets, and cached
translations. -/
def OnlyContextAndDie (s t : State) : Prop :=
  t = { setDie (setCurCtx s (curCtx t)) (curDie s) (getDie t (curDie s)) with freeCtr := t.freeCtr, ticketCtr := t.ticketCtr, tlb := t.tlb } ∧ MemSame s t

/-- A byte of a migration counter record, or of a slot of a notification ring (R245). -/
def CounterByte (s : State) (a : Nat) : Prop :=
  ∃ pa, isDram s pa = true ∧
    let m := (getDie s (homeOf pa)).mig
    (recordAddrOf s pa ≤ a ∧ a < recordAddrOf s pa + 8) ∨ (m.logsize ≠ 0 ∧ m.ring.toNat ≤ a ∧ a < m.ring.toNat + 8 * 2 ^ m.logsize.toNat)

/-- Every byte of memory reads as before but for those of counter records and notification rings (R245). -/
def MemSameButCounters (s t : State) : Prop := ∀ a, ¬ CounterByte s a → memGet t.mem a = memGet s.mem a

/-- A byte that a running card left undefined by straying (R282): it ends free when the card's run ends. -/
def StrayByte (s : State) (a : Nat) : Prop :=
  ∃ n c o pa layout mire key part, (getCluster s n).card = some c ∧ c.strays = true ∧ o ∈ racedBytes c ∧ o.loc = .dram pa layout mire key part ∧
    ∃ i, i < o.count ∧ a = placed pa layout + o.first + i

/-- Every byte of memory reads as before but for those that running cards left undefined (R282). -/
def MemSameButStrays (s t : State) : Prop := ∀ a, ¬ StrayByte s a → memGet t.mem a = memGet s.mem a

/-- A die but for its view, its clock and the state of its notification ring. -/
def restOfDie (x : Die) : Die :=
  { x with lag := [], lagLines := [], inbox := [], clock := [], mig := { x.mig with rtail := 0, ovf := false } }

/-- A cluster but for what a copy card that strays has noted (R282). -/
def restOfCluster (x : Cluster) : Cluster := { x with card := x.card.map fun c => { c with touched := [] } }

/-- Between two states nothing has happened but what translating and counting accesses leaves behind (R245, R293, R375, R376, R382): cached and dropped
translations, counter records and notifications with their updates, tokens of buckets, what is known of granules of other packages, what cards that stray
note, and the counter of free values. -/
def OnlyCounting (s t : State) : Prop :=
  t = { s with mem := t.mem, dies := t.dies, clusters := t.clusters, parts := t.parts, mgmt := { s.mgmt with mirq := t.mgmt.mirq, messages := t.mgmt.messages },
               lineTags := t.lineTags, lostWords := t.lostWords, tlb := t.tlb, tlbGone := t.tlbGone, farMem := t.farMem, freeCtr := t.freeCtr } ∧
  MemSameButCounters s t ∧ (∀ c, restOfCluster (getCluster t c) = restOfCluster (getCluster s c)) ∧ (∀ d, restOfDie (getDie t d) = restOfDie (getDie s d)) ∧
  (∀ p, { getPart t p with buckets := [] } = { getPart s p with buckets := [] }) ∧
  (∀ n, tfind t.lineTags n = tfind s.lineTags n) ∧ ∀ n, n ∈ t.lostWords ↔ n ∈ s.lostWords

/-- A sequencer has completed an instruction of len parcels at its program counter: control falls through with the end-of-body test (R96), the next issue
is n cycles later, no register outside ds has changed, and nothing else of it has. -/
def SeqDone (q q' : SeqState) (len n : Nat) (ds : List Reg) : Prop :=
  q'.pc = (fallThrough q q.pc.toNat len).pc ∧ q'.lc = (fallThrough q q.pc.toNat len).lc ∧ q'.clock = q.clock + n ∧ q'.wait = .none ∧
  (∀ r, r ∉ ds → regOf q' r = regOf q r) ∧
  { q' with g := q.g, gready := q.gready, pc := q.pc, lc := q.lc, clock := q.clock, waitc := q.waitc, wait := q.wait, pageTag := q.pageTag, pageFail := q.pageFail,
            wakeAt := q.wakeAt } = q

/-- A context but for one sequencer and the watchdog's count. -/
def restOfCtx (x : Ctx) (sq : Seq) : Ctx := { setCtxSeq x sq {} with wdog := 0 }

/-- An instruction of the executing sequencer has completed and changed nothing but that sequencer: its g registers in ds, its program counter
and loop counters, its clock. Every flag, special register, accumulator, exception register and byte of memory is as before. -/
def SeqOnly (s t : State) (len n : Nat) (ds : List Reg) : Prop :=
  OnlyContext s t ∧ restOfCtx (curCtx t) s.cur.2 = restOfCtx (curCtx s) s.cur.2 ∧ SeqDone (curSeq s) (curSeq t) len n ds

/-- A register of the executing sequencer holds a result: g0 discards it (R39). -/
def Holds (t : State) (d : Reg) (v : Word) : Prop := rd t d = if d = 0 then 0 else v

/-- A control instruction of one parcel writes a g register and changes nothing else. -/
def WritesReg (s : State) (d : Reg) (v : Word) (n : Nat) (t : State) : Prop := Holds t d v ∧ SeqOnly s t 1 n [d]

/-- An instruction of len parcels has completed, n cycles to the next issue, from a context x that differs from the executing one: nothing but x, the
program counter, the loop counters, the clock and the registers in ds shows it. -/
def SeqFrom (s : State) (x : Ctx) (len n : Nat) (ds : List Reg) (t : State) : Prop :=
  OnlyContext s t ∧ restOfCtx (curCtx t) s.cur.2 = restOfCtx x s.cur.2 ∧ SeqDone (ctxSeq x s.cur.2) (curSeq t) len n ds

/-- The value of QSTQn and QSTWn (R46): HEAD, COUNT, and EOS of the oldest entry. -/
def QueueWord (q : Queue) : Word := BitVec.ofNat 64 (q.head.toNat + 2 ^ 4 * q.entries.length + if (q.entries.head?.any (·.eos)) then 2 ^ 9 else 0)

/-- The parcel after the instruction that a parcel begins, decoded linearly (R95). -/
def nextStart (q : SeqState) (n : Nat) : Nat := if bitOf (parcelAt q n).toNat 31 then n + 2 else n + 1

/-- The body of a loop instruction at parcel p ends inside a two-parcel instruction: decoded linearly from parcel p + 1, parcel last begins one (R95). -/
def BodySplits (q : SeqState) (p last : Nat) : Prop :=
  ∃ k, Nat.repeat (nextStart q) k (p + 1) = last ∧ bitOf (parcelAt q last).toNat 31 = true

/-- The instruction is blocked (R401, R406): nothing has changed but what its sequencer waits for. -/
def Blocked (w : Wait) (s t : State) : Prop := t = setCurSeq s { curSeq s with wait := w }

/-- A program address meets R56: a multiple of 4 inside the instruction store of the executing sequencer. -/
def TargetOk (s : State) (a : Int) : Prop := 0 ≤ a ∧ a % 4 = 0 ∧ a < 4 * (storeParcels s.cur.2 : Int)

/-- A transfer of control to an address outside R56 has raised the illegal-instruction fault (its stop record shows the low 16 bits of the offending
address, log entry 7) and changed no register, loop counter or byte of memory. -/
def BadTarget (s : State) (a : Int) (t : State) : Prop :=
  (curSeq t).halted = true ∧
  (curSeq t).origin = some { cause := 0x10, eaddr := 0, fpc := BitVec.ofInt 16 a, parcels := 0, imprecise := false } ∧
  (∀ r, rd t r = rd s r) ∧ (curSeq t).lc = (curSeq s).lc ∧ restOfCtx (curCtx t) s.cur.2 = restOfCtx (curCtx s) s.cur.2 ∧ MemSame s t

/-- Control has gone to an address, n cycles later, and nothing but the executing sequencer has changed, of it no register outside ds. -/
def GoesTo (s : State) (a : Nat) (n : Nat) (ds : List Reg) (t : State) : Prop :=
  OnlyContext s t ∧ restOfCtx (curCtx t) s.cur.2 = restOfCtx (curCtx s) s.cur.2 ∧
  (curSeq t).pc = BitVec.ofNat 32 a ∧ (curSeq t).clock = (curSeq s).clock + n ∧ (curSeq t).lc = (curSeq s).lc ∧
  ∀ r, r ∉ ds → rd t r = rd s r

/-- The executing sequencer stands at its instruction as the origin of a precise fault (R74, R406): no register and no byte of memory has changed. -/
def FaultsAt (s : State) (cause : BitVec 8) (g : Nat) (t : State) : Prop :=
  (curSeq t).halted = true ∧ (curSeq t).pc = (curSeq s).pc ∧
  (curSeq t).origin = some { cause := cause, eaddr := BitVec.ofNat 56 (g / 16 * 16), fpc := (curSeq s).pc.setWidth 16,
                             parcels := parcelsAt (curSeq s) (curSeq s).pc.toNat, imprecise := false } ∧
  (∀ r, rd t r = rd s r) ∧ restOfCtx (curCtx t) s.cur.2 = restOfCtx (curCtx s) s.cur.2 ∧ MemSame s t

/-! ## X engine instructions (R32, R45, R68, R137 to R139) -/

/-- An X instruction has issued with the result r in flight: X's results due at its issue have landed, each queue among the sources has lost its head
entry, RSOOR may hold a new record, the named g registers may have changed, and nothing else has. -/
def XIssued (s t : State) (srcs : List Opnd) (q : XQ) (ds : List Reg) (r : XResult) : Prop :=
  let x := xContext s
  OnlyContext s t ∧ (curCtx t).xres = x.xres ++ [r] ∧ (curCtx t).q = (popQueues x srcs).q ∧
  { restOfCtx (curCtx t) .X with xres := [], q := [], rsoor := 0, oor := {} } = { restOfCtx x .X with xres := [], q := [], rsoor := 0, oor := {} } ∧
  SeqDone x.seqX (curCtx t).seqX 2 (spacing q) ds

/-- The executing sequencer is X, its queue sources hold entries and its destination has room (R45). -/
def XReady (s : State) (srcs : List Opnd) (d : Opnd) : Prop :=
  s.cur.2 = .X ∧ queuesReady (xContext s) srcs = true ∧ destReady (xContext s) d = true

/-- The sources as read at issue, and the governing mask. -/
def srcsOf (s : State) (srcs : List Opnd) : List Src := readSrcs s (xContext s) srcs s.freeCtr
def activeOf (s : State) (q : XQ) : Mask := readMask (xContext s) q.k.toNat (s.freeCtr + 64)

/-- What an instruction delivers, lane by lane: the active lanes are written, a lane is valid where every source lane it consumes is, and an active lane
that consumes a lost lane gets MZ (R139). -/
def DeliversTo (s : State) (srcs : List Opnd) (q : XQ) (c : Consumes) (o : XOut) : Prop :=
  o.lanes = activeOf s q ∧ o.bits = spreadMask (activeOf s q) ∧ o.oor = none ∧
  ∀ j, j < 64 → maskBit o.valid j = ((srcsOf s srcs).zipIdx.all fun (x, i) => (c i j).all fun l => maskBit x.valid l) ∧
    maskBit o.mz j = (maskBit (activeOf s q) j && (srcsOf s srcs).zipIdx.any fun (x, i) => (c i j).any fun l => maskBit x.lost l)

/-- The result of an X instruction with a vector destination: it is in flight with the bound n, and what is delivered satisfies P. -/
def XGives (s : State) (i : Instr) (srcs : List Opnd) (d : Opnd) (q : XQ) (n : Nat) (P : XOut → Prop) : Prop :=
  XReady s srcs d → ∃ o, Completes i s (fun t => XIssued s t srcs q []
    (resultFor s (xContext s) d ((curSeq s).clock + n) q.nf ((srcsOf s srcs).any (·.eos)) o)) ∧ P o

/-- The same, delivered lane by lane under the mask and the validity of the lanes consumed. -/
def XDelivers (s : State) (i : Instr) (srcs : List Opnd) (d : Opnd) (q : XQ) (n : Nat) (c : Consumes) (P : XOut → Prop) : Prop :=
  XGives s i srcs d q n fun o => DeliversTo s srcs q c o ∧ P o

/-- Element n of width w of every result is v (lane) (element) in code, and the flags of an active lane are those of its elements. -/
def ElementsAre (s : State) (q : XQ) (w : Nat) (v : Nat → Nat → Nat × Flags) (o : XOut) : Prop :=
  (∀ j e, j < 64 → e < 32 / w → elem w o.data (32 / w * j + e) = (v j e).1 % 2 ^ w) ∧
  ∀ j, j < 64 → laneFlags o.flags j = if maskBit (activeOf s q) j then orFlagsN (fun e => (v j e).2) (32 / w) else 0

/-- Lane j of the data is v j, and no flag of the instruction's own is set. -/
def LanesAre (v : Nat → BitVec 32) (o : XOut) : Prop := (∀ j, j < 64 → lane o.data j = v j) ∧ o.flags = 0

/-- Lane j of the data is v j, and the flags of an active lane are f j. -/
def LanesWith (s : State) (q : XQ) (v : Nat → BitVec 32) (f : Nat → Flags) (o : XOut) : Prop :=
  ∀ j, j < 64 → lane o.data j = v j ∧ laneFlags o.flags j = if maskBit (activeOf s q) j then f j else 0

/-- Source n of the instruction. -/
def srcVec (s : State) (srcs : List Opnd) (n : Nat) : Vec := srcAt (srcsOf s srcs) n

/-- What a reduction delivers (R167): every lane is written and valid whatever the mask, the flags are the lowest active lane's, and an active lane of an
invalid source lane gets MZ. -/
def ReducesTo (s : State) (srcs : List Opnd) (q : XQ) (fl : Flags) (o : XOut) : Prop :=
  o.bits = BitVec.allOnes 2048 ∧ o.lanes = BitVec.allOnes 64 ∧ o.valid = BitVec.allOnes 64 ∧ o.oor = none ∧
  ∀ j, j < 64 → laneFlags o.flags j = (if maskBit (activeOf s q) j ∧ ∀ m, m < j → maskBit (activeOf s q) m = false then fl else 0) ∧
    maskBit o.mz j = (maskBit (activeOf s q) j && (srcsOf s srcs).any fun x => maskBit x.lost j)

/-- Element n takes part in a reduction: its lane is active and valid (R167). -/
def Participates (s : State) (a : Opnd) (q : XQ) (w n : Nat) : Bool :=
  maskBit (activeOf s q) (n / (32 / w)) && (srcsOf s [a]).all fun x => maskBit x.valid (n / (32 / w))

/-- The elements that take part, in order. -/
def takingPart (s : State) (a : Opnd) (q : XQ) (w : Nat) : List Nat :=
  ((List.range (64 * (32 / w))).filter (Participates s a q w)).map (elem w (srcVec s [a] 0))

/-- The granule that holds lane j of the vector operand with index i through VVIEW, none where it is out of range (R34, R164, R165). -/
def LaneAt (x : Ctx) (i j : Nat) : Option Nat :=
  let g := fieldOf x.vview 0 16 + fieldOf x.vview 16 16 * i + j / 4
  if i < min (fieldOf x.vview 32 11) 1024 ∧ g < 65536 ∧ bitOf (footprint x).toNat (g / 8192) = true then some g else none

/-- No result in flight and no incomplete job of an engine writes a granule, so X reads it as it stands (R32, R68, R194). -/
def Settled (x : Ctx) (n : Nat) : Prop := writingMask x n = 0 ∧ ∀ r ∈ x.xres, ∀ w ∈ r.writes, w.1 ≠ n

/-- The result of an X instruction with a mask register as destination: bits of active lanes are written with p. -/
def XMask (s : State) (i : Instr) (srcs : List Opnd) (kd : BitVec 3) (q : XQ) (n : Nat) (p : Nat → Bool) : Prop :=
  s.cur.2 = .X → queuesReady (xContext s) srcs = true → ∃ r, Completes i s (fun t => XIssued s t srcs q [] r) ∧
    r.due = (curSeq s).clock + n ∧ r.writes = [] ∧ r.setFlags = none ∧ r.push = none ∧
    ∃ v, r.k = some (kd.toNat, activeOf s q, v) ∧ ∀ j, j < 64 → maskBit v j = p j

/-- The result of an X instruction with a g register as destination (R69). -/
def XReg (s : State) (i : Instr) (srcs : List Opnd) (d : Reg) (q : XQ) (v : Word) : Prop :=
  s.cur.2 = .X → queuesReady (xContext s) srcs = true → ∃ r, Completes i s (fun t => Holds t d v ∧ XIssued s t srcs q [d] r) ∧
    r.writes = [] ∧ r.k = none ∧ r.setFlags = none ∧ r.push = none

/-- An X instruction has completed; nothing has changed but X's sequencer and what strip hides of the context. -/
def XChanged (s t : State) (strip : Ctx → Ctx) (q : XQ) (ds : List Reg) : Prop :=
  OnlyContext s t ∧ strip (restOfCtx (curCtx t) .X) = strip (restOfCtx (xContext s) .X) ∧
  SeqDone (xContext s).seqX (curCtx t).seqX 2 (spacing q) ds

/-! ## Effects of events and of L and S instructions -/

/-- An instruction of len parcels has completed: control falls through with the end-of-body test (R96), and its sequencer does not wait and stands no more
halted than before. -/
def Retires (s : State) (len : Nat) (t : State) : Prop :=
  (curSeq t).pc = (fallThrough (curSeq s) (curSeq s).pc.toNat len).pc ∧ (curSeq t).wait = .none ∧ (curSeq t).halted = (curSeq s).halted

/-- Nothing has changed but the active context of a core and the counter of free values. -/
def OnlyCtx (s : State) (c : Nat) (t : State) : Prop := t = { setCtx s c (getCtx t c) with freeCtr := t.freeCtr } ∧ MemSame s t

/-- Nothing has changed but the active context of a core and what translating and counting accesses leaves behind. -/
def OnlyCtxAndCounts (s : State) (c : Nat) (t : State) : Prop := OnlyCounting (setCtx s c (getCtx t c)) t

/-- An access of the executing sequencer is the origin of a fault at granule g (R218, R402): no register has changed, of memory only counters have (R245). -/
def AccessFaults (s : State) (cause : BitVec 8) (g : Nat) (t : State) : Prop :=
  (curSeq t).halted = true ∧ (curSeq t).pc = (curSeq s).pc ∧
  (curSeq t).origin = some { cause := cause, eaddr := BitVec.ofNat 56 (g / 16 * 16), fpc := (curSeq s).pc.setWidth 16,
                             parcels := parcelsAt (curSeq s) (curSeq s).pc.toNat, imprecise := false } ∧
  (∀ r, rd t r = rd s r) ∧ restOfCtx (curCtx t) s.cur.2 = restOfCtx (curCtx s) s.cur.2 ∧ MemSameButCounters s t

/-- The executing sequencer waits at its instruction for the page of granule g, with the tag of the page's request where one is free (R403). -/
def AwaitsPage (s : State) (g : Nat) (t : State) : Prop :=
  (curSeq t).wait = .page ∧ (curSeq t).pc = (curSeq s).pc ∧ (curSeq t).halted = (curSeq s).halted ∧ (curSeq t).stallAddr = BitVec.ofNat 56 g ∧
  (∀ r, rd t r = rd s r) ∧ restOfCtx (curCtx t) s.cur.2 = restOfCtx (curCtx s) s.cur.2 ∧ MemSameButCounters s t ∧
  ∀ tag, (curSeq t).pageTag = some tag → ∃ r ∈ t.mgmt.prq, r.part = curPart s ∧ r.page = g / 65536 ∧ r.tag = tag ∧ r.cancel = false

/-- What an access that cannot be translated does, seen from a state u that the instruction has come to: it faults at the lowest granule that stops it, waits
for that granule's page, or waits for the tokens of its walk (R218, R376, R402, R403). -/
def StopsFrom {α : Type} (u : State) (i : Instr) (s : State) (got : Except (Stop × Nat) α) : Prop :=
  (∀ k g, got = .error (.cause k, g) → Completes i s (AccessFaults u k g)) ∧
  (∀ g, got = .error (.page, g) → Completes i s (AwaitsPage u g)) ∧
  ∀ dm g, got = .error (.busy dm, g) → Completes i s (Blocked .other (awaitDemand u dm))

/-- The same, seen from the state in which the instruction issues. -/
abbrev StopsAccess {α : Type} (i : Instr) (s : State) (got : Except (Stop × Nat) α) : Prop := StopsFrom s i s got

/-- A core's resolver has taken n rows of its oldest job (R195, R196): n RESOLVER_JOB_COMPLETE events, one after another. -/
def RowsRun (c : Nat) : Nat → State → State → Prop
  | 0, s, t => t = s
  | n + 1, s, t => ∃ u, exec (.resolverJobComplete c) s = .next u ∧ RowsRun c n u t

/-- Accesses of L in flight, but for what the oldest has already shown (R299). -/
def hideEarly (l : List LAccess) : List LAccess := l.map fun a => { a with early := [] }

/-- Nothing has changed but the active context of the executing core and its partition p. -/
def OnlyCtxAndPart (s : State) (p : Nat) (t : State) : Prop := t = setPart (setCurCtx s (curCtx t)) p (getPart t p) ∧ MemSame s t

/-- An L or S instruction has completed. Of the executing core nothing has changed but that sequencer, HOOR and what strip hides of the context; outside
the core, what translating and counting accesses leaves behind. -/
def AccessIssued (s t : State) (strip : Ctx → Ctx) (ds : List Reg) : Prop :=
  OnlyCounting (setCore s s.cur.1 (getCore t s.cur.1)) t ∧
  { getCore t s.cur.1 with ctx := {}, hoor := 0, hoork := 0, hoorCycle := {} } =
    { getCore s s.cur.1 with ctx := {}, hoor := 0, hoork := 0, hoorCycle := {} } ∧
  strip (restOfCtx (curCtx t) s.cur.2) = strip (restOfCtx (curCtx s) s.cur.2) ∧ SeqDone (curSeq s) (curSeq t) 2 1 ds

end Sys2Proof.Machine
end

