-- ==== Sys2Proof/Certificates/Slice0/Obligations.lean ====
section
/-! DEFINITION. The statements for the provers, in the order of the manual: the control subset, the step, encodings, the X engine, matrix work,
loads and stores, memory, the memory engines, the fabric, scheduling, recovery, isolation. -/

open Sys2Proof Sys2Proof.Machine

/-! ## The control subset -/

/-- R84, R86: the register-register operations write their results to g[d] and change nothing else. R87, R88: the immediate forms. -/
def Obligations.IntegerResults : Prop :=
  (∀ (d a b : Reg) (sh : BitVec 3) (s : State),
    let x := rd s a
    let y := rd s b
    let m := y.toNat % 64
    Completes (.add d a b) s (WritesReg s d (x + y) 1) ∧
    Completes (.sub d a b) s (WritesReg s d (x - y) 1) ∧
    Completes (.mul d a b) s (WritesReg s d (BitVec.ofInt 64 (x.toInt * y.toInt)) 1) ∧
    Completes (.mulh d a b) s (WritesReg s d ((BitVec.ofInt 128 (x.toInt * y.toInt)).extractLsb' 64 64) 1) ∧
    Completes (.andr d a b) s (WritesReg s d (x &&& y) 1) ∧
    Completes (.orr d a b) s (WritesReg s d (x ||| y) 1) ∧
    Completes (.xorr d a b) s (WritesReg s d (x ^^^ y) 1) ∧
    Completes (.shl d a b) s (WritesReg s d (BitVec.ofNat 64 (x.toNat * 2 ^ m)) 1) ∧
    Completes (.shr d a b) s (WritesReg s d (BitVec.ofNat 64 (x.toNat / 2 ^ m)) 1) ∧
    Completes (.sra d a b) s (WritesReg s d (BitVec.ofInt 64 (x.toInt / 2 ^ m)) 1) ∧
    Completes (.minr d a b) s (WritesReg s d (BitVec.ofInt 64 (min x.toInt y.toInt)) 1) ∧
    Completes (.maxr d a b) s (WritesReg s d (BitVec.ofInt 64 (max x.toInt y.toInt)) 1) ∧
    Completes (.seq d a b) s (WritesReg s d (if x = y then 1 else 0) 1) ∧
    Completes (.slt d a b) s (WritesReg s d (if x.toInt < y.toInt then 1 else 0) 1) ∧
    Completes (.sltu d a b) s (WritesReg s d (if x.toNat < y.toNat then 1 else 0) 1) ∧
    Completes (.csel d a b) s (WritesReg s d (if x = 0 then rd s d else y) 1) ∧
    Completes (.addx d a b sh) s (WritesReg s d (BitVec.ofNat 64 (x.toNat + y.toNat * 2 ^ sh.toNat)) 1)) ∧
  (∀ (d a : Reg) (imm : BitVec 15) (sh : BitVec 6) (up : BitVec 20) (s : State),
    let x := rd s a
    Completes (.addi d a imm) s (WritesReg s d (BitVec.ofInt 64 (x.toInt + imm.toInt)) 1) ∧
    Completes (.andi d a imm) s (WritesReg s d (x &&& BitVec.ofNat 64 imm.toNat) 1) ∧
    Completes (.ori d a imm) s (WritesReg s d (x ||| BitVec.ofNat 64 imm.toNat) 1) ∧
    Completes (.xori d a imm) s (WritesReg s d (x ^^^ BitVec.ofNat 64 imm.toNat) 1) ∧
    Completes (.shli d a sh) s (WritesReg s d (BitVec.ofNat 64 (x.toNat * 2 ^ sh.toNat)) 1) ∧
    Completes (.shri d a sh) s (WritesReg s d (BitVec.ofNat 64 (x.toNat / 2 ^ sh.toNat)) 1) ∧
    Completes (.srai d a sh) s (WritesReg s d (BitVec.ofInt 64 (x.toInt / 2 ^ sh.toNat)) 1) ∧
    Completes (.slti d a imm) s (WritesReg s d (if x.toInt < imm.toInt then 1 else 0) 1) ∧
    Completes (.lui d up) s (WritesReg s d (BitVec.ofInt 64 (up.toInt * 2 ^ 15)) 1))

/-- R82, R85: DIV and REM divide signed values, with fixed results for a zero divisor and for overflow; the sequencer's divider is then busy for 34
cycles, and a second DIV or REM waits until SCALAR_DIVIDE_COMPLETE, which comes no earlier than that. -/
def Obligations.DivideAndRemainder : Prop := ∀ (d a b : Reg) (s : State),
  let x := rd s a
  let y := rd s b
  let overflow := x = 0x8000000000000000#64 ∧ y = 0xFFFFFFFFFFFFFFFF#64
  let Writes (v : Word) (t : State) : Prop := Holds t d v ∧ OnlyContext s t ∧ restOfCtx (curCtx t) s.cur.2 = restOfCtx (curCtx s) s.cur.2 ∧
    SeqDone { curSeq s with divBusy := true, divDue := (curSeq s).clock + 34 } (curSeq t) 1 1 [d]
  ((curSeq s).divBusy = false →
    (y = 0 → Completes (.div d a b) s (Writes 0xFFFFFFFFFFFFFFFF) ∧ Completes (.rem d a b) s (Writes x)) ∧
    (overflow → Completes (.div d a b) s (Writes x) ∧ Completes (.rem d a b) s (Writes 0)) ∧
    (y ≠ 0 → ¬ overflow → ∃ u v : Word, Completes (.div d a b) s (Writes u) ∧ Completes (.rem d a b) s (Writes v) ∧
      u.toInt = x.toInt.tdiv y.toInt ∧ x.toInt = u.toInt * y.toInt + v.toInt ∧ v.toInt.natAbs < y.toInt.natAbs ∧ 0 ≤ v.toInt * x.toInt)) ∧
  ((curSeq s).divBusy = true → Completes (.div d a b) s (Blocked .other s) ∧ Completes (.rem d a b) s (Blocked .other s)) ∧
  ∀ (c : Nat) (q : Seq),
    let v := getSeq s c q
    Completes (.scalarDivideComplete c q) s fun t =>
      (getSeq t c q).divBusy = false ∧ t = if v.divBusy then setSeq { s with cycle := max s.cycle v.divDue } c q { v with divBusy := false } else s

/-- R89 to R91: a branch whose condition holds goes to P + 4 × Sext(off15, 15), else control falls through; JMP, JAL and JR transfer control, and
JAL leaves P + 4 in g31; none of them changes another register. A target outside R56 is the illegal-instruction fault; what its stop record and the trap
registers then show (FPC the target, EADDR and PARCELS 0, EPC0 and EPC1 unwritten) is the model's choice (log entry 7). -/
def Obligations.BranchesAndJumps : Prop :=
  (∀ (a b : Reg) (off : BitVec 15) (s : State),
    let x := rd s a
    let y := rd s b
    let dest : Int := (curSeq s).pc.toNat + 4 * off.toInt
    let Branches (i : Instr) (p : Prop) : Prop :=
      (¬ p → Completes i s fun t => SeqOnly s t 1 1 []) ∧
      (p → TargetOk s dest → Completes i s (GoesTo s dest.toNat 3 [])) ∧
      (p → ¬ TargetOk s dest → Completes i s (BadTarget s dest))
    Branches (.beq a b off) (x = y) ∧ Branches (.bne a b off) (x ≠ y) ∧
    Branches (.blt a b off) (x.toInt < y.toInt) ∧ Branches (.bge a b off) (y.toInt ≤ x.toInt) ∧
    Branches (.bltu a b off) (x.toNat < y.toNat) ∧ Branches (.bgeu a b off) (y.toNat ≤ x.toNat)) ∧
  (∀ (off : BitVec 25) (a : Reg) (s : State),
    let p := (curSeq s).pc.toNat
    let dest : Int := p + 4 * off.toInt
    (TargetOk s dest → Completes (.jmp off) s (GoesTo s dest.toNat 3 []) ∧
      Completes (.jal off) s (fun t => GoesTo s dest.toNat 3 [31] t ∧ rd t 31 = BitVec.ofNat 64 (p + 4))) ∧
    (¬ TargetOk s dest → Completes (.jmp off) s (BadTarget s dest) ∧ Completes (.jal off) s (BadTarget s dest)) ∧
    (TargetOk s (rd s a).toNat → Completes (.jr a) s (GoesTo s (rd s a).toNat 3 [])) ∧
    (¬ TargetOk s (rd s a).toNat → Completes (.jr a) s (BadTarget s (rd s a).toNat)))

/-- R40, R94, R95: LOOP and LOOPI. In parcels, the instruction stands at p, the body ends at last = p + body. R84, R96, R106: NOP does nothing; WAITC
only sets the next issue imm + 1 cycles later; and the end-of-body test that an instruction of len parcels at address p applies when it completes
without transferring control. Where a count of 0 sends control to a target outside R56, what the fault shows (FPC the target, PARCELS 0, EPC0 and EPC1
unwritten) is the model's choice (log entry 7). -/
def Obligations.LoopStartAndEnd : Prop :=
  (∀ (n : BitVec 2) (a : Reg) (cnt : BitVec 13) (body : BitVec 10) (s : State),
    let q := curSeq s
    let p := q.pc.toNat / 4
    let last := p + body.toNat
    let count : Int := if (rd s a).toInt ≤ 0 then 0 else if 2 ^ 32 ≤ (rd s a).toInt then 2 ^ 32 - 1 else (rd s a).toInt
    let Loops (i : Instr) (c : Nat) : Prop :=
      ((body = 0 ∨ storeParcels s.cur.2 ≤ last ∨ BodySplits q p last) → Completes i s (FaultsAt s 0x10 0)) ∧
      (body ≠ 0 → last < storeParcels s.cur.2 → ¬ BodySplits q p last →
        (c = 0 → TargetOk s (4 * last + 4) → Completes i s (GoesTo s (4 * last + 4) 3 [])) ∧
        (c = 0 → ¬ TargetOk s (4 * last + 4) → Completes i s (BadTarget s (4 * last + 4))) ∧
        (c ≠ 0 → Completes i s fun t =>
          let u := curSeq t
          let r := tget {} u.lc n.toNat
          OnlyContext s t ∧ restOfCtx (curCtx t) s.cur.2 = restOfCtx (curCtx s) s.cur.2 ∧ (∀ r, rd t r = rd s r) ∧
          u.pc = BitVec.ofNat 32 (q.pc.toNat + 4) ∧ u.clock = q.clock + 1 ∧
          r.count = BitVec.ofNat 32 c ∧ r.active = true ∧ r.start = BitVec.ofNat 16 (q.pc.toNat + 4) ∧ r.stop = BitVec.ofNat 16 (4 * last) ∧
          r.level = q.tlevel ∧ r.age < 4 ∧
          ∀ m, m < 4 → m ≠ n.toNat →
            let e := tget {} q.lc m
            let e' := tget {} u.lc m
            e' = { e with age := e'.age } ∧ (e.active = true → e'.age < r.age ∧
              ∀ k, k < 4 → k ≠ n.toNat → (tget {} q.lc k).active = true → e.age < (tget {} q.lc k).age → e'.age < (tget {} u.lc k).age)))
    Loops (.loop n a body) count.toNat ∧ Loops (.loopi n cnt body) cnt.toNat) ∧
  ((∀ (q : SeqState) (p len : Nat),
      let last := p + 4 * len - 4
      let ends (n : Nat) : Prop := n < 4 ∧ (tget {} q.lc n).active = true ∧ (tget {} q.lc n).level = q.tlevel ∧ (tget {} q.lc n).stop.toNat = last
      let youngest (n : Nat) : Prop := ends n ∧ ∀ m, ends m → m ≠ n → (tget {} q.lc m).age < (tget {} q.lc n).age
      ((∀ n, ¬ ends n) → fallThrough q p len = { q with pc := BitVec.ofNat 32 (p + 4 * len) }) ∧
      ∀ n, youngest n →
        let r := tget {} q.lc n
        (2 ≤ r.count.toNat →
          fallThrough q p len = { q with lc := tput q.lc n { r with count := r.count - 1 }, pc := BitVec.ofNat 32 r.start.toNat }) ∧
        (r.count.toNat < 2 →
          fallThrough q p len = fallThrough { q with lc := tput q.lc n { r with count := 0, active := false } } p len)) ∧
    (∀ (imm : BitVec 20) (s : State),
      Completes .nop s (fun t => SeqOnly s t 1 1 []) ∧ Completes (.waitc imm) s (fun t => SeqOnly s t 1 (imm.toNat + 1) [] ∧ (curSeq t).waitc = imm.toNat)))

/-- R98: LBRK leaves the named loop, when its record is active at the current trap level, and every loop started inside it; otherwise it only goes on. -/
def Obligations.LoopBreak : Prop := ∀ (n : BitVec 2) (s : State),
  let q := curSeq s
  let r := tget {} q.lc n.toNat
  let inside (e : LoopRec) : Prop := e.active = true ∧ e.level = q.tlevel ∧ r.age ≤ e.age
  encode (.lbrk n) = [BitVec.ofNat 32 (0x64000000 + n.toNat * 2 ^ 23)] ∧
  (r.active = true ∧ r.level = q.tlevel → Completes (.lbrk n) s fun t =>
    OnlyContext s t ∧ restOfCtx (curCtx t) s.cur.2 = restOfCtx (curCtx s) s.cur.2 ∧ (∀ r, rd t r = rd s r) ∧
    (curSeq t).pc = BitVec.ofNat 32 (r.stop.toNat + 4) ∧ (curSeq t).clock = q.clock + 3 ∧
    ∀ m, m < 4 →
      (inside (tget {} q.lc m) → tget {} (curSeq t).lc m = { tget {} q.lc m with count := 0, active := false }) ∧
      (¬ inside (tget {} q.lc m) → tget {} (curSeq t).lc m = tget {} q.lc m)) ∧
  (¬ (r.active = true ∧ r.level = q.tlevel) → Completes (.lbrk n) s (GoesTo s (q.pc.toNat + 4) 1 []))

/-! ## System registers and traps -/

/-- R49 to R53, R102: what MFS reads, and where it is illegal. FLAGSUM is stated for an X without results in flight (with one, R69 leaves the
value open: log entries 6 and 89). -/
def Obligations.SystemRegisterReads : Prop := ∀ (d : Reg) (s : State),
  let sq := s.cur.2
  let x := sysContext s
  let q := ctxSeq x sq
  let Reads (n : Nat) (v : Word) : Prop := Completes (.mfs d (BitVec.ofNat 12 n)) s fun t => Holds t d v ∧ SeqFrom s x 1 1 [d] t
  Reads 0x000 (BitVec.ofNat 64 ((match sq with | .L => 0 | .X => 1 | .S => 2) + 4 * s.cur.1 + 4096 * (partOfCore s s.cur.1).getD 0)) ∧
  Reads 0x001 (BitVec.ofNat 64 s.cycle) ∧ Reads 0x002 x.kargs ∧ Reads 0x003 x.kernid ∧
  (∀ n, n < 4 → Reads (0x008 + n) (BitVec.ofNat 64 (tget {} q.lc n).count.toNat)) ∧
  Reads 0x010 x.vview ∧ Reads 0x011 x.tview ∧ Reads 0x012 x.aview ∧
  (sq = .X → Reads 0x013 (BitVec.ofNat 64 (x.ret.toNat + 2 ^ 8 * x.bankOn.toNat)) ∧ Reads 0x014 x.rsoor ∧
    (x.xres = [] → Reads 0x015 (BitVec.ofNat 64 (orFlagsN (laneFlags x.flags) 64).toNat))) ∧
  (∀ n, n < 8 → Reads (0x020 + n) (QueueWord (getQ x n))) ∧ (∀ n, n < 4 → Reads (0x028 + n) (QueueWord (getW x n))) ∧
  Reads 0x030 (getCore s s.cur.1).mprog ∧
  (∀ n, n < 16 → (tfind x.slots n = none → Reads (0x040 + n) 0) ∧
    ∀ h, tfind x.slots n = some h → h.base < 2 ^ 16 → h.len < 2 ^ 17 → Reads (0x040 + n) (BitVec.ofNat 64 (h.base + 2 ^ 16 * h.len + 2 ^ 63))) ∧
  Reads 0x100 (BitVec.ofNat 64 q.tlevel.toNat) ∧ Reads 0x101 (BitVec.ofNat 64 q.tvec.toNat) ∧
  Reads 0x110 (BitVec.ofNat 64 q.bank0.epc.toNat) ∧ Reads 0x111 (BitVec.ofNat 64 q.bank0.ecause.toNat) ∧
  Reads 0x112 (BitVec.ofNat 64 q.bank0.eaddr.toNat) ∧ Reads 0x113 q.bank0.escr ∧
  Reads 0x118 (BitVec.ofNat 64 q.bank1.epc.toNat) ∧ Reads 0x119 (BitVec.ofNat 64 q.bank1.ecause.toNat) ∧
  Reads 0x11A (BitVec.ofNat 64 q.bank1.eaddr.toNat) ∧ Reads 0x11B q.bank1.escr ∧
  ∀ n, n < 4096 → n ∉ [0, 1, 2, 3, 8, 9, 10, 11, 0x10, 0x11, 0x12, 0x30, 0x100, 0x101, 0x110, 0x111, 0x112, 0x113, 0x118, 0x119, 0x11A, 0x11B] →
    ¬ (0x20 ≤ n ∧ n < 0x2C) → ¬ (0x40 ≤ n ∧ n < 0x50) → ¬ (sq = .X ∧ 0x13 ≤ n ∧ n ≤ 0x15) →
    Completes (.mfs d (BitVec.ofNat 12 n)) s (FaultsAt s 0x10 0)

/-- R33, R36, R37, R49, R52, R53, R82, R99, R103: what MTS writes (an instruction that uses the register then issues two cycles later at the earliest),
and where it is illegal; an EPC keeps only bits that R53 lets a program address have (log entry 87: the model's reading); a write of RSOOR with a 1 for
VALID leaves the record of an access of the same cycle, if there is one (R104). R36, R37, R103: a bank that leaves the footprint and that no
nest holds goes off, kept when its RET bit is 1, else gated; a bank that enters it waits to wake; BANK_WAKE turns the waiting banks on after 40
cycles, or 168 when one of them was gated, and the gated ones read as zero. -/
def Obligations.SystemRegisterWrites : Prop :=
  (∀ (a : Reg) (s : State),
    let sq := s.cur.2
    let x := sysContext s
    let q := ctxSeq x sq
    let v := rd s a
    let view := v &&& 0x00FF07FFFFFFFFFF
    let later (n : Nat) (u : SeqState) : SeqState := { u with sysReady := tput q.sysReady n (q.clock + 2) }
    let Writes (n : Nat) (y : Ctx) : Prop := Completes (.mts a (BitVec.ofNat 12 n)) s (SeqFrom s (setCtxSeq y sq (later n (ctxSeq y sq))) 1 1 [])
    let WritesSeq (n : Nat) (u : SeqState) : Prop := Writes n (setCtxSeq x sq u)
    (∀ n, n < 4 → WritesSeq (0x008 + n) { q with lc := tput q.lc n { tget {} q.lc n with count := v.setWidth 32 } }) ∧
    (sq = .X → Writes 0x010 (settleBanks { x with vview := view }) ∧ Writes 0x011 (settleBanks { x with tview := view }) ∧
      Writes 0x012 (settleBanks { x with aview := view }) ∧ Writes 0x013 (gateRetained { x with ret := v.setWidth 8 }) ∧
      Writes 0x014 (
        if v.msb then
          match x.oor.latest.filter fun l => l.1 == s.cycle with
          | some l => { x with rsoor := l.2, oor := { x.oor with heldAt := s.cycle } }
          | none => { x with rsoor := x.rsoor &&& 0x7FFFFFFFFFFFFFFF }
        else x)) ∧
    (let e := v.setWidth 16 &&& (if sq = .X then 0xFFFC#16 else 0x3FFC#16)
     WritesSeq 0x110 { q with bank0 := { q.bank0 with epc := e } } ∧ WritesSeq 0x118 { q with bank1 := { q.bank1 with epc := e } }) ∧
    WritesSeq 0x111 { q with bank0 := { q.bank0 with ecause := v.setWidth 8 } } ∧ WritesSeq 0x119 { q with bank1 := { q.bank1 with ecause := v.setWidth 8 } } ∧
    WritesSeq 0x112 { q with bank0 := { q.bank0 with eaddr := v.setWidth 56 } } ∧ WritesSeq 0x11A { q with bank1 := { q.bank1 with eaddr := v.setWidth 56 } } ∧
    WritesSeq 0x113 { q with bank0 := { q.bank0 with escr := v } } ∧ WritesSeq 0x11B { q with bank1 := { q.bank1 with escr := v } } ∧
    ∀ n, n < 4096 → n ∉ [8, 9, 10, 11, 0x110, 0x111, 0x112, 0x113, 0x118, 0x119, 0x11A, 0x11B] → ¬ (sq = .X ∧ 0x10 ≤ n ∧ n ≤ 0x14) →
      Completes (.mts a (BitVec.ofNat 12 n)) s (FaultsAt s 0x10 0)) ∧
  (∀ (x : Ctx) (b : Nat), b < 8 →
    let bit (m : BitVec 8) : Prop := m.getLsbD b = true
    let y := settleBanks x
    (bit y.bankOn ↔ bit x.bankOn ∧ bit (footprint x ||| nestFoot x)) ∧
    (bit y.waking ↔ bit (footprint x) ∧ ¬ bit x.bankOn) ∧
    (bit y.gated ↔ bit x.gated ∨ (bit x.bankOn ∧ ¬ bit (footprint x ||| nestFoot x) ∧ ¬ bit x.ret)) ∧
    (∀ n, n / 8192 = b → storeGranule y n =
      if bit x.bankOn ∧ ¬ bit (footprint x ||| nestFoot x) ∧ ¬ bit x.ret then 0 else storeGranule x n) ∧
    let z := gateRetained x
    let lost : Prop := ¬ bit x.bankOn ∧ ¬ bit x.gated ∧ ¬ bit x.ret
    z.bankOn = x.bankOn ∧ z.waking = x.waking ∧ (bit z.gated ↔ bit x.gated ∨ lost) ∧
    ∀ n, n / 8192 = b → storeGranule z n = if lost then 0 else storeGranule x n) ∧
  (∀ (s : State) (c : Nat), (getCtx s c).waking = 0 → Completes (.bankWake c) s fun t => t = s) ∧
  (∀ (s : State) (c b : Nat), b < 8 → (getCtx s c).waking ≠ 0 →
    let x := getCtx s c
    let bit (m : BitVec 8) : Prop := m.getLsbD b = true
    Completes (.bankWake c) s fun t =>
      let z := getCtx t c
      t = setCtx s c z ∧ MemSame s t ∧ z.waking = 0 ∧ (bit z.bankOn ↔ bit x.bankOn ∨ bit x.waking) ∧ (bit z.gated ↔ bit x.gated ∧ ¬ bit x.waking) ∧
      (let n := if (x.waking &&& x.gated) = 0 then 40 else 168
       z.seqX.clock = x.seqX.clock + n ∧ ∀ r at', tfind x.seqX.sysReady r = some at' → tfind z.seqX.sysReady r = some (at' + n)) ∧
      ∀ n, n / 8192 = b → storeGranule z n = if bit x.waking ∧ bit x.gated then 0 else storeGranule x n)

/-- R414, R417, R423: TRAP and BRK at trap level 0 or 1 save EPC, ECAUSE and EADDR in the bank of the level, raise the level and go to TVEC.BASE; BRK
with a debugger attached halts instead; on X, every earlier result has landed first. A trap at level 2 (a TRAP, or a BRK without a debugger) resets the
core and raises the third-level-trap fault on its partition's halt line; it writes the sequencer's crash record of the core as it was to the stop region, none when STOPBASE
is 0 or the record cannot be written, and waits while a page of it is not there. That MPROG becomes 0 with the core's other state is the model's
choice (log entry 90). R415, R416: RTE at level 1 or 2 ends the loops of the level, lowers it and
goes on after the instruction at EPC; IDLE at level 0 ends the sequencer's part of the cell. RTE at level 0 and IDLE at another level are illegal. -/
def Obligations.TrapsAndReturns : Prop :=
  ((∀ (imm : BitVec 20) (s : State),
      let sq := s.cur.2
      let x := if sq = .X then landAll (curCtx s) else curCtx s
      let q := ctxSeq x sq
      let bank (u : SeqState) (b : BitVec 2) : TrapBank := if b = 0 then u.bank0 else u.bank1
      let Enters (cause : BitVec 8) (t : State) : Prop :=
        let u := curSeq t
        let old := bank q q.tlevel
        OnlyContext s t ∧ restOfCtx (curCtx t) sq = restOfCtx x sq ∧
        u.pc = q.tvec.setWidth 32 ∧ u.tlevel = q.tlevel + 1 ∧
        bank u q.tlevel = { old with epc := q.pc.setWidth 16, ecause := cause, eaddr := imm.setWidth 56 } ∧
        bank u (1 - q.tlevel) = bank q (1 - q.tlevel) ∧ (∀ r, regOf u r = regOf q r) ∧ u.lc = q.lc
      ((curSeq s).tlevel.toNat < 2 → Completes (.trap imm) s (Enters 0x01) ∧
        (debugAttached s (curPart s) = false → Completes (.brk imm) s (Enters 0x02))) ∧
      (debugAttached s (curPart s) = true → Completes (.brk imm) s fun t =>
        (curSeq t).halted = true ∧ (curSeq t).pc = (curSeq s).pc ∧ (∀ r, rd t r = rd s r) ∧ (curSeq t).tlevel = (curSeq s).tlevel ∧ MemSame s t ∧
        ((getPart s (curPart s)).reset = .idle → (getPart t (curPart s)).halt.raised = true ∧ (getPart t (curPart s)).halt.debug = true))) ∧
    (∀ (imm : BitVec 20) (s : State) (p : Nat),
      (curSeq s).tlevel = 2 → partOfCore s s.cur.1 = some p → (getPart s p).reset = .idle → (getPart s p).halt.raised = false →
      let c := s.cur.1
      let landed : State := if s.cur.2 = .X then setCurCtx s (landAll (curCtx s)) else s
      let Resets (noRec : Bool) (t : State) : Prop :=
        getCtx t c = {} ∧ (getCore t c).shadow = {} ∧ (getCore t c).mprog = 0 ∧
        (getPart t p).halt.raised = true ∧ (getPart t p).halt.cause = 0x31 ∧ (getPart t p).halt.core = c ∧ (getPart t p).halt.unit = unitOfSeq s.cur.2 ∧
        (getPart t p).halt.resumable = false ∧ (getPart t p).halt.norec = noRec ∧ (getPart t p).pirq.getLsbD 0 = true
      let ThirdLevel (cause : BitVec 8) (i : Instr) : Prop :=
        let written := engineWrite landed (dieOfCore c) p ((getPart s p).stopbase.toNat + 0xA0000 + 192 * c + 64 * unitOfSeq s.cur.2)
          (crashRecord s c s.cur.2 cause imm) (curTlb s)
        ((getPart s p).stopbase = 0 → Completes i s fun t => Resets true t ∧ MemSame s t) ∧
        ((getPart s p).stopbase ≠ 0 →
          (∀ u, written = .ok u → Completes i s fun t => Resets false t ∧ MemSame u t) ∧
          (∀ u k a, written = .stop u k a → Completes i s fun t => Resets true t ∧ MemSame u t) ∧
          ∀ u, written = .wait u → Completes i s (Blocked .page u))
      ThirdLevel 0x01 (.trap imm) ∧ (debugAttached s p = false → ThirdLevel 0x02 (.brk imm))) ∧
    (∀ (s : State) (c : Nat) (q : Seq) (cause : BitVec 8) (imm : BitVec 20),
      let b := crashRecord s c q cause imm
      let v := getSeq s c q
      b.length = 64 ∧ (c < 65536 → ofBytes (fun i => b.getD i 0) 2 = c) ∧ (b.getD 2 0).toNat = unitOfSeq q ∧
      ofBytes (fun i => b.getD (16 + i) 0) 2 = v.bank0.epc.toNat ∧ ofBytes (fun i => b.getD (18 + i) 0) 2 = v.bank1.epc.toNat ∧
      ofBytes (fun i => b.getD (20 + i) 0) 2 = v.pc.toNat % 65536 ∧ (b.getD 22 0).toNat = v.bank0.ecause.toNat ∧
      (b.getD 23 0).toNat = v.bank1.ecause.toNat ∧ (b.getD 24 0).toNat = cause.toNat ∧ ofBytes (fun i => b.getD (32 + i) 0) 8 = v.bank0.eaddr.toNat ∧
      ofBytes (fun i => b.getD (40 + i) 0) 8 = v.bank1.eaddr.toNat ∧ ofBytes (fun i => b.getD (48 + i) 0) 8 = imm.toNat)) ∧
  (∀ (s : State),
    let q := curSeq s
    let sq := s.cur.2
    (q.tlevel = 0 → Completes .rte s (FaultsAt s 0x10 0)) ∧
    (q.tlevel ≠ 0 → Completes .rte s fun t =>
      let u := curSeq t
      let bank := if q.tlevel = 1 then q.bank0 else q.bank1
      let lc : Table LoopRec := (List.range 4).foldl (fun lc n =>
        if (tget {} q.lc n).active = true ∧ (tget {} q.lc n).level = q.tlevel then tput lc n { tget {} q.lc n with active := false } else lc) q.lc
      let len := if bitOf (Machine.parcelAt q (bank.epc.toNat / 4)).toNat 31 then 2 else 1
      let after := fallThrough { q with lc := lc, tlevel := q.tlevel - 1 } bank.epc.toNat len
      OnlyContext s t ∧ restOfCtx (curCtx t) sq = restOfCtx (curCtx s) sq ∧
      u.tlevel = q.tlevel - 1 ∧ u.pc = after.pc ∧ u.lc = after.lc ∧ u.bank0 = q.bank0 ∧ u.bank1 = q.bank1 ∧ ∀ r, rd t r = rd s r) ∧
    (q.tlevel ≠ 0 → Completes .idle s (FaultsAt s 0x10 0)) ∧
    (q.tlevel = 0 → Completes .idle s fun t =>
      OnlyContext s t ∧ (curSeq t).run = .ended ∧ (∀ r, rd t r = rd s r) ∧
      (curCtx t).cell = (if sq = .X then (curCtx s).cell.map fun e => { e with lsReleased := true } else (curCtx s).cell) ∧
      ∀ o, o ≠ sq → ctxSeq (curCtx t) o = ctxSeq (curCtx s) o))

/-- R385, R386: TLBI faults where KTLBI is 0, waits for the sequencer's earlier accesses and for accesses that use the named entries, and then removes
exactly those entries of the partition's address space and takes 64 cycles. TLBS writes the outcome of a walk and, where the address is translated, the leaf's attributes; it
raises nothing but the machine fault of a table entry that cannot be read. -/
def Obligations.TranslationInstructions : Prop :=
  (∀ (a b : Reg) (s : State),
    let p := getPart s (curPart s)
    let va := (rd s a).toNat % 2 ^ 56
    let all : Bool := (rd s b).toNat % 4 != 0
    let names (e : TlbEntry) : Bool := e.owner != .exportMap && e.asid == p.asid && (all || va / 2 ^ e.size == e.page)
    let used : Bool := accessUses s (curPart s) (if all then none else some va) ((s.tlb ++ s.tlbGone).filter names)
    (p.ktlbi = false → Completes (.tlbi a b) s (FaultsAt s 0x13 0)) ∧
    (p.ktlbi = true → (ownAccessesSeen s = false ∨ used = true) → Completes (.tlbi a b) s (Blocked .other s)) ∧
    (p.ktlbi = true → ownAccessesSeen s = true → used = false →
      Completes (.tlbi a b) s fun t => SeqOnly { s with tlb := t.tlb, tlbGone := t.tlbGone } t 1 64 [] ∧
        (∀ e, e ∈ t.tlb ↔ e ∈ s.tlb ∧ ¬ names e) ∧ ∀ e, e ∈ t.tlbGone ↔ e ∈ s.tlbGone ∧ ¬ names e)) ∧
  (∀ (d a : Reg) (s : State),
    let va := (rd s a).toNat
    let w := lookup s (curDie s) (curPart s) va (curTlb s)
    let Gives (v : Word) : Prop := Completes (.tlbs d a) s fun t => ∃ u, OnlyCounting s u ∧ WritesReg u d v 1 t
    (2 ^ 56 ≤ va → Gives 2) ∧
    (0xFF_0000_0000_0000 ≤ va → va < 0xFF_0004_0000_0000 → Gives 3) ∧
    (0xFF_0004_0000_0000 ≤ va → Gives 2) ∧
    (va < 0xFF_0000_0000_0000 → w = .absent → Gives 1) ∧
    (va < 0xFF_0000_0000_0000 → w = .bad → Gives 2) ∧
    (∀ c, va < 0xFF_0000_0000_0000 → w = .error c → Completes (.tlbs d a) s (FaultsAt s c va)) ∧
    ∀ e n, va < 0xFF_0000_0000_0000 → w = .leaf e n → n ∈ [16, 21, 30] →
      Gives (BitVec.ofNat 64 (2 ^ 3 * (e.toNat / 2 % 8) + 2 ^ 6 * (e.toNat / 2 ^ 5 % 4) + 2 ^ 8 * (e.toNat / 2 ^ 7 % 8) +
        2 ^ 11 * (e.toNat / 2 ^ 10 % 16) + 2 ^ 15 * (if n = 16 then 0 else if n = 21 then 1 else 2))))

/-- R421: CSWAP waits in place where the gang has more cores than one or no slot is free, goes on when its time has come (the core may then be offered,
R329), and otherwise asks for a park with its wake time. -/
def Obligations.ContextSwap : Prop := ∀ (a : Reg) (s : State),
  let w := (rd s a).toNat
  let inPlace : Prop := aloneInGang s = false ∨ canPark s s.cur.1 = false
  (inPlace → s.cycle < w → Completes (.cswap a) s (Blocked .other (setCurSeq s { curSeq s with wakeAt := some w }))) ∧
  (inPlace → w ≤ s.cycle → Completes (.cswap a) s fun t => SeqOnly s t 1 1 []) ∧
  (¬ inPlace → s.cycle < w → Completes (.cswap a) s fun t => ∃ u, SeqOnly s u 1 1 [] ∧ t = askPark u s.cur.1 w) ∧
  (¬ inPlace → w ≤ s.cycle → Completes (.cswap a) s fun t => ∃ u, SeqOnly s u 1 1 [] ∧ (t = u ∨ t = askPark u s.cur.1 0))

/-! ## The step -/

/-- A step runs the instruction at the program counter (R12, R54, R55, R81, R82): when the parcels there decode to i, no register it names waits for an
access and no page request of it was answered with FAIL (the step is then its translation fault, R403), the step is exec of i in the state in which the sequencer is the executing one, and both CYCLE and its clock stand at the first cycle that is no
earlier than either, than the results that it reads and than the MTS that it depends on. Around it, every X result lands no later than in the cycle of its
bound (R68), the turn may end a step of the debugger (R424), and the cycles that it took may count for a watchdog (R404). -/
def Obligations.StepRunsTheDecodedInstruction : Prop := ∀ (before : State) (c : Nat) (sq : Seq) (i : Instr) (rest : List Turn),
  let s := landDue before
  let q := getSeq s c sq
  let n := q.pc.toNat / 4
  let p0 := Machine.parcelAt q n
  let p1 := Machine.parcelAt q (n + 1)
  canIssue s c sq = true → q.pc.toNat % 4 = 0 → n < storeParcels sq → (isWide p0 = true → n + 1 < storeParcels sq) → decode sq p0 p1 = .ok i →
  interlocked s c sq i = false →
    (q.pageFail = false → s.agenda = [] → s.cur = (c, sq) → q.wait = .none → step before = passTime before (endTurn c sq (exec i (atIssue s c sq i)))) ∧
    (q.pageFail = false → s.agenda = .seq c sq :: rest → c < 576 →
      step before = passTime before (endTurn c sq (exec i (atIssue { s with agenda := rest } c sq i)))) ∧
    (q.pageFail = true → s.agenda = .seq c sq :: rest → c < 576 →
      let u := atIssue { s with agenda := rest } c sq i
      ∃ t, FaultsAt u 0x12 q.stallAddr.toNat t ∧ step before = passTime before (endTurn c sq (.next t))) ∧
    (let t := ((sysUsed i).map (tget 0 q.sysReady) ++ (regsRead i).map fun r => tget 0 q.gready r.toNat).foldl max (max s.cycle q.clock)
     atIssue s c sq i = setSeq (setCtx { s with cur := (c, sq), cycle := t } c (landBy t (getCtx s c))) c sq { q with clock := t }) ∧
    (∀ t : State, t.mgmt.dbg.stepping = false → endTurn c sq (.next t) = .next t) ∧
    (s = { before with cores := s.cores } ∧ ∀ n, getCtx s n = landBy before.cycle (getCtx before n)) ∧
    ∀ t : State, t.cycle = before.cycle → passTime before (.next t) = .next t

/-- R74, R81, R405: a turn of a sequencer that cannot issue does nothing, among others where its next instruction would issue 80 cycles or more after the halt line
was raised, until the halt is complete;
of one whose parcels decode to no instruction, or lie outside the store, raises
the illegal-instruction fault; of one that names a register that an access in flight still writes, waits. A turn of another agent is exec of its event; nothing happens where an engine
is at its stop point, in a halt or 320 cycles after the halt line was raised, or where the management window does not answer yet (R396), and the event may end a step
of the debugger (R424); an instruction with an encoding is no event, and an event of a unit that the package does not have is the model's own fault. -/
def Obligations.StepOtherwise : Prop :=
  (∀ (before : State) (c : Nat) (sq : Seq) (rest : List Turn), before.agenda = .seq c sq :: rest → c < 576 →
    let s := landDue before
    let q := getSeq s c sq
    let n := q.pc.toNat / 4
    let p0 := Machine.parcelAt q n
    let u : State := { s with agenda := rest, cur := (c, sq) }
    (canIssue s c sq = false → step before = .next u) ∧
    (∀ p, partOfCore s c = some p → (getPart s p).halt.raised = true → (getPart s p).halt.halted = false →
      (getPart s p).halt.raisedAt + 80 ≤ max s.cycle q.clock → step before = .next u) ∧
    (canIssue s c sq = true →
      ((∀ i, decode sq p0 (Machine.parcelAt q (n + 1)) ≠ .ok i) ∨ q.pc.toNat % 4 ≠ 0 ∨ storeParcels sq ≤ n ∨ (isWide p0 = true ∧ storeParcels sq ≤ n + 1)) →
      ∃ t, FaultsAt u 0x10 0 t ∧ step before = passTime before (endTurn c sq (.next t))) ∧
    (∀ i, canIssue s c sq = true → q.pc.toNat % 4 = 0 → n < storeParcels sq → (isWide p0 = true → n + 1 < storeParcels sq) →
      decode sq p0 (Machine.parcelAt q (n + 1)) = .ok i → interlocked s c sq i = true →
        ∃ t, Blocked .other u t ∧ step before = passTime before (endTurn c sq (.next t)))) ∧
  (∀ (before : State) (i : Instr) (rest : List Turn), before.agenda = .event i :: rest →
    let u : State := { landDue before with agenda := rest }
    (encode i ≠ [] → step before = .next u) ∧
    (encode i = [] → i.wf = false → step before = .fault .noSuchUnit) ∧
    (encode i = [] → i.wf = true → cannotReach u i = true → step before = .next u) ∧
    (∀ p, encode i = [] → i.wf = true → engineOf u i = some p → (getPart u p).halt.raised = true →
      ((getPart u p).halt.halted = true ∨ (getPart u p).halt.raisedAt + 320 ≤ u.cycle) → step before = .next u) ∧
    (encode i = [] → i.wf = true → eventHeld u i = false → step before = passTime before (eventEnds u i (exec i u))) ∧
    ∀ t : State, t.mgmt.dbg.stepping = false → eventEnds u i (.next t) = .next t)

/-- R405, R375, R410: the precise fault of a sequencer raises its partition's halt line, which keeps the first origin (of two in one cycle the one with the
lower core number, then the lower unit number), and sets PIRQ.FAULT. -/
def Obligations.FaultRaisesTheHaltLine : Prop := ∀ (s : State) (k : BitVec 8) (a p : Nat),
  partOfCore s s.cur.1 = some p → (getPart s p).reset = .idle →
  ∃ t, fault k a s = .next t ∧ FaultsAt s k a t ∧
    let x := getPart s p
    let y := getPart t p
    y.halt.raised = true ∧ y.pirq.getLsbD 0 = true ∧
    (x.halt.raised = false → y.halt.cause = k ∧ y.halt.core = s.cur.1 ∧ y.halt.unit = unitOfSeq s.cur.2 ∧ y.halt.halted = false ∧
      y.halt.resumable = resumableCause k ∧ y.halt.serial = (curCtx s).kernid.toNat % 2 ^ 32) ∧
    (let wins : Prop := x.halt.raisedAt = s.cycle ∧ x.halt.halted = false ∧
        (s.cur.1 < x.halt.core ∨ s.cur.1 = x.halt.core ∧ unitOfSeq s.cur.2 < x.halt.unit)
     x.halt.raised = true → (¬ wins → y.halt = x.halt) ∧
       (wins → y.halt = { x.halt with
          cause := k, core := s.cur.1, unit := unitOfSeq s.cur.2, serial := (curCtx s).kernid.toNat % 2 ^ 32, resumable := resumableCause k })) ∧
    ∀ r, r ≠ p → getPart t r = getPart s r

/-! ## Invariants and encodings -/

/-- Every step keeps the canonical form of memory: addresses strictly rising, no listed byte equal to an unlisted one. -/
def Obligations.StepKeepsMemoryCanonical : Prop := ∀ s t, MemoryCanonical s → step s = .next t → MemoryCanonical t

/-- R39: an instruction that a sequencer executes changes the g registers of no other sequencer: of no other core, and, but for the third-level trap of TRAP
and BRK, of none of its own core. -/
def Obligations.RegistersArePrivate : Prop := ∀ (i : Instr) (s t : State), encode i ≠ [] → exec i s = .next t →
  (∀ c sq, c ≠ s.cur.1 → (getSeq t c sq).g = (getSeq s c sq).g) ∧
  ((∀ imm, i ≠ .trap imm ∧ i ≠ .brk imm) → ∀ sq, sq ≠ s.cur.2 → (getSeq t s.cur.1 sq).g = (getSeq s s.cur.1 sq).g)

/-- R57, R60, R65: decoding the words that encode a well-formed instruction gives the instruction back, with every operand at every value. A control
instruction decodes in every sequencer whatever follows it (R55). -/
def Obligations.DecodeOfEncode : Prop := ∀ i : Instr, i.wf = true →
  (∀ w, encode i = [w] → ∀ sq p1, decode sq w p1 = .ok i) ∧ (∀ a b, encode i = [a, b] → ∃ sq, decode sq a b = .ok i)

/-- R36, R51 to R53, R368, R371, R396: the machine right after package reset: CYCLE is 0, no partition is enabled, every bank is gated, no
sequencer has a cell, the interrupt masks are all ones, and memory is in canonical form. Registers whose reset value the manual does not give are 0
(log entry 5). -/
def Obligations.ResetState : Prop :=
  let s := State.reset
  MemoryCanonical s ∧ s.cycle = 0 ∧ s.mgmt.mimask = 0x3F ∧ s.mgmt.boot = .inReset ∧
  (∀ p, (getPart s p).en = false ∧ (getPart s p).pimask = 0xF ∧ (getPart s p).halt.raised = false) ∧
  ∀ c sq, (getCtx s c).gated = 0xFF ∧ (getCtx s c).bankOn = 0 ∧ (getSeq s c sq).run = .noCell ∧ (getSeq s c sq).tlevel = 0 ∧
    (∀ r, regOf (getSeq s c sq) r = 0) ∧ (getCore s c).mprog = 0 ∧ canIssue s c sq = false

/-- R54, R57, R60, R65, R81, R84 to R98, R197, R250: what words written out from the encoding tables stand for. -/
def Obligations.DecodedWords : Prop :=
  let m : XQ := { stall := 0, nf := false, k := 0 }
  let C (w : BitVec 32) (i : Instr) : Prop := ∀ sq, decode sq w 0 = .ok i
  let X (a b : BitVec 32) (i : Instr) : Prop := decode .X a b = .ok i
  let L (a b : BitVec 32) (i : Instr) : Prop := decode .L a b = .ok i
  let S (a b : BitVec 32) (i : Instr) : Prop := decode .S a b = .ok i
  C 0x02000000 .nop ∧ C 0x141007F0 (.lui 1 0x7F0) ∧ C 0x08108091 (.ori 1 1 0x91) ∧ C 0x0C108015 (.shli 1 1 21) ∧ C 0x02108808 (.orr 1 1 2) ∧
  C 0x04327FFB (.addi 3 4 (-5)) ∧ C 0x42507FFD (.bne 5 0 (-3)) ∧ C 0x60040005 (.loop 0 1 5) ∧ C 0x62001408 (.loopi 0 5 8) ∧ C 0x46410002 (.bge 4 2 2) ∧
  C 0x64000000 (.lbrk 0) ∧ C 0x7E021401 (.tlbi 4 5) ∧ C 0x7E638002 (.tlbs 6 7) ∧ C 0x7E038003 (.cswap 7) ∧
  X 0xA20FA7E3 0x03000308 (.vfmul .bf16 .none (.w 1) (.q 3) (.dir 12) { stall := 4, nf := false, k := 2 }) ∧
  X 0xA3000402 0x00C042C8 (.vfma .bf16 (.dir 1) (.dir 2) (.dir 3) (.dir 4) { stall := 3, nf := false, k := 2 }) ∧
  X 0xC0801406 0x00000600 (.vcvtFloatToFloat .fp8e4 .f32 .rne true .none (.dir 5) (.dir 6) m) ∧
  X 0xC720A3E1 0x00000200 (.cbx .three 2 (.dir 40) (.q 1) m) ∧ X 0xD5001C64 0xF8800000 (.vgth (.dir 7) (.dir 100) (.q 2) m) ∧
  X 0xE5300402 0x00C00000 (.kop .andn 1 2 3 m) ∧ X 0xE6000401 0 (.kset 1 1 m) ∧ X 0xD1000402 0x40 (.vbcst (.dir 1) 2 { m with stall := 1 }) ∧
  X 0xF0003405 0 (.mcfg 13 5 m) ∧ X 0xF2000000 0 (.mgo m) ∧ X 0xF3001400 0 (.mwait 5 m) ∧ X 0xF4000807 0x0000F000 (.aclr (.dir 2) 7 15 m) ∧
  X 0xE8000000 0 (.sms m) ∧ X 0xEB000003 0 (.sig 3 m) ∧ X 0xEE0017E2 0 (.qtst 5 2 m) ∧ X 0xEF0FA7E0 0 (.qfwd 1 0 m) ∧
  L 0x820F88E8 0x00200350 (.ldq 2 { gb := 7, gx := 8, off := 128, slot := some 5 } .fe) ∧
  L 0x81003060 0x00100000 (.ldv (.dir 12) { gb := 3, gx := 0, off := 64, slot := none } .none) ∧
  L 0x840F8023 0 (.gthq 0 3 { gb := 1, off := 0, slot := none }) ∧ L 0xD10F8400 0x00000120 (.rqgt 1 2) ∧
  S 0x820FA480 0x00400320 (.stq 1 { gb := 4, gx := 0, off := 256, slot := some 2 } .fe) ∧ S 0x850FA023 0 (.sct 0 3 { gb := 1, off := 0, slot := none }) ∧
  S 0xA00014E6 0x00020800 (.atadd .w64 .none .clus 5 6 { gb := 7, off := 8, slot := none }) ∧ S 0xB0200000 0x00001000 (.fence .rel .die) ∧
  S 0xD1000D00 0 (.coll 3 { gb := 8, gx := 0, off := 0, slot := none })

/-! ## Vector instructions -/

/-- R115, R141: an exact integer is delivered unchanged where the format holds it; elsewhere it wraps, or with .sat clamps to the nearer end of the
range and sets SAT. R63, R137, R141: the integer arithmetic instructions form the exact result of their elements and deliver it in the format. -/
def Obligations.IntegerVectorArithmetic : Prop :=
  (∀ (f : IFmt) (sat : Bool) (x : Int),
    let r := deliverInt f sat x
    let w := f.width
    let lo : Int := if f.signed then -(2 ^ (w - 1) : Nat) else 0
    let hi : Int := if f.signed then (2 ^ (w - 1) : Nat) - 1 else (2 ^ w : Nat) - 1
    r.1 < 2 ^ w ∧ (lo ≤ x → x ≤ hi → r.2 = 0 ∧ readInt f r.1 = x) ∧
    (sat = false → r.2 = 0 ∧ ((2 ^ w : Nat) : Int) ∣ readInt f r.1 - x) ∧
    (sat = true → x < lo → r.2 = flagSAT ∧ readInt f r.1 = lo) ∧ (sat = true → hi < x → r.2 = flagSAT ∧ readInt f r.1 = hi)) ∧
  (∀ (f : IFmt) (sat : Bool) (sel : Sel) (d a b c : Opnd) (q : XQ) (s : State),
    let w := f.width
    let el (srcs : List Opnd) (n : Nat) (j e : Nat) : Int := readInt f (elem w (srcVec s srcs n) (32 / w * j + e))
    let One (i : Instr) (op : Int → Int) : Prop := XDelivers s i [a] d q 2 sameLane
      (ElementsAre s q w fun j e => deliverInt f sat (op (el [a] 0 j (selA sel e))))
    let Two (i : Instr) (n : Nat) (t : Bool) (op : Int → Int → Int) : Prop := XDelivers s i [a, b] d q n sameLane
      (ElementsAre s q w fun j e => deliverInt f t (op (el [a, b] 0 j (selA sel e)) (el [a, b] 1 j (selB sel e))))
    Two (.vadd f sat sel d a b q) 2 sat (· + ·) ∧ Two (.vsub f sat sel d a b q) 2 sat (· - ·) ∧ Two (.vmul f sat sel d a b q) 4 sat (· * ·) ∧
    Two (.vmulh f sel d a b q) 4 false (fun x y => x * y / ((2 ^ w : Nat) : Int)) ∧
    Two (.vmin f sel d a b q) 2 false min ∧ Two (.vmax f sel d a b q) 2 false max ∧
    One (.vabs f sat sel d a q) (fun x => (x.natAbs : Int)) ∧ One (.vneg f sat sel d a q) (fun x => -x) ∧
    XDelivers s (.vmad f sat d a b c q) [a, b, c] d q 4 sameLane
      (ElementsAre s q w fun j e => deliverInt f sat (el [a, b, c] 0 j e * el [a, b, c] 1 j e + el [a, b, c] 2 j e)))

/-- R142, R143, R146: bitwise operations, shifts and VSAT. -/
def Obligations.VectorLogicAndShifts : Prop := ∀ (f : IFmt) (sel : Sel) (d a b : Opnd) (q : XQ) (s : State),
  let w := f.width
  let A (j : Nat) := lane (srcVec s [a, b] 0) j
  let B (j : Nat) := lane (srcVec s [a, b] 1) j
  let ea (j e : Nat) : Nat := elem w (srcVec s [a, b] 0) (32 / w * j + selA sel e)
  let eb (j e : Nat) : Nat := elem w (srcVec s [a, b] 1) (32 / w * j + selB sel e)
  let Logic (i : Instr) (v : Nat → BitVec 32) : Prop := XDelivers s i [a, b] d q 2 sameLane (LanesAre v)
  let Shift (i : Instr) (v : Nat → Nat → Nat) : Prop := XDelivers s i [a, b] d q 2 sameLane (ElementsAre s q w fun j e => (v (ea j e) (eb j e), 0))
  Logic (.vand d a b q) (fun j => A j &&& B j) ∧ Logic (.vor d a b q) (fun j => A j ||| B j) ∧
  Logic (.vxor d a b q) (fun j => A j ^^^ B j) ∧ Logic (.vandn d a b q) (fun j => A j &&& ~~~ B j) ∧
  Shift (.vshl f sel d a b q) (fun x m => x * 2 ^ m % 2 ^ w) ∧ Shift (.vshr f sel d a b q) (fun x m => x / 2 ^ m) ∧
  Shift (.vsra f sel d a b q) (fun x m => (sextN x w / ((2 ^ m : Nat) : Int) % ((2 ^ w : Nat) : Int)).toNat) ∧
  (let x (j : Nat) : Int := (lane (srcVec s [a] 0) j).toInt
   let y (j : Nat) : Int := max (intRange f).1 (min (intRange f).2 (x j))
   XDelivers s (.vsat f d a q) [a] d q 2 sameLane
     (LanesWith s q (fun j => BitVec.ofInt 32 (y j)) (fun j => if y j = x j then 0 else flagSAT)))

/-- R120, R147, R148: TUNP decodes a byte into five trits of base-3 digits 0, +1, -1; VTACC adds the sum of the trits times a lane. -/
def Obligations.TernaryInstructions : Prop := ∀ (sat : Bool) (sel : Sel) (d a b : Opnd) (q : XQ) (s : State),
  let v (j : Nat) : Nat := (lane (srcVec s [a] 0) j).toNat / 2 ^ (8 * selA sel 0) % 256
  let nib (j i : Nat) : Nat := elem 4 (srcVec s [a, b, d] 0) (8 * j + i)
  let es : List Nat := match sel with
    | .a i => [i.toNat]
    | _ => List.range 8
  let T (x : Nat) : Int := if x = 1 then 1 else if x = 15 then -1 else 0
  let x (j : Nat) : Int := (lane (srcVec s [a, b, d] 2) j).toInt + (es.map fun e => T (nib j e)).sum * (lane (srcVec s [a, b, d] 1) j).toInt
  XDelivers s (.tunp sel d a q) [a] d q 3 sameLane (fun o => ∀ j, j < 64 →
    (∀ i, i < 8 → ((lane o.data j).toNat / 2 ^ (4 * i) % 16 = if i < 5 ∧ v j < 243 then [0, 1, 15].getD (v j / 3 ^ i % 3) 0 else 0)) ∧
    laneFlags o.flags j = if maskBit (activeOf s q) j ∧ 243 ≤ v j then flagILT else 0) ∧
  XDelivers s (.vtacc sat sel d a b q) [a, b, d] d q 2 sameLane (LanesWith s q (fun j => BitVec.ofNat 32 (deliverInt .i32 sat (x j)).1)
    (fun j => (deliverInt .i32 sat (x j)).2 ||| if es.all (fun e => [0, 1, 15].contains (nib j e)) then 0 else flagILT))

/-- R41, R64, R144, R145, R152, R171, R172: comparisons into a mask, mask logic, and the merge of two vectors. Masks are stated for an X without a
mask write in flight (with one, R68 leaves the bits read undefined: log entry 6). R64, R144, R152: the predicates: .ne is the complement of .eq; with
a NaN only .ne and .un hold; -0 equals +0; finite values stand in the order of their values, between the infinities. -/
def Obligations.MaskInstructions : Prop :=
  (∀ (fi : IFmt) (ff : FFmt) (p : Pred) (sel : Sel) (op : KOpKind) (kd ka kb : BitVec 3) (d a b : Opnd) (g : Reg)
      (q : XQ) (s : State),
    let x := xContext s
    let el (w n j e : Nat) : Nat := elem w (srcVec s [a, b] n) (32 / w * j + e)
    let k (n : BitVec 3) : Mask := if n = 0 then BitVec.allOnes 64 else tget 0 x.k n.toNat
    let bit (u v : Bool) : Bool := match op with
      | .and => u && v
      | .or => u || v
      | .xor => u != v
      | .andn => u && !v
      | .orn => u || !v
      | .xnor => u == v
    XMask s (.vcmp fi p sel kd a b q) [a, b] kd q 2 (fun j => decide (∀ e, e < 32 / fi.width →
      predHolds p (some (compare (readInt fi (el fi.width 0 j (selA sel e))) (readInt fi (el fi.width 1 j (selB sel e))))) = true)) ∧
    XMask s (.vfcmp ff p sel kd a b q) [a, b] kd q 5 (fun j => decide (∀ e, e < 32 / ff.width →
      predHolds p (fcompare ff (el ff.width 0 j (selA sel e)) (el ff.width 1 j (selB sel e))) = true)) ∧
    XMask s (.kset kd g q) [] kd q 1 (fun j => (rd s g).getLsbD j) ∧
    ((∀ r ∈ x.xres, r.k = none) → XMask s (.kop op kd ka kb q) [] kd q 1 (fun j => bit ((k ka).getLsbD j) ((k kb).getLsbD j))) ∧
    XGives s (.vsel d a b q) [a, b] d q 2 (fun o =>
      let kn := activeOf s q
      o.lanes = BitVec.allOnes 64 ∧ o.flags = 0 ∧ o.oor = none ∧ (∀ j, j < 2048 → o.bits.getLsbD j = true) ∧
      ∀ j, j < 64 → lane o.data j = lane (srcVec s [a, b] (if maskBit kn j then 0 else 1)) j ∧
        ∀ y, (srcsOf s [a, b])[if maskBit kn j then 0 else 1]? = some y → maskBit o.valid j = maskBit y.valid j ∧ maskBit o.mz j = maskBit y.lost j)) ∧
  (∀ (x y : Int) (f : FFmt) (u v : Nat),
    let h (p : Pred) : Bool := predHolds p (some (compare x y))
    let g (p : Pred) : Bool := predHolds p (fcompare f u v)
    let unordered : Prop := isNaN (decodeF f u) = true ∨ isNaN (decodeF f v) = true
    (h .eq = true ↔ x = y) ∧ (h .ne = true ↔ x ≠ y) ∧ (h .lt = true ↔ x < y) ∧ (h .le = true ↔ x ≤ y) ∧ (h .gt = true ↔ y < x) ∧ (h .ge = true ↔ y ≤ x) ∧
    (unordered → ∀ p, g p = true ↔ p = .ne ∨ p = .un) ∧ (¬ unordered → g .un = false ∧ (g .ne = !g .eq) ∧ (g .le = (g .lt || g .eq)) ∧ (g .ge = !g .lt)) ∧
    (∀ s t e e', decodeF f u = .fin s 0 e → decodeF f v = .fin t 0 e' → g .eq = true) ∧
    (∀ s t m n e e' p, decodeF f u = .fin s m e → decodeF f v = .fin t n e' →
      let k := min e e'
      g p = predHolds p (some (compare (signedM s m * 2 ^ (e - k).toNat) (signedM t n * 2 ^ (e' - k).toNat)))) ∧
    (∀ s p, decodeF f u = .inf s → ¬ unordered → g p = predHolds p (some (if decodeF f v = .inf s then .eq else if s then .lt else .gt))) ∧
    (∀ s p, decodeF f v = .inf s → ¬ unordered → g p = predHolds p (some (if decodeF f u = .inf s then .eq else if s then .gt else .lt))))

/-- R149, R150, R151, R153: the floating-point instructions apply their operation to the decoded elements. R110, R111, R113, R149 to R151: special
values: NaN operands give the canonical NaN and no flag; invalid operations NV; a division of a nonzero value by zero DZ; the quotient of a zero is +0,
of a finite value by an infinity the zero of their sign. R111: the result of finite operands is their exact sum, product, fused sum, quotient, reciprocal or reciprocal square root
rounded once. R111 to R113: how an exact value n × 2^i / (d × 2^j) rounds in each format and mode: between two codes to one of them with NX, and UF where it is smaller than
the smallest normal magnitude; at or beyond the overflow point to what that point becomes, with OF and NX. -/
def Obligations.FloatVectorArithmetic : Prop :=
  (∀ (f : FFmt) (sel : Sel) (d a b c : Opnd) (q : XQ) (s : State),
    let w := f.width
    let el (srcs : List Opnd) (n j e : Nat) : Nat := elem w (srcVec s srcs n) (32 / w * j + e)
    let One (i : Instr) (n : Nat) (op : Val → Nat × Flags) : Prop := XDelivers s i [a] d q n sameLane
      (ElementsAre s q w fun j e => op (decodeF f (el [a] 0 j (selA sel e))))
    let Two (i : Instr) (n : Nat) (op : Val → Val → Nat × Flags) : Prop := XDelivers s i [a, b] d q n sameLane
      (ElementsAre s q w fun j e => op (decodeF f (el [a, b] 0 j (selA sel e))) (decodeF f (el [a, b] 1 j (selB sel e))))
    let Pick (i : Instr) (largest : Bool) : Prop := XDelivers s i [a, b] d q 5 sameLane
      (ElementsAre s q w fun j e => (fpick f largest (el [a, b] 0 j (selA sel e)) (el [a, b] 1 j (selB sel e)), 0))
    let Fused (i : Instr) (negate : Bool) : Prop := XDelivers s i [a, b, c] d q 5 sameLane (ElementsAre s q w fun j e =>
      ffma f negate (decodeF f (el [a, b, c] 0 j e)) (decodeF f (el [a, b, c] 1 j e)) (decodeF f (el [a, b, c] 2 j e)))
    Two (.vfadd f sel d a b q) 5 (fadd f) ∧ Two (.vfsub f sel d a b q) 5 (fsub f) ∧ Two (.vfmul f sel d a b q) 5 (fmul f) ∧
    Fused (.vfma f d a b c q) false ∧ Fused (.vfnma f d a b c q) true ∧ Pick (.vfmin f sel d a b q) false ∧ Pick (.vfmax f sel d a b q) true ∧
    Two (.vfdiv f sel d a b q) 12 (fdiv f) ∧ One (.vrcp f sel d a q) 12 (frcp f) ∧ One (.vrsq f sel d a q) 12 (frsq f) ∧
    One (.vexp2 f sel d a q) 12 (fexp2 f) ∧ One (.vlog2 f sel d a q) 12 (flog2 f) ∧
    XDelivers s (.vfcls f sel d a q) [a] d q 5 sameLane (ElementsAre s q w fun j e => (fclass f (el [a] 0 j (selA sel e)), 0))) ∧
  (∀ (f : FFmt) (x y z : Val), f = .f32 ∨ f = .bf16 ∨ f = .f16 →
    let nan : Nat := if f = .f32 then 0x7FC00000 else if f = .bf16 then 0x7FC0 else 0x7E00
    let inf (neg : Bool) : Nat := (if f = .f32 then 0x7F800000 else if f = .bf16 then 0x7F80 else 0x7C00) + if neg then 2 ^ (f.width - 1) else 0
    (isNaN x = true ∨ isNaN y = true → fadd f x y = (nan, 0) ∧ fsub f x y = (nan, 0) ∧ fmul f x y = (nan, 0) ∧ fdiv f x y = (nan, 0) ∧
      ffma f false x y z = (nan, 0) ∧ ffma f true x y z = (nan, 0)) ∧
    (isNaN x = true → frcp f x = (nan, 0) ∧ frsq f x = (nan, 0) ∧ fexp2 f x = (nan, 0) ∧ flog2 f x = (nan, 0)) ∧
    (∀ s t m e, fadd f (.inf s) (.inf (!s)) = (nan, flagNV) ∧ fsub f (.inf s) (.inf s) = (nan, flagNV) ∧ fadd f (.inf s) (.inf s) = (inf s, 0) ∧
      fadd f (.inf s) (.fin t m e) = (inf s, 0) ∧ fmul f (.inf s) (.fin t 0 e) = (nan, flagNV) ∧ fmul f (.inf s) (.inf t) = (inf (s != t), 0) ∧
      fdiv f (.fin s 0 e) (.fin t 0 e) = (nan, flagNV) ∧ fdiv f (.inf s) (.inf t) = (nan, flagNV) ∧
      fdiv f (.fin s m e) (.inf t) = (if s != t then 2 ^ (f.width - 1) else 0, 0) ∧
      (m ≠ 0 → fdiv f (.fin s 0 e) (.fin t m e) = (0, 0) ∧ fdiv f (.fin s m e) (.fin t 0 e) = (inf (s != t), flagDZ) ∧ frsq f (.fin true m e) = (nan, flagNV) ∧ flog2 f (.fin true m e) = (nan, flagNV)) ∧
      flog2 f (.fin s 0 e) = (inf true, flagDZ) ∧ fexp2 f (.inf true) = (0, 0) ∧ fexp2 f (.inf false) = (inf false, 0)) ∧
    (∀ s t v m n l e g h,
      let Sum (got : Nat × Flags) (s : Bool) (m : Nat) (e : Int) (t : Bool) (n : Nat) (g : Int) : Prop := ∃ u r,
        let k := min e g
        got = roundDyadic f .rne false u r k ∧ signedM u r = signedM s m * 2 ^ (e - k).toNat + signedM t n * 2 ^ (g - k).toNat ∧
        (r = 0 → (u = true ↔ m = 0 ∧ n = 0 ∧ s = true ∧ t = true))
      let ratio (a : Nat) (i : Int) (b : Nat) (j : Int) : Cmp := fun c k => cmpDyadic (c * b) (k + j) a i
      mulVal (.fin s m e) (.fin t n g) = some (.fin (s != t) (m * n) (e + g)) ∧
      Sum (fadd f (.fin s m e) (.fin t n g)) s m e t n g ∧ Sum (fsub f (.fin s m e) (.fin t n g)) s m e (!t) n g ∧
      fmul f (.fin s m e) (.fin t n g) = roundDyadic f .rne false (s != t) (m * n) (e + g) ∧
      Sum (ffma f false (.fin s m e) (.fin t n g) (.fin v l h)) (s != t) (m * n) (e + g) v l h ∧
      Sum (ffma f true (.fin s m e) (.fin t n g) (.fin v l h)) (s == t) (m * n) (e + g) v l h ∧
      (m ≠ 0 → n ≠ 0 → fdiv f (.fin s m e) (.fin t n g) = roundMag f .rne false (s != t) (ratio m e n g)) ∧
      (n ≠ 0 → frcp f (.fin t n g) = roundMag f .rne false t (ratio 1 0 n g) ∧
        frsq f (.fin false n g) = roundMag f .rne false false fun c k => cmpDyadic (c * c * n) (2 * k + g) 1 0))) ∧
  (∀ (f : FFmt) (r : Round) (sat neg : Bool) (m n d : Nat) (e i j : Int), n ≠ 0 → d ≠ 0 →
    let x : Cmp := fun c k => cmpDyadic (c * d) (k + j) n i
    let at' (c : Nat) : Ordering := x (magVal f c).1 (magVal f c).2
    let omega : Nat := maxCode f + 1
    let half (c : Nat) : Ordering := x (midVal f c).1 (midVal f c).2
    let away : Bool := r == .rup && !neg || r == .rdn && neg
    let beyond : Nat × Flags := match f with
      | .fp8e4 => if sat then (withSign f neg 0x7E, flagSAT) else (0x7F, 0)
      | .fp4 | .mk8 => (withSign f neg (maxCode f), flagSAT)
      | _ => (withSign f neg omega, 0)
    let got := roundMag f r sat neg x
    (roundDyadic f r sat neg 0 e = (withSign f neg 0, 0)) ∧ (m ≠ 0 → roundDyadic f r sat neg m e = roundMag f r sat neg fun c k => cmpDyadic c k m e) ∧
    (∀ c, (midVal f c).1 * 2 ^ ((midVal f c).2 + 1 - min (magVal f c).2 (magVal f (c + 1)).2).toNat =
      (magVal f c).1 * 2 ^ ((magVal f c).2 - min (magVal f c).2 (magVal f (c + 1)).2).toNat +
      (magVal f (c + 1)).1 * 2 ^ ((magVal f (c + 1)).2 - min (magVal f c).2 (magVal f (c + 1)).2).toNat) ∧
    (∀ c, c < omega → at' c = .eq → got = (withSign f neg c, 0)) ∧
    (∀ c, c < omega → at' c = .lt → at' (c + 1) = .gt →
      let up : Bool := away || (r == .rne && (half c == .lt || half c == .eq && c % 2 == 1)) || (r == .rna && half c != .gt)
      (up = true → c + 1 = omega → got = (beyond.1, beyond.2 ||| flagOF ||| flagNX)) ∧
      (¬ (up = true ∧ c + 1 = omega) →
        got = (withSign f neg (if up then c + 1 else c), flagNX ||| if x 1 (minNormal f) = .gt then flagUF else 0))) ∧
    (at' omega ≠ .gt →
      (r = .rz ∨ (r = .rup ∧ neg = true) ∨ (r = .rdn ∧ neg = false) → got = (withSign f neg (maxCode f), flagOF ||| flagNX)) ∧
      (¬ (r = .rz ∨ (r = .rup ∧ neg = true) ∨ (r = .rdn ∧ neg = false)) → got = (beyond.1, beyond.2 ||| flagOF ||| flagNX))))

/-- R108, R111, R112, R116: a value that a format holds rounds to its own code, with no flag, in every rounding mode. -/
def Obligations.ExactValuesRoundToThemselves : Prop := ∀ (f : FFmt) (r : Round) (sat neg : Bool) (c m : Nat) (e : Int),
  c < 2 ^ f.width → decodeF f c = .fin neg m e → deliverVal f r sat (.fin neg m e) = (c, 0)

/-- R155 to R157: conversions place the converted elements of each lane, or pack and widen in element-number order. R114, R115, R154: what a
conversion makes of a value that the destination does not hold. -/
def Obligations.Conversions : Prop :=
  (∀ (df sf : FFmt) (di si : IFmt) (fm : DFmt) (r : Round) (sat : Bool) (sel : Sel) (d a b : Opnd)
      (q : XQ) (s : State),
    let Places (i : Instr) (ws wd : Nat) (cvt : Nat → Nat × Flags) : Prop := XDelivers s i [a] d q 3 sameLane (ElementsAre s q wd fun j e =>
      let at0 (k : Nat) := cvt (elem ws (srcVec s [a] 0) (32 / ws * j + k))
      match sel with
      | .a k => if e = 0 then at0 k.toNat else (0, 0)
      | _ => if e < 32 / ws then at0 e else (0, 0))
    let w := fm.width
    Places (.vcvtFloatToFloat df sf r sat sel d a q) sf.width df.width (cvtFF df sf r sat) ∧
    Places (.vcvtFloatToInteger di sf r sel d a q) sf.width di.width (fun x => floatToInt di r (decodeF sf x)) ∧
    Places (.vcvtIntegerToFloat df si r sat sel d a q) si.width df.width (fun x => intToFloat df r sat (readInt si x)) ∧
    Places (.vcvtIntegerToInteger di si sat sel d a q) si.width di.width (fun x => deliverInt di sat (readInt si x)) ∧
    XDelivers s (.vpack fm r d a b q) [a, b] d q 3
      (fun i j => if i = 0 then (if j < 32 then [2 * j, 2 * j + 1] else []) else if j < 32 then [] else [2 * j - 64, 2 * j - 63])
      (ElementsAre s q w fun j e =>
        let n := 32 / w * j + e
        let v := if n < 32 * (32 / w) then elem (2 * w) (srcVec s [a, b] 0) n else elem (2 * w) (srcVec s [a, b] 1) (n - 32 * (32 / w))
        match fm with
        | .int k => (v % 2 ^ k.width, 0)
        | .fp g => deliverVal g r false (decodeF (widerF g) v)) ∧
    (w < 32 → XDelivers s (.vunpk fm d a q) [a] d q 3 (fun _ j => [j / 2]) (fun o => o.flags = 0 ∧ ∀ n, n < 32 * (32 / w) →
      let v := elem w (srcVec s [a] 0) n
      elem (2 * w) o.data n = match fm with
        | .int k => (readInt k v % ((2 ^ (2 * w) : Nat) : Int)).toNat
        | .fp g => (deliverVal (widerF g) .rne false (decodeF g v)).1 % 2 ^ (2 * w)))) ∧
  (∀ (f g : FFmt) (k : IFmt) (r : Round) (sat neg : Bool) (m : Nat) (e : Int) (x : Nat),
    (floatToInt k r .nan = (0, flagNV)) ∧ (floatToInt k r .nar = (0, flagNV)) ∧
    (floatToInt k r (.inf neg) = (zextI (if neg then (intRange k).1 else (intRange k).2) k.width, flagSAT)) ∧
    (let y := roundToInt r neg m e
     let z : Int := max (intRange k).1 (min (intRange k).2 y.1)
     (floatToInt k r (.fin neg m e)).1 < 2 ^ k.width ∧ readInt k (floatToInt k r (.fin neg m e)).1 = z ∧
     (floatToInt k r (.fin neg m e)).2 = (if z = y.1 then 0 else flagSAT) ||| if y.2 then flagNX else 0) ∧
    (cvtFF f f r sat x = if isNaN (decodeF f x) then (canonNaN f, 0) else (x, 0)) ∧ (f ≠ g → cvtFF f g r sat x = deliverVal f r sat (decodeF g x)) ∧
    (deliverVal .fp4 r sat .nan = (0, flagNV)) ∧ (deliverVal .mk8 r sat (.inf neg) = (0x80, flagNV)) ∧ (deliverVal .mk8 r sat .nan = (0x80, 0)) ∧
    (deliverVal .fp8e4 r sat (.inf false) = if sat then (0x7E, flagSAT) else (0x7F, flagNV)) ∧
    (let y := roundToInt r neg m e
     let v : Int := signedM neg m
     (0 ≤ e → y = (v * 2 ^ e.toNat, false)) ∧
     (e < 0 → let den : Nat := 2 ^ (-e).toNat
       let z : Int := y.1 * den
       let off : Nat := (z - v).natAbs
       (y.2 = false ↔ (den : Int) ∣ v) ∧ ((den : Int) ∣ v → z = v) ∧ off < den ∧ (r = .rz → z.natAbs ≤ m) ∧ (r = .rup → v ≤ z) ∧ (r = .rdn → z ≤ v) ∧
       (r = .rne ∨ r = .rna → 2 * off ≤ den) ∧ (r = .rne → 2 * off = den → y.1 % 2 = 0) ∧ (r = .rna → 2 * off = den → m < z.natAbs))))

/-- R158 to R160: CBLD writes lanes 0 to 7 of its source to table t, at granules 65,520 + 2t and the next; CBX reads entries of the table as it stands at
issue, by 3-bit or 4-bit indices. -/
def Obligations.CodebookInstructions : Prop := ∀ (n : CbBits) (t : BitVec 3) (d a : Opnd) (q : XQ) (s : State),
  let x := xContext s
  let g0 := 65520 + 2 * t.toNat
  let v := srcVec s [a] 0
  let idx (i : Nat) : Nat := match n with
    | .three => v.toNat / 2 ^ (3 * i) % 8
    | .four => v.toNat / 2 ^ (4 * i) % 16
  (s.cur.2 = .X → queuesReady x [a] = true → ∃ r, Completes (.cbld t a q) s (fun u => XIssued s u [a] q [] r) ∧ r.due = (curSeq s).clock + 3 ∧
    r.k = none ∧ r.setFlags = none ∧ r.push = none ∧
    r.writes = if (footprint x).getLsbD 7 then [(g0, BitVec.allOnes 128, vecGranule v 0), (g0 + 1, BitVec.allOnes 128, vecGranule v 1)] else []) ∧
  (Settled x g0 → Settled x (g0 + 1) →
    XDelivers s (.cbx n t d a q) [a] d q 3 (fun _ _ => List.range (match n with | .three => 12 | .four => 16)) (fun o => o.flags = 0 ∧
      ∀ i, i < 128 → elem 16 o.data i =
        if (footprint x).getLsbD 7 then (storeGranule x (g0 + idx i / 8)).toNat / 2 ^ (16 * (idx i % 8)) % 2 ^ 16 else 0))

/-- R161 to R163: moves, broadcasts, lane numbers, permutes and rotations. R166: VXTR extends element g[b] of a vector into g[d]; VINS writes one
element of an active lane and nothing else of its destination. -/
def Obligations.VectorMoves : Prop :=
  (∀ (d a b : Opnd) (g : Reg) (q : XQ) (s : State),
    let A (j : Nat) := lane (srcVec s [a] 0) j
    let idx (j : Nat) : Nat := (lane (srcVec s [a, b] 1) j).toNat
    let rot (j : Nat) : Nat := (j + (rd s g).toNat) % 64
    XDelivers s (.vmov d a q) [a] d q 2 sameLane (LanesAre A) ∧
    XDelivers s (.vbcst d g q) [] d q 2 sameLane (LanesAre fun _ => (rd s g).setWidth 32) ∧
    XDelivers s (.vidx d q) [] d q 2 sameLane (LanesAre fun j => BitVec.ofNat 32 j) ∧
    XDelivers s (.vperm d a b q) [a, b] d q 4 (fun i j => if i = 1 then [j] else if idx j < 64 then [idx j] else [])
      (LanesAre fun j => if idx j < 64 then lane (srcVec s [a, b] 0) (idx j) else 0) ∧
    XDelivers s (.vrot d a g q) [a] d q 4 (fun _ j => [rot j]) (LanesAre fun j => A (rot j))) ∧
  (∀ (f : IFmt) (d a : Opnd) (gd ga gb : Reg) (q : XQ) (s : State),
    let w := f.width
    let n := (rd s gb).toNat
    let p := 32 / w
    XReg s (.vxtr f gd a gb q) [a] gd q (if n < 64 * p then BitVec.ofInt 64 (readInt f (elem w (srcVec s [a] 0) n)) else 0) ∧
    XGives s (.vins f d ga gb q) [] d q 2 (fun o => o.flags = 0 ∧ o.mz = 0 ∧
      ∀ i, i < 2048 → o.bits.getLsbD i = (decide (n < 64 * p) && maskBit (activeOf s q) (n / p) && decide (i / w = n)) ∧
        (o.bits.getLsbD i = true → o.data.getLsbD i = (rd s ga).getLsbD (i % w))))

/-- R34, R35, R139, R164, R165: VGTH reads lane j of the operand indexed by its offset, zero where out of range; it writes the active lanes, a lane is valid
where its offset is, and an active lane whose offset is lost gets MZ. VSCT writes the active lanes whose offset is valid
and in range. -/
def Obligations.VectorGatherAndScatter : Prop := ∀ (d a b : Opnd) (q : XQ) (s : State),
  let x := xContext s
  let gi (j : Nat) : Nat := opIndex s a + (lane (srcVec s [b] 0) j).toNat
  let si (j : Nat) : Nat := opIndex s d + (lane (srcVec s [a, b] 1) j).toNat
  XGives s (.vgth d a b q) [b] d q 6 (fun o => o.lanes = activeOf s q ∧ o.bits = spreadMask (activeOf s q) ∧ o.flags = 0 ∧ ∀ j, j < 64 →
    maskBit o.valid j = ((srcsOf s [b]).all fun y => maskBit y.valid j) ∧
    maskBit o.mz j = (maskBit (activeOf s q) j && (srcsOf s [b]).any fun y => maskBit y.lost j) ∧
    (LaneAt x (gi j) j = none → lane o.data j = 0) ∧
    ∀ g, LaneAt x (gi j) j = some g → Settled x g → lane o.data j = BitVec.ofNat 32 ((storeGranule x g).toNat / 2 ^ (32 * (j % 4)))) ∧
  (s.cur.2 = .X → queuesReady x [a, b] = true → ∃ r, Completes (.vsct d a b q) s (fun t => XIssued s t [a, b] q [] r) ∧
    r.due = (curSeq s).clock + 6 ∧ r.k = none ∧ r.setFlags = none ∧ r.push = none ∧
    ∀ w, w ∈ r.writes ↔ ∃ j, j < 64 ∧ maskBit (activeOf s q) j = true ∧ (∀ y, (srcsOf s [a, b])[1]? = some y → maskBit y.valid j = true) ∧
      LaneAt x (si j) j = some w.1 ∧ w.2.1 = byteMask (4 * (j % 4)) 4 ∧
      w.2.2 = BitVec.ofNat 128 ((lane (srcVec s [a, b] 0) j).toNat * 2 ^ (32 * (j % 4))))

/-- R132, R167 to R170: integer sums clamped to 32 bits, extremes of the participating elements, floating-point sums in the order of R132 (level by level x[i] := x[2i] + x[2i + 1]
in FP32, elements that do not take part entering as +0, then one rounding to the format), the count of two masks, and rescaling by N / COUNT. -/
def Obligations.ReductionsAndScaling : Prop := ∀ (k : IFmt) (f : FFmt) (sel : Sel) (gd : Reg) (ka : BitVec 3) (d a b : Opnd) (q : XQ) (s : State),
  let w := k.width
  let xs : List Int := (takingPart s a q w).map (readInt k)
  let sum := deliverInt (if k.signed then .i32 else .n32) true xs.sum
  let ext (largest : Bool) : Int := match xs with
    | [] => if largest then (intRange k).1 else (intRange k).2
    | y :: t => t.foldl (if largest then max else min) y
  let fs := takingPart s a q f.width
  let fext (largest : Bool) : Nat := match fs with
    | [] => (deliverVal f .rne false (.inf largest)).1
    | y :: t => let r := t.foldl (fpick f largest) y
      if isNaN (decodeF f r) then canonNaN f else r
  let count (j : Nat) : Nat := (lane (srcVec s [a, b] 1) j).toNat % 2 ^ 16
  let total (j : Nat) : Nat := (lane (srcVec s [a, b] 1) j).toNat / 2 ^ 16
  XGives s (.vrsum (.int k) d a q) [a] d q 8 (fun o => ReducesTo s [a] q sum.2 o ∧ ∀ j, j < 64 → lane o.data j = BitVec.ofNat 32 sum.1) ∧
  XGives s (.vrmax (.int k) d a q) [a] d q 8 (fun o => ReducesTo s [a] q 0 o ∧ ∀ j, j < 64 → lane o.data j = BitVec.ofInt 32 (ext true)) ∧
  XGives s (.vrmin (.int k) d a q) [a] d q 8 (fun o => ReducesTo s [a] q 0 o ∧ ∀ j, j < 64 → lane o.data j = BitVec.ofInt 32 (ext false)) ∧
  XGives s (.vrmax (.fp f) d a q) [a] d q 8 (fun o => ReducesTo s [a] q 0 o ∧ ∀ n, n < 2048 / f.width → elem f.width o.data n = fext true % 2 ^ f.width) ∧
  XGives s (.vrmin (.fp f) d a q) [a] d q 8 (fun o => ReducesTo s [a] q 0 o ∧ ∀ n, n < 2048 / f.width → elem f.width o.data n = fext false % 2 ^ f.width) ∧
  XGives s (.vrsum (.fp f) d a q) [a] d q 8 (fun o => ∃ level : Nat → Nat → Nat × Flags,
    (∀ n, level 0 n = if n < 2048 / f.width ∧ Participates s a q f.width n = true then
      ((deliverVal .f32 .rne false (decodeF f (elem f.width (srcVec s [a] 0) n))).1, 0) else (0, 0)) ∧
    (∀ l n, level (l + 1) n =
      let x := level l (2 * n)
      let y := level l (2 * n + 1)
      let z := fadd .f32 (decodeF .f32 x.1) (decodeF .f32 y.1)
      (z.1, x.2 ||| y.2 ||| z.2)) ∧
    let top := level (if f.width = 32 then 6 else if f.width = 16 then 7 else if f.width = 8 then 8 else 9) 0
    let out := cvtFF f .f32 .rne false top.1
    ReducesTo s [a] q (top.2 ||| out.2) o ∧ ∀ n, n < 2048 / f.width → elem f.width o.data n = out.1 % 2 ^ f.width) ∧
  ((∀ r ∈ (xContext s).xres, r.k = none) → XReg s (.vmcnt gd ka q) [] gd q
    (BitVec.ofNat 64 ((List.range 64).countP fun j => maskBit (if ka = 0 then BitVec.allOnes 64 else tget 0 (xContext s).k ka.toNat) j &&
      maskBit (activeOf s q) j))) ∧
  XDelivers s (.vmscl f sel d a b q) [a, b] d q 5 sameLane (ElementsAre s q f.width fun j e =>
    if count j = 0 then (0, flagMZ) else fscale f (decodeF f (elem f.width (srcVec s [a, b] 0) (32 / f.width * j + selA sel e))) (total j) (count j))

/-- R32, R41, R45, R48, R68, R138: X_RESULT_LAND takes X's clock to the bound of its oldest result and lands, in the order of issue, every result whose bound is then reached: the
bytes that each writes of each granule, the bits of its mask register (k0 discards them), its flags, written whole or ORed in, and, once no earlier result is left that writes the store or pushes
to the same queue, its push. What is left in flight is what is not due, less the bytes and bits that a later result has written, and pushes that still wait. A write of the token word
leaves the tokens undefined (R272). With nothing in flight the event does nothing. -/
def Obligations.XResultLands : Prop := ∀ (s : State) (c : Nat),
  let x := getCtx s c
  (x.xres = [] → Completes (.xResultLand c) s fun t => t = s) ∧
  ∀ r rest, x.xres = r :: rest →
    let now := max x.seqX.clock r.due
    let due : List XResult := x.xres.filter fun e => decide (e.due ≤ now)
    let writes : List (Nat × Granule × Granule) := due.flatMap (·.writes)
    let push (e : XResult) : List (Nat × QEntry) := e.push.toList
    Completes (.xResultLand c) s fun t =>
      let y := getCtx t c
      t = setCtx s c y ∧ MemSame s t ∧
      { y with seqX := x.seqX, store := x.store, raced := x.raced, k := x.k, flags := x.flags, w := x.w, xres := x.xres, tokenBad := x.tokenBad } = x ∧
      y.seqX = { x.seqX with clock := now } ∧
      (∀ g, storeGranule y g = (writes.filter (·.1 == g)).foldl (fun v w => (w.2.2 &&& w.2.1) ||| (v &&& ~~~ w.2.1)) (storeGranule x g)) ∧
      (∀ n, n ≠ 0 → tget 0 y.k n = due.foldl (fun v e => match e.k with
        | some (m, b, u) => if m = n then (u &&& b) ||| (v &&& ~~~ b) else v
        | none => v) (tget 0 x.k n)) ∧
      y.flags = due.foldl (fun v e => (match e.setFlags with
        | some (m, u) => (u &&& m) ||| (v &&& ~~~ m)
        | none => v) ||| e.orFlags) x.flags ∧
      (y.tokenBad = true ↔ x.tokenBad = true ∨ ∃ w ∈ writes, w.1 = 0xFFDF ∧ w.2.1 >>> 64 ≠ 0) ∧
      -- pushes
      ((∀ e ∈ x.xres, e.due ≤ now) → y.xres = [] ∧ ∀ n, (getW y n).entries = (getW x n).entries ++ ((x.xres.flatMap push).filter (·.1 == n)).map (·.2)) ∧
      (∀ n, ∃ more, (getW y n).entries = (getW x n).entries ++ more ∧
        more ++ ((y.xres.flatMap push).filter (·.1 == n)).map (·.2) = ((x.xres.flatMap push).filter (·.1 == n)).map (·.2)) ∧
      -- what is left in flight
      (∀ e ∈ x.xres, now < e.due → ∃ f ∈ y.xres, f.due = e.due ∧ f.push = e.push ∧ f.orFlags = e.orFlags ∧ f.setFlags = e.setFlags ∧
        f.writes.map (fun w => (w.1, w.2.2)) = e.writes.map (fun w => (w.1, w.2.2))) ∧
      ∀ f ∈ y.xres, now < f.due ∨ (f.writes = [] ∧ f.k = none ∧ f.orFlags = 0 ∧ f.setFlags = none ∧ ∃ e ∈ due, f.push = e.push ∧ e.push ≠ none)

/-! ## Scheduling instructions -/

/-- R330, R331: QTST reads the state of a queue without popping; QFWD blocks until its queue holds an entry and its result queue has room, pops the head and
pushes it unchanged in 1 cycle, and it consumes no lane and sets no flag. -/
def Obligations.QueueTestAndForward : Prop := ∀ (d : BitVec 2) (a : BitVec 3) (g : Reg) (q : XQ) (s : State), s.cur.2 = .X →
  let x := xContext s
  let empty : Prop := (getQ x a.toNat).entries = []
  let room : Prop := (getW x d.toNat).entries.length + x.xres.countP (fun r => match r.push with
    | some (w, _) => w == d.toNat
    | none => false) < 16
  Completes (.qtst g a q) s (fun t => Holds t g (QueueWord (getQ x a.toNat)) ∧ SeqFrom s x 2 (spacing q) [g] t) ∧
  (empty ∨ ¬ room → Completes (.qfwd d a q) s (Blocked .queue s)) ∧
  ∀ e rest, (getQ x a.toNat).entries = e :: rest → room → Completes (.qfwd d a q) s fun t =>
    OnlyContext s t ∧ SeqDone x.seqX (curCtx t).seqX 2 (spacing q) [] ∧
    (curCtx t).xres = x.xres ++ [{ due := (curSeq s).clock + 1, writes := [], k := none, orFlags := 0, setFlags := none, push := some (d.toNat, e) }] ∧
    (getQ (curCtx t) a.toNat).entries = rest ∧ (∀ n, n ≠ a.toNat → getQ (curCtx t) n = getQ x n) ∧
    { restOfCtx (curCtx t) .X with xres := [], q := [] } = { restOfCtx x .X with xres := [], q := [] }

/-- R318, R322, R324 to R329: SMS, WPW, SIG, TAIL and YLD. -/
def Obligations.CellScheduling : Prop := ∀ (a : Reg) (q : XQ) (e : CellInfo) (s : State), (curCtx s).cell = some e →
  let x := curCtx s
  let c := s.cur.1
  let n := spacing q
  let CellBecomes (f : CellInfo) (t : State) : Prop := (curCtx t).cell = some f ∧ SeqDone (curSeq s) (curSeq t) 2 n [] ∧
    { restOfCtx (curCtx t) s.cur.2 with cell := none } = { restOfCtx x s.cur.2 with cell := none }
  -- SMS
  Completes (.sms q) s (fun t => OnlyCtxAndPart s e.part t ∧ CellBecomes { e with sms := true } t ∧
    ∀ serial, kernelOf t e.part serial = (kernelOf s e.part serial).map fun k =>
      if serial = e.serial ∧ e.ordinal ∉ k.passedSms then { k with passedSms := e.ordinal :: k.passedSms } else k) ∧
  -- WPW
  (predecessorRuns s e = true → Completes (.wpw q) s (Blocked .other s)) ∧
  (predecessorRuns s e = false → Completes (.wpw q) s fun t => OnlyContext s t ∧ CellBecomes { e with lsReleased := true } t) ∧
  -- SIG
  (let upto := x.sigWait.getD x.sissued
   let v := rd s a
   let seen : Prop := (∀ b ∈ x.sacc, b.num < upto → visibleAt s c .pkg b = true) ∧
     (∀ y ∈ (contextsOf s c).drop 1, ∀ b ∈ y.sacc, visibleAt s c .pkg b = true) ∧
     (∀ k ∈ (getCore s c).tracker, ∀ b, k.acc = some b → visibleAt s c .pkg b = true) ∧ x.nestRun = none ∧ x.nestPend = none ∧ x.rjobs = []
   (seen → Completes (.sig a q) s fun t => OnlyCtxAndPart s (curPart s) t ∧ SeqDone (curSeq s) (curSeq t) 2 n [] ∧
     tget 0 (getPart t (curPart s)).cnt (v.toNat % 2 ^ 8) = tget 0 (getPart s (curPart s)).cnt (v.toNat % 2 ^ 8) + BitVec.ofNat 64 (v.toNat / 2 ^ 32) ∧
     (∀ m, m ≠ v.toNat % 2 ^ 8 → tget 0 (getPart t (curPart s)).cnt m = tget 0 (getPart s (curPart s)).cnt m) ∧
     { getPart t (curPart s) with cnt := [] } = { getPart s (curPart s) with cnt := [] }) ∧
   (¬ seen → Completes (.sig a q) s (Blocked .other (setCurCtx s { x with sigWait := some upto })))) ∧
  -- TAIL
  (let ready : Prop := x.seqL.run = .ended ∧ x.seqS.run = .ended ∧ x.lacc = [] ∧ x.nestRun = none ∧ x.nestPend = none ∧ x.rjobs = [] ∧
     entriesTaken (outstanding s c) + entriesTaken (getCore s c).tracker ≤ 16
   (s.cur.2 = .X → ready → Completes (.tail q) s fun t =>
     let y := getCtx t c
     y.cell = none ∧ y.seqL.run = .noCell ∧ y.seqX.run = .noCell ∧ y.seqS.run = .noCell ∧ y.q = [] ∧ y.w = [] ∧ y.slots = [] ∧ y.tickets = [] ∧
     (getCore t c).tracker = (getCore s c).tracker ++ outstanding s c ∧ MemSame s t ∧
     (∀ sq r, regOf (ctxSeq y sq) r = regOf (ctxSeq x sq) r) ∧ (∀ m, m ≠ c → getCore t m = getCore s m) ∧
     ∀ k, kernelOf s e.part e.serial = some k → ∃ k', kernelOf t e.part e.serial = some k' ∧ e.ordinal ∈ k'.passedSms ∧
       k'.ended = if e.ordinal ∈ k.ended then k.ended else e.ordinal :: k.ended) ∧
   (¬ ready → Completes (.tail q) s (Blocked .job s))) ∧
  -- YLD
  (1 < e.gangSize → Completes (.yld q) s fun t => SeqOnly s t 2 n []) ∧
  Completes (.yld q) s fun t => ∃ u, SeqOnly s u 2 n [] ∧
    t = if e.gangSize = 1 ∧ canPark u c = true ∧ betterWaits u c = true then askPark u c 0 else u

/-- R326: the n-th GBAR of a gang of more than one core waits until GANG_BARRIER_COMPLETE, which comes when every member has executed as many GBARs or has
ended its cell, and which lets every member that waits at that barrier go on, 8 cycles after the last arrival. -/
def Obligations.GangBarrier : Prop := ∀ (q : XQ) (e : CellInfo) (s : State) (c : Nat),
  let Here (i : Instr) : Prop := i = .gbar q ∧ (curCtx s).cell = some e
  let WithCell (f : CellInfo) : State := setCurCtx s { curCtx s with cell := some f }
  (∀ i, Here i → e.gangSize ≤ 1 → Completes i s fun t => SeqOnly s t 2 (spacing q) []) ∧
  (∀ i, Here i → 1 < e.gangSize → e.gbarOpen = false → Completes i s (Blocked .gbar (WithCell { e with gbars := e.gbars + 1, gbarOpen := true }))) ∧
  (∀ i, Here i → 1 < e.gangSize → e.gbarOpen = true → e.gbarGo = false → Completes i s (Blocked .gbar s)) ∧
  (∀ i, Here i → 1 < e.gangSize → e.gbarOpen = true → e.gbarGo = true → Completes i s fun t =>
    SeqOnly (WithCell { e with gbarOpen := false, gbarGo := false }) t 2 (spacing q) []) ∧
  ((getCtx s c).cell = some e → e.gbarOpen = true → e.gbarGo = false →
    let member (m : Nat) : Prop := e.gangBase ≤ m ∧ m < e.gangBase + e.gangSize
    let arrived : Prop := ∀ m, member m → ∀ f, memberCell s e m = some f → e.gbars ≤ f.gbars
    (¬ arrived → Completes (.gangBarrierComplete c) s fun t => t = s) ∧
    (arrived → Completes (.gangBarrierComplete c) s fun t => MemSame s t ∧ t = { s with cores := t.cores } ∧ ∃ last,
      (∀ m, member m → (getCtx s m).seqX.clock ≤ last) ∧ (e.gangSize ≠ 0 → ∃ m, member m ∧ (getCtx s m).seqX.clock = last) ∧ ∀ m,
        let x := getCtx s m
        (∀ f, member m → sameGroup e x = true → x.cell = some f → f.gbarOpen = true → f.gbars = e.gbars →
          getCtx t m = { x with cell := some { f with gbarGo := true }, seqX := { x.seqX with clock := max x.seqX.clock (last + 8) } }) ∧
        (¬ (member m ∧ sameGroup e x = true ∧ ∃ f, x.cell = some f ∧ f.gbarOpen = true ∧ f.gbars = e.gbars) → getCtx t m = x)))

/-! ## Loads, pushes and their data -/

/-- R230, R252, R254, R255, R259 to R264, R319: LDV, LDQ, LDS and STRM put one access in flight and change nothing else of the machine but RSOOR, HOOR and
what translating and counting leaves behind; with .fe or .fec they wait for FULL_EMPTY_GRANT; STRM waits for its entry to be pushed before the next;
accesses wait for the retirement tracker; a misaligned address faults; PRF changes nothing; QPSH and QEOS push an entry; GTHQ
reads its index vector and puts one gather in flight, with a piece for each lane whose index is valid. R218, R252, R376, R402, R403: an access that cannot be
translated or is not permitted faults at the lowest granule that stops it, one that names an empty slot is the handle fault, one whose page is not present waits for
it, and one whose walk has no tokens waits for them. -/
def Obligations.LoadsIssue : Prop :=
  (∀ (o : Opnd) (d : BitVec 3) (r gb gx : Reg) (f : SFmt) (e : Addr) (fa : Fe) (ps : List Piece) (s : State), s.cur.2 = .L →
    let x := curCtx s
    let a := effAddr s e
    let strip (y : Ctx) : Ctx := { y with lacc := [], rsoor := 0, oor := {} }
    let Flies (dest : LDest) (t : State) : Prop := AccessIssued s t strip [] ∧
      ∃ acc, hideEarly (curCtx t).lacc = hideEarly x.lacc ++ [acc] ∧ acc.dest = dest ∧ acc.pieces = ps ∧ acc.fe = .none ∧ acc.strm = none
    let WaitsFor (dest : LDest) (strm : Option (Reg × Reg × Word)) (t : State) : Prop := (curSeq t).wait = .fullEmpty ∧ (curSeq t).pc = (curSeq s).pc ∧
      (∀ m, rd t m = rd s m) ∧ MemSameButCounters s t ∧
      (∃ w, (curCtx t).feWait = some w ∧ w.strm = strm ∧ w.dest = dest ∧ w.pieces = ps ∧ w.fe = fa) ∧
      ∃ v ∈ (getCluster t (curCluster s)).waiters, v.agent = .load s.cur.1 ∧ v.pieces = ps
    let Ready (n base : Nat) : Prop := x.feWait = none ∧ x.lacc.length < 32 ∧ trackerHit s base n e.slot = false ∧ resolve s base n e.slot { rd := true } = .ok ps
    let room : Prop := queueLoad x d.toNat < 16
    let Tries (n base : Nat) (i : Instr) : Prop := x.feWait = none → x.lacc.length < 32 → trackerHit s base n e.slot = false → StopsAccess i s (resolve s base n e.slot { rd := true })
    let Loads (i : Instr) (dest : LDest) : Prop :=
      (fa = .none → Completes i s (Flies dest)) ∧ (fa ≠ .none → Completes i s (WaitsFor dest none))
    let n := sfmtBytes f
    let count := (rd s e.gx).toNat % 2 ^ 32
    let Pushes (i : Instr) (entry : QEntry) : Prop :=
      (¬ room → Completes i s (Blocked .queue s)) ∧
      (room → x.lacc = [] → Completes i s fun t => AccessIssued s t (fun y => { y with q := [] }) [] ∧
        (getQ (curCtx t) d.toNat).entries = (getQ x d.toNat).entries ++ [entry] ∧ ∀ m, m ≠ d.toNat → getQ (curCtx t) m = getQ x m) ∧
      (room → x.lacc ≠ [] → x.lacc.length < 32 → Completes i s fun t => AccessIssued s t strip [] ∧
        ∃ acc, hideEarly (curCtx t).lacc = hideEarly x.lacc ++ [acc] ∧ acc.dest = .entry d.toNat entry)
    -- LDV, LDQ
    (a % 16 ≠ 0 → Completes (.ldv o e fa) s (FaultsAt s 0x11 a) ∧ Completes (.ldq d e fa) s (FaultsAt s 0x11 a)) ∧
    (a % 16 = 0 → Ready 256 a → Loads (.ldv o e fa) (.store (viewGranules x.vview (footprint x) (opIndex s o) 16)) ∧
      (room → Loads (.ldq d e fa) (.queue d.toNat))) ∧
    (a % 16 = 0 → ¬ room → Completes (.ldq d e fa) s (Blocked .queue s)) ∧
    (a % 16 = 0 → Tries 256 a (.ldv o e fa) ∧ (room → Tries 256 a (.ldq d e fa))) ∧
    (∀ k b m, e.slot = some k → tfind x.slots k.toNat = none → resolve s b m e.slot { rd := true } = .error (.cause 0x15, 0)) ∧
    (a % 16 = 0 → x.feWait = none → 32 ≤ x.lacc.length ∨ trackerHit s a 256 e.slot = true → Completes (.ldv o e fa) s (Blocked .other s)) ∧
    -- LDS
    (a % n = 0 → ¬ (e.slot = none ∧ inAperture a = true) → Tries n a (.lds f r e fa)) ∧
    (a % n ≠ 0 → Completes (.lds f r e fa) s (FaultsAt s 0x11 a)) ∧
    (a % n = 0 → ¬ (e.slot = none ∧ inAperture a = true) → Ready n a → Loads (.lds f r e fa) (.scalar r f)) ∧
    (a % n = 0 → e.slot = none → inAperture a = true → (n < 4 → Completes (.lds f r e fa) s (FaultsAt s 0x13 a)) ∧
      (4 ≤ n → x.lacc.length < 32 → trackerHit s a n none = true → Completes (.lds f r e fa) s (Blocked .other s)) ∧
      (4 ≤ n → x.lacc.length < 32 → trackerHit s a n none = false → ps = [{ loc := .device (a - apertureBase), addr := a, first := 0, count := n, pos := 0 }] →
        Completes (.lds f r e fa) s (Flies (.scalar r f)))) ∧
    -- PRF, QPSH, QEOS
    Completes (.prf e) s (fun t => SeqOnly s t 2 1 []) ∧
    Pushes (.qpsh d gb gx) { data := BitVec.ofNat 2048 ((rd s gb).toNat + (rd s gx).toNat * 2 ^ 64), mask := BitVec.allOnes 64, eos := false } ∧
    Pushes (.qeos d) { data := 0, mask := 0, eos := true } ∧
    -- STRM
    (count = 0 → x.lacc = [] → Completes (.strm d e fa) s fun t => SeqOnly s t 2 1 []) ∧
    (count = 0 → x.lacc ≠ [] → Completes (.strm d e fa) s (Blocked .other s)) ∧
    (strmOpen x = true → Completes (.strm d e fa) s (Blocked .other s)) ∧
    (strmOpen x = false → count ≠ 0 → (rd s e.gb).toNat % 16 ≠ 0 → Completes (.strm d e fa) s (FaultsAt s 0x11 (rd s e.gb).toNat)) ∧
    (strmOpen x = false → count ≠ 0 → (rd s e.gb).toNat % 16 = 0 → room → Tries 256 (rd s e.gb).toNat (.strm d e fa)) ∧
    (strmOpen x = false → count ≠ 0 → (rd s e.gb).toNat % 16 = 0 → room → Ready 256 (rd s e.gb).toNat →
      (fa = .none → Completes (.strm d e fa) s fun t =>
        (curSeq t).pc = (curSeq s).pc ∧ (curSeq t).wait = .none ∧ MemSameButCounters s t ∧ (∀ m, rd t m = rd s m) ∧
        ∃ acc, hideEarly (curCtx t).lacc = hideEarly x.lacc ++ [acc] ∧ acc.dest = .queue d.toNat ∧ acc.pieces = ps ∧
          acc.strm = some (e.gb, e.gx, e.off.signExtend 64)) ∧
      (fa ≠ .none → Completes (.strm d e fa) s (WaitsFor (.queue d.toNat) (some (e.gb, e.gx, e.off.signExtend 64)))))) ∧
  (∀ (d : BitVec 3) (gx : Reg) (e : Base) (idx : List (Option Nat)) (lanes : List (Option Piece)) (s : State), s.cur.2 = .L →
    let x := curCtx s
    let iv := (rd s gx).toNat
    let base := baseAddr s e
    (iv % 16 ≠ 0 → Completes (.gthq d gx e) s (FaultsAt s 0x11 iv)) ∧
    (iv % 16 = 0 → base % 4 ≠ 0 → Completes (.gthq d gx e) s (FaultsAt s 0x11 base)) ∧
    (iv % 16 = 0 → base % 4 = 0 → 16 ≤ queueLoad x d.toNat → Completes (.gthq d gx e) s (Blocked .queue s)) ∧
    (iv % 16 = 0 → base % 4 = 0 → queueLoad x d.toNat < 16 → x.lacc = [] → trackerHit s iv 256 none = false →
      StopsAccess (.gthq d gx e) s (readIndices s iv) ∧
      (readIndices s iv = .ok idx →
        let dm := lanesDemand s iv base e.slot idx
        (lanesHit s base e.slot idx = true → Completes (.gthq d gx e) s (Blocked .other s)) ∧
        (lanesHit s base e.slot idx = false → demandReady s dm = false → Completes (.gthq d gx e) s (Blocked .other (awaitDemand s dm))) ∧
        (lanesHit s base e.slot idx = false → demandReady s dm = true → StopsAccess (.gthq d gx e) s (resolveLanes s base e.slot { rd := true } idx 0) ∧
          (resolveLanes s base e.slot { rd := true } idx 0 = .ok lanes →
            Completes (.gthq d gx e) s fun t => AccessIssued s t (fun y => { y with lacc := [] }) [] ∧
              ∃ acc, (curCtx t).lacc = [acc] ∧ acc.dest = .gather d.toNat lanes ∧ acc.pieces = lanes.filterMap id ∧ acc.fe = .none)))))

/-- R220, R221, R229, R230, R245, R255, R259 to R261, R264, R299, R376, R430: the oldest L access lands, once its tokens are there: into the register store, a queue, or a
register; a lane with a lost byte is invalid, or zero with MZ in the register store. That each granule has the bytes that it showed when the access became the oldest, or those that it
shows now, a free choice, is the model's reading of R299 (log entry 94). Of a load to the register store some granules land in one step and the others in later ones, a free choice (at least one
each time; all at once after a wait on full-empty bits): the access leaves flight with its last. What raises a machine fault stops L; the entry of a STRM moves its base and count on. FULL_EMPTY_GRANT does the same
for the access that L waits with, once every granule is full. -/
def Obligations.LoadDataLands : Prop := ∀ (c : Nat) (a : LAccess) (rest : List LAccess) (s : State),
  let x := getCtx s c
  let d := dieOfCore c
  let got := landedGot s c a
  let byte := accessByte a.pieces got
  let lost := accessLost a.pieces got
  let lostLane (j : Nat) : Bool := (List.range 4).any fun i => lost (4 * j + i)
  let Pushed (y : Ctx) (q : Nat) (e : QEntry) : Prop := (getQ y q).entries = (getQ x q).entries ++ [e] ∧ ∀ m, m ≠ q → getQ y m = getQ x m
  let vec : QEntry := { data := BitVec.ofNat 2048 (ofBytes byte 256), mask := ofMask fun j => !lostLane j, eos := false }
  let Lands (P : State → Prop) : Prop := Completes (.loadDataArrive c) s fun t =>
    OnlyCtxAndCounts s c t ∧ hideEarly (getCtx t c).lacc = hideEarly rest ∧ P t
  -- the value of a register after the entry of a STRM
  let moved (m : Reg) : Word := match a.strm with
    | none => regOf x.seqL m
    | some (gb, gx, off) => if m = 0 then 0 else (if m = gb then regOf x.seqL m + off else regOf x.seqL m) - (if m = gx then 1 else 0)
  (got.length = a.pieces.length ∧ ∀ (i : Nat) (g : Got), got[i]? = some g → (readPieces s d a.pieces 0)[i]? = some g ∨ a.early[i]? = some g) ∧
  (∀ gs, a.dest = .store gs → (∀ k ∈ landsNow s a, k < gs.length ∧ k ∉ a.landed) ∧ ((∃ k, k < gs.length ∧ k ∉ a.landed) → landsNow s a ≠ []) ∧
    (a.fe ≠ .none → ∀ k, k < gs.length → k ∉ a.landed → k ∈ landsNow s a)) ∧
  (x.lacc = a :: rest → a.landed = [] → tokensReady s a.pieces = false → Completes (.loadDataArrive c) s fun t => t = awaitTokens s a.pieces) ∧
  (x.lacc = a :: rest → a.landed ≠ [] ∨ tokensReady s a.pieces = true →
    (firstFault a.pieces got = none →
      (∀ q, a.dest = .queue q → Lands fun t => Pushed (getCtx t c) q vec ∧ ∀ m, regOf (getSeq t c .L) m = moved m) ∧
      (∀ r f p, a.dest = .scalar r f → a.pieces.head? = some p → (∀ o, p.loc ≠ .device o) → (∀ i, i < sfmtBytes f → lost i = false) →
        Lands fun t => ∀ m, regOf (getSeq t c .L) m = if m = r ∧ r ≠ 0 then extendScalar f (ofBytes byte (sfmtBytes f)) else regOf x.seqL m) ∧
      (∀ gs, a.dest = .store gs → gs.length = 16 → (gs.filterMap id).Nodup → x.xres = [] → x.writing = [] →
        Completes (.loadDataArrive c) s fun t =>
          let now := landsNow s a
          OnlyCtxAndCounts s c t ∧
          hideEarly (getCtx t c).lacc = hideEarly (if (List.range 16).any (fun k => !a.landed.contains k && !now.contains k) then { a with landed := a.landed ++ now } :: rest else rest) ∧
          (∀ k g, gs[k]? = some (some g) → storeGranule (getCtx t c) g =
            if k ∈ now then BitVec.ofNat 128 (ofBytes (fun i => if lostLane (4 * k + i / 4) then 0 else byte (16 * k + i)) 16) else storeGranule x g) ∧
          (∀ g, some g ∉ gs → storeGranule (getCtx t c) g = storeGranule x g) ∧
          ∀ j, j < 64 → laneFlags (getCtx t c).flags j = laneFlags x.flags j ||| (if lostLane j = true ∧ j / 4 ∈ now then 0x80 else 0))) ∧
    (∀ q e, a.dest = .entry q e → a.pieces = [] → a.strm = none → Lands fun t => Pushed (getCtx t c) q e) ∧
    (∀ k g, firstFault a.pieces got = some (k, g) → Completes (.loadDataArrive c) s fun t =>
      (getSeq t c .L).halted = true ∧ (∃ i, (getSeq t c .L).origin = some i ∧ i.cause = k ∧ i.eaddr = BitVec.ofNat 56 g ∧ i.fpc = a.fpc) ∧
      hideEarly (getCtx t c).lacc = hideEarly rest ∧ (∀ m, getQ (getCtx t c) m = getQ x m) ∧ (∀ m, regOf (getSeq t c .L) m = regOf x.seqL m) ∧
      MemSameButCounters s t)) ∧
  (∀ q, x.feWait = some a → a.strm = none → a.dest = .queue q → firstFault a.pieces got = none → x.lacc = [] → x.seqL.halted = false →
    (allFull s a.pieces = false → Completes (.fullEmptyGrant c) s fun t => t = s) ∧
    (allFull s a.pieces = true → servedFirst s (clusterOfCore c) (.load c) a.pieces = false → Completes (.fullEmptyGrant c) s fun t =>
      (getCtx t c).feWait = none ∧ (getCtx t c).lacc = [] ∧ Pushed (getCtx t c) q vec ∧ SeqDone x.seqL (getSeq t c .L) 2 1 [] ∧
      t.cur = s.cur ∧ MemSameButCounters s t ∧ (∀ w ∈ (getCluster t (clusterOfCore c)).waiters, w.agent ≠ .load c) ∧
      ∀ cl g, sramGet (getCluster t cl) g = if a.fe = .fec ∧ (cl, g) ∈ poolGranules a.pieces
        then { sramGet (getCluster s cl) g with f := false } else sramGet (getCluster s cl) g))

/-! ## Tokens, handles, tickets and rings of L -/

/-- R272, R273, R278: TOKW waits for the token word, which is a free value once X or L has written it; JWAIT waits for its job and returns RESULT and LOST, 3 for a ticket that is not outstanding. R274
to R276: HGET takes a run of free stripes of the gang's reservation, or returns 0; HPASS moves a handle to an empty slot of a gang member; HREL
empties a slot. -/
def Obligations.HandlesAndWaits : Prop :=
  (∀ (d : Reg) (s : State),
    let x := curCtx s
    let y := if (footprint x).getLsbD 7 then x else recordOor s.cycle x 0xFFDF0 true false 5
    let ticket := (rd s d).toNat
    let st := tfind x.tickets ticket
    (tokenWord s x = if (footprint x).getLsbD 7 then (if x.tokenBad then (Config.freeWord s.freeCtr).toNat else (storeGranule x 0xFFDF).toNat / 2 ^ 64) else 0) ∧
    ((rd s d).toNat ≤ tokenWord s x → Completes (.tokw d) s (SeqFrom s y 2 1 [])) ∧
    (tokenWord s x < (rd s d).toNat → Completes (.tokw d) s
      (Blocked .token (if x.tokenBad then takeFree (setCurCtx s y) 1 else setCurCtx s y))) ∧
    (st = none → Completes (.jwait d) s fun t => Holds t d 3 ∧ SeqOnly s t 2 1 [d]) ∧
    (st = some .running → Completes (.jwait d) s (Blocked .job s)) ∧
    ∀ r lost stamps, st = some (.done r lost stamps) →
      let seen : Bool := coveredPkg s (vecStamps stamps)
      (seen = false → Completes (.jwait d) s (Blocked .job s)) ∧
      (seen = true → Completes (.jwait d) s fun t => Holds t d (BitVec.ofNat 64 (r.toNat + if lost then 4 else 0)) ∧
        SeqFrom s { x with tickets := tdel x.tickets ticket } 2 1 [d] t ∧ tfind (curCtx t).tickets ticket = none)) ∧
  (∀ (d gb gx : Reg) (slot : BitVec 4) (s : State),
    let x := curCtx s
    let c := s.cur.1
    let k := slot.toNat
    let v := (rd s gb).toNat % 2 ^ 17
    let len := if v = 0 then 65536 else v
    let live := liveBuffers s (curCluster s)
    let own (r : Reservation) : Prop := match x.cell with
      | some e => r.gangBase = e.gangBase ∧ r.part = e.part ∧ r.serial = e.serial ∧ r.place = e.place
      | none => r.gangBase = c
    let fits (r : Reservation) (b : Nat) : Prop := r.base ≤ b ∧ b + len ≤ r.base + r.len ∧ ∀ m n, (m, n) ∈ live → b + len ≤ m ∨ m + n ≤ b
    let rs := (getCluster s (curCluster s)).reserved
    let target := (rd s gb).toNat % 2 ^ 10
    let tk := (rd s gx).toNat % 2 ^ 4
    -- HGET
    (65536 < v ∨ tfind x.slots k ≠ none → Completes (.hget d gb slot) s (FaultsAt s 0x15 0)) ∧
    (v ≤ 65536 → tfind x.slots k = none → (∀ r ∈ rs, own r → ∀ b, ¬ fits r b) → Completes (.hget d gb slot) s fun t => Holds t d 0 ∧ SeqOnly s t 2 1 [d]) ∧
    (v ≤ 65536 → tfind x.slots k = none → (∃ r ∈ rs, own r ∧ ∃ b, fits r b) → Completes (.hget d gb slot) s fun t => Holds t d 1 ∧ MemSame s t ∧
      SeqDone (curSeq s) (curSeq t) 2 1 [d] ∧ ∃ b, (∃ r ∈ rs, own r ∧ fits r b) ∧ tfind (curCtx t).slots k = some { base := b, len := len, batch := none } ∧
        (∀ n, n ≠ k → tfind (curCtx t).slots n = tfind x.slots n) ∧
        ∀ g, (8 * b ≤ g ∧ g < 8 * (b + len) → (sramGet (getCluster t (curCluster s)) g).f = false ∧ (sramGet (getCluster t (curCluster s)) g).q = true) ∧
          (¬ (8 * b ≤ g ∧ g < 8 * (b + len)) → sramGet (getCluster t (curCluster s)) g = sramGet (getCluster s (curCluster s)) g)) ∧
    -- HPASS
    (tfind x.slots k = none ∨ inGang s target = false → Completes (.hpass d gb gx slot) s (FaultsAt s 0x15 0)) ∧
    (∀ h, tfind x.slots k = some h → inGang s target = true →
      (slotBusy s c k = true → Completes (.hpass d gb gx slot) s (Blocked .ring s)) ∧
      (slotBusy s c k = false → tfind (getCtx s target).slots tk ≠ none → Completes (.hpass d gb gx slot) s fun t => Holds t d 0 ∧ SeqOnly s t 2 1 [d]) ∧
      (slotBusy s c k = false → tfind (getCtx s target).slots tk = none → Completes (.hpass d gb gx slot) s fun t => Holds t d 1 ∧ MemSame s t ∧
        SeqDone (curSeq s) (curSeq t) 2 1 [d] ∧ ∀ m n, tfind (getCtx t m).slots n =
          if m = target ∧ n = tk then some h else if m = c ∧ n = k then none else tfind (getCtx s m).slots n)) ∧
    -- HREL
    (tfind x.slots k = none → Completes (.hrel slot) s (FaultsAt s 0x15 0)) ∧
    ∀ h, tfind x.slots k = some h →
      (slotBusy s c k = true → Completes (.hrel slot) s (Blocked .ring s)) ∧
      (slotBusy s c k = false → Completes (.hrel slot) s fun t => MemSame s t ∧ SeqDone (curSeq s) (curSeq t) 2 1 [] ∧ tfind (curCtx t).slots k = none ∧
        (∀ n, n ≠ k → tfind (curCtx t).slots n = tfind x.slots n) ∧ (h.batch = none → AccessIssued s t (fun y => { y with slots := [] }) [])))

/-- R277, R279 to R281: ITIN and JCPY hand a job over and give a ticket (its value, one more than the last modulo 2^32, is the model's choice: log entry 9); with 16 tickets
outstanding, or 4 itineraries waiting, they wait; a bad card raises the card fault. R283 to R286, R366: RRSV reserves the next slot of a ring, RPUB puts an entry's record in flight to its slot
and RCON takes a full slot into a queue (where another core has consumed from the ring too, the entry is a free value); RQGT gives a closed batch to the core whose turn it is. -/
def Obligations.EngineRequests : Prop :=
  (∀ (d : Reg) (e : Addr) (r : Nat) (s : State),
    let x := curCtx s
    let a := effAddr s e
    let die := curDie s
    let p := curPart s
    let ticket := (s.ticketCtr + 1) % 2 ^ 32
    let l : Lamp := tget {} (getDie s die).lamps p
    let card := parseCard (newOwner s) r
    -- what the job's unit now holds is y; nothing else but the sequencer, the tickets and what counting leaves behind has changed
    let Given (y : Die) (t : State) : Prop :=
      OnlyCounting { setDie (setCurCtx s (curCtx t)) die y with ticketCtr := s.ticketCtr + 1 } t ∧ Holds t d (BitVec.ofNat 64 ticket) ∧
      (curCtx t).tickets = tput x.tickets ticket .running ∧ SeqDone (curSeq s) (curSeq t) 2 1 [d] ∧
      { restOfCtx (curCtx t) s.cur.2 with tickets := [] } = { restOfCtx x s.cur.2 with tickets := [] }
    let ready (n : Nat) : Prop := a % 64 = 0 ∧ x.lacc = [] ∧ trackerHit s a n none = false
    let full : Prop := 16 ≤ x.tickets.length
    (a % 64 ≠ 0 → Completes (.itin d e) s (FaultsAt s 0x11 a) ∧ Completes (.jcpy d e) s (FaultsAt s 0x11 a)) ∧
    (ready 64 → full ∨ 4 ≤ l.waiting.length → Completes (.itin d e) s (Blocked .job s)) ∧
    (ready 64 → ¬ full → l.waiting.length < 4 → StopsAccess (.itin d e) s (readRecord s a 64)) ∧
    (ready 192 → ¬ full → StopsAccess (.jcpy d e) s (readRecord s a 192)) ∧
    (ready 192 → ¬ full → readRecord s a 192 = .ok r → cardBad s s.cur.1 r card = false → (∃ b n, (b, n) ∈ cardRanges card ∧ trackerHit s b n none = true) →
      Completes (.jcpy d e) s (Blocked .other s)) ∧
    (ready 64 → ¬ full → l.waiting.length < 4 → readRecord s a 64 = .ok r → Completes (.itin d e) s
      (Given { getDie s die with lamps := tput (getDie s die).lamps p { l with waiting := l.waiting ++ [(newOwner s, a)] } })) ∧
    (ready 192 → full → Completes (.jcpy d e) s (Blocked .job s)) ∧
    (ready 192 → ¬ full → readRecord s a 192 = .ok r → cardBad s s.cur.1 r card = true → Completes (.jcpy d e) s (FaultsAt s 0x18 0)) ∧
    (ready 192 → ¬ full → readRecord s a 192 = .ok r → cardBad s s.cur.1 r card = false → (∀ b n, (b, n) ∈ cardRanges card → trackerHit s b n none = false) →
      Completes (.jcpy d e) s (Given { getDie s die with cards := tput (getDie s die).cards p (tget [] (getDie s die).cards p ++ [card]) }))) ∧
  (∀ (d : BitVec 3) (w : BitVec 2) (g gb gx : Reg) (off : BitVec 18) (slot : BitVec 4) (s : State),
    let x := curCtx s
    let die := curDie s
    let p := curPart s
    let control (s : State) (r : RingRef) : Nat := (sramGet (getCluster s (clusterOfCore r.holder)) (bufGranule r.handle r.off)).data.toNat
    let readable : Prop := bufferStorePending s gb slot = false ∧ atomicsReturned x = true ∧ acqPending s s.cur.1 = false
    (∀ k n, findRing s gb off slot = .error (k, n) →
      (readable → Completes (.rrsv g gb off slot) s (FaultsAt s k n)) ∧
      (queueLoad x d.toNat < 16 → x.lacc = [] → Completes (.rcon d gb gx off slot) s (FaultsAt s k n)) ∧
      (headW s w ≠ none → storeRoom s = true → Completes (.rpub w gb gx off slot) s (FaultsAt s k n))) ∧
    (¬ readable → Completes (.rrsv g gb off slot) s (Blocked .other s)) ∧
    (∀ r, findRing s gb off slot = .ok r →
      -- RRSV
      (readable →
        ((r.res + 2 ^ 32 - r.con) % 2 ^ 32 < r.n → ringBefore s r = false → Completes (.rrsv g gb off slot) s fun t => Holds t g (BitVec.ofNat 64 r.res) ∧ MemSame s t ∧
          SeqDone (curSeq s) (curSeq t) 2 1 [g] ∧ control t r % 2 ^ 32 = (r.res + 1) % 2 ^ 32 ∧ control t r / 2 ^ 32 = control s r / 2 ^ 32 ∧
          ∀ cl n, ¬ (cl = clusterOfCore r.holder ∧ n = bufGranule r.handle r.off) → sramGet (getCluster t cl) n = sramGet (getCluster s cl) n) ∧
        (r.n ≤ (r.res + 2 ^ 32 - r.con) % 2 ^ 32 ∨ ringBefore s r = true → Completes (.rrsv g gb off slot) s (Blocked .ring (joinRing s r)))) ∧
      -- RPUB
      (∀ e, headW s w = some e → storeRoom s = true → ringStorePending s r = false → s.cur.2 = .S → Completes (.rpub w gb gx off slot) s fun t =>
        AccessIssued s t (fun y => { y with sacc := [], w := [], sissued := 0 }) [] ∧ (getW (curCtx t) w.toNat).entries = (getW x w.toNat).entries.drop 1 ∧
        ∃ acc bytes, (curCtx t).sacc = x.sacc ++ [acc] ∧ acc.act = .store bytes (invalidBytes e 256) ∧ acc.fe = .fe ∧ acc.performed = false ∧
          bytes.length = 272 ∧ (published s r (rd s gx).toNat = false → bytes = entryBytes e) ∧
          acc.pieces = resolveBuffer (clusterOfCore r.holder) r.handle (r.off + 16 + 272 * ((rd s gx).toNat % 2 ^ 32 % r.n)) 272) ∧
      (headW s w = none → Completes (.rpub w gb gx off slot) s (Blocked .queue s)) ∧
      -- RCON
      (queueLoad x d.toNat < 16 → x.lacc = [] →
        let ps := ringSlot r (rd s gx).toNat
        let gs := readPieces s die ps 0
        (allFull s ps = false → Completes (.rcon d gb gx off slot) s
          (Blocked .ring (joinWait s (clusterOfCore r.holder) (.ring s.cur.1) ps))) ∧
        (allFull s ps = true → servedFirst s (clusterOfCore r.holder) (.ring s.cur.1) ps = false → firstFault ps gs = none →
          Completes (.rcon d gb gx off slot) s fun t => MemSame s t ∧ control t r / 2 ^ 32 % 2 ^ 32 = (r.con + 1) % 2 ^ 32 ∧
          Holds t gx (rd s gx + 1) ∧ SeqDone (curSeq s) (curSeq t) 2 1 [gx] ∧
          (∃ e, (getQ (curCtx t) d.toNat).entries = (getQ x d.toNat).entries ++ [e] ∧ (sharedRing s r = false →
            e.data = BitVec.ofNat 2048 (ofBytes (accessByte ps gs) 256) ∧ e.eos = bitOf (accessByte ps gs 264).toNat 0 ∧
            ∀ j, j < 64 → maskBit e.mask j = (bitOf (ofBytes (fun i => accessByte ps gs (256 + i)) 8) j && !accessLost ps gs (4 * j)))) ∧
          sharedRing s r = (tget [] (getCluster s (clusterOfCore r.holder)).consumers (bufGranule r.handle r.off)).any (· != s.cur.1) ∧
          s.cur.1 ∈ tget [] (getCluster t (clusterOfCore r.holder)).consumers (bufGranule r.handle r.off) ∧
          (∀ cl n, (cl, n) ∈ poolGranules ps → (sramGet (getCluster t cl) n).f = false)))) ∧
    -- RQGT
    (let q := getGath s die p
     let ready : Prop := queueLoad x d.toNat < 16 ∧ tfind x.slots slot.toNat = none ∧ curCluster s = 9 * die + rgCluster q ∧ x.lacc = [] ∧
       (q.waiters = [] ∨ q.waiters.head? = some s.cur.1)
     let Answer (e : QEntry) (t : State) : Prop := (getQ (curCtx t) d.toNat).entries = (getQ x d.toNat).entries ++ [e] ∧ MemSame s t ∧
       SeqDone (curSeq s) (curSeq t) 2 1 []
     (ready → rqgtEnds q = true → Completes (.rqgt d slot) s (Answer { data := 0, mask := 0, eos := true })) ∧
     (ready → q.ready = [] → rqgtEnds q = false → Completes (.rqgt d slot) s fun t => (curSeq t).wait = .other ∧ (curSeq t).pc = (curSeq s).pc ∧
       s.cur.1 ∈ (getGath t die p).waiters) ∧
     ∀ b rest, q.ready = b :: rest → ready → Completes (.rqgt d slot) s fun t => (∃ e, Answer e t ∧ e.mask = BitVec.allOnes 64 ∧ e.eos = false ∧
         lane e.data 0 = q.issued ∧ lane e.data 1 = BitVec.ofNat 32 b.rows ∧ lane e.data 2 = (if b.deadline then 1 else 0) ∧
         lane e.data 3 = BitVec.ofNat 32 b.closed ∧ lane e.data 4 = BitVec.ofNat 32 (b.closed / 2 ^ 32)) ∧
       tfind (curCtx t).slots slot.toNat = some { base := b.base, len := b.len, batch := some (die, b.buf) } ∧
       (getGath t die p).ready = rest ∧ (getGath t die p).issued = q.issued + 1))

/-! ## Matrix work -/

/-- R176, R190, R191, R198 to R200: MCFG and MCFGL write words of the shadow table at granules 0xFFE0 to 0xFFEF at once; MGO latches the table and the
views into a job, or waits with two jobs held, or faults; MWAIT waits for X's jobs and returns the status gathered since the last MWAIT. R181, R187 to
R189, R192, R193, R200: a nest job starts once no earlier job conflicts, X's before one that S handed over in the same cycle; its expander loads the
shard that the next beat needs, each granule once and in address order (log entry 93), up to the first that it must wait for, counts in TSTALL the cycles in which it found a granule of a
codebook table not full, and marks the tile NV and MZ; a beat adds the products of one activation row and the shard to a row of the tile and to its row, column and corner checksums, marks NV
where the row holds an operand that is no number, and changes nothing outside the tile; and the job leaves after its last beat, its status added to MWAIT's (LSTALL is free: log entry 34).
MGO's read of a table outside the footprint is recorded in RSOOR (R176), also where it then faults (log entry 92: the model's choice). -/
def Obligations.MatrixNests : Prop :=
  (∀ (word : BitVec 5) (a d : Reg) (v : Opnd) (q : XQ) (s : State), s.cur.2 = .X →
    let x := xContext s
    let tab (y : Ctx) (w : Nat) : Word := (storeGranule y (0xFFE0 + w / 2)).extractLsb' (64 * (w % 2)) 64
    let on : Prop := (footprint x).getLsbD 7 = true
    let outside (y : Ctx) : Prop := ∀ n, n < 0xFFE0 ∨ 0xFFF0 ≤ n → storeGranule y n = storeGranule x n
    let busy : Prop := x.nestRun ≠ none ∧ x.nestPend ≠ none
    let t := latchTable x s.freeCtr
    let seen : State := if (footprint x).getLsbD 7 then s else setCurCtx s (recordOor s.cycle (curCtx s) 0xFFE00 true false 3)
    -- S handed a job over in this cycle
    let late (k : RJob) : Prop := x.rjobs.getLast? = some k ∧ k.seq = .S ∧ k.issuedAt = s.cycle ∧ k.started = false ∧ k.arrival + 1 = x.arrivals
    -- MCFG
    (on → x.xres = [] → Completes (.mcfg word a q) s fun u => XChanged s u (fun y => { y with store := [], raced := [] }) q [] ∧
      (∀ w, w < 32 → tab (curCtx u) w = if w = word.toNat then rd s a else tab x w) ∧ outside (curCtx u)) ∧
    (¬ on → Completes (.mcfg word a q) s fun u => XChanged s u (fun y => { y with rsoor := 0, oor := {} }) q []) ∧
    -- MCFGL
    (queuesReady x [v] = false → Completes (.mcfgl v q) s (Blocked .queue s)) ∧
    (on → x.xres = [] → queuesReady x [v] = true → Completes (.mcfgl v q) s fun u =>
      XChanged s u (fun y => { y with store := [], raced := [], rsoor := 0, oor := {}, q := [], flags := 0 }) q [] ∧
      (∀ w, w < 32 → tab (curCtx u) w = (srcVec s [v] 0).extractLsb' (64 * w) 64) ∧ outside (curCtx u) ∧ (curCtx u).q = (popQueues x [v]).q ∧
      ∀ j, j < 64 → laneFlags (curCtx u).flags j = laneFlags x.flags j ||| if q.nf = false ∧ (srcsOf s [v]).any (fun y => maskBit y.lost j) = true then 0x80 else 0) ∧
    -- MGO
    (on → (∀ n, 0xFFE0 ≤ n → n < 0xFFF0 → Settled x n) → ∀ w, w < 32 → nestWord t w = tab x w) ∧ (¬ on → ∀ w, nestWord t w = 0) ∧
    (busy → Completes (.mgo q) s (Blocked .job s)) ∧
    (¬ busy → tfind x.slots (nHslot t) = none → Completes (.mgo q) s (FaultsAt seen 0x15 0)) ∧
    (∀ h, ¬ busy → tfind x.slots (nHslot t) = some h →
      (nestBad t = true → Completes (.mgo q) s (FaultsAt seen 0x17 0)) ∧
      (nestBad t = false → nestAlias t x.tview x.aview (footprint x) = true → Completes (.mgo q) s (FaultsAt seen 0x16 0)) ∧
      (on → nestBad t = false → nestAlias t x.tview x.aview (footprint x) = false → Completes (.mgo q) s fun u =>
        XChanged s u (fun y => { y with nestRun := none, nestPend := none, arrivals := 0, writing := [], rjobs := [], sacc := [] }) q [] ∧
        (curCtx u).arrivals = x.arrivals + 1 ∧
        ∃ j : NestJob, j.table = t ∧ j.tview = x.tview ∧ j.aview = x.aview ∧ j.foot = footprint x ∧ j.started = false ∧
          ((∀ k, ¬ late k) → j.arrival = x.arrivals ∧ (curCtx u).rjobs = x.rjobs ∧ (curCtx u).sacc = x.sacc) ∧
          (∀ k, late k → j.arrival = k.arrival ∧ (curCtx u).rjobs = x.rjobs.dropLast ++ [{ k with arrival := x.arrivals }]) ∧
          j.beat = 0 ∧ j.latch = none ∧ j.ahead = none ∧ j.loading = none ∧ j.lastWs = none ∧ j.cleared = [] ∧
          (x.nestRun = none → (curCtx u).nestRun = some j ∧ (curCtx u).nestPend = x.nestPend) ∧
          (x.nestRun ≠ none → (curCtx u).nestRun = x.nestRun ∧ (curCtx u).nestPend = some j))) ∧
    -- MWAIT
    (let waits : Prop := x.nestRun ≠ none ∨ x.nestPend ≠ none ∨ ∃ j ∈ x.rjobs, j.seq = .X
     (waits → Completes (.mwait d q) s (Blocked .job s)) ∧
     (¬ waits → Completes (.mwait d q) s fun u => Holds u d x.mwait ∧ (curCtx u).mwait = 0 ∧ XChanged s u (fun y => { y with mwait := 0 }) q [d]))) ∧
  (∀ (c : Nat) (j : NestJob) (s : State), (getCtx s c).nestRun = some j → (getCtx s c).mHalted = false →
    let x := getCtx s c
    let t := j.table
    let d := nestDest t j.aview j.foot
    let fmod : Int := 2 ^ 96
    let Leaves (u : State) : Prop := (getCtx u c).nestRun = x.nestPend ∧ (getCtx u c).nestPend = none ∧ MemSame s u
    let Stops (cause : BitVec 8) (a : Nat) (u : State) : Prop := Leaves u ∧
      ∃ i, tfind (getCtx u c).engStop 3 = some (.X, i) ∧ i.cause = cause ∧ i.eaddr = BitVec.ofNat 56 a ∧ i.fpc = j.fpc
    let FBits (ws : Option Int) (u : State) : Prop := ∀ h, tfind x.slots (nHslot t) = some h → ∀ cl g, sramGet (getCluster u cl) g =
      if nFe t = 2 ∧ (∃ w, ws = some w ∧ (cl, g) ∈ poolGranules (shardPieces (clusterOfCore c) h w (List.range (shardBytes t / 16))))
      then { sramGet (getCluster s cl) g with f := false } else sramGet (getCluster s cl) g
    let hide (y : Ctx) : Ctx := { y with rsoor := 0, oor := {} }
    let cl := clusterOfCore c
    -- nothing outside the context has changed but the waiters of the pool
    let Here (u : State) : Prop := u = { setCtx s c (getCtx u c) with clusters := u.clusters, freeCtr := u.freeCtr } ∧ MemSame s u ∧
      ∀ k, { getCluster u k with waiters := [] } = { getCluster s k with waiters := [] }
    -- the start
    (j.started = false → mayStart x j.arrival (nestSets j) = false → Completes (.nestJobStart c) s fun u => u = s) ∧
    (j.started = false → mayStart x j.arrival (nestSets j) = true →
      let src := nestSource t j.aview j.foot
      let sick : Prop := tileFaulted x d = true ∨ (nAsrc t = true ∧ tileFaulted x src = true)
      let go := { x with nestRun := some { j with started := true } }
      (tileFaulted x d = true → Completes (.nestJobStart c) s (Stops 0x21 (tileAddr d))) ∧
      (tileFaulted x d = false → sick → Completes (.nestJobStart c) s (Stops 0x21 (tileAddr src))) ∧
      (¬ sick → integerNest t = false → Completes (.nestJobStart c) s fun u => OnlyCtx s c u ∧ hide (getCtx u c) = hide go) ∧
      (¬ sick → integerNest t = true → tileState x d = 0 → Completes (.nestJobStart c) s fun u => OnlyCtx s c u ∧
        { hide (getCtx u c) with store := [], raced := [] } = { hide go with store := [], raced := [] } ∧ tileAnchor (getCtx u c) d = 0 ∧
        (tileHeader (getCtx u c) d).toNat / 2 ^ 16 = (tileHeader x d).toNat / 2 ^ 16) ∧
      (¬ sick → integerNest t = true → tileState x d ≠ 0 → tileAnchor x d = 0 → Completes (.nestJobStart c) s fun u =>
        OnlyCtx s c u ∧ hide (getCtx u c) = hide go) ∧
      (¬ sick → integerNest t = true → tileState x d ≠ 0 → tileAnchor x d ≠ 0 → Completes (.nestJobStart c) s (Stops 0x17 0))) ∧
    -- a shard
    (∀ ws h, j.started = true → tfind x.engStop 3 = none → wantedShard j = some ws → tfind x.slots (nHslot t) = some h →
      let all := shardPieces cl h ws (shardReads t)
      let before := loadedOf j ws
      let left := all.drop before.length
      let ps := left.takeWhile (granuleTaken s c j)
      let gs := readPieces s (dieOfCore c) ps 0
      let read := before ++ gs.map fun g => (if g.lost then 0 else g.data, !g.lost)
      let stalled : Nat := match (getCluster s cl).waiters.find? (·.agent == .nest c) with
        | some w => if codebookGranule t before.length then w.unfull else 0
        | none => 0
      let Waits (u : State) : Prop := ∃ p w, (left.drop ps.length).head? = some p ∧ w ∈ (getCluster u cl).waiters ∧ w.agent = .nest c ∧ w.pieces = [p]
      (ps = [] → before.length < all.length → Completes (.shardLatchReady c) s fun u => Here u ∧ getCtx u c = x ∧ Waits u) ∧
      (firstFault ps gs = none → firstBeyond ps = none → ps ≠ [] → read.length < all.length → Completes (.shardLatchReady c) s fun u =>
        Here u ∧ getCtx u c = { x with nestRun := some { j with tstall := j.tstall + stalled, loading := some { ws := ws, granules := read } } } ∧ Waits u) ∧
      (∀ k g, firstFault ps gs = some (k, g) → Completes (.shardLatchReady c) s fun u =>
        (∃ i, tfind (getCtx u c).engStop 3 = some (.X, i) ∧ i.cause = k ∧ i.eaddr = BitVec.ofNat 56 g ∧ i.fpc = j.fpc) ∧ MemSame s u) ∧
      (firstFault ps gs = none → firstBeyond ps = none → read.length = all.length → Completes (.shardLatchReady c) s fun u => Here u ∧
        { hide (getCtx u c) with nestRun := none, store := [], raced := [] } = { hide x with nestRun := none, store := [], raced := [] } ∧
        (let y := getCtx u c
         let nv : Prop := ∃ l : Latch, l.ws = ws ∧ l.granules = read ∧ ∃ m n, m < nKlen t ∧ n < 256 ∧ (weightAt t (latchByte t l) m n).nv = true
         let mz : Prop := ∃ g ∈ read, g.2 = false
         (∀ g, some g ∉ spanGranules d.view d.foot d.index 0 8 → storeGranule y g = storeGranule x g) ∧ (¬ nv → ¬ mz → y.store = x.store) ∧
         (none ∉ spanGranules d.view d.foot d.index 0 8 →
           (tileHeader y d).toNat % 2 ^ 18 = (tileHeader x d).toNat % 2 ^ 18 ∧ (tileHeader y d).toNat / 2 ^ 20 = (tileHeader x d).toNat / 2 ^ 20 ∧
           ((tileHeader y d).getLsbD 18 = true ↔ (tileHeader x d).getLsbD 18 = true ∨ nv) ∧
           ((tileHeader y d).getLsbD 19 = true ↔ (tileHeader x d).getLsbD 19 = true ∨ mz))) ∧
        ∃ (l : Latch) (k : NestJob), (getCtx u c).nestRun = some k ∧ l.ws = ws ∧ l.granules = read ∧ k.loading = none ∧ k.tstall = j.tstall + stalled ∧
          ((∃ o, j.latch = some o ∧ o.ws = nWs t j.beat) → k.latch = j.latch ∧ k.ahead = some l) ∧
          (¬ (∃ o, j.latch = some o ∧ o.ws = nWs t j.beat) → k.latch = some l ∧ k.ahead = none) ∧
          (k.mz = true ↔ j.mz = true ∨ ∃ g ∈ read, g.2 = false) ∧
          (k.ilt = true ↔ j.ilt = true ∨ ∃ m n, m < nKlen t ∧ n < 256 ∧ (weightAt t (latchByte t l) m n).ilt = true) ∧
          (k.nv = true ↔ j.nv = true ∨ ∃ m n, m < nKlen t ∧ n < 256 ∧ (weightAt t (latchByte t l) m n).nv = true))) ∧
    -- a beat
    (∀ l, j.started = true → j.beat < nBeats t → j.latch = some l → l.ws = nWs t j.beat →
      let arow := (nArow t j.beat).toNat
      let crow := (nCrow t j.beat).toNat
      let row := (activationRow x j arow).1
      let anchor := tileAnchor x d
      let dot (n : Nat) : Int := ((List.range (nKlen t)).map fun k => alignProduct (row.getD k {}) (weightAt t (latchByte t l) k n) anchor).sum
      let left : Option Int := j.lastWs.filter fun w => decide (w ≠ l.ws)
      let total : Int := ((List.range 256).map dot).sum
      Completes (.beatLand c) s fun u =>
        let y := getCtx u c
        MemSame s u ∧ FBits left u ∧
        { hide y with nestRun := none, store := [], wdog := 0, wdogAt := 0 } = { hide x with nestRun := none, store := [], wdog := 0, wdogAt := 0 } ∧
        y.wdog = 0 ∧ y.wdogAt = s.cycle ∧ (∃ k : NestJob, y.nestRun = some k ∧ k.beat = j.beat + 1 ∧ k.lastWs = some l.ws ∧ k.started = true ∧ k.table = t ∧
          k.tstall = j.tstall ∧ k.mz = j.mz ∧ k.ilt = j.ilt ∧ k.woor = j.woor ∧
          (k.nv = true ↔ j.nv = true ∨ ∃ a ∈ row, a.nv = true) ∧ (k.aoor = true ↔ j.aoor = true ∨ (activationRow x j arow).2 = true)) ∧
        (crow < d.h → ∀ g, some g ∉ spanGranules d.view d.foot d.index 0 (tileExtent d.h) → storeGranule y g = storeGranule x g) ∧
        (getCore u c).mprog = (getCore s c).mprog +
          BitVec.ofNat 64 ((List.range 6).countP fun m => nTick t m && decide ((j.beat + 1) % nInner t m = 0)) ∧
        ((∀ off n, off + n ≤ tileExtent d.h → none ∉ spanGranules d.view d.foot d.index off n) → crow < d.h →
          (∀ n, n < 256 → fmod ∣ (valueAt y d (dataOff crow n) : Int) - (valueAt x d (dataOff crow n) + dot n) ∧
            fmod ∣ (valueAt y d (colOff d.h n) : Int) - (valueAt x d (colOff d.h n) + dot n)) ∧
          fmod ∣ (valueAt y d (rowOff d.h crow) : Int) - (valueAt x d (rowOff d.h crow) + total) ∧
          fmod ∣ (valueAt y d (cornerOff d.h) : Int) - (valueAt x d (cornerOff d.h) + total) ∧
          (∀ r, r < d.h → r ≠ crow → valueAt y d (rowOff d.h r) = valueAt x d (rowOff d.h r)) ∧
          ((tileHeader y d).getLsbD 18 = true ↔ (tileHeader x d).getLsbD 18 = true ∨ ∃ a ∈ row, a.nv = true) ∧
          (tileHeader y d).getLsbD 19 = (tileHeader x d).getLsbD 19 ∧ (tileHeader y d).toNat / 2 ^ 20 = (tileHeader x d).toNat / 2 ^ 20 ∧
          (∀ r n, r < d.h → r ≠ crow → n < 256 → valueAt y d (dataOff r n) = valueAt x d (dataOff r n)) ∧
          tileAnchor y d = anchor ∧ tileState y d = 1)) ∧
    -- the end
    (j.started = true → nBeats t ≤ j.beat → Completes (.nestJobComplete c) s fun u => Leaves u ∧ FBits j.lastWs u ∧
      (∀ w ∈ (getCtx u c).writing, w.arrival ≠ j.arrival) ∧
      ∃ ls, (nBeats t = 0 → ls = 0) ∧
        (getCtx u c).mwait.toNat % 2 ^ 24 = min (x.mwait.toNat % 2 ^ 24 + ls) 0xFFFFFF ∧
        (getCtx u c).mwait.toNat / 2 ^ 24 % 2 ^ 24 = min (x.mwait.toNat / 2 ^ 24 % 2 ^ 24 + j.tstall) 0xFFFFFF ∧
        ∀ n b, (n, b) ∈ [(48, j.nv), (49, j.mz), (50, j.ilt), (51, j.woor), (52, j.aoor)] →
          (getCtx u c).mwait.getLsbD n = (x.mwait.getLsbD n || b)))

/-- R130, R131, R192 to R195, R201 to R207, R209: the resolver's instructions put a job on its queue of 8; ASCL and AMOV fault on tiles that overlap otherwise
than wholly; ACMP compares a column of two tiles into a mask once no earlier job writes them. A job starts once no earlier one conflicts; then each RESOLVER_JOB_COMPLETE takes one row of its
check pass, which changes no byte of the store, or of its transform pass (R195, R196), and with the last row the job leaves: what its rows have done then. A job of X goes before one that S
handed over in the same cycle (R192). ACMP takes its tiles as of 64 rows where it looks for earlier jobs, and a row reads the store as it stands when it runs (log entry 91: the model's choices),
so what RSLV to a format or wire form gives is stated for a destination apart from its tile, and what ASCL gives for scale codes apart from both. -/
def Obligations.ResolverJobs : Prop :=
  (∀ (d a b : Opnd) (g : Reg) (f : RFmt) (r : Round) (sat : Bool) (h : BitVec 6) (q : XQ) (s : State), s.cur.2 = .X →
    let x := xContext s
    let t0 (o : Opnd) : Nat := 16 * (x.aview.toNat % 2 ^ 16) + 16 * (x.aview.toNat / 2 ^ 16 % 2 ^ 16) * opIndex s o
    let ext := tileExtent (h.toNat + 1)
    let overlap : Prop := t0 d ≠ t0 a ∧ t0 d < t0 a + ext ∧ t0 a < t0 d + ext
    let late (k : RJob) : Prop := x.rjobs.getLast? = some k ∧ k.seq = .S ∧ k.issuedAt = s.cycle ∧ k.started = false ∧ k.arrival + 1 = x.arrivals
    let Queued (i : Instr) (kind : RKind) (tile : Opnd) : Prop :=
      (8 ≤ x.rjobs.length → Completes i s (Blocked .job s)) ∧
      (x.rjobs.length < 8 → Completes i s fun t => XChanged s t (fun y => { y with rjobs := [], arrivals := 0, writing := [], sacc := [] }) q [] ∧
        (curCtx t).arrivals = x.arrivals + 1 ∧ ∃ j : RJob, j ∈ (curCtx t).rjobs ∧ j.kind = kind ∧ j.tile = opIndex s tile ∧ j.h = h.toNat + 1 ∧
          j.aview = x.aview ∧ j.vview = x.vview ∧ j.foot = footprint x ∧ j.seq = .X ∧ j.issuedAt = s.cycle ∧ j.started = false ∧
          ((∀ k, ¬ late k) → (∀ k ∈ x.rjobs, k.arrival < x.arrivals) →
            j.arrival = x.arrivals ∧ (curCtx t).rjobs = x.rjobs ++ [j] ∧ (curCtx t).sacc = x.sacc) ∧
          ∀ k, late k → (∀ o ∈ x.rjobs.dropLast, o.arrival < k.arrival) →
            j.arrival = k.arrival ∧ (curCtx t).rjobs = x.rjobs.dropLast ++ [j, { k with arrival := x.arrivals }])
    Queued (.aclr d g h q) (.aclr ((rd s g).setWidth 16)) d ∧ Queued (.aanc d g h q) (.aanc ((rd s g).setWidth 16).toInt) d ∧
    Queued (.rslvCanonical d h q) .canon d ∧ Queued (.rslvToFormat f r sat d a h q) (.toFormat f r sat q.nf (opIndex s d)) a ∧
    Queued (.rslvWireForm d a g h q) (.wire ((rd s g).setWidth 16).toInt q.nf (opIndex s d)) a ∧ Queued (.achk a h q) .achk a ∧
    (¬ overlap → Queued (.ascl d a b h q) (.ascl (opIndex s a) (opIndex s b)) d ∧ Queued (.amov d a h q) (.amov (opIndex s a)) d) ∧
    (overlap → Completes (.ascl d a b h q) s (FaultsAt s 0x16 0) ∧ Completes (.amov d a h q) s (FaultsAt s 0x16 0))) ∧
  (∀ (p : Pred) (raw : Bool) (kd : BitVec 3) (a b : Opnd) (col : BitVec 8) (q : XQ) (s : State), s.cur.2 = .X →
    let x := xContext s
    let t (o : Opnd) : Tile := { view := x.aview, foot := footprint x, index := opIndex s o, h := 64 }
    let written (o : Opnd) : Prop := ∃ n sets, (n, sets) ∈ jobsOf x ∧ sets.writes.any (bytesMeet (tileRange (t o))) = true
    let off (j : Nat) := dataOff j col.toNat
    let m := min (tileAnchor x (t a)) (tileAnchor x (t b))
    let v (o : Opnd) (j : Nat) : Int := signedV (valueAt x (t o) (off j)) * 2 ^ (tileAnchor x (t o) - m).toNat
    let same (j : Nat) : Prop := tileAnchor x (t a) = tileAnchor x (t b) ∧ tileRead x (t a) (off j) 24 = tileRead x (t b) (off j) 24
    (written a ∨ written b → Completes (.acmp p raw kd a b col q) s (Blocked .job s)) ∧
    (¬ (written a ∨ written b) → ∃ r k, Completes (.acmp p raw kd a b col q) s (fun u => XIssued s u [] q [] r) ∧
      r.due = (curSeq s).clock + (if raw then 2 else 12) ∧ r.writes = [] ∧ r.orFlags = 0 ∧ r.setFlags = none ∧ r.push = none ∧
      r.k = some (kd.toNat, readMask x q.k.toNat s.freeCtr, k) ∧ ∀ j, j < 64 → (∀ r ∈ x.xres, r.writes = []) →
        (raw = false → maskBit k j = predHolds p (some (compare (v a j) (v b j)))) ∧
        (raw = true → p = .eq → (maskBit k j = true ↔ same j)) ∧ (raw = true → p = .ne → (maskBit k j = true ↔ ¬ same j)))) ∧
  ∀ (c : Nat) (j : RJob) (rest : List RJob) (s : State), (getCtx s c).rjobs = j :: rest → (getCtx s c).rHalted = false →
    let x := getCtx s c
    let t := jobTile j
    let elements := 257 * (j.h + 1)
    let eoff (k : Nat) : Nat := 16 + 24 * k
    let V (n m : Nat) : Int := signedV (valueAt x t (dataOff n m))
    let Inside (u : Tile) : Prop := ∀ off n, off + n ≤ tileExtent u.h → none ∉ spanGranules u.view u.foot u.index off n
    let Fails (a : Nat) (u : State) : Prop := (getCtx u c).rjobs = rest ∧ MemSame s u ∧
      ∃ i, tfind (getCtx u c).engStop 4 = some (j.seq, i) ∧ i.cause = 0x21 ∧ i.eaddr = BitVec.ofNat 56 a ∧ i.fpc = j.fpc
    let strip (y : Ctx) : Ctx := { y with rjobs := [], store := [], flags := 0, writing := [], rsoor := 0, oor := {}, wdog := 0, wdogAt := 0, sacc := [] }
    -- the job has left after its rows
    let Ends (P : Ctx → Prop) : Prop := ∃ n u, n ≤ 2 * j.h ∧ RowsRun c n s u ∧ OnlyCtx s c u ∧ (getCtx u c).rjobs = rest ∧
      strip (getCtx u c) = strip x ∧ (∀ w ∈ (getCtx u c).writing, w.arrival ≠ j.arrival) ∧ P (getCtx u c)
    -- the start
    (j.started = false → mayStart x j.arrival (rjobSets j) = false → Completes (.resolverJobStart c) s fun u => u = s) ∧
    (j.started = false → mayStart x j.arrival (rjobSets j) = true → Completes (.resolverJobStart c) s fun u =>
      u = setCtx s c { x with rjobs := { j with started := true } :: rest,
                              writing := x.writing.filter (·.arrival != j.arrival) ++ jobRanges j.arrival (jobBytes x j) }) ∧
    -- a row
    (j.started = false → Completes (.resolverJobComplete c) s fun u => u = s) ∧
    (j.started = true → j.transform = false → j.row + 1 < j.h → (0 < j.row ∨ ∀ u ∈ namedTiles j, tileFaulted x u = false) → checkedTile x j ≠ none →
      Completes (.resolverJobComplete c) s fun u => OnlyCtx s c u ∧ strip (getCtx u c) = strip x ∧ (getCtx u c).rjobs = { j with row := j.row + 1 } :: rest ∧
        (getCtx u c).store = x.store ∧ (getCtx u c).flags = x.flags ∧ (getCtx u c).writing = x.writing ∧ (getCtx u c).sacc = x.sacc) ∧
    (j.started = true → j.transform = true → j.row + 1 < transformRows x j →
      Completes (.resolverJobComplete c) s fun u => OnlyCtx s c u ∧ strip (getCtx u c) = strip x ∧ (getCtx u c).rjobs = { j with row := j.row + 1 } :: rest ∧
        (getCtx u c).writing = x.writing ∧ (getCtx u c).sacc = x.sacc) ∧
    (j.started = true → j.transform = false → j.row = 0 → 0 < j.h → x.raced = [] → Inside t →
      -- ACLR
      (∀ anchor, j.kind = .aclr anchor → Ends fun y => tileRead y t 0 16 = anchor.toNat ∧ ∀ k, k < elements → tileRead y t (eoff k) 24 = 0) ∧
      -- a faulted tile, and a check that fails
      ((∀ anchor, j.kind ≠ .aclr anchor) → tileFaulted x t = true → Completes (.resolverJobComplete c) s (Fails (tileAddr t))) ∧
      (j.kind = .canon ∨ j.kind = .achk → tileFaulted x t = false → tileChecks x t = false → ∃ u, RowsRun c j.h s u ∧
        Fails (tileAddr t) u ∧ tileState (getCtx u c) t = 3) ∧
      -- AANC
      (∀ e, j.kind = .aanc e → tileFaulted x t = false →
        let to' : Int := max (-32768) (min 32767 (e - 71))
        (tileState x t = 0 → Ends fun y => tileAnchor y t = to' ∧ tileState y t = 0) ∧
        (tileState x t ≠ 0 → tileChecks x t = true → Ends fun y => tileAnchor y t = to' ∧ tileState y t = 2 ∧ tileChecks y t = true ∧
          ∀ n m, n < j.h → m < 256 → (2 ^ 96 : Int) ∣ (valueAt y t (dataOff n m) : Int) - shiftFloor (V n m) (to' - tileAnchor x t))) ∧
      (tileFaulted x t = false → tileChecks x t = true →
        -- RSLV and ACHK
        (j.kind = .canon → Ends fun y => tileState y t = 2 ∧ tileAnchor y t = tileAnchor x t ∧
          ∀ k, k < elements → tileRead y t (eoff k) 24 = valueAt x t (eoff k)) ∧
        (j.kind = .achk → Ends fun y => ∀ n, storeGranule y n = storeGranule x n) ∧
        (∀ f r sat nf d, j.kind = .toFormat f r sat nf d →
          let w := (rfmtF f).width
          (∀ off n, off + n ≤ 32 * w * j.h → none ∉ spanGranules j.vview j.foot d off n) →
          bytesMeet (viewAddr j.vview d, 32 * w * j.h) (tileRange t) = false →
          let el (n m : Nat) := roundDyadic (rfmtF f) r sat (V n m < 0) (V n m).natAbs (tileAnchor x t)
          Ends fun y => (∀ n m, n < j.h → m < 256 → readSpan y j.vview j.foot d (32 * w * n) (32 * w) / 2 ^ (w * m) % 2 ^ w = (el n m).1 % 2 ^ w) ∧
            ∀ l, l < 64 → laneFlags y.flags l = laneFlags x.flags l |||
              if nf then 0 else orFlagsN (fun i => (el ((64 * i + l) / 256) ((64 * i + l) % 256)).2) (4 * j.h)) ∧
        (∀ xe nf d, j.kind = .wire xe nf d → (∀ off n, off + n ≤ 1024 * j.h → none ∉ spanGranules j.vview j.foot d off n) →
          bytesMeet (viewAddr j.vview d, 1024 * j.h) (tileRange t) = false →
          let whole (n m : Nat) := roundToInt .rne (V n m < 0) (V n m).natAbs (tileAnchor x t - xe)
          let leaf (n m : Nat) : Int := max (-8388608) (min 8388607 (whole n m).1)
          Ends fun y => (∀ n m, n < j.h → m < 256 → (readSpan y j.vview j.foot d (1024 * n) 1024 / 2 ^ (32 * m) % 2 ^ 32 : Nat) = (leaf n m % 2 ^ 32 : Int)) ∧
            ∀ l, l < 64 → laneFlags y.flags l = laneFlags x.flags l |||
              if nf then 0 else orFlagsN (fun i =>
                let n := (64 * i + l) / 256
                let m := (64 * i + l) % 256
                (if leaf n m = (whole n m).1 then 0 else flagSAT) ||| if (whole n m).2 then flagNX else 0) (4 * j.h)) ∧
        -- STA
        (∀ raw a l m, j.kind = .sta raw → x.sacc = l ++ a :: m → a.act = .image j.arrival → (∀ b ∈ l ++ m, b.act ≠ .image j.arrival) →
          Ends fun y => ∃ bytes, y.sacc = l ++ { a with act := .store bytes [] } :: m ∧
            (raw = true → bytes.length = tileExtent j.h ∧ ∀ i, i < tileExtent j.h → (bytes.getD i 0).toNat = tileRead x t i 1) ∧
            (raw = false → bytes.length = 16 + 12 * elements ∧ ∀ k i, k < elements → i < 12 →
              (bytes.getD (16 + 12 * k + i) 0).toNat = valueAt x t (eoff k) / 2 ^ (8 * i) % 2 ^ 8))) ∧
      -- ASCL and AMOV
      (∀ src, j.kind = .amov src → let a := jobTile2 j src
        Inside a → tileFaulted x t = false → tileFaulted x a = false → tileChecks x a = true → tileAddr a = tileAddr t ∨ bytesMeet (tileRange a) (tileRange t) = false →
        Ends fun y => ∀ n, n < tileExtent j.h / 16 → tileRead y t (16 * n) 16 = tileRead x a (16 * n) 16) ∧
      (∀ src sc, j.kind = .ascl src sc → let a := jobTile2 j src
        let codes := readSpan x j.vview j.foot sc 0 320
        let row (n : Nat) : Nat := codes / 2 ^ (8 * (256 + n)) % 2 ^ 8
        let col (m : Nat) : Nat := codes / 2 ^ (8 * m) % 2 ^ 8
        let term (n m : Nat) : Int := if row n = 255 ∨ col m = 255 then 0
          else (roundToInt .rne (signedV (valueAt x a (dataOff n m)) < 0) (signedV (valueAt x a (dataOff n m))).natAbs
            (tileAnchor x a + row n + col m - 254 - tileAnchor x t)).1
        Inside a → tileFaulted x t = false → tileFaulted x a = false → tileChecks x a = true → tileAddr a = tileAddr t ∨ bytesMeet (tileRange a) (tileRange t) = false →
        bytesMeet (viewAddr j.vview sc, 320) (tileRange a) = false → bytesMeet (viewAddr j.vview sc, 320) (tileRange t) = false →
        let Adds (y : Ctx) (off : Nat) (v : Int) : Prop := (2 ^ 96 : Int) ∣ (valueAt y t off : Int) - (valueAt x t off + v)
        Ends fun y => (∀ n m, n < j.h → m < 256 → Adds y (dataOff n m) (term n m)) ∧
          (∀ n, n < j.h → Adds y (rowOff j.h n) ((List.range 256).map (term n)).sum) ∧
          (∀ m, m < 256 → Adds y (colOff j.h m) ((List.range j.h).map (term · m)).sum) ∧
          Adds y (cornerOff j.h) ((List.range j.h).map fun n => ((List.range 256).map (term n)).sum).sum ∧
          tileState y t = 1 ∧ tileAnchor y t = tileAnchor x t ∧
          ((tileHeader y t).getLsbD 18 = true ↔ (tileHeader x t).getLsbD 18 = true ∨ (tileHeader x a).getLsbD 18 = true ∨
            ∃ n m, n < j.h ∧ m < 256 ∧ (row n = 255 ∨ col m = 255)) ∧
          ((tileHeader y t).getLsbD 19 = true ↔ (tileHeader x t).getLsbD 19 = true ∨ (tileHeader x a).getLsbD 19 = true) ∧
          -- the source is canonical, its value unchanged
          (tileAddr a ≠ tileAddr t → tileState y a = 2 ∧ tileAnchor y a = tileAnchor x a ∧ ∀ k, k < elements → tileRead y a (eoff k) 24 = valueAt x a (eoff k))))

/-! ## Stores and fences -/

/-- R218, R252, R254, R255, R258, R265 to R270, R273, R318, R319, R339, R372, R376, R402, R403: the stores, atomics and TOKS put one access in flight with the
bytes or the operation they name and change nothing else of the machine but RSOOR, HOOR and what translating and counting leaves behind (STQ and SCT also pop
their queue, STA hands a job to the resolver, an atomic that releases at .dom may have heard from other packages). A misaligned address or a refused
translation faults, a page that is not present is waited for; without room, behind a tracked range, without the tokens of a walk or before an unseen access of
a releasing atomic they wait. That word from other packages is asked for where an instruction waits for it is the model's choice (log entry 19). -/
def Obligations.StoresIssue : Prop := ∀ (o : Opnd) (d : BitVec 2) (g gx : Reg) (f : SFmt) (ai : AFmt) (af : AFFmt) (k : AKind) (sc : Scope) (raw : Bool)
    (e : Addr) (b : Base) (fa : Fe) (s : State), s.cur.2 = .S →
  let x := curCtx s
  -- u is s, once an atomic that releases at .dom has asked for word from other packages (R297)
  let Flies (u : State) (strip : Ctx → Ctx) (act : SAct → Prop) (ps : List Piece) (fe : Fe) (range : Option (Nat × Nat)) (t : State) : Prop :=
    AccessIssued s t strip [] ∧ (curCtx t).sissued = x.sissued + 1 ∧ ∃ acc : SAccess, (curCtx t).sacc = (curCtx u).sacc ++ [acc] ∧ act acc.act ∧
      acc.pieces = ps ∧ acc.fe = fe ∧ acc.range = range ∧ acc.performed = false ∧ acc.num = x.sissued
  let plain (y : Ctx) : Ctx := { y with sacc := [], sissued := 0, rsoor := 0, oor := {}, bmvFar := false }
  let popping (y : Ctx) : Ctx := { plain y with w := [] }
  let resolving (y : Ctx) : Ctx := { plain y with rjobs := [], arrivals := 0 }
  let IssuesIn (u : State) (i : Instr) (strip : Ctx → Ctx) (act : SAct → Prop) (a n : Nat) (slot : Option (BitVec 4)) (need : Need) (fe : Fe)
      (P : State → Prop) : Prop :=
    (storeRoom u = false ∨ trackerHit u a n slot = true → Completes i s (Blocked .other (awaitRoom u))) ∧
    (storeRoom u = true → trackerHit u a n slot = false → StopsFrom u i s (resolve u a n slot need) ∧
      ∀ ps, resolve u a n slot need = .ok ps → Completes i s fun t => P t ∧ Flies u strip act ps fe (if slot = none then some (a, n) else none) t)
  let Issues := IssuesIn s
  let Device (u : State) (i : Instr) (act : SAct → Prop) (a n : Nat) : Prop :=
    (storeRoom u = false ∨ trackerHit u a n none = true → Completes i s (Blocked .other (awaitRoom u))) ∧
    (storeRoom u = true → trackerHit u a n none = false →
      Completes i s (Flies u plain act [{ loc := .device (a - apertureBase), addr := a, first := 0, count := n, pos := 0 }] .none (some (a, n))))
  let head := (getW x d.toNat).entries
  let Pops (t : State) : Prop := (getW (curCtx t) d.toNat).entries = head.drop 1 ∧ ∀ m, m ≠ d.toNat → getW (curCtx t) m = getW x m
  let a := effAddr s e
  let c := baseAddr s b
  let holds (bytes : List Byte) (v : Vec) : Prop := bytes.length = 256 ∧ ∀ i, i < 256 → (bytes.getD i 0).toNat = v.toNat / 2 ^ (8 * i) % 2 ^ 8
  (∀ m k n need, e.slot = some k → tfind x.slots k.toNat = none → resolve s m n e.slot need = .error (.cause 0x15, 0)) ∧
  -- STV
  (a % 16 ≠ 0 → Completes (.stv o e fa) s (FaultsAt s 0x11 a)) ∧
  (a % 16 = 0 → Issues (.stv o e fa) plain (fun act => ∃ bytes, act = .store bytes [] ∧ bytes.length = 256 ∧ ∀ i, i < 256 →
      match ((viewGranules x.vview (footprint x) (opIndex s o) 16)[i / 16]?).join with
      | some n => writingMask x n = 0 →
          bytes.getD i 0 = granuleByte (storeGranule x n) (i % 16) ∨ bytes.getD i 0 = granuleByte (storeGranule (landAll x) n) (i % 16)
      | none => bytes.getD i 0 = 0) a 256 e.slot { wr := true } fa (fun _ => True)) ∧
  -- STQ
  (head = [] → Completes (.stq d e fa) s (Blocked .queue s) ∧ Completes (.sct d gx b) s (Blocked .queue s)) ∧
  (∀ h rest, head = h :: rest →
    (h.eos = true → Completes (.stq d e fa) s (fun t => Pops t ∧ AccessIssued s t (fun y => { y with w := [] }) []) ∧
      Completes (.sct d gx b) s (fun t => Pops t ∧ AccessIssued s t (fun y => { y with w := [] }) [])) ∧
    (h.eos = false →
      (a % 16 ≠ 0 → Completes (.stq d e fa) s (FaultsAt s 0x11 a)) ∧
      (a % 16 = 0 → Issues (.stq d e fa) popping (fun act => ∃ bytes bad, act = .store bytes bad ∧ holds bytes h.data ∧
        ∀ i, i ∈ bad ↔ i < 256 ∧ maskBit h.mask (i / 4) = false) a 256 e.slot { wr := true } fa Pops) ∧
      -- SCT
      (let iv := (rd s gx).toNat
       (iv % 16 ≠ 0 → Completes (.sct d gx b) s (FaultsAt s 0x11 iv)) ∧ (iv % 16 = 0 → c % 4 ≠ 0 → Completes (.sct d gx b) s (FaultsAt s 0x11 c)) ∧
       let ready : Prop := storeRoom s = true ∧ atomicsReturned x = true ∧ trackerHit s iv 256 none = false ∧ ownStorePending s iv 256 = false
       (iv % 16 = 0 → c % 4 = 0 → ¬ ready → Completes (.sct d gx b) s (Blocked .other (awaitRoom s))) ∧
       (iv % 16 = 0 → c % 4 = 0 → ready →
         -- S's die has applied S's own stores to the index vector (R293)
         let u := ownStoresSeen s iv 256
         StopsFrom u (.sct d gx b) s (readIndices u iv) ∧
         ∀ idx, readIndices u iv = .ok idx →
           let to' := idx.zipIdx.map fun (v, j) => if maskBit h.mask j then v else none
           let dm := lanesDemand u iv c b.slot to'
           (lanesHit u c b.slot to' = true → Completes (.sct d gx b) s (Blocked .other u)) ∧
           (lanesHit u c b.slot to' = false → demandReady u dm = false → Completes (.sct d gx b) s (Blocked .other (awaitDemand u dm))) ∧
           (lanesHit u c b.slot to' = false → demandReady u dm = true → StopsFrom u (.sct d gx b) s (resolveLanes u c b.slot { wr := true } to' 0) ∧
             ∀ lanes, resolveLanes u c b.slot { wr := true } to' 0 = .ok lanes →
               Completes (.sct d gx b) s fun t => Pops t ∧ Flies s popping (fun act => ∃ bytes, act = .scatter bytes ∧ holds bytes h.data) (lanes.filterMap id)
                 .none (if b.slot = none then laneSpan c to' else none) t))))) ∧
  -- STS
  (let n := sfmtBytes f
   let act (y : SAct) : Prop := ∃ bytes, y = .store bytes [] ∧ bytes.length = n ∧ ∀ i, i < n → (bytes.getD i 0).toNat = (rd s g).toNat / 2 ^ (8 * i) % 2 ^ 8
   (a % n ≠ 0 → Completes (.sts f g e fa) s (FaultsAt s 0x11 a)) ∧
   (a % n = 0 → ¬ (e.slot = none ∧ inAperture a = true) → Issues (.sts f g e fa) plain act a n e.slot { wr := true } fa (fun _ => True)) ∧
   (a % n = 0 → e.slot = none → inAperture a = true →
     (n < 4 → Completes (.sts f g e fa) s (FaultsAt s 0x13 a)) ∧ (4 ≤ n → Device s (.sts f g e fa) act a n))) ∧
  -- STA
  (let h := (rd s gx).toNat % 2 ^ 6 + 1
   let n := if raw then tileExtent h else 16 + 12 * 257 * (h + 1)
   (c % 16 ≠ 0 → Completes (.sta raw o gx b) s (FaultsAt s 0x11 c)) ∧
   (c % 16 = 0 → 8 ≤ x.rjobs.length → Completes (.sta raw o gx b) s (Blocked .job s)) ∧
   (c % 16 = 0 → x.rjobs.length < 8 → Issues (.sta raw o gx b) resolving (fun act => act = .image x.arrivals) c n b.slot { wr := true } .none fun t =>
     (curCtx t).arrivals = x.arrivals + 1 ∧ ∃ j : RJob, (curCtx t).rjobs = x.rjobs ++ [j] ∧ j.kind = .sta raw ∧ j.tile = opIndex s o ∧ j.h = h ∧
       j.aview = x.aview ∧ j.seq = .S ∧ j.arrival = x.arrivals ∧ j.started = false)) ∧
  -- atomics
  (let releases : Prop := k = .rel ∨ k = .full
   let u := if k = .rel ∨ k = .full then drawAcks s s.cur.1 sc else s
   let Atomic (i : Instr) (op : AtomOp) (n : Nat) (signed : Bool) (ff : Option AFFmt) : Prop :=
     let act (y : SAct) : Prop := y = .atomic op (8 * n) signed ff (rd s gx) (rd s g) g (k == .acq || k == .full) (if k = .full then some sc else none)
     (c % n ≠ 0 → Completes i s (FaultsAt s 0x11 c)) ∧
     (c % n = 0 →
       (sc ≠ .dom → u = s) ∧ (releases → allVisible u s.cur.1 sc = false → Completes i s (Blocked .other u)) ∧
       (¬ (releases ∧ allVisible u s.cur.1 sc = false) →
         (¬ (b.slot = none ∧ inAperture c = true) → IssuesIn u i plain act c n b.slot { rd := true, wr := true } .none (fun _ => True)) ∧
         (b.slot = none → inAperture c = true →
           (ff ≠ none ∨ deviceAtomic (c - apertureBase) = false → Completes i s (FaultsAt s 0x13 c)) ∧
           (ff = none → deviceAtomic (c - apertureBase) = true → Device u i act c n))))
   let n : Nat := if ai = .w64 then 8 else 4
   let signed : Bool := ai != .n32
   Atomic (.atadd ai k sc g gx b) .add n signed none ∧ Atomic (.atmin ai k sc g gx b) .min n signed none ∧
   Atomic (.atmax ai k sc g gx b) .max n signed none ∧ Atomic (.atxch ai k sc g gx b) .xch n signed none ∧
   Atomic (.atcas ai k sc g gx b) .cas n signed none ∧ Atomic (.atfadd af k sc g gx b) .fadd (if af = .f32 then 4 else 2) false (some af)) ∧
  -- TOKS
  (storeRoom s = false → Completes (.toks sc g) s (Blocked .other (awaitRoom s))) ∧
  (storeRoom s = true → Completes (.toks sc g) s (Flies s plain (fun act => act = .token sc g) [] .none none))

/-- R217, R221, R222, R227, R229, R253, R266, R268, R270, R272, R273, R293, R294, R299, R372, R376, R391: WRITE_PERFORM_HOME performs an S access, or of a store
or a scatter those granules whose turn it is, once its tokens are there. The bytes of a store and no others but counter records change, the highest lane of
a scatter that names a word wins, an atomic replaces the old value that it returns, a device register is written, TOKS counts the token word up, and each byte
written in DRAM goes in an update to every other die; REMOTE_UPDATE_INSTALL makes one update visible to one die. Bytes of a line that another key wrote become
undefined, so the frame is stated for lines of the same key (R214). Which granules of an access go first is a free choice (R299). -/
def Obligations.StoresPerformed : Prop :=
  (∀ (c n : Nat) (a : SAccess) (s0 : State), (getCtx s0 c).sacc[n]? = some a →
    -- the access of TOKS at .dom asks for word from other packages (R297)
    let s := askAcks s0 c a
    let x := getCtx s c
    let earlier := (getCore s c).shadow.sacc ++ (getCore s c).tracker.filterMap (·.acc) ++ x.sacc.take n
    let DramAt (p : Piece) (q : Nat) : Prop := ∃ pa layout mire key part, p.loc = .dram pa layout mire key part ∧ q = placed pa layout
    let sameKey : Prop := ∃ k : Nat → LineTag, ∀ p ∈ a.pieces, ∀ pa layout mire key part, p.loc = .dram pa layout mire key part →
      let w := placed pa layout / 64
      tagFor s part key ∈ [none, some (k w)] ∧ tfind s.lineTags w ∈ [none, some (k w)]
    let ps := if isAtomic a then a.pieces else storePart s a
    let p := (partOfCore s c).getD 0
    -- a byte that has been written at its home is on its way to every other die, or installed there
    let Sent (t : State) (deps : List Nat) (m : Nat) (v : Byte) : Prop := ∀ d, d < 4 → d ≠ homeOf m → ∃ k,
      tget 0 (getDie s (homeOf m)).clock (homeOf m) < k ∧ k ≤ tget 0 (getDie t (homeOf m)).clock (homeOf m) ∧
      (k ≤ tget 0 (getDie t d).clock (homeOf m) ∨ ∃ u ∈ (getDie t d).inbox, u.home = homeOf m ∧ u.stamp = k ∧ u.deps = deps ∧ (m, v) ∈ u.cells)
    let Stops (k : BitVec 8) (g : Nat) (t : State) : Prop := (getSeq t c .S).halted = true ∧ MemSame s t ∧
      ∃ i, (getSeq t c .S).origin = some i ∧ i.cause = k ∧ i.eaddr = BitVec.ofNat 56 g ∧ i.fpc = a.fpc
    -- a register of the device window has been written, which gives the state w
    let Device (w t : State) : Prop := OnlyCounting (setCtx w c (getCtx t c)) t ∧
      ∀ b ∈ (getCtx t c).sacc, b ∈ (getCtx w c).sacc.take n ++ (getCtx w c).sacc.drop (n + 1) ∨ b.performed = true
    let Marked (t : State) : Prop := ∀ b ∈ (getCtx t c).sacc, b ∈ x.sacc.take n ++ x.sacc.drop (n + 1) ∨ b.performed = true ∨
      (isAtomic a = false ∧ b.parts = a.parts ++ ps.map (·.pos) ∧ ∃ p ∈ a.pieces, p.pos ∉ a.parts ∧ p ∉ ps)
    let Others (t : State) : Prop := (∀ m, m ≠ c → getCore t m = getCore s m) ∧ (∀ p, { getPart t p with buckets := [] } = { getPart s p with buckets := [] }) ∧
      t.mgmt = { s.mgmt with mirq := t.mgmt.mirq, messages := t.mgmt.messages } ∧ ∀ sq, sq ≠ .S → getSeq t c sq = getSeq s c sq
    (isToken a = false → s = s0) ∧
    -- not yet
    (performable s c earlier a = false → Completes (.writePerformHome c n) s0 fun t => t = s) ∧
    (performable s c earlier a = true → isToken a = false → (tokensReady s (unpaid a ps) = false ∨ writeWaits s ps = true) →
      Completes (.writePerformHome c n) s0 fun t => t = pruneStores (awaitTokens s (unpaid a ps)) c) ∧
    (performable s c earlier a = true → (isToken a = true ∨ (tokensReady s (unpaid a ps) = true ∧ writeWaits s ps = false)) →
      -- a store
      (∀ bytes bad, a.act = .store bytes bad → (∀ p ∈ a.pieces, ∀ o, p.loc ≠ .device o) →
        let byte (i : Nat) : Byte := bytes.getD i 0
        let cells := dramCells ps byte
        (∀ k g, storeFault s ps cells false = some (k, g) → Completes (.writePerformHome c n) s0 (Stops k g)) ∧
        (storeFault s ps cells false = none → Completes (.writePerformHome c n) s0 fun t => Marked t ∧ Others t ∧ getSeq t c .S = getSeq s c .S ∧
          (sameKey → ∀ m, (∀ v, (m, v) ∉ cells) → ¬ CounterByte s m → memGet t.mem m = memGet s.mem m) ∧
          (MemoryCanonical s → sameKey → (cells.map (·.1)).Nodup → ∀ m v, (m, v) ∈ cells → wordLost s m = false → memGet t.mem m = v ∧ Sent t a.deps m v) ∧
          ((∀ p ∈ ps, ∀ q, DramAt p q → wordLost s q = false) → ∀ w, w ∈ t.lostWords ↔ w ∈ s.lostWords ∨
            ∃ p ∈ ps, ∃ q i, DramAt p q ∧ w = q / 64 ∧ i < p.count ∧ p.pos + i ∈ bad) ∧
          (∀ cl g, (∀ p ∈ ps, ∀ o, p.loc ≠ .sram cl g o) → sramGet (getCluster t cl) g = sramGet (getCluster s cl) g) ∧
          ∀ l p r cl g o, ps = l ++ p :: r → p.loc = .sram cl g o → (∀ u ∈ l ++ r, ∀ v, u.loc ≠ .sram cl g v) →
            let old := sramGet (getCluster s cl) g
            let new := sramGet (getCluster t cl) g
            (new.f = match a.fe with | .none => old.f | .fe => true | .fec => false) ∧
            ((∃ i, i < p.count ∧ p.pos + i ∈ bad) → new.q = false) ∧
            ((∀ i, i < p.count → p.pos + i ∉ bad) → p.first + p.count ≤ 16 → new.q = (decide (p.count = 16) || old.q)) ∧
            ∀ i, i < 16 → granuleByte new.data i = if p.first ≤ i ∧ i < p.first + p.count
              then (if p.pos + (i - p.first) ∈ bad then 0 else byte (p.pos + (i - p.first))) else granuleByte old.data i)) ∧
      -- a store to a register of the device window
      (∀ bytes bad q o, a.act = .store bytes bad → a.pieces = [q] → a.parts = [] → q.loc = .device o → Completes (.writePerformHome c n) s0 fun t =>
        Device (deviceWrite s p o q.count (BitVec.ofNat 64 (ofBytes (fun i => bytes.getD (q.pos + i) 0) q.count))) t ∧
        ∀ r, regOf (getSeq t c .S) r = regOf (getSeq (deviceWrite s p o q.count (BitVec.ofNat 64 (ofBytes (fun i => bytes.getD (q.pos + i) 0) q.count))) c .S) r) ∧
      -- the lanes of a scatter, in ascending order
      (∀ bytes, a.act = .scatter bytes → (∀ q ∈ a.pieces, ∀ o, q.loc ≠ .device o) →
        let byte (i : Nat) : Byte := bytes.getD i 0
        let bad := lowestFault (ps.filterMap fun q => storeFault s [q] (dramCells [q] byte) false)
        (∀ k g, bad = some (k, g) → Completes (.writePerformHome c n) s0 (Stops k g)) ∧
        (bad = none → Completes (.writePerformHome c n) s0 fun t => Marked t ∧ Others t ∧ getSeq t c .S = getSeq s c .S ∧
          (sameKey → ∀ m, (∀ v, (m, v) ∉ dramCells ps byte) → ¬ CounterByte s m → memGet t.mem m = memGet s.mem m) ∧
          (MemoryCanonical s → sameKey → ps.length = 1 ∨ (∀ q ∈ ps, ∀ u, DramAt q u → regionOf s u ≠ .cxl) → ∀ l q rest m v, ps = l ++ q :: rest →
            (dramCells [q] byte).filter (·.1 == m) = [(m, v)] → (∀ v', (m, v') ∉ dramCells rest byte) → ¬ CounterByte s m → wordLost s m = false →
            memGet t.mem m = v ∧ Sent t a.deps m v) ∧
          (∀ cl g, (∀ q ∈ ps, ∀ o, q.loc ≠ .sram cl g o) → sramGet (getCluster t cl) g = sramGet (getCluster s cl) g) ∧
          ∀ l q rest cl g o i, ps = l ++ q :: rest → q.loc = .sram cl g o → q.first ≤ i → i < q.first + q.count → i < 16 →
            (∀ u ∈ rest, ∀ v, u.loc = .sram cl g v → ¬ (u.first ≤ i ∧ i < u.first + u.count)) →
            granuleByte (sramGet (getCluster t cl) g).data i = byte (q.pos + (i - q.first)))) ∧
      -- an atomic
      (∀ op w signed ff opnd cmp d acq full q, a.act = .atomic op w signed ff opnd cmp d acq full → w ∈ [16, 32, 64] →
        a.pieces = [q] → q.pos = 0 → q.count = w / 8 → q.first + q.count ≤ 16 →
        let v := opnd.toNat % 2 ^ w
        let num (u : Nat) : Int := if signed then sextN u w else u
        let new (old : Nat) : Nat := match op with
          | .add => (old + v) % 2 ^ w
          | .xch => v
          | .cas => if old = cmp.toNat % 2 ^ w then v else old
          | .min => if num v ≤ num old then v else old
          | .max => if num old ≤ num v then v else old
          | .fadd => match ff with
            | some f => (fadd (affmtOf f) (decodeF (affmtOf f) old) (decodeF (affmtOf f) v)).1
            | none => old
        let Returns (u t : State) (old : Nat) : Prop :=
          ∀ r, regOf (getSeq t c .S) r = if r = d ∧ r ≠ 0 then (if signed then BitVec.ofInt 64 (sextN old w) else BitVec.ofNat 64 old) else regOf (getSeq u c .S) r
        let Ends (old : Nat) (P : State → Prop) : Prop := Completes (.writePerformHome c n) s0 fun t => Marked t ∧ Others t ∧ Returns s t old ∧ P t
        let got := readLoc s (locDie (dieOfCore c) q.loc) q.loc 0
        let old := got.data.toNat / 2 ^ (8 * q.first) % 2 ^ w
        let hit (m : Nat) : Prop := ∃ pa layout mire key part, q.loc = .dram pa layout mire key part ∧ placed pa layout + q.first ≤ m ∧ m < placed pa layout + q.first + w / 8
        ((∃ pa layout mire key part, q.loc = .dram pa layout mire key part) ∨ (∃ cl g o, q.loc = .sram cl g o) →
          (∀ k, got.fault = some k → Completes (.writePerformHome c n) s0 (Stops k q.addr)) ∧
          (got.fault = none → got.lost = true → Completes (.writePerformHome c n) s0 (Stops (lostCause [q]) q.addr))) ∧
        (∀ pa layout mire key part, q.loc = .dram pa layout mire key part → sameKey → placed pa layout % 16 = 0 → got.fault = none → got.lost = false →
          wordLost s (placed pa layout) = false → storeFault s [q] (dramCells [q] fun _ => 0) false = none → MemoryCanonical s →
          Ends old fun t => (∀ i, i < w / 8 → (memGet t.mem (placed pa layout + q.first + i)).toNat = new old / 2 ^ (8 * i) % 2 ^ 8 ∧
              Sent t (maxVec a.deps x.sdeps) (placed pa layout + q.first + i) (BitVec.ofNat 8 (new old / 2 ^ (8 * i)))) ∧
            ∀ m, ¬ hit m → ¬ CounterByte s m → memGet t.mem m = memGet s.mem m) ∧
        (∀ cl g o, q.loc = .sram cl g o → got.fault = none → got.lost = false → Ends old fun t => MemSameButCounters s t ∧
          let was := sramGet (getCluster s cl) g
          let now := sramGet (getCluster t cl) g
          now.f = was.f ∧ now.q = was.q ∧ (∀ cl' g', (cl', g') ≠ (cl, g) → sramGet (getCluster t cl') g' = sramGet (getCluster s cl') g') ∧
          ∀ i, i < 16 → (granuleByte now.data i).toNat =
            if q.first ≤ i ∧ i < q.first + w / 8 then new old / 2 ^ (8 * (i - q.first)) % 2 ^ 8 else (granuleByte was.data i).toNat) ∧
        (q.loc = .beyond → Ends 0 fun t => MemSame s t) ∧
        (∀ pkg off mire part die, q.loc = .remote pkg off mire part die → Ends ((farData s pkg off).toNat / 2 ^ (8 * q.first) % 2 ^ w) fun t => MemSame s t ∧
          t.fabricOut = s.fabricOut ++ [.atomic pkg (off + q.first)]) ∧
        (∀ o, q.loc = .device o → let was := (deviceRead s p o).toNat % 2 ^ w
          Completes (.writePerformHome c n) s0 fun t => Device (deviceWrite s p o (w / 8) (BitVec.ofNat 64 (new was))) t ∧
            Returns (deviceWrite s p o (w / 8) (BitVec.ofNat 64 (new was))) t was)) ∧
      -- TOKS
      (∀ sc d, a.act = .token sc d → Completes (.writePerformHome c n) s0 fun t => Marked t ∧ Others t ∧ MemSame s t ∧ ∃ v, v < 2 ^ 64 ∧
        let on : Prop := (footprint x).getLsbD 7 = true
        let word (y : Ctx) : Nat := (storeGranule y 0xFFDF).toNat
        (¬ on → v = 1 ∧ ∀ g, storeGranule (getCtx t c) g = storeGranule x g) ∧
        (on → x.tokenBad = false → v = (word x / 2 ^ 64 + 1) % 2 ^ 64) ∧
        (on → word (getCtx t c) / 2 ^ 64 = v ∧ word (getCtx t c) % 2 ^ 64 = word x % 2 ^ 64 ∧ ∀ g, g ≠ 0xFFDF → storeGranule (getCtx t c) g = storeGranule x g) ∧
        ∀ r, regOf (getSeq t c .S) r = if r = d ∧ r ≠ 0 then BitVec.ofNat 64 v else regOf (getSeq s c .S) r))) ∧
  (∀ (d n : Nat) (u : Update) (s : State), (getDie s d).inbox[n]? = some u →
    let y := getDie s d
    let rest := y.inbox.take n ++ y.inbox.drop (n + 1)
    let ready : Prop := tget 0 y.clock u.home + 1 = u.stamp ∧ ∀ h, h < 4 → h ≠ u.home → u.deps.getD h 0 ≤ tget 0 y.clock h
    (¬ ready → Completes (.remoteUpdateInstall d n) s fun t => t = s) ∧
    (ready → (u.cells.map (·.1)).Nodup → Completes (.remoteUpdateInstall d n) s fun t => t = setDie s d (getDie t d) ∧
      (getDie t d).inbox = rest ∧ (∀ h, tget 0 (getDie t d).clock h = if h = u.home then u.stamp else tget 0 y.clock h) ∧
      (∀ m, (∀ v, (m, v) ∉ u.cells) → viewByte t d m = viewByte s d m) ∧
      ∀ m v, (m, v) ∈ u.cells →
        ((∃ r ∈ rest, ∃ b, (m, b) ∈ r.cells) → viewByte t d m = v) ∧ ((∀ r ∈ rest, ∀ b, (m, b) ∉ r.cells) → viewByte t d m = memGet s.mem m)))

/-- R218, R271, R287, R289, R293, R295, R297, R301, R319, R355, R356, R358, R363 to R365: FENCE and BFEN complete once what they order has happened, else wait;
BMV and COLL check a record, which S's die reads after S's own stores to it, hand a job over and give a ticket; MCA acknowledges a stream and reads its status;
MCJ asks for a join, which JOIN_RECORDED answers with a status, as it does what another package tells of a stream. The model's choice: tickets count up (log
entry 9), a fence blocks S in place (log entry 31), BFEN at .dom asks for word of remote writes as a fence does (log entry 19), and a left group reads as
STATE 2 (log entry 66). -/
def Obligations.FencesAndStreams : Prop :=
  (∀ (k : AKind) (sc : Scope) (d : Reg) (e : Addr) (r : Nat) (s : State), s.cur.2 = .S →
    let x := curCtx s
    let c := s.cur.1
    let die := curDie s
    let p := curPart s
    let a := effAddr s e
    -- at .dom a fence asks for word from other packages (R297)
    let asked := drawAcks s c sc
    let seen (u : State) : Prop := ∀ b ∈ (curCtx u).sacc, visibleAt u c sc b = true
    let returned : Prop := ∀ b ∈ x.sacc, b.performed = true ∨ ∀ op w sg ff v m g acq full, b.act ≠ .atomic op w sg ff v m g acq full
    let ticket := (s.ticketCtr + 1) % 2 ^ 32
    let Given (t : State) : Prop := Holds t d (BitVec.ofNat 64 ticket) ∧ t.ticketCtr = s.ticketCtr + 1 ∧ SeqDone (curSeq s) (curSeq t) 2 1 [d] ∧
      (curCtx t).tickets = x.tickets
    -- S's die has applied S's own stores to the n bytes of the record (R293)
    let own (n : Nat) : State := ownStoresSeen s a n
    let Free (n : Nat) : Prop := a % 64 = 0 ∧ recordHeld s a n = false
    let Reads (n : Nat) : Prop := Free n ∧ readRecord (own n) a n = .ok r
    (sc ≠ .dom → asked = s) ∧ OnlyContext s asked ∧ { curCtx asked with sacc := [], bmvFar := false } = { x with sacc := [], bmvFar := false } ∧
    -- FENCE
    (let u := if k = .rel ∨ k = .full then asked else s
     let fenced : Prop := (k = .rel ∨ k = .full → seen u) ∧ (k = .acq ∨ k = .full → returned)
     (fenced → Completes (.fence k sc) s fun t => SeqOnly (if k = .acq ∨ k = .full then catchUp u die x.sdeps else u) t 2 1 []) ∧
     (¬ fenced → Completes (.fence k sc) s (Blocked .other u))) ∧
    -- BFEN
    (let done : Prop := seen asked ∧ stampsVisible asked die sc x.bmvStamps = true ∧ (sc = .dom → (curCtx asked).bmvFar = false)
     (bmvPending s c = true → Completes (.bfen sc) s (Blocked .job asked)) ∧
     (bmvPending s c = false → done → Completes (.bfen sc) s fun t => SeqOnly asked t 2 1 []) ∧
     (bmvPending s c = false → ¬ done → Completes (.bfen sc) s (Blocked .other asked))) ∧
    -- records that are misaligned, held back, or unreadable
    (a % 64 ≠ 0 → Completes (.bmv d e) s (FaultsAt s 0x11 a) ∧ Completes (.coll d e) s (FaultsAt s 0x11 a) ∧ Completes (.mcj d e) s (FaultsAt s 0x11 a)) ∧
    (a % 64 = 0 → (recordHeld s a 64 = true → Completes (.bmv d e) s (Blocked .other s) ∧ Completes (.mcj d e) s (Blocked .other s)) ∧
      (recordHeld s a 256 = true → Completes (.coll d e) s (Blocked .other s)) ∧ (x.joinWait ≠ none → Completes (.mcj d e) s (Blocked .other s))) ∧
    (Free 64 → StopsFrom (own 64) (.bmv d e) s (readRecord (own 64) a 64) ∧ (x.joinWait = none → StopsFrom (own 64) (.mcj d e) s (readRecord (own 64) a 64))) ∧
    (Free 256 → StopsFrom (own 256) (.coll d e) s (readRecord (own 256) a 256)) ∧
    -- BMV
    (Reads 64 → let u := own 64
      let j := parseBmv (newOwner s) r
      let tracked : Prop := ∃ b n, (b, n) ∈ bmvReads j ++ bmvRanges j ∧ trackerHit s b n none = true
      (bmvBad r j = true → Completes (.bmv d e) s (FaultsAt u 0x18 0)) ∧
      (bmvBad r j = false → tracked → Completes (.bmv d e) s (Blocked .other u)) ∧
      (bmvBad r j = false → ¬ tracked → Completes (.bmv d e) s fun t => Given t ∧
        OnlyCounting { setDie (setCurCtx u (curCtx t)) die { getDie u die with bmv := (getDie u die).bmv ++ [{ j with deps := clockVector u die x.sdeps }] } with
          ticketCtr := t.ticketCtr } t ∧ (curCtx t).bmvJobs = ticket :: x.bmvJobs ∧
        { restOfCtx (curCtx t) .S with bmvJobs := [] } = { restOfCtx x .S with bmvJobs := [] })) ∧
    -- COLL
    (Reads 256 → let u := own 256
      let cr := parseColl r
      let w := getWalker s die p
      let bad : Prop := collBad s c p r cr = true ∨ ∃ l, w.lastCollid = some l ∧ cr.collid.toNat ≤ l.toNat
      let tracked : Prop := collTracked s cr = true
      (bad → Completes (.coll d e) s (FaultsAt u 0x18 0)) ∧
      (¬ bad → 8 ≤ queued w → Completes (.coll d e) s (Blocked .job u)) ∧
      (¬ bad → queued w < 8 → tracked → Completes (.coll d e) s (Blocked .other u)) ∧
      (¬ bad → queued w < 8 → ¬ tracked → Completes (.coll d e) s fun t => Given t ∧ MemSameButCounters u t ∧ restOfCtx (curCtx t) .S = restOfCtx x .S ∧
        (getWalker t die p).lastCollid = some cr.collid ∧ (getWalker t die p).jobs.length = w.jobs.length + 1 ∧
        (∃ j, (getWalker t die p).jobs.getLast? = some j ∧ j.record = cr ∧ j.owner = newOwner s ∧ j.block = 0 ∧ j.emitted = false ∧ j.after = x.sissued) ∧
        (cr.op = 0 → t.colls = s.colls ∧ (getWalker t die p).jobs.dropLast = w.jobs ∧
          OnlyCounting { setDie (setCurCtx u (curCtx t)) die { getDie u die with walkers := tput (getDie u die).walkers p (getWalker t die p) } with
            ticketCtr := t.ticketCtr } t) ∧
        (cr.op ≠ 0 → liveColl s cr.collid = none → ∃ n, liveColl t cr.collid = some n ∧ n.admitted = false ∧ n.record = cr ∧ n.group = cr.group))) ∧
    -- MCJ
    (Reads 64 → x.joinWait = none → let u := own 64
      let w := (List.range 8).map fun i => BitVec.ofNat 64 (r / 2 ^ (64 * i))
      (joinBad s w = true → Completes (.mcj d e) s (FaultsAt u 0x18 0)) ∧
      (joinBad s w = false → Completes (.mcj d e) s fun t => (curCtx t).joinWait = some (w, d) ∧ curSeq t = { curSeq s with wait := .other } ∧
        OnlyCounting (setCurCtx u (curCtx t)) t ∧ { restOfCtx (curCtx t) .S with joinWait := none } = { restOfCtx x .S with joinWait := none }))) ∧
  -- MCA
  (∀ (d gb gx : Reg) (s : State), s.cur.2 = .L →
    let die := curDie s
    let l := getLamp s die (curPart s)
    let n := (rd s gb).toNat % 2 ^ 8
    ((curCtx s).lacc ≠ [] → Completes (.mca d gb gx) s (Blocked .other s)) ∧
    ((curCtx s).lacc = [] → tfind l.groups n = none → Completes (.mca d gb gx) s fun t => Holds t d (BitVec.ofNat 64 (2 ^ 33)) ∧ SeqOnly s t 2 1 [d]) ∧
    ∀ m, (curCtx s).lacc = [] → tfind l.groups n = some m → Completes (.mca d gb gx) s fun t =>
      -- the stream has ended, or a member hears that its source in another package has (R358)
      let ended := m.ended || hearsEnd s m
      Holds t d (BitVec.ofNat 64 (m.delivered % 2 ^ 32 + (if ended then 2 ^ 32 else 0) + min m.dropped 16383 * 2 ^ 34)) ∧ OnlyContextAndDie s t ∧
      restOfCtx (curCtx t) .L = restOfCtx (curCtx s) .L ∧ SeqDone (curSeq s) (curSeq t) 2 1 [d] ∧
      getLamp t die (curPart s) = { l with groups := tput l.groups n { m with ack := max m.ack (min ((rd s gx).toNat % 2 ^ 32) m.delivered), ended := ended } }) ∧
  -- JOIN_RECORDED
  (∀ (c p : Nat) (w : List Word) (d : Reg) (s : State), (getCtx s c).joinWait = some (w, d) → partOfCore s c = some p → (getSeq s c .S).halted = false →
    let die := dieOfCore c
    let role := (w.getD 0 0).toNat % 2 ^ 2
    let group := (w.getD 0 0).toNat / 2 ^ 8 % 2 ^ 8
    let stream : BitVec 32 := BitVec.ofNat 32 ((w.getD 0 0).toNat / 2 ^ 32)
    let l := getLamp s die p
    let live : Prop := ∃ m, tfind l.groups group = some m ∧ m.ended = false
    let Answers (st : Nat) (P : Lamp → Prop) : Prop := Completes (.joinRecorded (.mcj c)) s fun t => (getCtx t c).joinWait = none ∧ t.cur = s.cur ∧ MemSame s t ∧
      regOf (getSeq t c .S) d = (if d = 0 then 0 else BitVec.ofNat 64 st) ∧ SeqDone (getSeq s c .S) (getSeq t c .S) 2 1 [d] ∧ P (getLamp t die p)
    (role = 2 → Answers 0 fun y => tfind y.groups group = none) ∧
    (role ≠ 2 → live → Answers 2 fun y => y = l) ∧
    let far := farStream s stream
    (role = 0 → ¬ live → localSource s stream ≠ none ∨ far.source = true → Answers 3 fun y => y = l) ∧
    (role = 0 → ¬ live → localSource s stream = none → far.source = false → Answers 0 fun y => ∃ m, tfind y.groups group = some m ∧ m.source = true ∧
      m.streamId = stream ∧ m.nextSeq = 0 ∧ m.begun = false ∧ m.ended = false ∧ m.window = (w.getD 0 0).toNat / 2 ^ 16 % 2 ^ 6 + 1 ∧
      m.members = (w.getD 1 0).toNat / 2 ^ 16 % 2 ^ 13) ∧
    (role = 1 → ¬ live →
      -- the source has issued sequence 0
      let begun : Prop := (∃ m, localSource s stream = some m ∧ m.begun = true) ∨ (localSource s stream = none ∧ far.source = true ∧ far.begun = true)
      (begun → Answers 1 fun y => y = l) ∧
      (¬ begun → Answers 0 fun y => ∃ m, tfind y.groups group = some m ∧ m.source = false ∧ m.streamId = stream ∧ m.delivered = 0 ∧ m.ended = false ∧
        m.dcore = (w.getD 1 0).toNat % 2 ^ 10 ∧ m.dslot = (w.getD 1 0).toNat / 2 ^ 10 % 2 ^ 4))) ∧
  -- what another package tells of a stream (R355, R358)
  (∀ (stream : BitVec 32) (s : State), let f := farStream s stream
    let Hears (news : StreamNews) (g : FarStream) : Prop := Completes (.joinRecorded (.far stream news)) s fun t => t = { s with far := t.far } ∧
      farStream t stream = g ∧ ∀ k : BitVec 32, k ≠ stream → farStream t k = farStream s k
    (∀ w, localSource s stream = none → f.source = false → Hears (.source w) { f with source := true, window := w, begun := false, ended := false }) ∧
    (∀ w, localSource s stream ≠ none ∨ f.source = true → Hears (.source w) f) ∧
    (f.source = true → Hears .gone { f with source := false, ended := true } ∧ Hears .begun { f with begun := true }) ∧
    (∀ m, localSource s stream = some m → m.begun = true → ∀ n, Hears (.join n) f) ∧
    (∀ m n, localSource s stream = some m → m.begun = false → f.members.any (·.id == n) = false → Hears (.join n) { f with members := f.members ++ [{ id := n }] }) ∧
    ∀ n, Hears (.leave n) { f with members := f.members.filter (·.id != n) })

/-! ## The memory engines -/

/-- R231 to R240, R279, R296, R319, R355 to R358, R376, R382: the steps of the Lamplighter: an itinerary starts with the windows of its header; its entries are
read in order and issue when their hop's window, the order of the hop, their ranges and their group's window allow it, group entries numbered in itinerary
order; granules land, or wait for a page, and then the later entries of the hop wait too; an entry is late, read or not, once MPROG of its WATCH core has passed
its due mark, and completes into the capture unit; the itinerary ends with its ticket. The model's choice: the next entry is read when no entry that was read
may issue, one at a time (log entry 50), and entries not read yet are looked at in the store as it stands (log entry 51). -/
def Obligations.LamplighterEvents : Prop := ∀ (d p : Nat) (s : State),
  let l := getLamp s d p
  let OnlyLamp (t : State) : Prop := t = setLamp s d p (getLamp t d p)
  -- the context, and what reading or writing leaves behind
  let LampAndCounts (t : State) : Prop := OnlyCounting (setLamp s d p (getLamp t d p)) t
  let Stops (cause : BitVec 8) (t : State) : Prop := MemSameButCounters s t ∧
    (∃ it i, (getLamp t d p).running = some it ∧ it.stopped = some i ∧ i.cause = cause ∧ (getLamp t d p).stopInfo = some (it.owner, i) ∧
      ((getPart s it.owner.part).reset = .idle → (getPart t it.owner.part).halt.raised = true))
  -- a context but for its itinerary, what is late of it, and the times in which pacing was on (R238)
  let hide (y : Lamp) : Lamp := { y with running := none, late := [], lateNow := [], paceFrom := none, paceSpans := [] }
  -- LLCLR: the block of a die that holds clusters of the live partition
  (∀ h, Completes (.llclrHop d p h) s fun t => OnlyLamp t ∧
    getLamp t d p = if blockHeld s d p = true then { l with late := tput l.late h 0, cap := tput l.cap h {} } else l) ∧
  Completes (.llclrPace d p) s (fun t => OnlyLamp t ∧ getLamp t d p = if blockHeld s d p = true then { l with paceCyc := 0 } else l) ∧
  -- the start
  (∀ o a rest, l.waiting = (o, a) :: rest → l.running = none → lampRuns s d p = true →
    (∀ u, engineRead s d p a 64 { rd := true } = .wait u → Completes (.itineraryStart d p) s fun t => t = u) ∧
    (∀ u k g, engineRead s d p a 64 { rd := true } = .stop u k g → Completes (.itineraryStart d p) s (Stops k)) ∧
    ∀ v, engineRead s d p a 64 { rd := true } = .ok v →
    let w (n : Nat) : Nat := v / 2 ^ (64 * n) % 2 ^ 64
    let bad := headerBad ((List.range 8).map (recWord v))
    (bad = true → Completes (.itineraryStart d p) s (Stops 0x19)) ∧
    let it : Itinerary :=
      { owner := o, addr := a, win := [w 0 / 2 ^ 8 % 2 ^ 6 + 1, w 0 / 2 ^ 16 % 2 ^ 6 + 1, w 0 / 2 ^ 24 % 2 ^ 6 + 1], thresh := w 1 % 2 ^ 16,
        pace := w 1 / 2 ^ 16 % 2 ^ 8, entries := [], ended := false, lost := false, stopped := none }
    (bad = false → Completes (.itineraryStart d p) s fun t => LampAndCounts t ∧ hide (getLamp t d p) = hide { l with waiting := rest } ∧
      -- entries that are past due already are late from the start
      ∃ it', (getLamp t d p).running = some it' ∧ { it' with lateAhead := [] } = it ∧
        (∀ k e, (unread t d p it)[k]? = some e → ((k, e.hop, s.cycle) ∈ it'.lateAhead ↔ e.due < (getCore s e.watch).mprog.toNat)) ∧
        ∀ h, tget 0 (getLamp t d p).late h = tget 0 l.late h + BitVec.ofNat 32 (it'.lateAhead.countP (·.2.1 == h)) ∧
          tget 0 (getLamp t d p).lateNow h = tget 0 l.lateNow h + it'.lateAhead.countP (·.2.1 == h))) ∧
  ∀ it, l.running = some it →
    let Becomes (it' : Itinerary) (t : State) : Prop := LampAndCounts t ∧ getLamp t d p = { l with running := some it' }
    -- issue
    (it.stopped = none → lampRuns s d p = true →
      let may (i : Nat) : Prop := ∃ e, it.entries[i]? = some e ∧ e.issued = false ∧ (∀ o ∈ it.entries.take i, o.hop = e.hop →
          o.issued = true ∧ ¬ (o.stalled = true ∧ o.complete = false ∧ o.failed = false)) ∧
        it.entries.countP (fun o => o.hop == e.hop && o.issued && !o.complete) < it.win.getD e.hop 1 ∧
        (∀ o ∈ it.entries.take i, o.complete = false → destsMeet (entryDest o) (entryDest e) = false ∧ destMeets (entryDest o) e.src e.size = false ∧
          destMeets (entryDest e) o.src o.size = false) ∧ entryTracked s it i = false ∧
        (e.group = 0 ∨ ∀ m, sourceGroup l e = some m → windowOpen s m (sequFor it m e.group i) = true)
      (∀ i e, it.entries[i]? = some e → may i → (∀ k, k < i → ¬ may k) →
        (e.hop = 2 → slotFor s e.dcore it.owner.serial e.slot = none → Completes (.itineraryEntryIssue d p) s (Stops 0x19)) ∧
        (e.hop ≠ 2 ∨ slotFor s e.dcore it.owner.serial e.slot ≠ none →
          (e.group = 0 → Completes (.itineraryEntryIssue d p) s
            (Becomes { it with entries := it.entries.set i { e with issued := true, issueCycle := s.cycle } })) ∧
          (e.group ≠ 0 → sourceGroup l e = none → Completes (.itineraryEntryIssue d p) s (Stops 0x19)) ∧
          ∀ m, e.group ≠ 0 → sourceGroup l e = some m →
            -- group entries are numbered in itinerary order, those before this one that have no number yet first (R356)
            let fresh (o : ItinEntry) : Bool := o.group == e.group && o.sequ.isNone
            let number (k : Nat) (o : ItinEntry) : Option Nat :=
              if k ≤ i ∧ fresh o = true then some (m.nextSeq + (it.entries.take k).countP fresh) else o.sequ
            Completes (.itineraryEntryIssue d p) s fun t => MemSame s t ∧ (∃ n, number i e = some n ∧ t.fabricOut = s.fabricOut ++ [.multicast m.streamId 0 n]) ∧
              tfind (getLamp t d p).groups e.group = some { m with nextSeq := m.nextSeq + (it.entries.take (i + 1)).countP fresh, begun := m.begun || number i e == some 0 } ∧
              ∃ it', (getLamp t d p).running = some it' ∧ it'.entries.length = it.entries.length ∧ { it' with entries := [] } = { it with entries := [] } ∧
                ∀ k o, it.entries[k]? = some o → it'.entries[k]? = some
                  (if k = i then { o with sequ := number k o, issued := true, issueCycle := s.cycle } else { o with sequ := number k o }))) ∧
      ((∀ i, ¬ may i) → it.ended = true → Completes (.itineraryEntryIssue d p) s fun t => t = { s with freeCtr := t.freeCtr }) ∧
      (let next := it.addr + 64 * (it.entries.length + 1)
       (∀ i, ¬ may i) → it.ended = false →
        (trackerHolds s it.owner next 64 = true → Completes (.itineraryEntryIssue d p) s fun t => t = s) ∧
        (trackerHolds s it.owner next 64 = false →
        (∀ u, engineRead s d p next 64 { rd := true } = .wait u → Completes (.itineraryEntryIssue d p) s fun t => t = u) ∧
        (∀ u k g, engineRead s d p next 64 { rd := true } = .stop u k g → Completes (.itineraryEntryIssue d p) s (Stops k)) ∧
        ∀ v, engineRead s d p next 64 { rd := true } = .ok v →
        let w := (List.range 8).map (recWord v)
        let kind := v % 2 ^ 2
        (v = 2 → Completes (.itineraryEntryIssue d p) s (Becomes { it with ended := true })) ∧
        (kind = 0 → moveBad s d p w = false →
          let e := parseMove w
          -- it became late before, unread, or does now
          let was := (it.lateAhead.find? (·.1 == it.entries.length)).map (·.2.2)
          let late := was.isNone && decide (e.due < (getCore s e.watch).mprog.toNat)
          Completes (.itineraryEntryIssue d p) s fun t => LampAndCounts t ∧ hide (getLamp t d p) = hide l ∧
            (getLamp t d p).running = some { it with entries := it.entries ++ [{ e with lateAt := if late then some s.cycle else was }],
                                                     lateAhead := it.lateAhead.filter (·.1 != it.entries.length) } ∧
            (∀ h, tget 0 (getLamp t d p).late h = tget 0 l.late h + if late = true ∧ h = e.hop then 1 else 0) ∧
            ∀ h, tget 0 (getLamp t d p).lateNow h = tget 0 l.lateNow h + if late = true ∧ h = e.hop then 1 else 0) ∧
        (kind = 1 ∨ kind = 3 ∨ (kind = 2 ∧ v ≠ 2) ∨ (kind = 0 ∧ moveBad s d p w = true) → Completes (.itineraryEntryIssue d p) s (Stops 0x19))))) ∧
    -- the end
    (let Ticket (r : BitVec 2) (t : State) : Prop := (getLamp t d p).running = none ∧ (getLamp t d p).lastStopped = decide (r = 1) ∧ MemSame s t ∧
       (∀ h, tget 0 (getLamp t d p).lateNow h = tget 0 l.lateNow h - it.entries.countP (fun e => e.hop == h && !e.complete && e.lateAt.isSome) - it.lateAhead.countP (·.2.1 == h)) ∧
       ∀ st, tfind (getCtx s it.owner.core).tickets it.owner.ticket = some st →
         ∃ stamps, tfind (getCtx t it.owner.core).tickets it.owner.ticket = some (.done r it.lost stamps) ∧
           ∀ e ∈ it.entries, ∀ h, h < 4 → e.stamps.getD h 0 ≤ stamps.getD h 0
     (it.stopped = none → it.ended = true → (∀ e ∈ it.entries, e.complete = true) → Completes (.itineraryEnd d p) s (Ticket 0)) ∧
     (it.stopped ≠ none → (∀ e ∈ it.entries, e.issued = true → e.complete = true ∨ e.failed = true) → Completes (.itineraryEnd d p) s (Ticket 1)) ∧
     (it.stopped = none → (it.ended = false ∨ ∃ e ∈ it.entries, e.complete = false) → Completes (.itineraryEnd d p) s fun t => t = s)) ∧
    ∀ n e, it.entries[n]? = some e →
      let entry (t : State) : Option ItinEntry := (getLamp t d p).running.bind fun it => it.entries[n]?
      -- a granule
      (∀ g dst, e.issued = true → e.complete = false → e.failed = false → g ∉ e.landed → 16 * g < e.size → behindStall it n e.hop = false → partLive s p = true →
        (getDie s d).fenced = false → entryTarget s d p it.owner.serial e (16 * g) 16 = .ok dst → wordWaits s dst = false →
        (∀ u, moveBytes s d p it n e (16 * g) 16 = .wait u → moveStalls s d p e (16 * g) 16 = true → entry u = some e →
          Completes (.itineraryGranuleLand d p n g) s fun t => entry t = some { e with stalled := true } ∧ t.mem = u.mem ∧ t.clusters = u.clusters) ∧
        (∀ u k m, moveBytes s d p it n e (16 * g) 16 = .stop u k m → Completes (.itineraryGranuleLand d p n g) s (Stops k)) ∧
        ∀ src gs u st, engineResolve s d p (e.src + 16 * g) 16 { rd := true } (hopTlb d e) = .ok src → engineSource s d src e.mire = .ok gs →
          demandReady s (moveDemand s d p e (16 * g) 16 src dst) = true → writeWaits s dst = false → (aliasFree s d p it n src dst).all (! ·) = true → firstBeyond dst = none →
          -- the translations stay in the hop's stream TLB (R382)
          let v := cacheAccess s d p (e.src + 16 * g) 16 (hopTlb d e)
          let v := if e.hop = 2 then v else cacheAccess v d p (e.dst + 16 * g) 16 (hopTlb d e)
          writeAccess v dst (granuleBytes gs).1 (granuleBytes gs).2 .none true (clockVector v d []) = .ok (u, st) → (getLamp u d p).running = some it →
          -- the watchdog of its context sees it move (R404)
          Completes (.itineraryGranuleLand d p n g) s fun t => OnlyCounting (progress (setLamp u d p (getLamp t d p)) it.owner) t ∧
            entry t = some { e with landed := g :: e.landed, stalled := false, stamps := mergeStamps e.stamps st }) ∧
      -- lateness
      (let late : Prop := e.complete = false ∧ e.lateAt = none ∧ e.due < (getCore s e.watch).mprog.toNat
       (late → Completes (.entryLate d p n) s fun t => OnlyLamp t ∧ entry t = some { e with lateAt := some s.cycle } ∧
         tget 0 (getLamp t d p).late e.hop = tget 0 l.late e.hop + 1 ∧ tget 0 (getLamp t d p).lateNow e.hop = tget 0 l.lateNow e.hop + 1) ∧
       (¬ late → Completes (.entryLate d p n) s fun t => t = s)) ∧
      -- completion
      (e.issued = true → e.complete = false → e.failed = false → 16 * e.landed.length = e.size → membersServed s l e = true →
        let lat := min (s.cycle - e.issueCycle) 0xFFFFFFFF
        let old : Capture := tget {} l.cap e.hop
        let lateAt := if e.lateAt = none ∧ e.due < (getCore s e.watch).mprog.toNat then some s.cycle else e.lateAt
        Completes (.itineraryEntryComplete d p n) s fun t => t = setDie s d (getDie t d) ∧ entry t = some { e with complete := true, lateAt := lateAt } ∧
          let new : Capture := tget {} (getLamp t d p).cap e.hop
          new.min.toNat = min old.min.toNat lat ∧ new.max.toNat = max old.max.toNat lat ∧ new.cnt.toNat = min 0xFFFFFFFF (old.cnt.toNat + 1) ∧
          (∀ b, tget 0 new.hist b = if b = latencyBin (s.cycle - e.issueCycle) then satInc (tget 0 old.hist b) else tget 0 old.hist b) ∧
          match lateAt with
          | none => new.lmax = old.lmax ∧ tget 0 (getLamp t d p).lateNow e.hop = tget 0 l.lateNow e.hop
          | some n => new.lmax.toNat = max old.lmax.toNat (min (s.cycle - n) 0xFFFFFFFF) ∧
            tget 0 (getLamp t d p).lateNow e.hop = if e.lateAt = none then tget 0 l.lateNow e.hop else tget 0 l.lateNow e.hop - 1)

/-- R21, R280 to R282, R287 to R289, R296, R301, R318, R357: the copy engines start the first waiting card that no earlier card holds back and perform it chunk by
chunk; bytes that a card writes outside its regions while another agent touches them end undefined, and no others do; a bank-compute job does its rows in order,
and BFEN knows its writes once its die shows them; a member of a shared stream takes each block of it once, in whatever order they come, or drops it where
translation or permission fails or the slot is empty. The model's choice: chunks of at most 256 bytes in row order, and one row of a job for all vectors (log
entry 20); that a card races from its start to its end (log entry 107); and where a machine fault of a delivery is raised (log entry 106). -/
def Obligations.CopyAndBankCompute : Prop :=
  (∀ (d p i : Nat) (c : Card) (s : State),
    let l := tget [] (getDie s d).cards p
    l[i]? = some c → (∀ k b, k < i → l[k]? = some b → cardReady s d p b = false) → partRuns s p = true → (getDie s d).fenced = false →
    let n := clusterOfCore c.owner.core
    let ready : Prop := (getCluster s n).card = none ∧ (getCluster s n).halted = false ∧
      ∀ o ∈ cardsOf s d p, ticketBefore o.owner.ticket c.owner.ticket = true → ∀ w a m v b k, (w, a, m) ∈ o.regions → (v, b, k) ∈ c.regions →
        w = true ∨ v = true → regionsMeet a m b k = false
    (ready → Completes (.copyCardStart d p) s fun t => tget [] (getDie t d).cards p = l.take i ++ l.drop (i + 1) ∧
      (∃ c', (getCluster t n).card = some c' ∧ { c' with strays := c.strays } = { c with started := true } ∧
        -- every row of its destination lies within its write regions, or it strays
        (c'.strays = false ↔ ∀ k, k < c.rows → inRegions c c.dst (k * c.dstride) c.rowlen true = true)) ∧ MemSame s t ∧ ∀ m, m ≠ n → getCluster t m = getCluster s m)) ∧
  (∀ (n : Nat) (c : Card) (s u : State) (lost : Bool) (stamps : List (Nat × Nat)), (getCluster s n).card = some c → (getCluster s n).halted = false →
    (getCluster s n).stopInfo = none → partLive s c.owner.part = true → (getDie s (dieOfCluster n)).fenced = false →
    let size := if c.swait ≠ 0 then 16 else min 256 (c.rowlen - c.off)
    let last : Prop := (if c.rowlen ≤ c.off + size then c.row + 1 else c.row) = c.rows
    let seen := mergeStamps c.stamps stamps
    let target := chunkTarget s (dieOfCluster n) c
    (c.fill = true → ∀ dm, demandReady s dm = true → ∃ gs, chunkSource s (dieOfCluster n) c size dm = .ok (s, gs) ∧
      ∀ i, i < size → ((granuleBytes gs).1 i).toNat = c.pattern.toNat / 2 ^ (8 * ((c.off + i) % 8)) % 2 ^ 8 ∧ (granuleBytes gs).2 i = false) ∧
    (cardChunk s (dieOfCluster n) c = .ok (u, lost, stamps) →
      (¬ last → Completes (.copyCardComplete n) s fun t => t.mem = u.mem ∧ (∀ m, m ≠ n → getCluster t m = getCluster u m) ∧ ∃ c', (getCluster t n).card = some c' ∧
        c'.lost = (c.lost || lost) ∧ (if c.rowlen ≤ c.off + size then c'.row = c.row + 1 ∧ c'.off = 0 else c'.row = c.row ∧ c'.off = c.off + size) ∧
        c'.stamps = seen ∧ c'.outside = c.outside ++ strayBytes c target ∧
        { c' with row := c.row, off := c.off, lost := c.lost, stamps := c.stamps, outside := c.outside } = c) ∧
      (last → Completes (.copyCardComplete n) s fun t => (c.strays = false → t.mem = u.mem) ∧
        (∀ m, (∀ q ∈ c.outside ++ strayBytes c target, c.touched.any (sameGranule q) = true → ∀ pa layout mire key part, q.loc = .dram pa layout mire key part →
          m < placed pa layout + q.first ∨ placed pa layout + q.first + q.count ≤ m) → memGet t.mem m = memGet u.mem m) ∧ (getCluster t n).card = none ∧
        ∀ st, tfind (getCtx u c.owner.core).tickets c.owner.ticket = some st →
          tfind (getCtx t c.owner.core).tickets c.owner.ticket = some (.done 0 (c.lost || lost) seen))) ∧
    (∀ v, cardChunk s (dieOfCluster n) c = .wait v → Completes (.copyCardComplete n) s fun t => t = v) ∧
    (∀ v k g, cardChunk s (dieOfCluster n) c = .stop v k g → Completes (.copyCardComplete n) s fun t => (c.strays = false → MemSameButCounters s t) ∧
      (∃ i, (getCluster t n).stopInfo = some i ∧ i.cause = k ∧ i.fpc = c.owner.fpc) ∧
      ∀ st, tfind (getCtx s c.owner.core).tickets c.owner.ticket = some st →
        tfind (getCtx t c.owner.core).tickets c.owner.ticket = some (.done 1 c.lost c.stamps))) ∧
  (∀ (c i : Nat) (j k : BmvJob) (s u : State),
    let d := dieOfCore c
    let l := (getDie s d).bmv
    -- a row is left, or the die shows all it wrote
    let due (b : BmvJob) : Prop := b.owner.core = c ∧ b.stopped = none ∧ (b.row < b.m ∨ stampsVisible s d .core b.stamps = true)
    ((∀ b ∈ l, ¬ due b) → Completes (.bmvJobComplete c) s fun t => t = s) ∧
    (l[i]? = some j → due j → (∀ k b, k < i → l[k]? = some b → ¬ due b) →
      j.owner.part ∉ (getDie s d).bmvHalted → partLive s j.owner.part = true → (getDie s d).fenced = false →
      (j.row < j.m → (bmvRow s d j = .ok (u, k) → k.row = j.row + 1 ∧ k.owner = j.owner ∧ (∀ w, w ∈ j.lost → w ∈ k.lost) ∧
          Completes (.bmvJobComplete c) s fun t => t.mem = u.mem ∧ ((getDie u d).bmv = l → (getDie t d).bmv = l.set i k)) ∧
        (∀ v, bmvRow s d j = .wait v → Completes (.bmvJobComplete c) s fun t => t = v) ∧
        (∀ v x g, bmvRow s d j = .stop v x g → (getDie v d).bmv = l → Completes (.bmvJobComplete c) s fun t => t.mem = v.mem ∧
          ∃ o f, (getDie t d).bmv[i]? = some o ∧ o.stopped = some f ∧ f.cause = x ∧ f.fpc = j.owner.fpc)) ∧
      (j.m ≤ j.row → Completes (.bmvJobComplete c) s fun t => MemSame s t ∧ (getDie t d).bmv = l.take i ++ l.drop (i + 1) ∧
        let x := getCtx s c
        let y := getCtx t c
        if j.owner.ticket ∈ x.bmvJobs then y = { x with bmvStamps := maxVec x.bmvStamps j.stamps, bmvFar := x.bmvFar || j.far } else y = x)) ∧
    (∀ terms : List (ANum × ANum), (∃ w ∈ terms, w.1.nv = true ∨ w.2.nv = true) → bmvElement terms = 0x7FC00000)) ∧
  (∀ (d p n : Nat) (m : McBlock) (g : McGroup) (s : State), tfind (getLamp s d p).groups n = some g → g.source = false → g.ended = false → seqDone g m.sequ = false →
    partLive s p = true → (getDie s d).fenced = false → debugHeld s p = false →
    (deliveryOf s g.streamId m = none → Completes (.multicastDelivery d p n m) s fun t => t = s) ∧
    ∀ v, deliveryOf s g.streamId m = some v →
    let Counts (dropped : Nat) (t : State) : Prop := ∃ h, tfind (getLamp t d p).groups n = some h ∧ h.delivered = g.delivered + 1 ∧
      h.dropped = g.dropped + dropped ∧ (g.ahead.length ≤ g.delivered → seqDone h m.sequ = true) ∧ { h with delivered := 0, dropped := 0, ahead := [] } =
        { g with delivered := 0, dropped := 0, ahead := [] }
    let size := 16 * v.granules.length
    let who : Option Translator := some (.receive d)
    (v.hop = 2 → tfind (getCtx s g.dcore).slots g.dslot = none → Completes (.multicastDelivery d p n m) s fun t => Counts 1 t ∧ MemSame s t ∧ t.clusters = s.clusters) ∧
    -- a machine fault drops nothing (R21): the block stays to be delivered
    let Faults (t : State) : Prop := (getLamp t d p).groups = (getLamp s d p).groups ∧ MemSameButCounters s t ∧
      ((getPart s p).reset = .idle → (getPart t p).halt.raised = true)
    (v.hop ≠ 2 → (∀ u, engineResolve s d p v.dst size { wr := true } who = .wait u → Completes (.multicastDelivery d p n m) s fun t => t = u) ∧
      ∀ u k a, engineResolve s d p v.dst size { wr := true } who = .stop u k a →
        (k ∈ [0x12, 0x13, 0x14] → Completes (.multicastDelivery d p n m) s fun t => Counts 1 t ∧ MemSameButCounters s t) ∧
        (k ∉ [0x12, 0x13, 0x14] → Completes (.multicastDelivery d p n m) s Faults)) ∧
    ∀ ps u st, (v.hop = 2 → ∃ h, tfind (getCtx s g.dcore).slots g.dslot = some h ∧
        ps = resolveBuffer (clusterOfCore g.dcore) h (128 * v.dst) size) →
      (v.hop ≠ 2 → engineResolve s d p v.dst size { wr := true } who = .ok ps) → firstBeyond ps = none →
      let s' := if v.hop = 2 then s else cacheAccess s d p v.dst size who
      let ready : Prop := tokensReady s' ps = true ∧ writeWaits s' ps = false
      (¬ ready → Completes (.multicastDelivery d p n m) s fun t => t = awaitTokens s' ps) ∧
      (ready → ∀ k a, writeAccess s' ps (granuleBytes v.granules).1 (granuleBytes v.granules).2 .none true (clockVector s' d []) = .error (k, a) →
        Completes (.multicastDelivery d p n m) s Faults) ∧
      (ready → writeAccess s' ps (granuleBytes v.granules).1 (granuleBytes v.granules).2 .none true (clockVector s' d []) = .ok (u, st) →
        Completes (.multicastDelivery d p n m) s fun t => t.mem = u.mem ∧ t.clusters = u.clusters ∧ (getLamp u d p = getLamp s d p → Counts 0 t)))

/-! ## The fabric -/

/-- R338, R341, R343 to R353, R376, R393: the steps of a collective: admission reserves a context of every switch of the group's tree at once; the head job of a
walker queue emits its next block when it is the queue's turn among those that are ready; a switch combines contributions and closes a block when every child's
has arrived or its limit has passed, and counts what comes later; a result block lands in the destination of the job that waits for it, and with the last flit of
a broadcast its contexts are released; the job is over when every block that it awaits has landed, or the reset of another member's partition ends it with
RESULT 2 (when word of that comes, and of a PUT's landing in another package, is a free choice). The model's choice: an absent contribution counts as arrived
(log entry 54), ORDER is within one walker queue (log entry 57), and a broadcast's last flit is the last towards this package (log entry 104). -/
def Obligations.CollectiveEvents : Prop :=
  (∀ (n sw child blk member : Nat) (id : BitVec 32) (b : WireBlock) (c : LiveColl) (g : Group) (s : State),
    liveColl s id = some c → c.collid = id → c.finished = false → tfind s.groups c.group = some g →
    let tree := g.top :: g.leaves.map (·.1)
    let switch (t : State) (i : Nat) : Switch := tget {} t.switches i
    let children := childrenOf g sw
    -- admission
    (let may : Prop := (∀ i ∈ tree, (switch s i).live.length < 1024) ∧
       ∀ o ∈ s.colls, o.finished = false → o.admitted = false → o.collid.toNat < id.toNat → ∀ h, tfind s.groups o.group = some h →
         ∀ i ∈ h.top :: h.leaves.map (·.1), i ∉ tree
     (c.group = n → c.admitted = false → ¬ may → Completes (.collectiveAdmission n id) s fun t => t = s) ∧
     (c.group = n → c.admitted = false → may → (∀ m ∈ g.members, m = s.pkg) → Completes (.collectiveAdmission n id) s fun t =>
       liveColl t id = some { c with admitted := true } ∧ (∀ i ∈ tree, id ∈ (switch t i).live) ∧ (∀ i, i ∉ tree → switch t i = switch s i) ∧ MemSame s t) ∧
     (c.group = n → c.admitted = false → may → Completes (.collectiveAdmission n id) s fun t =>
       liveColl t id = some { c with admitted := true } ∨ liveColl t id = none)) ∧
    -- a contribution
    (let old := switchBlock (switch s sw) id b.blk
     c.admitted = true → c.record.op = 2 → child ∈ children → b.blk < totalBlocks c.record → b.collid = id →
     (s.colls.find? fun o => o.collid == id) = some c →
     let own : Prop := (sw = g.top ∧ g.leaves ≠ []) ∨ child = s.pkg
     (own → .contribution sw child b ∉ s.fabricOut → Completes (.switchContribution sw child b) s fun t => t = s) ∧
     ∀ u w, (own → FabricOut.contribution sw child b ∈ s.fabricOut ∧ u = { s with fabricOut := s.fabricOut.erase (.contribution sw child b) } ∧ w = b) →
       (¬ own → u = s ∧ w = { b with count := if b.valid then 1 else 0, payload := leafInts b.payload }) →
       let expired : Prop := ∃ k, blockLimit s c g sw old = some k ∧ k < s.cycle
       (old.closed = true ∨ expired → Completes (.switchContribution sw child b) s fun t =>
         tget 0 (switch t sw).late c.group = tget 0 (switch s sw).late c.group + 1 ∧ MemSame s t ∧ switchBlock (switch t sw) id b.blk = { old with closed := true }) ∧
       (old.closed = false → ¬ expired → child ∈ old.arrived → Completes (.switchContribution sw child b) s fun t => t = u) ∧
       (old.closed = false → ¬ expired → child ∉ old.arrived → Completes (.switchContribution sw child b) s fun t =>
         let new := switchBlock (switch t sw) id b.blk
         let op (x y : Int) : Int := if c.record.rop = 0 then x + y else if c.record.rop = 1 then max x y else min x y
         let full : Prop := ∀ m ∈ children, m = child ∨ m ∈ old.arrived
         let acc := if w.valid = false then old.acc else if old.acc = [] then w.payload else (old.acc.zip w.payload).map fun (x, y) => op x y
         let payload := if acc = [] then List.replicate 64 0 else acc
         new.arrived = child :: old.arrived ∧ new.count = old.count + (if w.valid then w.count else 0) ∧ new.acc = acc ∧ (new.closed = true ↔ full) ∧
         new.timer = (if c.record.mire = true ∧ old.timer = none then some s.cycle else old.timer) ∧
         (¬ full → t.fabricOut = u.fabricOut) ∧
         (full → sw = g.top → t.fabricOut = u.fabricOut ++ [.result { collid := id, blk := b.blk, count := new.count, valid := true, payload := payload }]) ∧
         (full → sw ≠ g.top → t.fabricOut = u.fabricOut ++
           [.contribution g.top sw { collid := id, blk := b.blk, count := new.count, valid := new.count != 0, payload := payload }]))) ∧
    -- timers and end markers
    (let k := switchBlock (switch s sw) id blk
     c.admitted = true → c.record.op = 2 → c.record.mire = true → sw ∈ tree → blk < totalBlocks c.record → k.closed = false →
     (timerOf s c g sw k = none → Completes (.switchBlockTimeout sw id blk) s fun t => t = s) ∧
     ∀ t0, timerOf s c g sw k = some t0 → Completes (.switchBlockTimeout sw id blk) s fun t =>
       t.cycle = max s.cycle (t0 + (if sw = g.top ∧ g.leaves ≠ [] then 2 else 1) * c.record.timeout * 1024) ∧
       switchBlock (switch t sw) id blk = { k with closed := true } ∧
       (sw = g.top → t.fabricOut = s.fabricOut ++ [.result { collid := id, blk := k.blk, count := k.count, valid := true,
                                                             payload := if k.acc = [] then List.replicate 64 0 else k.acc }])) ∧
    (c.admitted = true → member ∈ g.members → member ∉ c.ends → (member = s.pkg → emissionOver s id = true) → Completes (.endMarker id member) s fun t =>
      let all : Prop := (∀ m ∈ g.members, m = member ∨ m ∈ c.ends) ∧ c.record.mire = true
      ∃ e, liveColl t id = some e ∧ e.ends = member :: c.ends ∧ (all → allTimersOf s c = none → e.allTimers = some s.cycle) ∧
        (¬ all ∨ allTimersOf s c ≠ none → e.allTimers = allTimersOf s c)) ∧
    -- every timer starts with the last marker, or 2 × TIMEOUT × 1,024 cycles after the first contribution where that is earlier
    (∀ a, c.allTimers = some a → allTimersOf s c = some a) ∧ (c.allTimers = none → c.firstContribution = none → allTimersOf s c = none) ∧
    (∀ f, c.allTimers = none → c.firstContribution = some f →
      allTimersOf s c = if f + 2 * c.record.timeout * 1024 ≤ s.cycle then some (f + 2 * c.record.timeout * 1024) else none) ∧
    (∀ f, c.record.mire = true → c.record.op = 2 → c.allTimers = none → c.firstContribution = some f → Completes (.topSwitchTimerStart id) s fun t =>
      t.cycle = max s.cycle (f + 2 * c.record.timeout * 1024) ∧ liveColl t id = some { c with allTimers := some (f + 2 * c.record.timeout * 1024) } ∧ MemSame s t)) ∧
  -- emission
  (∀ (d p i : Nat) (j : CollJob) (g : Group) (s : State),
    let w := getWalker s d p
    let c := j.record
    w.jobs[i]? = some j → j.emitted = false → j.failed = none → (∀ k o, k < i → w.jobs[k]? = some o → o.emitted = true ∨ o.failed ≠ none) →
    tfind s.groups c.group = some g →
    let may : Prop := w.halted = false ∧ partLive s p = true ∧ (getDie s d).fenced = false ∧ (c.op ≠ 0 → j.admitted = true) ∧ (c.order = true → i = 0) ∧
      earlierSeen s j = true
    let Jobs (t : State) (f : CollJob → CollJob) : Prop := (getWalker t d p).jobs = w.jobs.map fun k => if k.owner.ticket = j.owner.ticket then f k else k
    -- the job's next block has left, to another package or not, or was dropped
    let Sends (far dropped : Bool) (P : State → Prop) : Prop := Completes (.blockEmit d p) s fun t => P t ∧ (getDie t d).lastEmit = p ∧ Jobs t fun k =>
      { k with block := k.block + 1, emitted := decide (totalBlocks c ≤ k.block + 1), lost := if dropped then k.lost + 1 else k.lost,
               landed := if c.op = 0 ∧ far = false then k.block :: k.landed else k.landed }
    let Fails (cause : BitVec 8) (t : State) : Prop := MemSameButCounters s t ∧
      ∃ k ∈ (getWalker t d p).jobs, k.owner = j.owner ∧ k.failed = some 3 ∧ ∃ f, k.stopped = some f ∧ f.cause = cause ∧ f.fpc = j.owner.fpc
    (¬ may → Completes (.blockEmit d p) s fun t => t = s) ∧
    (may → c.op = 1 → c.root ≠ s.pkg →
      (otherFirst s d p = true → Completes (.blockEmit d p) s fun t => t = s) ∧
      (otherFirst s d p = false → Completes (.blockEmit d p) s fun t => Jobs t (fun k => { k with emitted := true }) ∧ t.fabricOut = s.fabricOut ∧ MemSame s t)) ∧
    (may → ¬ (c.op = 1 ∧ c.root ≠ s.pkg) →
      -- a block that waits is not ready, and holds no other queue back
      (∀ u, emitBlock s d j g = .wait u → Completes (.blockEmit d p) s fun t => t = u) ∧
      (otherFirst s d p = true → (∀ u, emitBlock s d j g ≠ .wait u) → Completes (.blockEmit d p) s fun t => t = s) ∧
      (otherFirst s d p = false →
        (∀ u k a, emitBlock s d j g = .stop u k a → Completes (.blockEmit d p) s (Fails k)) ∧
        -- a contribution, and a block of a broadcast
        (∀ u b, c.op = 1 ∨ c.op = 2 → readBlock s d j j.block [] = .ok (u, b) →
          (s.mgmt.ports ≠ [] → Sends false false fun t => MemSameButCounters s t ∧ t.fabricOut = s.fabricOut ++
            [if c.op = 2 then .contribution (firstSwitch s g) s.pkg { b with payload := leafInts b.payload } else .data b]) ∧
          (s.mgmt.ports = [] → c.mire = true → Sends false (decide (c.op ≠ 2)) fun t => MemSameButCounters s t ∧ t.fabricOut = s.fabricOut) ∧
          (s.mgmt.ports = [] → c.mire = false → Completes (.blockEmit d p) s (Fails 0x25))) ∧
        -- a block of a PUT
        (c.op = 0 → let peer := peerOf s c j.block
          let a := zextI ((c.dst.toNat % 2 ^ 56 : Nat) + dstDisp c j.block) 64
          (∀ u b, (peer ∉ g.members ∨ (endpointSram c.dst).isSome = true) → readBlock s d j j.block [] = .ok (u, b) →
            Sends false true fun t => MemSameButCounters s t ∧ t.fabricOut = s.fabricOut) ∧
          (peer ∈ g.members → endpointSram c.dst = none →
            (∀ h ps dm u b, peer = s.pkg → putTarget s d g.part a = .ok (h, ps, dm) → readBlock s d j j.block dm = .ok (u, b) →
              -- destination bytes among the job's own source bytes end undefined (R344)
              let v := putBlock u h g.part a ps b false fun k => g.part == j.owner.part && ownSource c c.dst (dstDisp c j.block + 16 * k)
              Sends false v.2 fun t => t.mem = v.1.mem ∧ t.clusters = v.1.clusters) ∧
            (∀ v k m u b, peer = s.pkg → putTarget s d g.part a = .stop v k m → readBlock v d j j.block [] = .ok (u, b) →
              Sends false true fun t => MemSameButCounters s t) ∧
            (∀ u b, peer ≠ s.pkg → routed s peer = true → readBlock s d j j.block [] = .ok (u, b) →
              ∃ dropped, (b.valid = false → dropped = true) ∧
                Sends (!dropped) dropped fun t => MemSameButCounters s t ∧ t.fabricOut = s.fabricOut ++ [.put c.group peer a b]) ∧
            (∀ u b, peer ≠ s.pkg → routed s peer = false → readBlock s d j j.block [] = .ok (u, b) →
              (c.mire = true → Sends false true fun t => MemSameButCounters s t ∧ t.fabricOut = s.fabricOut) ∧
              (c.mire = false → Completes (.blockEmit d p) s (Fails 0x25)))))))) ∧
  -- completion
  (∀ (d p : Nat) (s : State),
    let w := getWalker s d p
    (∀ k l m, w.jobs = l ++ k :: m → (∀ o ∈ l, collOver o = false) → (∃ r, k.failed = some r) ∨ (k.emitted = true ∧ totalBlocks k.record ≤ k.landed.length) →
      (partLive s p = false ∨ allInstalled s = false → Completes (.collectiveComplete d p) s fun t => t = s) ∧
      (partLive s p = true → allInstalled s = true →
        let Closes (u : State) : Prop := Completes (.collectiveComplete d p) s fun t => t.mem = u.mem ∧
          (getWalker t d p).jobs = (getWalker u d p).jobs.filter (fun o => o.owner.ticket != k.owner.ticket) ∧
          (k.record.cen = true → tget 0 (getPart t p).cnt k.record.cidx = tget 0 (getPart u p).cnt k.record.cidx + 1) ∧
          (k.record.cen = false → (getPart t p).cnt = (getPart u p).cnt) ∧ ((∃ r, k.failed = some r ∧ r ≠ 0) → (getPart t p).pirq.getLsbD 2 = true)
        (∀ u, writeStatus s d k = .wait u → Completes (.collectiveComplete d p) s fun t => t = u) ∧
        (∀ u, writeStatus s d k = .ok u → (k.record.stat = 0 → u = s) ∧ Closes u) ∧
        ∀ u e a, writeStatus s d k = .stop u e a → (k.failed ≠ none → Closes u) ∧
          (k.failed = none → Completes (.collectiveComplete d p) s fun t => MemSameButCounters s t ∧ ∃ o ∈ (getWalker t d p).jobs, o.owner = k.owner ∧
            o.failed = some 3 ∧ ∃ f, o.stopped = some f ∧ f.cause = e))) ∧
    ((∀ o ∈ w.jobs, collOver o = false) →
      -- word that the peers of a PUT have performed what it wrote (R347)
      (∀ j, w.jobs.find? putOut = some j → Completes (.collectiveComplete d p) s fun t => t = { s with freeCtr := t.freeCtr } ∨ (MemSame s t ∧
        (getWalker t d p).jobs = w.jobs.map fun k => if k.owner.ticket = j.owner.ticket then { k with landed := List.range (totalBlocks k.record) } else k)) ∧
      -- word of a reset in another member's package (R350)
      (∀ j, w.jobs.find? putOut = none → w.jobs.find? (abortable s) = some j → Completes (.collectiveComplete d p) s fun t => t = { s with freeCtr := t.freeCtr } ∨
        (MemSame s t ∧ liveColl t j.record.collid = none ∧
          (getWalker t d p).jobs = w.jobs.map fun k => if k.record.collid = j.record.collid ∧ k.record.op ≠ 0 ∧ collOver k = false then { k with failed := some 2 } else k)) ∧
      ((∀ o ∈ w.jobs, putOut o = false) → (∀ o ∈ w.jobs, abortable s o = false) → Completes (.collectiveComplete d p) s fun t => t = s))) ∧
  -- delivery
  (∀ (p : Nat) (lost : Bool) (b : WireBlock) (s : State), debugHeld s p = false → partLive s p = true →
    -- a flit of a live broadcast has left its switches; with the last its contexts are released, on every switch
    let Left (t : State) : Prop := ∀ c, liveColl s b.collid = some c → c.admitted = true → c.record.op = 1 →
      let sent := if b.blk ∈ c.sent then c.sent else b.blk :: c.sent
      let due := c.cut.getD (totalBlocks c.record)
      (due ≤ sent.length → liveColl t b.collid = none ∧ ∀ i, b.collid ∉ (tget {} t.switches i : Switch).live) ∧
      (sent.length < due → liveColl t b.collid = some { c with sent := sent })
    (∀ d j g u, receiver s p b = some (d, j) → tfind s.groups j.record.group = some g → takeBlock s j.record b = some u → (lost = true → j.record.mire = true) →
      (getDie s d).fenced = false →
      (∀ v, deliverBlock u d j g b lost = .wait v → Completes (.resultBlockDelivery p lost none b) s fun t => t = { v with fabricOut := s.fabricOut }) ∧
      (∀ v k a, deliverBlock u d j g b lost = .stop v k a → Completes (.resultBlockDelivery p lost none b) s fun t => MemSameButCounters s t ∧
        ∃ e ∈ (getWalker t d p).jobs, e.owner = j.owner ∧ e.failed = some 3 ∧ ∃ f, e.stopped = some f ∧ f.cause = k) ∧
      ∀ v, deliverBlock u d j g b lost = .ok v → Completes (.resultBlockDelivery p lost none b) s fun t => t.mem = v.mem ∧ t.clusters = v.clusters ∧ Left t ∧
        (getWalker t d p).jobs = ((getWalker v d p).jobs.map fun k => if k.owner.ticket = j.owner.ticket
          then { k with landed := b.blk :: k.landed, lost := if lost = true ∨ b.valid = false then k.lost + 1 else k.lost } else k)) ∧
    -- no job here takes the block any more
    (∀ c g u, receiver s p b = none → liveColl s b.collid = some c → c.admitted = true → c.record.op = 1 → b.blk < totalBlocks c.record →
      tfind s.groups c.group = some g → g.part = p → takeBlock s c.record b = some u →
      Completes (.resultBlockDelivery p lost none b) s fun t => MemSame s t ∧ Left t ∧ t.dies = s.dies) ∧
    -- a PUT block of another package
    (∀ q g d rest, tfind s.groups q.group = some g → g.part = p → s.pkg ∈ g.members → 1 < s.dsize → diesOf s p = d :: rest →
      (∀ u, putTarget s d p q.dst = .wait u → Completes (.resultBlockDelivery p lost (some q) b) s fun t => t = u) ∧
      (∀ u k a, putTarget s d p q.dst = .stop u k a → Completes (.resultBlockDelivery p lost (some q) b) s (MemSameButCounters s)) ∧
      ∀ h ps dm, putTarget s d p q.dst = .ok (h, ps, dm) →
        let all := addDemand dm [(fabricBucket p h, flitTokens)]
        (demandReady s all = false → Completes (.resultBlockDelivery p lost (some q) b) s fun t => t = awaitDemand s all) ∧
        (demandReady s all = true → Completes (.resultBlockDelivery p lost (some q) b) s fun t =>
          t = (putBlock (takeBucket s (fabricBucket p h) flitTokens) h p q.dst ps b lost fun _ => false).1))) ∧
  ∀ (c : CollRec) (b : WireBlock) (i : Nat), c.op = 2 →
    (c.int64 = true → i < 512 → (resultBytes c b i).toNat = ((b.payload.getD (i / 8) 0) % 2 ^ 64).toNat / 2 ^ (8 * (i % 8)) % 2 ^ 8) ∧
    (c.int64 = false → b.payload.length = 64 → i < 256 →
      let r := b.payload.getD (i / 4) 0
      (resultBytes c b i).toNat = (roundDyadic .f32 .rne false (r < 0) r.natAbs c.x).1 / 2 ^ (8 * (i % 4)) % 2 ^ 8)

/-- R337 to R339, R359 to R361, R366, R376, R383, R394: a lost flit arrives as lost data in the mire class and is a fabric machine fault once the reliable class
has no retries left; an access of another package reaches a frame through a consented export unit once the buckets have its tokens, and reads it at its home, or
is refused; the gatherer takes a request into a batch, closes a batch at its deadline, and checks its layout and its open batch again when it is configured. The
model's choice: a batch opens in the lowest free buffer (log entry 110), and RGCFG and RGDEAD act on an open batch at once (log entry 103). -/
def Obligations.FabricAndGathererEvents : Prop :=
  (∀ (c : Nat) (a : LAccess) (rest : List LAccess) (s : State), (getCtx s c).lacc = a :: rest →
    let inFlit (k blk : Nat) (p : Piece) : Prop := ∃ off part die, p.loc = .remote k off true part die ∧ off / 256 = blk
    let steady (p : Piece) : Prop := ∃ k off part die, p.loc = .remote k off false part die
    (∀ r, Completes (.flitLoss c false r) s fun t => r = false → t = s) ∧
    (∀ r q, a.dest = .queue q → (∃ p ∈ a.pieces, ∃ k blk, inFlit k blk p) → Completes (.flitLoss c true r) s fun t => OnlyCtx s c t ∧
      ∃ (ps : List Piece) (early : List Got), (getCtx t c).lacc = { a with pieces := ps, early := early } :: rest ∧ ps.length = a.pieces.length ∧
        (∃ k blk, (∃ p ∈ a.pieces, inFlit k blk p) ∧ ∀ (n : Nat) p o, a.pieces[n]? = some p → ps[n]? = some o →
          (inFlit k blk p → o = { p with loc := .lost }) ∧ (¬ inFlit k blk p → o = p)) ∧
        ∀ (n : Nat) x o, early[n]? = some x → ps[n]? = some o → (o.loc = .lost → x.lost = true ∧ x.data = 0) ∧ (o.loc ≠ .lost → a.early[n]? = some x)) ∧
    ∀ q, a.dest = .queue q → (∃ p ∈ a.pieces, steady p) → Completes (.flitLoss c false true) s fun t => (getSeq t c .L).halted = true ∧ MemSame s t ∧
      (getCtx t c).lacc = rest ∧ ∃ i, (getSeq t c .L).origin = some i ∧ i.cause = 0x25 ∧ i.fpc = a.fpc) ∧
  (∀ (off : Nat) (write : Bool) (data : List Byte) (s : State),
    (exportTarget s off write = none → Completes (.remoteAccess off write data) s fun t => t.mgmt.windowResult = none ∧ MemSame s t) ∧
    ∀ p key frame, exportTarget s off write = some (p, key, frame) → debugHeld s p = false →
      let ps := physPieces (frame + off % 65536) data.length key p
      let unit := off / 65536
      let dm := addDemand (tokensOf s ps) [(fabricBucket p 0, flitTokens)]
      let ready : Prop := demandReady s dm = true ∧ (write = true → writeWaits s ps = false)
      -- the receive unit keeps the map entry, and the fabric bucket pays
      let v := takeBucket (keepExport s unit) (fabricBucket p 0) flitTokens
      ((8 * unit + p) ∈ s.mgmt.exports ∧ partLive s p = true ∧ isDram s frame = true ∧ tfind (getPart s p).keys key ≠ none) ∧
      (¬ ready → Completes (.remoteAccess off write data) s fun t => t = awaitDemand s dm) ∧
      (∀ u st, ready → write = true → writeAccess v ps (fun i => data.getD i 0) (fun _ => false) .none false (clockVector v 0 []) = .ok (u, st) →
        Completes (.remoteAccess off write data) s fun t => t.mem = u.mem ∧ t.mgmt.windowResult = some data) ∧
      (∀ k, ready → write = true → writeAccess v ps (fun i => data.getD i 0) (fun _ => false) .none false (clockVector v 0 []) = .error k →
        Completes (.remoteAccess off write data) s fun t => MemSame s t ∧ t.mgmt.windowResult = none) ∧
      (ready → write = false → let got := readHomes v 0 ps 0
        let bad : Prop := (∃ f, firstFault ps got = some f) ∨ ∃ i, i < data.length ∧ accessLost ps got i = true
        Completes (.remoteAccess off write data) s fun t => MemSameButCounters s t ∧
          (bad → t.mgmt.windowResult = none) ∧ (¬ bad → t.mgmt.windowResult = some ((List.range data.length).map (accessByte ps got))))) ∧
  ∀ (d p : Nat) (s : State),
    let g := getGath s d p
    let OnlyGath (t : State) : Prop := t = setGath s d p (getGath t d p)
    let runs : Prop := g.en = true ∧ g.logsize ≠ 0 ∧ g.stopped = false ∧ g.halted = false ∧ g.tail ≠ g.head ∧ partLive s p = true ∧ (getDie s d).fenced = false
    -- a batch whose deadline has passed has closed then
    let g' := agedBatch s g
    ((∀ b, g.openBatch = some b → g.dead ≠ 0 → b.opened + g.dead.toNat < s.cycle →
        g' = { g with openBatch := none, ready := g.ready ++ [{ b with closed := b.opened + g.dead.toNat, deadline := true }] }) ∧
      (g.dead = 0 ∨ (∀ b, g.openBatch = some b → s.cycle ≤ b.opened + g.dead.toNat) → g' = g)) ∧
    -- a request
    (¬ runs → Completes (.gathererTakeSlot d p) s fun t => t = s) ∧
    (∀ b, runs → batchFor s g' = some b →
      (g'.openBatch = none → b.rows = 0 ∧ b.opened = s.cycle ∧ b.base = rgBase g b.buf ∧ b.len = rgStripes g ∧ b.buf < rgNb g ∧ b.buf ∉ g.used ∧
        ∀ k, k < b.buf → k ∈ g.used) ∧
      let rowb := 128 * rgRowb g
      let read := ringRead (setGath s d p g') d p (g.ring.toNat + (g.head.toNat % 2 ^ g.logsize.toNat) * (64 + rowb)) (64 + rowb)
      (∀ u, read = .wait u → Completes (.gathererTakeSlot d p) s fun t => t = u) ∧
      (∀ u k a, read = .stop u k a → Completes (.gathererTakeSlot d p) s fun t => MemSameButCounters s t ∧ getGath t d p = { g' with stopped := true } ∧
        (getPart t p).pirq.getLsbD 0 = true) ∧
      ∀ u gs, read = .ok (u, gs) →
      Completes (.gathererTakeSlot d p) s fun t => MemSameButCounters s t ∧ (getGath t d p).head = g.head + 1 ∧ b.buf ∈ (getGath t d p).used ∧
        (b.rows + 1 < rgCount g → (getGath t d p).openBatch = some { b with rows := b.rows + 1 } ∧ (getGath t d p).ready = g'.ready) ∧
        (rgCount g ≤ b.rows + 1 → (getGath t d p).openBatch = none ∧
          (getGath t d p).ready = g'.ready ++ [{ b with rows := b.rows + 1, closed := s.cycle, deadline := false }])) ∧
    (runs → batchFor s g' = none → Completes (.gathererTakeSlot d p) s fun t => OnlyGath t ∧ getGath t d p = g') ∧
    -- the deadline
    (∀ b, partLive s p = true → g.openBatch = some b → g.dead ≠ 0 → Completes (.batchCloseDeadline d p) s fun t => t.cycle = max s.cycle (b.opened + g.dead.toNat) ∧
      (getGath t d p).openBatch = none ∧ (getGath t d p).ready = g.ready ++ [{ b with closed := b.opened + g.dead.toNat, deadline := true }] ∧ MemSame s t) ∧
    (g.openBatch = none ∨ g.dead = 0 ∨ partLive s p = false → Completes (.batchCloseDeadline d p) s fun t => t = s) ∧
    -- configuration: of the block of a die that holds clusters of the live partition (R373); the open batch is looked at again (R361)
    let Settled (h y : Gatherer) : Prop := match h.openBatch with
      | none => y = h
      | some b =>
        let full : Prop := rgCount h ≤ b.rows
        let due : Prop := h.dead ≠ 0 ∧ b.opened + h.dead.toNat ≤ s.cycle
        (full → y = { h with openBatch := none, ready := h.ready ++ [{ b with closed := s.cycle, deadline := false }] }) ∧
        (¬ full → due → y = { h with openBatch := none, ready := h.ready ++ [{ b with closed := s.cycle, deadline := true }] }) ∧ (¬ full → ¬ due → y = h)
    (blockHeld s d p = false → ∀ (n : Nat) (v : Word), Completes (.gathererConfigWrite d p n v) s fun t => t = s) ∧
    (blockHeld s d p = true → ∀ v : Word,
      Completes (.gathererConfigWrite d p 0x00 v) s (fun t => OnlyGath t ∧ Settled { g' with ring := BitVec.ofNat 64 (v.toNat / 2 ^ 6 % 2 ^ 50 * 64) } (getGath t d p)) ∧
      Completes (.gathererConfigWrite d p 0x10 v) s (fun t => OnlyGath t ∧ Settled { g' with tail := v.setWidth 16 } (getGath t d p)) ∧
      Completes (.gathererConfigWrite d p 0x28 v) s (fun t => OnlyGath t ∧ Settled { g' with dead := v.setWidth 32 } (getGath t d p)) ∧
      Completes (.gathererConfigWrite d p 0x08 v) s (fun t =>
        let h := { g' with logsize := v.setWidth 4, en := v.getLsbD 4, drain := v.getLsbD 5 }
        let bad : Prop := h.en = true ∧ g.en = false ∧ rgUnusable s d p h = true
        ∃ y, Settled h y ∧ (¬ bad → OnlyGath t ∧ getGath t d p = y) ∧
          (bad → getGath t d p = { y with stopped := true } ∧ (getPart t p).pirq.getLsbD 0 = true)) ∧
      Completes (.gathererConfigWrite d p 0x20 v) s fun t =>
        let h := { g' with cfg := BitVec.ofNat 64 (v.toNat % 2 ^ 13 + v.toNat / 2 ^ 16 % 2 ^ 32 * 2 ^ 16) }
        let bad : Prop := g.en = true ∧ rgUnusable s d p h = true
        ∃ y, Settled h y ∧ (¬ bad → OnlyGath t ∧ getGath t d p = y) ∧
          (bad → getGath t d p = { y with stopped := true } ∧ (getPart t p).pirq.getLsbD 0 = true))

/-! ## Streams, kernels and cells -/

/-- R305 to R311, R316, R320, R321, R333, R375: a stream takes its launch records in order: a wait ends once its counter has come, a signal adds to a counter, a
kernel becomes resident with the next serial number, and a record that breaks the rules stops the stream in STATE 3; a kernel completes when all it did is
visible; the tail is written, an error cleared, and a stream that starves ages, by one for each quantum of cycles in which it had a ready cell and started
none. A tail that leaves more records than the queue holds makes those to be taken undefined (R8; which values do is the model's reading, log entry 101). -/
def Obligations.StreamsAndKernels : Prop := ∀ (p n : Nat) (s : State),
  let x := getStream s p n
  let live : Prop := streamOpen s p n = true
  let word (i : Nat) : Word := x.record.getD i 0
  let kind := (word 0).toNat % 2 ^ 2
  let holds (k : Nat) : Prop := x.record ≠ [] ∧ kind = k
  let cnt (t : State) (c : Nat) : Word := tget 0 (getPart t p).cnt c
  let Stopped (err serial : Nat) (t : State) : Prop := (getStream t p n).state = 3 ∧ (getStream t p n).err = BitVec.ofNat 8 err ∧
    (getStream t p n).serial = BitVec.ofNat 32 serial ∧ (getPart t p).pirq.getLsbD 1 = true ∧ MemSameButCounters s t
  let Ended (t : State) : Prop := (getStream t p n).head.toNat = (x.head.toNat + 1) % 2 ^ x.logsize.toNat % 2 ^ 16 ∧ (getStream t p n).done = x.done + 1 ∧
    (getStream t p n).taken = x.taken - 1 ∧ (getStream t p n).record = [] ∧ (∀ m, m ≠ n → getStream t p m = getStream s p m) ∧ MemSame s t
  let first (v : Nat) : Nat := v % 2 ^ 2
  -- taking a record
  (live → x.taken = 0 → pendingRecords x ≠ 0 →
    let read := engineRead s s.mgmt.master p (recordAddr x 0) 64 { rd := true }
    (∀ u, read = .wait u → Completes (.launchRecordTake p n) s fun t => t = u) ∧
    (∀ u k g, read = .stop u k g → Completes (.launchRecordTake p n) s (Stopped 1 0)) ∧
    ∀ v, read = .ok v →
    let r := launchWords s x v
    (x.undefs = 0 → r = splitWords v 8) ∧
    (launchBad r = true → Completes (.launchRecordTake p n) s (Stopped 1 0)) ∧
    (launchBad r = false → Completes (.launchRecordTake p n) s fun t =>
      OnlyCounting (setStream s p n { x with taken := 1, record := r, state := if (r.getD 0 0).toNat % 2 ^ 2 = 1 then 2 else 1 }) t)) ∧
  (¬ live ∨ x.taken ≠ 0 ∨ pendingRecords x = 0 → Completes (.launchRecordTake p n) s fun t => t = s) ∧
  -- a wait and a signal
  (let c := (word 0).toNat / 2 ^ 8 % 2 ^ 8
   (live → holds 1 → (cnt s c).toNat < (word 1).toNat → Completes (.streamWaitSatisfied p n) s fun t => t = s) ∧
   (live → holds 1 → (word 1).toNat ≤ (cnt s c).toNat → Completes (.streamWaitSatisfied p n) s fun t => Ended t ∧ (getPart t p).cnt = (getPart s p).cnt) ∧
   (live → holds 2 → Completes (.signalRecord p n) s fun t => Ended t ∧ cnt t c = cnt s c + word 1 ∧ ∀ m, m ≠ c → cnt t m = cnt s m)) ∧
  -- a kernel
  (∀ w k, live → holds 0 → loadKernel s p n x.record false = .ok (w, .ok k) → k.serial = (getPart s p).nextSerial ∧ k.stream = n ∧ k.prio = x.prio ∧ k.started = [] ∧
    k.ended = [] ∧ k.failed = none ∧ k.cells = ((List.range 6).map fun l => max 1 (kBound k.record l)).prod ∧
    Completes (.kernelResident p n) s fun t => (getPart t p).kernels = (getPart s p).kernels ++ [k] ∧ (getPart t p).nextSerial = (getPart s p).nextSerial + 1 ∧
      (getStream t p n).record = [] ∧ (getStream t p n).taken = 1 ∧ (getStream t p n).head = x.head ∧ MemSameButCounters s t ∧
      (streamReady s p n = false → kernelReady k = true → (getStream t p n).agedAt = s.cycle)) ∧
  (∀ u, live → holds 0 → loadKernel s p n x.record false = .wait u → Completes (.kernelResident p n) s fun t => t = u) ∧
  (∀ w e, live → holds 0 → loadKernel s p n x.record false = .ok (w, .error e) → Completes (.kernelResident p n) s fun t =>
    Stopped e (getPart s p).nextSerial.toNat t ∧ (getPart t p).nextSerial = (getPart s p).nextSerial + 1 ∧ (getPart t p).kernels = (getPart s p).kernels) ∧
  (∀ a v k, live → (getPart s p).kernels.filter (fun o => o.stream == n) = [a] → x.taken = 1 → x.record = [] → 2 ≤ pendingRecords x → a.failed = none →
    a.passedSms.length = a.cells → engineRead s s.mgmt.master p (recordAddr x 1) 64 { rd := true } = .ok v →
    let r := splitWords v 8
    let u := engineTouch s s.mgmt.master p (recordAddr x 1) 64 { rd := true }
    (x.undefs ≠ 0 ∨ launchBad r = true ∨ first v ≠ 0 ∨ v / 2 ^ 2 % 2 = 0 → Completes (.earlyResident p n) s (OnlyCounting s)) ∧
    (x.undefs = 0 → launchBad r = false → first v = 0 → v / 2 ^ 2 % 2 = 1 →
      (∀ w, loadKernel u p n r true = .wait w → Completes (.earlyResident p n) s fun t => t = w) ∧
      (∀ w e, loadKernel u p n r true = .ok (w, .error e) → Completes (.earlyResident p n) s fun t => t = w) ∧
      ∀ w, loadKernel u p n r true = .ok (w, .ok k) → Completes (.earlyResident p n) s fun t =>
        (getPart t p).kernels = (getPart s p).kernels ++ [k] ∧ k.early = true ∧ (getStream t p n).taken = 2 ∧ (getStream t p n).head = x.head ∧
          MemSameButCounters s t)) ∧
  -- completion
  (∀ k rest, (getPart s p).kernels = k :: rest → k.stream = n → (∀ o ∈ rest, o.serial ≠ k.serial) → (getPart s p).reset = .idle →
    (kernelDone s p k = false → Completes (.kernelComplete p k.serial.toNat) s fun t => t = s) ∧
    (kernelDone s p k = true → Completes (.kernelComplete p k.serial.toNat) s fun t => (getPart t p).kernels = rest ∧ MemSame s t ∧
      (k.failed = none → Ended t ∧ ∀ m, cnt t m = if k.cen = true ∧ m = k.cidx then cnt s m + 1 else cnt s m) ∧
      ∀ e, k.failed = some e → Stopped e k.serial.toNat t)) ∧
  -- the tail, errors, aging
  (∀ v : Word, n < 64 → partLive s p = true →
    let y := { x with tail := v.setWidth 16 }
    let full : Prop := 2 ^ x.logsize.toNat ≤ v.toNat % 2 ^ 16 ∧ 2 ^ x.logsize.toNat ≤ (v.toNat % 2 ^ 16 + 2 ^ 16 - x.head.toNat) % 2 ^ 16
    Completes (.streamTailWrite p n v) s fun t => (¬ full → t = setStream s p n y) ∧ (full → t = setStream s p n { y with undefs := pendingRecords y })) ∧
  (∀ v : Word, partLive s p = false → Completes (.streamTailWrite p n v) s fun t => t = s) ∧
  (partLive s p = true → x.state = 3 → Completes (.streamClearError p n) s fun t => (getStream t p n).err = 0 ∧ (getStream t p n).serial = 0 ∧
    (getStream t p n).state ≠ 3 ∧ (getStream t p n).head = (if x.err = 1 ∨ x.err = 2 ∨ x.err = 3 then BitVec.ofNat 16 ((x.head.toNat + 1) % 2 ^ x.logsize.toNat) else x.head) ∧
    t = setStream s p n (getStream t p n)) ∧
  (partLive s p = true → x.state ≠ 3 → Completes (.streamClearError p n) s fun t => t = s) ∧
  (let starves : Prop := (∃ k ∈ (getPart s p).kernels, k.stream = n ∧ kernelReady k = true) ∧ effPrio s p n < 4
   let q := max 1 (getPart s p).ageq.toNat
   let passed := (s.cycle - x.agedAt) / q
   let due := x.agedAt + passed * q + q
   (starves → Completes (.priorityAging p n) s fun t => t.cycle = max s.cycle due ∧ MemSame s t ∧
     getStream t p n = { x with boost := min 4 (x.boost + passed) + 1, agedAt := due }) ∧
   (starves → effPrio s p n = x.prio.toNat + min 4 (x.boost + passed)) ∧
   (¬ starves → Completes (.priorityAging p n) s fun t => t = s))

/-- R37, R42, R43, R309, R312 to R319, R332, R334, R376, R443: a placement takes a range of its kernel, asks for more and is freed, the requests of one cycle in core
number order; its walker starts a group of cells, each with its ordinal and coordinates in registers and with empty queues; a cell ends once its parts and
jobs are over; the tracker retires what has become visible; sensors, the power throttle and token buckets. The model's choice: TLEVEL and the registers of a
trap keep what the earlier cell left, and queue HEADs start again at slot 0 (log entry 88); the core placed last and the stream served last are kept for each
partition (log entry 5); a cell's end is recorded in the step that ends it (log entry 109). -/
def Obligations.PlacementAndCells : Prop :=
  (∀ (c p : Nat) (s : State), partOfCore s c = some p → partRuns s p = true → groupDue s p = false →
    let d := dieOfCore c
    (lowerAsks s p c = true → Completes (.placementAsk c) s fun t => t = s) ∧
    (∀ serial base g, (getCore s c).range = some (p, serial, base, g) → base ≠ c → Completes (.placementAsk c) s fun t => t = s) ∧
    (∀ serial g, (getCore s c).range = some (p, serial, c, g) → groupBusy s c g p serial (getCore s c).place = true → Completes (.placementAsk c) s fun t => t = s) ∧
    (∀ serial g k, lowerAsks s p c = false → (getCore s c).range = some (p, serial, c, g) → groupBusy s c g p serial (getCore s c).place = false →
      kernelOf s p serial = some k →
      let holds : Prop := k.failed = none ∧ ∃ r ∈ k.ranges, r.owner = some c ∧ r.next < r.hi
      (holds → Completes (.placementAsk c) s fun t => t = s) ∧
      (∀ k', k.failed = none → ¬ holds → giveRange k c d = some k' → Completes (.placementAsk c) s fun t => t = updKernel s p serial fun _ => k') ∧
      (¬ holds → k.failed ≠ none ∨ giveRange k c d = none → Completes (.placementAsk c) s fun t => MemSame s t ∧ t.parts = s.parts ∧
        (∀ r, r < g → (getCore t (c + r)).range = none ∧ getCtx t (c + r) = getCtx s (c + r)) ∧
        ∀ o ∈ (getCluster t (clusterOfCore c)).reserved, o ∈ (getCluster s (clusterOfCore c)).reserved)) ∧
    -- a stream that waits at E = 4 with a ready cell is passed over at most 63 times (R334)
    (∀ k b cand m, offer s p d = some (k, b, cand) → m < 64 → m ≠ k.stream → streamReady s p m = true → effPrio s p m = 4 → (getStream s p m).overtaken < 63) ∧
    (∀ k b cand k', lowerAsks s p c = false → (getCore s c).range = none → offer s p d = some (k, b, cand) → giveRange k b d = some k' →
      (b ≠ c → Completes (.placementAsk c) s fun t => t = s) ∧
      (b = c → let g := kGang k.record
        Completes (.placementAsk c) s fun t => MemSame s t ∧ (getPart t p).lastStream = k.stream ∧ t.placeCtr = s.placeCtr + 1 ∧
          (getPart t p).kernels = (getPart s p).kernels.map (fun o => if o.serial = k.serial then k' else o) ∧ (getStream t p k.stream).overtaken = 0 ∧
          (∀ m, m < 64 → m ≠ k.stream → (getStream t p m).overtaken = (getStream s p m).overtaken +
            if effPrio s p k.stream = 4 ∧ streamReady s p m = true ∧ effPrio s p m = 4 then 1 else 0) ∧
          (0 < kSramg k.record → ∃ o ∈ (getCluster t (clusterOfCore c)).reserved, o.part = p ∧ o.serial = k.serial.toNat ∧ o.gangBase = c ∧ o.len = kSramg k.record ∧
            o.place = s.placeCtr + 1) ∧
          ∀ r, r < g → (getCore t (c + r)).range = some (p, k.serial.toNat, c, g) ∧ (getCore t (c + r)).place = s.placeCtr + 1 ∧ (getCore t (c + r)).passed = 0 ∧
            getCtx t (c + r) = getCtx s (c + r)))) ∧
  (∀ (c p base g i : Nat) (k : Kernel) (r : RangeTask) (s : State), startable s c = some (p, base, g, k, i) → k.ranges[i]? = some r →
    Completes (.cellStart c) s fun t => MemSame s t ∧ (getStream t p k.stream).boost = 0 ∧ (getStream t p k.stream).agedAt = s.cycle ∧ (getStream t p k.stream).overtaken = 0 ∧ ∀ m, m < g →
      let x := getCtx s (base + m)
      let y := getCtx t (base + m)
      let o := r.next + m
      let digit (l : Nat) : Nat := o / kInner k.record l % max 1 (kBound k.record l)
      -- a member of a group placed again whose cell has ended starts nothing (R332)
      (o ∈ k.ended → y = x) ∧
      (o ∉ k.ended →
      (∃ e, y.cell = some e ∧ e.part = p ∧ e.serial = k.serial.toNat ∧ e.ordinal = o ∧ e.gangBase = base ∧ e.gangSize = kGang k.record ∧
        e.place = (getCore s (base + m)).place ∧ e.sms = false ∧ e.gbars = 0 ∧ e.lsReleased = !kHoldls k.record) ∧
      y.q = [] ∧ y.w = [] ∧ y.slots = [] ∧ y.tickets = [] ∧ y.flags = 0 ∧ y.wdog = 0 ∧ y.kargs.toNat = k.kargs.toNat ∧ y.tokenBad = false ∧
      ((footprint y).getLsbD 7 = true → (storeGranule y 0xFFDF).toNat / 2 ^ 64 = 0) ∧
      (∀ sq, (ctxSeq y sq).pc = 0 ∧ (ctxSeq y sq).run = .running ∧ (ctxSeq y sq).halted = false ∧ (ctxSeq y sq).lc = [] ∧ (ctxSeq y sq).tlevel = (ctxSeq x sq).tlevel ∧
        regOf (ctxSeq y sq) 30 = BitVec.ofNat 64 o ∧
        ∀ l, l < 6 → regOf (ctxSeq y sq) (BitVec.ofNat 5 (24 + l)) = BitVec.ofNat 64 (digit l * kStride k.record l)) ∧
      (kZinit k.record = true → ∀ h, h < 65536 → (footprint y).getLsbD (h / 8192) = true → storeGranule y h = 0) ∧
      -- a bank outside the footprint that RET does not keep is gated, retained or on (R37, R443)
      (x.nestRun = none → x.nestPend = none → ∀ b, b < 8 → (footprint y).getLsbD b = false → y.ret.getLsbD b = false → y.gated.getLsbD b = true) ∧
      ((getCore s (base + m)).lastKernel ≠ some (p, k.serial.toNat) → y.vview = k.record.getD 2 0 ∧ y.tview = k.record.getD 3 0 ∧ y.aview = k.record.getD 4 0 ∧
        y.ret.toNat = kRet k.record ∧ y.rsoor = 0 ∧ y.seqL.istore = k.codeL ∧ y.seqX.istore = k.codeX ∧ y.seqS.istore = k.codeS) ∧
      ((getCore s (base + m)).lastKernel = some (p, k.serial.toNat) → y.vview = x.vview ∧ y.ret = x.ret ∧ y.rsoor = x.rsoor ∧ y.seqX.istore = x.seqX.istore))) ∧
  (∀ (c : Nat) (e : CellInfo) (s : State), (getCtx s c).cell = some e →
    let x := getCtx s c
    let d := dieOfCore c
    let done : Prop := x.seqL.run = .ended ∧ x.seqX.run = .ended ∧ x.seqS.run = .ended ∧ x.nestRun = none ∧ x.nestPend = none ∧ x.rjobs = [] ∧ x.lacc = [] ∧
      (∀ a ∈ x.sacc, visibleAt s c .core a = true) ∧ ctxCards s d x = [] ∧ ctxBmv s d x = [] ∧ engineWritesSeen s d x = true
    (done → Completes (.cellEnd c) s fun t => MemSame s t ∧ (getCtx t c).cell = none ∧ (getCtx t c).q = [] ∧ (getCtx t c).w = [] ∧ (getCtx t c).slots = [] ∧
      (getCtx t c).tickets = [] ∧ (∀ sq, (getSeq t c sq).run = .noCell) ∧
      ∀ k, kernelOf s e.part e.serial = some k → ∃ k', kernelOf t e.part e.serial = some k' ∧
        k'.ended = (if e.ordinal ∈ k.ended then k.ended else e.ordinal :: k.ended) ∧ e.ordinal ∈ k'.passedSms) ∧
    (¬ done → Completes (.cellEnd c) s fun t => t = s)) ∧
  (∀ (c n : Nat) (k : Tracked) (s : State), (getCore s c).tracker[n]? = some k →
    (itemVisible s c k = true → Completes (.retirementEntryRetire c n) s fun t => MemSame s t ∧
      (getCore t c).tracker = (getCore s c).tracker.take n ++ (getCore s c).tracker.drop (n + 1) ∧ ∀ sq, getSeq t c sq = getSeq s c sq) ∧
    (itemVisible s c k = false → Completes (.retirementEntryRetire c n) s fun t => t = s)) ∧
  (∀ (c idle : Nat) (a b : BitVec 4) (s : State), c < 576 →
    Completes (.sensorRefresh c a b) s (fun t => t = setCore s c { getCore s c with temp := a, droop := b }) ∧
    Completes (.powerLimitReached idle) s fun t => t = { s with mgmt := { s.mgmt with throttle := idle } }) ∧
  ∀ s : State, Completes .bucketRefill s fun t => t.cycle = (s.cycle / 1024 + 1) * 1024 ∧ MemSame s t ∧ t.cores = s.cores ∧ ∀ p, p < 8 →
    (getPart s p).en = true → ∀ i, i < 16 →
      let old : Bucket := tget {} (getPart s p).buckets i
      -- the values written since the last boundary apply from this one
      tget {} (getPart t p).buckets i = { old with rateNow := old.rate, burstNow := old.burst,
                                                   tokens := min (old.tokens + old.rate.toNat) (max 4 old.burst.toNat) }

/-! ## Halts, parking and the debugger -/

/-- R404 to R411: while a halt line spreads, a sequencer that it reaches stops where it stands, at most 80 cycles after the line was raised, and an engine writes
its 128-byte stop record and stops, or waits while the record's page is not present or its tokens are spent; once every unit has stopped and what was issued has landed, the sequencers' records are written and HALTED becomes 1. The
watchdog counts the cycles in which a context runs, every sequencer of it is stuck and no job of it progresses or waits on a page (when that is so is the model's choice, log entry
81), and raises the line at the limit. -/
def Obligations.HaltingEvents : Prop :=
  (∀ (p c : Nat) (q : Seq) (u : HaltUnit) (s : State),
    let x := getPart s p
    let stopping : Prop := x.halt.raised = true ∧ x.halt.halted = false
    (¬ stopping → Completes (.haltLineArrive p u) s (fun t => t = s) ∧ Completes (.engineStopPoint p u) s (fun t => t = s) ∧
      Completes (.haltComplete p) s fun t => t = s) ∧
    (stopping → partOfCore s c = some p → (getSeq s c q).halted = false → Completes (.haltLineArrive p (.seq c q)) s fun t =>
      MemSame s t ∧ getSeq t c q = { getSeq s c q with halted := true, haltedAt := min s.cycle (x.halt.raisedAt + 80) } ∧ ∀ o, o ≠ q → getSeq t c o = getSeq s c o) ∧
    (x.reset ≠ .idle → Completes (.engineStopPoint p u) s fun t => t = s) ∧
    (stopping → x.reset = .idle → isSeqUnit u = false → ownsUnit s p u = true → unitStopped s p u = false →
      (u ∉ haltUnits s p → Completes (.engineStopPoint p u) s fun t => unitStopped t p u = true ∧ MemSame s t) ∧
      (u ∈ haltUnits s p → x.stopbase = 0 → Completes (.engineStopPoint p u) s fun t =>
        unitStopped t p u = true ∧ (getPart t p).halt.norec = true ∧ MemSame s t) ∧
      (u ∈ haltUnits s p →
        (∀ v, recordTarget s p u = .wait v → Completes (.engineStopPoint p u) s fun t => t = v) ∧
        (∀ v n, recordTarget s p u = .ok (v, none, n) → Completes (.engineStopPoint p u) s fun t =>
          unitStopped t p u = true ∧ (getPart t p).halt.norec = true ∧ MemSameButCounters s t) ∧
        ∀ v ps n, recordTarget s p u = .ok (v, some ps, n) →
          (demandReady s (addDemand [] n) = false → Completes (.engineStopPoint p u) s fun t => t = awaitDemand s (addDemand [] n)) ∧
          (demandReady s (addDemand [] n) = true →
            let c := cacheAccess s (unitDie u) p (recordAt x.stopbase.toNat u) 128
            let write := writeAccess c ps (fun i => (recordOf s p u).getD i 0) (fun _ => false) .none true (clockVector c (unitDie u) [])
            (∀ f, write = .error f → Completes (.engineStopPoint p u) s fun t => unitStopped t p u = true ∧ (getPart t p).halt.norec = true ∧ t.mem = c.mem) ∧
            ∀ w o, write = .ok (w, o) → Completes (.engineStopPoint p u) s fun t => unitStopped t p u = true ∧ t.mem = w.mem))) ∧
    (let units := haltUnits s p
     let cores := (coresOf s p).filter fun c => (getCtx s c).cell.isSome && !(getDie s (dieOfCore c)).fenced
     let ready : Prop := stopping ∧ x.reset = .idle ∧ (∀ u ∈ units, unitStopped s p u = true) ∧ ∀ c ∈ cores, issuedDone (getCtx s c) = true
     let landed := cores.foldl (fun t c => setCtx t c (landAll (getCtx t c))) s
     (¬ ready → Completes (.haltComplete p) s fun t => t = s) ∧
     (∀ v, ready → writeRecords landed p (units.filter isSeqUnit) = .wait v → Completes (.haltComplete p) s fun t => t = v) ∧
     ∀ v, ready → writeRecords landed p (units.filter isSeqUnit) = .ok v → Completes (.haltComplete p) s fun t =>
       t.mem = v.mem ∧ (getPart t p).halt.halted = true ∧ (∀ c ∈ cores, ∀ o r, regOf (getSeq t c o) r = regOf (getSeq s c o) r) ∧
       (x.halt.cause = 0x40 ∨ x.halt.cause = 0x02 → (getPart t p).pirq = x.pirq) ∧
       (x.halt.cause ≠ 0x40 → x.halt.cause ≠ 0x02 → (getPart t p).pirq.getLsbD 0 = true))) ∧
  ∀ (c : Nat) (e : CellInfo) (s : State),
    let x := getCtx s c
    let y := getPart s e.part
    let limit := 1024 * y.wdog.toNat
    let counts (s : State) : Prop :=
      let x := getCtx s c
      let y := getPart s e.part
      x.cell = some e ∧ y.wdog ≠ 0 ∧ y.halt.raised = false ∧ y.reset = .idle ∧ (∃ q, (getSeq s c q).run = .running) ∧
      (∀ q, (getSeq s c q).halted = false ∧ stuckSeq x q = true) ∧ jobOnPage s c e = false
    let expires : Prop := counts s ∧ limit ≤ x.wdog
    (∀ before : State, counts before → counts s → before.cycle < s.cycle →
      let n := x.wdog + (s.cycle - max before.cycle x.wdogAt)
      let u := setCtx s c { x with wdog := n }
      (n < limit → watchCore before s c = u) ∧ (limit ≤ n → exec (.watchdogExpire c) u = .next (watchCore before s c))) ∧
    (∀ before : State, ¬ (before.cycle < s.cycle) → watch before s = s) ∧
    (x.cell = none → Completes (.watchdogExpire c) s fun t => t = s) ∧
    (x.cell = some e → ¬ expires → Completes (.watchdogExpire c) s fun t => t = s) ∧
    (x.cell = some e → expires → Completes (.watchdogExpire c) s fun t =>
      let h := (getPart t e.part).halt
      t.cycle = s.cycle ∧ h.raised = true ∧ h.raisedAt = s.cycle - (x.wdog - limit) ∧ h.cause = 0x30 ∧ h.core = c ∧ h.unit = 1 ∧ h.serial = e.serial ∧
      h.resumable = true ∧ h.debug = false ∧ (getPart t e.part).pirq.getLsbD 0 = true ∧ MemSame s t ∧
      (getSeq t c .X).pc = (getSeq s c .X).pc ∧ ∃ i, (getSeq t c .X).origin = some i ∧ i.cause = 0x30 ∧ i.fpc = (getSeq s c .X).pc.setWidth 16)

/-- R410: the bytes of a sequencer's stop record; one that stalls on a page that is not present shows the page's granule in EADDR (R218). -/
def Obligations.SequencerStopRecord : Prop := ∀ (p c : Nat) (q : Seq) (s : State), c < 576 → p < 8 →
  let r := seqRecord s p c q
  let v := getSeq s c q
  let bytes (o n : Nat) : Nat := ofBytes (fun i => r.getD (o + i) 0) n
  let unit : Nat := match q with
    | .L => 0
    | .X => 1
    | .S => 2
  let origin : Nat := if v.origin.isSome then 1 else 0
  let cause : Nat := match v.origin with
    | some i => i.cause.toNat
    | none => 0x41
  r.length = 128 ∧
  (v.origin = none → bytes 0 8 = unit + c * 2 ^ 8 + p * 2 ^ 18 + cause * 2 ^ 24 + v.tlevel.toNat * 2 ^ 32 ∧ bytes 48 8 = v.pc.toNat % 2 ^ 16 ∧
    bytes 40 8 = if v.wait = .page then v.stallAddr.toNat else 0) ∧
  (∀ i, v.origin = some i →
    bytes 0 8 = unit + c * 2 ^ 8 + p * 2 ^ 18 + origin * 2 ^ 21 + (if i.imprecise then 2 ^ 22 else 0) + cause * 2 ^ 24 + v.tlevel.toNat * 2 ^ 32 ∧
    bytes 40 8 = i.eaddr.toNat ∧ bytes 48 8 = i.fpc.toNat ∧ bytes 56 8 = i.parcels.toNat) ∧
  bytes 8 8 = v.haltedAt % 2 ^ 64 ∧ bytes 16 8 = (getCtx s c).kernid.toNat % 2 ^ 32 ∧ bytes 32 8 = v.pc.toNat % 2 ^ 16 ∧
  (∀ n, n < 4 → bytes (64 + 4 * n) 4 = (tget {} v.lc n).count.toNat) ∧ bytes 80 8 = waitCode v.wait ∧
  recordAt (getPart s p).stopbase.toNat (.seq c q) = (getPart s p).stopbase.toNat + 1024 * c + 128 * unit

/-- R44, R106, R196, R418, R419, R420, R443: parking. A flip exchanges the active and the shadow context once the shadow is empty, and is no kernel start: what the last
kernel start set stays with the core (log entry 15: the model's choice); the parked context's image is written to its slot when what it issued has
landed (what an STA's image in the resolver queue holds back is no part of it), and a page that is not present makes the write wait; a ready one comes back with what the image's bytes then say, no WAITC left to wait out and its nest's shards to load again. The image of a context
holds its registers, program counters, store and queue entries where R420 places them (bytes that R420 gives no layout are the model's choice, log entry 16). -/
def Obligations.ParkingEvents : Prop := ∀ (c n : Nat) (s : State),
  let y := getCore s c
  let OnlyCore (t : State) : Prop := t = setCore s c (getCore t c)
  -- asking
  (canPark s c = true → inReset s c = false → Completes (.cxctlPark c) s fun t => OnlyCore t ∧ getCore t c = { y with parkReq := some 0 }) ∧
  (y.ctx.cell = none ∨ y.parkReq ≠ none ∨ freeSlot s c = none ∨ inReset s c = true → Completes (.cxctlPark c) s fun t => t = s) ∧
  -- the flip
  (y.parkReq = none → Completes (.shadowFlip c) s fun t => t = s) ∧
  (freeSlot s c = none → y.parkReq ≠ none → Completes (.shadowFlip c) s fun t => OnlyCore t ∧ getCore t c = { y with parkReq := none }) ∧
  (∀ w i, y.parkReq = some w → freeSlot s c = some i →
    (y.spilling ≠ none ∨ y.shadow.cell ≠ none ∨ y.shadow.lacc ≠ [] ∨ inReset s c = true → Completes (.shadowFlip c) s fun t => t = s) ∧
    (y.spilling = none → y.shadow.cell = none → y.shadow.lacc = [] → inReset s c = false → Completes (.shadowFlip c) s fun t =>
      let z := getCore t c
      t.cycle = s.cycle + 48 ∧ MemSame s t ∧ z.parkReq = none ∧ z.spilling = some (i, w) ∧ z.parked = y.parked ∧ z.lastKernel = y.lastKernel ∧
      z.ctx.cell = none ∧ z.ctx.vview = y.ctx.vview ∧ z.ctx.tview = y.ctx.tview ∧ z.ctx.aview = y.ctx.aview ∧ z.ctx.ret = y.ctx.ret ∧ z.ctx.rsoor = y.ctx.rsoor ∧
      z.shadow.cell = y.ctx.cell ∧ z.shadow.xres = [] ∧
      -- neither L nor the expander waits on a full-empty bit any longer (R230)
      (∀ w ∈ (getCluster t (clusterOfCore c)).waiters, w.agent ≠ .load c ∧ w.agent ≠ .ring c ∧ w.agent ≠ .nest c) ∧
      (∀ q, (ctxSeq z.ctx q).istore = (ctxSeq y.ctx q).istore ∧ (ctxSeq z.ctx q).tvec = (ctxSeq y.ctx q).tvec ∧
        ∀ r, regOf (ctxSeq z.ctx q) r = regOf (ctxSeq y.shadow q) r) ∧
      ∀ q, (ctxSeq z.shadow q).pc = (ctxSeq y.ctx q).pc ∧ ∀ r, regOf (ctxSeq z.shadow q) r = regOf (ctxSeq y.ctx q) r)) ∧
  -- the spill
  (∀ i w p, y.spilling = some (i, w) → partOfCore s c = some p →
    let faults (cause : BitVec 8) (t : State) : Prop := (getPart t p).halt.raised = true ∧ (getPart t p).halt.cause = cause ∧
      (getPart t p).halt.core = c ∧ (getPart t p).halt.serial = y.shadow.kernid.toNat % 2 ^ 32 ∧ getCore t c = y ∧ MemSameButCounters s t
    (issuedDone y.shadow = false ∨ inReset s c = true → Completes (.contextSpillComplete c) s fun t => t = s) ∧
    (issuedDone y.shadow = true → inReset s c = false →
      let d := dieOfCore c
      let a := slotAddr s p c i
      (∀ u, imagePages s d p a { wr := true } = .wait u → Completes (.contextSpillComplete c) s fun t => t = u) ∧
      (∀ u cause g, imagePages s d p a { wr := true } = .stop u cause g → (getPart s p).halt.raised = false →
        Completes (.contextSpillComplete c) s (faults cause)) ∧
      ∀ heads, imagePages s d p a { wr := true } = .ok heads →
        let ps := imagePieces a heads
        let dm := imageDemand s d p a ps
        let v := cacheAccess s d p a imageSize
        let written := writeAccess v ps (imageByte y.shadow w v.freeCtr) (fun _ => false) .none true (clockVector v d [])
        (demandReady s dm = false ∨ writeWaits s ps = true → Completes (.contextSpillComplete c) s fun t => t = awaitDemand s dm) ∧
        (demandReady s dm = true → writeWaits s ps = false →
          (∀ u stamps, written = .ok (u, stamps) → Completes (.contextSpillComplete c) s fun t => t.mem = u.mem ∧ t.dies = u.dies ∧
            (∀ m, m ≠ c → getCore t m = getCore s m) ∧
            getCore t c = { y with shadow := {}, spilling := none, parked := tput y.parked i { ctx := y.shadow, wake := w, ready := false, stamps := stamps } }) ∧
          ∀ cause g, written = .error (cause, g) → (getPart s p).halt.raised = false → Completes (.contextSpillComplete c) s (faults cause)))) ∧
  -- waking and coming back
  (∀ k, tfind y.parked n = some k → Completes (.contextWake c n) s fun t =>
    t.cycle = max s.cycle k.wake ∧ getCore t c = { y with parked := tput y.parked n { k with ready := true } } ∧ MemSame s t) ∧
  (tfind y.parked n = none → Completes (.contextWake c n) s (fun t => t = s) ∧ Completes (.contextResume c n) s fun t => t = s) ∧
  ∀ k p, tfind y.parked n = some k → partOfCore s c = some p →
    let may : Prop := k.ready = true ∧ resumeRoom s c k.ctx = true ∧ partRuns s p = true ∧ coveredDie s (dieOfCore c) k.stamps = true ∧
      ∀ m o, (m, o) ∈ y.parked → m ≠ n → o.ready = true → ctxPrio s p o.ctx ≤ ctxPrio s p k.ctx
    (¬ may → Completes (.contextResume c n) s fun t => t = s) ∧
    let d := dieOfCore c
    let a := slotAddr s p c n
    let faults (cause : BitVec 8) (t : State) : Prop := (getPart t p).halt.raised = true ∧ (getPart t p).halt.cause = cause ∧
      (getPart t p).halt.core = c ∧ (getPart t p).halt.serial = k.ctx.kernid.toNat % 2 ^ 32 ∧ getCore t c = y ∧ MemSameButCounters s t
    (may → ∀ u, imagePages s d p a { rd := true } = .wait u → Completes (.contextResume c n) s fun t => t = u) ∧
    (may → ∀ u cause g, imagePages s d p a { rd := true } = .stop u cause g → (getPart s p).halt.raised = false →
      Completes (.contextResume c n) s (faults cause)) ∧
    (may → ∀ heads, imagePages s d p a { rd := true } = .ok heads →
      let ps := imagePieces a heads
      let dm := imageDemand s d p a ps
      let read := imageRead (cacheAccess s d p a imageSize) d ps
      (demandReady s dm = false → Completes (.contextResume c n) s fun t => t = awaitDemand s dm) ∧
      (∀ byte, demandReady s dm = true → read = .ok byte → Completes (.contextResume c n) s fun t =>
        let z := getCore t c
        -- the image's bytes are what comes back, whatever was spilled (R420)
        t.cycle = s.cycle + 48 ∧ MemSameButCounters s t ∧ tfind z.parked n = none ∧ z.ctx.cell = k.ctx.cell ∧ z.ctx.tickets = k.ctx.tickets ∧
        (∀ m, m < 65536 → tfind z.ctx.store m = some (BitVec.ofNat 128 (imageNat byte (16 * m) 16))) ∧
        (∀ m, m < 12 → imageQueue z.ctx m = queueFrom byte m) ∧
        (z.ctx.nestRun = none ↔ imageNat byte (imageEngine + 829) 1 = 0) ∧ (z.ctx.nestPend = none ↔ imageNat byte (imageEngine + 830) 1 = 0) ∧
        (∀ j, z.ctx.nestRun = some j → j.latch = none ∧ j.ahead = none ∧ j.loading = none) ∧
        z.ctx.mwait = BitVec.ofNat 64 (imageNat byte (imageEngine + 816) 8) ∧ z.lastKernel = k.ctx.cell.map (fun e => (e.part, e.serial)) ∧
        ∀ q, (ctxSeq z.ctx q).halted = false ∧ (ctxSeq z.ctx q).clock = s.cycle + 48 ∧ (ctxSeq z.ctx q).pc = BitVec.ofNat 32 (imageNat byte (imageSeq q + 400) 8) ∧
          ∀ r, regOf (ctxSeq z.ctx q) r = if r = 0 then 0 else BitVec.ofNat 64 (imageNat byte (imageSeq q + 8 * r.toNat) 8)) ∧
      ∀ cause g, demandReady s dm = true → read = .error (cause, g) → (getPart s p).halt.raised = false →
        Completes (.contextResume c n) s (faults cause)) ∧
    -- the image of a context gives the context back
    (∀ w f, let x := k.ctx
      let b := imageByte x w f
      (∀ q, imageNat b (imageSeq q + 400) 8 = (ctxSeq x q).pc.toNat ∧ ∀ r : Reg, imageNat b (imageSeq q + 8 * r.toNat) 8 = (tget 0 (ctxSeq x q).g r.toNat).toNat) ∧
      imageNat b imageCore 8 = 2 ^ 64 - 1 ∧
      (∀ m j, m < 8 → x.rjobs[m]? = some j → imageNat b (imageEngine + 560 + 32 * m) 8 = j.parcels.toNat) ∧
      (∀ m, m < 65536 → imageNat b (16 * m) 16 = (storeGranule x m).toNat) ∧
      ∀ m i, m < 12 → i < 16 → ∀ e, (imageQueue x m).entries[i]? = some e → (imageQueue x m).entries.length ≤ 16 →
        entryFrom b (imageQueues + 4352 * m + 272 * (((imageQueue x m).head.toNat + i) % 16)) = e)

/-- R106, R378, R403, R407, R412: what HALTCTL does with a halted partition that is not being reset, and what a popped or acknowledged page request does. Resume
runs every context again at its stop points, without what remained of a WAITC; abandon ends the kernel that owns the first origin, with every context of
it, active, in the shadow or parked, and their handle slots; park all parks what has a free slot, at once or, while the shadow still spills, after it. The
model's choices: when HALTED falls at park all (log entry 68), how long a failed page is kept for the jobs that waited on it (log entry 41), and what
an acknowledgement does to a halted sequencer or to an entry that was not popped (log entry 80). -/
def Obligations.HaltControlAndPageRequests : Prop :=
  (∀ (p : Nat) (s : State),
    let x := getPart s p
    let acts : Prop := x.halt.halted = true ∧ x.halt.debug = false ∧ x.reset = .idle
    let Released (t : State) : Prop := (getPart t p).halt.raised = false ∧ (getPart t p).halt.debug = false
    (¬ acts → Completes (.haltctlResume p) s (fun t => t = s) ∧ Completes (.haltctlAbandon p) s (fun t => t = s) ∧
      Completes (.haltctlParkAll p) s fun t => t = s) ∧
    (x.halt.resumable = false → Completes (.haltctlResume p) s fun t => t = s) ∧
    (acts → x.halt.resumable = true → Completes (.haltctlResume p) s fun t => Released t ∧ (getPart t p).halt.halted = false ∧ MemSame s t ∧
      (∀ c ∈ coresOf s p, (getCtx t c).mHalted = false ∧ (getCtx t c).rHalted = false ∧ (getCtx t c).cell = (getCtx s c).cell ∧
        ∀ q, (getSeq t c q).halted = false ∧ (getSeq t c q).origin = none ∧ (getSeq t c q).clock = (getSeq s c q).clock - (getSeq s c q).waitc ∧ (getSeq t c q).waitc = 0 ∧
          (∀ r, regOf (getSeq t c q) r = regOf (getSeq s c q) r) ∧
          ((∀ i, (getSeq s c q).origin = some i → i.cause ≠ 0x02) → (getSeq t c q).pc = (getSeq s c q).pc)) ∧
      ∀ c, c ∉ coresOf s p → getCore t c = getCore s c) ∧
    (acts → Completes (.haltctlAbandon p) s fun t => Released t ∧ (getPart t p).halt.halted = false ∧ MemSameButStrays s t ∧
      (∀ k ∈ (getPart t p).kernels, k.serial.toNat = x.halt.serial → k.failed = some 5) ∧
      ∀ c ∈ coresOf s p, (∀ y ∈ contextsOf t c, ofKernel p x.halt.serial y = false) ∧
        (ofKernel p x.halt.serial (getCtx s c) = true → (getCtx t c).cell = none ∧ (getCtx t c).slots = [] ∧ (getCore t c).parkReq = none) ∧
        -- a batch buffer that a slot of it held is free again (R366)
        (∀ y ∈ contextsOf s c, ofKernel p x.halt.serial y = true → ∀ n h d i, n < 16 → tfind y.slots n = some h → h.batch = some (d, i) →
          i ∉ (getGath t d p).used) ∧
        (ofKernel p x.halt.serial (getCtx s c) = false → (getCtx t c).cell = (getCtx s c).cell ∧ ∀ q r, regOf (getSeq t c q) r = regOf (getSeq s c q) r)) ∧
    (acts → Completes (.haltctlParkAll p) s fun t => Released t ∧ MemSame s t ∧ t.cycle = s.cycle + 48 ∧
      ((getPart t p).halt.halted = true ↔ ∃ c ∈ coresOf s p, (getCtx t c).cell ≠ none ∧ (getCore t c).parkReq = none) ∧
      ∀ c ∈ coresOf s p, (canPark s c = false → getCore t c = getCore s c) ∧
        (canPark s c = true → (getCore s c).spilling ≠ none ∨ (getCore s c).shadow.cell ≠ none ∨ (getCore s c).shadow.lacc ≠ [] →
          getCore t c = { getCore s c with parkReq := some 0 }) ∧
        (canPark s c = true → (getCore s c).spilling = none → (getCore s c).shadow.cell = none → (getCore s c).shadow.lacc = [] →
          (getCore t c).ctx.cell = none ∧ (getCore t c).shadow.cell = (getCtx s c).cell ∧
          ∀ q r, regOf (ctxSeq (getCore t c).shadow q) r = regOf (getSeq s c q) r))) ∧
  ∀ (tag : BitVec 8) (fail : Bool) (s : State),
    let m := s.mgmt
    ((∀ r ∈ m.prq, r.popped = true) → Completes .prqPop s fun t => t = { s with mgmt := { m with prqhead := 0 } }) ∧
    (∀ l r rest, m.prq = l ++ r :: rest → (∀ o ∈ l, o.popped = true) → r.popped = false → Completes .prqPop s fun t =>
      t = { s with mgmt := t.mgmt } ∧
      t.mgmt = { m with prqhead := BitVec.ofNat 64 (1 + 2 * r.part + 2 ^ 4 * r.access.toNat + 2 ^ 6 * r.tag + if r.cancel then 2 ^ 14 else 0),
                        prqva := BitVec.ofNat 56 (r.page * 65536),
                        prq := l ++ (if r.cancel then rest else { r with popped := true } :: rest) }) ∧
    ((∀ r ∈ m.prq, r.tag = tag.toNat → r.cancel = true) → Completes (.prqAck tag fail) s fun t => t = s) ∧
    ∀ l r rest, m.prq = l ++ r :: rest → (∀ o ∈ l, o.tag ≠ tag.toNat ∨ o.cancel = true) → r.tag = tag.toNat → r.cancel = false →
      Completes (.prqAck tag fail) s fun t =>
        t.mgmt = { m with prq := m.prq.filter fun o => o.cancel || o.tag != tag.toNat } ∧ MemSame s t ∧
        (∀ c q, ((getSeq s c q).pageTag ≠ some tag.toNat → getSeq t c q = getSeq s c q) ∧
          ((getSeq s c q).pageTag = some tag.toNat → getSeq t c q = { getSeq s c q with pageTag := none, pageFail := fail && !(getSeq s c q).halted, wait := .none })) ∧
        (fail = true → (getPart t r.part).failedPages = r.waiters.map (fun w => (r.page, w)) ++ (getPart s r.part).failedPages) ∧ (fail = false → t.parts = s.parts)

/-- R374, R378, R422 to R424: the debugger. Nothing it does reaches a partition whose owner has not allowed debug or that is being reset; a debug halt raises
the halt line and a resume writes out the flits held meanwhile; a step lets one sequencer or engine advance by one unit, and an engine's fault leaves its
stop record and DBGST.FAULT; DBGDATA reads and writes the state of a halted context; consent withdrawn detaches and resumes. The model's choices:
a debug halt's core is DBGCTL.CORE (log entry 69), the layout of DBGDATA's spaces (log entry 71), and that a second STEP before the first has finished
does nothing, while clearing DBGOK resumes the partition also while a debug halt still spreads (log entry 80). -/
def Obligations.DebuggerEvents : Prop := ∀ (s : State),
  let b := s.mgmt.dbg
  let p := b.part.toNat
  let x := getPart s p
  let c := b.core.toNat
  let held : Prop := x.halt.halted = true ∧ x.halt.debug = true
  let ok : Prop := x.dbgok = true ∧ x.reset = .idle
  let Runs (r : Nat) (t : State) : Prop := (getPart t r).halt.raised = false ∧ (getPart t r).halt.halted = false ∧ (getPart t r).held = [] ∧ MemSame s t ∧
    t.agenda = (getPart s r).held.map .event ++ s.agenda ∧
    ∀ o ∈ coresOf s r, ∀ q, (getSeq t o q).halted = false ∧ ∀ i, regOf (getSeq t o q) i = regOf (getSeq s o q) i
  -- consent
  (¬ ok → Completes .debugHalt s (fun t => t = s) ∧ Completes .debugResume s (fun t => t = s) ∧ Completes .debugStep s (fun t => t = s) ∧
    Completes .debugEngineStep s (fun t => t = s) ∧ Completes (.debugAttach true) s (fun t => t = s) ∧
    ∀ v, Completes (.dbgdataWrite v) s fun t => t = s) ∧
  (ok → Completes (.debugAttach true) s fun t => t = { s with mgmt := { s.mgmt with dbg := { b with attach := true } } }) ∧
  Completes (.debugAttach false) s (fun t => t = { s with mgmt := { s.mgmt with dbg := { b with attach := false } } }) ∧
  -- halt and resume
  (ok → Completes .debugHalt s fun t => (getPart t p).halt.raised = true ∧ (getPart t p).halt.debug = true ∧ t.mgmt.dbg.stepping = false ∧ MemSame s t) ∧
  (ok → b.stepping = false →
    (x.halt.raised = false → Completes .debugHalt s fun t => t = setPart s p { x with halt := (getPart t p).halt } ∧ (getPart t p).halt.raised = true ∧
      (getPart t p).halt.debug = true ∧ (getPart t p).halt.cause = 0x40 ∧ (getPart t p).halt.core = c) ∧
    (x.halt.raised = true → x.halt.raisedAt ≠ s.cycle ∨ x.halt.halted = true →
      Completes .debugHalt s fun t => t = setPart s p { x with halt := { x.halt with debug := true } }) ∧
    (x.halt.raised = true → x.halt.raisedAt = s.cycle → x.halt.halted = false → Completes .debugHalt s fun t =>
      let h := (getPart t p).halt
      t = setPart s p { x with halt := h } ∧ h.raised = true ∧ h.debug = true ∧
        h.core = (if c < x.halt.core ∨ c = x.halt.core ∧ 0 < x.halt.unit then c else x.halt.core) ∧
        h.cause = (if c < x.halt.core ∨ c = x.halt.core ∧ 0 < x.halt.unit then 0x40 else x.halt.cause))) ∧
  (ok → ¬ held → Completes .debugResume s fun t => t = s) ∧
  (ok → held → Completes .debugResume s (Runs p)) ∧
  -- steps
  (ok → held → partOfCore s c = some p →
    let q : Seq := if b.seq = 0 then .L else if b.seq = 1 then .X else .S
    ((getSeq s c q).run ≠ .running ∨ b.stepping = true → Completes .debugStep s fun t => t = s) ∧
    ((getSeq s c q).run = .running → b.stepping = false → Completes .debugStep s fun t =>
      t.agenda = .seq c q :: s.agenda ∧ t.mgmt.dbg = { b with stepping := true, stepFault := false, stepCore := c, stepSeq := q } ∧ (getSeq t c q).halted = false ∧
      t.parts = s.parts ∧ MemSame s t ∧ (∀ o, o ≠ q → getSeq t c o = getSeq s c o) ∧
      ((getSeq s c q).origin = none → (getSeq t c q).pc = (getSeq s c q).pc)) ∧
    (6 ≤ b.eng.toNat → Completes .debugEngineStep s fun t => t = s) ∧
    let d := dieOfCore c
    let n := clusterOfCore c
    let lifted := setPart { s with mgmt := { s.mgmt with dbg := { b with stepFault := false } } } p { x with halt := { x.halt with raised := false } }
    -- engine k, freed from its halt, meets the events evs in turn and halts again
    let ESteps (k : Nat) (u : HaltUnit) (go : State) (evs : List Instr) (stop : State → State) : Prop :=
      b.eng.toNat = k → ∀ w, RunsThrough evs go w →
        let v := stop w
        let now := (getPart v p).halt
        let z := setPart v p { getPart v p with halt := { x.halt with norec := x.halt.norec || now.norec } }
        let write := writeRecord { z with mgmt := { z.mgmt with dbg := { z.mgmt.dbg with stepFault := true } } } p u
        (now.raised = false → Completes .debugEngineStep s fun t => t = z) ∧
        (∀ r, now.raised = true → write = .ok r → Completes .debugEngineStep s fun t => t = r) ∧
        ∀ r, now.raised = true → write = .wait r → Completes .debugEngineStep s fun t =>
          t = { s with mgmt := { r.mgmt with dbg := b }, agenda := s.agenda ++ [.event .debugEngineStep] }
    ESteps 0 (.matrix c) (setCtx lifted c { getCtx lifted c with mHalted := false })
      [.nestJobStart c, .shardLatchReady c, .shardLatchReady c, .beatLand c] (fun w => setCtx w c { getCtx w c with mHalted := true }) ∧
    ESteps 1 (.resolver c) (setCtx lifted c { getCtx lifted c with rHalted := false })
      [.resolverJobStart c, .resolverJobComplete c] (fun w => setCtx w c { getCtx w c with rHalted := true }) ∧
    ESteps 2 (.copy n) (setCluster lifted n { getCluster lifted n with halted := false })
      [.copyCardStart d p, .copyCardComplete n] (fun w => setCluster w n { getCluster w n with halted := true }) ∧
    ESteps 3 (.lamp d) (setLamp lifted d p { getLamp lifted d p with halted := false })
      [.itineraryStart d p, .itineraryEntryIssue d p] (fun w => setLamp w d p { getLamp w d p with halted := true }) ∧
    ESteps 4 (.walker d) (setWalker lifted d p { getWalker lifted d p with halted := false })
      [.blockEmit d p] (fun w => setWalker w d p { getWalker w d p with halted := true }) ∧
    ESteps 5 (.bmv d) (setDie lifted d { getDie lifted d with bmvHalted := (getDie lifted d).bmvHalted.filter (· != p) })
      [.bmvJobComplete c] (fun w => setDie w d { getDie w d with bmvHalted := p :: (getDie w d).bmvHalted })) ∧
  -- DBGDATA
  (∀ v, ¬ held → Completes (.dbgdataWrite v) s fun t => t = s) ∧
  (∀ v, ok → held → partOfCore s (selCore b.sel) = some p →
    let o := selCore b.sel
    let off := selOff b.sel / 8
    let q := selSeq b.sel
    (selSpace b.sel = 0 → Completes (.dbgdataWrite v) s fun t => OnlyCtx s o t ∧
      (∀ n, n ≠ off / 2 → storeGranule (getCtx t o) n = storeGranule (getCtx s o) n) ∧
      storeGranule (getCtx t o) (off / 2) = if off % 2 = 0 then (storeGranule (getCtx s o) (off / 2)).extractLsb' 64 64 ++ v
        else v ++ (storeGranule (getCtx s o) (off / 2)).extractLsb' 0 64) ∧
    (selSpace b.sel = 1 → off < 32 → Completes (.dbgdataWrite v) s fun t => OnlyCtx s o t ∧
      (∀ r : Reg, regOf (getSeq t o q) r = if r ≠ 0 ∧ r.toNat = off then v else regOf (getSeq s o q) r) ∧ ∀ i, i ≠ q → getSeq t o i = getSeq s o i)) ∧
  -- the owner's switch
  ∀ part allow,
    (partLive s part = false → Completes (.pdbgWrite part allow) s fun t => t = s) ∧
    (partLive s part = true →
      let y := getPart s part
      let halting : Prop := y.halt.raised = true ∧ y.halt.debug = true
      (allow = true ∨ p ≠ part ∧ ¬ halting → Completes (.pdbgWrite part allow) s fun t => t = setPart s part { y with dbgok := allow }) ∧
      (allow = false → halting → Completes (.pdbgWrite part allow) s fun t => Runs part t ∧ (getPart t part).dbgok = false ∧
        t.mgmt.dbg.attach = (b.attach && p != part)) ∧
      (allow = false → p = part → b.stepping = false → ¬ halting → Completes (.pdbgWrite part allow) s fun t =>
        t = { setPart s part { x with dbgok := false } with mgmt := { s.mgmt with dbg := { b with attach := false } } }))

/-! ## Partitions, boot and the loss of a die -/

/-- R240, R336, R368, R378 to R380, R403, R417: a partition reset by its three names, its end, and the configuration register. A reset withdraws consent and stops every core
at once; once every access is performed or dropped, the partition's state is at its reset values. Setting EN is refused while another partition holds a
cluster or the ASID or a cluster is not scrubbed; clearing EN destroys the partition. The model's choices: a destroy that finds a reset under way takes it over (log entry 80), and EN reads 1
until the destroy ends (log entry 111). -/
def Obligations.PartitionLifeCycle : Prop :=
  (∀ (p : Nat) (s : State),
    let x := getPart s p
    let Clean (t : State) : Prop := lateCount t p = 0 ∧ ∀ d, d < 4 → getLamp t d p = {} ∧ getGath t d p = {}
    let Same3 (P : State → Prop) : Prop := Completes (.partitionReset p) s P ∧ Completes (.prstctlGo p) s P ∧ Completes (.functionLevelReset p) s P
    -- a reset begins
    (x.en = false ∨ x.reset ≠ .idle → Same3 fun t => t = s) ∧
    (x.en = true → x.reset = .idle → Same3 fun t =>
      let z := getPart t p
      z.reset = .draining ∧ z.pirq = 0 ∧ z.consentRd = false ∧ z.consentWr = false ∧ z.budget = 0 ∧ z.en = true ∧ z.clusters = x.clusters ∧
      z.keys = x.keys ∧ MemSameButStrays s t ∧ (∀ o, o ≠ p → getPart t o = getPart s o) ∧
      (∀ n, n ∈ t.mgmt.exports ↔ n ∈ s.mgmt.exports ∧ n % 8 ≠ p) ∧
      (∀ r ∈ t.mgmt.prq, r.part = p → r.popped = false ∧ r.cancel = true) ∧
      (∀ c ∈ coresOf s p, (getCtx t c).mHalted = true ∧ (getCtx t c).rHalted = true ∧ ∀ q, (getSeq t c q).halted = true) ∧
      -- no context of it is parked, or on its way to a slot
      (∀ c ∈ coresOf s p, (getCore t c).parked = [] ∧ (getCore t c).spilling = none ∧ (getCore t c).parkReq = none ∧ (getCore t c).shadow.cell = none) ∧
      (∀ c, c ∉ coresOf s p → getCore t c = getCore s c) ∧
      ∀ d, (∀ j ∈ (getDie t d).bmv, j.owner.part ≠ p) ∧ ∀ j ∈ (getWalker t d p).jobs, j.owner.part ≠ p) ∧
    -- it ends
    (x.reset = .idle ∨ resetDrained s p = false → Completes (.resetAccessDrain p) s fun t => t = s) ∧
    (x.reset ≠ .idle → resetDrained s p = true → Completes (.resetAccessDrain p) s fun t =>
      let z := getPart t p
      let destroy : Prop := x.reset = .destroying
      z.reset = .idle ∧ z.kernels = [] ∧ z.streams = [] ∧ z.cnt = [] ∧ z.halt = {} ∧ z.wdog = 0x00400000 ∧ z.stopbase = 0 ∧ z.asid = x.asid ∧ z.proot = x.proot ∧ z.pirq = 8 ∧
      (destroy → z.en = false ∧ z.keys = [] ∧ z.integrity = 0) ∧ (¬ destroy → z.en = x.en ∧ z.keys = x.keys) ∧ Clean t ∧
      (p < 8 → t.mgmt.mirst.getLsbD p = true) ∧ t.mgmt.mirq.getLsbD 4 = true ∧ MemSame s t ∧
      (∀ e, e ∈ t.tlb ↔ e ∈ s.tlb ∧ (e.owner = .exportMap ∨ e.asid ≠ x.asid)) ∧
      -- an invalidation of the partition's address space completes (R379)
      t.mgmt.invBusy = (s.mgmt.invBusy && !(decide (s.mgmt.invRun.1 < 2) && s.mgmt.invRun.2.1 == x.asid)) ∧
      (∀ c ∈ coresOf s p, getCore t c = { temp := (getCore s c).temp, droop := (getCore s c).droop }) ∧
      (∀ n ∈ clustersOf s p, (getCluster t n).granules = [] ∧ (getCluster t n).reserved = [] ∧ ((getCluster t n).scrubbed = true ↔ ¬ destroy)) ∧
      ∀ c, c ∉ coresOf s p → getCore t c = getCore s c)) ∧
  -- configuration
  (∀ (p : Nat) (v : Word) (s : State),
    let x := getPart s p
    let en : Bool := v.getLsbD 63
    let kt : Bool := v.getLsbD 61
    let clusters : BitVec 36 := v.setWidth 36
    let Refused (t : State) : Prop := t = setPart s p { x with err := true }
    let taken : Prop := (∃ q, q < 8 ∧ q ≠ p ∧ (getPart s q).en = true ∧ ((getPart s q).clusters &&& clusters ≠ 0 ∨ (getPart s q).asid = x.asid)) ∨
      ∃ c, c < 36 ∧ clusters.getLsbD c = true ∧ (getCluster s c).scrubbed = false
    (8 ≤ p → Completes (.pcfgWrite p v) s fun t => t = s) ∧
    (p < 8 → (x.en = true → clusters ≠ x.clusters → Completes (.pcfgWrite p v) s Refused) ∧
      (x.en = false → en = true → taken → Completes (.pcfgWrite p v) s Refused) ∧
      (x.en = false → en = true → ¬ taken → Completes (.pcfgWrite p v) s fun t =>
        let z := getPart t p
        z.en = true ∧ z.clusters = clusters ∧ z.ktlbi = kt ∧ z.err = false ∧ z.asid = x.asid ∧ z.proot = x.proot ∧ z.keys = x.keys ∧
        z.kernels = [] ∧ z.streams = [] ∧ z.buckets = [] ∧ z.pirq = 0 ∧ z.integrity = Config.drawKey s.mgmt.draws ∧
        MemSame s t ∧ t.cores = s.cores ∧ (∀ o, o ≠ p → getPart t o = getPart s o) ∧ t.mgmt = { s.mgmt with draws := s.mgmt.draws + 1 } ∧
        -- every register of the device window starts at its reset value
        lateCount t p = 0 ∧ ∀ d, d < 4 → getLamp t d p = {} ∧ getGath t d p = {}) ∧
      (x.en = false → en = false → Completes (.pcfgWrite p v) s fun t => t = setPart s p { x with clusters := clusters, ktlbi := kt, err := false }) ∧
      (x.en = true → clusters = x.clusters → en = true → Completes (.pcfgWrite p v) s fun t => t = setPart s p { x with clusters := clusters, ktlbi := kt, err := false }) ∧
      (x.en = true → clusters = x.clusters → en = false → x.reset = .idle → Completes (.pcfgWrite p v) s fun t =>
        (getPart t p).reset = .destroying ∧ (getPart t p).en = true ∧ MemSameButStrays s t ∧ ∀ c ∈ coresOf s p, ∀ q, (getSeq t c q).halted = true) ∧
      (x.en = true → clusters = x.clusters → en = false → x.reset ≠ .idle → Completes (.pcfgWrite p v) s fun t =>
        t = setPart s p { x with clusters := clusters, ktlbi := kt, err := false, reset := .destroying }))) ∧
  (∀ (p : Nat) (s : State), p < 8 →
    let x := getPart s p
    (x.en = false → enableRefused s p x.clusters = true → Completes (.partitionEnable p) s fun t => t = setPart s p { x with err := true }) ∧
    (x.en = false → enableRefused s p x.clusters = false → Completes (.partitionEnable p) s fun t =>
      (getPart t p).en = true ∧ (getPart t p).clusters = x.clusters ∧ (getPart t p).ktlbi = x.ktlbi ∧ MemSame s t) ∧
    (x.en = true → Completes (.partitionEnable p) s fun t => t = setPart s p { x with err := false }) ∧
    (x.en = false → Completes (.partitionDestroy p) s fun t => t = setPart s p { x with err := false }) ∧
    (x.en = true → x.reset = .idle → Completes (.partitionDestroy p) s fun t => (getPart t p).reset = .destroying ∧
      (getPart t p).err = false ∧ MemSameButStrays s t ∧ ∀ c ∈ coresOf s p, ∀ q, (getSeq t c q).halted = true)) ∧
  ∀ (n : Nat) (s : State),
    (36 ≤ n ∨ partOfCluster s n ≠ none → Completes (.clusterScrubComplete n) s fun t => t = s) ∧
    (n < 36 → partOfCluster s n = none → Completes (.clusterScrubComplete n) s fun t => MemSame s t ∧
      getCluster t n = {} ∧ (∀ m, m ≠ n → getCluster t m = getCluster s m) ∧
      (∀ i, i < 16 → (getCore t (16 * n + i)).ctx = {}) ∧ ∀ c, c / 16 ≠ n → getCore t c = getCore s c)

/-- R15, R19, R51, R332, R333, R392, R393, R396 to R399, R425, R426: boot, the loss of a die, and package reset. A fenced die loses its cores and engines and stays fenced; D0's
loss restarts the package; the lowest healthy die becomes master and the lost cells of reissuable kernels are placed again. The model's choices: whole
gangs are placed again, on the lowest live die (log entry 72), and D0's loss is a package reset at once that keeps DRAM bytes, line tags and the count of
draws (log entry 73). -/
def Obligations.BootAndDieLoss : Prop :=
  (∀ (d : Nat) (s : State),
    let PackageReset (failure : Bool) (t : State) : Prop :=
      t.mem = s.mem ∧ t.cores = [] ∧ t.clusters = [] ∧ t.dies = [] ∧ t.parts = [] ∧ t.cycle = 0 ∧ t.tlb = [] ∧ t.mgmt.boot = .inReset ∧ t.mgmt.failure = failure ∧
      t.mgmt.mirq = 0 ∧ t.mgmt.exports = [] ∧ t.lineTags = s.lineTags
    let Fenced (t : State) : Prop := MemSameButStrays s t ∧ (getDie t d).fenced = true ∧ (getDie t d).bmv = [] ∧ (getDie t d).cards = [] ∧
      (getDie t d).lamps = [] ∧ (getDie t d).walkers = [] ∧ (getDie t d).gatherers = [] ∧ (getDie t d).mig.busy = false ∧ (∀ n, n / 9 = d → (getCluster t n).card = none) ∧
      t.mgmt.mifence.getLsbD d = true ∧ t.mgmt.mirq.getLsbD 5 = true ∧ t.parts = s.parts ∧
      (∀ c, c / 144 = d → (getCtx t c) = {} ∧ (getCore t c).parked = [] ∧ (getCore t c).range = none) ∧ (∀ c, c / 144 ≠ d → getCore t c = getCore s c) ∧
      -- what cards left undefined by straying aside, no other die changes
      ((∀ n c, (getCluster s n).card = some c → c.strays = false) → (getDie t d).lag = (getDie s d).lag ∧ ∀ e, e ≠ d → getDie t e = getDie s e)
    let lost : Prop := 4 ≤ d ∨ (getDie s d).fenced = true
    (lost → Completes (.dieFence d) s (fun t => t = s) ∧ Completes (.heartbeatTimeout d) s fun t => t = s) ∧
    (¬ lost → d = 0 → Completes (.dieFence d) s (PackageReset true) ∧ Completes (.heartbeatTimeout d) s (PackageReset true)) ∧
    (¬ lost → d ≠ 0 → Completes (.dieFence d) s (fun t => Fenced t ∧ t.cycle = s.cycle) ∧
      Completes (.heartbeatTimeout d) s fun t => Fenced t ∧ t.cycle = s.cycle + 16384) ∧
    (s.mgmt.failure = true → Completes .sidebandResetRequest s (PackageReset false)) ∧
    (s.mgmt.failure = false → Completes .sidebandResetRequest s fun t => t = s)) ∧
  -- the new master
  (∀ s : State, ((∀ d, d < 4 → (getDie s d).fenced = true) → Completes .masterElection s fun t => t = s) ∧
    ∀ m, m < 4 → (getDie s m).fenced = false → (∀ d, d < m → (getDie s d).fenced = true) → Completes .masterElection s fun t =>
      t.mgmt.master = m ∧ MemSame s t ∧ t.cores = s.cores ∧ ∀ p, p < 8 → ∀ home rest, liveDies s p = home :: rest →
        (getPart t p).kernels.length = (getPart s p).kernels.length ∧
        ∀ (n : Nat) k, (getPart s p).kernels[n]? = some k → ∃ k', (getPart t p).kernels[n]? = some k' ∧ k'.serial = k.serial ∧ k'.record = k.record ∧ k'.ended = k.ended ∧
          let gone (o : Nat) : Prop := o ∈ k.started ∧ o ∉ k.ended ∧ o ∉ heldOrdinals s p k.serial.toNat
          let Reissued (lo hi : Nat) : Prop := (lo, hi) ∈ k'.reissued
          (∀ o, o ∈ k'.started ↔ o ∈ k.started ∧ ¬ gone o) ∧
          -- ranges of the lost die, or owned from it, go to the survivors
          (∀ r ∈ k.ranges, (rangeLost s r = false → r ∈ k'.ranges) ∧ (rangeLost s r = true → Reissued r.next r.hi ∧
            { r with die := if (getDie s r.die).fenced then home else r.die, owner := none } ∈ k'.ranges)) ∧
          ((∀ o, ¬ gone o) ∨ k.failed ≠ none → k'.failed = k.failed) ∧
          ((∃ o, gone o) → k.failed = none → kNoReissue k.record = true → k'.failed = some 4) ∧
          ((∃ o, gone o) → k.failed = none → kNoReissue k.record = false → k'.failed = none ∧
            ∀ o, gone o → 0 < kGang k.record → ∃ r ∈ k'.ranges, r.next ≤ o ∧ o < r.hi ∧ r.die = home ∧ r.owner = none ∧ Reissued r.next r.hi)) ∧
  -- boot
  (∀ (images : List Image) (s : State),
    let m := s.mgmt
    (m.boot ≠ .inReset → Completes (.perstDeassert images) s fun t => t = s) ∧
    (m.boot = .inReset → Completes (.perstDeassert images) s fun t =>
      t.cycle = 0 ∧ MemSame s t ∧ t.parts = s.parts ∧ t.mgmt.draws = m.draws + 1 ∧ t.mgmt.treeKey = Config.drawKey m.draws ∧ t.cxl = staleCxl s.cxl ∧
      (images ≠ [] → (∀ x ∈ images, imageAccepted x = true) → t.mgmt.boot = .stage1) ∧
      (images = [] ∨ (∃ x ∈ images, imageAccepted x = false) → t.mgmt.boot = .failed) ∧
      (∀ x, images = [x] → imageAccepted x = true → tget 0 t.mgmt.meas 0 = extendMeasurement (tget 0 m.meas 0) x.digest)) ∧
    (m.boot ≠ .stage1 → Completes .stage1Ready s fun t => t = s) ∧
    (m.boot = .stage1 → Completes .stage1Ready s fun t => t.mgmt.boot = .ready ∧ t.mgmt.mirq.getLsbD 0 = true ∧ MemSame s t ∧ t.parts = s.parts ∧
      (∀ n, n ∈ t.mgmt.ports ↔ n ∈ Config.allowedPorts ∧ n < 36) ∧
      ∀ r, r ∈ t.mgmt.routes ↔ r ∈ Config.allowedRoutes ∧ r.1 ∈ t.mgmt.ports)) ∧
  -- attestation
  ∀ (p : Nat) (nonce peer : BitVec 256) (s : State),
    let secret := Config.drawKey s.mgmt.draws
    let share := x25519 secret 9
    (8 ≤ p → Completes (.attestationRequest p nonce peer) s fun t => t = s) ∧
    (p < 8 → Completes (.attestationRequest p nonce peer) s fun t =>
      getPart t p = { getPart s p with share := share, transport := some (transportKey p nonce secret peer) } ∧
      (∀ o, o ≠ p → getPart t o = getPart s o) ∧ MemSame s t ∧ t.mgmt.draws = s.mgmt.draws + 1 ∧
      ∃ l, t.mgmt.reports = s.mgmt.reports ++ [signReport (tget 0 s.mgmt.meas 0) l] ∧ l.head? = some nonce.toNat ∧ l.getLast? = some share.toNat ∧
        ∀ i, i < 8 → l[1 + i]? = some (tget 0 s.mgmt.meas i).toNat)

/-! ## Isolation, migration and registers -/

/-- R374, R383, R384, R387, R391, R392, R394: consent to export units, one line through the management memory port, invalidations, the key store, and
re-keying. The model's choices: what a re-key counts anew (log entry 75), a page not present refuses the port's access (log entry 78), and BUDGET has
been decremented when a permitted access then fails (log entry 112). -/
def Obligations.IsolationServices : Prop :=
  -- consent
  (∀ (p unit : Nat) (s : State),
    let live : Prop := (getPart s p).en = true ∧ (getPart s p).reset = .idle
    let Exports (t : State) (P : Nat → Prop) : Prop := t = { s with mgmt := { s.mgmt with exports := t.mgmt.exports } } ∧ ∀ n, n ∈ t.mgmt.exports ↔ P n
    (¬ live → Completes (.exportGrant p unit) s (fun t => t = s) ∧ Completes (.exportWithdraw p unit) s fun t => t = s) ∧
    (live → unit < 262144 → Completes (.exportGrant p unit) s fun t => Exports t fun n => n = 8 * unit + p ∨ n ∈ s.mgmt.exports) ∧
    (live → Completes (.exportWithdraw p unit) s fun t => Exports t fun n => n ∈ s.mgmt.exports ∧ n ≠ 8 * unit + p)) ∧
  -- the management memory port
  (∀ (p va : Nat) (write : Bool) (data : BitVec 512) (s : State),
    let x := getPart s p
    let a := va / 64 * 64
    let need : Need := { rd := !write, wr := write }
    let may : Prop := x.en = true ∧ x.reset = .idle ∧ (write = true → x.consentWr = true) ∧ (write = false → x.consentRd = true) ∧ x.budget ≠ 0
    let Refused (t : State) : Prop := t = { s with mgmt := { s.mgmt with portResult := some none } }
    (¬ may → Completes (.mgmtMemoryAccess p va write data) s Refused) ∧
    (∀ dm g, may → resolveVirtual s 0 p a 64 need = .error (.busy dm, g) → Completes (.mgmtMemoryAccess p va write data) s fun t => t = awaitDemand s dm) ∧
    (∀ e g, may → resolveVirtual s 0 p a 64 need = .error (e, g) → (∀ dm, e ≠ .busy dm) → Completes (.mgmtMemoryAccess p va write data) s fun t =>
      MemSameButCounters s t ∧ (getPart t p).budget = x.budget ∧ t.mgmt.portResult = some none) ∧
    ∀ ps, may → resolveVirtual s 0 p a 64 need = .ok ps →
      let charged := cacheAccess (setPart s p { x with budget := x.budget - 1 }) 0 p a 64
      let dm := engineDemand s 0 p a 64 none ps
      let ready : Prop := demandReady s dm = true ∧ (write = true → writeWaits s ps = false)
      (¬ ready → Completes (.mgmtMemoryAccess p va write data) s fun t => t = awaitDemand s dm) ∧
      (∀ byte lost, ready → write = false → readAccess charged 0 ps = .ok (byte, lost) →
        Completes (.mgmtMemoryAccess p va write data) s fun t => MemSameButCounters s t ∧ (getPart t p).budget = x.budget - 1 ∧
          ((∃ i, i < 64 ∧ lost i = true) → t.mgmt.portResult = some none) ∧
          ((∀ i, i < 64 → lost i = false) → ∃ v : BitVec 512, t.mgmt.portResult = some (some v) ∧ ∀ i, i < 64 → v.extractLsb' (8 * i) 8 = byte i)) ∧
      (∀ k, ready → write = false → readAccess charged 0 ps = .error k → Completes (.mgmtMemoryAccess p va write data) s fun t => MemSameButCounters s t ∧
        (getPart t p).budget = x.budget - 1 ∧ t.mgmt.portResult = some none) ∧
      let stored := writeAccess charged ps (fun i => (natBytes data.toNat 64).getD i 0) (fun _ => false) .none false (clockVector charged 0 [])
      (∀ k, ready → write = true → stored = .error k → Completes (.mgmtMemoryAccess p va write data) s fun t => MemSameButCounters s t ∧
        (getPart t p).budget = x.budget - 1 ∧ t.mgmt.portResult = some none) ∧
      ∀ u st, ready → write = true → stored = .ok (u, st) →
        Completes (.mgmtMemoryAccess p va write data) s fun t => t.mem = u.mem ∧ (getPart t p).budget = x.budget - 1 ∧ t.mgmt.portResult = some (some data)) ∧
  -- invalidation: what INVADDR and INVCTL hold when it starts is what it names (that an event leaves the fields it does not name alone: log entry 100)
  (∀ (asid page unit : Nat) (s : State),
    let m := s.mgmt
    let Go (n : Management) (t : State) : Prop :=
      t = { s with mgmt := if m.invBusy then n else { n with invBusy := true, invRun := (n.invKind.toNat, n.invAsid, n.invPage.toNat) } }
    Completes (.invalidatePage asid page) s (Go { m with invKind := 0, invAsid := BitVec.ofNat 16 asid, invPage := BitVec.ofNat 56 (page * 65536) }) ∧
    Completes (.invalidateAsid asid) s (Go { m with invKind := 1, invAsid := BitVec.ofNat 16 asid }) ∧
    Completes .invalidateAll s (Go { m with invKind := 2 }) ∧
    Completes (.invalidateExportUnit unit) s (Go { m with invKind := 3, invPage := BitVec.ofNat 56 (unit * 65536) }) ∧
    (m.invBusy = false → Completes .invalidationDone s fun t => t = s) ∧
    let kind := m.invRun.1
    let space := m.invRun.2.1
    let va := m.invRun.2.2
    let named (e : TlbEntry) : Prop :=
      if e.owner = .exportMap then 2 < kind ∧ e.page = va / 65536
      else kind = 2 ∨ (kind < 2 ∧ e.asid = space ∧ (kind = 0 → va / 2 ^ e.size = e.page))
    -- an access that used a named entry, dropped ones included, has not left its old frame
    let es := namedEntries s (invNames m.invRun)
    let used : Prop := ∃ p, p < 8 ∧ if 2 < kind then exportUses s p es = true
      else (kind < 2 → (getPart s p).asid = space) ∧ accessUses s p (if kind = 0 then some va else none) es = true
    -- for an address space whose partition is being reset it ends with the reset (R379)
    let inReset : Prop := ∃ p, p < 8 ∧ (getPart s p).reset ≠ .idle ∧ kind < 2 ∧ (getPart s p).asid = space
    (m.invBusy = true → used ∨ inReset → Completes .invalidationDone s fun t => t = s) ∧
    (m.invBusy = true → ¬ used → ¬ inReset → Completes .invalidationDone s fun t =>
      t = { s with tlb := t.tlb, tlbGone := t.tlbGone, mgmt := { m with invBusy := false } } ∧ (∀ e, e ∈ t.tlb ↔ e ∈ s.tlb ∧ ¬ named e) ∧
        ∀ e, e ∈ t.tlbGone ↔ e ∈ s.tlbGone ∧ ¬ named e)) ∧
  -- the key store
  (∀ (s : State),
    let m := s.mgmt
    let p := m.ksPart.toNat
    let x := getPart s p
    let Result (t : State) (y : Partition) (r : BitVec 2) : Prop := t = { setPart s p y with mgmt := { m with ksResult := r, ksBusy := false } }
    (x.en = false → Completes .keyLoad s fun t => t = { s with mgmt := { m with ksResult := 2, ksBusy := false } }) ∧
    (x.en = true → (∀ k, x.transport = some k → unwrapKey k (wrappedRecord m) = none) →
      Completes .keyLoad s fun t => t = { s with mgmt := { m with ksResult := 1, ksBusy := false } }) ∧
    (∀ k key, x.en = true → x.transport = some k → unwrapKey k (wrappedRecord m) = some key → Completes .keyLoad s fun t =>
      Result t { x with keys := tput x.keys m.ksSlot.toNat key } 0 ∧ tfind (getPart t p).keys m.ksSlot.toNat = some key) ∧
    Completes .keyClear s fun t => t = setPart s p { x with keys := (getPart t p).keys } ∧ ∀ i, tfind (getPart t p).keys i =
      if i = m.ksSlot.toNat then none else tfind x.keys i) ∧
  -- re-keying: of the frames under the node whose counter is full, or of the one frame whose MAJOR is
  ∀ (frame : Nat) (s : State),
    let line0 := 0x2000_0000_0000 / 64
    (fullNode s frame = none → majorFull s frame = false → Completes (.cxlRekey frame) s fun t => t = s) ∧
    ∀ lo hi, (match fullNode s frame with
        | some (l, child) => lo = child / 8 * 8 ^ l ∧ hi = (child / 8 + 1) * 8 ^ l
        | none => majorFull s frame = true ∧ lo = 16 * frame ∧ hi = 16 * frame + 16) →
      let under (f : Nat) : Prop := lo / 16 ≤ f ∧ f < (hi + 15) / 16
      let raised (f : Nat) : Prop := under f ∧ epochOf s.cxl f < 255
      Completes (.cxlRekey frame) s fun t => t = { s with cxl := t.cxl } ∧
        (∀ f, (raised f → epochOf t.cxl f = epochOf s.cxl f + 1) ∧ (¬ raised f → epochOf t.cxl f = epochOf s.cxl f) ∧
          (cxlExhausted t.cxl f = true ↔ cxlExhausted s.cxl f = true ∨ (under f ∧ epochOf s.cxl f = 255))) ∧
        (∀ g, (raised (g / 16) → tget 0 t.cxl.major g = 0) ∧ (¬ raised (g / 16) → tget 0 t.cxl.major g = tget 0 s.cxl.major g)) ∧
        (∀ i, (raised (i / 1024) → tget 0 t.cxl.minor i = if (tfind s.lineTags (line0 + i)).isSome then 1 else 0) ∧
          (¬ raised (i / 1024) → tget 0 t.cxl.minor i = tget 0 s.cxl.minor i)) ∧
        -- counter blocks and nodes written anew are under the tree key of this boot (R392)
        (∀ l n, (l, n) ∈ t.cxl.stale ↔ (l, n) ∈ s.cxl.stale ∧ ¬ (lo ≤ n * 8 ^ l ∧ (n + 1) * 8 ^ l ≤ hi ∧ raised (n * 8 ^ l / 16))) ∧
        ∀ l n, 0 < l → nodeCounter t.cxl (l, n) =
          match fullNode s frame with
          | some (top, _) => if l ≤ top ∧ lo / 8 ^ (l - 1) ≤ n ∧ n < hi / 8 ^ (l - 1) then 0 else nodeCounter s.cxl (l, n)
          | none => nodeCounter s.cxl (l, n)

/-- R7, R245 to R249, R425: a migration request is refused when its entries or frame do not fit; a swap exchanges the frames of two pages; an optimistic copy
repoints its entry only when no write came between; a frame written while still mapped reads undefined data; a fenced die's engine does nothing. The
model's choices: the size of a page is searched in the tables (log entry 46), a swap is one step at its end (log entry 47), a page with a line that
fails its CXL check is not moved (log entry 98), and which frames pass as free-standing (log entry 114). -/
def Obligations.MigrationEvents : Prop := ∀ (d : Nat) (s : State),
  let m := (getDie s d).mig
  let swap := setMig s d { m with mode := false }
  let copy := setMig s d { m with mode := true }
  let Ended (result : BitVec 2) (t : State) : Prop := (getDie t d).mig.busy = false ∧ (getDie t d).mig.result = result ∧ t.mgmt.mirq.getLsbD 3 = true
  let Begun (mode : Bool) (part partB : Nat) (wver : List (BitVec 32)) (t : State) : Prop :=
    t = setDie s d { getDie s d with mig := { m with mode := mode, busy := true, part := part, partB := partB, wver := wver } }
  let fits (u : State) (a : MigPage) (mode : Bool) : Prop := bitOf a.leaf.toNat 9 = mode ∧ isDram u (leafFrame a.leaf) = true
  let here : Prop := (getDie s d).fenced = false
  let still : Prop := ∀ e, e < 4 → (getDie s e).inbox = []
  -- but for a frame that is still mapped, memory holds what u holds
  let Moved (u w : State) (bits : Nat) (except : List Nat) (t : State) : Prop := ∀ n,
    stillMapped w d m.frame.toNat bits except = false ∨ n < m.frame.toNat ∨ m.frame.toNat + 2 ^ bits ≤ n → memGet t.mem n = memGet u.mem n
  (m.busy = true ∨ ¬ here → Completes (.migrateSwap d) s (fun t => t = s) ∧ Completes (.migrateOptimistic d) s fun t => t = s) ∧
  (¬ here → Completes (.migrationEnd d) s fun t => t = s) ∧
  (m.busy = false → here →
    (migPage swap d m.ptea.toNat = none ∨ migPage swap d m.pteb.toNat = none → Completes (.migrateSwap d) s fun t => Ended 2 t ∧ MemSame s t) ∧
    (∀ a b, migPage swap d m.ptea.toNat = some a → migPage swap d m.pteb.toNat = some b →
      let ok : Prop := a.bits = b.bits ∧ fits swap a false ∧ fits swap b false ∧ frameOk swap m.frame.toNat a.bits = true
      (¬ ok → Completes (.migrateSwap d) s fun t => Ended 2 t ∧ MemSame s t) ∧ (ok → Completes (.migrateSwap d) s (Begun false a.part b.part m.wver))) ∧
    (migPage copy d m.ptea.toNat = none → Completes (.migrateOptimistic d) s fun t => Ended 2 t ∧ MemSame s t) ∧
    (∀ a, migPage copy d m.ptea.toNat = some a →
      let ok : Prop := fits copy a true ∧ frameOk copy m.frame.toNat a.bits = true
      (¬ ok → Completes (.migrateOptimistic d) s fun t => Ended 2 t ∧ MemSame s t) ∧
      (ok → Completes (.migrateOptimistic d) s (Begun true a.part a.part (wverOf copy (leafFrame a.leaf) a.bits)))) ∧
    Completes (.migrationEnd d) s fun t => t = s) ∧
  ((∃ e, e < 4 ∧ (getDie s e).inbox ≠ []) → Completes (.migrationEnd d) s fun t => t = s) ∧
  (m.busy = true → here → still → migPage s d m.ptea.toNat = none → Completes (.migrationEnd d) s fun t => Ended 2 t ∧ MemSame s t) ∧
  (∀ a, migPage s d m.ptea.toNat = some a → frameBusy s (leafFrame a.leaf) a.bits = true → Completes (.migrationEnd d) s fun t => t = s) ∧
  (m.busy = true → here → still → ∀ a, migPage s d m.ptea.toNat = some a → frameBusy s (leafFrame a.leaf) a.bits = false →
    let lost (b : MigPage) : Prop := pageFails s d b (leafFrame b.leaf) = true
    let kept : Prop := wverOf s (leafFrame a.leaf) a.bits = m.wver
    (m.mode = true → kept → ¬ lost a → Completes (.migrationEnd d) s fun t => Ended 0 t ∧
      (let u := repoint (copyPage s d a (leafFrame a.leaf) m.frame.toNat) d a m.frame.toNat
       Moved u (dropLeaf (settleViews u) a) a.bits [a.pte] t) ∧
      (∀ e, e < 4 → (getDie t e).lag = []) ∧ ∀ e ∈ t.tlb, e ∈ s.tlb ∧ ¬ (e.asid = (getPart s a.part).asid ∧ e.leaf = a.leaf)) ∧
    (m.mode = true → ¬ kept ∨ lost a → Completes (.migrationEnd d) s fun t => Ended 1 t ∧ t.tlb = s.tlb ∧
      ∀ n, n < m.frame.toNat ∨ m.frame.toNat + 2 ^ a.bits ≤ n → memGet t.mem n = memGet s.mem n) ∧
    (∀ b, m.mode = false → migPage s d m.pteb.toNat = some b → frameBusy s (leafFrame b.leaf) b.bits = false → (lost a ∨ lost b) →
      Completes (.migrationEnd d) s fun t => Ended 1 t ∧ MemSame s t) ∧
    (∀ b, m.mode = false → migPage s d m.pteb.toNat = some b → frameBusy s (leafFrame b.leaf) b.bits = false → ¬ lost a → ¬ lost b →
      Completes (.migrationEnd d) s fun t => Ended 0 t ∧
      (let s1 := copyPage s d a (leafFrame a.leaf) m.frame.toNat
       let s2 := copyPage s1 d b (leafFrame b.leaf) (leafFrame a.leaf)
       let s3 := copyPage s2 d a m.frame.toNat (leafFrame b.leaf)
       let u := repoint (repoint s3 d a (leafFrame b.leaf)) d b (leafFrame a.leaf)
       Moved u (dropLeaf (dropLeaf (settleViews u) a) b) a.bits [] t) ∧
      ∀ e ∈ t.tlb, e ∈ s.tlb ∧ ¬ (e.asid = (getPart s a.part).asid ∧ e.leaf = a.leaf) ∧ ¬ (e.asid = (getPart s b.part).asid ∧ e.leaf = b.leaf)) ∧
    (m.mode = false → migPage s d m.pteb.toNat = none → Completes (.migrationEnd d) s fun t => Ended 2 t ∧ MemSame s t) ∧
    ∀ b, m.mode = false → migPage s d m.pteb.toNat = some b → frameBusy s (leafFrame b.leaf) b.bits = true → Completes (.migrationEnd d) s fun t => t = s)

/-- R219, R224, R244, R305, R368, R371 to R376, R395, R411: registers written from outside, the host's window into a partition, and memory errors. A register of
a device window takes writes only while its partition is enabled and no reset runs, PIRQ apart. The model's choices: an address of the host's window is
a full physical address or an offset of 64 GiB (log entries 76 and 100), the management window answers from stage 1 on (log entry 100), CXLPOP keeps what
is written (log entry 113), and every die sees a lost word at once (log entry 97). -/
def Obligations.RegistersAndWindows : Prop :=
  (∀ (p : Nat) (v : Word) (o : Nat) (s : State),
    let x := getPart s p
    let Sets (off : Nat) (y : Partition) : Prop := Completes (.registerWrite (.device p) off v) s fun t => t = setPart s p y
    (x.en = false → Completes (.registerWrite (.device p) o v) s fun t => t = s) ∧
    (x.reset ≠ .idle → o / 8 ≠ 1 → Completes (.registerWrite (.device p) o v) s fun t => t = s) ∧
    (x.en = true → Sets 0x08 { x with pirq := x.pirq &&& ~~~ v.setWidth 4 }) ∧
    (x.en = true → x.reset = .idle →
      Completes (.registerWrite (.device p) 0x10 v) s (fun t => getPart t p = { x with pimask := v.setWidth 4 } ∧ MemSame s t ∧
        ∃ l, t.mgmt.messages = s.mgmt.messages ++ l ∧
          ∀ m, m ∈ l ↔ ∃ i, i < 4 ∧ m = .vf p i ∧ x.pirq.getLsbD i = true ∧ v.getLsbD i = true ∧ x.pimask.getLsbD i = false) ∧
      Sets 0x30 { x with consentRd := v.getLsbD 0, consentWr := v.getLsbD 1, budget := (v.extractLsb' 16 32) } ∧
      Sets 0x40 { x with wdog := v.setWidth 32 } ∧
      Sets 0x48 { x with stopbase := BitVec.ofNat 56 (v.toNat / 2 ^ 20 % 2 ^ 36 * 2 ^ 20) } ∧
      Sets 0x60 { x with cxpool := BitVec.ofNat 56 (v.toNat / 2 ^ 21 % 2 ^ 35 * 2 ^ 21) } ∧
      Sets 0x68 { x with cxper := v.setWidth 3 } ∧
      -- the quanta that have passed count under the old AGEQ (R316)
      Completes (.registerWrite (.device p) 0x11800 v) s (fun t => t = setPart s p (getPart t p) ∧
        { getPart t p with streams := [] } = { x with ageq := v.setWidth 32, streams := [] } ∧
        ∀ n, n < 64 → getStream t p n = if streamReady s p n = true then agedStream s p n else getStream s p n) ∧
      (∀ n, n < 256 → Sets (0x11000 + 8 * n) { x with cnt := tput x.cnt n v }) ∧
      ∀ n, n < 64 →
        let y := getStream s p n
        Sets (0x10000 + 64 * n) { x with streams := tput x.streams n { y with base := BitVec.ofNat 64 (v.toNat / 64 % 2 ^ 50 * 64) } } ∧
        (v.toNat % 2 ^ 16 < 2 ^ y.logsize.toNat → Sets (0x10010 + 64 * n) { x with streams := tput x.streams n { y with tail := v.setWidth 16 } }) ∧
        let z : Stream := { y with logsize := v.setWidth 4, prio := v.extractLsb' 4 2, en := v.getLsbD 6 }
        (v.getLsbD 7 = false → Sets (0x10008 + 64 * n) { x with streams := tput x.streams n z }))) ∧
  (∀ (v : Word) (s : State),
    let m := s.mgmt
    let Sets (off : Nat) (n : Management) : Prop := Completes (.registerWrite .management off v) s fun t => t = { s with mgmt := n }
    let Keeps (off : Nat) : Prop := Completes (.registerWrite .management off v) s fun t => t = s
    let free : Prop := ∀ p, p < 8 → (getPart s p).en = false
    -- the window takes writes from stage 1 of the boot on (R396)
    (m.boot = .inReset ∨ m.boot = .failed → ∀ off, Keeps off) ∧
    (m.boot = .stage1 ∨ m.boot = .ready →
    Completes (.registerWrite .management 0x0008 v) s (fun t => t = { s with mgmt := { m with mimask := v.setWidth 6, messages := t.mgmt.messages } } ∧
      ∃ l, t.mgmt.messages = m.messages ++ l ∧
        ∀ x, x ∈ l ↔ ∃ i, i < 6 ∧ x = .pf0 i ∧ m.mirq.getLsbD i = true ∧ v.getLsbD i = true ∧ m.mimask.getLsbD i = false) ∧
    Sets 0x0000 { m with mirq := m.mirq &&& ~~~ v.setWidth 6 } ∧ Sets 0x0010 { m with mirst := m.mirst &&& ~~~ v.setWidth 8 } ∧
    Keeps 0x0018 ∧ Sets 0x1000 { m with pwrlim := some (v.setWidth 16) } ∧
    (free → Sets 0x1008 { m with cxlpop := v.setWidth 15 } ∧ Sets 0x1010 { m with cxldata := v.setWidth 15 } ∧
      Sets 0x1020 { m with expbase := BitVec.ofNat 52 (v.toNat / 4096 % 2 ^ 40 * 4096) }) ∧
    (¬ free → Keeps 0x1008 ∧ Keeps 0x1010 ∧ Keeps 0x1020) ∧ Keeps 0x1018 ∧
    (∀ n, n < 13 → Sets (0x2000 + 8 * n) { m with ksdata := tput m.ksdata n v }) ∧
    ∀ p, p < 8 →
      let x := getPart s p
      let Conf (off : Nat) (y : Partition) : Prop := Completes (.registerWrite .management (0x10000 + 0x1000 * p + off) v) s fun t => t = setPart s p y
      (x.en = false ∨ v.setWidth 16 = x.asid → Conf 0x08 { x with asid := v.setWidth 16, err := false }) ∧
      (x.en = true → v.setWidth 16 ≠ x.asid → Conf 0x08 { x with err := true }) ∧
      ∀ d r, d < 4 → r < 4 →
        let old : Bucket := tget {} x.buckets (4 * d + r)
        let new : Bucket := { old with rate := v.setWidth 24, burst := v.extractLsb' 24 24 }
        Conf (0x100 + 0x40 * d + 8 * r) { x with buckets := tput x.buckets (4 * d + r) new })) ∧
  -- the host's window
  (∀ (p addr : Nat) (write physical : Bool) (data : List Byte) (s : State),
    let x := getPart s p
    let live : Prop := x.en = true ∧ x.reset = .idle
    let Failed (t : State) : Prop := t = { s with mgmt := { s.mgmt with windowResult := none } }
    let Run (P : State → Prop) : Prop := Completes (.hostWindowAccess p physical addr write data) s P
    let inside : Prop := addr + data.length ≤ 2 ^ 36
    let ps := physPieces addr data.length 0 p
    let place : Prop := write = true ∧ x.kernels = [] ∧ tfind x.keys 0 ≠ none ∧ ∀ g ∈ spans addr data.length, isDram s g.1 = true
    let ready : Prop := tokensReady s ps = true ∧ writeWaits s ps = false
    let write' := engineWrite s 0 p addr data
    let read := engineRead s 0 p addr data.length { rd := true }
    (¬ live ∨ ¬ inside → Run Failed) ∧
    (live → inside → physical = true → ¬ place → Run Failed) ∧
    (live → inside → physical = true → place → ¬ ready → Run fun t => t = awaitDemand s (tokensOf s ps)) ∧
    let placed := writeAccess s ps (fun i => data.getD i 0) (fun _ => false) .none false (clockVector s 0 [])
    (∀ k, live → inside → physical = true → place → ready → placed = .error k → Run Failed) ∧
    (∀ u st, live → inside → physical = true → place → ready → placed = .ok (u, st) →
      Run fun t => t.mem = u.mem ∧ t.mgmt.windowResult = some data) ∧
    (live → inside → physical = false → write = true →
      (∀ u k g, write' = .stop u k g → Run fun t => t = { u with mgmt := { u.mgmt with windowResult := none } }) ∧ (∀ u, write' = .wait u → Run fun t => t = { u with mgmt := { u.mgmt with windowResult := none } }) ∧
      ∀ u, write' = .ok u → Run fun t => t = { u with mgmt := { u.mgmt with windowResult := some data } }) ∧
    (live → inside → physical = false → write = false →
      (∀ u k g, read = .stop u k g → Run fun t => t = { u with mgmt := { u.mgmt with windowResult := none } }) ∧ (∀ u, read = .wait u → Run fun t => t = { u with mgmt := { u.mgmt with windowResult := none } }) ∧
      ∀ v, read = .ok v → Run fun t => MemSameButCounters s t ∧ t.mgmt.windowResult = some (natBytes v data.length))) ∧
  -- errors and refresh
  ∀ (word n g : Nat) (s : State),
    let d := homeOf (64 * word)
    (isDram s (64 * word) = false → inMeta s (64 * word) = false → ∀ b, Completes (.softError (.dram word) b) s fun t => t = s) ∧
    (isDram s (64 * word) = true ∨ inMeta s (64 * word) = true → Completes (.softError (.dram word) true) s (fun t => t = setDie s d { getDie s d with eccCount := (getDie s d).eccCount + 1 }) ∧
      Completes (.softError (.dram word) false) s fun t => t = { s with lostWords := t.lostWords } ∧ ∀ w, w ∈ t.lostWords ↔ w = word ∨ w ∈ s.lostWords) ∧
    Completes (.softError (.sram n g) true) s (fun t => t = s) ∧
    (n < 36 → g < 524288 → Completes (.softError (.sram n g) false) s fun t => MemSame s t ∧
      (sramGet (getCluster t n) g).bad = true ∧ (sramGet (getCluster t n) g).data = Config.freeGranule s.freeCtr ∧
      (sramGet (getCluster t n) g).f = (sramGet (getCluster s n) g).f ∧ ∀ k, k ≠ g → sramGet (getCluster t n) k = sramGet (getCluster s n) k) ∧
    Completes (.subarrayRefresh n g) s fun t => t = s

/-! ## Completion -/

/-- R45, R49, R103, R137, R190, R192, R198 to R200, R272, R278, R385, R386: where an instruction of a sequencer completes. X's vector instructions issue when
their queue sources hold entries and their destination has room, and a job of the matrix path when there is room for it; the others under the conditions
named. Control then goes on after the instruction; the statements above say what else has happened. -/
def Obligations.InstructionsComplete : Prop :=
  -- X's vector instructions
  (∀ (f di si : IFmt) (ff df sf : FFmt) (fm : DFmt) (cb : CbBits) (r : Round) (p : Pred) (sat : Bool) (sel : Sel) (d a b c : Opnd) (kd ka kb t : BitVec 3)
      (op : KOpKind) (gd ga gb : Reg) (q : XQ) (s : State),
    let Goes (i : Instr) (srcs : List Opnd) (d : Opnd) : Prop := XReady s srcs d → Completes i s (Retires s 2)
    let Into (i : Instr) (srcs : List Opnd) : Prop := s.cur.2 = .X → queuesReady (xContext s) srcs = true → Completes i s (Retires s 2)
    Goes (.vadd f sat sel d a b q) [a, b] d ∧ Goes (.vsub f sat sel d a b q) [a, b] d ∧ Goes (.vmul f sat sel d a b q) [a, b] d ∧
    Goes (.vmulh f sel d a b q) [a, b] d ∧ Goes (.vmin f sel d a b q) [a, b] d ∧ Goes (.vmax f sel d a b q) [a, b] d ∧
    Goes (.vabs f sat sel d a q) [a] d ∧ Goes (.vneg f sat sel d a q) [a] d ∧ Goes (.vmad f sat d a b c q) [a, b, c] d ∧
    Goes (.vand d a b q) [a, b] d ∧ Goes (.vor d a b q) [a, b] d ∧ Goes (.vxor d a b q) [a, b] d ∧ Goes (.vandn d a b q) [a, b] d ∧
    Goes (.vshl f sel d a b q) [a, b] d ∧ Goes (.vshr f sel d a b q) [a, b] d ∧ Goes (.vsra f sel d a b q) [a, b] d ∧ Goes (.vsat f d a q) [a] d ∧
    Goes (.vtacc sat sel d a b q) [a, b, d] d ∧ Goes (.tunp sel d a q) [a] d ∧ Goes (.vsel d a b q) [a, b] d ∧
    Goes (.vfadd ff sel d a b q) [a, b] d ∧ Goes (.vfsub ff sel d a b q) [a, b] d ∧ Goes (.vfmul ff sel d a b q) [a, b] d ∧
    Goes (.vfma ff d a b c q) [a, b, c] d ∧ Goes (.vfnma ff d a b c q) [a, b, c] d ∧ Goes (.vfmin ff sel d a b q) [a, b] d ∧
    Goes (.vfmax ff sel d a b q) [a, b] d ∧ Goes (.vfcls ff sel d a q) [a] d ∧ Goes (.vfdiv ff sel d a b q) [a, b] d ∧ Goes (.vrcp ff sel d a q) [a] d ∧
    Goes (.vrsq ff sel d a q) [a] d ∧ Goes (.vexp2 ff sel d a q) [a] d ∧ Goes (.vlog2 ff sel d a q) [a] d ∧
    Goes (.vcvtFloatToFloat df sf r sat sel d a q) [a] d ∧ Goes (.vcvtFloatToInteger di sf r sel d a q) [a] d ∧
    Goes (.vcvtIntegerToFloat df si r sat sel d a q) [a] d ∧ Goes (.vcvtIntegerToInteger di si sat sel d a q) [a] d ∧
    Goes (.vpack fm r d a b q) [a, b] d ∧ Goes (.vunpk fm d a q) [a] d ∧ Goes (.cbx cb t d a q) [a] d ∧ Goes (.vmov d a q) [a] d ∧
    Goes (.vbcst d ga q) [] d ∧ Goes (.vidx d q) [] d ∧ Goes (.vperm d a b q) [a, b] d ∧ Goes (.vrot d a ga q) [a] d ∧ Goes (.vgth d a b q) [b] d ∧
    Goes (.vins f d ga gb q) [] d ∧ Goes (.vrsum fm d a q) [a] d ∧ Goes (.vrmax fm d a q) [a] d ∧ Goes (.vrmin fm d a q) [a] d ∧
    Goes (.vmscl ff sel d a b q) [a, b] d ∧
    Into (.vcmp f p sel kd a b q) [a, b] ∧ Into (.vfcmp ff p sel kd a b q) [a, b] ∧ Into (.cbld t a q) [a] ∧ Into (.vsct d a b q) [a, b] ∧
    Into (.vxtr f gd a gb q) [a] ∧ Into (.vmcnt gd ka q) [] ∧ Into (.kop op kd ka kb q) [] ∧ Into (.kset kd ga q) []) ∧
  -- X's instructions of the matrix path
  (∀ (word : BitVec 5) (g d : Reg) (v a b sc : Opnd) (f : RFmt) (r : Round) (sat raw : Bool) (h : BitVec 6) (p : Pred) (kd : BitVec 3) (col : BitVec 8)
      (q : XQ) (s : State), s.cur.2 = .X →
    let x := xContext s
    let Goes (i : Instr) : Prop := Completes i s (Retires s 2)
    let idle : Prop := x.nestRun = none ∧ x.nestPend = none ∧ x.rjobs = []
    let t := latchTable x s.freeCtr
    let t0 (o : Opnd) : Nat := 16 * (x.aview.toNat % 2 ^ 16) + 16 * (x.aview.toNat / 2 ^ 16 % 2 ^ 16) * opIndex s o
    let apart : Prop := t0 v = t0 a ∨ t0 a + tileExtent (h.toNat + 1) ≤ t0 v ∨ t0 v + tileExtent (h.toNat + 1) ≤ t0 a
    Goes (.mcfg word g q) ∧ (queuesReady x [v] = true → Goes (.mcfgl v q)) ∧
    (x.nestRun = none ∨ x.nestPend = none → tfind x.slots (nHslot t) ≠ none → nestBad t = false → nestAlias t x.tview x.aview (footprint x) = false →
      Goes (.mgo q)) ∧
    (idle → Goes (.mwait d q) ∧ Goes (.acmp p raw kd a b col q)) ∧
    (x.rjobs.length < 8 → Goes (.aclr v g h q) ∧ Goes (.aanc v g h q) ∧ Goes (.rslvCanonical v h q) ∧ Goes (.rslvToFormat f r sat v a h q) ∧
      Goes (.rslvWireForm v a g h q) ∧ Goes (.achk a h q) ∧ (apart → Goes (.ascl v a sc h q) ∧ Goes (.amov v a h q)))) ∧
  -- system registers and translation
  (∀ (d a b : Reg) (n : Nat) (s : State),
    let w := lookup s (curDie s) (curPart s) (rd s a).toNat (curTlb s)
    let q := curSeq s
    (n ∈ [0x110, 0x111, 0x112, 0x113, 0x118, 0x119, 0x11A, 0x11B] → Completes (.mts a (BitVec.ofNat 12 n)) s (Retires s 1)) ∧
    -- a loop counter that MTS writes already counts at the end of a body
    (n < 4 → Completes (.mts a (BitVec.ofNat 12 (8 + n))) s
      (Retires (setCurSeq s { q with lc := tput q.lc n { tget {} q.lc n with count := (rd s a).setWidth 32 } }) 1)) ∧
    (s.cur.2 = .X → n ∈ [0x10, 0x11, 0x12, 0x13, 0x14] → Completes (.mts a (BitVec.ofNat 12 n)) s (Retires s 1)) ∧
    ((getPart s (curPart s)).ktlbi = true → ownAccessesSeen s = true → (∀ va es, accessUses s (curPart s) va es = false) → Completes (.tlbi a b) s (Retires s 1)) ∧
    (((∀ c, w ≠ .error c) ∨ 0xFF_0000_0000_0000 ≤ (rd s a).toNat) → Completes (.tlbs d a) s (Retires s 1))) ∧
  -- tokens, tickets, handles and fences
  ∀ (d : Reg) (slot : BitVec 4) (sc : Scope) (s : State),
    let x := curCtx s
    ((rd s d).toNat ≤ tokenWord s x → Completes (.tokw d) s (Retires s 2)) ∧
    (tfind x.tickets (rd s d).toNat = none → Completes (.jwait d) s (Retires s 2)) ∧
    (tfind x.slots slot.toNat ≠ none → slotBusy s s.cur.1 slot.toNat = false → Completes (.hrel slot) s (Retires s 2)) ∧
    (x.sacc = [] → Completes (.fence .rel sc) s (Retires s 2) ∧ Completes (.fence .acq .core) s (Retires s 2) ∧ Completes (.fence .full sc) s (Retires s 2)) ∧
    (x.sacc = [] → x.bmvStamps = [] → x.bmvFar = false → bmvPending s s.cur.1 = false → Completes (.bfen sc) s (Retires s 2))

/-- R36, R181, R187 to R189, R193, R202, R207, R209, R232 to R235, R238, R240, R246 to R248, R282, R287, R343, R349, R352, R361: where an event acts, and the one
change that it is there for. The statements above say what else happens and what stays. -/
def Obligations.EventsComplete : Prop :=
  -- banks and matrix work
  (∀ (c : Nat) (s : State),
    let x := getCtx s c
    (x.waking ≠ 0 → Completes (.bankWake c) s fun t => (getCtx t c).waking = 0 ∧ ∀ b, x.waking.getLsbD b = true → (getCtx t c).bankOn.getLsbD b = true) ∧
    (∀ j, x.nestRun = some j → x.mHalted = false →
      let t := j.table
      let d := nestDest t j.aview j.foot
      (j.started = false → mayStart x j.arrival (nestSets j) = true → tileFaulted x d = false → nAsrc t = false → integerNest t = false →
        Completes (.nestJobStart c) s fun u => ∃ k, (getCtx u c).nestRun = some k ∧ k.started = true) ∧
      (∀ ws h, j.started = true → tfind x.engStop 3 = none → wantedShard j = some ws → loadedOf j ws = [] → tfind x.slots (nHslot t) = some h →
        let ps := shardPieces (clusterOfCore c) h ws (shardReads t)
        (∀ p ∈ ps, granuleTaken s c j p = true) → firstFault ps (readPieces s (dieOfCore c) ps 0) = none → firstBeyond ps = none → j.latch = none →
        Completes (.shardLatchReady c) s fun u => ∃ k l, (getCtx u c).nestRun = some k ∧ (k.latch = some l ∨ k.ahead = some l) ∧ l.ws = ws) ∧
      (∀ l, j.started = true → j.beat < nBeats t → j.latch = some l → l.ws = nWs t j.beat →
        Completes (.beatLand c) s fun u => ∃ k, (getCtx u c).nestRun = some k ∧ k.beat = j.beat + 1) ∧
      (j.started = true → nBeats t ≤ j.beat → Completes (.nestJobComplete c) s fun u => (getCtx u c).nestRun = x.nestPend)) ∧
    ∀ j rest, x.rjobs = j :: rest → x.rHalted = false →
      (j.started = false → mayStart x j.arrival (rjobSets j) = true →
        Completes (.resolverJobStart c) s fun u => (getCtx u c).rjobs = { j with started := true } :: rest) ∧
      -- a pass goes row by row, and its last row ends the job
      (∀ anchor, j.started = true → j.kind = .aclr anchor → j.transform = true →
        Completes (.resolverJobComplete c) s fun u => (getCtx u c).rjobs = if j.h ≤ j.row + 1 then rest else { j with row := j.row + 1 } :: rest)) ∧
  -- the Lamplighter and the copy engine
  (∀ (d p : Nat) (s : State),
    let l := getLamp s d p
    (blockHeld s d p = true → (∀ h, Completes (.llclrHop d p h) s fun t => tget 0 (getLamp t d p).late h = 0) ∧
      Completes (.llclrPace d p) s fun t => (getLamp t d p).paceCyc = 0) ∧
    (∀ o a rest v, l.waiting = (o, a) :: rest → l.running = none → lampRuns s d p = true → engineRead s d p a 64 { rd := true } = .ok v →
      headerBad ((List.range 8).map (recWord v)) = false →
      Completes (.itineraryStart d p) s fun t => (getLamp t d p).waiting = rest ∧ ∃ it, (getLamp t d p).running = some it ∧ it.owner = o ∧ it.addr = a) ∧
    (∀ it, l.running = some it →
      let entry (t : State) (n : Nat) : Option ItinEntry := (getLamp t d p).running.bind fun it => it.entries[n]?
      (∀ e, it.entries = [e] → it.stopped = none → lampRuns s d p = true → e.issued = false → 0 < it.win.getD e.hop 1 → entryTracked s it 0 = false →
        e.group = 0 → e.hop ≠ 2 → Completes (.itineraryEntryIssue d p) s fun t => entry t 0 = some { e with issued := true, issueCycle := s.cycle }) ∧
      (∀ n e, it.entries[n]? = some e → e.complete = false → e.lateAt = none → e.due < (getCore s e.watch).mprog.toNat →
        Completes (.entryLate d p n) s fun t => entry t n = some { e with lateAt := some s.cycle }) ∧
      (∀ n e, it.entries[n]? = some e → e.issued = true → e.complete = false → e.failed = false → 16 * e.landed.length = e.size → e.sequ = none →
        e.due ≥ (getCore s e.watch).mprog.toNat → Completes (.itineraryEntryComplete d p n) s fun t => entry t n = some { e with complete := true }) ∧
      (it.stopped = none → it.ended = true → (∀ e ∈ it.entries, e.complete = true) → Completes (.itineraryEnd d p) s fun t => (getLamp t d p).running = none)) ∧
    (∀ c, tget [] (getDie s d).cards p = [c] → cardReady s d p c = true → partRuns s p = true → (getDie s d).fenced = false →
      Completes (.copyCardStart d p) s fun t => ∃ k, (getCluster t (clusterOfCore c.owner.core)).card = some k ∧
        k.started = true ∧ k.owner = c.owner)) ∧
  (∀ (n : Nat) (c : Card) (s u : State) (lost : Bool) (stamps : List (Nat × Nat)), (getCluster s n).card = some c → (getCluster s n).halted = false →
    (getCluster s n).stopInfo = none → partLive s c.owner.part = true → (getDie s (dieOfCluster n)).fenced = false →
    cardChunk s (dieOfCluster n) c = .ok (u, lost, stamps) → Completes (.copyCardComplete n) s fun t =>
      (c.strays = false → t.mem = u.mem) ∧ ∀ k, (getCluster t n).card = some k → c.row < k.row ∨ c.row = k.row ∧ k.off = c.off + chunkSize c) ∧
  -- collectives and the gatherer
  (∀ (id : BitVec 32) (c : LiveColl) (g : Group) (sw blk member t0 f : Nat) (s : State),
    liveColl s id = some c → c.collid = id → c.finished = false → tfind s.groups c.group = some g →
    let tree := g.top :: g.leaves.map (·.1)
    let k := switchBlock (tget {} s.switches sw) id blk
    let reduces : Prop := c.admitted = true ∧ c.record.op = 2 ∧ c.record.mire = true
    (c.admitted = false → s.colls = [c] → (∀ i ∈ tree, (tget {} s.switches i : Switch).live.length < 1024) → (∀ m ∈ g.members, m = s.pkg) →
      Completes (.collectiveAdmission c.group id) s fun t => liveColl t id = some { c with admitted := true }) ∧
    (reduces → sw ∈ tree → blk < totalBlocks c.record → k.closed = false → timerOf s c g sw k = some t0 →
      Completes (.switchBlockTimeout sw id blk) s fun t => (switchBlock (tget {} t.switches sw) id blk).closed = true) ∧
    (c.admitted = true → member ∈ g.members → member ∉ c.ends → member ≠ s.pkg →
      Completes (.endMarker id member) s fun t => ∃ e, liveColl t id = some e ∧ member ∈ e.ends) ∧
    (reduces → c.allTimers = none → c.firstContribution = some f →
      Completes (.topSwitchTimerStart id) s fun t => liveColl t id = some { c with allTimers := some (f + 2 * c.record.timeout * 1024) })) ∧
  (∀ (d p : Nat) (s : State),
    let g := getGath s d p
    (∀ b, partLive s p = true → g.openBatch = some b → g.dead ≠ 0 → Completes (.batchCloseDeadline d p) s fun t => (getGath t d p).openBatch = none) ∧
    (∀ v : Word, blockHeld s d p = true → g.openBatch = none → Completes (.gathererConfigWrite d p 0x10 v) s fun t => (getGath t d p).tail = v.setWidth 16)) ∧
  -- migration
  ∀ (d : Nat) (s : State),
    let m := (getDie s d).mig
    let swap := setMig s d { m with mode := false }
    let copy := setMig s d { m with mode := true }
    let here : Prop := (getDie s d).fenced = false
    (∀ a b, m.busy = false → here → migPage swap d m.ptea.toNat = some a → migPage swap d m.pteb.toNat = some b → a.bits = b.bits →
      bitOf a.leaf.toNat 9 = false → bitOf b.leaf.toNat 9 = false → isDram swap (leafFrame a.leaf) = true → isDram swap (leafFrame b.leaf) = true →
      frameOk swap m.frame.toNat a.bits = true → Completes (.migrateSwap d) s fun t => (getDie t d).mig.busy = true) ∧
    (∀ a, m.busy = false → here → migPage copy d m.ptea.toNat = some a → bitOf a.leaf.toNat 9 = true → isDram copy (leafFrame a.leaf) = true →
      frameOk copy m.frame.toNat a.bits = true → Completes (.migrateOptimistic d) s fun t => (getDie t d).mig.busy = true) ∧
    (m.busy = true → here → (∀ e, e < 4 → (getDie s e).inbox = []) → (∀ a, migPage s d m.ptea.toNat = some a → frameBusy s (leafFrame a.leaf) a.bits = false) →
      m.mode = true → Completes (.migrationEnd d) s fun t => (getDie t d).mig.busy = false)
end

