-- ==== Sys2Proof/Laws/Bits.lean ====
section
/-! SUPPORT. Reading an element of what was built from elements: packed numbers, vector operands, masks, lane flags. -/

namespace Sys2Proof.Machine

theorem packN_lt (w : Nat) (f : Nat → Nat) (n : Nat) : packN w f n < 2 ^ (w * n) := by
  induction n with
  | zero => simp [packN]
  | succ n ih =>
    have h : f n % 2 ^ w < 2 ^ w := Nat.mod_lt _ (Nat.two_pow_pos w)
    have e : 2 ^ (w * (n + 1)) = 2 ^ (w * n) * 2 ^ w := by rw [Nat.mul_succ, Nat.pow_add]
    rw [packN, Nat.shiftLeft_eq, e]
    calc packN w f n + f n % 2 ^ w * 2 ^ (w * n) < 2 ^ (w * n) + f n % 2 ^ w * 2 ^ (w * n) := Nat.add_lt_add_right ih _
      _ = (f n % 2 ^ w + 1) * 2 ^ (w * n) := by ring
      _ ≤ 2 ^ w * 2 ^ (w * n) := Nat.mul_le_mul_right _ h
      _ = 2 ^ (w * n) * 2 ^ w := Nat.mul_comm _ _

/-- Digit i of a packed number. -/
theorem packN_digit (w : Nat) (f : Nat → Nat) {n i : Nat} (h : i < n) : (packN w f n >>> (w * i)) % 2 ^ w = f i % 2 ^ w := by
  induction n with
  | zero => omega
  | succ n ih =>
    rw [packN, Nat.shiftLeft_eq, Nat.shiftRight_eq_div_pow]
    rcases Nat.lt_or_ge i n with hi | hi
    · have e : f n % 2 ^ w * 2 ^ (w * n) = 2 ^ (w * i) * (2 ^ w * (f n % 2 ^ w * 2 ^ (w * (n - i - 1)))) := by
        have : w * n = w * i + (w + w * (n - i - 1)) := by
          have : n = i + (1 + (n - i - 1)) := by omega
          conv_lhs => rw [this]
          ring
        rw [this, Nat.pow_add, Nat.pow_add]; ring
      rw [e, Nat.add_mul_div_left _ _ (Nat.two_pow_pos _), Nat.add_mul_mod_self_left]
      simpa [Nat.shiftRight_eq_div_pow] using ih hi
    · have : i = n := by omega
      subst this
      rw [Nat.add_mul_div_right _ _ (Nat.two_pow_pos _), Nat.div_eq_of_lt (packN_lt w f i)]
      simp

/-- Element n of a vector built from elements. -/
theorem elem_ofElems (w : Nat) (f : Nat → Nat) {n : Nat} (hn : n < 2048 / w) : elem w (ofElems w f) n = f n % 2 ^ w := by
  have hw : w * (2048 / w) ≤ 2048 := Nat.mul_div_le 2048 w
  have hlt : packN w f (2048 / w) < 2 ^ 2048 := Nat.lt_of_lt_of_le (packN_lt _ _ _) (Nat.pow_le_pow_right (by decide) hw)
  rw [elem, ofElems, BitVec.toNat_ofNat, Nat.mod_eq_of_lt hlt]
  exact packN_digit w f hn

/-- Lane j of a vector built from lanes. -/
theorem lane_ofLanes (f : Nat → BitVec 32) {j : Nat} (hj : j < 64) : lane (ofLanes f) j = f j := by
  have h := elem_ofElems 32 (fun j => (f j).toNat) (n := j) hj
  apply BitVec.eq_of_toNat_eq
  rw [lane, ofLanes, BitVec.toNat_ofNat]
  simp only [elem] at h
  rw [h]
  exact Nat.mod_eq_of_lt (f j).isLt

/-- Bit j of a mask built from a predicate. -/
theorem maskBit_ofMask (p : Nat → Bool) {j : Nat} (hj : j < 64) : maskBit (ofMask p) j = p j := by
  have hlt : packN 1 (fun j => if p j then 1 else 0) 64 < 2 ^ 64 := packN_lt 1 _ 64
  have h := packN_digit 1 (fun j => if p j then 1 else 0) hj
  rw [maskBit, ofMask, BitVec.toNat_ofNat, Nat.mod_eq_of_lt hlt]
  simp only [Nat.one_mul, Nat.pow_one] at h
  rw [h]
  cases p j <;> simp

/-- A mask bit is a bit of the pattern. -/
theorem maskBit_eq (k : Mask) (j : Nat) : maskBit k j = k.getLsbD j := by
  rw [maskBit, BitVec.getLsbD, Nat.testBit_eq_decide_div_mod_eq, Nat.shiftRight_eq_div_pow]
  simp [Bool.beq_eq_decide_eq]

theorem maskBit_and (a b : Mask) (j : Nat) : maskBit (a &&& b) j = (maskBit a j && maskBit b j) := by
  simp [maskBit_eq]

/-- The flags of lane j of lane flags built lane by lane. -/
theorem laneFlags_ofFlags (f : Nat → BitVec 8) {j : Nat} (hj : j < 64) : laneFlags (ofFlags f) j = f j := by
  have hlt : packN 8 (fun j => (f j).toNat) 64 < 2 ^ 512 := packN_lt 8 _ 64
  have h := packN_digit 8 (fun j => (f j).toNat) hj
  apply BitVec.eq_of_toNat_eq
  rw [laneFlags, ofFlags, BitVec.toNat_ofNat, BitVec.toNat_ofNat, Nat.mod_eq_of_lt hlt, h]
  exact Nat.mod_eq_of_lt (f j).isLt

end Sys2Proof.Machine
end

