-- ==== Sys2Proof/Laws/Memory.lean ====
section
/-! SUPPORT. The laws of the byte map: writes keep its canonical form, a write leaves every other byte alone, and reads back. -/

namespace Sys2Proof.Machine

theorem memwf_cons (a : Nat) (v : Byte) (t : List Host.Cell) :
    Memory.wf ((a, v) :: t) = true ↔ v ≠ unlistedByte ∧ (∀ p ∈ t.head?, a < p.1) ∧ Memory.wf t = true := by
  cases t with
  | nil => simp [Memory.wf]
  | cons p t => obtain ⟨k, w⟩ := p; simp [Memory.wf, and_assoc]

/-- In canonical form no address below the first is listed. -/
theorem memGet_below (t : List Host.Cell) (n : Nat) (hw : Memory.wf t = true) (h : ∀ p ∈ t.head?, n < p.1) : memGet t n = unlistedByte := by
  induction t with
  | nil => rfl
  | cons p t ih =>
    obtain ⟨a, v⟩ := p
    have hw' := (memwf_cons a v t).1 hw
    have hn : n < a := by simpa using h
    have : a ≠ n := by omega
    simp only [memGet, this, if_false]
    apply ih hw'.2.2
    intro p hp
    have := hw'.2.1 p hp
    omega

theorem memPut_head (t : List Host.Cell) (n : Nat) (v : Byte) (a : Nat) (hw : Memory.wf t = true) (hn : a < n) (ht : ∀ p ∈ t.head?, a < p.1) :
    ∀ p ∈ (memPut t n v).head?, a < p.1 := by
  cases t with
  | nil =>
    simp only [memPut]
    split <;> simp [hn]
  | cons p t =>
    obtain ⟨k, u⟩ := p
    have hw' := (memwf_cons k u t).1 hw
    have hk : a < k := by simpa using ht
    simp only [memPut]
    split
    · split
      · simpa using hk
      · simpa using hn
    · split
      · split
        · intro p hp
          have := hw'.2.1 p hp
          omega
        · simpa using hn
      · simpa using hk

/-- Writing a byte keeps the canonical form. -/
theorem memPut_wf (m : List Host.Cell) (n : Nat) (v : Byte) (h : Memory.wf m = true) : Memory.wf (memPut m n v) = true := by
  induction m with
  | nil =>
    simp only [memPut]
    split
    · rfl
    · rename_i hv
      simpa [Memory.wf] using hv
  | cons p t ih =>
    obtain ⟨a, w⟩ := p
    have h' := (memwf_cons a w t).1 h
    simp only [memPut]
    split
    · split
      · exact h
      · rename_i hv
        exact (memwf_cons _ _ _).2 ⟨hv, by simpa, h⟩
    · split
      · rename_i e
        subst e
        split
        · exact h'.2.2
        · rename_i hv
          exact (memwf_cons _ _ _).2 ⟨hv, h'.2⟩
      · rename_i h1 h2
        exact (memwf_cons _ _ _).2 ⟨h'.1, memPut_head t n v a h'.2.2 (by omega) h'.2.1, ih h'.2.2⟩

/-- Writing a list of cells keeps the canonical form. -/
theorem memPutAll_wf (cells m : List Host.Cell) (h : Memory.wf m = true) : Memory.wf (memPutAll m cells) = true := by
  induction cells generalizing m with
  | nil => exact h
  | cons c t ih => exact ih (memPut m c.1 c.2) (memPut_wf m c.1 c.2 h)

/-- A write leaves every other byte alone. -/
theorem memGet_memPut_other (m : List Host.Cell) {n a : Nat} (v : Byte) (h : a ≠ n) : memGet (memPut m n v) a = memGet m a := by
  induction m with
  | nil =>
    simp only [memPut]
    split
    · rfl
    · simp [memGet, Ne.symm h]
  | cons p t ih =>
    obtain ⟨k, w⟩ := p
    simp only [memPut]
    split
    · split
      · rfl
      · simp [memGet, Ne.symm h]
    · split
      · rename_i e
        subst e
        split <;> simp [memGet, Ne.symm h]
      · simp [memGet, ih]

/-- A written byte reads back, in canonical form. -/
theorem memGet_memPut_same (m : List Host.Cell) (n : Nat) (v : Byte) (hw : Memory.wf m = true) : memGet (memPut m n v) n = v := by
  induction m with
  | nil =>
    simp only [memPut]
    split
    · rename_i e; simp [memGet, e]
    · simp [memGet]
  | cons p t ih =>
    obtain ⟨k, w⟩ := p
    have h' := (memwf_cons k w t).1 hw
    simp only [memPut]
    split
    · split
      · rename_i hk e
        rw [e]
        exact memGet_below _ n hw (by simpa using hk)
      · simp [memGet]
    · split
      · rename_i e
        subst e
        split
        · rename_i e
          rw [e]
          exact memGet_below _ n h'.2.2 h'.2.1
        · simp [memGet]
      · rename_i h1 h2
        have : k ≠ n := by omega
        simp [memGet, this, ih h'.2.2]

/-- Bytes outside the addresses of a list of cells keep their values. -/
theorem memGet_memPutAll_other (cells m : List Host.Cell) (a : Nat) (h : ∀ c ∈ cells, c.1 ≠ a) : memGet (memPutAll m cells) a = memGet m a := by
  induction cells generalizing m with
  | nil => rfl
  | cons c t ih =>
    have e := ih (memPut m c.1 c.2) (fun d hd => h d (List.mem_cons_of_mem _ hd))
    rw [show memPutAll m (c :: t) = memPutAll (memPut m c.1 c.2) t from rfl, e]
    exact memGet_memPut_other m c.2 (Ne.symm (h c (List.mem_cons_self ..)))

end Sys2Proof.Machine
end

