-- ==== Sys2Proof/Laws/State.lean ====
section
/-! SUPPORT. What each update of the state leaves alone: one lemma for each field and each named update, so that no proof unfolds a record update.
The updates of one table of units (cores, clusters, dies, partitions) come first, then those of the executing sequencer. -/

namespace Sys2Proof.Machine

@[simp] theorem setCore_cycle (s : State) (c : Nat) (x : CoreState) : (setCore s c x).cycle = s.cycle := rfl
@[simp] theorem setCore_clusters (s : State) (c : Nat) (x : CoreState) : (setCore s c x).clusters = s.clusters := rfl
@[simp] theorem setCore_dies (s : State) (c : Nat) (x : CoreState) : (setCore s c x).dies = s.dies := rfl
@[simp] theorem setCore_parts (s : State) (c : Nat) (x : CoreState) : (setCore s c x).parts = s.parts := rfl
@[simp] theorem setCore_mgmt (s : State) (c : Nat) (x : CoreState) : (setCore s c x).mgmt = s.mgmt := rfl
@[simp] theorem setCore_mem (s : State) (c : Nat) (x : CoreState) : (setCore s c x).mem = s.mem := rfl
@[simp] theorem setCore_lostWords (s : State) (c : Nat) (x : CoreState) : (setCore s c x).lostWords = s.lostWords := rfl
@[simp] theorem setCore_lineTags (s : State) (c : Nat) (x : CoreState) : (setCore s c x).lineTags = s.lineTags := rfl
@[simp] theorem setCore_cxl (s : State) (c : Nat) (x : CoreState) : (setCore s c x).cxl = s.cxl := rfl
@[simp] theorem setCore_tlb (s : State) (c : Nat) (x : CoreState) : (setCore s c x).tlb = s.tlb := rfl
@[simp] theorem setCore_pkg (s : State) (c : Nat) (x : CoreState) : (setCore s c x).pkg = s.pkg := rfl
@[simp] theorem setCore_dsize (s : State) (c : Nat) (x : CoreState) : (setCore s c x).dsize = s.dsize := rfl
@[simp] theorem setCore_groups (s : State) (c : Nat) (x : CoreState) : (setCore s c x).groups = s.groups := rfl
@[simp] theorem setCore_switches (s : State) (c : Nat) (x : CoreState) : (setCore s c x).switches = s.switches := rfl
@[simp] theorem setCore_colls (s : State) (c : Nat) (x : CoreState) : (setCore s c x).colls = s.colls := rfl
@[simp] theorem setCore_fabricOut (s : State) (c : Nat) (x : CoreState) : (setCore s c x).fabricOut = s.fabricOut := rfl
@[simp] theorem setCore_ticketCtr (s : State) (c : Nat) (x : CoreState) : (setCore s c x).ticketCtr = s.ticketCtr := rfl
@[simp] theorem setCore_placeCtr (s : State) (c : Nat) (x : CoreState) : (setCore s c x).placeCtr = s.placeCtr := rfl
@[simp] theorem setCore_freeCtr (s : State) (c : Nat) (x : CoreState) : (setCore s c x).freeCtr = s.freeCtr := rfl
@[simp] theorem setCore_agenda (s : State) (c : Nat) (x : CoreState) : (setCore s c x).agenda = s.agenda := rfl
@[simp] theorem setCore_cur (s : State) (c : Nat) (x : CoreState) : (setCore s c x).cur = s.cur := rfl

@[simp] theorem setCluster_cycle (s : State) (c : Nat) (x : Cluster) : (setCluster s c x).cycle = s.cycle := rfl
@[simp] theorem setCluster_cores (s : State) (c : Nat) (x : Cluster) : (setCluster s c x).cores = s.cores := rfl
@[simp] theorem setCluster_dies (s : State) (c : Nat) (x : Cluster) : (setCluster s c x).dies = s.dies := rfl
@[simp] theorem setCluster_parts (s : State) (c : Nat) (x : Cluster) : (setCluster s c x).parts = s.parts := rfl
@[simp] theorem setCluster_mgmt (s : State) (c : Nat) (x : Cluster) : (setCluster s c x).mgmt = s.mgmt := rfl
@[simp] theorem setCluster_mem (s : State) (c : Nat) (x : Cluster) : (setCluster s c x).mem = s.mem := rfl
@[simp] theorem setCluster_lostWords (s : State) (c : Nat) (x : Cluster) : (setCluster s c x).lostWords = s.lostWords := rfl
@[simp] theorem setCluster_lineTags (s : State) (c : Nat) (x : Cluster) : (setCluster s c x).lineTags = s.lineTags := rfl
@[simp] theorem setCluster_cxl (s : State) (c : Nat) (x : Cluster) : (setCluster s c x).cxl = s.cxl := rfl
@[simp] theorem setCluster_tlb (s : State) (c : Nat) (x : Cluster) : (setCluster s c x).tlb = s.tlb := rfl
@[simp] theorem setCluster_pkg (s : State) (c : Nat) (x : Cluster) : (setCluster s c x).pkg = s.pkg := rfl
@[simp] theorem setCluster_dsize (s : State) (c : Nat) (x : Cluster) : (setCluster s c x).dsize = s.dsize := rfl
@[simp] theorem setCluster_groups (s : State) (c : Nat) (x : Cluster) : (setCluster s c x).groups = s.groups := rfl
@[simp] theorem setCluster_switches (s : State) (c : Nat) (x : Cluster) : (setCluster s c x).switches = s.switches := rfl
@[simp] theorem setCluster_colls (s : State) (c : Nat) (x : Cluster) : (setCluster s c x).colls = s.colls := rfl
@[simp] theorem setCluster_fabricOut (s : State) (c : Nat) (x : Cluster) : (setCluster s c x).fabricOut = s.fabricOut := rfl
@[simp] theorem setCluster_ticketCtr (s : State) (c : Nat) (x : Cluster) : (setCluster s c x).ticketCtr = s.ticketCtr := rfl
@[simp] theorem setCluster_placeCtr (s : State) (c : Nat) (x : Cluster) : (setCluster s c x).placeCtr = s.placeCtr := rfl
@[simp] theorem setCluster_freeCtr (s : State) (c : Nat) (x : Cluster) : (setCluster s c x).freeCtr = s.freeCtr := rfl
@[simp] theorem setCluster_agenda (s : State) (c : Nat) (x : Cluster) : (setCluster s c x).agenda = s.agenda := rfl
@[simp] theorem setCluster_cur (s : State) (c : Nat) (x : Cluster) : (setCluster s c x).cur = s.cur := rfl

@[simp] theorem setDie_cycle (s : State) (d : Nat) (x : Die) : (setDie s d x).cycle = s.cycle := rfl
@[simp] theorem setDie_cores (s : State) (d : Nat) (x : Die) : (setDie s d x).cores = s.cores := rfl
@[simp] theorem setDie_clusters (s : State) (d : Nat) (x : Die) : (setDie s d x).clusters = s.clusters := rfl
@[simp] theorem setDie_parts (s : State) (d : Nat) (x : Die) : (setDie s d x).parts = s.parts := rfl
@[simp] theorem setDie_mgmt (s : State) (d : Nat) (x : Die) : (setDie s d x).mgmt = s.mgmt := rfl
@[simp] theorem setDie_mem (s : State) (d : Nat) (x : Die) : (setDie s d x).mem = s.mem := rfl
@[simp] theorem setDie_lostWords (s : State) (d : Nat) (x : Die) : (setDie s d x).lostWords = s.lostWords := rfl
@[simp] theorem setDie_lineTags (s : State) (d : Nat) (x : Die) : (setDie s d x).lineTags = s.lineTags := rfl
@[simp] theorem setDie_cxl (s : State) (d : Nat) (x : Die) : (setDie s d x).cxl = s.cxl := rfl
@[simp] theorem setDie_tlb (s : State) (d : Nat) (x : Die) : (setDie s d x).tlb = s.tlb := rfl
@[simp] theorem setDie_pkg (s : State) (d : Nat) (x : Die) : (setDie s d x).pkg = s.pkg := rfl
@[simp] theorem setDie_dsize (s : State) (d : Nat) (x : Die) : (setDie s d x).dsize = s.dsize := rfl
@[simp] theorem setDie_groups (s : State) (d : Nat) (x : Die) : (setDie s d x).groups = s.groups := rfl
@[simp] theorem setDie_switches (s : State) (d : Nat) (x : Die) : (setDie s d x).switches = s.switches := rfl
@[simp] theorem setDie_colls (s : State) (d : Nat) (x : Die) : (setDie s d x).colls = s.colls := rfl
@[simp] theorem setDie_fabricOut (s : State) (d : Nat) (x : Die) : (setDie s d x).fabricOut = s.fabricOut := rfl
@[simp] theorem setDie_ticketCtr (s : State) (d : Nat) (x : Die) : (setDie s d x).ticketCtr = s.ticketCtr := rfl
@[simp] theorem setDie_placeCtr (s : State) (d : Nat) (x : Die) : (setDie s d x).placeCtr = s.placeCtr := rfl
@[simp] theorem setDie_freeCtr (s : State) (d : Nat) (x : Die) : (setDie s d x).freeCtr = s.freeCtr := rfl
@[simp] theorem setDie_agenda (s : State) (d : Nat) (x : Die) : (setDie s d x).agenda = s.agenda := rfl
@[simp] theorem setDie_cur (s : State) (d : Nat) (x : Die) : (setDie s d x).cur = s.cur := rfl

@[simp] theorem setPart_cycle (s : State) (p : Nat) (x : Partition) : (setPart s p x).cycle = s.cycle := rfl
@[simp] theorem setPart_cores (s : State) (p : Nat) (x : Partition) : (setPart s p x).cores = s.cores := rfl
@[simp] theorem setPart_clusters (s : State) (p : Nat) (x : Partition) : (setPart s p x).clusters = s.clusters := rfl
@[simp] theorem setPart_dies (s : State) (p : Nat) (x : Partition) : (setPart s p x).dies = s.dies := rfl
@[simp] theorem setPart_mgmt (s : State) (p : Nat) (x : Partition) : (setPart s p x).mgmt = s.mgmt := rfl
@[simp] theorem setPart_mem (s : State) (p : Nat) (x : Partition) : (setPart s p x).mem = s.mem := rfl
@[simp] theorem setPart_lostWords (s : State) (p : Nat) (x : Partition) : (setPart s p x).lostWords = s.lostWords := rfl
@[simp] theorem setPart_lineTags (s : State) (p : Nat) (x : Partition) : (setPart s p x).lineTags = s.lineTags := rfl
@[simp] theorem setPart_cxl (s : State) (p : Nat) (x : Partition) : (setPart s p x).cxl = s.cxl := rfl
@[simp] theorem setPart_tlb (s : State) (p : Nat) (x : Partition) : (setPart s p x).tlb = s.tlb := rfl
@[simp] theorem setPart_pkg (s : State) (p : Nat) (x : Partition) : (setPart s p x).pkg = s.pkg := rfl
@[simp] theorem setPart_dsize (s : State) (p : Nat) (x : Partition) : (setPart s p x).dsize = s.dsize := rfl
@[simp] theorem setPart_groups (s : State) (p : Nat) (x : Partition) : (setPart s p x).groups = s.groups := rfl
@[simp] theorem setPart_switches (s : State) (p : Nat) (x : Partition) : (setPart s p x).switches = s.switches := rfl
@[simp] theorem setPart_colls (s : State) (p : Nat) (x : Partition) : (setPart s p x).colls = s.colls := rfl
@[simp] theorem setPart_fabricOut (s : State) (p : Nat) (x : Partition) : (setPart s p x).fabricOut = s.fabricOut := rfl
@[simp] theorem setPart_ticketCtr (s : State) (p : Nat) (x : Partition) : (setPart s p x).ticketCtr = s.ticketCtr := rfl
@[simp] theorem setPart_placeCtr (s : State) (p : Nat) (x : Partition) : (setPart s p x).placeCtr = s.placeCtr := rfl
@[simp] theorem setPart_freeCtr (s : State) (p : Nat) (x : Partition) : (setPart s p x).freeCtr = s.freeCtr := rfl
@[simp] theorem setPart_agenda (s : State) (p : Nat) (x : Partition) : (setPart s p x).agenda = s.agenda := rfl
@[simp] theorem setPart_cur (s : State) (p : Nat) (x : Partition) : (setPart s p x).cur = s.cur := rfl

@[simp] theorem setCtx_cycle (s : State) (c : Nat) (x : Ctx) : (setCtx s c x).cycle = s.cycle := rfl
@[simp] theorem setCtx_clusters (s : State) (c : Nat) (x : Ctx) : (setCtx s c x).clusters = s.clusters := rfl
@[simp] theorem setCtx_dies (s : State) (c : Nat) (x : Ctx) : (setCtx s c x).dies = s.dies := rfl
@[simp] theorem setCtx_parts (s : State) (c : Nat) (x : Ctx) : (setCtx s c x).parts = s.parts := rfl
@[simp] theorem setCtx_mgmt (s : State) (c : Nat) (x : Ctx) : (setCtx s c x).mgmt = s.mgmt := rfl
@[simp] theorem setCtx_mem (s : State) (c : Nat) (x : Ctx) : (setCtx s c x).mem = s.mem := rfl
@[simp] theorem setCtx_lostWords (s : State) (c : Nat) (x : Ctx) : (setCtx s c x).lostWords = s.lostWords := rfl
@[simp] theorem setCtx_lineTags (s : State) (c : Nat) (x : Ctx) : (setCtx s c x).lineTags = s.lineTags := rfl
@[simp] theorem setCtx_cxl (s : State) (c : Nat) (x : Ctx) : (setCtx s c x).cxl = s.cxl := rfl
@[simp] theorem setCtx_tlb (s : State) (c : Nat) (x : Ctx) : (setCtx s c x).tlb = s.tlb := rfl
@[simp] theorem setCtx_pkg (s : State) (c : Nat) (x : Ctx) : (setCtx s c x).pkg = s.pkg := rfl
@[simp] theorem setCtx_dsize (s : State) (c : Nat) (x : Ctx) : (setCtx s c x).dsize = s.dsize := rfl
@[simp] theorem setCtx_groups (s : State) (c : Nat) (x : Ctx) : (setCtx s c x).groups = s.groups := rfl
@[simp] theorem setCtx_switches (s : State) (c : Nat) (x : Ctx) : (setCtx s c x).switches = s.switches := rfl
@[simp] theorem setCtx_colls (s : State) (c : Nat) (x : Ctx) : (setCtx s c x).colls = s.colls := rfl
@[simp] theorem setCtx_fabricOut (s : State) (c : Nat) (x : Ctx) : (setCtx s c x).fabricOut = s.fabricOut := rfl
@[simp] theorem setCtx_ticketCtr (s : State) (c : Nat) (x : Ctx) : (setCtx s c x).ticketCtr = s.ticketCtr := rfl
@[simp] theorem setCtx_placeCtr (s : State) (c : Nat) (x : Ctx) : (setCtx s c x).placeCtr = s.placeCtr := rfl
@[simp] theorem setCtx_freeCtr (s : State) (c : Nat) (x : Ctx) : (setCtx s c x).freeCtr = s.freeCtr := rfl
@[simp] theorem setCtx_agenda (s : State) (c : Nat) (x : Ctx) : (setCtx s c x).agenda = s.agenda := rfl
@[simp] theorem setCtx_cur (s : State) (c : Nat) (x : Ctx) : (setCtx s c x).cur = s.cur := rfl

@[simp] theorem setSeq_cycle (s : State) (c : Nat) (q : Seq) (v : SeqState) : (setSeq s c q v).cycle = s.cycle := rfl
@[simp] theorem setSeq_clusters (s : State) (c : Nat) (q : Seq) (v : SeqState) : (setSeq s c q v).clusters = s.clusters := rfl
@[simp] theorem setSeq_dies (s : State) (c : Nat) (q : Seq) (v : SeqState) : (setSeq s c q v).dies = s.dies := rfl
@[simp] theorem setSeq_parts (s : State) (c : Nat) (q : Seq) (v : SeqState) : (setSeq s c q v).parts = s.parts := rfl
@[simp] theorem setSeq_mgmt (s : State) (c : Nat) (q : Seq) (v : SeqState) : (setSeq s c q v).mgmt = s.mgmt := rfl
@[simp] theorem setSeq_mem (s : State) (c : Nat) (q : Seq) (v : SeqState) : (setSeq s c q v).mem = s.mem := rfl
@[simp] theorem setSeq_lostWords (s : State) (c : Nat) (q : Seq) (v : SeqState) : (setSeq s c q v).lostWords = s.lostWords := rfl
@[simp] theorem setSeq_lineTags (s : State) (c : Nat) (q : Seq) (v : SeqState) : (setSeq s c q v).lineTags = s.lineTags := rfl
@[simp] theorem setSeq_cxl (s : State) (c : Nat) (q : Seq) (v : SeqState) : (setSeq s c q v).cxl = s.cxl := rfl
@[simp] theorem setSeq_tlb (s : State) (c : Nat) (q : Seq) (v : SeqState) : (setSeq s c q v).tlb = s.tlb := rfl
@[simp] theorem setSeq_pkg (s : State) (c : Nat) (q : Seq) (v : SeqState) : (setSeq s c q v).pkg = s.pkg := rfl
@[simp] theorem setSeq_dsize (s : State) (c : Nat) (q : Seq) (v : SeqState) : (setSeq s c q v).dsize = s.dsize := rfl
@[simp] theorem setSeq_groups (s : State) (c : Nat) (q : Seq) (v : SeqState) : (setSeq s c q v).groups = s.groups := rfl
@[simp] theorem setSeq_switches (s : State) (c : Nat) (q : Seq) (v : SeqState) : (setSeq s c q v).switches = s.switches := rfl
@[simp] theorem setSeq_colls (s : State) (c : Nat) (q : Seq) (v : SeqState) : (setSeq s c q v).colls = s.colls := rfl
@[simp] theorem setSeq_fabricOut (s : State) (c : Nat) (q : Seq) (v : SeqState) : (setSeq s c q v).fabricOut = s.fabricOut := rfl
@[simp] theorem setSeq_ticketCtr (s : State) (c : Nat) (q : Seq) (v : SeqState) : (setSeq s c q v).ticketCtr = s.ticketCtr := rfl
@[simp] theorem setSeq_placeCtr (s : State) (c : Nat) (q : Seq) (v : SeqState) : (setSeq s c q v).placeCtr = s.placeCtr := rfl
@[simp] theorem setSeq_freeCtr (s : State) (c : Nat) (q : Seq) (v : SeqState) : (setSeq s c q v).freeCtr = s.freeCtr := rfl
@[simp] theorem setSeq_agenda (s : State) (c : Nat) (q : Seq) (v : SeqState) : (setSeq s c q v).agenda = s.agenda := rfl
@[simp] theorem setSeq_cur (s : State) (c : Nat) (q : Seq) (v : SeqState) : (setSeq s c q v).cur = s.cur := rfl

@[simp] theorem setCurCtx_cycle (s : State) (x : Ctx) : (setCurCtx s x).cycle = s.cycle := rfl
@[simp] theorem setCurCtx_clusters (s : State) (x : Ctx) : (setCurCtx s x).clusters = s.clusters := rfl
@[simp] theorem setCurCtx_dies (s : State) (x : Ctx) : (setCurCtx s x).dies = s.dies := rfl
@[simp] theorem setCurCtx_parts (s : State) (x : Ctx) : (setCurCtx s x).parts = s.parts := rfl
@[simp] theorem setCurCtx_mgmt (s : State) (x : Ctx) : (setCurCtx s x).mgmt = s.mgmt := rfl
@[simp] theorem setCurCtx_mem (s : State) (x : Ctx) : (setCurCtx s x).mem = s.mem := rfl
@[simp] theorem setCurCtx_lostWords (s : State) (x : Ctx) : (setCurCtx s x).lostWords = s.lostWords := rfl
@[simp] theorem setCurCtx_lineTags (s : State) (x : Ctx) : (setCurCtx s x).lineTags = s.lineTags := rfl
@[simp] theorem setCurCtx_cxl (s : State) (x : Ctx) : (setCurCtx s x).cxl = s.cxl := rfl
@[simp] theorem setCurCtx_tlb (s : State) (x : Ctx) : (setCurCtx s x).tlb = s.tlb := rfl
@[simp] theorem setCurCtx_pkg (s : State) (x : Ctx) : (setCurCtx s x).pkg = s.pkg := rfl
@[simp] theorem setCurCtx_dsize (s : State) (x : Ctx) : (setCurCtx s x).dsize = s.dsize := rfl
@[simp] theorem setCurCtx_groups (s : State) (x : Ctx) : (setCurCtx s x).groups = s.groups := rfl
@[simp] theorem setCurCtx_switches (s : State) (x : Ctx) : (setCurCtx s x).switches = s.switches := rfl
@[simp] theorem setCurCtx_colls (s : State) (x : Ctx) : (setCurCtx s x).colls = s.colls := rfl
@[simp] theorem setCurCtx_fabricOut (s : State) (x : Ctx) : (setCurCtx s x).fabricOut = s.fabricOut := rfl
@[simp] theorem setCurCtx_ticketCtr (s : State) (x : Ctx) : (setCurCtx s x).ticketCtr = s.ticketCtr := rfl
@[simp] theorem setCurCtx_placeCtr (s : State) (x : Ctx) : (setCurCtx s x).placeCtr = s.placeCtr := rfl
@[simp] theorem setCurCtx_freeCtr (s : State) (x : Ctx) : (setCurCtx s x).freeCtr = s.freeCtr := rfl
@[simp] theorem setCurCtx_agenda (s : State) (x : Ctx) : (setCurCtx s x).agenda = s.agenda := rfl
@[simp] theorem setCurCtx_cur (s : State) (x : Ctx) : (setCurCtx s x).cur = s.cur := rfl

@[simp] theorem setCurSeq_cycle (s : State) (v : SeqState) : (setCurSeq s v).cycle = s.cycle := rfl
@[simp] theorem setCurSeq_clusters (s : State) (v : SeqState) : (setCurSeq s v).clusters = s.clusters := rfl
@[simp] theorem setCurSeq_dies (s : State) (v : SeqState) : (setCurSeq s v).dies = s.dies := rfl
@[simp] theorem setCurSeq_parts (s : State) (v : SeqState) : (setCurSeq s v).parts = s.parts := rfl
@[simp] theorem setCurSeq_mgmt (s : State) (v : SeqState) : (setCurSeq s v).mgmt = s.mgmt := rfl
@[simp] theorem setCurSeq_mem (s : State) (v : SeqState) : (setCurSeq s v).mem = s.mem := rfl
@[simp] theorem setCurSeq_lostWords (s : State) (v : SeqState) : (setCurSeq s v).lostWords = s.lostWords := rfl
@[simp] theorem setCurSeq_lineTags (s : State) (v : SeqState) : (setCurSeq s v).lineTags = s.lineTags := rfl
@[simp] theorem setCurSeq_cxl (s : State) (v : SeqState) : (setCurSeq s v).cxl = s.cxl := rfl
@[simp] theorem setCurSeq_tlb (s : State) (v : SeqState) : (setCurSeq s v).tlb = s.tlb := rfl
@[simp] theorem setCurSeq_pkg (s : State) (v : SeqState) : (setCurSeq s v).pkg = s.pkg := rfl
@[simp] theorem setCurSeq_dsize (s : State) (v : SeqState) : (setCurSeq s v).dsize = s.dsize := rfl
@[simp] theorem setCurSeq_groups (s : State) (v : SeqState) : (setCurSeq s v).groups = s.groups := rfl
@[simp] theorem setCurSeq_switches (s : State) (v : SeqState) : (setCurSeq s v).switches = s.switches := rfl
@[simp] theorem setCurSeq_colls (s : State) (v : SeqState) : (setCurSeq s v).colls = s.colls := rfl
@[simp] theorem setCurSeq_fabricOut (s : State) (v : SeqState) : (setCurSeq s v).fabricOut = s.fabricOut := rfl
@[simp] theorem setCurSeq_ticketCtr (s : State) (v : SeqState) : (setCurSeq s v).ticketCtr = s.ticketCtr := rfl
@[simp] theorem setCurSeq_placeCtr (s : State) (v : SeqState) : (setCurSeq s v).placeCtr = s.placeCtr := rfl
@[simp] theorem setCurSeq_freeCtr (s : State) (v : SeqState) : (setCurSeq s v).freeCtr = s.freeCtr := rfl
@[simp] theorem setCurSeq_agenda (s : State) (v : SeqState) : (setCurSeq s v).agenda = s.agenda := rfl
@[simp] theorem setCurSeq_cur (s : State) (v : SeqState) : (setCurSeq s v).cur = s.cur := rfl

@[simp] theorem wr_cycle (s : State) (r : Reg) (v : Word) : (wr s r v).cycle = s.cycle := rfl
@[simp] theorem wr_clusters (s : State) (r : Reg) (v : Word) : (wr s r v).clusters = s.clusters := rfl
@[simp] theorem wr_dies (s : State) (r : Reg) (v : Word) : (wr s r v).dies = s.dies := rfl
@[simp] theorem wr_parts (s : State) (r : Reg) (v : Word) : (wr s r v).parts = s.parts := rfl
@[simp] theorem wr_mgmt (s : State) (r : Reg) (v : Word) : (wr s r v).mgmt = s.mgmt := rfl
@[simp] theorem wr_mem (s : State) (r : Reg) (v : Word) : (wr s r v).mem = s.mem := rfl
@[simp] theorem wr_lostWords (s : State) (r : Reg) (v : Word) : (wr s r v).lostWords = s.lostWords := rfl
@[simp] theorem wr_lineTags (s : State) (r : Reg) (v : Word) : (wr s r v).lineTags = s.lineTags := rfl
@[simp] theorem wr_cxl (s : State) (r : Reg) (v : Word) : (wr s r v).cxl = s.cxl := rfl
@[simp] theorem wr_tlb (s : State) (r : Reg) (v : Word) : (wr s r v).tlb = s.tlb := rfl
@[simp] theorem wr_pkg (s : State) (r : Reg) (v : Word) : (wr s r v).pkg = s.pkg := rfl
@[simp] theorem wr_dsize (s : State) (r : Reg) (v : Word) : (wr s r v).dsize = s.dsize := rfl
@[simp] theorem wr_groups (s : State) (r : Reg) (v : Word) : (wr s r v).groups = s.groups := rfl
@[simp] theorem wr_switches (s : State) (r : Reg) (v : Word) : (wr s r v).switches = s.switches := rfl
@[simp] theorem wr_colls (s : State) (r : Reg) (v : Word) : (wr s r v).colls = s.colls := rfl
@[simp] theorem wr_fabricOut (s : State) (r : Reg) (v : Word) : (wr s r v).fabricOut = s.fabricOut := rfl
@[simp] theorem wr_ticketCtr (s : State) (r : Reg) (v : Word) : (wr s r v).ticketCtr = s.ticketCtr := rfl
@[simp] theorem wr_placeCtr (s : State) (r : Reg) (v : Word) : (wr s r v).placeCtr = s.placeCtr := rfl
@[simp] theorem wr_freeCtr (s : State) (r : Reg) (v : Word) : (wr s r v).freeCtr = s.freeCtr := rfl
@[simp] theorem wr_agenda (s : State) (r : Reg) (v : Word) : (wr s r v).agenda = s.agenda := rfl
@[simp] theorem wr_cur (s : State) (r : Reg) (v : Word) : (wr s r v).cur = s.cur := rfl

@[simp] theorem wrAt_cycle (s : State) (r : Reg) (v : Word) (n : Nat) : (wrAt s r v n).cycle = s.cycle := rfl
@[simp] theorem wrAt_clusters (s : State) (r : Reg) (v : Word) (n : Nat) : (wrAt s r v n).clusters = s.clusters := rfl
@[simp] theorem wrAt_dies (s : State) (r : Reg) (v : Word) (n : Nat) : (wrAt s r v n).dies = s.dies := rfl
@[simp] theorem wrAt_parts (s : State) (r : Reg) (v : Word) (n : Nat) : (wrAt s r v n).parts = s.parts := rfl
@[simp] theorem wrAt_mgmt (s : State) (r : Reg) (v : Word) (n : Nat) : (wrAt s r v n).mgmt = s.mgmt := rfl
@[simp] theorem wrAt_mem (s : State) (r : Reg) (v : Word) (n : Nat) : (wrAt s r v n).mem = s.mem := rfl
@[simp] theorem wrAt_lostWords (s : State) (r : Reg) (v : Word) (n : Nat) : (wrAt s r v n).lostWords = s.lostWords := rfl
@[simp] theorem wrAt_lineTags (s : State) (r : Reg) (v : Word) (n : Nat) : (wrAt s r v n).lineTags = s.lineTags := rfl
@[simp] theorem wrAt_cxl (s : State) (r : Reg) (v : Word) (n : Nat) : (wrAt s r v n).cxl = s.cxl := rfl
@[simp] theorem wrAt_tlb (s : State) (r : Reg) (v : Word) (n : Nat) : (wrAt s r v n).tlb = s.tlb := rfl
@[simp] theorem wrAt_pkg (s : State) (r : Reg) (v : Word) (n : Nat) : (wrAt s r v n).pkg = s.pkg := rfl
@[simp] theorem wrAt_dsize (s : State) (r : Reg) (v : Word) (n : Nat) : (wrAt s r v n).dsize = s.dsize := rfl
@[simp] theorem wrAt_groups (s : State) (r : Reg) (v : Word) (n : Nat) : (wrAt s r v n).groups = s.groups := rfl
@[simp] theorem wrAt_switches (s : State) (r : Reg) (v : Word) (n : Nat) : (wrAt s r v n).switches = s.switches := rfl
@[simp] theorem wrAt_colls (s : State) (r : Reg) (v : Word) (n : Nat) : (wrAt s r v n).colls = s.colls := rfl
@[simp] theorem wrAt_fabricOut (s : State) (r : Reg) (v : Word) (n : Nat) : (wrAt s r v n).fabricOut = s.fabricOut := rfl
@[simp] theorem wrAt_ticketCtr (s : State) (r : Reg) (v : Word) (n : Nat) : (wrAt s r v n).ticketCtr = s.ticketCtr := rfl
@[simp] theorem wrAt_placeCtr (s : State) (r : Reg) (v : Word) (n : Nat) : (wrAt s r v n).placeCtr = s.placeCtr := rfl
@[simp] theorem wrAt_freeCtr (s : State) (r : Reg) (v : Word) (n : Nat) : (wrAt s r v n).freeCtr = s.freeCtr := rfl
@[simp] theorem wrAt_agenda (s : State) (r : Reg) (v : Word) (n : Nat) : (wrAt s r v n).agenda = s.agenda := rfl
@[simp] theorem wrAt_cur (s : State) (r : Reg) (v : Word) (n : Nat) : (wrAt s r v n).cur = s.cur := rfl

@[simp] theorem wrSeq_cycle (s : State) (c : Nat) (q : Seq) (r : Reg) (v : Word) : (wrSeq s c q r v).cycle = s.cycle := rfl
@[simp] theorem wrSeq_clusters (s : State) (c : Nat) (q : Seq) (r : Reg) (v : Word) : (wrSeq s c q r v).clusters = s.clusters := rfl
@[simp] theorem wrSeq_dies (s : State) (c : Nat) (q : Seq) (r : Reg) (v : Word) : (wrSeq s c q r v).dies = s.dies := rfl
@[simp] theorem wrSeq_parts (s : State) (c : Nat) (q : Seq) (r : Reg) (v : Word) : (wrSeq s c q r v).parts = s.parts := rfl
@[simp] theorem wrSeq_mgmt (s : State) (c : Nat) (q : Seq) (r : Reg) (v : Word) : (wrSeq s c q r v).mgmt = s.mgmt := rfl
@[simp] theorem wrSeq_mem (s : State) (c : Nat) (q : Seq) (r : Reg) (v : Word) : (wrSeq s c q r v).mem = s.mem := rfl
@[simp] theorem wrSeq_lostWords (s : State) (c : Nat) (q : Seq) (r : Reg) (v : Word) : (wrSeq s c q r v).lostWords = s.lostWords := rfl
@[simp] theorem wrSeq_lineTags (s : State) (c : Nat) (q : Seq) (r : Reg) (v : Word) : (wrSeq s c q r v).lineTags = s.lineTags := rfl
@[simp] theorem wrSeq_cxl (s : State) (c : Nat) (q : Seq) (r : Reg) (v : Word) : (wrSeq s c q r v).cxl = s.cxl := rfl
@[simp] theorem wrSeq_tlb (s : State) (c : Nat) (q : Seq) (r : Reg) (v : Word) : (wrSeq s c q r v).tlb = s.tlb := rfl
@[simp] theorem wrSeq_pkg (s : State) (c : Nat) (q : Seq) (r : Reg) (v : Word) : (wrSeq s c q r v).pkg = s.pkg := rfl
@[simp] theorem wrSeq_dsize (s : State) (c : Nat) (q : Seq) (r : Reg) (v : Word) : (wrSeq s c q r v).dsize = s.dsize := rfl
@[simp] theorem wrSeq_groups (s : State) (c : Nat) (q : Seq) (r : Reg) (v : Word) : (wrSeq s c q r v).groups = s.groups := rfl
@[simp] theorem wrSeq_switches (s : State) (c : Nat) (q : Seq) (r : Reg) (v : Word) : (wrSeq s c q r v).switches = s.switches := rfl
@[simp] theorem wrSeq_colls (s : State) (c : Nat) (q : Seq) (r : Reg) (v : Word) : (wrSeq s c q r v).colls = s.colls := rfl
@[simp] theorem wrSeq_fabricOut (s : State) (c : Nat) (q : Seq) (r : Reg) (v : Word) : (wrSeq s c q r v).fabricOut = s.fabricOut := rfl
@[simp] theorem wrSeq_ticketCtr (s : State) (c : Nat) (q : Seq) (r : Reg) (v : Word) : (wrSeq s c q r v).ticketCtr = s.ticketCtr := rfl
@[simp] theorem wrSeq_placeCtr (s : State) (c : Nat) (q : Seq) (r : Reg) (v : Word) : (wrSeq s c q r v).placeCtr = s.placeCtr := rfl
@[simp] theorem wrSeq_freeCtr (s : State) (c : Nat) (q : Seq) (r : Reg) (v : Word) : (wrSeq s c q r v).freeCtr = s.freeCtr := rfl
@[simp] theorem wrSeq_agenda (s : State) (c : Nat) (q : Seq) (r : Reg) (v : Word) : (wrSeq s c q r v).agenda = s.agenda := rfl
@[simp] theorem wrSeq_cur (s : State) (c : Nat) (q : Seq) (r : Reg) (v : Word) : (wrSeq s c q r v).cur = s.cur := rfl

@[simp] theorem takeFree_cycle (s : State) (n : Nat) : (takeFree s n).cycle = s.cycle := rfl
@[simp] theorem takeFree_cores (s : State) (n : Nat) : (takeFree s n).cores = s.cores := rfl
@[simp] theorem takeFree_clusters (s : State) (n : Nat) : (takeFree s n).clusters = s.clusters := rfl
@[simp] theorem takeFree_dies (s : State) (n : Nat) : (takeFree s n).dies = s.dies := rfl
@[simp] theorem takeFree_parts (s : State) (n : Nat) : (takeFree s n).parts = s.parts := rfl
@[simp] theorem takeFree_mgmt (s : State) (n : Nat) : (takeFree s n).mgmt = s.mgmt := rfl
@[simp] theorem takeFree_mem (s : State) (n : Nat) : (takeFree s n).mem = s.mem := rfl
@[simp] theorem takeFree_lostWords (s : State) (n : Nat) : (takeFree s n).lostWords = s.lostWords := rfl
@[simp] theorem takeFree_lineTags (s : State) (n : Nat) : (takeFree s n).lineTags = s.lineTags := rfl
@[simp] theorem takeFree_cxl (s : State) (n : Nat) : (takeFree s n).cxl = s.cxl := rfl
@[simp] theorem takeFree_tlb (s : State) (n : Nat) : (takeFree s n).tlb = s.tlb := rfl
@[simp] theorem takeFree_pkg (s : State) (n : Nat) : (takeFree s n).pkg = s.pkg := rfl
@[simp] theorem takeFree_dsize (s : State) (n : Nat) : (takeFree s n).dsize = s.dsize := rfl
@[simp] theorem takeFree_groups (s : State) (n : Nat) : (takeFree s n).groups = s.groups := rfl
@[simp] theorem takeFree_switches (s : State) (n : Nat) : (takeFree s n).switches = s.switches := rfl
@[simp] theorem takeFree_colls (s : State) (n : Nat) : (takeFree s n).colls = s.colls := rfl
@[simp] theorem takeFree_fabricOut (s : State) (n : Nat) : (takeFree s n).fabricOut = s.fabricOut := rfl
@[simp] theorem takeFree_ticketCtr (s : State) (n : Nat) : (takeFree s n).ticketCtr = s.ticketCtr := rfl
@[simp] theorem takeFree_placeCtr (s : State) (n : Nat) : (takeFree s n).placeCtr = s.placeCtr := rfl
@[simp] theorem takeFree_agenda (s : State) (n : Nat) : (takeFree s n).agenda = s.agenda := rfl
@[simp] theorem takeFree_cur (s : State) (n : Nat) : (takeFree s n).cur = s.cur := rfl

@[simp] theorem petWatchdog_cycle (s : State) : (petWatchdog s).cycle = s.cycle := rfl
@[simp] theorem petWatchdog_clusters (s : State) : (petWatchdog s).clusters = s.clusters := rfl
@[simp] theorem petWatchdog_dies (s : State) : (petWatchdog s).dies = s.dies := rfl
@[simp] theorem petWatchdog_parts (s : State) : (petWatchdog s).parts = s.parts := rfl
@[simp] theorem petWatchdog_mgmt (s : State) : (petWatchdog s).mgmt = s.mgmt := rfl
@[simp] theorem petWatchdog_mem (s : State) : (petWatchdog s).mem = s.mem := rfl
@[simp] theorem petWatchdog_lostWords (s : State) : (petWatchdog s).lostWords = s.lostWords := rfl
@[simp] theorem petWatchdog_lineTags (s : State) : (petWatchdog s).lineTags = s.lineTags := rfl
@[simp] theorem petWatchdog_cxl (s : State) : (petWatchdog s).cxl = s.cxl := rfl
@[simp] theorem petWatchdog_tlb (s : State) : (petWatchdog s).tlb = s.tlb := rfl
@[simp] theorem petWatchdog_pkg (s : State) : (petWatchdog s).pkg = s.pkg := rfl
@[simp] theorem petWatchdog_dsize (s : State) : (petWatchdog s).dsize = s.dsize := rfl
@[simp] theorem petWatchdog_groups (s : State) : (petWatchdog s).groups = s.groups := rfl
@[simp] theorem petWatchdog_switches (s : State) : (petWatchdog s).switches = s.switches := rfl
@[simp] theorem petWatchdog_colls (s : State) : (petWatchdog s).colls = s.colls := rfl
@[simp] theorem petWatchdog_fabricOut (s : State) : (petWatchdog s).fabricOut = s.fabricOut := rfl
@[simp] theorem petWatchdog_ticketCtr (s : State) : (petWatchdog s).ticketCtr = s.ticketCtr := rfl
@[simp] theorem petWatchdog_placeCtr (s : State) : (petWatchdog s).placeCtr = s.placeCtr := rfl
@[simp] theorem petWatchdog_freeCtr (s : State) : (petWatchdog s).freeCtr = s.freeCtr := rfl
@[simp] theorem petWatchdog_agenda (s : State) : (petWatchdog s).agenda = s.agenda := rfl
@[simp] theorem petWatchdog_cur (s : State) : (petWatchdog s).cur = s.cur := rfl

@[simp] theorem finish_cycle (len n : Nat) (s : State) : (finish len n s).cycle = s.cycle := rfl
@[simp] theorem finish_clusters (len n : Nat) (s : State) : (finish len n s).clusters = s.clusters := rfl
@[simp] theorem finish_dies (len n : Nat) (s : State) : (finish len n s).dies = s.dies := rfl
@[simp] theorem finish_parts (len n : Nat) (s : State) : (finish len n s).parts = s.parts := rfl
@[simp] theorem finish_mgmt (len n : Nat) (s : State) : (finish len n s).mgmt = s.mgmt := rfl
@[simp] theorem finish_mem (len n : Nat) (s : State) : (finish len n s).mem = s.mem := rfl
@[simp] theorem finish_lostWords (len n : Nat) (s : State) : (finish len n s).lostWords = s.lostWords := rfl
@[simp] theorem finish_lineTags (len n : Nat) (s : State) : (finish len n s).lineTags = s.lineTags := rfl
@[simp] theorem finish_cxl (len n : Nat) (s : State) : (finish len n s).cxl = s.cxl := rfl
@[simp] theorem finish_tlb (len n : Nat) (s : State) : (finish len n s).tlb = s.tlb := rfl
@[simp] theorem finish_pkg (len n : Nat) (s : State) : (finish len n s).pkg = s.pkg := rfl
@[simp] theorem finish_dsize (len n : Nat) (s : State) : (finish len n s).dsize = s.dsize := rfl
@[simp] theorem finish_groups (len n : Nat) (s : State) : (finish len n s).groups = s.groups := rfl
@[simp] theorem finish_switches (len n : Nat) (s : State) : (finish len n s).switches = s.switches := rfl
@[simp] theorem finish_colls (len n : Nat) (s : State) : (finish len n s).colls = s.colls := rfl
@[simp] theorem finish_fabricOut (len n : Nat) (s : State) : (finish len n s).fabricOut = s.fabricOut := rfl
@[simp] theorem finish_ticketCtr (len n : Nat) (s : State) : (finish len n s).ticketCtr = s.ticketCtr := rfl
@[simp] theorem finish_placeCtr (len n : Nat) (s : State) : (finish len n s).placeCtr = s.placeCtr := rfl
@[simp] theorem finish_freeCtr (len n : Nat) (s : State) : (finish len n s).freeCtr = s.freeCtr := rfl
@[simp] theorem finish_agenda (len n : Nat) (s : State) : (finish len n s).agenda = s.agenda := rfl
@[simp] theorem finish_cur (len n : Nat) (s : State) : (finish len n s).cur = s.cur := rfl

@[simp] theorem jumpTo_cycle (a n : Nat) (s : State) : (jumpTo a n s).cycle = s.cycle := rfl
@[simp] theorem jumpTo_clusters (a n : Nat) (s : State) : (jumpTo a n s).clusters = s.clusters := rfl
@[simp] theorem jumpTo_dies (a n : Nat) (s : State) : (jumpTo a n s).dies = s.dies := rfl
@[simp] theorem jumpTo_parts (a n : Nat) (s : State) : (jumpTo a n s).parts = s.parts := rfl
@[simp] theorem jumpTo_mgmt (a n : Nat) (s : State) : (jumpTo a n s).mgmt = s.mgmt := rfl
@[simp] theorem jumpTo_mem (a n : Nat) (s : State) : (jumpTo a n s).mem = s.mem := rfl
@[simp] theorem jumpTo_lostWords (a n : Nat) (s : State) : (jumpTo a n s).lostWords = s.lostWords := rfl
@[simp] theorem jumpTo_lineTags (a n : Nat) (s : State) : (jumpTo a n s).lineTags = s.lineTags := rfl
@[simp] theorem jumpTo_cxl (a n : Nat) (s : State) : (jumpTo a n s).cxl = s.cxl := rfl
@[simp] theorem jumpTo_tlb (a n : Nat) (s : State) : (jumpTo a n s).tlb = s.tlb := rfl
@[simp] theorem jumpTo_pkg (a n : Nat) (s : State) : (jumpTo a n s).pkg = s.pkg := rfl
@[simp] theorem jumpTo_dsize (a n : Nat) (s : State) : (jumpTo a n s).dsize = s.dsize := rfl
@[simp] theorem jumpTo_groups (a n : Nat) (s : State) : (jumpTo a n s).groups = s.groups := rfl
@[simp] theorem jumpTo_switches (a n : Nat) (s : State) : (jumpTo a n s).switches = s.switches := rfl
@[simp] theorem jumpTo_colls (a n : Nat) (s : State) : (jumpTo a n s).colls = s.colls := rfl
@[simp] theorem jumpTo_fabricOut (a n : Nat) (s : State) : (jumpTo a n s).fabricOut = s.fabricOut := rfl
@[simp] theorem jumpTo_ticketCtr (a n : Nat) (s : State) : (jumpTo a n s).ticketCtr = s.ticketCtr := rfl
@[simp] theorem jumpTo_placeCtr (a n : Nat) (s : State) : (jumpTo a n s).placeCtr = s.placeCtr := rfl
@[simp] theorem jumpTo_freeCtr (a n : Nat) (s : State) : (jumpTo a n s).freeCtr = s.freeCtr := rfl
@[simp] theorem jumpTo_agenda (a n : Nat) (s : State) : (jumpTo a n s).agenda = s.agenda := rfl
@[simp] theorem jumpTo_cur (a n : Nat) (s : State) : (jumpTo a n s).cur = s.cur := rfl

@[simp] theorem takeFree_freeCtr (s : State) (n : Nat) : (takeFree s n).freeCtr = s.freeCtr + n := rfl
@[simp] theorem getCluster_setCore (s : State) (c : Nat) (x : CoreState) (k : Nat) : getCluster (setCore s c x) k = getCluster s k := rfl
@[simp] theorem getDie_setCore (s : State) (c : Nat) (x : CoreState) (k : Nat) : getDie (setCore s c x) k = getDie s k := rfl
@[simp] theorem getPart_setCore (s : State) (c : Nat) (x : CoreState) (k : Nat) : getPart (setCore s c x) k = getPart s k := rfl
@[simp] theorem getCore_setCluster (s : State) (c : Nat) (x : Cluster) (k : Nat) : getCore (setCluster s c x) k = getCore s k := rfl
@[simp] theorem getDie_setCluster (s : State) (c : Nat) (x : Cluster) (k : Nat) : getDie (setCluster s c x) k = getDie s k := rfl
@[simp] theorem getPart_setCluster (s : State) (c : Nat) (x : Cluster) (k : Nat) : getPart (setCluster s c x) k = getPart s k := rfl
@[simp] theorem getCore_setDie (s : State) (d : Nat) (x : Die) (k : Nat) : getCore (setDie s d x) k = getCore s k := rfl
@[simp] theorem getCluster_setDie (s : State) (d : Nat) (x : Die) (k : Nat) : getCluster (setDie s d x) k = getCluster s k := rfl
@[simp] theorem getPart_setDie (s : State) (d : Nat) (x : Die) (k : Nat) : getPart (setDie s d x) k = getPart s k := rfl
@[simp] theorem getCore_setPart (s : State) (p : Nat) (x : Partition) (k : Nat) : getCore (setPart s p x) k = getCore s k := rfl
@[simp] theorem getCluster_setPart (s : State) (p : Nat) (x : Partition) (k : Nat) : getCluster (setPart s p x) k = getCluster s k := rfl
@[simp] theorem getDie_setPart (s : State) (p : Nat) (x : Partition) (k : Nat) : getDie (setPart s p x) k = getDie s k := rfl
@[simp] theorem getCore_takeFree (s : State) (n : Nat) (k : Nat) : getCore (takeFree s n) k = getCore s k := rfl
@[simp] theorem getCluster_takeFree (s : State) (n : Nat) (k : Nat) : getCluster (takeFree s n) k = getCluster s k := rfl
@[simp] theorem getDie_takeFree (s : State) (n : Nat) (k : Nat) : getDie (takeFree s n) k = getDie s k := rfl
@[simp] theorem getPart_takeFree (s : State) (n : Nat) (k : Nat) : getPart (takeFree s n) k = getPart s k := rfl
@[simp] theorem getCluster_setCtx (s : State) (c : Nat) (x : Ctx) (k : Nat) : getCluster (setCtx s c x) k = getCluster s k := rfl
@[simp] theorem getDie_setCtx (s : State) (c : Nat) (x : Ctx) (k : Nat) : getDie (setCtx s c x) k = getDie s k := rfl
@[simp] theorem getPart_setCtx (s : State) (c : Nat) (x : Ctx) (k : Nat) : getPart (setCtx s c x) k = getPart s k := rfl
@[simp] theorem getCluster_setSeq (s : State) (c : Nat) (q : Seq) (v : SeqState) (k : Nat) : getCluster (setSeq s c q v) k = getCluster s k := rfl
@[simp] theorem getDie_setSeq (s : State) (c : Nat) (q : Seq) (v : SeqState) (k : Nat) : getDie (setSeq s c q v) k = getDie s k := rfl
@[simp] theorem getPart_setSeq (s : State) (c : Nat) (q : Seq) (v : SeqState) (k : Nat) : getPart (setSeq s c q v) k = getPart s k := rfl
@[simp] theorem getCluster_setCurCtx (s : State) (x : Ctx) (k : Nat) : getCluster (setCurCtx s x) k = getCluster s k := rfl
@[simp] theorem getDie_setCurCtx (s : State) (x : Ctx) (k : Nat) : getDie (setCurCtx s x) k = getDie s k := rfl
@[simp] theorem getPart_setCurCtx (s : State) (x : Ctx) (k : Nat) : getPart (setCurCtx s x) k = getPart s k := rfl
@[simp] theorem getCluster_setCurSeq (s : State) (v : SeqState) (k : Nat) : getCluster (setCurSeq s v) k = getCluster s k := rfl
@[simp] theorem getDie_setCurSeq (s : State) (v : SeqState) (k : Nat) : getDie (setCurSeq s v) k = getDie s k := rfl
@[simp] theorem getPart_setCurSeq (s : State) (v : SeqState) (k : Nat) : getPart (setCurSeq s v) k = getPart s k := rfl
@[simp] theorem getCluster_wr (s : State) (r : Reg) (v : Word) (k : Nat) : getCluster (wr s r v) k = getCluster s k := rfl
@[simp] theorem getDie_wr (s : State) (r : Reg) (v : Word) (k : Nat) : getDie (wr s r v) k = getDie s k := rfl
@[simp] theorem getPart_wr (s : State) (r : Reg) (v : Word) (k : Nat) : getPart (wr s r v) k = getPart s k := rfl
@[simp] theorem getCluster_wrAt (s : State) (r : Reg) (v : Word) (n : Nat) (k : Nat) : getCluster (wrAt s r v n) k = getCluster s k := rfl
@[simp] theorem getDie_wrAt (s : State) (r : Reg) (v : Word) (n : Nat) (k : Nat) : getDie (wrAt s r v n) k = getDie s k := rfl
@[simp] theorem getPart_wrAt (s : State) (r : Reg) (v : Word) (n : Nat) (k : Nat) : getPart (wrAt s r v n) k = getPart s k := rfl
@[simp] theorem getCluster_wrSeq (s : State) (c : Nat) (q : Seq) (r : Reg) (v : Word) (k : Nat) : getCluster (wrSeq s c q r v) k = getCluster s k := rfl
@[simp] theorem getDie_wrSeq (s : State) (c : Nat) (q : Seq) (r : Reg) (v : Word) (k : Nat) : getDie (wrSeq s c q r v) k = getDie s k := rfl
@[simp] theorem getPart_wrSeq (s : State) (c : Nat) (q : Seq) (r : Reg) (v : Word) (k : Nat) : getPart (wrSeq s c q r v) k = getPart s k := rfl
@[simp] theorem getCluster_petWatchdog (s : State) (k : Nat) : getCluster (petWatchdog s) k = getCluster s k := rfl
@[simp] theorem getDie_petWatchdog (s : State) (k : Nat) : getDie (petWatchdog s) k = getDie s k := rfl
@[simp] theorem getPart_petWatchdog (s : State) (k : Nat) : getPart (petWatchdog s) k = getPart s k := rfl
@[simp] theorem getCluster_finish (len n : Nat) (s : State) (k : Nat) : getCluster (finish len n s) k = getCluster s k := rfl
@[simp] theorem getDie_finish (len n : Nat) (s : State) (k : Nat) : getDie (finish len n s) k = getDie s k := rfl
@[simp] theorem getPart_finish (len n : Nat) (s : State) (k : Nat) : getPart (finish len n s) k = getPart s k := rfl
@[simp] theorem getCluster_jumpTo (a n : Nat) (s : State) (k : Nat) : getCluster (jumpTo a n s) k = getCluster s k := rfl
@[simp] theorem getDie_jumpTo (a n : Nat) (s : State) (k : Nat) : getDie (jumpTo a n s) k = getDie s k := rfl
@[simp] theorem getPart_jumpTo (a n : Nat) (s : State) (k : Nat) : getPart (jumpTo a n s) k = getPart s k := rfl

end Sys2Proof.Machine
end

