-- ==== Sys2Proof/Laws/Table.lean ====
section
/-! SUPPORT. The laws of sparse tables: reading after a write, writing twice, and that writing keeps keys strictly rising. -/

namespace Sys2Proof.Machine

theorem tfind_tput_same {α : Type} (t : Table α) (n : Nat) (v : α) : tfind (tput t n v) n = some v := by
  induction t with
  | nil => simp [tput, tfind]
  | cons p t ih =>
    obtain ⟨k, w⟩ := p
    simp only [tput]
    split
    · simp [tfind]
    · split
      · simp [tfind]
      · rename_i _ h
        simp [tfind, ih]
        omega

theorem tfind_tput_other {α : Type} (t : Table α) {n m : Nat} (v : α) (h : m ≠ n) : tfind (tput t n v) m = tfind t m := by
  induction t with
  | nil => simp [tput, tfind, Ne.symm h]
  | cons p t ih =>
    obtain ⟨k, w⟩ := p
    simp only [tput]
    split
    · simp [tfind, Ne.symm h]
    · split
      · rename_i _ e
        subst e
        simp [tfind, Ne.symm h]
      · simp [tfind, ih]

@[simp] theorem tget_tput_same {α : Type} (d : α) (t : Table α) (n : Nat) (v : α) : tget d (tput t n v) n = v := by
  simp [tget, tfind_tput_same]

theorem tget_tput_other {α : Type} (d : α) (t : Table α) {n m : Nat} (v : α) (h : m ≠ n) : tget d (tput t n v) m = tget d t m := by
  simp [tget, tfind_tput_other _ _ h]

@[simp] theorem tput_tput {α : Type} (t : Table α) (n : Nat) (v w : α) : tput (tput t n v) n w = tput t n w := by
  induction t with
  | nil => simp [tput]
  | cons p t ih =>
    obtain ⟨k, u⟩ := p
    simp only [tput]
    split
    · simp [tput]
    · split
      · simp [tput]
      · rename_i h1 h2
        simp [tput, h1, h2, ih]

/-- What precedes the first key of a table after a write. -/
theorem tput_head {α : Type} (t : Table α) (n : Nat) (v : α) (a : Nat) (hn : a < n) (ht : ∀ p ∈ t.head?, a < p.1) :
    ∀ p ∈ (tput t n v).head?, a < p.1 := by
  cases t with
  | nil => simpa [tput] using hn
  | cons p t =>
    obtain ⟨k, u⟩ := p
    simp only [tput]
    split
    · simpa using hn
    · split
      · simpa using hn
      · simpa using ht

/-- The keys of a table, head first: the head's key is below the next one's. -/
theorem tableOrdered_cons {α : Type} (a : Nat) (u : α) (t : Table α) :
    tableOrdered ((a, u) :: t) = true ↔ (∀ p ∈ t.head?, a < p.1) ∧ tableOrdered t = true := by
  cases t with
  | nil => simp [tableOrdered]
  | cons p t => obtain ⟨k, w⟩ := p; simp [tableOrdered]

theorem tableOrdered_tput {α : Type} (t : Table α) (n : Nat) (v : α) (h : tableOrdered t = true) : tableOrdered (tput t n v) = true := by
  induction t with
  | nil => simp [tput, tableOrdered]
  | cons p t ih =>
    obtain ⟨k, u⟩ := p
    have h' := (tableOrdered_cons k u t).1 h
    simp only [tput]
    split
    · rename_i hk
      exact (tableOrdered_cons _ _ _).2 ⟨by simpa using hk, h⟩
    · split
      · rename_i _ e
        subst e
        exact (tableOrdered_cons _ _ _).2 h'
      · rename_i h1 h2
        exact (tableOrdered_cons _ _ _).2 ⟨tput_head t n v k (by omega) h'.1, ih h'.2⟩

end Sys2Proof.Machine
end

