-- ==== Sys2Proof/Laws/Ops.lean ====
section
/-! SUPPORT. The laws of the named operations: reading a unit after a write of it or of another one, g registers, and what completing an
instruction does to its sequencer and to nothing else. -/

namespace Sys2Proof.Machine

/-! ## Units -/

@[simp] theorem getCore_setCore (s : State) (c : Nat) (x : CoreState) : getCore (setCore s c x) c = x := by simp [getCore, setCore]
theorem getCore_setCore_other (s : State) {c d : Nat} (x : CoreState) (h : d ≠ c) : getCore (setCore s c x) d = getCore s d := by
  simp [getCore, setCore, tget_tput_other _ _ _ h]
@[simp] theorem getCluster_setCluster (s : State) (c : Nat) (x : Cluster) : getCluster (setCluster s c x) c = x := by simp [getCluster, setCluster]
theorem getCluster_setCluster_other (s : State) {c d : Nat} (x : Cluster) (h : d ≠ c) : getCluster (setCluster s c x) d = getCluster s d := by
  simp [getCluster, setCluster, tget_tput_other _ _ _ h]
@[simp] theorem getDie_setDie (s : State) (d : Nat) (x : Die) : getDie (setDie s d x) d = x := by simp [getDie, setDie]
theorem getDie_setDie_other (s : State) {d e : Nat} (x : Die) (h : e ≠ d) : getDie (setDie s d x) e = getDie s e := by
  simp [getDie, setDie, tget_tput_other _ _ _ h]
@[simp] theorem getPart_setPart (s : State) (p : Nat) (x : Partition) : getPart (setPart s p x) p = x := by simp [getPart, setPart]
theorem getPart_setPart_other (s : State) {p r : Nat} (x : Partition) (h : r ≠ p) : getPart (setPart s p x) r = getPart s r := by
  simp [getPart, setPart, tget_tput_other _ _ _ h]

@[simp] theorem setCore_setCore (s : State) (c : Nat) (x y : CoreState) : setCore (setCore s c x) c y = setCore s c y := by simp [setCore]
@[simp] theorem setDie_setDie (s : State) (d : Nat) (x y : Die) : setDie (setDie s d x) d y = setDie s d y := by simp [setDie]
@[simp] theorem setPart_setPart (s : State) (p : Nat) (x y : Partition) : setPart (setPart s p x) p y = setPart s p y := by simp [setPart]
@[simp] theorem setCluster_setCluster (s : State) (c : Nat) (x y : Cluster) : setCluster (setCluster s c x) c y = setCluster s c y := by
  simp [setCluster]

/-! ## Contexts and sequencers -/

@[simp] theorem getCtx_setCtx (s : State) (c : Nat) (x : Ctx) : getCtx (setCtx s c x) c = x := by simp [getCtx, setCtx]
theorem getCtx_setCtx_other (s : State) {c d : Nat} (x : Ctx) (h : d ≠ c) : getCtx (setCtx s c x) d = getCtx s d := by
  simp [getCtx, setCtx, getCore_setCore_other _ _ h]
@[simp] theorem setCtx_setCtx (s : State) (c : Nat) (x y : Ctx) : setCtx (setCtx s c x) c y = setCtx s c y := by simp [setCtx]
@[simp] theorem ctxSeq_setCtxSeq (x : Ctx) (q : Seq) (v : SeqState) : ctxSeq (setCtxSeq x q v) q = v := by cases q <;> rfl
theorem ctxSeq_setCtxSeq_other (x : Ctx) {q r : Seq} (v : SeqState) (h : r ≠ q) : ctxSeq (setCtxSeq x q v) r = ctxSeq x r := by
  cases q <;> cases r <;> first | rfl | exact absurd rfl h
@[simp] theorem setCtxSeq_setCtxSeq (x : Ctx) (q : Seq) (v w : SeqState) : setCtxSeq (setCtxSeq x q v) q w = setCtxSeq x q w := by cases q <;> rfl
@[simp] theorem setCtxSeq_ctxSeq (x : Ctx) (q : Seq) : setCtxSeq x q (ctxSeq x q) = x := by cases q <;> rfl
@[simp] theorem getSeq_setSeq (s : State) (c : Nat) (q : Seq) (v : SeqState) : getSeq (setSeq s c q v) c q = v := by simp [getSeq, setSeq]
@[simp] theorem setSeq_setSeq (s : State) (c : Nat) (q : Seq) (v w : SeqState) : setSeq (setSeq s c q v) c q w = setSeq s c q w := by simp [setSeq]

@[simp] theorem curCtx_setCurCtx (s : State) (x : Ctx) : curCtx (setCurCtx s x) = x := by simp [curCtx, setCurCtx]
@[simp] theorem setCurCtx_setCurCtx (s : State) (x y : Ctx) : setCurCtx (setCurCtx s x) y = setCurCtx s y := by simp [setCurCtx]
@[simp] theorem curSeq_setCurSeq (s : State) (v : SeqState) : curSeq (setCurSeq s v) = v := by simp [curSeq, setCurSeq]
@[simp] theorem curCtx_setCurSeq (s : State) (v : SeqState) : curCtx (setCurSeq s v) = setCtxSeq (curCtx s) s.cur.2 v := by
  simp [curCtx, setCurSeq, setSeq]
theorem setCurSeq_eq (s : State) (v : SeqState) : setCurSeq s v = setCurCtx s (setCtxSeq (curCtx s) s.cur.2 v) := rfl
theorem curSeq_eq (s : State) : curSeq s = ctxSeq (curCtx s) s.cur.2 := rfl
@[simp] theorem curSeq_setCurCtx (s : State) (x : Ctx) : curSeq (setCurCtx s x) = ctxSeq x s.cur.2 := by simp [curSeq_eq]
@[simp] theorem setCurSeq_setCurSeq (s : State) (v w : SeqState) : setCurSeq (setCurSeq s v) w = setCurSeq s w := by
  simp [setCurSeq_eq]
@[simp] theorem curCtx_takeFree (s : State) (n : Nat) : curCtx (takeFree s n) = curCtx s := rfl
@[simp] theorem curSeq_takeFree (s : State) (n : Nat) : curSeq (takeFree s n) = curSeq s := rfl

/-! ## g registers (R39) -/

@[simp] theorem regOf_zero (q : SeqState) : regOf q 0 = 0 := by simp [regOf]
theorem regOf_withReg (q : SeqState) (r : Reg) (v : Word) : regOf (withReg q r v) r = if r = 0 then 0 else v := by
  unfold regOf withReg
  split <;> simp_all
theorem regOf_withReg_other (q : SeqState) {r d : Reg} (v : Word) (h : r ≠ d) : regOf (withReg q d v) r = regOf q r := by
  have : r.toNat ≠ d.toNat := fun e => h (BitVec.eq_of_toNat_eq e)
  unfold regOf withReg
  split
  · rfl
  · split
    · rfl
    · exact tget_tput_other _ _ _ this

/-! ## Completing an instruction -/

theorem finish_eq (len n : Nat) (s : State) :
    finish len n s = setCurCtx s { setCtxSeq (curCtx s) s.cur.2 (issued (fallThrough (curSeq s) (curSeq s).pc.toNat len) n) with wdog := 0 } := by
  simp [finish, petWatchdog, setCurSeq_eq]
theorem jumpTo_eq (a n : Nat) (s : State) :
    jumpTo a n s = setCurCtx s { setCtxSeq (curCtx s) s.cur.2 (issued { curSeq s with pc := BitVec.ofNat 32 a } n) with wdog := 0 } := by
  simp [jumpTo, petWatchdog, setCurSeq_eq]

end Sys2Proof.Machine
end

