-- ==== Sys2Proof/Laws/Control.lean ====
section
/-! SUPPORT. What the shared operations of the control subset can do, said once: completing, writing a result, blocking, faulting. -/

namespace Sys2Proof.Machine

theorem memSame_refl (s : State) : MemSame s s := fun _ => rfl

theorem memSame_of_mem {s t : State} (h : t.mem = s.mem) : MemSame s t := fun _ => by rw [h]

@[simp] theorem setCurCtx_self_eq (s : State) (x : Ctx) : setCurCtx s (curCtx (setCurCtx s x)) = setCurCtx s x := by simp

/-- Replacing the executing context changes nothing outside it. -/
theorem onlyContext_setCurCtx (s : State) (x : Ctx) : OnlyContext s (setCurCtx s x) :=
  ⟨by rw [setCurCtx_self_eq], memSame_of_mem rfl⟩

theorem onlyContext_takeFree (s : State) (x : Ctx) (n : Nat) : OnlyContext s (takeFree (setCurCtx s x) n) :=
  ⟨by
    have : curCtx (takeFree (setCurCtx s x) n) = x := by rw [curCtx_takeFree, curCtx_setCurCtx]
    rw [this]; rfl, memSame_of_mem rfl⟩

@[simp] theorem fallThrough_g (q : SeqState) (p len : Nat) : (fallThrough q p len).g = q.g := rfl

theorem fallThrough_congr (q q' : SeqState) (p len : Nat) (hl : q'.lc = q.lc) (ht : q'.tlevel = q.tlevel) :
    (fallThrough q' p len).pc = (fallThrough q p len).pc ∧ (fallThrough q' p len).lc = (fallThrough q p len).lc := by
  simp [fallThrough, hl, ht]

/-- A sequencer that writes register d and completes. -/
theorem seqDone_write (q : SeqState) (r : Table Nat) (d : Reg) (v : Word) (len n : Nat) :
    SeqDone q (issued (fallThrough (withReg { q with gready := r } d v) q.pc.toNat len) n) len n [d] := by
  have e : withReg { q with gready := r } d v = { q with gready := r, g := (withReg q d v).g } := by
    unfold withReg; split <;> rfl
  rw [e]
  refine ⟨rfl, rfl, rfl, rfl, fun i hi => ?_, rfl⟩
  have h : i ≠ d := by simpa using hi
  have := regOf_withReg_other q v h
  simpa [regOf, issued, fallThrough] using this

/-- A sequencer that completes. -/
theorem seqDone_plain (q : SeqState) (len n : Nat) : SeqDone q (issued (fallThrough q q.pc.toNat len) n) len n [] :=
  ⟨rfl, rfl, rfl, rfl, fun _ _ => rfl, rfl⟩

@[simp] theorem restOfCtx_setCtxSeq (x : Ctx) (sq : Seq) (v : SeqState) : restOfCtx (setCtxSeq x sq v) sq = restOfCtx x sq := by
  simp [restOfCtx]
@[simp] theorem restOfCtx_wdog (x : Ctx) (sq : Seq) (n : Nat) : restOfCtx { x with wdog := n } sq = restOfCtx x sq := by
  cases sq <;> rfl
@[simp] theorem ctxSeq_wdog (x : Ctx) (sq : Seq) (n : Nat) : ctxSeq { x with wdog := n } sq = ctxSeq x sq := by cases sq <;> rfl

/-- A context with the executing sequencer replaced and the watchdog's count at 0: what completing an instruction leaves. -/
theorem onlyContext_after (s : State) (q : SeqState) (n : Nat) :
    OnlyContext s (setCurCtx s { setCtxSeq (curCtx s) s.cur.2 q with wdog := n }) := onlyContext_setCurCtx s _

theorem curSeq_after (s : State) (q : SeqState) (n : Nat) :
    curSeq (setCurCtx s { setCtxSeq (curCtx s) s.cur.2 q with wdog := n }) = q := by
  rw [curSeq_setCurCtx, ctxSeq_wdog, ctxSeq_setCtxSeq]

theorem restOfCtx_after (s : State) (q : SeqState) (n : Nat) :
    restOfCtx (curCtx (setCurCtx s { setCtxSeq (curCtx s) s.cur.2 q with wdog := n })) s.cur.2 = restOfCtx (curCtx s) s.cur.2 := by
  rw [curCtx_setCurCtx, restOfCtx_wdog, restOfCtx_setCtxSeq]

/-- Completing an instruction after a write of the executing sequencer. -/
theorem finish_setCurSeq (len n : Nat) (s : State) (q : SeqState) :
    finish len n (setCurSeq s q) =
      setCurCtx s { setCtxSeq (curCtx s) s.cur.2 (issued (fallThrough q q.pc.toNat len) n) with wdog := 0 } := by
  rw [finish_eq, curCtx_setCurSeq, curSeq_setCurSeq, setCurSeq_cur, setCtxSeq_setCtxSeq, setCurSeq_eq, setCurCtx_setCurCtx]

theorem withReg_pc (q : SeqState) (r : Reg) (v : Word) : (withReg q r v).pc = q.pc := by unfold withReg; split <;> rfl

/-- Writing a register and completing. -/
theorem finish_wrAt (len n k : Nat) (s : State) (d : Reg) (v : Word) :
    finish len n (wrAt s d v k) =
      setCurCtx s { setCtxSeq (curCtx s) s.cur.2
        (issued (fallThrough (withReg { curSeq s with gready := tput (curSeq s).gready d.toNat (max (tget 0 (curSeq s).gready d.toNat) ((curSeq s).clock + k)) } d v)
          (curSeq s).pc.toNat len) n) with wdog := 0 } := by
  rw [wrAt, finish_setCurSeq, withReg_pc]

/-- putResult writes its register and changes nothing else. -/
theorem putResult_eq (d : Reg) (v : Word) (n : Nat) (s : State) : ∃ t, putResult d v n s = .next t ∧ WritesReg s d v 1 t := by
  refine ⟨_, rfl, ?_⟩
  rw [finish_wrAt]
  refine ⟨?_, onlyContext_after _ _ _, restOfCtx_after _ _ _, ?_⟩
  · unfold Holds rd
    rw [curSeq_after]
    exact regOf_withReg _ d v
  · rw [curSeq_after]
    exact seqDone_write (curSeq s) _ d v 1 1

/-- Completing an instruction that writes nothing. -/
theorem finish_seqOnly (len n : Nat) (s : State) : SeqOnly s (finish len n s) len n [] := by
  rw [finish_eq]
  refine ⟨onlyContext_after _ _ _, restOfCtx_after _ _ _, ?_⟩
  rw [curSeq_after]
  exact seqDone_plain (curSeq s) len n

/-! ## The halt line leaves every core and byte of memory as it stands -/

theorem setPirq_keeps (s : State) (p b : Nat) : (setPirq s p b).cores = s.cores ∧ (setPirq s p b).mem = s.mem ∧ (setPirq s p b).cur = s.cur := by
  unfold setPirq
  simp only
  split
  · exact ⟨rfl, rfl, rfl⟩
  · split <;> exact ⟨rfl, rfl, rfl⟩

theorem raiseHalt_keeps (s : State) (p : Nat) (k : BitVec 8) (c u n : Nat) (r d : Bool) :
    (raiseHalt s p k c u n r d).cores = s.cores ∧ (raiseHalt s p k c u n r d).mem = s.mem ∧ (raiseHalt s p k c u n r d).cur = s.cur := by
  unfold raiseHalt
  simp only
  split
  · exact ⟨rfl, rfl, rfl⟩
  · split <;> exact ⟨rfl, rfl, rfl⟩

theorem raiseFrom_keeps (s : State) (c : Nat) (sq : Seq) (k : BitVec 8) (r : Bool) :
    (raiseFrom s c sq k r).cores = s.cores ∧ (raiseFrom s c sq k r).mem = s.mem ∧ (raiseFrom s c sq k r).cur = s.cur := by
  unfold raiseFrom
  split
  · rename_i p _
    have h := setPirq_keeps (raiseHalt s p k c (unitOfSeq sq) (serialOfCore s c) r false) p 0
    have h' := raiseHalt_keeps s p k c (unitOfSeq sq) (serialOfCore s c) r false
    exact ⟨h.1.trans h'.1, h.2.1.trans h'.2.1, h.2.2.trans h'.2.2⟩
  · exact ⟨rfl, rfl, rfl⟩

theorem curCtx_congr {s t : State} (h : t.cores = s.cores) (h' : t.cur = s.cur) : curCtx t = curCtx s := by
  simp [curCtx, getCtx, getCore, h, h']

theorem curSeq_congr {s t : State} (h : t.cores = s.cores) (h' : t.cur = s.cur) : curSeq t = curSeq s := by
  rw [curSeq_eq, curSeq_eq, curCtx_congr h h', h']

/-- A precise fault stops the sequencer at its instruction. -/
theorem fault_faultsAt (k : BitVec 8) (a : Nat) (s : State) : ∃ t, fault k a s = .next t ∧ FaultsAt s k a t := by
  refine ⟨_, rfl, ?_⟩
  unfold takeFault
  simp only
  generalize hq : ({ curSeq s with origin := _, halted := true, haltedAt := s.cycle, wait := .none, pageFail := false, pageTag := none } : SeqState) = q
  have hk := raiseFrom_keeps (setCurSeq s q) s.cur.1 s.cur.2 k (resumableCause k)
  generalize raiseFrom (setCurSeq s q) s.cur.1 s.cur.2 k (resumableCause k) = t at hk
  have hs : curSeq t = q := by rw [curSeq_congr hk.1 hk.2.2, curSeq_setCurSeq]
  refine ⟨by rw [hs, ← hq], by rw [hs, ← hq], by rw [hs, ← hq], fun r => by rw [rd, hs, ← hq]; rfl, ?_, memSame_of_mem hk.2.1⟩
  rw [curCtx_congr hk.1 hk.2.2, curCtx_setCurSeq, restOfCtx_setCtxSeq]

/-! ## Transfers of control -/

theorem transfer_ok {s : State} {a : Int} {n : Nat} (h : TargetOk s a) (t) : transfer a n s t = .next (jumpTo a.toNat n t) := by
  obtain ⟨h1,h2,h3⟩ := h
  unfold transfer; rw [if_pos]; refine ⟨h1, ?_⟩
  simp [goodTarget]; omega

theorem transfer_bad {s : State} {a : Int} {n : Nat} (h : ¬ TargetOk s a) (t) : ∃ u, transfer a n s t = .next u ∧ BadTarget s a u := by
  unfold transfer; rw [if_neg]
  · refine ⟨_, rfl, ?_⟩
    generalize hq : ({ curSeq s with pc := _, origin := _, halted := true, haltedAt := s.cycle, wait := .none } : SeqState) = q
    have hk := raiseFrom_keeps (setCurSeq s q) s.cur.1 s.cur.2 causeIllegal true
    generalize raiseFrom (setCurSeq s q) s.cur.1 s.cur.2 causeIllegal true = t at hk
    have hs : curSeq t = q := by rw [curSeq_congr hk.1 hk.2.2, curSeq_setCurSeq]
    refine ⟨by rw [hs, ← hq], by rw [hs, ← hq]; rfl, fun r => by rw [rd, hs, ← hq]; rfl, by rw [hs, ← hq], ?_, memSame_of_mem hk.2.1⟩
    rw [curCtx_congr hk.1 hk.2.2, curCtx_setCurSeq, restOfCtx_setCtxSeq]
  · intro hh; apply h; obtain ⟨h1,h2⟩ := hh; simp [goodTarget] at h2
    exact ⟨h1, by omega, by omega⟩

theorem jump_goes (s : State) (a n : Nat) : GoesTo s a n [] (jumpTo a n s) := by
  rw [jumpTo_eq]
  refine ⟨onlyContext_after _ _ _, restOfCtx_after _ _ _, ?_⟩
  unfold rd; rw [curSeq_after]
  exact ⟨rfl,rfl,rfl, fun _ _ => rfl⟩

theorem jump_goes_wr (s : State) (a n : Nat) (v : Word) : GoesTo s a n [31] (jumpTo a n (wr s 31 v)) ∧ rd (jumpTo a n (wr s 31 v)) 31 = v := by
  have e : jumpTo a n (wr s 31 v) = setCurCtx s { setCtxSeq (curCtx s) s.cur.2 (issued { withReg (curSeq s) 31 v with pc := BitVec.ofNat 32 a } n) with wdog := 0 } := by
    rw [jumpTo_eq, wr, curCtx_setCurSeq, curSeq_setCurSeq, setCurSeq_cur, setCtxSeq_setCtxSeq, setCurSeq_eq, setCurCtx_setCurCtx]
  rw [e]
  refine ⟨⟨onlyContext_after _ _ _, restOfCtx_after _ _ _, ?_⟩, ?_⟩
  · unfold rd; rw [curSeq_after]
    refine ⟨rfl,rfl,rfl, fun r hr => ?_⟩
    have := regOf_withReg_other (curSeq s) v (r := r) (d := 31) (by simpa using hr)
    simpa [regOf, issued] using this
  · unfold rd; rw [curSeq_after]
    have := regOf_withReg (curSeq s) 31 v
    simpa [regOf, issued] using this

end Sys2Proof.Machine
end

