-- ==== Sys2Proof/Laws/Image.lean ====
section
/-! SUPPORT. The laws of the context image: a table that lists everything, a number read back from its bytes, and images in frames that meet no fault. -/

namespace Sys2Proof.Machine

theorem tfind_map_range' {α : Type} (f : Nat → α) (n : Nat) :
    ∀ s k, tfind ((List.range' s n).map fun i => (i, f i)) k = if s ≤ k ∧ k < s + n then some (f k) else none := by
  induction n with
  | zero => intro s k; simp [tfind]
  | succ n ih =>
    intro s k
    simp only [List.range'_succ, List.map_cons, tfind, ih]
    by_cases h : s = k
    · subst h; simp
    · rw [if_neg h]
      congr 1
      simp only [eq_iff_iff]
      omega

@[simp] theorem tfind_fullTable {α : Type} (n : Nat) (f : Nat → α) (k : Nat) : tfind (fullTable n f) k = if k < n then some (f k) else none := by
  rw [fullTable, List.range_eq_range', tfind_map_range']
  simp

/-- n little-endian bytes of a number give it back. -/
theorem imageNat_byteOf (b : Nat → Byte) (o v n : Nat) (h : ∀ i, i < n → b (o + i) = byteOf v i) : imageNat b o n = v % 2 ^ (8 * n) := by
  unfold imageNat ofBytes
  induction n with
  | zero => simp [packN, Nat.mod_one]
  | succ n ih =>
    have hb := h n (by omega)
    rw [packN, ih fun i hi => h i (by omega)]
    show _ + ((b (o + n)).toNat % 2 ^ 8) <<< (8 * n) = _
    rw [hb, byteOf, BitVec.toNat_ofNat, Nat.mod_mod, show 8 * (n + 1) = 8 * n + 8 by omega,
      Nat.pow_add, Nat.mod_mul, Nat.shiftRight_eq_div_pow, Nat.shiftLeft_eq, Nat.mul_comm (2 ^ (8 * n))]

/-- The frames of an image lie in HBM4, in rising addresses. -/
def inHbm (l : Loc) : Bool := match l with
  | .dram pa layout .. => !layout && decide (pa + 65536 ≤ 0x60_0000_0000)
  | _ => false

/-- No word is lost and no die is fenced. -/
def NothingLost (s : State) : Prop := s.lostWords = [] ∧ ∀ d, (getDie s d).fenced = false

theorem imagePiece_cases {a : Nat} {heads : List Loc} (h : heads.all inHbm = true) {p : Piece} (hp : p ∈ imagePieces a heads) :
    p.loc = .beyond ∨ ∃ pa mire key part, p.loc = .dram pa false mire key part ∧ pa < 0x60_0000_0000 := by
  obtain ⟨g, -, rfl⟩ := List.mem_map.mp hp
  rw [List.getD_eq_getElem?_getD]
  cases hg : heads[g / 4096]? with
  | none => exact .inl rfl
  | some l =>
    have hl := List.all_eq_true.mp h l (List.mem_of_getElem? hg)
    cases l with
    | dram pa layout mire key part =>
      simp only [inHbm, Bool.and_eq_true, Bool.not_eq_true', decide_eq_true_eq] at hl
      refine .inr ⟨pa + 16 * (g % 4096), mire, key, part, ?_, ?_⟩
      · simp [frameLoc, hl.1]
      · omega
    | _ => simp [inHbm] at hl

theorem regionOf_hbm (s : State) {pa : Nat} (h : pa < 0x60_0000_0000) : regionOf s pa = .hbm := if_pos h

theorem lowestFault_filterMap_nil {α : Type} {l : List α} {f : α → Option (BitVec 8 × Nat)} (h : ∀ x ∈ l, f x = none) : lowestFault (l.filterMap f) = none := by
  rw [List.filterMap_eq_nil_iff.mpr h]
  rfl

theorem lowestFault_some {l : List (BitVec 8 × Nat)} (h : l ≠ []) : ∃ c g, lowestFault l = some (c, g) := by
  cases l with
  | nil => exact absurd rfl h
  | cons e t =>
    rw [lowestFault]
    cases lowestFault t with
    | none => exact ⟨e.1, e.2, rfl⟩
    | some f => exact ⟨_, _, rfl⟩

/-- The write of an image into frames of HBM4 of which nothing is lost meets no fault. -/
theorem storeFault_image {s : State} (hs : NothingLost s) {heads : List Loc} (h : heads.all inHbm = true) (a : Nat) (cells : List Host.Cell) :
    storeFault s (imagePieces a heads) cells true = none := by
  refine lowestFault_filterMap_nil fun p hp => ?_
  obtain e | ⟨pa, mire, key, part, e, hpa⟩ := imagePiece_cases h hp
  · simp [e]
  · simp [e, placed, regionOf_hbm s hpa, wordLost, hs.1, hs.2]

/-- The write of an image into frames of HBM4 of which nothing is lost is performed. -/
theorem writeAccess_image {s : State} (hs : NothingLost s) {heads : List Loc} (h : heads.all inHbm = true) (a : Nat) (byte : Nat → Byte) (bad : Nat → Bool)
    (deps : List Nat) : ∃ u stamps, writeAccess s (imagePieces a heads) byte bad .none true deps = .ok (u, stamps) := by
  unfold writeAccess
  simp only [storeFault_image hs h]
  exact ⟨_, _, rfl⟩

theorem writeWaits_image (s : State) {heads : List Loc} (h : heads.all inHbm = true) (a : Nat) : writeWaits s (imagePieces a heads) = false := by
  refine List.any_eq_false.mpr fun ⟨w, mire, key, part⟩ hw => ?_
  obtain ⟨p, hp, e⟩ := List.mem_filterMap.mp (List.mem_eraseDups.mp hw)
  obtain l | ⟨pa, _, _, _, l, hpa⟩ := imagePiece_cases h hp
  · simp [l] at e
  · simp only [l, placed, Option.some.injEq, Prod.mk.injEq] at e
    have : 64 * w < 0x60_0000_0000 := by
      have := e.1
      simp at this
      omega
    simp [regionOf_hbm s this]

/-- Buckets that limit nothing let every access through. -/
theorem demandReady_unlimited {s : State} (h : ∀ p, (getPart s p).buckets = []) (dm : Demand) : demandReady s dm = true := by
  refine List.all_eq_true.mpr fun ⟨k, n⟩ _ => ?_
  simp [bucketReady, getBucket, h, tget, tfind, unlimited]

theorem readPieces_fault {s : State} {d : Nat} {ps : List Piece} (h : ∀ p ∈ ps, ∀ n, (readLoc s d p.loc n).fault = none) :
    ∀ n, ∀ g ∈ readPieces s d ps n, g.fault = none := by
  induction ps with
  | nil => intro n g hg; cases hg
  | cons p t ih =>
    intro n g hg
    cases hg with
    | head => exact h p (.head _) n
    | tail _ hg => exact ih (fun q hq => h q (.tail _ hq)) (n + 1) g hg

/-- What a card leaves undefined by straying changes no fault. -/
@[simp] theorem strayed_fault (s : State) (l : Loc) (n : Nat) (g : Got) : (strayed s l n g).fault = g.fault := by
  simp only [strayed]
  split <;> rfl

/-- An image in frames of HBM4 of which nothing is lost, whose lines belong to no key, is read. -/
theorem imageRead_ok {s : State} (hs : NothingLost s) (ht : s.lineTags = []) {d : Nat} (hd : (getDie s d).lagLines = []) {heads : List Loc}
    (h : heads.all inHbm = true) (a : Nat) : ∃ byte, imageRead s d (imagePieces a heads) = .ok byte := by
  have quiet : ∀ p ∈ imagePieces a heads, ∀ n, (readLoc s d p.loc n).fault = none := by
    intro p hp n
    obtain e | ⟨pa, mire, key, part, e, hpa⟩ := imagePiece_cases h hp
    · simp [e, readLoc, plainLoc]
    · simp [e, readLoc, plainLoc, readDram, placed, viewLost, viewLine, hd, tfind, hs.1, hs.2, ht, regionOf_hbm s hpa]
  have none : firstFault (imagePieces a heads) (linkReads s (imagePieces a heads) (readPieces s d (imagePieces a heads) 0)) = none := by
    refine lowestFault_filterMap_nil fun ⟨p, g⟩ hpg => ?_
    have hg := (List.of_mem_zip hpg).2
    obtain ⟨⟨q, g'⟩, hq, rfl⟩ := List.mem_map.mp hg
    have hq' := List.of_mem_zip hq
    have hf := readPieces_fault quiet 0 g' hq'.2
    obtain e | ⟨pa, mire, key, part, e, -⟩ := imagePiece_cases h hq'.1 <;> simp [linkGot, e, hf]
  unfold imageRead
  simp only [none]
  exact ⟨_, rfl⟩

/-- A granule of an image whose home die is fenced: the machine fault of the write, and of the read (R425). -/
theorem image_fenced {s : State} {d g pa key part : Nat} {heads : List Loc} (hg : g < imageSize / 16)
    (hl : heads[g / 4096]? = some (.dram pa false false key part)) (hh : pa + 16 * (g % 4096) < 0x60_0000_0000)
    (hf : (getDie s (homeOf (pa + 16 * (g % 4096)))).fenced = true) (a : Nat) :
    (∀ byte bad deps, ∃ c e, writeAccess s (imagePieces a heads) byte bad .none true deps = .error (c, e)) ∧
    ∃ c e, imageRead s d (imagePieces a heads) = .error (c, e) := by
  let p : Piece := { loc := .dram (pa + 16 * (g % 4096)) false false key part, addr := a + 16 * g, first := 0, count := 16, pos := 16 * g }
  have hp : p ∈ imagePieces a heads := by
    refine List.mem_map.mpr ⟨g, List.mem_range.mpr hg, ?_⟩
    rw [List.getD_eq_getElem?_getD, hl]
    rfl
  constructor
  · intro byte bad deps
    obtain ⟨c, e, h⟩ : ∃ c e, storeFault s (imagePieces a heads) (dramCells (imagePieces a heads) byte) true = some (c, e) := by
      refine lowestFault_some (List.ne_nil_of_mem (a := (causeDram, p.addr)) (List.mem_filterMap.mpr ⟨p, hp, ?_⟩))
      simp [p, placed, regionOf_hbm s hh, wordLost, hf]
    refine ⟨c, e, ?_⟩
    unfold writeAccess
    simp only [h]
  · have zipped : ∀ (ps : List Piece) (n : Nat), p ∈ ps → ∃ m, (p, readLoc s d p.loc m) ∈ ps.zip (linkReads s ps (readPieces s d ps n)) := by
      intro ps
      induction ps with
      | nil => intro n h; cases h
      | cons q t ih =>
        intro n h
        cases h with
        | head => exact ⟨n, .head _⟩
        | tail _ h =>
          obtain ⟨m, h⟩ := ih (n + 1) h
          exact ⟨m, .tail _ h⟩
    obtain ⟨m, hm⟩ := zipped _ 0 hp
    obtain ⟨c, e, h⟩ : ∃ c e, firstFault (imagePieces a heads) (linkReads s (imagePieces a heads) (readPieces s d (imagePieces a heads) 0)) = some (c, e) := by
      refine lowestFault_some (List.ne_nil_of_mem (a := (causeDram, p.addr)) (List.mem_filterMap.mpr ⟨_, hm, ?_⟩))
      simp [p, readLoc, plainLoc, readDram, placed, viewLost, hf]
    refine ⟨c, e, ?_⟩
    unfold imageRead
    simp only [h]

theorem mem_tput_same {α : Type} (t : Table α) (n : Nat) (v : α) : (n, v) ∈ tput t n v := by
  induction t with
  | nil => exact .head _
  | cons p t ih =>
    obtain ⟨k, w⟩ := p
    unfold tput
    split
    · exact .head _
    · split
      · exact .head _
      · exact .tail _ ih

theorem mem_tput_other {α : Type} {t : Table α} {k n : Nat} {w : α} (v : α) (hk : k ≠ n) (h : (k, w) ∈ t) : (k, w) ∈ tput t n v := by
  induction t with
  | nil => cases h
  | cons p t ih =>
    obtain ⟨m, u⟩ := p
    unfold tput
    split
    · exact .tail _ h
    · split
      · next e =>
        cases h with
        | head => exact absurd e.symm hk
        | tail _ h => exact .tail _ h
      · cases h with
        | head => exact .head _
        | tail _ h => exact .tail _ (ih h)

/-- A demand that asks something of a bucket. -/
def Asks (dm : Demand) (k : Nat) : Prop := ∃ n, 0 < n ∧ (k, n) ∈ dm

theorem asks_tupd {t : Demand} {k m n : Nat} (hn : 0 < n) (h : m = k ∨ Asks t k) : Asks (tupd 0 t m (· + n)) k := by
  by_cases e : k = m
  · subst e
    exact ⟨tget 0 t k + n, by omega, mem_tput_same t _ _⟩
  · obtain ⟨v, hv, h⟩ := h.resolve_left fun h => e h.symm
    exact ⟨v, hv, mem_tput_other _ e h⟩

theorem asks_foldl {α : Type} {f : Demand → α → Demand} {k : Nat} (keeps : ∀ t a, Asks t k → Asks (f t a) k) (l : List α) :
    ∀ t, Asks t k → Asks (l.foldl f t) k := by
  induction l with
  | nil => exact fun _ h => h
  | cons a l ih => exact fun t h => ih _ (keeps t a h)

/-- An access asks tokens of the bucket of each of its pieces. -/
theorem asks_tokensOf {s : State} {ps : List Piece} (hc : ∀ p ∈ ps, 0 < p.count) {b part : Nat} {p : Piece} (hp : p ∈ ps)
    (hb : pieceBucket p = some (part, b)) : Asks (tokensOf s ps) (16 * part + b) := by
  let step (t : Table Nat) (p : Piece) : Table Nat := match pieceBucket p with
    | some (part, k) => tupd 0 t (16 * part + k) (· + p.count)
    | none => t
  have all (l : List Piece) : (∀ q ∈ l, 0 < q.count) → ∀ t, (p ∈ l ∨ Asks t (16 * part + b)) → Asks (l.foldl step t) (16 * part + b) := by
    induction l with
    | nil => exact fun _ t h => h.resolve_left (by simp)
    | cons q l ih =>
      intro hc t h
      have hq := hc q (.head _)
      refine ih (fun r hr => hc r (.tail _ hr)) _ ?_
      rcases h with h | h
      · cases h with
        | head =>
          refine .inr ?_
          simp only [step, hb]
          exact asks_tupd hq (.inl rfl)
        | tail _ h => exact .inl h
      · refine .inr ?_
        simp only [step]
        split
        · exact asks_tupd hq (.inr h)
        · exact h
  obtain ⟨n, hn, h⟩ := all ps hc [] (.inl hp)
  unfold tokensOf
  refine asks_foldl (fun t a h => asks_tupd (by omega) (.inr h)) _ _ ⟨(n + 63) / 64, by omega, List.mem_map.mpr ⟨_, h, rfl⟩⟩

theorem mem_tput {α : Type} {t : Table α} {n : Nat} {v : α} {e : Nat × α} (h : e ∈ tput t n v) : e = (n, v) ∨ e ∈ t := by
  induction t with
  | nil => exact .inl (List.mem_singleton.mp h)
  | cons q t ih =>
    obtain ⟨k, w⟩ := q
    unfold tput at h
    split at h
    · rcases List.mem_cons.mp h with h | h
      · exact .inl h
      · exact .inr h
    · split at h
      · rcases List.mem_cons.mp h with h | h
        · exact .inl h
        · exact .inr (.tail _ h)
      · rcases List.mem_cons.mp h with h | h
        · exact .inr (h ▸ .head _)
        · exact (ih h).imp_right (.tail _)

theorem pos_tupd {t : Demand} {m n : Nat} (hn : 0 < n) (h : ∀ e ∈ t, 0 < e.2) : ∀ e ∈ tupd 0 t m (· + n), 0 < e.2 := by
  intro e he
  rcases mem_tput he with rfl | he
  · show 0 < _ + n
    omega
  · exact h e he

theorem pos_foldl {α : Type} {f : Demand → α → Demand} (l : List α) (keeps : ∀ t, ∀ a ∈ l, (∀ e ∈ t, 0 < e.2) → ∀ e ∈ f t a, 0 < e.2) :
    ∀ t, (∀ e ∈ t, 0 < e.2) → ∀ e ∈ l.foldl f t, 0 < e.2 := by
  induction l with
  | nil => exact fun _ h => h
  | cons a l ih => exact fun t h => ih (fun t b hb => keeps t b (.tail _ hb)) _ (keeps t a (.head _) h)

/-- The demand of an access asks something of each bucket it names. -/
theorem tokensOf_pos (s : State) {ps : List Piece} (hc : ∀ p ∈ ps, 0 < p.count) : ∀ e ∈ tokensOf s ps, 0 < e.2 := by
  unfold tokensOf
  refine pos_foldl _ (fun t a _ h => pos_tupd (by omega) h) _ fun e he => ?_
  obtain ⟨⟨k, n⟩, h, rfl⟩ := List.mem_map.mp he
  have := pos_foldl (f := fun t p => match pieceBucket p with
    | some (part, k) => tupd 0 t (16 * part + k) (· + p.count)
    | none => t) ps (fun t p hp h => by
      split
      · exact pos_tupd (hc p hp) h
      · exact h) [] (by simp) _ h
  show 0 < (n + 63) / 64
  have : 0 < n := this
  omega

/-- What a demand asks, with more before it. -/
theorem asks_addDemand {a b : Demand} {k : Nat} (hb : ∀ e ∈ b, 0 < e.2) (h : Asks b k) : Asks (addDemand a b) k := by
  have all (l : Demand) : (∀ e ∈ l, 0 < e.2) → ∀ t, (Asks l k ∨ Asks t k) → Asks (l.foldl (fun t (k, n) => tupd 0 t k (· + n)) t) k := by
    induction l with
    | nil => exact fun _ t h => h.resolve_left fun ⟨n, _, h⟩ => by cases h
    | cons e l ih =>
      intro hb t h
      have he := hb e (.head _)
      refine ih (fun r hr => hb r (.tail _ hr)) _ ?_
      rcases h with ⟨n, hn, h⟩ | h
      · cases h with
        | head => exact .inr (asks_tupd hn (.inl rfl))
        | tail _ h => exact .inl ⟨n, hn, h⟩
      · exact .inr (asks_tupd he (.inr h))
  exact all b hb a (.inl h)

/-- An access that draws on a bucket with no tokens, which limits, waits. -/
theorem demandReady_empty {s : State} {dm : Demand} {k : Nat} (h : Asks dm k)
    (hl : unlimited (getBucket s k) = false) (h0 : (getBucket s k).tokens = 0) (hs : (getBucket s k).saved = 0) :
    demandReady s dm = false := by
  obtain ⟨n, hn, h⟩ := h
  refine List.all_eq_false.mpr ⟨_, h, ?_⟩
  simp only [bucketReady, hl, h0, hs, Bool.false_or, Bool.or_eq_true, Bool.and_eq_true, decide_eq_true_eq]
  omega

/-! ## An access whose walks are counted nowhere -/

/-- The dies, the lost words and the tags are as they were. -/
def SameDies (s t : State) : Prop := t.dies = s.dies ∧ t.lostWords = s.lostWords ∧ t.lineTags = s.lineTags ∧ t.mgmt = s.mgmt

theorem SameDies.rfl' {s : State} : SameDies s s := ⟨rfl, rfl, rfl, rfl⟩
theorem SameDies.trans {s t u : State} (h : SameDies s t) (g : SameDies t u) : SameDies s u :=
  ⟨g.1.trans h.1, g.2.1.trans h.2.1, g.2.2.1.trans h.2.2.1, g.2.2.2.trans h.2.2.2⟩

theorem SameDies.foldl {α : Type} {f : State → α → State} {P : State → Prop} (hP : ∀ {s t}, SameDies s t → P s → P t)
    (h : ∀ s a, P s → SameDies s (f s a)) (l : List α) : ∀ s, P s → SameDies s (l.foldl f s) := by
  induction l with
  | nil => exact fun _ _ => .rfl'
  | cons a l ih => exact fun s hs => (h s a hs).trans (ih _ (hP (h s a hs) hs))

/-- Every die counts accesses in records that no DRAM holds, no CXL memory is there, and no threshold is set. -/
def Uncounted (s : State) : Prop := cxlData s = 0 ∧ ∀ d, d < 4 → (getDie s d).mig.base.toNat = 0xF_0000_0000_0000 ∧ (getDie s d).mig.rdth = 0

theorem uncounted_same {s t : State} (h : SameDies s t) (u : Uncounted s) : Uncounted t :=
  ⟨by simpa only [cxlData, h.2.2.2] using u.1, fun d hd => by simpa only [getDie, h.1] using u.2 d hd⟩

theorem homeOf_lt (pa : Nat) : homeOf pa < 4 := by
  unfold homeOf bits
  split
  · omega
  · split <;> omega

theorem sameDies_countFrame {s : State} (u : Uncounted s) (pa : Nat) : SameDies s (countFrame s pa false) := by
  unfold countFrame
  split
  case isFalse => exact .rfl'
  case isTrue h =>
    have big : pa < 0x2000_0000_0000 := by
      by_contra g
      have e : isDram s pa = false := by
        simp only [isDram, regionOf, u.1, cxlBase]
        rw [if_neg (by omega), if_neg (by omega), if_neg (by omega)]
        by_cases f : 0xF_8000_0000_0000 ≤ pa ∧ pa < 0x10_0000_0000_0000
        · rw [if_pos f]
        · rw [if_neg f]
          by_cases f : 0xF_0000_0000_0000 ≤ pa ∧ pa < 0xF_8000_0000_0000
          · rw [if_pos f]
          · rw [if_neg f]
      simp [e] at h
    have far : isDram s (recordAddrOf s pa) = false := by
      have hf : frameIndex pa < 2 ^ 32 := by
        unfold frameIndex
        split
        · omega
        · omega
      simp only [recordAddrOf, (u.2 _ (homeOf_lt pa)).1, isDram, regionOf, u.1, cxlBase]
      rw [if_neg (by omega), if_neg (by omega), if_neg (by omega), if_neg (by omega), if_pos (by omega)]
    simp only [homeWrite, far, (u.2 _ (homeOf_lt pa)).2]
    exact .rfl'

theorem sameDies_keepEntry (s : State) (e : TlbEntry) : SameDies s (keepEntry s e) := .rfl'

theorem sameDies_takeBucket (s : State) (k n : Nat) : SameDies s (takeBucket s k n) := by
  unfold takeBucket
  split <;> exact .rfl'

theorem sameDies_cachePage {s : State} (u : Uncounted s) (d part va : Nat) (who : Option Translator) : SameDies s (cachePage s d part va who) := by
  have own : SameDies s (keepOwnExport s d part va who) := by
    unfold keepOwnExport
    split <;> exact .rfl'
  refine own.trans ?_
  have u := uncounted_same own u
  unfold cachePage cacheWalk
  split
  · exact .rfl'
  · have walk := SameDies.foldl (P := Uncounted) uncounted_same (f := fun (t : State) (x : Nat × Nat × Word) =>
        if bitOf x.2.2.toNat 0 && !bitOf x.2.2.toNat 4 then
          keepEntry (countFrame t x.1 false) { owner := .walk d, asid := (getPart (keepOwnExport s d part va who) part).asid, page := va / 2 ^ x.2.1, size := x.2.1, leaf := x.2.2 }
        else countFrame t x.1 false)
      (fun t x ut => by
        split
        · exact (sameDies_countFrame ut _).trans (sameDies_keepEntry _ _)
        · exact sameDies_countFrame ut _)
      (walkReads (keepOwnExport s d part va who) d part va who) _ u
    split
    · exact walk.trans (sameDies_keepEntry _ _)
    · exact walk

/-- Such an access leaves the dies, the lost words and the tags as they were. -/
theorem sameDies_cacheAccess {s : State} (u : Uncounted s) (d part a n : Nat) (who : Option Translator) : SameDies s (cacheAccess s d part a n who) := by
  unfold cacheAccess takeDemand
  have take := SameDies.foldl (P := fun _ => True) (fun _ h => h) (f := fun t (x : Nat × Nat) => takeBucket t x.1 x.2)
    (fun t x _ => sameDies_takeBucket t x.1 x.2) (walkDemand s d part a n who) s trivial
  exact take.trans (SameDies.foldl uncounted_same (fun t va ut => sameDies_cachePage ut d part va who) _ _ (uncounted_same take u))

end Sys2Proof.Machine
end

