-- ==== Sys2Proof/Laws/Operands.lean ====
section
/-! SUPPORT. What issuing an X instruction does, said once: it blocks, or it puts one result in flight and changes nothing but what XIssued names. -/

namespace Sys2Proof.Machine

/-! ## Noting out-of-range accesses and popping queues touch one field each -/

/-- y is x but for the record of out-of-range accesses and what the recording keeps of the cycle. -/
def OorOnly (x y : Ctx) : Prop := ∃ w o, y = { x with rsoor := w, oor := o }

theorem OorOnly.refl (x : Ctx) : OorOnly x x := ⟨x.rsoor, x.oor, rfl⟩

theorem OorOnly.trans {x y z : Ctx} (h : OorOnly x y) (h' : OorOnly y z) : OorOnly x z := by
  obtain ⟨_, _, rfl⟩ := h
  obtain ⟨w, o, rfl⟩ := h'
  exact ⟨w, o, rfl⟩

theorem recordOor_only (now : Nat) (x : Ctx) (a : Nat) (r l : Bool) (n : Nat) : OorOnly x (recordOor now x a r l n) := by
  unfold recordOor
  dsimp only
  by_cases h : bitOf x.rsoor.toNat 63 ∧ ¬ (x.oor.heldAt = now ∧ oorSrc (oorWord a r l n) < oorSrc x.rsoor)
  · rw [if_pos h]; exact ⟨x.rsoor, _, rfl⟩
  · rw [if_neg h]; exact ⟨_, _, rfl⟩

theorem noteOor_only (now : Nat) (x : Ctx) (v : Word) (f : BitVec 8) (i n : Nat) (r : Bool) (k : Nat) : OorOnly x (noteOor now x v f i n r k) := by
  unfold noteOor
  split
  · exact recordOor_only ..
  · exact .refl x

theorem noteX_only (s : State) (x : Ctx) (o : Opnd) (r : Bool) : OorOnly x (noteX s x o r) := by
  unfold noteX
  split
  · exact noteOor_only ..
  · exact noteOor_only ..
  · exact .refl x

theorem foldl_noteX_only (s : State) (r : Bool) (l : List Opnd) (x : Ctx) : OorOnly x (l.foldl (fun x o => noteX s x o r) x) := by
  induction l generalizing x with
  | nil => exact .refl x
  | cons o l ih => exact (noteX_only s x o r).trans (ih _)

theorem noteLane_only (now : Nat) (x : Ctx) (p : Option (Nat × Bool × Bool)) :
    OorOnly x (match p with
      | some (a, lim, rdAcc) => recordOor now x a rdAcc lim 1
      | none => x) := by
  cases p with
  | none => exact .refl x
  | some p => exact recordOor_only ..

theorem noteAll_only (s : State) (x : Ctx) (rs : List Opnd) (d : Option Opnd) (p : Option (Nat × Bool × Bool)) : OorOnly x (noteAll s x rs d p) := by
  unfold noteAll
  exact ((((foldl_noteX_only s true _ x).trans (foldl_noteX_only s false _ _)).trans (noteLane_only _ _ p)).trans
    (foldl_noteX_only s true _ _)).trans (foldl_noteX_only s false _ _)

theorem noteAll_eq (s : State) (x : Ctx) (rs : List Opnd) (d : Option Opnd) (p : Option (Nat × Bool × Bool)) :
    noteAll s x rs d p = { x with rsoor := (noteAll s x rs d p).rsoor, oor := (noteAll s x rs d p).oor } := by
  obtain ⟨w, o, h⟩ := noteAll_only s x rs d p
  rw [h]

theorem popQueues_eq (x : Ctx) (os : List Opnd) : popQueues x os = { x with q := (popQueues x os).q } := by
  unfold popQueues
  generalize queuesOf os = l
  induction l generalizing x with
  | nil => rfl
  | cons n l ih => rw [List.foldl_cons, ih]

theorem foldl_pop_q (l : List Nat) (x : Ctx) (r : Word) (o : OorCycle) :
    (l.foldl (fun (x : Ctx) (n : Nat) => { x with q := tput x.q n (popQueue (getQ x n)) }) { x with rsoor := r, oor := o }).q =
    (l.foldl (fun (x : Ctx) (n : Nat) => { x with q := tput x.q n (popQueue (getQ x n)) }) x).q := by
  induction l generalizing x with
  | nil => rfl
  | cons n l ih => exact ih { x with q := tput x.q n (popQueue (getQ x n)) }

theorem popQueues_rsoor (x : Ctx) (os : List Opnd) (r : Word) (o : OorCycle) :
    (popQueues { x with rsoor := r, oor := o } os).q = (popQueues x os).q :=
  foldl_pop_q _ x r o

/-- Where the result goes is a matter of the views and of g registers, which noting and popping leave alone. -/
theorem resultFor_congr (s : State) (x : Ctx) (r : Word) (c : OorCycle) (q : Table Queue) (d : Opnd) (due : Nat) (nf eos : Bool) (o : XOut) :
    resultFor s { x with rsoor := r, oor := c, q := q } d due nf eos o = resultFor s x d due nf eos o := rfl

/-- The context after an X instruction: noted, popped, with its result in flight. -/
def xAfter (s : State) (srcs : List Opnd) (d : Option Opnd) (p : Option (Nat × Bool × Bool)) (r : XResult) : Ctx :=
  let x := xContext s
  { x with rsoor := (noteAll s x srcs d p).rsoor, oor := (noteAll s x srcs d p).oor, q := (popQueues x srcs).q, xres := x.xres ++ [r] }

theorem xAfter_eq (s : State) (srcs : List Opnd) (d : Option Opnd) (p : Option (Nat × Bool × Bool)) (r : XResult) :
    { popQueues (noteAll s (xContext s) srcs d p) srcs with xres := (popQueues (noteAll s (xContext s) srcs d p) srcs).xres ++ [r] } =
      xAfter s srcs d p r := by
  rw [noteAll_eq, popQueues_eq, popQueues_rsoor]; rfl

theorem resultFor_xAfter (s : State) (srcs : List Opnd) (e : Option Opnd) (p : Option (Nat × Bool × Bool)) (d : Opnd) (due : Nat)
    (nf eos : Bool) (o : XOut) :
    resultFor s (popQueues (noteAll s (xContext s) srcs e p) srcs) d due nf eos o = resultFor s (xContext s) d due nf eos o := by
  rw [noteAll_eq, popQueues_eq]; rfl

/-! ## Landing leaves X's sequencer alone -/

theorem writeGranule_seqX (x : Ctx) (n : Nat) (m v : Granule) : (writeGranule x n m v).seqX = x.seqX := by
  simp only [writeGranule, putGranule]
  split <;> rfl

theorem programWrite_seqX (x : Ctx) (n : Nat) (m v : Granule) : (programWrite x n m v).seqX = x.seqX := by
  unfold programWrite
  split <;> exact writeGranule_seqX x n m v

theorem foldl_programWrite_seqX (l : List (Nat × Granule × Granule)) (x : Ctx) :
    (l.foldl (fun x w => programWrite x w.1 w.2.1 w.2.2) x).seqX = x.seqX := by
  induction l generalizing x with
  | nil => rfl
  | cons a l ih => rw [List.foldl_cons, ih, programWrite_seqX]

theorem applyResult_seqX (x : Ctx) (r : XResult) : (applyResult x r).seqX = x.seqX := by
  unfold applyResult
  simp only
  cases r.setFlags <;> cases r.k <;> simp only [] <;> (try split) <;> simp [foldl_programWrite_seqX]

theorem landList_seqX (t : Nat) (l stay : List XResult) (x : Ctx) : (landList t l stay x).seqX = x.seqX := by
  induction l generalizing stay x with
  | nil => rfl
  | cons r l ih =>
    unfold landList
    split
    · cases h : r.push with
      | none => simp only [ih, applyResult_seqX]
      | some p =>
        obtain ⟨w, e⟩ := p
        simp only
        split
        · simp only [ih, applyResult_seqX]
        · rw [ih]; exact applyResult_seqX x r
    · exact ih ..

theorem xContext_seqX (s : State) : (xContext s).seqX = (curCtx s).seqX := landList_seqX ..

/-! ## Issuing -/

/-- The frame of an instruction that completes from a context with other fields. -/
theorem finish_onContext (s : State) (x : Ctx) (len n k : Nat) :
    OnlyContext s (takeFree (finish len n (setCurCtx s x)) k) := by
  rw [finish_eq, setCurCtx_setCurCtx]
  exact onlyContext_takeFree s _ k

theorem finish_xAfter (s : State) (srcs : List Opnd) (d : Option Opnd) (p : Option (Nat × Bool × Bool)) (r : XResult) (q : XQ) (hs : s.cur.2 = .X) :
    XIssued s (takeFree (finish 2 (spacing q) (setCurCtx s (xAfter s srcs d p r))) 256) srcs q [] r := by
  refine ⟨finish_onContext .., ?_⟩
  rw [curCtx_takeFree, finish_eq, setCurCtx_setCurCtx, curCtx_setCurCtx, curCtx_setCurCtx, curSeq_setCurCtx]
  simp only [setCurCtx_cur, hs]
  exact ⟨rfl, rfl, rfl, seqDone_plain _ 2 _⟩

/-- opX puts its result in flight. -/
theorem opX_issues (bound : Nat) (srcs : List Opnd) (d : Opnd) (q : XQ) (f : State → List Src → Mask → XOut) (s : State) (h : XReady s srcs d) :
    let o := f (setCurCtx s (xContext s)) (srcsOf s srcs) (activeOf s q)
    ∃ t, opX bound srcs d q f s = .next t ∧
      XIssued s t srcs q [] (resultFor s (xContext s) d ((curSeq s).clock + bound) q.nf ((srcsOf s srcs).any (·.eos)) o) := by
  obtain ⟨hs, hq, hd⟩ := h
  refine ⟨_, ?_, finish_xAfter s srcs (some d) (f (setCurCtx s (xContext s)) (srcsOf s srcs) (activeOf s q)).oor _ q hs⟩
  unfold opX
  simp only [hq, hd, Bool.not_true, Bool.or_self, Bool.false_eq_true, if_false]
  rw [resultFor_xAfter, xAfter_eq]
  rfl

/-- opX waits when a queue is not ready. -/
theorem opX_blocks (bound : Nat) (srcs : List Opnd) (d : Opnd) (q : XQ) (f : State → List Src → Mask → XOut) (s : State)
    (h : queuesReady (xContext s) srcs = false ∨ destReady (xContext s) d = false) :
    ∃ t, opX bound srcs d q f s = .next t ∧ Blocked .queue s t := by
  refine ⟨_, ?_, rfl⟩
  unfold opX
  rcases h with h | h <;> simp [h, block]

/-- What the usual delivery says of lanes. -/
theorem deliverLanes_delivers (s : State) (srcs : List Opnd) (q : XQ) (c : Consumes) (data : Vec) (fl : LaneFlags) :
    DeliversTo s srcs q c (deliverLanes (srcsOf s srcs) c (activeOf s q) data fl) := by
  refine ⟨rfl, rfl, rfl, fun j hj => ⟨maskBit_ofMask _ hj, ?_⟩⟩
  have : maskBit (lostLanes (srcsOf s srcs) c) j = (srcsOf s srcs).zipIdx.any fun (x, i) => (c i j).any fun l => maskBit x.lost l :=
    maskBit_ofMask _ hj
  rw [← this]
  exact maskBit_and ..

/-- opXg writes its g register and puts its flags in flight. -/
theorem opXg_issues (bound : Nat) (srcs : List Opnd) (d : Reg) (q : XQ) (f : State → List Src → Mask → Word × Mask) (s : State)
    (hs : s.cur.2 = .X) (hq : queuesReady (xContext s) srcs = true) :
    ∃ r t, opXg bound srcs d q f s = .next t ∧ Holds t d (f (setCurCtx s (xContext s)) (srcsOf s srcs) (activeOf s q)).1 ∧
      XIssued s t srcs q [d] r ∧ r.writes = [] ∧ r.k = none ∧ r.setFlags = none ∧ r.push = none := by
  let vm := f (setCurCtx s (xContext s)) (srcsOf s srcs) (activeOf s q)
  let r : XResult := { due := (curSeq s).clock + bound, writes := [], k := none,
                       orFlags := if q.nf then 0 else ofFlags fun j => flagIf (maskBit vm.2 j) flagMZ, setFlags := none, push := none }
  refine ⟨r, takeFree (finish 2 (spacing q) (wrAt (setCurCtx s (xAfter s srcs none none r)) d vm.1 bound)) 256, ?_, ?_, ?_, rfl, rfl, rfl, rfl⟩
  · unfold opXg
    simp only [hq, Bool.not_true, Bool.false_eq_true, if_false]
    rw [xAfter_eq]
    rfl
  · unfold Holds rd
    rw [curSeq_takeFree, finish_wrAt, curSeq_after]
    exact regOf_withReg _ _ _
  · rw [finish_wrAt]
    have hc : curSeq (setCurCtx s (xAfter s srcs none none r)) = (xContext s).seqX := by rw [curSeq_setCurCtx, hs]; rfl
    refine ⟨?_, ?_⟩
    · rw [setCurCtx_setCurCtx]; exact onlyContext_takeFree s _ _
    · rw [curCtx_takeFree, curCtx_setCurCtx, curCtx_setCurCtx, hc]
      simp only [setCurCtx_cur, hs]
      exact ⟨rfl, rfl, rfl, seqDone_write _ _ d _ 2 _⟩

/-- opXk puts the write of its mask register in flight. -/
theorem opXk_issues (bound : Nat) (srcs : List Opnd) (kd : BitVec 3) (q : XQ) (f : State → List Src → Mask × LaneFlags) (s : State)
    (hs : s.cur.2 = .X) (hq : queuesReady (xContext s) srcs = true) :
    ∃ r t, opXk bound srcs kd q f s = .next t ∧ XIssued s t srcs q [] r ∧ r.due = (curSeq s).clock + bound ∧ r.writes = [] ∧
      r.setFlags = none ∧ r.push = none ∧
      r.k = some (kd.toNat, activeOf s q, (f (setCurCtx s (xContext s)) (srcsOf s srcs)).1) := by
  let vf := f (setCurCtx s (xContext s)) (srcsOf s srcs)
  let mz := activeOf s q &&& lostLanes (srcsOf s srcs) sameLane
  let r : XResult := { due := (curSeq s).clock + bound, writes := [], k := some (kd.toNat, activeOf s q, vf.1),
                       orFlags := if q.nf then 0 else vf.2 ||| ofFlags fun j => flagIf (maskBit mz j) flagMZ, setFlags := none, push := none }
  refine ⟨r, _, ?_, finish_xAfter s srcs none none r q hs, rfl, rfl, rfl, rfl, rfl⟩
  unfold opXk
  simp only [hq, Bool.not_true, Bool.false_eq_true, if_false]
  rw [xAfter_eq]
  rfl

/-- The elements and flags of an elementwise operation, for the widths that divide a lane. -/
theorem elementsAre_elementwise (s : State) (srcs : List Opnd) (q : XQ) (c : Consumes) (w : Nat) (hw : w ∈ [4, 8, 16, 32]) (v : Nat → Nat → Nat × Flags) :
    ElementsAre s q w v (deliverLanes (srcsOf s srcs) c (activeOf s q) (elementwise w (activeOf s q) v).1 (elementwise w (activeOf s q) v).2) := by
  refine ⟨fun j e hj he => ?_, fun j hj => laneFlags_ofFlags _ hj⟩
  have hp : 32 / w * j + e < 2048 / w ∧ (32 / w * j + e) / (32 / w) = j ∧ (32 / w * j + e) % (32 / w) = e := by
    rcases List.mem_cons.mp hw with rfl | hw
    · omega
    rcases List.mem_cons.mp hw with rfl | hw
    · omega
    rcases List.mem_cons.mp hw with rfl | hw
    · omega
    rcases List.mem_cons.mp hw with rfl | hw
    · omega
    · cases hw
  show elem w (ofElems w _) _ = _
  rw [elem_ofElems w _ hp.1, hp.2.1, hp.2.2]

end Sys2Proof.Machine
end

