-- ==== Sys2Proof/Laws/PerInstr.lean ====
section
/-! SUPPORT. Per-instruction laws. Shape: what an instruction's words look like (R54, R57): an event has none, a control instruction is one parcel with
bit 31 clear and belongs to no engine, every other instruction is two parcels with bit 31 of the first set and belongs to one sequencer. -/

namespace Sys2Proof.Laws

/-- Bit 31 tells the width. -/
theorem isWide_eq_msb (p : Parcel) : isWide p = p.msb := by
  unfold isWide
  rw [Bool.eq_iff_iff, decide_eq_true_iff, BitVec.msb_eq_getLsbD_last]
  constructor
  · intro h
    have := congrArg (fun v : BitVec 1 => v.getLsbD 0) h
    simpa using this
  · intro h
    ext i hi
    have : i = 0 := by omega
    subst this
    simpa using h

/-- The top bit of a concatenation is that of its first part. -/
theorem msb_of_append {n m : Nat} (a : BitVec n) (b : BitVec m) (h : n ≠ 0) : (a ++ b).msb = a.msb := by
  rw [BitVec.msb_append]; simp [h]

namespace Shape

/-- The words of an instruction agree with who executes it. -/
def Statement (i : Instr) : Prop :=
  (encode i = [] ∧ i.space = none) ∨ (∃ w, encode i = [w] ∧ isWide w = false ∧ i.space = none) ∨
  ∃ a b q, encode i = [a, b] ∧ isWide a = true ∧ i.space = some q

theorem cr_narrow (major : BitVec 6) (d a b : Reg) (fn : BitVec 10) : ∃ w, encCR major d a b fn = [w] ∧ isWide w = false :=
  ⟨_, rfl, by rw [isWide_eq_msb]; exact ((msb_of_append _ fn (by decide)).trans ((msb_of_append _ b (by decide)).trans ((msb_of_append _ a (by decide)).trans ((msb_of_append _ d (by decide)).trans (msb_of_append 0#1 major (by decide))))))⟩
theorem ci_narrow (major : BitVec 6) (d a : Reg) (imm : BitVec 15) : ∃ w, encCI major d a imm = [w] ∧ isWide w = false :=
  ⟨_, rfl, by rw [isWide_eq_msb]; exact ((msb_of_append _ imm (by decide)).trans ((msb_of_append _ a (by decide)).trans ((msb_of_append _ d (by decide)).trans (msb_of_append 0#1 major (by decide)))))⟩
theorem cu_narrow (major : BitVec 6) (d : Reg) (imm : BitVec 20) : ∃ w, encCU major d imm = [w] ∧ isWide w = false :=
  ⟨_, rfl, by rw [isWide_eq_msb]; exact ((msb_of_append _ imm (by decide)).trans ((msb_of_append _ d (by decide)).trans (msb_of_append 0#1 major (by decide))))⟩
theorem cj_narrow (major : BitVec 6) (off : BitVec 25) : ∃ w, encCJ major off = [w] ∧ isWide w = false :=
  ⟨_, rfl, by rw [isWide_eq_msb]; exact ((msb_of_append _ off (by decide)).trans (msb_of_append 0#1 major (by decide)))⟩
theorem cl_narrow (major : BitVec 6) (lc : BitVec 2) (cnt : BitVec 13) (body : BitVec 10) : ∃ w, encCL major lc cnt body = [w] ∧ isWide w = false :=
  ⟨_, rfl, by rw [isWide_eq_msb]; exact ((msb_of_append _ body (by decide)).trans ((msb_of_append _ cnt (by decide)).trans ((msb_of_append _ lc (by decide)).trans (msb_of_append 0#1 major (by decide)))))⟩
theorem cs_narrow (major : BitVec 6) (d a : Reg) (sr : BitVec 12) : ∃ w, encCS major d a sr = [w] ∧ isWide w = false :=
  ⟨_, rfl, by rw [isWide_eq_msb]; exact ((msb_of_append _ (0#3) (by decide)).trans ((msb_of_append _ sr (by decide)).trans ((msb_of_append _ a (by decide)).trans ((msb_of_append _ d (by decide)).trans (msb_of_append 0#1 major (by decide))))))⟩
theorem x_wide (x : XRaw) : ∃ a b, xPack x = [a, b] ∧ isWide a = true :=
  ⟨_, _, rfl, by rw [isWide_eq_msb]; exact ((msb_of_append _ x.a (by decide)).trans ((msb_of_append _ x.d (by decide)).trans ((msb_of_append _ x.fn (by decide)).trans (msb_of_append 1#1 x.major (by decide)))))⟩
theorem m_wide (x : MRaw) : ∃ a b, mPack x = [a, b] ∧ isWide a = true :=
  ⟨_, _, rfl, by rw [isWide_eq_msb]; exact ((msb_of_append _ x.gx (by decide)).trans ((msb_of_append _ x.gb (by decide)).trans ((msb_of_append _ x.d (by decide)).trans ((msb_of_append _ x.fn (by decide)).trans (msb_of_append 1#1 x.major (by decide))))))⟩

theorem of_narrow {i : Instr} {l : List Parcel} (h : ∃ w, l = [w] ∧ isWide w = false) (e : encode i = l) (s : i.space = none) : Statement i := by
  obtain ⟨w, rfl, hw⟩ := h
  exact .inr (.inl ⟨w, e, hw, s⟩)
theorem of_wide {i : Instr} {l : List Parcel} {q : Seq} (h : ∃ a b, l = [a, b] ∧ isWide a = true) (e : encode i = l) (s : i.space = some q) :
    Statement i := by
  obtain ⟨a, b, rfl, hw⟩ := h
  exact .inr (.inr ⟨a, b, q, e, hw, s⟩)

theorem nop : Statement .nop := of_narrow (cr_narrow _ _ _ _ _) rfl rfl
theorem add (d a b : Reg) : Statement (.add d a b) := of_narrow (cr_narrow _ _ _ _ _) rfl rfl
theorem sub (d a b : Reg) : Statement (.sub d a b) := of_narrow (cr_narrow _ _ _ _ _) rfl rfl
theorem mul (d a b : Reg) : Statement (.mul d a b) := of_narrow (cr_narrow _ _ _ _ _) rfl rfl
theorem mulh (d a b : Reg) : Statement (.mulh d a b) := of_narrow (cr_narrow _ _ _ _ _) rfl rfl
theorem div (d a b : Reg) : Statement (.div d a b) := of_narrow (cr_narrow _ _ _ _ _) rfl rfl
theorem rem (d a b : Reg) : Statement (.rem d a b) := of_narrow (cr_narrow _ _ _ _ _) rfl rfl
theorem andr (d a b : Reg) : Statement (.andr d a b) := of_narrow (cr_narrow _ _ _ _ _) rfl rfl
theorem orr (d a b : Reg) : Statement (.orr d a b) := of_narrow (cr_narrow _ _ _ _ _) rfl rfl
theorem xorr (d a b : Reg) : Statement (.xorr d a b) := of_narrow (cr_narrow _ _ _ _ _) rfl rfl
theorem shl (d a b : Reg) : Statement (.shl d a b) := of_narrow (cr_narrow _ _ _ _ _) rfl rfl
theorem shr (d a b : Reg) : Statement (.shr d a b) := of_narrow (cr_narrow _ _ _ _ _) rfl rfl
theorem sra (d a b : Reg) : Statement (.sra d a b) := of_narrow (cr_narrow _ _ _ _ _) rfl rfl
theorem minr (d a b : Reg) : Statement (.minr d a b) := of_narrow (cr_narrow _ _ _ _ _) rfl rfl
theorem maxr (d a b : Reg) : Statement (.maxr d a b) := of_narrow (cr_narrow _ _ _ _ _) rfl rfl
theorem seq (d a b : Reg) : Statement (.seq d a b) := of_narrow (cr_narrow _ _ _ _ _) rfl rfl
theorem slt (d a b : Reg) : Statement (.slt d a b) := of_narrow (cr_narrow _ _ _ _ _) rfl rfl
theorem sltu (d a b : Reg) : Statement (.sltu d a b) := of_narrow (cr_narrow _ _ _ _ _) rfl rfl
theorem csel (d a b : Reg) : Statement (.csel d a b) := of_narrow (cr_narrow _ _ _ _ _) rfl rfl
theorem addx (d a b : Reg) (s : BitVec 3) : Statement (.addx d a b s) := of_narrow (cr_narrow _ _ _ _ _) rfl rfl
theorem addi (d a : Reg) (imm : BitVec 15) : Statement (.addi d a imm) := of_narrow (ci_narrow _ _ _ _) rfl rfl
theorem andi (d a : Reg) (imm : BitVec 15) : Statement (.andi d a imm) := of_narrow (ci_narrow _ _ _ _) rfl rfl
theorem ori (d a : Reg) (imm : BitVec 15) : Statement (.ori d a imm) := of_narrow (ci_narrow _ _ _ _) rfl rfl
theorem xori (d a : Reg) (imm : BitVec 15) : Statement (.xori d a imm) := of_narrow (ci_narrow _ _ _ _) rfl rfl
theorem shli (d a : Reg) (sh : BitVec 6) : Statement (.shli d a sh) := of_narrow (ci_narrow _ _ _ _) rfl rfl
theorem shri (d a : Reg) (sh : BitVec 6) : Statement (.shri d a sh) := of_narrow (ci_narrow _ _ _ _) rfl rfl
theorem srai (d a : Reg) (sh : BitVec 6) : Statement (.srai d a sh) := of_narrow (ci_narrow _ _ _ _) rfl rfl
theorem slti (d a : Reg) (imm : BitVec 15) : Statement (.slti d a imm) := of_narrow (ci_narrow _ _ _ _) rfl rfl
theorem lui (d : Reg) (imm : BitVec 20) : Statement (.lui d imm) := of_narrow (cu_narrow _ _ _) rfl rfl
theorem beq (a b : Reg) (off : BitVec 15) : Statement (.beq a b off) := of_narrow (ci_narrow _ _ _ _) rfl rfl
theorem bne (a b : Reg) (off : BitVec 15) : Statement (.bne a b off) := of_narrow (ci_narrow _ _ _ _) rfl rfl
theorem blt (a b : Reg) (off : BitVec 15) : Statement (.blt a b off) := of_narrow (ci_narrow _ _ _ _) rfl rfl
theorem bge (a b : Reg) (off : BitVec 15) : Statement (.bge a b off) := of_narrow (ci_narrow _ _ _ _) rfl rfl
theorem bltu (a b : Reg) (off : BitVec 15) : Statement (.bltu a b off) := of_narrow (ci_narrow _ _ _ _) rfl rfl
theorem bgeu (a b : Reg) (off : BitVec 15) : Statement (.bgeu a b off) := of_narrow (ci_narrow _ _ _ _) rfl rfl
theorem jmp (off : BitVec 25) : Statement (.jmp off) := of_narrow (cj_narrow _ _) rfl rfl
theorem jal (off : BitVec 25) : Statement (.jal off) := of_narrow (cj_narrow _ _) rfl rfl
theorem jr (a : Reg) : Statement (.jr a) := of_narrow (cr_narrow _ _ _ _ _) rfl rfl
theorem loop (lc : BitVec 2) (a : Reg) (body : BitVec 10) : Statement (.loop lc a body) := of_narrow (cl_narrow _ _ _ _) rfl rfl
theorem loopi (lc : BitVec 2) (cnt : BitVec 13) (body : BitVec 10) : Statement (.loopi lc cnt body) := of_narrow (cl_narrow _ _ _ _) rfl rfl
theorem lbrk (lc : BitVec 2) : Statement (.lbrk lc) := of_narrow (cl_narrow _ _ _ _) rfl rfl
theorem mfs (d : Reg) (sr : BitVec 12) : Statement (.mfs d sr) := of_narrow (cs_narrow _ _ _ _) rfl rfl
theorem mts (a : Reg) (sr : BitVec 12) : Statement (.mts a sr) := of_narrow (cs_narrow _ _ _ _) rfl rfl
theorem bankWake (core : Nat) : Statement (.bankWake core) := .inl ⟨rfl, rfl⟩
theorem waitc (imm : BitVec 20) : Statement (.waitc imm) := of_narrow (cu_narrow _ _ _) rfl rfl
theorem trap (imm : BitVec 20) : Statement (.trap imm) := of_narrow (cu_narrow _ _ _) rfl rfl
theorem rte : Statement .rte := of_narrow (cu_narrow _ _ _) rfl rfl
theorem brk (imm : BitVec 20) : Statement (.brk imm) := of_narrow (cu_narrow _ _ _) rfl rfl
theorem idle : Statement .idle := of_narrow (cu_narrow _ _ _) rfl rfl
theorem tlbi (a b : Reg) : Statement (.tlbi a b) := of_narrow (cr_narrow _ _ _ _ _) rfl rfl
theorem tlbs (d a : Reg) : Statement (.tlbs d a) := of_narrow (cr_narrow _ _ _ _ _) rfl rfl
theorem cswap (a : Reg) : Statement (.cswap a) := of_narrow (cr_narrow _ _ _ _ _) rfl rfl
theorem scalarDivideComplete (core : Nat) (s : Seq) : Statement (.scalarDivideComplete core s) := .inl ⟨rfl, rfl⟩
theorem vadd (f : IFmt) (sat : Bool) (sel : Sel) (d a b : Opnd) (q : XQ) : Statement (.vadd f sat sel d a b q) := of_wide (x_wide _) rfl rfl
theorem vsub (f : IFmt) (sat : Bool) (sel : Sel) (d a b : Opnd) (q : XQ) : Statement (.vsub f sat sel d a b q) := of_wide (x_wide _) rfl rfl
theorem vmul (f : IFmt) (sat : Bool) (sel : Sel) (d a b : Opnd) (q : XQ) : Statement (.vmul f sat sel d a b q) := of_wide (x_wide _) rfl rfl
theorem vmulh (f : IFmt) (sel : Sel) (d a b : Opnd) (q : XQ) : Statement (.vmulh f sel d a b q) := of_wide (x_wide _) rfl rfl
theorem vmad (f : IFmt) (sat : Bool) (d a b c : Opnd) (q : XQ) : Statement (.vmad f sat d a b c q) := of_wide (x_wide _) rfl rfl
theorem vabs (f : IFmt) (sat : Bool) (sel : Sel) (d a : Opnd) (q : XQ) : Statement (.vabs f sat sel d a q) := of_wide (x_wide _) rfl rfl
theorem vneg (f : IFmt) (sat : Bool) (sel : Sel) (d a : Opnd) (q : XQ) : Statement (.vneg f sat sel d a q) := of_wide (x_wide _) rfl rfl
theorem vmin (f : IFmt) (sel : Sel) (d a b : Opnd) (q : XQ) : Statement (.vmin f sel d a b q) := of_wide (x_wide _) rfl rfl
theorem vmax (f : IFmt) (sel : Sel) (d a b : Opnd) (q : XQ) : Statement (.vmax f sel d a b q) := of_wide (x_wide _) rfl rfl
theorem vand (d a b : Opnd) (q : XQ) : Statement (.vand d a b q) := of_wide (x_wide _) rfl rfl
theorem vor (d a b : Opnd) (q : XQ) : Statement (.vor d a b q) := of_wide (x_wide _) rfl rfl
theorem vxor (d a b : Opnd) (q : XQ) : Statement (.vxor d a b q) := of_wide (x_wide _) rfl rfl
theorem vandn (d a b : Opnd) (q : XQ) : Statement (.vandn d a b q) := of_wide (x_wide _) rfl rfl
theorem vshl (f : IFmt) (sel : Sel) (d a b : Opnd) (q : XQ) : Statement (.vshl f sel d a b q) := of_wide (x_wide _) rfl rfl
theorem vshr (f : IFmt) (sel : Sel) (d a b : Opnd) (q : XQ) : Statement (.vshr f sel d a b q) := of_wide (x_wide _) rfl rfl
theorem vsra (f : IFmt) (sel : Sel) (d a b : Opnd) (q : XQ) : Statement (.vsra f sel d a b q) := of_wide (x_wide _) rfl rfl
theorem vcmp (f : IFmt) (p : Pred) (sel : Sel) (kd : BitVec 3) (a b : Opnd) (q : XQ) : Statement (.vcmp f p sel kd a b q) := of_wide (x_wide _) rfl rfl
theorem vsel (d a b : Opnd) (q : XQ) : Statement (.vsel d a b q) := of_wide (x_wide _) rfl rfl
theorem vsat (f : IFmt) (d a : Opnd) (q : XQ) : Statement (.vsat f d a q) := of_wide (x_wide _) rfl rfl
theorem vtacc (sat : Bool) (sel : Sel) (d a b : Opnd) (q : XQ) : Statement (.vtacc sat sel d a b q) := of_wide (x_wide _) rfl rfl
theorem tunp (sel : Sel) (d a : Opnd) (q : XQ) : Statement (.tunp sel d a q) := of_wide (x_wide _) rfl rfl
theorem vfadd (f : FFmt) (sel : Sel) (d a b : Opnd) (q : XQ) : Statement (.vfadd f sel d a b q) := of_wide (x_wide _) rfl rfl
theorem vfsub (f : FFmt) (sel : Sel) (d a b : Opnd) (q : XQ) : Statement (.vfsub f sel d a b q) := of_wide (x_wide _) rfl rfl
theorem vfmul (f : FFmt) (sel : Sel) (d a b : Opnd) (q : XQ) : Statement (.vfmul f sel d a b q) := of_wide (x_wide _) rfl rfl
theorem vfma (f : FFmt) (d a b c : Opnd) (q : XQ) : Statement (.vfma f d a b c q) := of_wide (x_wide _) rfl rfl
theorem vfnma (f : FFmt) (d a b c : Opnd) (q : XQ) : Statement (.vfnma f d a b c q) := of_wide (x_wide _) rfl rfl
theorem vfmin (f : FFmt) (sel : Sel) (d a b : Opnd) (q : XQ) : Statement (.vfmin f sel d a b q) := of_wide (x_wide _) rfl rfl
theorem vfmax (f : FFmt) (sel : Sel) (d a b : Opnd) (q : XQ) : Statement (.vfmax f sel d a b q) := of_wide (x_wide _) rfl rfl
theorem vfcmp (f : FFmt) (p : Pred) (sel : Sel) (kd : BitVec 3) (a b : Opnd) (q : XQ) : Statement (.vfcmp f p sel kd a b q) := of_wide (x_wide _) rfl rfl
theorem vfcls (f : FFmt) (sel : Sel) (d a : Opnd) (q : XQ) : Statement (.vfcls f sel d a q) := of_wide (x_wide _) rfl rfl
theorem vfdiv (f : FFmt) (sel : Sel) (d a b : Opnd) (q : XQ) : Statement (.vfdiv f sel d a b q) := of_wide (x_wide _) rfl rfl
theorem vrcp (f : FFmt) (sel : Sel) (d a : Opnd) (q : XQ) : Statement (.vrcp f sel d a q) := of_wide (x_wide _) rfl rfl
theorem vrsq (f : FFmt) (sel : Sel) (d a : Opnd) (q : XQ) : Statement (.vrsq f sel d a q) := of_wide (x_wide _) rfl rfl
theorem vexp2 (f : FFmt) (sel : Sel) (d a : Opnd) (q : XQ) : Statement (.vexp2 f sel d a q) := of_wide (x_wide _) rfl rfl
theorem vlog2 (f : FFmt) (sel : Sel) (d a : Opnd) (q : XQ) : Statement (.vlog2 f sel d a q) := of_wide (x_wide _) rfl rfl
theorem vcvtFloatToFloat (df sf : FFmt) (r : Round) (sat : Bool) (sel : Sel) (d a : Opnd) (q : XQ) : Statement (.vcvtFloatToFloat df sf r sat sel d a q) := of_wide (x_wide _) rfl rfl
theorem vcvtFloatToInteger (df : IFmt) (sf : FFmt) (r : Round) (sel : Sel) (d a : Opnd) (q : XQ) : Statement (.vcvtFloatToInteger df sf r sel d a q) := of_wide (x_wide _) rfl rfl
theorem vcvtIntegerToFloat (df : FFmt) (sf : IFmt) (r : Round) (sat : Bool) (sel : Sel) (d a : Opnd) (q : XQ) : Statement (.vcvtIntegerToFloat df sf r sat sel d a q) := of_wide (x_wide _) rfl rfl
theorem vcvtIntegerToInteger (df sf : IFmt) (sat : Bool) (sel : Sel) (d a : Opnd) (q : XQ) : Statement (.vcvtIntegerToInteger df sf sat sel d a q) := of_wide (x_wide _) rfl rfl
theorem vpack (f : DFmt) (r : Round) (d a b : Opnd) (q : XQ) : Statement (.vpack f r d a b q) := of_wide (x_wide _) rfl rfl
theorem vunpk (f : DFmt) (d a : Opnd) (q : XQ) : Statement (.vunpk f d a q) := of_wide (x_wide _) rfl rfl
theorem cbx (w : CbBits) (t : BitVec 3) (d a : Opnd) (q : XQ) : Statement (.cbx w t d a q) := of_wide (x_wide _) rfl rfl
theorem cbld (t : BitVec 3) (a : Opnd) (q : XQ) : Statement (.cbld t a q) := of_wide (x_wide _) rfl rfl
theorem vmov (d a : Opnd) (q : XQ) : Statement (.vmov d a q) := of_wide (x_wide _) rfl rfl
theorem vbcst (d : Opnd) (a : Reg) (q : XQ) : Statement (.vbcst d a q) := of_wide (x_wide _) rfl rfl
theorem vidx (d : Opnd) (q : XQ) : Statement (.vidx d q) := of_wide (x_wide _) rfl rfl
theorem vperm (d a b : Opnd) (q : XQ) : Statement (.vperm d a b q) := of_wide (x_wide _) rfl rfl
theorem vrot (d a : Opnd) (b : Reg) (q : XQ) : Statement (.vrot d a b q) := of_wide (x_wide _) rfl rfl
theorem vgth (d a b : Opnd) (q : XQ) : Statement (.vgth d a b q) := of_wide (x_wide _) rfl rfl
theorem vsct (d a b : Opnd) (q : XQ) : Statement (.vsct d a b q) := of_wide (x_wide _) rfl rfl
theorem vxtr (f : IFmt) (d : Reg) (a : Opnd) (b : Reg) (q : XQ) : Statement (.vxtr f d a b q) := of_wide (x_wide _) rfl rfl
theorem vins (f : IFmt) (d : Opnd) (a b : Reg) (q : XQ) : Statement (.vins f d a b q) := of_wide (x_wide _) rfl rfl
theorem vrsum (f : DFmt) (d a : Opnd) (q : XQ) : Statement (.vrsum f d a q) := of_wide (x_wide _) rfl rfl
theorem vrmax (f : DFmt) (d a : Opnd) (q : XQ) : Statement (.vrmax f d a q) := of_wide (x_wide _) rfl rfl
theorem vrmin (f : DFmt) (d a : Opnd) (q : XQ) : Statement (.vrmin f d a q) := of_wide (x_wide _) rfl rfl
theorem vmcnt (d : Reg) (ka : BitVec 3) (q : XQ) : Statement (.vmcnt d ka q) := of_wide (x_wide _) rfl rfl
theorem vmscl (f : FFmt) (sel : Sel) (d a b : Opnd) (q : XQ) : Statement (.vmscl f sel d a b q) := of_wide (x_wide _) rfl rfl
theorem kop (op : KOpKind) (kd ka kb : BitVec 3) (q : XQ) : Statement (.kop op kd ka kb q) := of_wide (x_wide _) rfl rfl
theorem kset (kd : BitVec 3) (a : Reg) (q : XQ) : Statement (.kset kd a q) := of_wide (x_wide _) rfl rfl
theorem xResultLand (core : Nat) : Statement (.xResultLand core) := .inl ⟨rfl, rfl⟩
theorem sms (q : XQ) : Statement (.sms q) := of_wide (x_wide _) rfl rfl
theorem wpw (q : XQ) : Statement (.wpw q) := of_wide (x_wide _) rfl rfl
theorem gbar (q : XQ) : Statement (.gbar q) := of_wide (x_wide _) rfl rfl
theorem gangBarrierComplete (core : Nat) : Statement (.gangBarrierComplete core) := .inl ⟨rfl, rfl⟩
theorem sig (a : Reg) (q : XQ) : Statement (.sig a q) := of_wide (x_wide _) rfl rfl
theorem tail (q : XQ) : Statement (.tail q) := of_wide (x_wide _) rfl rfl
theorem yld (q : XQ) : Statement (.yld q) := of_wide (x_wide _) rfl rfl
theorem qtst (d : Reg) (a : BitVec 3) (q : XQ) : Statement (.qtst d a q) := of_wide (x_wide _) rfl rfl
theorem qfwd (d : BitVec 2) (a : BitVec 3) (q : XQ) : Statement (.qfwd d a q) := of_wide (x_wide _) rfl rfl
theorem mcfg (word : BitVec 5) (a : Reg) (q : XQ) : Statement (.mcfg word a q) := of_wide (x_wide _) rfl rfl
theorem mcfgl (a : Opnd) (q : XQ) : Statement (.mcfgl a q) := of_wide (x_wide _) rfl rfl
theorem mgo (q : XQ) : Statement (.mgo q) := of_wide (x_wide _) rfl rfl
theorem mwait (d : Reg) (q : XQ) : Statement (.mwait d q) := of_wide (x_wide _) rfl rfl
theorem aclr (d : Opnd) (a : Reg) (h : BitVec 6) (q : XQ) : Statement (.aclr d a h q) := of_wide (x_wide _) rfl rfl
theorem aanc (d : Opnd) (a : Reg) (h : BitVec 6) (q : XQ) : Statement (.aanc d a h q) := of_wide (x_wide _) rfl rfl
theorem rslvCanonical (d : Opnd) (h : BitVec 6) (q : XQ) : Statement (.rslvCanonical d h q) := of_wide (x_wide _) rfl rfl
theorem rslvToFormat (f : RFmt) (r : Round) (sat : Bool) (d a : Opnd) (h : BitVec 6) (q : XQ) : Statement (.rslvToFormat f r sat d a h q) := of_wide (x_wide _) rfl rfl
theorem rslvWireForm (d a : Opnd) (b : Reg) (h : BitVec 6) (q : XQ) : Statement (.rslvWireForm d a b h q) := of_wide (x_wide _) rfl rfl
theorem ascl (d a b : Opnd) (h : BitVec 6) (q : XQ) : Statement (.ascl d a b h q) := of_wide (x_wide _) rfl rfl
theorem acmp (p : Pred) (raw : Bool) (kd : BitVec 3) (a b : Opnd) (col : BitVec 8) (q : XQ) : Statement (.acmp p raw kd a b col q) := of_wide (x_wide _) rfl rfl
theorem amov (d a : Opnd) (h : BitVec 6) (q : XQ) : Statement (.amov d a h q) := of_wide (x_wide _) rfl rfl
theorem achk (a : Opnd) (h : BitVec 6) (q : XQ) : Statement (.achk a h q) := of_wide (x_wide _) rfl rfl
theorem nestJobStart (core : Nat) : Statement (.nestJobStart core) := .inl ⟨rfl, rfl⟩
theorem shardLatchReady (core : Nat) : Statement (.shardLatchReady core) := .inl ⟨rfl, rfl⟩
theorem beatLand (core : Nat) : Statement (.beatLand core) := .inl ⟨rfl, rfl⟩
theorem nestJobComplete (core : Nat) : Statement (.nestJobComplete core) := .inl ⟨rfl, rfl⟩
theorem resolverJobStart (core : Nat) : Statement (.resolverJobStart core) := .inl ⟨rfl, rfl⟩
theorem resolverJobComplete (core : Nat) : Statement (.resolverJobComplete core) := .inl ⟨rfl, rfl⟩
theorem ldv (d : Opnd) (e : Addr) (x : Fe) : Statement (.ldv d e x) := of_wide (m_wide _) rfl rfl
theorem ldq (d : BitVec 3) (e : Addr) (x : Fe) : Statement (.ldq d e x) := of_wide (m_wide _) rfl rfl
theorem lds (f : SFmt) (d : Reg) (e : Addr) (x : Fe) : Statement (.lds f d e x) := of_wide (m_wide _) rfl rfl
theorem gthq (d : BitVec 3) (gx : Reg) (e : Base) : Statement (.gthq d gx e) := of_wide (m_wide _) rfl rfl
theorem prf (e : Addr) : Statement (.prf e) := of_wide (m_wide _) rfl rfl
theorem qpsh (d : BitVec 3) (gb gx : Reg) : Statement (.qpsh d gb gx) := of_wide (m_wide _) rfl rfl
theorem qeos (d : BitVec 3) : Statement (.qeos d) := of_wide (m_wide _) rfl rfl
theorem strm (d : BitVec 3) (e : Addr) (x : Fe) : Statement (.strm d e x) := of_wide (m_wide _) rfl rfl
theorem loadDataArrive (core : Nat) : Statement (.loadDataArrive core) := .inl ⟨rfl, rfl⟩
theorem tokw (d : Reg) : Statement (.tokw d) := of_wide (m_wide _) rfl rfl
theorem hget (d gb : Reg) (slot : BitVec 4) : Statement (.hget d gb slot) := of_wide (m_wide _) rfl rfl
theorem hpass (d gb gx : Reg) (slot : BitVec 4) : Statement (.hpass d gb gx slot) := of_wide (m_wide _) rfl rfl
theorem hrel (slot : BitVec 4) : Statement (.hrel slot) := of_wide (m_wide _) rfl rfl
theorem itin (d : Reg) (e : Addr) : Statement (.itin d e) := of_wide (m_wide _) rfl rfl
theorem jcpy (d : Reg) (e : Addr) : Statement (.jcpy d e) := of_wide (m_wide _) rfl rfl
theorem jwait (d : Reg) : Statement (.jwait d) := of_wide (m_wide _) rfl rfl
theorem rcon (d : BitVec 3) (gb gx : Reg) (off : BitVec 18) (slot : BitVec 4) : Statement (.rcon d gb gx off slot) := of_wide (m_wide _) rfl rfl
theorem rqgt (d : BitVec 3) (slot : BitVec 4) : Statement (.rqgt d slot) := of_wide (m_wide _) rfl rfl
theorem mca (d gb gx : Reg) : Statement (.mca d gb gx) := of_wide (m_wide _) rfl rfl
theorem stv (d : Opnd) (e : Addr) (x : Fe) : Statement (.stv d e x) := of_wide (m_wide _) rfl rfl
theorem stq (d : BitVec 2) (e : Addr) (x : Fe) : Statement (.stq d e x) := of_wide (m_wide _) rfl rfl
theorem sts (f : SFmt) (d : Reg) (e : Addr) (x : Fe) : Statement (.sts f d e x) := of_wide (m_wide _) rfl rfl
theorem sta (raw : Bool) (d : Opnd) (gx : Reg) (e : Base) : Statement (.sta raw d gx e) := of_wide (m_wide _) rfl rfl
theorem sct (d : BitVec 2) (gx : Reg) (e : Base) : Statement (.sct d gx e) := of_wide (m_wide _) rfl rfl
theorem atadd (f : AFmt) (k : AKind) (sc : Scope) (d gx : Reg) (e : Base) : Statement (.atadd f k sc d gx e) := of_wide (m_wide _) rfl rfl
theorem atfadd (f : AFFmt) (k : AKind) (sc : Scope) (d gx : Reg) (e : Base) : Statement (.atfadd f k sc d gx e) := of_wide (m_wide _) rfl rfl
theorem atmin (f : AFmt) (k : AKind) (sc : Scope) (d gx : Reg) (e : Base) : Statement (.atmin f k sc d gx e) := of_wide (m_wide _) rfl rfl
theorem atmax (f : AFmt) (k : AKind) (sc : Scope) (d gx : Reg) (e : Base) : Statement (.atmax f k sc d gx e) := of_wide (m_wide _) rfl rfl
theorem atxch (f : AFmt) (k : AKind) (sc : Scope) (d gx : Reg) (e : Base) : Statement (.atxch f k sc d gx e) := of_wide (m_wide _) rfl rfl
theorem atcas (f : AFmt) (k : AKind) (sc : Scope) (d gx : Reg) (e : Base) : Statement (.atcas f k sc d gx e) := of_wide (m_wide _) rfl rfl
theorem fence (k : AKind) (sc : Scope) : Statement (.fence k sc) := of_wide (m_wide _) rfl rfl
theorem bfen (sc : Scope) : Statement (.bfen sc) := of_wide (m_wide _) rfl rfl
theorem toks (sc : Scope) (d : Reg) : Statement (.toks sc d) := of_wide (m_wide _) rfl rfl
theorem rrsv (d gb : Reg) (off : BitVec 18) (slot : BitVec 4) : Statement (.rrsv d gb off slot) := of_wide (m_wide _) rfl rfl
theorem rpub (d : BitVec 2) (gb gx : Reg) (off : BitVec 18) (slot : BitVec 4) : Statement (.rpub d gb gx off slot) := of_wide (m_wide _) rfl rfl
theorem bmv (d : Reg) (e : Addr) : Statement (.bmv d e) := of_wide (m_wide _) rfl rfl
theorem coll (d : Reg) (e : Addr) : Statement (.coll d e) := of_wide (m_wide _) rfl rfl
theorem mcj (d : Reg) (e : Addr) : Statement (.mcj d e) := of_wide (m_wide _) rfl rfl
theorem writePerformHome (core n : Nat) : Statement (.writePerformHome core n) := .inl ⟨rfl, rfl⟩
theorem remoteUpdateInstall (die n : Nat) : Statement (.remoteUpdateInstall die n) := .inl ⟨rfl, rfl⟩
theorem fullEmptyGrant (core : Nat) : Statement (.fullEmptyGrant core) := .inl ⟨rfl, rfl⟩
theorem itineraryStart (die part : Nat) : Statement (.itineraryStart die part) := .inl ⟨rfl, rfl⟩
theorem itineraryEntryIssue (die part : Nat) : Statement (.itineraryEntryIssue die part) := .inl ⟨rfl, rfl⟩
theorem itineraryGranuleLand (die part entry granule : Nat) : Statement (.itineraryGranuleLand die part entry granule) := .inl ⟨rfl, rfl⟩
theorem itineraryEntryComplete (die part entry : Nat) : Statement (.itineraryEntryComplete die part entry) := .inl ⟨rfl, rfl⟩
theorem entryLate (die part entry : Nat) : Statement (.entryLate die part entry) := .inl ⟨rfl, rfl⟩
theorem itineraryEnd (die part : Nat) : Statement (.itineraryEnd die part) := .inl ⟨rfl, rfl⟩
theorem multicastDelivery (die part group : Nat) (m : McBlock) : Statement (.multicastDelivery die part group m) := .inl ⟨rfl, rfl⟩
theorem copyCardStart (die part : Nat) : Statement (.copyCardStart die part) := .inl ⟨rfl, rfl⟩
theorem copyCardComplete (cluster : Nat) : Statement (.copyCardComplete cluster) := .inl ⟨rfl, rfl⟩
theorem bmvJobComplete (core : Nat) : Statement (.bmvJobComplete core) := .inl ⟨rfl, rfl⟩
theorem collectiveAdmission (group : Nat) (collid : BitVec 32) : Statement (.collectiveAdmission group collid) := .inl ⟨rfl, rfl⟩
theorem blockEmit (die part : Nat) : Statement (.blockEmit die part) := .inl ⟨rfl, rfl⟩
theorem switchContribution (switch child : Nat) (b : WireBlock) : Statement (.switchContribution switch child b) := .inl ⟨rfl, rfl⟩
theorem switchBlockTimeout (switch : Nat) (collid : BitVec 32) (blk : Nat) : Statement (.switchBlockTimeout switch collid blk) := .inl ⟨rfl, rfl⟩
theorem endMarker (collid : BitVec 32) (member : Nat) : Statement (.endMarker collid member) := .inl ⟨rfl, rfl⟩
theorem topSwitchTimerStart (collid : BitVec 32) : Statement (.topSwitchTimerStart collid) := .inl ⟨rfl, rfl⟩
theorem resultBlockDelivery (part : Nat) (lost : Bool) (put : Option PutDst) (b : WireBlock) : Statement (.resultBlockDelivery part lost put b) := .inl ⟨rfl, rfl⟩
theorem collectiveComplete (die part : Nat) : Statement (.collectiveComplete die part) := .inl ⟨rfl, rfl⟩
theorem flitLoss (core : Nat) (mire : Bool) (retriesExhausted : Bool) : Statement (.flitLoss core mire retriesExhausted) := .inl ⟨rfl, rfl⟩
theorem remoteAccess (exportOff : Nat) (write : Bool) (data : List Byte) : Statement (.remoteAccess exportOff write data) := .inl ⟨rfl, rfl⟩
theorem gathererTakeSlot (die part : Nat) : Statement (.gathererTakeSlot die part) := .inl ⟨rfl, rfl⟩
theorem batchCloseDeadline (die part : Nat) : Statement (.batchCloseDeadline die part) := .inl ⟨rfl, rfl⟩
theorem launchRecordTake (part stream : Nat) : Statement (.launchRecordTake part stream) := .inl ⟨rfl, rfl⟩
theorem streamWaitSatisfied (part stream : Nat) : Statement (.streamWaitSatisfied part stream) := .inl ⟨rfl, rfl⟩
theorem signalRecord (part stream : Nat) : Statement (.signalRecord part stream) := .inl ⟨rfl, rfl⟩
theorem kernelResident (part stream : Nat) : Statement (.kernelResident part stream) := .inl ⟨rfl, rfl⟩
theorem earlyResident (part stream : Nat) : Statement (.earlyResident part stream) := .inl ⟨rfl, rfl⟩
theorem placementAsk (core : Nat) : Statement (.placementAsk core) := .inl ⟨rfl, rfl⟩
theorem cellStart (core : Nat) : Statement (.cellStart core) := .inl ⟨rfl, rfl⟩
theorem cellEnd (core : Nat) : Statement (.cellEnd core) := .inl ⟨rfl, rfl⟩
theorem retirementEntryRetire (core n : Nat) : Statement (.retirementEntryRetire core n) := .inl ⟨rfl, rfl⟩
theorem kernelComplete (part serial : Nat) : Statement (.kernelComplete part serial) := .inl ⟨rfl, rfl⟩
theorem priorityAging (part stream : Nat) : Statement (.priorityAging part stream) := .inl ⟨rfl, rfl⟩
theorem sensorRefresh (core : Nat) (temp droop : BitVec 4) : Statement (.sensorRefresh core temp droop) := .inl ⟨rfl, rfl⟩
theorem powerLimitReached (idle : Nat) : Statement (.powerLimitReached idle) := .inl ⟨rfl, rfl⟩
theorem bucketRefill : Statement .bucketRefill := .inl ⟨rfl, rfl⟩
theorem watchdogExpire (core : Nat) : Statement (.watchdogExpire core) := .inl ⟨rfl, rfl⟩
theorem haltLineArrive (part : Nat) (u : HaltUnit) : Statement (.haltLineArrive part u) := .inl ⟨rfl, rfl⟩
theorem engineStopPoint (part : Nat) (u : HaltUnit) : Statement (.engineStopPoint part u) := .inl ⟨rfl, rfl⟩
theorem haltComplete (part : Nat) : Statement (.haltComplete part) := .inl ⟨rfl, rfl⟩
theorem shadowFlip (core : Nat) : Statement (.shadowFlip core) := .inl ⟨rfl, rfl⟩
theorem contextSpillComplete (core : Nat) : Statement (.contextSpillComplete core) := .inl ⟨rfl, rfl⟩
theorem contextWake (core n : Nat) : Statement (.contextWake core n) := .inl ⟨rfl, rfl⟩
theorem contextResume (core n : Nat) : Statement (.contextResume core n) := .inl ⟨rfl, rfl⟩
theorem cxctlPark (core : Nat) : Statement (.cxctlPark core) := .inl ⟨rfl, rfl⟩
theorem haltctlResume (part : Nat) : Statement (.haltctlResume part) := .inl ⟨rfl, rfl⟩
theorem haltctlAbandon (part : Nat) : Statement (.haltctlAbandon part) := .inl ⟨rfl, rfl⟩
theorem haltctlParkAll (part : Nat) : Statement (.haltctlParkAll part) := .inl ⟨rfl, rfl⟩
theorem prqPop : Statement .prqPop := .inl ⟨rfl, rfl⟩
theorem prqAck (tag : BitVec 8) (fail : Bool) : Statement (.prqAck tag fail) := .inl ⟨rfl, rfl⟩
theorem debugHalt : Statement .debugHalt := .inl ⟨rfl, rfl⟩
theorem debugResume : Statement .debugResume := .inl ⟨rfl, rfl⟩
theorem debugStep : Statement .debugStep := .inl ⟨rfl, rfl⟩
theorem debugEngineStep : Statement .debugEngineStep := .inl ⟨rfl, rfl⟩
theorem debugAttach (attach : Bool) : Statement (.debugAttach attach) := .inl ⟨rfl, rfl⟩
theorem dbgdataWrite (data : Word) : Statement (.dbgdataWrite data) := .inl ⟨rfl, rfl⟩
theorem pdbgWrite (part : Nat) (ok : Bool) : Statement (.pdbgWrite part ok) := .inl ⟨rfl, rfl⟩
theorem partitionReset (part : Nat) : Statement (.partitionReset part) := .inl ⟨rfl, rfl⟩
theorem prstctlGo (part : Nat) : Statement (.prstctlGo part) := .inl ⟨rfl, rfl⟩
theorem functionLevelReset (part : Nat) : Statement (.functionLevelReset part) := .inl ⟨rfl, rfl⟩
theorem resetAccessDrain (part : Nat) : Statement (.resetAccessDrain part) := .inl ⟨rfl, rfl⟩
theorem pcfgWrite (part : Nat) (v : Word) : Statement (.pcfgWrite part v) := .inl ⟨rfl, rfl⟩
theorem partitionEnable (part : Nat) : Statement (.partitionEnable part) := .inl ⟨rfl, rfl⟩
theorem partitionDestroy (part : Nat) : Statement (.partitionDestroy part) := .inl ⟨rfl, rfl⟩
theorem clusterScrubComplete (cluster : Nat) : Statement (.clusterScrubComplete cluster) := .inl ⟨rfl, rfl⟩
theorem exportGrant (part unit : Nat) : Statement (.exportGrant part unit) := .inl ⟨rfl, rfl⟩
theorem exportWithdraw (part unit : Nat) : Statement (.exportWithdraw part unit) := .inl ⟨rfl, rfl⟩
theorem mgmtMemoryAccess (part va : Nat) (write : Bool) (data : BitVec 512) : Statement (.mgmtMemoryAccess part va write data) := .inl ⟨rfl, rfl⟩
theorem invalidatePage (asid page : Nat) : Statement (.invalidatePage asid page) := .inl ⟨rfl, rfl⟩
theorem invalidateAsid (asid : Nat) : Statement (.invalidateAsid asid) := .inl ⟨rfl, rfl⟩
theorem invalidateAll : Statement .invalidateAll := .inl ⟨rfl, rfl⟩
theorem invalidateExportUnit (unit : Nat) : Statement (.invalidateExportUnit unit) := .inl ⟨rfl, rfl⟩
theorem invalidationDone : Statement .invalidationDone := .inl ⟨rfl, rfl⟩
theorem keyLoad : Statement .keyLoad := .inl ⟨rfl, rfl⟩
theorem keyClear : Statement .keyClear := .inl ⟨rfl, rfl⟩
theorem cxlRekey (frame : Nat) : Statement (.cxlRekey frame) := .inl ⟨rfl, rfl⟩
theorem migrateSwap (die : Nat) : Statement (.migrateSwap die) := .inl ⟨rfl, rfl⟩
theorem migrateOptimistic (die : Nat) : Statement (.migrateOptimistic die) := .inl ⟨rfl, rfl⟩
theorem migrationEnd (die : Nat) : Statement (.migrationEnd die) := .inl ⟨rfl, rfl⟩
theorem llclrHop (die part hop : Nat) : Statement (.llclrHop die part hop) := .inl ⟨rfl, rfl⟩
theorem llclrPace (die part : Nat) : Statement (.llclrPace die part) := .inl ⟨rfl, rfl⟩
theorem streamTailWrite (part stream : Nat) (v : Word) : Statement (.streamTailWrite part stream v) := .inl ⟨rfl, rfl⟩
theorem streamClearError (part stream : Nat) : Statement (.streamClearError part stream) := .inl ⟨rfl, rfl⟩
theorem gathererConfigWrite (die part : Nat) (offset : Nat) (v : Word) : Statement (.gathererConfigWrite die part offset v) := .inl ⟨rfl, rfl⟩
theorem registerWrite (w : Window) (offset : Nat) (v : Word) : Statement (.registerWrite w offset v) := .inl ⟨rfl, rfl⟩
theorem dieFence (die : Nat) : Statement (.dieFence die) := .inl ⟨rfl, rfl⟩
theorem heartbeatTimeout (die : Nat) : Statement (.heartbeatTimeout die) := .inl ⟨rfl, rfl⟩
theorem masterElection : Statement .masterElection := .inl ⟨rfl, rfl⟩
theorem perstDeassert (images : List Image) : Statement (.perstDeassert images) := .inl ⟨rfl, rfl⟩
theorem stage1Ready : Statement .stage1Ready := .inl ⟨rfl, rfl⟩
theorem attestationRequest (part : Nat) (nonce peer : BitVec 256) : Statement (.attestationRequest part nonce peer) := .inl ⟨rfl, rfl⟩
theorem sidebandResetRequest : Statement .sidebandResetRequest := .inl ⟨rfl, rfl⟩
theorem hostWindowAccess (part : Nat) (physical : Bool) (addr : Nat) (write : Bool) (data : List Byte) : Statement (.hostWindowAccess part physical addr write data) := .inl ⟨rfl, rfl⟩
theorem joinRecorded (core : JoinSite) : Statement (.joinRecorded core) := .inl ⟨rfl, rfl⟩
theorem softError (site : ErrorSite) (correctable : Bool) : Statement (.softError site correctable) := .inl ⟨rfl, rfl⟩
theorem subarrayRefresh (die subarray : Nat) : Statement (.subarrayRefresh die subarray) := .inl ⟨rfl, rfl⟩

end Shape

end Sys2Proof.Laws
end

