-- ==== Sys2Proof/Laws/Vector.lean ====
section
/-! SUPPORT. What the shared shapes of vector instructions deliver, said once: elementwise, whole-lane and comparing operations. -/

namespace Sys2Proof.Machine

/-- An instruction that is opX gives what its function gives. -/
theorem xGives_of_opX {s : State} {i : Instr} {srcs : List Opnd} {d : Opnd} {q : XQ} {n : Nat} {P : XOut → Prop} (F : State → List Src → Mask → XOut)
    (h : exec i s = opX n srcs d q F s) (hP : P (F (setCurCtx s (xContext s)) (srcsOf s srcs) (activeOf s q))) : XGives s i srcs d q n P := by
  intro hr
  obtain ⟨t, ht, hi⟩ := opX_issues n srcs d q F s hr
  exact ⟨_, ⟨t, h.trans ht, hi⟩, hP⟩

/-- An instruction whose function delivers lane by lane. -/
theorem xDelivers_of_opX {s : State} {i : Instr} {srcs : List Opnd} {d : Opnd} {q : XQ} {n : Nat} {c : Consumes} {P : XOut → Prop}
    (F : State → List Src → Mask → XOut) (data : Vec) (fl : LaneFlags) (h : exec i s = opX n srcs d q F s)
    (hF : F (setCurCtx s (xContext s)) (srcsOf s srcs) (activeOf s q) = deliverLanes (srcsOf s srcs) c (activeOf s q) data fl)
    (hP : P (deliverLanes (srcsOf s srcs) c (activeOf s q) data fl)) : XDelivers s i srcs d q n c P :=
  xGives_of_opX F h (by rw [hF]; exact ⟨deliverLanes_delivers .., hP⟩)

theorem width_int (f : IFmt) : f.width ∈ [4, 8, 16, 32] := by cases f <;> decide
theorem width_float (f : FFmt) : f.width ∈ [4, 8, 16, 32] := by cases f <;> decide

/-- Elementwise instructions. -/
theorem opElems_delivers {bound w : Nat} {sel : Sel} {srcs : List Opnd} {d : Opnd} {q : XQ} {op : Nat → Nat → Nat → Nat × Flags} {s : State} {i : Instr}
    (h : exec i s = opElems bound w sel srcs d q op s) (hw : w ∈ [4, 8, 16, 32]) :
    XDelivers s i srcs d q bound sameLane (ElementsAre s q w fun j e =>
      op (elem w (srcVec s srcs 0) (32 / w * j + selA sel e)) (elem w (srcVec s srcs 1) (32 / w * j + selB sel e))
        (elem w (srcVec s srcs 2) (32 / w * j + e))) :=
  xDelivers_of_opX _ _ _ h rfl (elementsAre_elementwise s srcs q sameLane w hw _)

theorem laneFlags_zero {f : LaneFlags} (h : ∀ j, j < 64 → laneFlags f j = 0) : f = 0 := by
  apply BitVec.eq_of_getLsbD_eq
  intro i hi
  have h1 := congrArg (fun x => x.getLsbD (i % 8)) (h (i / 8) (by omega))
  have e : 8 * (i / 8) + i % 8 = i := by omega
  have h8 : i % 8 < 8 := by omega
  simp [laneFlags, Nat.testBit_shiftRight, BitVec.getLsbD_ofNat] at h1
  rw [e] at h1
  simpa [h8, BitVec.testBit_toNat] using h1

/-- Whole-lane instructions. -/
theorem opLanes_delivers {bound : Nat} {srcs : List Opnd} {d : Opnd} {q : XQ} {op : BitVec 32 → BitVec 32 → BitVec 32 × Flags} {s : State} {i : Instr}
    (h : exec i s = opLanes bound srcs d q op s) :
    XDelivers s i srcs d q bound sameLane (LanesWith s q (fun j => (op (lane (srcVec s srcs 0) j) (lane (srcVec s srcs 1) j)).1)
      (fun j => (op (lane (srcVec s srcs 0) j) (lane (srcVec s srcs 1) j)).2)) :=
  xDelivers_of_opX _ _ _ h rfl (fun _ hj => ⟨lane_ofLanes _ hj, laneFlags_ofFlags _ hj⟩)

/-- Whole-lane instructions without flags. -/
theorem lanesAre_of_lanesWith {s : State} {q : XQ} {v : Nat → BitVec 32} {o : XOut} (h : LanesWith s q v (fun _ => 0) o) : LanesAre v o :=
  ⟨fun j hj => (h j hj).1, laneFlags_zero fun j hj => by rw [(h j hj).2]; simp⟩

/-- An instruction that is opXk writes a mask. -/
theorem xMask_of_opXk {s : State} {i : Instr} {srcs : List Opnd} {kd : BitVec 3} {q : XQ} {n : Nat} {p : Nat → Bool} (F : State → List Src → Mask × LaneFlags)
    (h : exec i s = opXk n srcs kd q F s) (hp : ∀ j, j < 64 → maskBit (F (setCurCtx s (xContext s)) (srcsOf s srcs)).1 j = p j) :
    XMask s i srcs kd q n p := by
  intro hs hq
  obtain ⟨r, t, ht, hi, h1, h2, h3, h4, h5⟩ := opXk_issues n srcs kd q F s hs hq
  exact ⟨r, ⟨t, h.trans ht, hi⟩, h1, h2, h3, h4, _, h5, hp⟩

/-- An instruction that is opXg writes a g register. -/
theorem xReg_of_opXg {s : State} {i : Instr} {srcs : List Opnd} {d : Reg} {q : XQ} {n : Nat} {v : Word} (F : State → List Src → Mask → Word × Mask)
    (h : exec i s = opXg n srcs d q F s) (hv : (F (setCurCtx s (xContext s)) (srcsOf s srcs) (activeOf s q)).1 = v) : XReg s i srcs d q v := by
  intro hs hq
  obtain ⟨r, t, ht, h0, hi, h1, h2, h3, h4⟩ := opXg_issues n srcs d q F s hs hq
  exact ⟨r, ⟨t, h.trans ht, hv ▸ h0, hi⟩, h1, h2, h3, h4⟩

end Sys2Proof.Machine
end

