-- ==== Sys2Proof/Tests/Slice0.lean ====
section
/-! SUPPORT. Tests: words from the encoding tables, ill-formed terms that the check refuses, one step of each instruction on a small state,
and a witness for the hypotheses of each statement. Expected values are worked out from the manual's rules and examples. -/

namespace Sys2Proof.Tests
set_option Elab.async false
open Machine

/-- No stall, flags kept, mask k0. -/
def xq : XQ := { stall := 0, nf := false, k := 0 }

/-- An address g[gb] + off without a handle. -/
def adr (gb : Reg) (off : BitVec 18 := 0) : Addr := { gb := gb, gx := 0, off := off, slot := none }

/-- The same through a handle slot. -/
def adrH (slot : BitVec 4) (gb : Reg := 0) : Addr := { gb := gb, gx := 0, off := 0, slot := some slot }

/-! ## Decoding words written out from the encoding tables (R57, R60, R65, R84 to R98, R197, R250) -/

def readsAs (sq : Seq) (a b : BitVec 32) (i : Instr) : Bool := match decode sq a b with
  | .ok j => decide (j = i)
  | .error _ => false

def refuses (sq : Seq) (a b : BitVec 32) : Bool := match decode sq a b with
  | .ok _ => false
  | .error _ => true

-- R88's worked case, R81's example, R98, R106.
theorem test_decode_lui : readsAs .L 0x141007F0 0 (.lui 1 0x7F0) = true := by decide
theorem test_decode_ori : readsAs .X 0x08108091 0 (.ori 1 1 0x91) = true := by decide
theorem test_decode_shli : readsAs .S 0x0C108015 0 (.shli 1 1 21) = true := by decide
theorem test_decode_or : readsAs .L 0x02108808 0 (.orr 1 1 2) = true := by decide
theorem test_decode_bne : readsAs .L 0x42507FFD 0 (.bne 5 0 (-3)) = true := by decide
theorem test_decode_loopi : readsAs .X 0x62001408 0 (.loopi 0 5 8) = true := by decide
theorem test_decode_tlbs : readsAs .S 0x7E638002 0 (.tlbs 6 7) = true := by decide
-- X words: vectors, conversions, codebook, masks, scheduling, matrix, resolver.
theorem test_decode_vtacc : readsAs .X 0x94005008 0x07803601 (.vtacc false (.a 3) (.dir 20) (.dir 8) (.dir 30) xq) = true := by decide +kernel
theorem test_decode_vcvt : readsAs .X 0xC0001406 0x00009001 (.vcvtFloatToFloat .f32 .bf16 .rne false (.a 1) (.dir 5) (.dir 6) xq) = true := by decide +kernel
theorem test_decode_tunp : readsAs .X 0xC6006817 0x80 (.tunp .none (.dir 26) (.dir 23) { xq with stall := 2 }) = true := by decide +kernel
theorem test_decode_vfma : readsAs .X 0xA3000402 0x00C042C8 (.vfma .bf16 (.dir 1) (.dir 2) (.dir 3) (.dir 4) { stall := 3, nf := false, k := 2 }) = true := by
  decide +kernel
theorem test_decode_rslv : readsAs .X 0xF6001400 0x00007E00 (.rslvCanonical (.dir 5) 7 xq) = true := by decide +kernel
theorem test_decode_rslv_bf16 : readsAs .X 0xF600A002 0x0003F200 (.rslvToFormat .bf16 .rne false (.dir 40) (.dir 2) 63 xq) = true := by decide +kernel
theorem test_decode_acmp : readsAs .X 0xF8000C00 0x01011804 (.acmp .gt false 3 (.dir 0) (.dir 4) 17 { stall := 0, nf := false, k := 1 }) = true := by decide +kernel
-- L words and S words.
theorem test_decode_ldq : readsAs .L 0x820F88E8 0x00200350 (.ldq 2 { gb := 7, gx := 8, off := 128, slot := some 5 } .fe) = true := by decide +kernel
theorem test_decode_rcon : readsAs .L 0xD00F8C09 0x00000140 (.rcon 3 0 9 0 4) = true := by decide +kernel
theorem test_decode_mca : readsAs .L 0xD20014C7 0 (.mca 5 6 7) = true := by decide +kernel
theorem test_decode_toks : readsAs .S 0xB2001400 0 (.toks .core 5) = true := by decide +kernel
theorem test_decode_mcj : readsAs .S 0xD2001120 0x00100000 (.mcj 4 (adr 9 64)) = true := by decide +kernel
theorem test_decode_atadd : readsAs .S 0xA00014E6 0x00020800 (.atadd .w64 .none .clus 5 6 { gb := 7, off := 8, slot := none }) = true := by decide +kernel

/-! ## Terms that the well-formedness check refuses (R58, R61 to R64, R136, R149, R250) -/

theorem test_wf_loop_body : (Instr.loop 0 1 0).wf = false ∧ (Instr.loopi 0 5 0).wf = false ∧ (Instr.loop 0 1 1).wf = true := by decide
theorem test_wf_core : (Instr.bankWake 576).wf = false ∧ (Instr.bankWake 575).wf = true := by decide
theorem test_wf_die : (Instr.dieFence 4).wf = false ∧ (Instr.dieFence 3).wf = true := by decide
theorem test_wf_cluster : (Instr.copyCardComplete 36).wf = false ∧ (Instr.copyCardComplete 35).wf = true := by decide
theorem test_wf_partition : (Instr.partitionEnable 8).wf = false ∧ (Instr.partitionEnable 7).wf = true := by decide
theorem test_wf_stream : (Instr.launchRecordTake 0 64).wf = false ∧ (Instr.launchRecordTake 0 63).wf = true := by decide
theorem test_wf_unit : (Instr.haltLineArrive 0 (.copy 36)).wf = false ∧ (Instr.haltLineArrive 0 (.seq 576 .L)).wf = false ∧
    (Instr.haltLineArrive 0 (.bmv 4)).wf = false ∧ (Instr.haltLineArrive 0 (.bmv 3)).wf = true := by decide
theorem test_wf_window : (Instr.registerWrite (.device 8) 0 0).wf = false ∧ (Instr.registerWrite (.device 7) 0 0).wf = true := by decide
theorem test_wf_error_site : (Instr.softError (.sram 36 0) true).wf = false ∧ (Instr.softError (.sram 0 524288) true).wf = false ∧
    (Instr.softError (.sram 35 524287) true).wf = true := by decide
-- .i16 has two elements a lane; a selector names one of them.
theorem test_wf_selector : (Instr.vadd .i16 false (.ab 2) (.dir 0) (.dir 1) (.dir 2) xq).wf = false ∧
    (Instr.vadd .i16 false (.ab 1) (.dir 0) (.dir 1) (.dir 2) xq).wf = true ∧ (Instr.vabs .i16 false (.b 0) (.dir 0) (.dir 1) xq).wf = false ∧
    (Instr.tunp (.a 4) (.dir 0) (.dir 1) xq).wf = false ∧ (Instr.vtacc false (.b 0) (.dir 0) (.dir 1) (.dir 2) xq).wf = false := by decide
theorem test_wf_destination : (Instr.vidx (.q 0) xq).wf = false ∧ (Instr.vidx (.dir 960) xq).wf = false ∧ (Instr.vidx (.dir 959) xq).wf = true ∧
    (Instr.vidx .flags xq).wf = false := by decide
theorem test_wf_source : (Instr.vand (.dir 0) (.w 0) (.dir 1) xq).wf = false ∧ (Instr.vand (.dir 0) (.dir 1) .flags xq).wf = false ∧
    (Instr.vand (.w 0) (.q 7) (.ind 3) xq).wf = true := by decide
theorem test_wf_store_operand : (Instr.amov (.q 0) (.dir 0) 0 xq).wf = false ∧ (Instr.vgth (.dir 0) (.q 0) (.dir 1) xq).wf = false ∧
    (Instr.vtacc false .none (.w 0) (.dir 0) (.dir 1) xq).wf = false ∧ (Instr.ldv (.q 0) (adr 0) .none).wf = false := by decide
theorem test_wf_vmov : (Instr.vmov .flags (.dir 1) xq).wf = true ∧ (Instr.vmov (.q 0) (.dir 1) xq).wf = false ∧ (Instr.vmov (.dir 1) (.w 0) xq).wf = false := by
  decide
theorem test_wf_unordered : (Instr.vcmp .i32 .un .none 1 (.dir 0) (.dir 1) xq).wf = false ∧ (Instr.acmp .un false 1 (.dir 0) (.dir 1) 0 xq).wf = false ∧
    (Instr.vfcmp .f32 .un .none 1 (.dir 0) (.dir 1) xq).wf = true := by decide
theorem test_wf_acmp_raw : (Instr.acmp .lt true 1 (.dir 0) (.dir 1) 0 xq).wf = false ∧ (Instr.acmp .ne true 1 (.dir 0) (.dir 1) 0 xq).wf = true := by decide
theorem test_wf_arith_format : (Instr.vfadd .fp8e4 .none (.dir 0) (.dir 1) (.dir 2) xq).wf = false ∧ (Instr.vrsum (.fp .mk8) (.dir 0) (.dir 1) xq).wf = false ∧
    (Instr.vfadd .bf16 .none (.dir 0) (.dir 1) (.dir 2) xq).wf = true := by decide
theorem test_wf_pack : (Instr.vpack (.int .i32) .rne (.dir 0) (.dir 1) (.dir 2) xq).wf = false ∧ (Instr.vpack (.int .i16) .rz (.dir 0) (.dir 1) (.dir 2) xq).wf = false ∧
    (Instr.vpack (.fp .bf16) .rz (.dir 0) (.dir 1) (.dir 2) xq).wf = true ∧ (Instr.vunpk (.fp .f32) (.dir 0) (.dir 1) xq).wf = false := by decide
theorem test_wf_mask_field : (Instr.sms { xq with k := 1 }).wf = false ∧ (Instr.cbld 0 (.dir 1) { xq with k := 1 }).wf = false ∧
    (Instr.mgo { xq with k := 7 }).wf = false ∧ (Instr.mgo xq).wf = true := by decide
theorem test_wf_full_empty : (Instr.ldq 0 (adr 1) .fe).wf = false ∧ (Instr.ldq 0 (adrH 1) .fe).wf = true := by decide
theorem test_wf_strm : (Instr.strm 0 { gb := 3, gx := 3, off := 0, slot := none } .none).wf = false ∧
    (Instr.strm 0 { gb := 0, gx := 0, off := 0, slot := none } .none).wf = true ∧ (Instr.rpub 0 4 4 0 1).wf = false := by decide
theorem test_wf_no_handle : (Instr.prf (adrH 1)).wf = false ∧ (Instr.coll 1 (adrH 0)).wf = false ∧ (Instr.coll 1 (adr 0)).wf = true := by decide
theorem test_wf_fence : (Instr.fence .none .die).wf = false ∧ (Instr.fence .rel .die).wf = true := by decide

/-! ## Small states -/

/-- A sequencer that runs, with some g registers. -/
def sq (g : Table Word) : SeqState := { g := g, run := .running }

/-- Core 0 in partition 0, whose sequencer q of kind k executes in context x. -/
def st (k : Seq) (q : SeqState) (x : Ctx := {}) : State :=
  { parts := [(0, { en := true, clusters := 1 })], cores := [(0, { ctx := setCtxSeq x k q })], cur := (0, k) }

/-- A load of queue 0 in flight. -/
def flight (ps : List Piece) : LAccess := { dest := .queue 0, pieces := ps, fe := .none, fpc := 0, parcels := 0 }

/-- P holds of the next state that exec answers. -/
def gives (i : Instr) (s : State) (P : State → Bool) : Bool := match exec i s with
  | .next t => P t
  | _ => false

/-- g3 after a control instruction with g1 = a and g2 = b. -/
def g3is (i : Instr) (a b v : Word) : Bool := gives i (st .L (sq [(1, a), (2, b), (3, 7)])) fun t => rd t 3 == v

/-- The program counter after a control instruction at address 0x40. -/
def pcIs (i : Instr) (a b : Word) (n : Nat) : Bool :=
  gives i (st .X { sq [(1, a), (2, b)] with pc := 0x40 }) fun t => (curSeq t).pc.toNat == n && !(curSeq t).halted

/-! ## One step of the control instructions (R83 to R107) -/

theorem test_add_wraps : g3is (.add 3 1 2) 0xFFFFFFFFFFFFFFFF 2 1 = true := by decide
theorem test_sub : g3is (.sub 3 1 2) 5 7 0xFFFFFFFFFFFFFFFE = true := by decide
theorem test_mul : g3is (.mul 3 1 2) 0xFFFFFFFFFFFFFFFF 3 0xFFFFFFFFFFFFFFFD = true := by decide
theorem test_mulh_signed : g3is (.mulh 3 1 2) 0xFFFFFFFFFFFFFFFF 3 0xFFFFFFFFFFFFFFFF = true := by decide
-- R85: DIV of -7 by 2 is -3 and REM is -1; DIV of 7 by -2 is -3 and REM is 1.
theorem test_div_toward_zero : g3is (.div 3 1 2) 0xFFFFFFFFFFFFFFF9 2 0xFFFFFFFFFFFFFFFD = true := by decide
theorem test_rem_of_dividend_sign : g3is (.rem 3 1 2) 0xFFFFFFFFFFFFFFF9 2 0xFFFFFFFFFFFFFFFF = true ∧ g3is (.rem 3 1 2) 7 0xFFFFFFFFFFFFFFFE 1 = true := by decide
theorem test_div_by_zero : g3is (.div 3 1 2) 5 0 0xFFFFFFFFFFFFFFFF = true ∧ g3is (.rem 3 1 2) 5 0 5 = true := by decide
theorem test_and : g3is (.andr 3 1 2) 12 10 8 = true := by decide
theorem test_or : g3is (.orr 3 1 2) 12 10 14 = true := by decide
theorem test_xor : g3is (.xorr 3 1 2) 12 10 6 = true := by decide
theorem test_shl_amount : g3is (.shl 3 1 2) 3 65 6 = true := by decide
theorem test_shr : g3is (.shr 3 1 2) 0x8000000000000000 63 1 = true := by decide
theorem test_sra : g3is (.sra 3 1 2) 0x8000000000000000 63 0xFFFFFFFFFFFFFFFF = true := by decide
theorem test_min_signed : g3is (.minr 3 1 2) 0xFFFFFFFFFFFFFFFF 1 0xFFFFFFFFFFFFFFFF = true := by decide
theorem test_max_signed : g3is (.maxr 3 1 2) 0xFFFFFFFFFFFFFFFF 1 1 = true := by decide
theorem test_seq : g3is (.seq 3 1 2) 4 4 1 = true ∧ g3is (.seq 3 1 2) 4 5 0 = true := by decide
theorem test_slt : g3is (.slt 3 1 2) 0xFFFFFFFFFFFFFFFF 1 1 = true := by decide
theorem test_sltu : g3is (.sltu 3 1 2) 0xFFFFFFFFFFFFFFFF 1 0 = true := by decide
theorem test_csel : g3is (.csel 3 1 2) 0 9 7 = true ∧ g3is (.csel 3 1 2) 1 9 9 = true := by decide
theorem test_addx : g3is (.addx 3 1 2 7) 1 2 257 = true := by decide
theorem test_addi_negative : g3is (.addi 3 1 (-5)) 3 0 0xFFFFFFFFFFFFFFFE = true := by decide
theorem test_andi_zero_extends : g3is (.andi 3 1 0x7FFF) 0xFFFFFFFFFFFFFFFF 0 0x7FFF = true := by decide
theorem test_ori : g3is (.ori 3 1 0x91) 0x3F80000 0 0x3F80091 = true := by decide
theorem test_xori : g3is (.xori 3 1 0x7FFF) 0xFFFFFFFFFFFFFFFF 0 0xFFFFFFFFFFFF8000 = true := by decide
theorem test_shli : g3is (.shli 3 1 21) 0x03F80091 0 0x00007F0012200000 = true := by decide
theorem test_shri : g3is (.shri 3 1 63) 0x8000000000000000 0 1 = true := by decide
theorem test_srai : g3is (.srai 3 1 63) 0x8000000000000000 0 0xFFFFFFFFFFFFFFFF = true := by decide
theorem test_slti : g3is (.slti 3 1 (-1)) 0xFFFFFFFFFFFFFFFE 0 1 = true := by decide
theorem test_lui : g3is (.lui 3 0x7F0) 0 0 0x3F80000 = true ∧ g3is (.lui 3 0x80000) 0 0 0xFFFFFFFC00000000 = true := by decide
theorem test_g0_discards : gives (.addi 0 1 5) (st .L (sq [(1, 1)])) (fun t => rd t 0 == 0 && (curSeq t).pc == 4) = true := by decide
theorem test_nop : pcIs .nop 0 0 0x44 = true := by decide
theorem test_waitc : gives (.waitc 9) (st .X (sq [])) (fun t => (curSeq t).clock == 10) = true := by decide
theorem test_beq : pcIs (.beq 1 2 (-3)) 5 5 0x34 = true ∧ pcIs (.beq 1 2 (-3)) 5 6 0x44 = true := by decide
theorem test_bne : pcIs (.bne 1 2 4) 5 6 0x50 = true := by decide
theorem test_blt_signed : pcIs (.blt 1 2 4) 0xFFFFFFFFFFFFFFFF 0 0x50 = true := by decide
theorem test_bge_signed : pcIs (.bge 1 2 4) 0xFFFFFFFFFFFFFFFF 0 0x44 = true := by decide
theorem test_bltu : pcIs (.bltu 1 2 4) 0xFFFFFFFFFFFFFFFF 0 0x44 = true := by decide
theorem test_bgeu : pcIs (.bgeu 1 2 4) 0xFFFFFFFFFFFFFFFF 0 0x50 = true := by decide
theorem test_jmp : pcIs (.jmp (-16)) 0 0 0 = true := by decide
theorem test_jal : gives (.jal 4) (st .X { sq [] with pc := 0x40 }) (fun t => (curSeq t).pc == 0x50 && rd t 31 == 0x44) = true := by decide
theorem test_jr : pcIs (.jr 1) 0xFFFC 0 0xFFFC = true ∧ pcIs (.jr 1) 0x10000 0 0 = false := by decide
-- R95: the body of a LOOPI at 0x40 with body 2 ends at 0x48; R96: its end goes back to 0x44 while the count is at least 2.
theorem test_loopi : gives (.loopi 1 3 2) (st .X { sq [] with pc := 0x40 }) (fun t => let r := tget {} (curSeq t).lc 1
    r.count == 3 && r.active && r.start == 0x44 && r.stop == 0x48) = true := by decide
theorem test_loop_skips : pcIs (.loop 1 1 2) 0xFFFFFFFFFFFFFFFF 0 0x4C = true := by decide
theorem test_end_of_body : gives .nop (st .X { sq [] with pc := 0x48, lc := [(1, { count := 3, active := true, start := 0x44, stop := 0x48, age := 1 })] })
    (fun t => (curSeq t).pc == 0x44 && (tget {} (curSeq t).lc 1).count == 2) = true := by decide
theorem test_lbrk : gives (.lbrk 1) (st .X { sq [] with pc := 0x44, lc := [(1, { count := 3, active := true, start := 0x44, stop := 0x48, age := 1 })] })
    (fun t => (curSeq t).pc == 0x4C && !(tget {} (curSeq t).lc 1).active) = true := by decide
theorem test_mfs_coreid : gives (.mfs 3 0) (st .S (sq [])) (fun t => rd t 3 == 2) = true := by decide
theorem test_mts_view : gives (.mts 1 0x10) (st .X (sq [(1, 0x0001004000040000)])) (fun t => (curCtx t).vview == 0x0001004000040000) = true := by decide
theorem test_bank_wake : gives (.bankWake 0) (st .X (sq []) { waking := 1 }) (fun t => (curCtx t).bankOn == 1 && (curCtx t).seqX.clock == 168) = true := by decide
theorem test_trap : gives (.trap 9) (st .L { sq [] with pc := 0x40, tvec := 0x100 })
    (fun t => let u := curSeq t; u.pc == 0x100 && u.tlevel == 1 && u.bank0.epc == 0x40 && u.bank0.ecause == 1 && u.bank0.eaddr == 9) = true := by decide
theorem test_brk : gives (.brk 9) (st .L { sq [] with pc := 0x40, tvec := 0x100 }) (fun t => (curSeq t).bank0.ecause == 2) = true := by decide
theorem test_rte : gives .rte (st .L { sq [] with pc := 0x100, tlevel := 1, bank0 := { epc := 0x40 } }) (fun t => (curSeq t).pc == 0x44 && (curSeq t).tlevel == 0) = true := by
  decide
theorem test_rte_level0 : gives .rte (st .L (sq [])) (fun t => (curSeq t).halted && (getPart t 0).halt.cause == 0x10) = true := by decide
theorem test_idle : gives .idle (st .S (sq [])) (fun t => decide ((curSeq t).run = .ended)) = true := by decide
theorem test_tlbi_privilege : gives (.tlbi 1 2) (st .L (sq [])) (fun t => (getPart t 0).halt.cause == 0x13) = true := by decide
theorem test_tlbs_beyond : gives (.tlbs 3 1) (st .L (sq [(1, 0x100000000000000)])) (fun t => rd t 3 == 2) = true := by decide
theorem test_cswap_waits : gives (.cswap 1) (st .L (sq [(1, 50)])) (fun t => decide ((curSeq t).wait = .other)) = true := by decide
theorem test_divide_complete : gives (.scalarDivideComplete 0 .L) (st .L { sq [] with divBusy := true }) (fun t => !(curSeq t).divBusy) = true := by decide

/-! ## One step of X instructions (R137 to R172), read after every result has landed -/

/-- VVIEW of 960 operands of 16 granules from granule 0, banks 0 and 7. -/
def view0 : Word := 0x008103C000100000

/-- X with operands v1, v2 and v4 whose lanes 0 to 3 hold a, b and c, g1 = u, g2 = n and k1 = 0x5. -/
def stx (a b c : Nat) (u n : Word := 0) : State :=
  st .X (sq [(1, u), (2, n)])
    { vview := view0, bankOn := 0x81, gated := 0x7E, k := [(1, 5)],
      store := [(16, BitVec.ofNat 128 a), (32, BitVec.ofNat 128 b), (64, BitVec.ofNat 128 c)] }

/-- After i on stx a b c, lanes 0 to 3 of v3 hold v and lane 0's flags are f. -/
def v3is (i : Instr) (a b c v : Nat) (f : Flags) (u n : Word := 0) : Bool := gives i (stx a b c u n) fun t =>
  let y := landAll (curCtx t)
  (storeGranule y 48).toNat == v && laneFlags y.flags 0 == f

theorem test_vadd : v3is (.vadd .i32 false .none (.dir 3) (.dir 1) (.dir 2) xq) 0xFFFFFFFF 2 0 1 0 = true := by decide +kernel
theorem test_vadd_sat : v3is (.vadd .i8 true .none (.dir 3) (.dir 1) (.dir 2) xq) 0x807F 0xFF01 0 0x807F 0x20 = true := by decide +kernel
theorem test_vsub : v3is (.vsub .i16 false .none (.dir 3) (.dir 1) (.dir 2) xq) 0x00000001 0x00010002 0 0xFFFFFFFF 0 = true := by decide +kernel
theorem test_vmul_selector : v3is (.vmul .i16 false (.b 1) (.dir 3) (.dir 1) (.dir 2) xq) 0x00030002 0x00050007 0 0x000F000A 0 = true := by decide +kernel
-- R141: VMULH.i16 of -3 and 5 gives 0xFFFF; VABS.i8 of -128; VNEG.n8 of 5.
theorem test_vmulh : v3is (.vmulh .i16 .none (.dir 3) (.dir 1) (.dir 2) xq) 0xFFFD 5 0 0xFFFF 0 = true := by decide +kernel
theorem test_vmad : v3is (.vmad .i32 false (.dir 3) (.dir 1) (.dir 2) (.dir 4) xq) 3 4 5 17 0 = true := by decide +kernel
theorem test_vabs : v3is (.vabs .i8 false .none (.dir 3) (.dir 1) xq) 0x80 0 0 0x80 0 = true ∧ v3is (.vabs .i8 true .none (.dir 3) (.dir 1) xq) 0x80 0 0 0x7F 0x20 = true := by
  decide +kernel
theorem test_vneg : v3is (.vneg .n8 false .none (.dir 3) (.dir 1) xq) 5 0 0 251 0 = true ∧ v3is (.vneg .n8 true .none (.dir 3) (.dir 1) xq) 5 0 0 0 0x20 = true := by
  decide +kernel
theorem test_vmin : v3is (.vmin .i8 .none (.dir 3) (.dir 1) (.dir 2) xq) 0xFF 1 0 0xFF 0 = true := by decide +kernel
theorem test_vmax : v3is (.vmax .n8 .none (.dir 3) (.dir 1) (.dir 2) xq) 0xFF 1 0 0xFF 0 = true := by decide +kernel
theorem test_vand : v3is (.vand (.dir 3) (.dir 1) (.dir 2) xq) 12 10 0 8 0 = true := by decide +kernel
theorem test_vor : v3is (.vor (.dir 3) (.dir 1) (.dir 2) xq) 12 10 0 14 0 = true := by decide +kernel
theorem test_vxor : v3is (.vxor (.dir 3) (.dir 1) (.dir 2) xq) 12 10 0 6 0 = true := by decide +kernel
theorem test_vandn : v3is (.vandn (.dir 3) (.dir 1) (.dir 2) xq) 12 10 0 4 0 = true := by decide +kernel
theorem test_vshl_full : v3is (.vshl .i16 .none (.dir 3) (.dir 1) (.dir 2) xq) 0x00010001 0x0010000F 0 0x8000 0 = true := by decide +kernel
theorem test_vshr : v3is (.vshr .i16 .none (.dir 3) (.dir 1) (.dir 2) xq) 0x8000 15 0 1 0 = true := by decide +kernel
theorem test_vsra_full : v3is (.vsra .n16 .none (.dir 3) (.dir 1) (.dir 2) xq) 0x8000 99 0 0xFFFF 0 = true := by decide +kernel
theorem test_vsat : v3is (.vsat .i8 (.dir 3) (.dir 1) xq) 300 0 0 127 0x20 = true ∧ v3is (.vsat .n8 (.dir 3) (.dir 1) xq) 5 0 0 5 0 = true := by decide +kernel
-- R148's short run.
theorem test_tunp : v3is (.tunp .none (.dir 3) (.dir 1) xq) 0x64 0 0 0x00010F01 0 = true ∧ v3is (.tunp .none (.dir 3) (.dir 1) xq) 0xF5 0 0 0 0x40 = true := by decide +kernel
theorem test_vtacc : v3is (.vtacc false .none (.dir 3) (.dir 1) (.dir 2) xq) 0x00010F01 7 0 7 0 = true ∧
    v3is (.vtacc false (.a 2) (.dir 3) (.dir 1) (.dir 2) xq) 0x00010F01 7 0 0xFFFFFFF9 0 = true := by decide +kernel
theorem test_vcmp : gives (.vcmp .i8 .lt .none 2 (.dir 1) (.dir 2) xq) (stx 0x0101_0101_FFFFFFFF 0x0201_0202_00000000 0)
    (fun t => (tget 0 (landAll (curCtx t)).k 2).toNat == 1) = true := by decide +kernel
theorem test_vsel : v3is (.vsel (.dir 3) (.dir 1) (.dir 2) { xq with k := 1 }) 0x4_00000003_00000002_00000001 0x8_00000007_00000006_00000005 0
    0x8_00000003_00000006_00000001 0 = true := by decide +kernel
theorem test_vfadd : v3is (.vfadd .f32 .none (.dir 3) (.dir 1) (.dir 2) xq) 0x3F800000 0x40000000 0 0x40400000 0 = true ∧
    v3is (.vfadd .f32 .none (.dir 3) (.dir 1) (.dir 2) xq) 0x7F800000 0xFF800000 0 0x7FC00000 1 = true := by decide +kernel
theorem test_vfsub : v3is (.vfsub .f16 .none (.dir 3) (.dir 1) (.dir 2) xq) 0x3C00 0x3C00 0 0 0 = true := by decide +kernel
theorem test_vfmul : v3is (.vfmul .bf16 .none (.dir 3) (.dir 1) (.dir 2) xq) 0x4040 0xC000 0 0xC0C0 0 = true := by decide +kernel
theorem test_vfma : v3is (.vfma .f32 (.dir 3) (.dir 1) (.dir 2) (.dir 4) xq) 0x40400000 0x40000000 0x3F800000 0x40E00000 0 = true := by decide +kernel
theorem test_vfnma : v3is (.vfnma .f32 (.dir 3) (.dir 1) (.dir 2) (.dir 4) xq) 0x40400000 0x40000000 0x40E00000 0x3F800000 0 = true := by decide +kernel
theorem test_vfmin_zero : v3is (.vfmin .f32 .none (.dir 3) (.dir 1) (.dir 2) xq) 0 0x80000000 0 0x80000000 0 = true := by decide +kernel
theorem test_vfmax_nan : v3is (.vfmax .f32 .none (.dir 3) (.dir 1) (.dir 2) xq) 0x7FC00000 1 0 1 0 = true := by decide +kernel
theorem test_vfcmp_unordered : gives (.vfcmp .f32 .un .none 2 (.dir 1) (.dir 2) xq) (stx 0x7FC00000 0 0)
    (fun t => (tget 0 (landAll (curCtx t)).k 2).toNat == 1) = true := by decide +kernel
theorem test_vfcls : v3is (.vfcls .f32 .none (.dir 3) (.dir 1) xq) 0x7FC00000_FF800000_00000001_80000000 0 0 0x8_00000007_00000002_00000001 0 = true := by
  decide +kernel
theorem test_vfdiv : v3is (.vfdiv .f32 .none (.dir 3) (.dir 1) (.dir 2) xq) 0xC0C00000 0x3F800000_3F800000_3F800000_40000000 0 0xC0400000 0 = true := by decide +kernel
theorem test_vrcp : v3is (.vrcp .f32 .none (.dir 3) (.dir 1) xq) 0x7F800000_7F800000_7F800000_80000000 0 0 0xFF800000 2 = true := by decide +kernel
theorem test_vrsq : v3is (.vrsq .f32 .none (.dir 3) (.dir 1) xq) 0x7F800000_7F800000_7F800000_40800000 0 0 0x3F000000 0 = true := by decide +kernel
theorem test_vexp2 : v3is (.vexp2 .f32 .none (.dir 3) (.dir 1) xq) 0xFF800000_FF800000_FF800000_40400000 0 0 0x41000000 0 = true := by decide +kernel
theorem test_vlog2 : v3is (.vlog2 .f32 .none (.dir 3) (.dir 1) xq) 0x3F800000_3F800000_3F800000_41000000 0 0 0x40400000 0 = true := by decide +kernel
-- R155's table: 464.0 and 500.0 to E4M3.
theorem test_vcvt_e4m3 : v3is (.vcvtFloatToFloat .fp8e4 .f32 .rne false .none (.dir 3) (.dir 1) xq) 0x43E80000 0 0 0x7E 0x10 = true ∧
    v3is (.vcvtFloatToFloat .fp8e4 .f32 .rne true .none (.dir 3) (.dir 1) xq) 0x43FA0000 0 0 0x7E 0x34 = true := by decide +kernel
theorem test_vcvt_float_integer : v3is (.vcvtFloatToInteger .i8 .f32 .rne .none (.dir 3) (.dir 1) xq) 0x40200000 0 0 2 0x10 = true := by decide +kernel
theorem test_vcvt_integer_float : v3is (.vcvtIntegerToFloat .f32 .i8 .rne false (.a 1) (.dir 3) (.dir 1) xq) 0xFE00 0 0 0xC0000000 0 = true := by decide +kernel
theorem test_vcvt_integer_integer : v3is (.vcvtIntegerToInteger .i8 .i32 true .none (.dir 3) (.dir 1) xq) 0xFFFFFF00 0 0 0x80 0x20 = true := by decide +kernel
theorem test_vpack : v3is (.vpack (.int .n16) .rne (.dir 3) (.dir 1) (.dir 2) xq) 0x00000004_00000003_00000002_00050001 0 0 0x00040003_00020001 0 = true := by decide +kernel
theorem test_vunpk : v3is (.vunpk (.int .i8) (.dir 3) (.dir 1) xq) 0xFF01 0 0 0xFFFF0001 0 = true := by decide +kernel
-- R160: index 10 is 6.
theorem test_cbx : gives (.cbx .three 2 (.dir 3) (.dir 1) xq)
    (st .X (sq []) { vview := view0, bankOn := 0x81, gated := 0x7E, store := [(16, 0x1_80000000), (65524, 0x5555_0000_0000_0000_0000_0000_0000)] })
    (fun t => (storeGranule (landAll (curCtx t)) 49).toNat / 2 ^ 32 % 2 ^ 32 == 0x5555) = true := by decide +kernel
theorem test_cbld : gives (.cbld 2 (.dir 1) xq) (stx 0x77 0 0) (fun t => storeGranule (landAll (curCtx t)) 65524 == 0x77) = true := by decide +kernel
theorem test_vmov : v3is (.vmov (.dir 3) (.dir 1) { xq with k := 1 }) 0x4_00000003_00000002_00000001 0 0 0x3_00000000_00000001 0 = true := by decide +kernel
theorem test_vbcst : v3is (.vbcst (.dir 3) 1 xq) 0 0 0 0x23456789_23456789_23456789_23456789 0 0x123456789 = true := by decide +kernel
theorem test_vidx : v3is (.vidx (.dir 3) xq) 0 0 0 0x3_00000002_00000001_00000000 0 = true := by decide +kernel
theorem test_vperm : v3is (.vperm (.dir 3) (.dir 1) (.dir 2) xq) 0x4_00000003_00000002_00000001 0x40_00000001_00000002_00000003 0 0x00000002_00000003_00000004 0 = true := by
  decide +kernel
theorem test_vrot : v3is (.vrot (.dir 3) (.dir 1) 1 xq) 0x4_00000003_00000002_00000001 0 0 0x00000004_00000003 0 66 = true := by decide +kernel
theorem test_vgth : v3is (.vgth (.dir 3) (.dir 1) (.dir 2) xq) 9 0 7 7 0 = false ∧ v3is (.vgth (.dir 3) (.dir 1) (.dir 2) xq) 9 3 7 7 0 = true := by decide +kernel
theorem test_vsct : v3is (.vsct (.dir 1) (.dir 4) (.dir 2) xq) 0 0x9_00000009_00000009_00000002 6 6 0 = true := by decide +kernel
theorem test_vxtr : gives (.vxtr .i8 3 (.dir 1) 2 xq) (stx 0xFE00 0 0 0 1) (fun t => rd t 3 == 0xFFFFFFFFFFFFFFFE) = true := by decide +kernel
theorem test_vins : v3is (.vins .i8 (.dir 3) 1 2 xq) 0 0 0 0xAB0000 0 0x1AB 2 = true := by decide +kernel
theorem test_vrsum : v3is (.vrsum (.int .i8) (.dir 3) (.dir 1) xq) 0x7F7F 0 0 0xFE_000000FE_000000FE_000000FE 0 = true := by decide +kernel
theorem test_vrmax : v3is (.vrmax (.int .i8) (.dir 3) (.dir 1) xq) 0x7F 0 0 0x7F_0000007F_0000007F_0000007F 0 = true := by decide +kernel
theorem test_vrmin : v3is (.vrmin (.int .n8) (.dir 3) (.dir 1) { xq with k := 1 }) 0x09090909_00000000_05060708 0 0 0x5_00000005_00000005_00000005 0 = true := by decide +kernel
theorem test_vmcnt : gives (.vmcnt 3 1 xq) (stx 0 0 0) (fun t => rd t 3 == 2) = true := by decide +kernel
-- R170: N = 8 and COUNT = 6 scale 3.0 to 4.0 and 1.0 to 0x3FAA_AAAB with NX; COUNT 0 gives +0 and MZ.
theorem test_vmscl : v3is (.vmscl .f32 .none (.dir 3) (.dir 1) (.dir 2) { xq with k := 1 }) 0x40400000 0x00080006 0 0x40800000 0 = true ∧
    v3is (.vmscl .f32 .none (.dir 3) (.dir 1) (.dir 2) { xq with k := 1 }) 0x3F800000 0x00080006 0 0x3FAAAAAB 0x10 = true ∧
    v3is (.vmscl .f32 .none (.dir 3) (.dir 1) (.dir 2) { xq with k := 1 }) 0x3F800000 0x00080000 0 0 0x80 = true := by decide +kernel
theorem test_kop : gives (.kop .andn 2 0 1 xq) (stx 0 0 0) (fun t => tget 0 (landAll (curCtx t)).k 2 == 0xFFFFFFFFFFFFFFFA) = true := by decide +kernel
theorem test_kset : gives (.kset 2 1 xq) (stx 0 0 0 0xF0) (fun t => tget 0 (landAll (curCtx t)).k 2 == 0xF0) = true ∧
    gives (.kset 0 1 xq) (stx 0 0 0 0xF0) (fun t => tget 0 (landAll (curCtx t)).k 0 == 0) = true := by decide +kernel
theorem test_x_result_lands : gives (.xResultLand 0) (st .X (sq []) { xres := [{ due := 5, writes := [(7, 0xFF, 0x12)], k := none, orFlags := 0, setFlags := none, push := none }] })
    (fun t => storeGranule (curCtx t) 7 == 0x12 && (curSeq t).clock == 5 && (curCtx t).xres.isEmpty) = true := by decide +kernel

/-! ## A state with memory: virtual 0 to 2^30 - 1 is one page at physical 2^30, readable, writable and executable -/

/-- Page tables at 0x10000, 0x20000 and 0x30000. -/
def tables : List Host.Cell := [(0x10000, 1), (0x10002, 2), (0x20000, 1), (0x20002, 3), (0x30000, 0x1F), (0x30003, 0x40)]

/-- Partition 0 with these tables, a key in slot 0 and cluster 0. -/
def part0 : Partition := { en := true, clusters := 1, proot := 0x10000, keys := [(0, 1)], ktlbi := true }

/-- Partition 0 without a token for HBM4 of die 0. -/
def poor : Partition := { part0 with buckets := [(0, { rateNow := 1 })] }

/-- A cell of a kernel with serial 1 on core 0 alone. -/
def cell0 : CellInfo :=
  { part := 0, serial := 1, ordinal := 0, gangBase := 0, gangSize := 1, sms := false, gbars := 0, gbarOpen := false, gbarGo := false, lsReleased := true }

/-- The leaf of those tables as core 0 keeps it. -/
def tlb0 : TlbEntry := { owner := .core 0, asid := 0, page := 0, size := 30, leaf := 0x4000001F }

/-- Core 0 as above with its memory, with these bytes stored beside the tables. -/
def stm (k : Seq) (q : SeqState) (x : Ctx := {}) (bytes : List Host.Cell := []) : State :=
  { st k q { x with cell := some cell0 } with parts := [(0, part0)], mem := tables ++ bytes }

/-- An answer of a checked operation: a value, or a fault cause. -/
def okay {ε α : Type} : Except ε α → Bool
  | .ok _ => true
  | .error _ => false

def stops {α : Type} : Except (Stop × Nat) α → Bool
  | .error (.cause _, _) => true
  | _ => false

theorem exists_of_okay {ε α : Type} {r : Except ε α} (h : okay r = true) : ∃ a, r = .ok a := by
  cases r with
  | ok a => exact ⟨a, rfl⟩
  | error e => exact nomatch h

theorem exists_of_not_okay {ε α : Type} {r : Except ε α} (h : okay r = false) : ∃ e, r = .error e := by
  cases r with
  | ok a => exact nomatch h
  | error e => exact ⟨e, rfl⟩

theorem exists_of_stops {α : Type} {r : Except (Stop × Nat) α} (h : stops r = true) : ∃ c q, r = .error (.cause c, q) := by
  match r, h with
  | .error (.cause c, q), _ => exact ⟨c, q, rfl⟩

/-- A checked operation answers a value of which P holds. -/
def okWith {ε α : Type} (r : Except ε α) (P : α → Bool) : Bool := match r with
  | .ok a => P a
  | .error _ => false

/-- An access that must wait for its page. -/
def pages {α : Type} : Except (Stop × Nat) α → Bool
  | .error (.page, _) => true
  | _ => false

theorem exists_of_pages {α : Type} {r : Except (Stop × Nat) α} (h : pages r = true) : ∃ q, r = .error (.page, q) := by
  cases r with
  | ok a => exact nomatch h
  | error e => obtain ⟨k, q⟩ := e; cases k <;> first | exact ⟨q, rfl⟩ | exact nomatch h

/-- An access that must wait for tokens. -/
def lacks {α : Type} : Except (Stop × Nat) α → Bool
  | .error (.busy _, _) => true
  | _ => false

theorem exists_of_lacks {α : Type} {r : Except (Stop × Nat) α} (h : lacks r = true) : ∃ dm q, r = .error (.busy dm, q) := by
  cases r with
  | ok a => exact nomatch h
  | error e => obtain ⟨k, q⟩ := e; cases k <;> first | exact ⟨_, q, rfl⟩ | exact nomatch h

theorem exists_of_okWith {ε α : Type} {r : Except ε α} {P : α → Bool} (h : okWith r P = true) : ∃ a, r = .ok a ∧ P a = true := by
  cases r with
  | ok a => exact ⟨a, rfl, h⟩
  | error e => exact nomatch h

/-- An engine's access ends with a value of which P holds, or stops. -/
def tries {α : Type} (r : Try α) (P : α → Bool) : Bool := match r with
  | .ok a => P a
  | _ => false

def trapped {α : Type} : Try α → Bool
  | .stop .. => true
  | _ => false

theorem exists_of_tries {α : Type} {r : Try α} {P : α → Bool} (h : tries r P = true) : ∃ a, r = .ok a ∧ P a = true := by
  cases r with
  | ok a => exact ⟨a, rfl, h⟩
  | wait _ => exact absurd h (by simp [tries])
  | stop _ _ _ => exact absurd h (by simp [tries])

theorem exists_of_trapped {α : Type} {r : Try α} (h : trapped r = true) : ∃ u c g, r = .stop u c g := by
  cases r with
  | stop u c g => exact ⟨u, c, g, rfl⟩
  | ok _ => exact absurd h (by simp [trapped])
  | wait _ => exact absurd h (by simp [trapped])

def trappedBy {α : Type} (r : Try α) (P : BitVec 8 → Bool) : Bool := match r with
  | .stop _ c _ => P c
  | _ => false

theorem exists_of_trappedBy {α : Type} {r : Try α} {P : BitVec 8 → Prop} [DecidablePred P] (h : trappedBy r (fun c => decide (P c)) = true) :
    ∃ u c g, r = .stop u c g ∧ P c := by
  cases r with
  | stop u c g => exact ⟨u, c, g, rfl, of_decide_eq_true h⟩
  | ok _ => exact absurd h (by simp [trappedBy])
  | wait _ => exact absurd h (by simp [trappedBy])

def waits {α : Type} : Try α → Bool
  | .wait _ => true
  | _ => false

theorem exists_of_waits {α : Type} {r : Try α} (h : waits r = true) : ∃ u, r = .wait u := by
  cases r with
  | wait u => exact ⟨u, rfl⟩
  | ok _ => exact absurd h (by simp [waits])
  | stop _ _ => exact absurd h (by simp [waits])

/-! ## Witnesses: states and operands that meet the hypotheses of the statements, clause by clause

A statement whose clauses have no hypotheses has none. -/

theorem witness_DivideAndRemainder :
    (curSeq (st .L (sq [(1, 7)]))).divBusy = false ∧ rd (st .L (sq [(1, 7)])) 2 = 0 ∧
    rd (st .L (sq [(1, 0x8000000000000000), (2, 0xFFFFFFFFFFFFFFFF)])) 1 = 0x8000000000000000#64 ∧
    rd (st .L (sq [(1, 0x8000000000000000), (2, 0xFFFFFFFFFFFFFFFF)])) 2 = 0xFFFFFFFFFFFFFFFF#64 ∧
    rd (st .L (sq [(1, 0x8000000000000000), (2, 1)])) 2 ≠ 0 ∧ rd (st .L (sq [(1, 0x8000000000000000), (2, 1)])) 2 ≠ 0xFFFFFFFFFFFFFFFF#64 ∧
    (curSeq (st .L { sq [] with divBusy := true })).divBusy = true := by decide

-- Targets at both ends of R56's range, and just outside them.
theorem witness_BranchesAndJumps :
    TargetOk (st .X (sq [])) 0 ∧ TargetOk (st .X (sq [])) 0xFFFC ∧ ¬ TargetOk (st .X (sq [])) 0x10000 ∧ ¬ TargetOk (st .X (sq [])) (-4) ∧
    ¬ TargetOk (st .X (sq [])) 2 ∧ TargetOk (st .L (sq [])) 0x3FFC ∧ ¬ TargetOk (st .L (sq [])) 0x4000 := by unfold TargetOk; decide

/-- A store whose parcel 2 begins a two-parcel instruction. -/
def wideAt2 : SeqState := { sq [] with istore := [(0, 0x620007FF), (1, 0x02000000), (2, 0xE8000000), (3, 0)] }

-- A body that ends inside a pair; the last body that fits; one that does not; a record that ends at 8, among none and among two.
theorem witness_LoopStartAndEnd :
    BodySplits wideAt2 0 2 ∧ (∀ k, k < 8 → Nat.repeat (nextStart wideAt2) k 1 ≠ 3) ∧
    (let s := st .L { sq [] with pc := 0x3FF8 }
     (curSeq s).pc.toNat / 4 + 1 = 4095 ∧ storeParcels s.cur.2 = 4096 ∧ ¬ TargetOk s (4 * 4095 + 4) ∧ TargetOk s (4 * 4094 + 4)) ∧
    (let q : SeqState := { lc := [(0, { count := 2, active := true, stop := 8, age := 1 }), (3, { count := 1, active := true, stop := 8, age := 2 })] }
     (tget {} q.lc 3).active = true ∧ (tget {} q.lc 3).level = q.tlevel ∧ (tget {} q.lc 3).stop.toNat = 8 + 4 * 1 - 4 ∧ (tget {} q.lc 3).count.toNat < 2 ∧
     (∀ m, m < 4 → m ≠ 3 → (tget {} q.lc m).active = true → (tget {} q.lc m).age < (tget {} q.lc 3).age) ∧
     (tget {} (tput q.lc 3 {}) 0).count.toNat = 2 ∧ ∀ m, m < 4 → m ≠ 0 → (tget {} (tput q.lc 3 {}) m).active = false) := by
  refine ⟨⟨1, by decide, by decide⟩, by decide, by unfold TargetOk; decide, by decide⟩

-- Two active records beside the one that LOOP n fills, one older than the other.
theorem witness_LoopStartAndEnd_ages :
    let q : SeqState := { sq [] with lc := [(0, { active := true, age := 0 }), (3, { active := true, age := 3 })] }
    TargetOk (st .L q) 8 ∧ (tget {} q.lc 0).active = true ∧ (tget {} q.lc 3).active = true ∧ (tget {} q.lc 0).age < (tget {} q.lc 3).age ∧ (0 : Nat) ≠ 1 ∧ (3 : Nat) ≠ 1 := by
  unfold TargetOk; decide

theorem witness_LoopBreak :
    let q : SeqState := { sq [] with lc := [(1, { active := true, age := 1 }), (2, { active := true, age := 2 })] }
    ((tget {} (curSeq (st .X q)).lc 1).active = true ∧ (tget {} (curSeq (st .X q)).lc 1).level = (curSeq (st .X q)).tlevel) ∧
    ¬ ((tget {} (curSeq (st .X q)).lc 0).active = true) := by decide

theorem witness_SystemRegisterReads :
    (st .X (sq [])).cur.2 = .X ∧ (sysContext (st .X (sq []))).xres = [] ∧ tfind (sysContext (st .X (sq []))).slots 0 = none ∧
    tfind (sysContext (st .X (sq []) { slots := [(15, ⟨65535, 65536, none⟩)] })).slots 15 = some ⟨65535, 65536, none⟩ ∧ 65535 < 2 ^ 16 ∧ 65536 < 2 ^ 17 ∧
    0x016 ∉ [0, 1, 2, 3, 8, 9, 10, 11, 0x10, 0x11, 0x12, 0x30, 0x100, 0x101, 0x110, 0x111, 0x112, 0x113, 0x118, 0x119, 0x11A, 0x11B] ∧
    ¬ ((st .L (sq [])).cur.2 = .X ∧ 0x13 ≤ 0x13 ∧ 0x13 ≤ 0x15) := by decide

theorem witness_SystemRegisterWrites :
    (getCtx (st .X (sq []) { waking := 0x81, gated := 0x80 }) 0).waking ≠ 0 ∧ 0 < 8 ∧ 7 < 8 ∧
    ¬ ((st .S (sq [])).cur.2 = .X ∧ 0x10 ≤ 0x10 ∧ 0x10 ≤ 0x14) ∧ 0x015 ∉ [8, 9, 10, 11, 0x110, 0x111, 0x112, 0x113, 0x118, 0x119, 0x11A, 0x11B] ∧
    -- no bank waits; banks 0 and 7 by their ends; a register whose write is not read yet
    (getCtx (st .X (sq [])) 0).waking = 0 ∧ 0 / 8192 = 0 ∧ 8191 / 8192 = 0 ∧ 57344 / 8192 = 7 ∧ 65535 / 8192 = 7 ∧
    tfind (getCtx (st .X { sq [] with sysReady := [(5, 2)] } { waking := 1 }) 0).seqX.sysReady 5 = some 2 := by decide

theorem witness_TrapsAndReturns :
    (curSeq (st .L (sq []))).tlevel.toNat < 2 ∧ (curSeq (st .L { sq [] with tlevel := 1 })).tlevel.toNat < 2 ∧
    debugAttached (st .L (sq [])) (curPart (st .L (sq []))) = false ∧
    (let s : State := { st .L (sq []) with mgmt := { dbg := { part := 0, attach := true } }, parts := [(0, { en := true, clusters := 1, dbgok := true })] }
     debugAttached s (curPart s) = true ∧ (getPart s (curPart s)).reset = .idle) ∧
    (let s := st .L { sq [] with tlevel := 2 }
     (curSeq s).tlevel = 2 ∧ partOfCore s s.cur.1 = some 0 ∧ (getPart s 0).stopbase = 0 ∧ (getPart s 0).reset = .idle ∧ (getPart s 0).halt.raised = false) ∧
    (curSeq (st .L (sq []))).tlevel = 0 ∧ (curSeq (st .L { sq [] with tlevel := 1 })).tlevel ≠ 0 := by decide

/-- A third-level trap with STOPBASE. -/
def stThird (base : BitVec 56) : State := { stm .L { sq [] with tlevel := 2 } with parts := [(0, { part0 with stopbase := base })] }

-- Its crash record is written, cannot be, and waits for its page; BRK with no debugger.
theorem witness_TrapsAndReturns_records :
    let written (base : BitVec 56) : Try State :=
      engineWrite (stThird base) 0 0 (base.toNat + 0xA0000) (crashRecord (stThird base) 0 .L 1 5) (curTlb (stThird base))
    (∃ u, written 0x1000 = .ok u) ∧ (∃ u k a, written 0xFF000000000000 = .stop u k a) ∧ (∃ u, written 0x40000000 = .wait u) ∧
    (let s := stThird 0x1000
     (curSeq s).tlevel = 2 ∧ partOfCore s s.cur.1 = some 0 ∧ (getPart s 0).stopbase ≠ 0 ∧ (getPart s 0).reset = .idle ∧ (getPart s 0).halt.raised = false ∧
     debugAttached s 0 = false) ∧ 575 < 65536 := by
  refine ⟨?_, exists_of_trapped (by decide +kernel), exists_of_waits (by decide +kernel), by decide⟩
  obtain ⟨u, h, -⟩ := exists_of_tries (r := engineWrite (stThird 0x1000) 0 0 0xA1000 (crashRecord (stThird 0x1000) 0 .L 1 5) (curTlb (stThird 0x1000))) (P := fun _ => true) (by decide +kernel)
  exact ⟨u, h⟩

theorem witness_TranslationInstructions :
    (getPart (st .L (sq [])) (curPart (st .L (sq [])))).ktlbi = false ∧
    (let s := stm .L (sq []) { lacc := [flight []] }
     (getPart s (curPart s)).ktlbi = true ∧ ownAccessesSeen s = false) ∧
    (let s := stm .L (sq [])
     (getPart s (curPart s)).ktlbi = true ∧ ownAccessesSeen s = true ∧ ∀ va es, accessUses s (curPart s) va es = false) ∧
    -- an entry that went while an access still used it
    ({ stm .L (sq []) with tlbGone := [tlb0] }).tlbGone = [tlb0] ∧
    -- TLBS: beyond 2^56, both ends of the aperture, absent, malformed, an uncorrectable entry, a leaf
    (2 ^ 56 ≤ (0x100000000000000#64).toNat ∧ 0xFF_0000_0000_0000 ≤ (0xFF000000000000#64).toNat ∧ (0xFF0003FFFFFFFF#64).toNat < 0xFF_0004_0000_0000) ∧
    lookup (stm .L (sq [])) 0 0 0x40000000 none = .absent ∧ lookup (stm .L (sq []) {} [(0x30008, 0x11), (0x30009, 0xC0)]) 0 0 0x40000000 none = .bad ∧
    lookup { stm .L (sq []) with lostWords := [0xC00] } 0 0 0 none = .error 0x24 ∧ lookup (stm .L (sq [])) 0 0 0x3FFFFFFF none = .leaf 0x4000001F 30 := by
  refine ⟨by decide, by decide, ⟨by decide, by decide, fun va es => ?_⟩, rfl, by decide, by decide +kernel, by decide +kernel, by decide +kernel, by decide +kernel⟩
  rfl

-- Alone with a free slot; without one; in a gang of two.
theorem witness_ContextSwap :
    (let s := stm .L (sq [(1, 5)])
     aloneInGang s = true ∧ canPark s s.cur.1 = false ∧ s.cycle < (rd s 1).toNat ∧ (rd s 2).toNat ≤ s.cycle) ∧
    (let s := { stm .L (sq [(1, 5)]) with parts := [(0, { part0 with cxpool := 0x100000, cxper := 4 })] }
     aloneInGang s = true ∧ canPark s s.cur.1 = true ∧ s.cycle < (rd s 1).toNat ∧ (rd s 2).toNat ≤ s.cycle) ∧
    aloneInGang (st .L (sq []) { cell := some { cell0 with gangSize := 2 } }) = false := by decide

/-- NOP at the end of L's store, and a SMS at the end of X's. -/
def nopLast : SeqState := { sq [] with pc := 0x3FFC, istore := [(4095, 0x02000000)] }
def smsLast : SeqState := { sq [] with pc := 0xFFF8, istore := [(16382, 0xE8000000)] }

theorem witness_StepRunsTheDecodedInstruction :
    (let s := landDue (stm .L nopLast)
     (getSeq s 0 .L).pageFail = false ∧ canIssue s 0 .L = true ∧ (getSeq s 0 .L).pc.toNat % 4 = 0 ∧ (getSeq s 0 .L).pc.toNat / 4 < storeParcels .L ∧
     isWide (Machine.parcelAt (getSeq s 0 .L) 4095) = false ∧ interlocked s 0 .L .nop = false ∧ s.agenda = [] ∧ s.cur = (0, .L) ∧
     (getSeq s 0 .L).wait = .none ∧ s.mgmt.dbg.stepping = false) ∧
    decode .L 0x02000000 0 = .ok .nop ∧
    (let s := landDue { stm .X smsLast with agenda := [.seq 0 .X] }
     canIssue s 0 .X = true ∧ isWide (Machine.parcelAt (getSeq s 0 .X) 16382) = true ∧ 16382 + 1 < storeParcels .X ∧
     interlocked s 0 .X (.sms xq) = false ∧ s.agenda = .seq 0 .X :: []) ∧ decode .X 0xE8000000 0 = .ok (.sms xq) ∧ 0 < 576 ∧ 575 < 576 ∧
    -- an instruction whose page request failed
    (let s := landDue { stm .L { nopLast with pageFail := true } with agenda := [.seq 0 .L] }
     (getSeq s 0 .L).pageFail = true ∧ canIssue s 0 .L = true ∧ isWide (Machine.parcelAt (getSeq s 0 .L) 4095) = false ∧ interlocked s 0 .L .nop = false) ∧
    (stm .L nopLast).mgmt.dbg.stepping = false := by
  refine ⟨by decide, rfl, by decide, rfl, by decide, by decide, by decide, rfl⟩

theorem witness_StepOtherwise :
    canIssue (st .L {}) 0 .L = false ∧ canIssue (st .L (sq [])) 0 .L = true ∧ refuses .L 0 0 = true ∧
    storeParcels .L ≤ (getSeq (st .L { sq [] with pc := 0x4000 }) 0 .L).pc.toNat / 4 ∧
    storeParcels .X ≤ (getSeq (stm .X { smsLast with pc := 0xFFFC }) 0 .X).pc.toNat / 4 + 1 ∧ isWide 0xE8000000 = true ∧
    (let s := st .L { sq [] with istore := [(0, 0x02308801)] } { lacc := [{ flight [] with dest := .scalar 1 .w64 }] }
     canIssue s 0 .L = true ∧ readsAs .L 0x02308401 0 (.add 3 1 1) = true ∧ interlocked s 0 .L (.add 3 1 1) = true) ∧
    encode .nop ≠ [] ∧ encode (.bankWake 576) = [] ∧ (Instr.bankWake 576).wf = false ∧ encode (.bankWake 575) = [] ∧ (Instr.bankWake 575).wf = true ∧
    -- a halt whose bound has just passed for this core; an event that cannot come, one held back and one that comes
    (let s := landDue { stm .L (sq []) with parts := [(0, { part0 with halt := { raised := true, cause := 0x10 } })], cycle := 80, agenda := [.seq 0 .L] }
     (getPart s 0).halt.raised = true ∧ (getPart s 0).halt.halted = false ∧ (getPart s 0).halt.raisedAt + 80 ≤ max s.cycle (getSeq s 0 .L).clock ∧ canIssue s 0 .L = false) ∧
    cannotReach (st .L {}) (.remoteAccess 0 false []) = true ∧ cannotReach (st .L {}) (.bankWake 575) = false ∧ eventHeld (st .L {}) (.bankWake 575) = false := by
  decide

theorem witness_FaultRaisesTheHaltLine :
    partOfCore (st .X (sq [])) (st .X (sq [])).cur.1 = some 0 ∧ (getPart (st .X (sq [])) 0).reset = .idle ∧ (getPart (st .X (sq [])) 0).halt.raised = false ∧
    (let s : State := { st .X (sq []) with parts := [(0, { part0 with halt := { raised := true, cause := 0x20 } })] }
     partOfCore s s.cur.1 = some 0 ∧ (getPart s 0).reset = .idle ∧ (getPart s 0).halt.raised = true ∧ s.cur.1 = (getPart s 0).halt.core ∧
       ¬ unitOfSeq s.cur.2 < (getPart s 0).halt.unit) ∧
    (let s : State := { st .X (sq []) with parts := [(0, { part0 with halt := { raised := true, cause := 0x20, unit := 2 } })] }
     (getPart s 0).halt.raised = true ∧ (getPart s 0).halt.raisedAt = s.cycle ∧ (getPart s 0).halt.halted = false ∧ s.cur.1 = (getPart s 0).halt.core ∧
       unitOfSeq s.cur.2 < (getPart s 0).halt.unit) ∧ 1 ≠ 0 := by decide

-- A canonical memory with bytes in it, and a step from it.
theorem witness_StepKeepsMemoryCanonical : MemoryCanonical (stm .L nopLast) ∧ gives .nop (stm .L nopLast) (fun _ => true) = true ∧
    ¬ MemoryCanonical { mem := [(5, 1), (4, 1)] } ∧ ¬ MemoryCanonical { mem := [(4, 0)] } := by unfold MemoryCanonical; decide

theorem witness_reset_canonical : MemoryCanonical State.reset := rfl

theorem witness_RegistersArePrivate : encode (.addi 1 0 5) ≠ [] ∧ gives (.addi 1 0 5) (st .X (sq [])) (fun t => rd t 1 == 5) = true := by decide

theorem witness_DecodeOfEncode : Instr.nop.wf = true ∧ encode .nop = [0x02000000] ∧ (Instr.sms xq).wf = true ∧ encode (.sms xq) = [0xE8000000, 0] ∧
    (Instr.vxor (.w 3) (.q 7) (.ind 31) { stall := 7, nf := true, k := 7 }).wf = true := by decide

/-- Two entries in q0, and the last slot of w0 free or taken. -/
def qe (v : Nat) : QEntry := { data := BitVec.ofNat 2048 v, mask := BitVec.allOnes 64, eos := false }
def stq (n : Nat) : State :=
  st .X (sq []) { vview := view0, bankOn := 0x81, gated := 0x7E, q := [(0, { entries := [qe 7, qe 8] })], w := [(0, { entries := List.replicate n (qe 1) })] }

-- A queue source that holds an entry, and a result queue with one free slot: the hypotheses of every vector instruction.
theorem witness_IntegerVectorArithmetic : XReady (stq 15) [.q 0, .dir 1, .q 0] (.w 0) ∧ XReady (stx 1 2 3) [.dir 1, .dir 2, .dir 4] (.dir 3) ∧
    queuesReady (xContext (stq 15)) [.q 1] = false ∧ destReady (xContext (stq 16)) (.w 0) = false ∧
    -- R115 at both ends of .i8 and beyond them
    (-(2 ^ 7 : Nat) : Int) ≤ -128 ∧ (127 : Int) ≤ (2 ^ 7 : Nat) - 1 ∧ (-129 : Int) < -(2 ^ 7 : Nat) ∧ ((2 ^ 7 : Nat) : Int) - 1 < 128 := by unfold XReady; decide +kernel

theorem witness_VectorLogicAndShifts : XReady (stq 0) [.q 0, .q 0] (.w 3) := by unfold XReady; decide +kernel
theorem witness_TernaryInstructions : XReady (stq 0) [.q 0] (.w 3) ∧ XReady (stq 0) [.q 0, .dir 3, .dir 959] (.dir 959) := by unfold XReady; decide +kernel

theorem witness_MaskInstructions : (stx 1 2 3).cur.2 = .X ∧ queuesReady (xContext (stx 1 2 3)) [.dir 1, .dir 2] = true ∧ (∀ r ∈ (xContext (stx 1 2 3)).xres, r.k = none) ∧
    isNaN (decodeF .bf16 0x7FC0) = true ∧ ¬ (isNaN (decodeF .f32 0) = true ∨ isNaN (decodeF .f32 0x80000000) = true) ∧
    (∃ e, decodeF .f32 0 = .fin false 0 e) ∧ (∃ e, decodeF .f32 0x80000000 = .fin true 0 e) := by
  refine ⟨by decide, by decide, by decide, by decide, by decide, ⟨_, rfl⟩, ⟨_, rfl⟩⟩

-- Finite values of unlike exponents, and an infinity.
theorem witness_MaskInstructions_values : (∃ m e, decodeF .f16 0x3C00 = .fin false m e) ∧ (∃ m e, decodeF .f16 0x8001 = .fin true m e) ∧ decodeF .f16 0xFC00 = .inf true ∧
    ¬ (isNaN (decodeF .f16 0xFC00) = true ∨ isNaN (decodeF .f16 0x3C00) = true) := ⟨⟨1024, -10, by decide⟩, ⟨1, -24, by decide⟩, by decide, by decide⟩

theorem witness_FloatVectorArithmetic : XReady (stq 0) [.q 0, .q 0, .q 0] (.w 0) ∧ isNaN .nan = true ∧ isNaN (.fin false 0 0) = false ∧ (1 : Nat) ≠ 0 ∧
    (FFmt.f32 = .f32 ∨ FFmt.f32 = .bf16 ∨ FFmt.f32 = .f16) := by unfold XReady; decide +kernel

/-- How c × 2 ^ k compares with m / d in .f16's codes. -/
def f16At (m d c : Nat) : Ordering := cmpDyadic ((magVal .f16 c).1 * d) (magVal .f16 c).2 m 0

-- A code's own value; a tie, which goes up to an even code and down to one; a third; a tie with the first value above the largest; beyond it; and an exact zero.
theorem witness_FloatVectorArithmetic_roundings :
    (0x3C00 < maxCode .f16 + 1 ∧ f16At 1 1 0x3C00 = .eq) ∧
    (f16At 2051 2048 0x3C01 = .lt ∧ f16At 2051 2048 0x3C02 = .gt ∧ cmpDyadic ((midVal .f16 0x3C01).1 * 2048) (midVal .f16 0x3C01).2 2051 0 = .eq ∧ 0x3C01 % 2 = 1) ∧
    (f16At 1 3 0x3555 = .lt ∧ f16At 1 3 0x3556 = .gt) ∧
    (f16At 65520 1 0x7BFF = .lt ∧ f16At 65520 1 0x7C00 = .gt ∧ 0x7BFF + 1 = maxCode .f16 + 1 ∧ cmpDyadic (midVal .f16 0x7BFF).1 (midVal .f16 0x7BFF).2 65520 0 = .eq) ∧
    f16At 65536 1 (maxCode .f16 + 1) ≠ .gt ∧ signedM false 3 + signedM true 3 = 0 := by decide +kernel

-- The largest finite code, a subnormal and a zero of .f16.
theorem witness_ExactValuesRoundToThemselves : 0x7BFF < 2 ^ FFmt.f16.width ∧ (∃ m e, decodeF .f16 0x7BFF = .fin false m e) ∧ (∃ m e, decodeF .f16 0x8001 = .fin true m e) ∧
    ∃ m e, decodeF .f16 0 = .fin false m e := ⟨by decide, ⟨2047, 5, by decide +kernel⟩, ⟨1, -24, by decide +kernel⟩, ⟨0, -24, by decide +kernel⟩⟩

theorem witness_Conversions : XReady (stq 0) [.q 0, .dir 1] (.w 0) ∧ FFmt.f32 ≠ .bf16 ∧ (DFmt.fp .f16).width < 32 ∧ (0 : Int) ≤ 0 ∧ (-1 : Int) < 0 ∧ (2 * (1 : Nat) = 2 ^ (-(-1 : Int)).toNat) := by
  unfold XReady; decide +kernel

theorem witness_CodebookInstructions : (stx 1 2 3).cur.2 = .X ∧ queuesReady (xContext (stx 1 2 3)) [.dir 1] = true ∧ Settled (xContext (stx 1 2 3)) 65520 ∧
    Settled (xContext (stx 1 2 3)) 65535 ∧ XReady (stq 0) [.q 0] (.dir 5) ∧ (footprint (xContext (stx 1 2 3))).getLsbD 7 = true := by unfold XReady Settled; decide +kernel

theorem witness_VectorMoves : XReady (stq 0) [.q 0, .dir 1] (.w 0) ∧ XReady (stq 0) [] (.dir 959) ∧ queuesReady (xContext (stq 0)) [.q 0] = true ∧
    (127 : Nat) < 64 * (32 / IFmt.i16.width) ∧ ¬ 128 < 64 * (32 / IFmt.i16.width) := by unfold XReady; decide +kernel

-- The last lane of the last operand, and an operand beyond the view's limit.
theorem witness_VectorGatherAndScatter : XReady (stq 0) [.q 0] (.w 0) ∧ queuesReady (xContext (stx 1 2 3)) [.dir 1, .dir 2] = true ∧
    LaneAt (xContext (stx 1 2 3)) 511 63 = some 8191 ∧ Settled (xContext (stx 1 2 3)) 8191 ∧ LaneAt (xContext (stx 1 2 3)) 512 0 = none ∧
    LaneAt (xContext (stx 1 2 3)) 960 0 = none := by unfold XReady LaneAt Settled; decide +kernel

theorem witness_ReductionsAndScaling : XReady (stq 0) [.q 0] (.w 0) ∧ takingPart (stx 0x7F 0 0) (.dir 1) { xq with k := 1 } 32 = [0x7F, 0] ∧
    takingPart (stx 0x7F 0 0) (.dir 1) { xq with k := 2 } 32 = [] ∧ (∀ r ∈ (xContext (stx 1 2 3)).xres, r.k = none) ∧
    isNaN (decodeF .f32 0x7FC00000) = true := by unfold XReady; decide +kernel

/-- A result that writes four bytes of granule 48, one bit of k2 and one flag. -/
def res1 : XResult := { due := 9, writes := [(48, 0xFFFFFFFF, 5)], k := some (2, 1, 1), orFlags := 1, setFlags := none, push := none }

theorem witness_XResultLands : (getCtx (st .X (sq []) { xres := [res1] }) 0).xres = [res1] ∧ res1.writes = [(48, 0xFFFFFFFF, 5)] ∧ res1.push = none ∧
    res1.setFlags = none ∧ res1.k = some (2, 1, 1) ∧ (2 : Nat) ≠ 0 ∧ { res1 with k := some (0, 1, 1) }.k = some (0, 1, 1) ∧
    -- no result; several, of which one is late, one pushes and one writes the token word
    (getCtx (st .X (sq [])) 0).xres = [] ∧
    (let l := [res1, { res1 with due := 10, push := some (1, qe 7) }, { res1 with writes := [(0xFFDF, 0xFFFFFFFF <<< 64, 0)] }]
     let x := getCtx (st .X (sq []) { xres := l }) 0
     x.xres = l ∧ ((x.xres.filter fun e => decide (e.due ≤ max x.seqX.clock 9)).length = 2) ∧ ¬ (∀ e ∈ x.xres, e.due ≤ 9) ∧
     (∀ e ∈ [res1], e.due ≤ 9) ∧ ((0xFFFFFFFF <<< 64 : Granule) >>> 64) ≠ 0) := by decide +kernel

theorem witness_QueueTestAndForward : (stq 15).cur.2 = .X ∧ (getQ (xContext (stq 15)) 0).entries = qe 7 :: [qe 8] ∧ (getQ (xContext (stq 15)) 1).entries = [] ∧
    (getW (xContext (stq 15)) 0).entries.length + 0 < 16 ∧ (xContext (stq 15)).xres = [] ∧ ¬ (getW (xContext (stq 16)) 0).entries.length < 16 := by decide +kernel

/-- A resident kernel of stream 0. -/
def kern (serial : Nat) : Kernel :=
  { serial := BitVec.ofNat 32 serial, stream := 0, prio := 0, kargs := 0, record := [], cen := false, cidx := 0, early := false, cells := 1, ranges := [],
    started := [0], ended := [], passedSms := [], reissued := [], codeL := [], codeX := [], codeS := [], failed := none }

/-- The kernel with serial 1 runs, alone or behind another of its stream. -/
def stk (x : Ctx) (before : Bool) : State :=
  { st .X (sq []) { x with cell := some cell0 } with parts := [(0, { part0 with kernels := if before then [kern 0, kern 1] else [kern 1] })] }

/-- A store that is not performed. -/
def acc0 (n : Nat) : SAccess :=
  { act := .store [0] [], pieces := [{ loc := .sram 0 8 0, addr := 0, first := 0, count := 1, pos := 0 }], fe := .none, range := none, deps := [], performed := false,
    stamps := [], fpc := 0, parcels := 0, num := n, sta := false }

theorem witness_CellScheduling :
    (curCtx (stk {} true)).cell = some cell0 ∧ predecessorRuns (stk {} true) cell0 = true ∧ predecessorRuns (stk {} false) cell0 = false ∧
    -- SIG, with everything seen and with a store that is not
    (let x := curCtx (stk {} false)
     x.sacc = [] ∧ (getCore (stk {} false) 0).tracker = [] ∧ x.nestRun = none ∧ x.nestPend = none ∧ x.rjobs = []) ∧
    (let s := stk { sacc := [acc0 0], sissued := 1 } false
     acc0 0 ∈ (curCtx s).sacc ∧ (acc0 0).num < (curCtx s).sigWait.getD (curCtx s).sissued ∧ visibleAt s 0 .pkg (acc0 0) = false) ∧
    -- TAIL, ready and not
    (let s := stk { seqL := { run := .ended }, seqS := { run := .ended } } false
     let x := curCtx s
     s.cur.2 = .X ∧ x.seqL.run = .ended ∧ x.seqS.run = .ended ∧ x.lacc = [] ∧ x.nestRun = none ∧ x.nestPend = none ∧ x.rjobs = [] ∧
     entriesTaken (outstanding s 0) + entriesTaken (getCore s 0).tracker ≤ 16 ∧ kernelOf s 0 1 = some (kern 1)) ∧
    (curCtx (stk {} false)).seqL.run ≠ .ended ∧ 1 < { cell0 with gangSize := 2 }.gangSize := by decide +kernel

/-- A gang of cores 0 and 1, of which core 0 waits at its first GBAR and core 1 has executed n. -/
def gang2 (n : Nat) (here go : Bool) : State :=
  let e : CellInfo := { cell0 with gangSize := 2 }
  { st .X (sq []) { cell := some { e with gbars := 1, gbarOpen := here, gbarGo := go } } with
    cores := [(0, { ctx := { cell := some { e with gbars := 1, gbarOpen := here, gbarGo := go }, seqX := sq [] } }),
              (1, { ctx := { cell := some { e with gbars := n, gbarOpen := true }, seqX := sq [] } })] }

theorem witness_GangBarrier : cell0.gangSize ≤ 1 ∧
    (∃ e, (curCtx (gang2 1 false false)).cell = some e ∧ 1 < e.gangSize ∧ e.gbarOpen = false) ∧
    (∃ e, (curCtx (gang2 1 true false)).cell = some e ∧ 1 < e.gangSize ∧ e.gbarOpen = true ∧ e.gbarGo = false ∧
      (∀ m, e.gangBase ≤ m ∧ m < e.gangBase + e.gangSize → ∀ f, memberCell (gang2 1 true false) e m = some f → e.gbars ≤ f.gbars) ∧
      sameGroup e (getCtx (gang2 1 true false) 1) = true) ∧
    (∃ e, (curCtx (gang2 1 true true)).cell = some e ∧ 1 < e.gangSize ∧ e.gbarOpen = true ∧ e.gbarGo = true) ∧
    ∃ e, (getCtx (gang2 0 true false) 0).cell = some e ∧ e.gbarOpen = true ∧ e.gbarGo = false ∧ ∃ f, memberCell (gang2 0 true false) e 1 = some f ∧ ¬ e.gbars ≤ f.gbars := by
  refine ⟨by decide, ⟨_, rfl, by decide, rfl⟩, ⟨_, rfl, by decide, rfl, rfl, ?_, by decide⟩, ⟨_, rfl, by decide, rfl, rfl⟩, ⟨_, rfl, rfl, rfl, _, rfl, by decide⟩⟩
  intro m hm f hf
  match m with
  | 0 => cases hf; decide
  | 1 => cases hf; decide
  | n + 2 => exact absurd hm.2 (by show ¬ n + 2 < 2; omega)

/-- A handle slot 1 with stripes 1 and 2 of the pool, every granule of them full. -/
def hnd : Handle := { base := 1, len := 2, batch := none }
def full16 : Table SramGranule := (List.range 16).map fun g => (8 + g, { data := BitVec.ofNat 128 g, f := true })
def stl (g : Table Word) (x : Ctx := {}) : State := { stm .L (sq g) { x with slots := [(1, hnd)], vview := view0, bankOn := 0x81 } with clusters := [(0, { granules := full16 })] }

/-- An index vector of memory that nothing has written: every lane reads index 0. -/
def zeros : List (Option Nat) := List.replicate 64 (some 0)

theorem witness_LoadsIssue :
    (stl [(3, 8)]).cur.2 = .L ∧ effAddr (stl [(3, 8)]) (adr 3) % 16 ≠ 0 ∧
    -- a virtual address, and a buffer
    (effAddr (stl [(3, 0x100)]) (adr 3) % 16 = 0 ∧ (curCtx (stl [(3, 0x100)])).feWait = none ∧ (curCtx (stl [(3, 0x100)])).lacc.length < 32 ∧
      trackerHit (stl [(3, 0x100)]) 0x100 256 none = false ∧ ∃ ps, resolve (stl [(3, 0x100)]) 0x100 256 none { rd := true } = .ok ps) ∧
    (∃ ps, resolve (stl []) 0 256 (some 1) { rd := true } = .ok ps) ∧ Fe.fec ≠ .none ∧ queueLoad (curCtx (stl [])) 7 < 16 ∧
    ¬ queueLoad (curCtx (stl [] { q := [(7, { entries := List.replicate 16 (qe 0) })] })) 7 < 16 ∧
    -- LDS: the ends of the aperture, narrow and wide
    (inAperture 0xFF000000000000 = true ∧ inAperture 0xFF0003FFFFFFF8 = true ∧ inAperture 0xFF000400000000 = false ∧ sfmtBytes .i16 < 4 ∧ 4 ≤ sfmtBytes .w64 ∧
      0xFF0003FFFFFFF8 % sfmtBytes .w64 = 0) ∧
    (∃ ps, resolve (stl [(3, 0x104)]) 0x104 4 none { rd := true } = .ok ps) ∧ 0x106 % sfmtBytes .i32 ≠ 0 ∧
    -- pushes and STRM
    (curCtx (stl [])).lacc = [] ∧ (curCtx (stl [] { lacc := [flight []] })).lacc ≠ [] ∧
    ((rd (stl [(3, 0x100), (4, 2)]) 4).toNat % 2 ^ 32 ≠ 0 ∧ (rd (stl [(3, 0x100), (4, 2)]) 3).toNat % 16 = 0 ∧ (3 : Reg) ≠ 4) ∧
    (rd (stl [(4, 0x100000000)]) 4).toNat % 2 ^ 32 = 0 ∧
    -- GTHQ
    ((0x1008 : Nat) % 16 ≠ 0 ∧ 0x1000 % 16 = 0 ∧ 2 % 4 ≠ 0 ∧ 0 % 4 = 0 ∧
     let s := stl [(3, 0x1000)]
     trackerHit s 0x1000 256 none = false ∧ (∃ idx, readIndices s 0x1000 = .ok idx ∧ (idx == zeros) = true) ∧ lanesHit s 0 (some 1) zeros = false ∧
     ∃ lanes, resolveLanes s 0 (some 1) { rd := true } zeros 0 = .ok lanes) := by
  refine ⟨by decide, by decide, ⟨by decide +kernel, by decide +kernel, by decide +kernel, by decide +kernel, exists_of_okay (by decide +kernel)⟩,
    exists_of_okay (by decide +kernel), by decide, by decide +kernel, by decide +kernel, by decide, exists_of_okay (by decide +kernel), by decide, by decide +kernel,
    by decide +kernel, by decide +kernel, by decide +kernel, by decide, by decide, by decide, by decide, by decide +kernel, exists_of_okWith (by decide +kernel), by decide +kernel,
    exists_of_okay (by decide +kernel)⟩

-- Accesses that fault, wait for a page and wait for tokens of a walk; an absent slot; 32 loads in flight; GTHQ's lanes without tokens, beyond translation and behind a tracker entry.
theorem witness_LoadsIssue_stops :
    (let s := stl []
     (curCtx s).feWait = none ∧ trackerHit s 0x40000000 256 none = false ∧ (∃ q, resolve s 0x40000000 256 none { rd := true } = .error (.page, q)) ∧
     (∃ k q, resolve s 0x200000000000000 256 none { rd := true } = .error (.cause k, q)) ∧ tfind (curCtx s).slots 2 = none) ∧
    (∃ dm q, resolve { stl [] with parts := [(0, poor)] } 0x100 256 none { rd := true } = .error (.busy dm, q)) ∧
    32 ≤ (curCtx (stl [] { lacc := List.replicate 32 (flight []) })).lacc.length ∧ strmOpen (curCtx (stl [])) = false ∧
    (let s := stl [(3, 0x1000)]
     (∃ q, readIndices (stl []) 0x40000000 = .error (.page, q)) ∧ demandReady s (lanesDemand s 0x1000 0 (some 1) zeros) = true ∧
     (∃ k q, resolveLanes s 0x200000000000000 none { rd := true } zeros 0 = .error (.cause k, q)) ∧
     lanesHit { s with cores := [(0, { (getCore s 0) with tracker := [{ ranges := [(0, 16)], acc := none, ticket := none, serial := 1 }] })] } 0 none zeros = true) := by
  refine ⟨⟨by decide, by decide +kernel, exists_of_pages (by decide +kernel), exists_of_stops (by decide +kernel), by decide⟩, exists_of_lacks (by decide +kernel), by decide, by decide,
    exists_of_pages (by decide +kernel), by decide +kernel, exists_of_stops (by decide +kernel), by decide +kernel⟩

/-- Sixteen full granules as the pieces of a load of 256 bytes. -/
def pieces16 : List Piece := (List.range 16).map fun g => { loc := .sram 0 (8 + g) (16 * g), addr := 16 * g, first := 0, count := 16, pos := 16 * g }

def badPool : State := { stl [] with clusters := [(0, { granules := (8, { bad := true }) :: full16.drop 1 })] }

/-- A load of a word of memory at virtual 0x100. -/
def word100 : Piece := { loc := .dram 0x40000100 false false 0 0, addr := 0x100, first := 0, count := 16, pos := 0 }
def waiting16 : LAccess := { flight pieces16 with fe := .fec }

-- The tokens of a load that are not there; data without a fault; a lost byte; a fault; a scalar, a store of sixteen granules and a pushed entry.
theorem witness_LoadDataLands :
    (let s := stl [] { lacc := [flight [word100]] }
     (getCtx s 0).lacc = flight [word100] :: [] ∧ (flight [word100]).landed = [] ∧ tokensReady { s with parts := [(0, poor)] } [word100] = false) ∧
    (let s := stl [] { lacc := [flight pieces16] }
     (getCtx s 0).lacc = flight pieces16 :: [] ∧ tokensReady s pieces16 = true ∧ firstFault pieces16 (landedGot s 0 (flight pieces16)) = none) ∧
    (pieces16.head?.isSome ∧ ∀ p ∈ pieces16.head?, ∀ o, p.loc ≠ .device o) ∧
    (∀ i, i < 8 → accessLost pieces16 (landedGot (stl []) 0 (flight pieces16)) i = false) ∧
    (let gs := viewGranules view0 0x81 0 16
     gs.length = 16 ∧ (gs.filterMap id).Nodup ∧ (getCtx (stl []) 0).xres = [] ∧ (getCtx (stl []) 0).writing = []) ∧
    ({ flight [] with dest := .entry 0 (qe 1) }.pieces = [] ∧ (flight []).strm = none) ∧
    (∃ k g, firstFault pieces16 (landedGot badPool 0 (flight pieces16)) = some (k, g)) ∧
    -- a full-empty wait, with every granule full and with one empty
    (let s := stl [] { feWait := some waiting16 }
     (getCtx s 0).feWait = some waiting16 ∧ waiting16.strm = none ∧ waiting16.dest = .queue 0 ∧ firstFault pieces16 (landedGot s 0 waiting16) = none ∧ (getCtx s 0).lacc = [] ∧
     (getCtx s 0).seqL.halted = false ∧ allFull s pieces16 = true ∧ servedFirst s 0 (.load 0) pieces16 = false ∧ allFull { s with clusters := [] } pieces16 = false) := by
  refine ⟨⟨rfl, rfl, by decide +kernel⟩, ⟨rfl, by decide +kernel, by decide +kernel⟩, ⟨by decide, ?_⟩, by decide +kernel, by decide +kernel, ⟨rfl, rfl⟩, ⟨0x22, 0, by decide +kernel⟩,
    rfl, rfl, rfl, by decide +kernel, rfl, rfl, by decide +kernel, by decide +kernel, by decide +kernel⟩
  intro p hp o ho
  have e : pieces16.head? = some { loc := .sram 0 8 0, addr := 0, first := 0, count := 16, pos := 0 } := by decide
  rw [e, Option.mem_some_iff] at hp
  rw [← hp] at ho
  exact nomatch ho

/-- A load into sixteen granules, of which all but the last have landed. -/
def landing : LAccess := { flight pieces16 with dest := .store ((List.range 16).map fun g => some (48 + g)), landed := List.range 15 }

-- The last granule of a load lands, and with a full-empty wait all of them at once; the tokens are there.
theorem witness_LoadDataLands_granules :
    (getCtx (stl [] { lacc := [landing] }) 0).lacc = landing :: [] ∧ landing.landed ≠ [] ∧ (15 < 16 ∧ 15 ∉ landing.landed) ∧ { landing with fe := .fe }.fe ≠ .none ∧
    landing.dest = .store ((List.range 16).map fun g => some (48 + g)) ∧ (((List.range 16).map fun g => some (48 + g)).filterMap id).Nodup := by decide +kernel

/-- Core 0 with a reservation of stripes 0 to 65,535 for its gang. -/
def sth (g : Table Word) (slots : Table Handle := []) (len : Nat := 65536) : State :=
  { stm .L (sq g) { slots := slots } with clusters := [(0, { reserved := [{ part := 0, serial := 1, gangBase := 0, base := 0, len := len }] })] }

theorem witness_HandlesAndWaits :
    (rd (stl [(3, 0)]) 3).toNat ≤ tokenWord (stl [(3, 0)]) (curCtx (stl [(3, 0)])) ∧ tokenWord (stl [(3, 1)]) (curCtx (stl [(3, 1)])) < (rd (stl [(3, 1)]) 3).toNat ∧
    -- bank 7 in the footprint, with and without a token word that X or L wrote, and outside it
    ((footprint (curCtx (stl []))).getLsbD 7 = true ∧ (curCtx (stl [] { tokenBad := true })).tokenBad = true ∧ (rd (stl [(3, 0)] { tokenBad := true }) 3).toNat ≤ 0 ∧
      (footprint (curCtx (stm .L (sq [])))).getLsbD 7 = false) ∧
    (tfind (curCtx (stl [])).tickets 0 = none ∧ tfind (curCtx (stl [] { tickets := [(0, .running)] })).tickets 0 = some .running ∧
     tfind (curCtx (stl [] { tickets := [(0, .done 1 true [1])] })).tickets 0 = some (.done 1 true [1]) ∧ coveredPkg (stl []) (vecStamps [1]) = false ∧
     coveredPkg { stl [] with dies := (List.range 4).map fun d => (d, { clock := [(0, 1)] }) } (vecStamps [1]) = true) ∧
    -- HGET: too large, a slot taken, no room, and the whole reservation (0 names 65,536 stripes)
    (65536 < (rd (sth [(3, 65537)]) 3).toNat % 2 ^ 17 ∧ tfind (curCtx (sth [] [(1, hnd)])).slots 1 ≠ none) ∧
    (tfind (curCtx (sth [])).slots 1 = none ∧ (getCluster (sth [] [] 0) (curCluster (sth []))).reserved.length = 1 ∧ ∀ b : Nat, ¬ (b + 65536 ≤ 0 + 0)) ∧
    ((rd (sth []) 3).toNat % 2 ^ 17 ≤ 65536 ∧ liveBuffers (sth []) (curCluster (sth [])) = [] ∧
     (getCluster (sth []) (curCluster (sth []))).reserved = [{ part := 0, serial := 1, gangBase := 0, base := 0, len := 65536 }] ∧ 0 ≤ 0 ∧ 0 + 65536 ≤ 0 + 65536) ∧
    -- HPASS and HREL
    (inGang (sth []) 0 = true ∧ inGang (sth []) 1 = false ∧ slotBusy (sth [] [(1, hnd)]) 0 1 = false ∧ tfind (getCtx (sth [] [(1, hnd)]) 0).slots 2 = none ∧
     slotBusy (stl [] { lacc := [flight pieces16] }) 0 1 = true) := by
  refine ⟨by decide +kernel, by decide +kernel, by decide +kernel, ⟨by decide, by decide, by decide, by decide, by decide⟩, by decide, ⟨by decide, by decide, fun b => by omega⟩, by decide +kernel, by decide +kernel⟩

/-- A fill card at virtual 0x100: one row of 16 bytes at 0x200. -/
def cardBytes : List Host.Cell := [(0x40000100, 1), (0x40000108, 1), (0x4000010C, 16), (0x40000119, 2)]

/-- A ring of one slot at the start of buffer 1 of stripes 1 to 4, with sequence numbers res and con, whose slot is full or empty. -/
def ring4 : Handle := { base := 1, len := 4, batch := none }
def stRing (k : Seq) (res : Nat) (full : Bool) (x : Ctx := {}) : State :=
  { stm k (sq []) { x with slots := [(1, ring4)] } with
    clusters := [(0, { granules := (8, { data := BitVec.ofNat 128 (2 ^ 64 + res) }) :: if full then (List.range 17).map fun g => (9 + g, { f := true }) else [] })] }

/-- The gatherer of die 0 for partition 0, with batches closed, none, or none to come. -/
def stGath (g : Gatherer) : State := { stm .L (sq []) with dies := [(0, { gatherers := [(0, g)] })] }

theorem witness_EngineRequests :
    (effAddr (stm .L (sq [(3, 0x104)])) (adr 3) % 64 ≠ 0) ∧
    (let s := stm .L (sq [(3, 0x100)]) {} cardBytes
     effAddr s (adr 3) % 64 = 0 ∧ (curCtx s).lacc = [] ∧ trackerHit s 0x100 192 none = false ∧ ¬ 16 ≤ (curCtx s).tickets.length ∧
     (tget ({} : Lamp) (getDie s (curDie s)).lamps (curPart s)).waiting.length < 4 ∧ (∃ r, readRecord s 0x100 64 = .ok r) ∧
     ∃ r, readRecord s 0x100 192 = .ok r ∧ cardBad s s.cur.1 r (parseCard (newOwner s) r) = false ∧ cardRanges (parseCard (newOwner s) r) = []) ∧
    (let s := stm .L (sq [(3, 0x100)])
     ∃ r, readRecord s 0x100 192 = .ok r ∧ cardBad s s.cur.1 r (parseCard (newOwner s) r) = true) ∧
    16 ≤ (curCtx (stm .L (sq []) { tickets := (List.range 16).map fun n => (n, .running) })).tickets.length ∧
    -- rings: the handle fault, a free slot, none, an entry to publish, a full and an empty slot
    ((∃ k n, findRing (stm .L (sq [])) 0 0 1 = .error (k, n)) ∧ bufferStorePending (stm .L (sq [])) 0 1 = false ∧ atomicsReturned (curCtx (stm .L (sq []))) = true ∧
      acqPending (stm .L (sq [])) 0 = false) ∧
    (∃ r, findRing (stRing .L 0 false) 0 0 1 = .ok r ∧ (r.res + 2 ^ 32 - r.con) % 2 ^ 32 < r.n ∧ ringBefore (stRing .L 0 false) r = false ∧
      ringBefore { stRing .L 0 false with clusters := [(0, { reservers := [(ringPlace r, 1)] })] } r = true ∧ allFull (stRing .L 0 false) (ringSlot r 0) = false) ∧
    (∃ r, findRing (stRing .L 1 true) 0 0 1 = .ok r ∧ r.n ≤ (r.res + 2 ^ 32 - r.con) % 2 ^ 32 ∧ allFull (stRing .L 1 true) (ringSlot r 0) = true ∧
      servedFirst (stRing .L 1 true) 0 (.ring 0) (ringSlot r 0) = false ∧
      firstFault (ringSlot r 0) (readPieces (stRing .L 1 true) 0 (ringSlot r 0) 0) = none) ∧
    (let s := stRing .S 0 false { w := [(0, { entries := [qe 5] })] }
     headW s 0 = some (qe 5) ∧ headW s 1 = none ∧ storeRoom s = true ∧ s.cur.2 = .S ∧ ∃ r, findRing s 0 0 1 = .ok r ∧ ringStorePending s r = false) ∧
    -- RQGT: a batch, none yet, none to come
    (let s := stGath { en := true, ready := [⟨0, 0, 1, 5, 0, 9, true⟩] }
     queueLoad (curCtx s) 0 < 16 ∧ tfind (curCtx s).slots 0 = none ∧ curCluster s = 9 * curDie s + rgCluster (getGath s 0 0) ∧ (curCtx s).lacc = [] ∧
     (getGath s 0 0).waiters = [] ∧ (getGath s 0 0).ready = ⟨0, 0, 1, 5, 0, 9, true⟩ :: []) ∧
    ((getGath (stGath { en := true }) 0 0).ready = [] ∧ rqgtEnds (getGath (stGath { en := true }) 0 0) = false) ∧
    rqgtEnds (getGath (stGath { en := true, drain := true }) 0 0) = true := by
  refine ⟨by decide, ⟨by decide +kernel, by decide, by decide, by decide, by decide, exists_of_okay (by decide +kernel), ?_⟩, ?_, by decide,
    ⟨⟨0x15, 0, rfl⟩, by decide, by decide, by decide⟩, ⟨{ holder := 0, handle := ring4, off := 0, res := 0, con := 0, n := 1 }, rfl, by decide, by decide, by decide, by decide +kernel⟩,
    ⟨{ holder := 0, handle := ring4, off := 0, res := 1, con := 0, n := 1 }, rfl, by decide, by decide +kernel, by decide +kernel, by decide +kernel⟩,
    ⟨by decide +kernel, by decide +kernel, by decide, rfl, { holder := 0, handle := ring4, off := 0, res := 0, con := 0, n := 1 }, rfl, by decide +kernel⟩,
    by decide, by decide, by decide⟩
  · have h : (match readRecord (stm .L (sq [(3, 0x100)]) {} cardBytes) 0x100 192 with
      | .ok r => !cardBad (stm .L (sq [(3, 0x100)]) {} cardBytes) 0 r (parseCard (newOwner (stm .L (sq [(3, 0x100)]) {} cardBytes)) r) &&
          (cardRanges (parseCard (newOwner (stm .L (sq [(3, 0x100)]) {} cardBytes)) r)).isEmpty
      | .error _ => false) = true := by decide +kernel
    split at h
    · rename_i r e
      simp only [Bool.and_eq_true, Bool.not_eq_true', List.isEmpty_iff] at h
      exact ⟨r, e, h.1, h.2⟩
    · exact nomatch h
  · have h : (match readRecord (stm .L (sq [(3, 0x100)])) 0x100 192 with
      | .ok r => cardBad (stm .L (sq [(3, 0x100)])) 0 r (parseCard (newOwner (stm .L (sq [(3, 0x100)]))) r)
      | .error _ => false) = true := by decide +kernel
    split at h
    · rename_i r e; exact ⟨r, e, h⟩
    · exact nomatch h

/-- A card at virtual 0x100 with a read region of sixteen bytes at 0x300, and an entry of the tracker that covers it. -/
def trackedAt (a : Nat) : State :=
  let s := stm .L (sq [(3, 0x100)]) {} cardBytes
  { s with cores := [(0, { getCore s 0 with tracker := [{ ranges := [(a, 16)], acc := none, ticket := none, serial := 1 }] })] }

-- Records that cannot be read, and whose page is absent; RRSV behind a store; a ring whose entries another core took.
theorem witness_EngineRequests_stops :
    (∃ q, readRecord (stm .L (sq [])) 0x40000000 64 = .error (.page, q)) ∧ (∃ k q, readRecord (stm .L (sq [])) 0x200000000000000 192 = .error (.cause k, q)) ∧
    trackerHit (trackedAt 0x200) 0x200 16 none = true ∧ trackerHit (trackedAt 0x200) 0x100 192 none = false ∧
    acqPending (stm .L (sq []) { sacc := [{ acc0 0 with act := .atomic .add 8 false none 0 0 1 true none }] }) 0 = true ∧
    (∃ r, findRing (stRing .L 1 true) 0 0 1 = .ok r ∧ sharedRing (stRing .L 1 true) r = false ∧
      sharedRing { stRing .L 1 true with clusters := [(0, { consumers := [(ringPlace r, [1])] })] } r = true) := by
  refine ⟨exists_of_pages (by decide +kernel), exists_of_stops (by decide +kernel), by decide +kernel, by decide +kernel, by decide +kernel,
    { holder := 0, handle := ring4, off := 0, res := 1, con := 0, n := 1 }, rfl, by decide +kernel, by decide +kernel⟩

/-- An operand that lies wholly inside the register store, with every bank in the footprint, has no granule out of range. -/
theorem span_inside (view : Word) (i ext : Nat) (hi : i < min (fieldOf view 32 11) 1024) (hx : fieldOf view 0 16 + fieldOf view 16 16 * i + (ext + 15) / 16 ≤ 65536)
    (off n : Nat) (h : off + n ≤ ext) : none ∉ spanGranules view 0xFF i off n := by
  simp only [spanGranules, hi, decide_true, List.mem_map, List.mem_range, not_exists, not_and]
  intro t ht
  have hg : fieldOf view 0 16 + fieldOf view 16 16 * i + off / 16 + t < 65536 := by omega
  have hb : bitOf (0xFF : BitVec 8).toNat (bankOfGranule (fieldOf view 0 16 + fieldOf view 16 16 * i + off / 16 + t)) = true := by
    have : bankOfGranule (fieldOf view 0 16 + fieldOf view 16 16 * i + off / 16 + t) < 8 := by unfold bankOfGranule; omega
    revert this
    generalize bankOfGranule _ = b
    revert b
    decide
  simp only [Bool.not_true, Bool.false_or, decide_eq_false (Nat.not_le.mpr hg), hb]; simp

/-- AVIEW of one tile at granule 1024, and of two that overlap; every bank in the footprint. -/
def aview1 : Word := 0x00FF000100000400
def aview2 : Word := 0x00FF000200010400

/-- A table of one beat over one row: .i8 activations, .i8 weights, K = 1. fe is its FE field. -/
def table1 (fe : Nat) : Table Word :=
  [(0, 1), (2, 1), (4, 1), (6, 1), (8, 1), (10, 1), (12, BitVec.ofNat 64 (10 * 2 ^ 26)), (13, BitVec.ofNat 64 (1 + 6 * 2 ^ 21 + fe * 2 ^ 27 + 2 ^ 29))]

def latch1 : Latch := { ws := 0, granules := List.replicate 16 (0, true) }

def nest1 (started : Bool) (beat : Nat) (latch : Option Latch) (fe : Nat := 0) : NestJob :=
  { table := table1 fe, tview := 0x00FF000400000000, aview := aview1, foot := 0xFF, arrival := 1, started := started, beat := beat, latch := latch, ahead := none, loading := none,
    lastWs := none, cleared := [], nv := false, mz := false, ilt := false, woor := false, aoor := false, fpc := 0, parcels := 0 }

def rjob (k : RKind) (started : Bool) : RJob :=
  { kind := k, tile := 0, h := 1, aview := aview1, vview := view0, foot := 0xFF, seq := .X, arrival := 0, issuedAt := 0, started := started, row := 0, transform := false, fpc := 0, parcels := 0 }

/-- A context whose tile has this header word. -/
def tiled (header : Granule) : Ctx := { aview := aview1, bankOn := 0xFF, gated := 0, slots := [(1, hnd)], store := [(1024, header)] }

def stNest (j : NestJob) (x : Ctx := tiled 0) : State := { st .X (sq []) { x with nestRun := some j } with clusters := [(0, { granules := full16 })] }

/-- MGO's table words as they stand in the store from granule 0xFFE0. -/
def shadow1 (w12 w13 : Nat) : Table Granule :=
  (List.range 6).map (fun i => (0xFFE0 + i, 1)) ++ [(0xFFE6, BitVec.ofNat 128 (w12 + w13 * 2 ^ 64))]
def stMgo (w12 w13 : Nat) (slots : Table Handle) (aview : Word := aview1) : State :=
  st .X (sq []) { aview := aview, tview := 0x00FF000400000000, bankOn := 0xFF, gated := 0, slots := slots, store := shadow1 w12 w13 }

theorem witness_MatrixNests :
    ((footprint (xContext (stMgo 0 0 []))).getLsbD 7 = true ∧ (xContext (stMgo 0 0 [])).xres = [] ∧ queuesReady (xContext (stMgo 0 0 [])) [.dir 1] = true ∧
      (stMgo 0 0 []).cur.2 = .X ∧ ¬ (footprint (xContext (st .X (sq [])))).getLsbD 7 = true ∧ queuesReady (xContext (stMgo 0 0 [])) [.q 0] = false ∧
      ∀ n, 0xFFE0 ≤ n → n < 0xFFF0 → Settled (xContext (stMgo 0 0 [])) n) ∧
    -- MGO: both places held, no handle, a bad table, an alias, a good table
    (let s := st .X (sq []) { nestRun := some (nest1 true 0 none), nestPend := some (nest1 false 0 none) }
     (xContext s).nestRun ≠ none ∧ (xContext s).nestPend ≠ none) ∧
    tfind (xContext (stMgo 0 0 [])).slots (nHslot (latchTable (xContext (stMgo 0 0 [])) 0)) = none ∧
    (let s := stMgo 0 0 [(0, hnd)]
     tfind (xContext s).slots (nHslot (latchTable (xContext s) s.freeCtr)) = some hnd ∧ nestBad (latchTable (xContext s) s.freeCtr) = true) ∧
    (let s := stMgo (10 * 2 ^ 26) (1 + 6 * 2 ^ 21 + 2 ^ 29) [(1, hnd)] 0x00FF000100000000
     let t := latchTable (xContext s) s.freeCtr
     tfind (xContext s).slots (nHslot t) = some hnd ∧ nestBad t = false ∧ nestAlias t (xContext s).tview (xContext s).aview (footprint (xContext s)) = true) ∧
    (let s := stMgo (10 * 2 ^ 26) (1 + 6 * 2 ^ 21 + 2 ^ 29) [(1, hnd)]
     let t := latchTable (xContext s) s.freeCtr
     tfind (xContext s).slots (nHslot t) = some hnd ∧ nestBad t = false ∧ nestAlias t (xContext s).tview (xContext s).aview (footprint (xContext s)) = false ∧
     (xContext s).nestRun = none) ∧
    -- the start: an earlier job in the way, none; a sick tile; integers on a zero tile, an anchor of zero and another; a float nest
    (let x := getCtx (stNest (nest1 false 0 none) { tiled 0 with rjobs := [rjob .canon true] }) 0
     mayStart x 1 (nestSets (nest1 false 0 none)) = false ∧ x.mHalted = false) ∧
    (let j := nest1 false 0 none
     let d := nestDest j.table j.aview j.foot
     mayStart (getCtx (stNest j) 0) j.arrival (nestSets j) = true ∧ integerNest j.table = true ∧ tileState (tiled 0) d = 0 ∧
     tileFaulted (tiled 0x30000) d = true ∧ tileFaulted (tiled 0) d = false ∧ (tileState (tiled 0x10000) d ≠ 0 ∧ tileAnchor (tiled 0x10000) d = 0) ∧
     (tileState (tiled 0x10001) d ≠ 0 ∧ tileAnchor (tiled 0x10001) d ≠ 0)) ∧
    (let t : Table Word := [(12, BitVec.ofNat 64 (2 ^ 30 + 2 ^ 42)), (13, BitVec.ofNat 64 (2 ^ 29))]
     integerNest t = false ∧ nAsrc t = true ∧ tileFaulted { tiled 0 with store := [(1024, 0), (1025, 0x30000)] } (nestSource [(12, BitVec.ofNat 64 (1 + 2 ^ 30))] aview2 0xFF) = true) ∧
    -- a shard: full, and not
    (let j := nest1 true 0 none 1
     let ps := shardPieces (clusterOfCore 0) hnd 0 (shardReads j.table)
     wantedShard j = some 0 ∧ tfind (tiled 0).slots (nHslot j.table) = some hnd ∧ loadedOf j 0 = [] ∧ ps.all (granuleTaken (stNest j) 0 j) = true ∧
     ps.takeWhile (granuleTaken { stNest j with clusters := [] } 0 j) = [] ∧ 0 < ps.length ∧
     firstFault ps (readPieces (stNest j) (dieOfCore 0) ps 0) = none ∧ firstBeyond ps = none ∧ tfind (tiled 0).engStop 3 = none) ∧
    -- a beat, with its tile inside the store, and the end
    (let j := nest1 true 0 (some latch1)
     let d := nestDest j.table j.aview j.foot
     j.beat < nBeats j.table ∧ j.latch = some latch1 ∧ latch1.ws = nWs j.table j.beat ∧ (nCrow j.table j.beat).toNat < d.h ∧
     ∀ off n, off + n ≤ tileExtent d.h → none ∉ spanGranules d.view d.foot d.index off n) ∧
    nBeats (nest1 true 1 none).table ≤ (nest1 true 1 none).beat := by
  refine ⟨⟨by decide, by decide, by decide, rfl, by decide, by decide, fun n _ _ => ⟨rfl, fun r hr => nomatch hr⟩⟩, by decide, by decide +kernel, by decide +kernel,
    by decide +kernel, by decide +kernel, by decide +kernel, by decide +kernel, by decide +kernel, by decide +kernel, ⟨by decide, rfl, by decide, by decide, ?_⟩, by decide⟩
  exact span_inside aview1 0 _ (by decide) (by decide)

-- A shard with an uncorrectable granule, and one that waits at a table granule of a codebook.
theorem witness_MatrixNests_shards :
    (let j := nest1 true 0 none 1
     let ps := shardPieces (clusterOfCore 0) hnd 0 (shardReads j.table)
     ∃ k g, firstFault ps (readPieces { stNest j with clusters := [(0, { granules := (8, { bad := true }) :: full16.drop 1 })] } 0 ps 0) = some (k, g)) ∧
    (let w : Waiter := { agent := .nest 0, pieces := [], unfull := 3 }
     ({ stNest (nest1 true 0 none 1) with clusters := [(0, { waiters := [w] })] }.clusters = [(0, { waiters := [w] })]) ∧ w.agent = .nest 0) := by
  refine ⟨⟨0x22, 0, by decide +kernel⟩, rfl, rfl⟩

/-- A tile of one row with anchor, state and every element 0. -/
def stRes (k : RKind) (started : Bool) (header : Granule) (x : Ctx → Ctx := id) : State :=
  st .X (sq []) (x { tiled header with rjobs := [rjob k started] })

theorem witness_ResolverJobs :
    ((stRes .canon false 0).cur.2 = .X ∧ (xContext (stRes .canon false 0)).rjobs.length < 8 ∧
     8 ≤ (xContext (st .X (sq []) { rjobs := List.replicate 8 (rjob .canon false) })).rjobs.length) ∧
    -- overlap of ASCL and AMOV: the same tile, an overlapping one, one far away
    (let t0 (v i : Nat) : Nat := 16 * 1024 + 16 * v * i
     let ext := tileExtent 1
     t0 1 0 ≠ t0 1 1 ∧ t0 1 0 < t0 1 1 + ext ∧ t0 1 1 < t0 1 0 + ext ∧ ¬ (t0 800 0 < t0 800 1 + ext ∧ t0 800 1 < t0 800 0 + ext)) ∧
    -- ACMP, with an earlier writer of its tile and without
    (∃ n sets, (n, sets) ∈ jobsOf (xContext (stRes .canon false 0)) ∧
      sets.writes.any (bytesMeet (tileRange { view := aview1, foot := 0xFF, index := 0, h := 64 })) = true) ∧ jobsOf (xContext (st .X (sq []) (tiled 0))) = [] ∧
    -- the start, and the ends
    (mayStart (getCtx (stRes .canon false 0) 0) 0 (rjobSets (rjob .canon false)) = true ∧ (getCtx (stRes .canon false 0) 0).rHalted = false ∧
     mayStart { tiled 0 with rjobs := [rjob .canon true, { rjob .canon false with arrival := 1 }] } 1 (rjobSets (rjob .canon false)) = false) ∧
    ((getCtx (stRes .canon true 0) 0).raced = [] ∧ ∀ off n, off + n ≤ tileExtent 1 → none ∉ spanGranules aview1 0xFF 0 off n) ∧
    (let t := jobTile (rjob .canon true)
     tileFaulted (tiled 0x30000) t = true ∧ tileFaulted (tiled 0) t = false ∧ tileChecks (tiled 0) t = true ∧ tileChecks { tiled 0 with store := [(1025, 1)] } t = false ∧
     tileState (tiled 0) t = 0 ∧ tileState (tiled 0x10000) t ≠ 0 ∧ tileChecks (tiled 0x10000) t = true) ∧
    -- the destinations of RSLV, the image of STA, the other tile of AMOV and the codes of ASCL
    (∀ off n, off + n ≤ 32 * 32 * 1 → none ∉ spanGranules view0 0xFF 0 off n) ∧
    (let a : SAccess := { acc0 0 with act := .image 0 }
     [acc0 1, a] = [acc0 1] ++ a :: [] ∧ a.act = .image 0 ∧ ∀ b ∈ [acc0 1] ++ ([] : List SAccess), b.act ≠ .image 0) ∧
    (tileAddr (jobTile2 (rjob (.amov 0) true) 0) = tileAddr (jobTile (rjob (.amov 0) true)) ∧
     bytesMeet (viewAddr view0 0, 320) (tileRange (jobTile2 (rjob (.amov 0) true) 0)) = false) := by
  refine ⟨by decide, by decide, ⟨0, rjobSets (rjob .canon false), by decide, by decide +kernel⟩, by decide, by decide +kernel,
    ⟨by decide, span_inside aview1 0 _ (by decide) (by decide)⟩, by decide +kernel, span_inside view0 0 _ (by decide) (by decide), by decide, by decide +kernel⟩

/-- A job of two rows at this row of this pass. -/
def rjob2 (k : RKind) (row : Nat) (transform : Bool) : RJob := { rjob k true with h := 2, row := row, transform := transform }

-- Rows before the last of a check and of a transform; a job with no check pass; results apart from the tile.
theorem witness_ResolverJobs_rows :
    (let j := rjob2 .canon 0 false
     j.started = true ∧ j.transform = false ∧ j.row + 1 < j.h ∧ (∀ u ∈ namedTiles j, tileFaulted (tiled 0) u = false) ∧ checkedTile (tiled 0) j ≠ none ∧
     (rjob2 .canon 1 true).transform = true ∧ (rjob2 .canon 0 true).row + 1 < transformRows (tiled 0) (rjob2 .canon 0 true)) ∧
    (rjob (.aclr 0) true).row = 0 ∧ 0 < (rjob (.aclr 0) true).h ∧ checkedTile (tiled 0) (rjob (.aclr 0) true) = none ∧
    bytesMeet (viewAddr view0 0, 1024) (tileRange (jobTile (rjob .canon true))) = false ∧
    tileAddr (jobTile2 { rjob (.amov 1) true with aview := aview2 } 1) ≠ tileAddr (jobTile { rjob (.amov 1) true with aview := aview2 }) := by decide +kernel

/-- The lane of SCT that a mask of lane 63 alone leaves of them. -/
def onlyLast : List (Option Nat) := List.replicate 63 none ++ [some 0]

/-- S with g3 = v, an entry in w0 whose last lane alone is valid, and an index vector of zeros at 0x1000. -/
def sts (v : Word) (x : Ctx := {}) (eos : Bool := false) : State :=
  { stm .S (sq [(3, v), (5, 0x1000)]) { x with w := [(0, { entries := [{ data := 7, mask := 0x8000000000000000, eos := eos }] })], slots := [(1, hnd)], vview := view0 } with
    clusters := [(0, { granules := full16 })] }

theorem witness_StoresIssue : (sts 0).cur.2 = .S ∧
    effAddr (sts 8) (adr 3) % 16 ≠ 0 ∧ (curCtx (sts 0)).xres = [] ∧ storeRoom (sts 0) = true ∧ trackerHit (sts 0x100) 0x100 256 none = false ∧
    storeRoom (sts 0 { sacc := (List.range 32).map acc0 }) = false ∧
    (∃ ps, resolve (sts 0) 0x100 256 none { wr := true } = .ok ps) ∧ (∃ ps, resolve (sts 0) 0 256 (some 1) { wr := true } = .ok ps) ∧
    (∃ c q, resolve (sts 0) 0x100000000000000 256 none { wr := true } = .error (.cause c, q)) ∧
    ∃ c q, resolve (sts 0) 0 256 (some 2) { wr := true } = .error (.cause c, q) :=
  ⟨rfl, by decide, rfl, by decide, by decide, by decide, exists_of_okay (by decide +kernel), exists_of_okay (by decide +kernel), exists_of_stops (by decide +kernel),
    exists_of_stops (by decide +kernel)⟩

-- A slot that is absent, a page that is, and tokens of a walk.
theorem witness_StoresIssue_stops : tfind (curCtx (sts 0)).slots 2 = none ∧ (∃ q, resolve (stm .S (sq [])) 0x40000000 256 none { wr := true } = .error (.page, q)) ∧
    (∃ dm q, resolve { stm .S (sq []) with parts := [(0, poor)] } 0x100 256 none { wr := true } = .error (.busy dm, q)) ∧
    -- SCT: lanes behind a tracker entry, and lanes that cannot be translated; tokens
    lanesHit { sts 0 with cores := [(0, { getCore (sts 0) 0 with tracker := [{ ranges := [(0, 16)], acc := none, ticket := none, serial := 1 }] })] } 0 none onlyLast = true ∧
    demandReady (sts 0) (lanesDemand (sts 0) 0x1000 0 none onlyLast) = true ∧ demandReady { sts 0 with parts := [(0, poor)] } [(0, 1)] = false ∧
    ∃ k q, resolveLanes (sts 0) 0x200000000000000 none { wr := true } onlyLast 0 = .error (.cause k, q) :=
  ⟨by decide, exists_of_pages (by decide +kernel), exists_of_lacks (by decide +kernel), by decide +kernel, by decide +kernel, by decide +kernel, exists_of_stops (by decide +kernel)⟩

-- STQ and SCT: an empty queue, an entry with one valid lane, an end of stream; the index vector and the lanes' accesses.
theorem witness_StoresIssue_queues :
    (getW (curCtx (sts 0)) 1).entries = [] ∧ (getW (curCtx (sts 0)) 0).entries = [{ data := 7, mask := 0x8000000000000000, eos := false }] ∧
    (getW (curCtx (sts 0 {} true)) 0).entries = [{ data := 7, mask := 0x8000000000000000, eos := true }] ∧
    maskBit 0x8000000000000000 63 = true ∧ maskBit 0x8000000000000000 62 = false ∧
    (rd (sts 0) 5).toNat % 16 = 0 ∧ (rd (sts 8) 3).toNat % 16 ≠ 0 ∧ baseAddr (sts 0) { gb := 3, off := 0, slot := none } % 4 = 0 ∧
    baseAddr (sts 2) { gb := 3, off := 0, slot := none } % 4 ≠ 0 ∧ lanesHit (sts 0) 0 none onlyLast = false := by decide +kernel

theorem witness_StoresIssue_scatter : (∃ ips, resolve (sts 0) 0x1000 256 none { rd := true } = .ok ips) ∧
    (∃ idx, readIndices (sts 0) 0x1000 = .ok idx ∧ (idx == zeros) = true) ∧ ∃ lanes, resolveLanes (sts 0) 0 none { wr := true } onlyLast 0 = .ok lanes :=
  ⟨exists_of_okay (by decide +kernel), exists_of_okWith (by decide +kernel), exists_of_okay (by decide +kernel)⟩

-- STS at the edges of the aperture, STA with and without a place at the resolver, and atomics with and without a store before them.
theorem witness_StoresIssue_atomics :
    ((0x101 : Nat) % sfmtBytes .i16 ≠ 0 ∧ 0x102 % sfmtBytes .i16 = 0 ∧ inAperture 0xFF000000000000 = true ∧ sfmtBytes .n16 < 4 ∧ 4 ≤ sfmtBytes .n32) ∧
    ((curCtx (sts 0)).rjobs.length < 8 ∧ 8 ≤ (curCtx (sts 0 { rjobs := List.replicate 8 (rjob .canon false) })).rjobs.length) ∧
    (AKind.rel = .rel ∨ AKind.rel = .full) ∧ allVisible (sts 0 { sacc := [acc0 0] }) 0 .clus = false ∧ allVisible (sts 0) 0 .clus = true ∧
    deviceAtomic 0x40 = true ∧ deviceAtomic 0x8 = false ∧ inAperture (apertureBase + 0x40) = true := by decide +kernel

theorem witness_StoresIssue_images : (∃ ps, resolve (sts 0) 0 (16 + 12 * 257 * 2) (some 1) { wr := true } = .ok ps) ∧
    ∃ ps, resolve (sts 0) 0x104 4 none { rd := true, wr := true } = .ok ps := ⟨exists_of_okay (by decide +kernel), exists_of_okay (by decide +kernel)⟩

/-- A word of memory at virtual 0x104 that holds 5, and an atomic addition of 3 to it; a store of one byte; a store to a lost word. -/
def wordPiece (n : Nat) : Piece := { loc := .dram 0x40000100 false false 0 0, addr := 0x100, first := 4, count := n, pos := 0 }
def atom (op : AtomOp) : SAccess :=
  { acc0 0 with act := .atomic op 32 true none 3 5 4 false none, pieces := [wordPiece 4] }
def byteStore : SAccess := { acc0 0 with act := .store [9] [], pieces := [wordPiece 1] }
def tokenAdd : SAccess := { acc0 0 with act := .token .core 4, pieces := [] }
def stp (a : SAccess) (lost : List Nat := []) : State := { stm .S (sq []) { sacc := [a], vview := view0 } [(0x40000104, 5)] with lostWords := lost }

theorem storePart_byteStore (s : State) : storePart s byteStore = [wordPiece 1] := by
  unfold storePart
  simp [byteStore, acc0, openPieces]

theorem witness_StoresPerformed : (getCtx (stp byteStore) 0).sacc[(0 : Nat)]? = some byteStore ∧ isToken byteStore = false ∧ isAtomic byteStore = false ∧
    performable (stp byteStore) 0 [] byteStore = true ∧ performable (stp byteStore) 0 [acc0 0, { byteStore with num := 1 }] byteStore = false ∧
    storePart (stp byteStore) byteStore = [wordPiece 1] ∧ tokensReady (stp byteStore) [wordPiece 1] = true ∧ writeWaits (stp byteStore) [wordPiece 1] = false ∧
    tokensReady { stp byteStore with parts := [(0, poor)] } [wordPiece 1] = false ∧
    (∀ p ∈ byteStore.pieces, ∀ o, p.loc ≠ .device o) ∧ storeFault (stp byteStore) [wordPiece 1] (dramCells [wordPiece 1] fun _ => 9) false = none ∧
    (∃ k g, storeFault (stp byteStore [0x1000004]) [wordPiece 1] (dramCells [wordPiece 1] fun _ => 9) false = some (k, g)) ∧
    -- the key of the line, the canonical memory, the cells
    ((∀ p ∈ byteStore.pieces, ∀ pa layout mire key part, p.loc = .dram pa layout mire key part →
        tagFor (stp byteStore) part key ∈ [none, some { key := 1, integrity := 0 }] ∧ tfind (stp byteStore).lineTags (placed pa layout / 64) ∈ [none, some { key := 1, integrity := 0 }]) ∧
      MemoryCanonical (stp byteStore) ∧ ((dramCells [wordPiece 1] fun _ => 9).map (·.1)).Nodup ∧ wordLost (stp byteStore) 0x40000104 = false) ∧
    -- the granule of a store to a pool
    ((acc0 0).pieces = [] ++ { loc := .sram 0 8 0, addr := 0, first := 0, count := 1, pos := 0 } :: [] ∧ performable (stp (acc0 0)) 0 [] (acc0 0) = true ∧
      storeFault (stp (acc0 0)) (acc0 0).pieces (dramCells (acc0 0).pieces fun _ => 0) false = none) ∧
    -- the atomic
    (32 ∈ [16, 32, 64] ∧ (wordPiece 4).count = 32 / 8 ∧ (wordPiece 4).first + (wordPiece 4).count ≤ 16 ∧ placed 0x40000100 false % 16 = 0 ∧
      performable (stp (atom .add)) 0 [] (atom .add) = true ∧ tokensReady (stp (atom .add)) [wordPiece 4] = true ∧ writeWaits (stp (atom .add)) [wordPiece 4] = false ∧
      (readDram (stp (atom .add)) (homeOf (placed 0x40000100 false)) (placed 0x40000100 false) false 0 0 0).fault = none ∧
      (readDram (stp (atom .add)) (homeOf (placed 0x40000100 false)) (placed 0x40000100 false) false 0 0 0).lost = false ∧
      storeFault (stp (atom .add)) [wordPiece 4] (dramCells [wordPiece 4] fun _ => 0) false = none) ∧
    -- TOKS
    (tokenAdd.act = .token .core 4 ∧ isToken tokenAdd = true ∧ askAcks (stp tokenAdd) 0 tokenAdd = stp tokenAdd ∧ performable (stp tokenAdd) 0 [] tokenAdd = true ∧
      (footprint (getCtx (stp tokenAdd) 0)).getLsbD 7 = true) ∧
    -- an update whose turn has come, one whose turn has not, and a later update of the same byte
    (let u : Update := { home := 1, stamp := 1, deps := [], cells := [(5, 9)] }
     let v : Update := { home := 1, stamp := 2, deps := [], cells := [(5, 8)] }
     let s : State := { dies := [(0, { inbox := [u, v] })] }
     (getDie s 0).inbox[(0 : Nat)]? = some u ∧ (getDie s 0).inbox[(1 : Nat)]? = some v ∧ (tget 0 (getDie s 0).clock u.home + 1 = u.stamp) ∧
     (∀ h, h < 4 → h ≠ u.home → u.deps.getD h 0 ≤ tget 0 (getDie s 0).clock h) ∧ (u.cells.map (·.1)).Nodup ∧ ¬ (tget 0 (getDie s 0).clock v.home + 1 = v.stamp) ∧
     ∃ r ∈ (getDie s 0).inbox.drop 1, ∃ b, (5, b) ∈ r.cells) := by
  refine ⟨rfl, rfl, rfl, by decide +kernel, by decide +kernel, storePart_byteStore _, by decide +kernel, by decide +kernel, by decide +kernel, ?_, by decide +kernel,
    ⟨0x20, 0x100, by decide +kernel⟩, ⟨?_, by unfold MemoryCanonical; decide +kernel, by decide +kernel, by decide +kernel⟩, ⟨rfl, by decide +kernel, by decide +kernel⟩,
    by decide +kernel, ⟨rfl, rfl, rfl, by decide +kernel, by decide +kernel⟩,
    ⟨rfl, rfl, by decide, by decide, by decide, by decide, _, List.mem_cons_self, 8, List.mem_cons_self⟩⟩
  · intro p hp o h
    rw [List.mem_singleton.mp hp] at h
    exact nomatch h
  · intro p hp pa layout mire key part h
    rw [List.mem_singleton.mp hp] at h
    cases h
    decide +kernel

/-- An access with one piece at this place. -/
def atPlace (act : SAct) (l : Loc) (n : Nat) : SAccess := { acc0 0 with act := act, pieces := [{ loc := l, addr := 0x100, first := 4, count := n, pos := 0 }] }
def addTo : SAct := .atomic .add 32 true none 3 5 4 false none
def scatterTo : SAct := .scatter (List.replicate 256 7)
/-- A pool whose granule 8 is as given. -/
def stPool (a : SAccess) (g : SramGranule) : State := { stp a with clusters := [(0, { granules := [(8, g)] })] }

-- Places of stores and atomics: a register of the device window, a pool, beyond a buffer, another package, a lost word; a scatter; a token outside the footprint.
theorem witness_StoresPerformed_places :
    (let a := atPlace (.store [9, 0, 0, 0] []) (.device 0x40) 4
     performable (stp a) 0 [] a = true ∧ isToken a = false ∧ a.parts = [] ∧ tokensReady (stp a) (unpaid a a.pieces) = true ∧ writeWaits (stp a) a.pieces = false) ∧
    (let a := atPlace scatterTo (.dram 0x40000100 false false 0 0) 4
     performable (stp a) 0 [] a = true ∧ tokensReady (stp a) (unpaid a a.pieces) = true ∧ a.pieces.length = 1 ∧ storeFault (stp a) a.pieces (dramCells a.pieces fun _ => 7) false = none ∧
     (dramCells a.pieces fun _ => (7 : Byte)).filter (·.1 == 0x40000104) = [(0x40000104, 7)] ∧
     ∃ k g, lowestFault (a.pieces.filterMap fun q => storeFault (stp a [0x1000004]) [q] (dramCells [q] fun _ => 7) false) = some (k, g)) ∧
    (let a := atPlace addTo (.sram 0 8 0) 4
     let got (g : SramGranule) := readLoc (stPool a g) 0 (.sram 0 8 0) 0
     performable (stPool a {}) 0 [] a = true ∧ (got {}).fault = none ∧ (got {}).lost = false ∧ (got { bad := true }).fault.isSome = true) ∧
    (let l (mire : Bool) : Loc := .dram 0x40000100 false mire 0 0
     let got (mire : Bool) := readLoc (stp (atPlace addTo (l mire) 4) [0x1000004]) 0 (l mire) 0
     (got true).lost = true ∧ (got true).fault = none ∧ (got false).fault.isSome = true) ∧
    performable (stp (atPlace addTo .beyond 4)) 0 [] (atPlace addTo .beyond 4) = true ∧
    performable (stp (atPlace addTo (.remote 1 0 false 0 0) 4)) 0 [] (atPlace addTo (.remote 1 0 false 0 0) 4) = true ∧
    performable (stp (atPlace addTo (.device 0x40) 4)) 0 [] (atPlace addTo (.device 0x40) 4) = true ∧
    ((footprint (getCtx (stm .S (sq []) { sacc := [tokenAdd] }) 0)).getLsbD 7 = false ∧ performable (stm .S (sq []) { sacc := [tokenAdd] }) 0 [] tokenAdd = true ∧
      (getCtx (stp tokenAdd) 0).tokenBad = false) := by
  refine ⟨by decide +kernel, ⟨by decide +kernel, by decide +kernel, rfl, by decide +kernel, by decide +kernel, 0x20, 0x100, by decide +kernel⟩, by decide +kernel, by decide +kernel, by decide +kernel,
    by decide +kernel, by decide +kernel, by decide +kernel⟩

/-- S with g3 = 0x100 and a record there. -/
def stRec (bytes : List Host.Cell) (x : Ctx := {}) : State :=
  { stm .S (sq [(3, 0x100)]) x bytes with groups := [(1, { members := [0], part := 0, top := 0, leaves := [] })] }

/-- A put of 256 bytes from virtual 0x1000 by group 1 under COLLID 5. -/
def putRecord : List Host.Cell := [(0x40000101, 1), (0x40000104, 5), (0x40000111, 1), (0x40000119, 16)]

/-- An atomic that has not returned its value. -/
def unreturned : SAccess := { acc0 0 with act := .atomic .add 64 true none 1 0 4 true none }
/-- S's die has applied S's own stores to the record at 0x100. -/
def own (s : State) (n : Nat) : State := ownStoresSeen s 0x100 n

theorem witness_Fences :
    (let s := stRec [] { sacc := [acc0 0] }
     s.cur.2 = .S ∧ acc0 0 ∈ (curCtx s).sacc ∧ visibleAt s 0 .die (acc0 0) = false) ∧ (curCtx (stRec [])).sacc = [] ∧
    (unreturned.performed = false ∧ unreturned.act = .atomic .add 64 true none 1 0 4 true none) ∧
    -- BFEN: a job that runs, one whose writes are not seen everywhere, and nothing
    (let j : BmvJob := parseBmv ⟨0, .S, 0, 1, 0, 9, 0, 0⟩ 0
     let s := { stRec [] { bmvJobs := [9] } with dies := [(0, { bmv := [j] })] }
     bmvPending s 0 = true) ∧ bmvPending (stRec []) 0 = false ∧ stampsVisible (stRec []) 0 .pkg [1] = false ∧ stampsVisible (stRec []) 0 .die [] = true ∧
    -- records: misaligned, held back by an atomic, unreadable
    effAddr (stRec []) (adr 3 32) % 64 ≠ 0 ∧ effAddr (stRec []) (adr 3) % 64 = 0 ∧ recordHeld (stRec [] { sacc := [unreturned] }) 0x100 64 = true ∧
    recordHeld (stRec [] { sacc := [unreturned] }) 0x100 256 = true ∧ recordHeld (stRec []) 0x100 64 = false ∧ recordHeld (stRec []) 0x100 256 = false ∧
    (curCtx (stRec [] { joinWait := some ([], 0) })).joinWait ≠ none ∧
    (∃ c g, readRecord (own { stRec [] with lostWords := [0x1000004] } 64) 0x100 64 = .error (.cause c, g)) ∧
    ∃ c g, readRecord (own { stRec [] with lostWords := [0x1000004] } 256) 0x100 256 = .error (.cause c, g) := by
  refine ⟨by decide, rfl, ⟨rfl, rfl⟩, by decide, by decide, by decide, by decide, by decide, by decide, by decide, by decide, by decide +kernel, by decide +kernel, by decide,
    exists_of_stops (by decide +kernel), exists_of_stops (by decide +kernel)⟩

theorem witness_FencesAndStreams :
    -- BMV: a record of zeros is a job of 65,536 rows and columns in format 0; one with a misaligned address is bad; a tracked range
    (∃ r, readRecord (own (stRec []) 64) 0x100 64 = .ok r ∧ (!bmvBad r (parseBmv (newOwner (stRec [])) r)) = true) ∧
    (∃ r, readRecord (own (stRec [(0x40000100, 8)]) 64) 0x100 64 = .ok r ∧ bmvBad r (parseBmv (newOwner (stRec [(0x40000100, 8)])) r) = true) ∧
    (getCore (stRec []) 0).tracker = [] ∧
    (let s := { stRec [] with cores := [(0, { tracker := [{ ranges := [(0, 1)], acc := some (acc0 0), ticket := none, serial := 1, since := 0 }] })] }
     ((bmvReads (parseBmv (newOwner s) 0) ++ bmvRanges (parseBmv (newOwner s) 0)).any fun (b, n) => trackerHit s b n none) = true) ∧
    -- COLL: good, bad, and a full walker
    (∃ r, readRecord (own (stRec putRecord) 256) 0x100 256 = .ok r ∧
      (!collBad (stRec putRecord) 0 0 r (parseColl r) && !collTracked (stRec putRecord) (parseColl r) && (parseColl r).op == 0 && (parseColl r).collid == 5) = true) ∧
    (∃ r, readRecord (own (stRec []) 256) 0x100 256 = .ok r ∧ collBad (stRec []) 0 0 r (parseColl r) = true) ∧
    (getWalker (stRec []) 0 0).lastCollid = none ∧ queued (getWalker (stRec []) 0 0) < 8 ∧
    (∃ r, readRecord (own (stRec ((0x40000100, 1) :: putRecord)) 256) 0x100 256 = .ok r ∧
      (!collBad (stRec ((0x40000100, 1) :: putRecord)) 0 0 r (parseColl r) && (parseColl r).op != 0) = true) ∧ liveColl (stRec []) 5 = none ∧
    -- MCJ and MCA
    ((curCtx (stRec [])).joinWait = none ∧ joinBad (stRec []) [0, 0, 0, 0, 0, 0, 0, 0] = true ∧ joinBad (stRec []) [0x102, 0, 0, 0, 0, 0, 0, 0] = false) ∧
    ((curCtx (stm .L (sq []))).lacc = [] ∧ (curCtx (stm .L (sq []) { lacc := [flight []] })).lacc ≠ [] ∧ tfind (getLamp (stm .L (sq [])) 0 0).groups 0 = none) ∧
    -- the join of role 2, a live group, a local source that has sent and one that has not, and none
    (let m : McGroup := { source := true, streamId := 7, window := 1, members := 1, ack := 0, nextSeq := 1, dcore := 0, dslot := 0, delivered := 0, dropped := 0, ended := false }
     let s : State := { stRec [] { joinWait := some ([0x102], 4) } with dies := [(0, { lamps := [(0, { groups := [(1, m)] })] })] }
     (getCtx s 0).joinWait = some ([0x102], 4) ∧ partOfCore s 0 = some 0 ∧ (getSeq s 0 .S).halted = false ∧ tfind (getLamp s 0 0).groups 1 = some m ∧ m.ended = false ∧
     tfind (getLamp s 0 0).groups 2 = none ∧ localSource s 7 = some m ∧ 0 < m.nextSeq ∧ { m with nextSeq := 0 }.nextSeq = 0 ∧ localSource s 8 = none ∧ s.dsize ≤ 1 ∧
     (0x102 : Nat) % 2 ^ 2 = 2 ∧ 0x100 % 2 ^ 2 = 0 ∧ 0x101 % 2 ^ 2 = 1) := by
  refine ⟨exists_of_okWith (by decide +kernel), exists_of_okWith (by decide +kernel), rfl, by decide +kernel, exists_of_okWith (by decide +kernel),
    exists_of_okWith (by decide +kernel), by decide, by decide, exists_of_okWith (by decide +kernel), by decide, by decide +kernel, by decide, by decide +kernel⟩

/-- The source of stream 7 here, which has begun or not. -/
def begun7 (b : Bool) : McGroup := { source := true, streamId := 7, window := 1, members := 1, ack := 0, nextSeq := 1, dcore := 0, dslot := 0, delivered := 0, dropped := 0, ended := false, begun := b }
def stSource (m : McGroup) : State := { stRec [] with dies := [(0, { lamps := [(0, { groups := [(1, m)] })] })] }

-- Sources here and in another package, which have begun and have not; a fence at the package; jobs with a write that left it; pages that are absent.
theorem witness_FencesAndStreams_far :
    (localSource (stSource (begun7 true)) 7 = some (begun7 true) ∧ (begun7 true).begun = true ∧ (begun7 false).begun = false ∧ localSource (stRec []) 7 = none) ∧
    (let s : State := { stRec [] with far := [(7, { source := true, begun := true }), (8, { source := true }), (9, { members := [{ id := 4 }] })] }
     localSource s 7 = none ∧ (farStream s 7).source = true ∧ (farStream s 7).begun = true ∧ (farStream s 8).source = true ∧ (farStream s 8).begun = false ∧
     (farStream s 5).source = false ∧ (farStream s 9).members.any (·.id == 4) = true ∧ (farStream s 9).members.any (·.id == 5) = false) ∧
    Scope.pkg ≠ .dom ∧ (curCtx (stRec [] { bmvFar := true })).bmvFar = true ∧ (curCtx (stRec [])).bmvFar = false ∧
    (∃ q, readRecord { stRec [] with parts := [(0, part0)] } 0x40000000 64 = .error (.page, q)) ∧ ∃ dm q, readRecord { stRec [] with parts := [(0, poor)] } 0x100 64 = .error (.busy dm, q) :=
  ⟨by decide +kernel, by decide +kernel, by decide, by decide, by decide, exists_of_pages (by decide +kernel), exists_of_lacks (by decide +kernel)⟩

def owner0 : Owner := { core := 0, seq := .L, part := 0, serial := 1, ticket := 9, fpc := 0, parcels := 0 }

/-- A move of 128 bytes from virtual 0x100 to 0x1000, and an itinerary that holds one, with a stop cause where named. -/
def move1 (issued : Bool) (group hop : Nat) (landed : List Nat := []) : ItinEntry :=
  { hop := hop, mire := false, table := false, group := group, size := 128, src := 0x100, dst := if hop = 2 then 0 else 0x1000, slot := 1, dcore := 0, due := 5, watch := 0,
    issued := issued, issueCycle := 0, sequ := none, landed := landed, lateAt := none, complete := false, failed := false }
def itin (es : List ItinEntry) (ended : Bool := false) (stopped : Option StopInfo := none) : Itinerary :=
  { owner := owner0, addr := 0x100, win := [1, 1, 1], thresh := 0, pace := 0, entries := es, ended := ended, lost := false, stopped := stopped }
def stop0 : StopInfo := { cause := 0x19, eaddr := 0, fpc := 0, parcels := 0, imprecise := true }

/-- The live source of stream 7 as group 1, with an open or a closed window. -/
def source1 (next : Nat) : McGroup :=
  { source := true, streamId := 7, window := 1, members := 0, ack := 0, nextSeq := next, dcore := 0, dslot := 0, delivered := 0, dropped := 0, ended := false }

def stLamp (l : Lamp) (bytes : List Host.Cell := []) (mprog : Word := 0) : State :=
  { stm .L (sq []) { slots := [(1, hnd)], tickets := [(9, .running)] } bytes with
    dies := [(0, { lamps := [(0, l)] })],
    cores := [(0, { ctx := { seqL := sq [], slots := [(1, hnd)], tickets := [(9, .running)], cell := some cell0 }, mprog := mprog })] }

/-- Entry 0 is the one that may issue. -/
def maysOnly (it : Itinerary) (e : ItinEntry) : Prop :=
  it.entries[(0 : Nat)]? = some e ∧ e.issued = false ∧ (∀ o ∈ it.entries.take 0, o.hop = e.hop → o.issued = true) ∧
  it.entries.countP (fun o => o.hop == e.hop && o.issued && !o.complete) < it.win.getD e.hop 1

/-- Granule g of the only entry finds its source, its destination and tokens, and is written. -/
def landsWell (s : State) (it : Itinerary) (e : ItinEntry) (g : Nat) : Bool :=
  match engineResolve s 0 0 (e.src + 16 * g) 16 { rd := true } (hopTlb 0 e), entryTarget s 0 0 1 e (16 * g) 16 with
  | .ok src, .ok dst => okWith (engineSource s 0 src e.mire) fun gs =>
      let v := cacheAccess (cacheAccess s 0 0 (e.src + 16 * g) 16 (hopTlb 0 e)) 0 0 (e.dst + 16 * g) 16 (hopTlb 0 e)
      !wordWaits s dst && tokensReady s (src ++ dst) && !writeWaits s dst && (aliasFree s 0 0 it 0 src dst).all (! ·) && (firstBeyond dst).isNone &&
        okWith (writeAccess v dst (granuleBytes gs).1 (granuleBytes gs).2 .none true (clockVector v 0 [])) fun r => decide ((getLamp r.1 0 0).running = some it)
  | _, _ => false

theorem witness_LamplighterEvents :
    (blockHeld (stLamp {}) 0 0 = true ∧ blockHeld (stLamp {}) 1 0 = false) ∧
    -- the start: a good header, a bad one, one that waits and one that faults
    (let s := stLamp { waiting := [(owner0, 0x100)] } [(0x40000100, 1)]
     (getLamp s 0 0).waiting = (owner0, 0x100) :: [] ∧ (getLamp s 0 0).running = none ∧ lampRuns s 0 0 = true) ∧
    (∃ v, engineRead (stLamp {} [(0x40000100, 1)]) 0 0 0x100 64 { rd := true } = .ok v ∧ (!headerBad ((List.range 8).map (recWord v))) = true) ∧
    (∃ v, engineRead (stLamp {}) 0 0 0x100 64 { rd := true } = .ok v ∧ headerBad ((List.range 8).map (recWord v)) = true) ∧
    (∃ u, engineRead { stLamp {} with parts := [(0, poor)] } 0 0 0x100 64 { rd := true } = .wait u) ∧
    (∃ v c g, engineRead (stLamp {}) 0 0 0xFF000000000000 64 { rd := true } = .stop v c g) ∧
    -- issue
    (getLamp (stLamp { running := some (itin [move1 false 0 0]) }) 0 0).running = some (itin [move1 false 0 0]) ∧
    maysOnly (itin [move1 false 0 0]) (move1 false 0 0) ∧ maysOnly (itin [move1 false 1 2]) (move1 false 1 2) ∧
    entryTracked (stLamp {}) (itin [move1 false 0 0]) 0 = false ∧
    slotFor (stLamp {}) 0 1 1 = some hnd ∧ slotFor (stLamp {}) 0 1 2 = none ∧
    sourceGroup {} (move1 false 1 0) = none ∧ sourceGroup { groups := [(1, source1 0)] } (move1 false 1 0) = some (source1 0) ∧
    (windowOpen (stLamp { groups := [(1, source1 0)] }) (source1 0) (sequFor (itin [move1 false 1 0]) (source1 0) 1 0) = true ∧
      windowOpen (stLamp { groups := [(1, source1 1)] }) (source1 1) (sequFor (itin [move1 false 1 0]) (source1 1) 1 0) = false) ∧
    -- the next entry: the end, a move that is in time or late, a bad kind and a bad move
    (itin []).ended = false ∧ (∀ i : Nat, (itin []).entries[i]? = none) ∧
    (∃ v, engineRead (stLamp {} [(0x40000140, 2)]) 0 0 (0x100 + 64 * 1) 64 { rd := true } = .ok v ∧ (v == 2) = true) ∧
    (∃ v, engineRead (stLamp {} [(0x40000144, 128), (0x40000151, 16)]) 0 0 0x140 64 { rd := true } = .ok v ∧
      (v % 2 ^ 2 == 0 && !moveBad (stLamp {} [(0x40000144, 128), (0x40000151, 16)]) 0 0 ((List.range 8).map (recWord v)) &&
        (parseMove ((List.range 8).map (recWord v))).due == 0) = true) ∧
    (∃ v, engineRead (stLamp {}) 0 0 0x140 64 { rd := true } = .ok v ∧ (v % 2 ^ 2 == 0 && moveBad (stLamp {}) 0 0 ((List.range 8).map (recWord v))) = true) ∧
    (∃ v, engineRead (stLamp {} [(0x40000140, 3)]) 0 0 0x140 64 { rd := true } = .ok v ∧ (v % 2 ^ 2 == 3) = true) ∧
    -- the end: all complete, stopped, not yet
    (∀ e ∈ (itin [{ move1 true 0 0 with complete := true }] true).entries, e.complete = true) ∧ (itin [] false (some stop0)).stopped ≠ none ∧
    (itin [move1 true 0 0] true).entries = [move1 true 0 0] ∧ (move1 true 0 0).complete = false ∧
    tfind (getCtx (stLamp {}) 0).tickets 9 = some .running ∧
    -- a granule: one that lands, and one whose page is not there
    (partLive (stLamp {}) 0 = true ∧ (getDie (stLamp {}) 0).fenced = false ∧ 16 * 7 < (move1 true 0 0).size ∧ 7 ∉ (move1 true 0 0).landed ∧
      behindStall (itin [move1 true 0 0]) 0 0 = false) ∧
    landsWell { stLamp { running := some (itin [move1 true 0 0]) } with tlb := [{ tlb0 with owner := .hop 0 0 }] } (itin [move1 true 0 0]) (move1 true 0 0) 7 = true ∧
    (let e : ItinEntry := { move1 true 0 0 with src := 0x40000000 }
     (∃ u, moveBytes (stLamp { running := some (itin [e]) }) 0 0 (itin [e]) 0 e 0 16 = .wait u) ∧ moveStalls (stLamp { running := some (itin [e]) }) 0 0 e 0 16 = true) ∧
    -- lateness at its edge, and completion
    ((move1 true 0 0).due = 5 ∧ ¬ 5 < (getCore (stLamp {} [] 5) 0).mprog.toNat ∧ 5 < (getCore (stLamp {} [] 6) 0).mprog.toNat ∧
      16 * (move1 true 0 0 (List.range 8)).landed.length = 128 ∧ membersServed (stLamp {}) {} (move1 true 0 0) = true ∧ (move1 true 0 0).sequ = none) := by
  refine ⟨by decide, by decide +kernel, exists_of_tries (by decide +kernel), exists_of_tries (by decide +kernel), exists_of_waits (by decide +kernel), exists_of_trapped (by decide +kernel),
    rfl, by unfold maysOnly; decide +kernel, by unfold maysOnly; decide +kernel,
    by decide, by decide, by decide, by decide, by decide, by decide +kernel, rfl, fun i => rfl, exists_of_tries (by decide +kernel), exists_of_tries (by decide +kernel),
    exists_of_tries (by decide +kernel), exists_of_tries (by decide +kernel), by decide, by decide, rfl, rfl, rfl, by decide, by decide +kernel,
    ⟨exists_of_waits (by decide +kernel), by decide +kernel⟩, by decide⟩

-- An itinerary whose second entry is unread and past due; a next entry behind the tracker, one that cannot be read and one that waits; a granule that faults.
theorem witness_LamplighterEvents_unread :
    (unread (stLamp {} [(0x40000144, 128), (0x40000151, 16), (0x40000180, 2)] 1) 0 0 (itin []) ≠ [] ∧ 0 < (getCore (stLamp {} [] 1) 0).mprog.toNat) ∧
    (let s := { stLamp {} with cores := [(0, { tracker := [{ ranges := [(0x140, 64)], acc := none, ticket := none, serial := 1 }] })] }
     trackerHolds s owner0 0x140 64 = true ∧ trackerHolds (stLamp {}) owner0 0x140 64 = false) ∧
    (∃ u, engineRead { stLamp {} with parts := [(0, poor)] } 0 0 0x140 64 { rd := true } = .wait u) ∧
    (∃ v c g, engineRead { stLamp {} with lostWords := [0x1000005] } 0 0 0x140 64 { rd := true } = .stop v c g) ∧
    (let e : ItinEntry := { move1 true 0 0 with src := 0xFF000000000000 }
     ∃ v c g, moveBytes (stLamp { running := some (itin [e]) }) 0 0 (itin [e]) 0 e 0 16 = .stop v c g) ∧
    (({ itin [] with lateAhead := [(0, 0, 4)] } : Itinerary).lateAhead.find? (·.1 == 0)).map (·.2.2) = some 4 :=
  ⟨by decide +kernel, by decide +kernel, exists_of_waits (by decide +kernel), exists_of_trapped (by decide +kernel), exists_of_trapped (by decide +kernel), rfl⟩

/-- A card of core 0 that fills two rows of 16 bytes at virtual 0x200. -/
def card0 (row : Nat) : Card :=
  { owner := owner0, fill := true, swait := 0, mire := false, rows := 2, rowlen := 16, src := 0, dst := 0x200, sstride := 0, dstride := 16, pattern := 0x0102030405060708,
    regions := [(true, 0x200, 32)], started := true, row := row, off := 0, lost := false }
def stCard (c : Option Card) (waiting : List Card := []) (serial0 : Word := 0) : State :=
  { stm .L (sq []) { tickets := [(9, .running)] } with clusters := [(0, { card := c })], dies := [(0, { cards := [(0, waiting)] })], mgmt := { prqhead := serial0 } }

def bmv0 (m : Nat) : BmvJob :=
  { owner := { owner0 with seq := .S }, waddr := 0x200, xaddr := 0x300, yaddr := 0x400, stat := 0, m := m, k := 8, wfmt := 3, nv := 1, wrow := 16, xstr := 16, ystr := 16, row := 0, lost := [],
    nan := false, inf := false, stopped := none }
def stBmv (l : List BmvJob) (layout : Byte := 0) : State :=
  { stm .S (sq []) with dies := [(0, { bmv := l, mig := { base := 0x100000 } })], mem := (tables.take 4) ++ [(0x30000, 0x1F)] ++ (if layout = 0 then [] else [(0x30001, layout)]) ++ [(0x30003, 0x40)], tlb := [{ tlb0 with owner := .bank 0, leaf := 0x4000001F + (layout.setWidth 64) * 0x100 }] }

def member1 : McGroup :=
  { source := false, streamId := 7, window := 0, members := 0, ack := 0, nextSeq := 0, dcore := 0, dslot := 1, delivered := 3, dropped := 0, ended := false }
def stMember (slots : Table Handle) : State := { stm .L (sq []) { slots := slots } with dies := [(0, { lamps := [(0, { groups := [(1, member1)] })] })] }

theorem witness_CopyAndBankCompute :
    -- a card that starts
    (let s := stCard none [{ card0 0 with started := false }]
     (tget [] (getDie s 0).cards 0)[(0 : Nat)]? = some { card0 0 with started := false } ∧ partRuns s 0 = true ∧ (getDie s 0).fenced = false ∧
     (getCluster s (clusterOfCore owner0.core)).card = none ∧ (getCluster s 0).halted = false ∧ cardsOf s 0 0 = [{ card0 0 with started := false }] ∧ ticketBefore 9 9 = false) ∧
    -- a chunk in the middle and the last one, and a chunk that faults
    (let s := stCard (some (card0 0))
     (getCluster s 0).card = some (card0 0) ∧ (getCluster s 0).halted = false ∧ (getCluster s 0).stopInfo = none ∧ partLive s 0 = true ∧ (getDie s 0).fenced = false ∧
     min 256 ((card0 0).rowlen - (card0 0).off) = 16 ∧ (if (card0 0).rowlen ≤ (card0 0).off + 16 then (card0 0).row + 1 else (card0 0).row) ≠ (card0 0).rows ∧
     (if (card0 1).rowlen ≤ (card0 1).off + 16 then (card0 1).row + 1 else (card0 1).row) = (card0 1).rows) ∧
    (∃ r, cardChunk (stCard (some (card0 0))) 0 (card0 0) = .ok r ∧ tfind (getCtx r.1 0).tickets 9 = some .running) ∧ (∃ r, cardChunk (stCard (some (card0 1))) 0 (card0 1) = .ok r ∧ r.2.1 = false) ∧
    (∃ v k g, cardChunk (stCard none) 0 { card0 0 with dst := 0xFF000000000000 } = .stop v k g) ∧
    -- a row of a bank-compute job: the last and another; a term that is not finite
    (let l := [bmv0 1]
     (getDie (stBmv l) 0).bmv = l ∧ l[(0 : Nat)]? = some (bmv0 1) ∧ (bmv0 1).owner.core = 0 ∧ (bmv0 1).stopped = none ∧ 0 ∉ (getDie (stBmv l) 0).bmvHalted ∧ partLive (stBmv l) 0 = true) ∧
    (∃ r, bmvRow (stBmv [bmv0 1] 1) 0 (bmv0 1) = .ok r ∧ r.2.row = 1) ∧ (∃ r, bmvRow (stBmv [bmv0 2] 1) 0 (bmv0 2) = .ok r ∧ r.2.row = 1) ∧
    ((⟨0, 0, true, false⟩ : ANum), (⟨1, 0, false, false⟩ : ANum)).1.nv = true ∧
    -- a member: its next block, into a slot that is there, one that is not, and memory
    (tfind (getLamp (stMember [(1, hnd)]) 0 0).groups 1 = some member1 ∧ member1.source = false ∧ member1.ended = false ∧ member1.delivered ≤ 3 ∧
     debugHeld (stMember []) 0 = false ∧ tfind (getCtx (stMember [(1, hnd)]) 0).slots 1 = some hnd ∧ tfind (getCtx (stMember []) 0).slots 1 = none ∧
     firstBeyond (resolveBuffer 0 hnd (128 * 0) (16 * 16)) = none ∧
     okWith (writeAccess (stMember [(1, hnd)]) (resolveBuffer 0 hnd 0 256) (fun _ => 0) (fun _ => false) .none true (clockVector (stMember []) 0 [])) (fun _ => true) = true) ∧
    (∃ ps, engineResolve (stMember []) 0 0 0x1000 256 { wr := true } = .ok ps ∧ (firstBeyond ps).isNone = true) ∧
    ∃ v k a, engineResolve (stMember []) 0 0 0x100000000000000 256 { wr := true } = .stop v k a := by
  refine ⟨by decide, by decide, ?_, ?_, exists_of_trapped (by decide +kernel), by decide, ?_, ?_, rfl, by decide +kernel, exists_of_tries (by decide +kernel),
    exists_of_trapped (by decide +kernel)⟩
  · obtain ⟨r, h, g⟩ := exists_of_tries (r := cardChunk (stCard (some (card0 0))) 0 (card0 0)) (P := fun r => decide (tfind (getCtx r.1 0).tickets 9 = some .running)) (by decide +kernel)
    exact ⟨r, h, of_decide_eq_true g⟩
  · obtain ⟨r, h, g⟩ := exists_of_tries (r := cardChunk (stCard (some (card0 1))) 0 (card0 1)) (P := fun r => decide (r.2.1 = false)) (by decide +kernel)
    exact ⟨r, h, of_decide_eq_true g⟩
  · obtain ⟨r, h, g⟩ := exists_of_tries (r := bmvRow (stBmv [bmv0 1] 1) 0 (bmv0 1)) (P := fun r => decide (r.2.row = 1)) (by decide +kernel)
    exact ⟨r, h, of_decide_eq_true g⟩
  · obtain ⟨r, h, g⟩ := exists_of_tries (r := bmvRow (stBmv [bmv0 2] 1) 0 (bmv0 2)) (P := fun r => decide (r.2.row = 1)) (by decide +kernel)
    exact ⟨r, h, of_decide_eq_true g⟩

theorem witness_CopyAndBankCompute_waits :
    -- a card that fills reads nothing; a chunk that waits for tokens, a row that waits and one that faults
    (card0 0).fill = true ∧
    (∃ u, cardChunk { stCard (some (card0 0)) with parts := [(0, poor)] } 0 (card0 0) = .wait u) ∧
    (∃ u, bmvRow { stBmv [bmv0 1] 1 with parts := [(0, poor)] } 0 (bmv0 1) = .wait u) ∧
    (∃ v k g, bmvRow (stBmv [bmv0 1] 1) 0 { bmv0 1 with yaddr := 0xFF000000000000 } = .stop v k g) ∧
    -- a block: from another package, from a source here with no such entry in flight, and one whose page lacks tokens
    (let v : McBlock := { member := 1, sequ := 4, hop := 2, dst := 0, data := [(5, true)] }
     seqDone member1 4 = false ∧ (deliveryOf { stMember [] with far := [(7, { source := true, window := 5 })] } 7 v == some { hop := 2, dst := 0, granules := [(5, false)] }) = true ∧
     (deliveryOf (stMember []) 7 v).isNone = true ∧ (deliveryOf (stLamp { groups := [(1, { source1 0 with streamId := 7 })] }) 7 v).isNone = true) ∧
    writeWaits (stMember []) [] = false ∧
    -- the walk of its page lacks them, and a page whose leaf is kept
    (∃ u, engineResolve { stMember [] with parts := [(0, poor)] } 0 0 0x1000 16 { wr := true } (some (.receive 0)) = .wait u) ∧
    (∃ ps, engineResolve { stMember [] with parts := [(0, poor)], tlb := [{ tlb0 with owner := .receive 0 }] } 0 0 0x1000 16 { wr := true } (some (.receive 0)) = .ok ps ∧
      (!tokensReady { stMember [] with parts := [(0, poor)] } ps) = true) := by
  refine ⟨rfl, exists_of_waits (by decide +kernel), exists_of_waits (by decide +kernel), exists_of_trapped (by decide +kernel), by decide +kernel, by decide,
    exists_of_waits (by decide +kernel), exists_of_tries (by decide +kernel)⟩

/-- A job of this many rows whose writes have these stamps. -/
def bmvEnd (m : Nat) (stamps : List Nat) : BmvJob := { bmv0 m with stamps := stamps }

-- Rows that are inside a card's regions and outside them; jobs at their end, seen and unseen; machine faults of a delivery: a lost table entry, a partial store to a lost word.
theorem witness_CopyAndBankCompute_ends :
    (inRegions (card0 0) 0x200 16 16 true = true ∧ inRegions { card0 0 with regions := [] } 0x200 0 16 true = false) ∧
    stampsVisible (stBmv [bmvEnd 0 []]) 0 .core (bmvEnd 0 []).stamps = true ∧ stampsVisible (stBmv [bmvEnd 0 [0, 1]]) 0 .core (bmvEnd 0 [0, 1]).stamps = false ∧
    (getCtx (stm .S (sq []) { bmvJobs := [9] }) 0).bmvJobs = [(bmvEnd 0 []).owner.ticket] ∧ (getCtx (stBmv []) 0).bmvJobs = [] ∧
    (∃ u, engineResolve { stMember [] with parts := [(0, poor)] } 0 0 0x1000 16 { wr := true } (some (.receive 0)) = .wait u) ∧
    (∃ u k a, engineResolve { stMember [] with lostWords := [0xC00] } 0 0 0x1000 16 { wr := true } (some (.receive 0)) = .stop u k a ∧ k ∉ [0x12, 0x13, (0x14 : BitVec 8)]) ∧
    (∃ u k a, engineResolve (stMember []) 0 0 0x100000000000000 16 { wr := true } (some (.receive 0)) = .stop u k a ∧ k ∈ [0x12, 0x13, (0x14 : BitVec 8)]) ∧
    ∃ k, writeAccess { stMember [] with lostWords := [0x1000000] } (physPieces 0x40000000 16 0 0) (fun _ => 0) (fun _ => false) .none true [] = .error k :=
  ⟨by decide, by decide, by decide, rfl, rfl, exists_of_waits (by decide +kernel), exists_of_trappedBy (by decide +kernel), exists_of_trappedBy (by decide +kernel),
    exists_of_not_okay (by decide +kernel)⟩

/-! Collectives, the fabric and the gatherer -/

/-- A record of one block of 256 bytes from virtual 0x2000 to 0x1000. -/
def rec0 (op : Nat) (mire : Bool := true) (cen : Bool := false) (levels : List (Nat × Int × Int × Int) := []) : CollRec :=
  { op := op, rop := 0, mire := mire, int64 := false, order := false, group := 1, collid := 7, x := 0, timeout := 1, root := 0, len := 256, pbase := 0, src := 0x2000,
    dst := 0x1000, cnta := 0, stat := 0, cidx := 4, cen := cen, levels := levels }
def group1 : Group := { members := [0], part := 0, top := 9, leaves := [] }
/-- Two packages under two leaf switches. -/
def group2 : Group := { members := [0, 1], part := 0, top := 9, leaves := [(5, [0]), (6, [1])] }
def live1 (admitted : Bool) (op : Nat := 2) : LiveColl :=
  { group := 1, collid := 7, record := rec0 op, admitted := admitted, ends := [], firstContribution := none, allTimers := none, closed := 0, finished := false }
def wire1 (valid : Bool := true) : WireBlock := { collid := 7, blk := 0, count := 1, valid := valid, payload := [5] }
def job1 (op : Nat) (j : CollJob → CollJob := id) (levels : List (Nat × Int × Int × Int) := []) : CollJob :=
  j { owner := { owner0 with seq := .S }, record := rec0 op true false levels, admitted := true, block := 0, emitted := false, landed := [], lost := 0, failed := none, stopped := none, after := 0 }
def stColl (g : Group) (l : LiveColl) (out : List FabricOut := []) (jobs : List CollJob := []) (sw : Table Switch := []) : State :=
  { stm .S (sq []) with groups := [(1, g)], colls := [l], fabricOut := out, switches := sw, dies := [(0, { walkers := [(0, { jobs := jobs })] })], dsize := 2 }
/-- Block 0 in a context. -/
def swb (arrived : List Nat) (closed : Bool) (timer : Option Nat := none) (acc : List Int := []) : SwBlock :=
  { collid := 7, blk := 0, count := arrived.length, acc := acc, arrived := arrived, timer := timer, closed := closed }
/-- 1,024 contexts in use. -/
def fullSwitch : Switch := { live := List.replicate 1024 0 }

theorem witness_Admission :
    (let s := stColl group1 (live1 false)
     liveColl s 7 = some (live1 false) ∧ (live1 false).collid = 7 ∧ (live1 false).finished = false ∧ tfind s.groups (live1 false).group = some group1 ∧ (live1 false).group = 1 ∧
     (live1 false).admitted = false ∧ (∀ m ∈ group1.members, m = s.pkg) ∧ (∀ i ∈ group1.top :: group1.leaves.map (·.1), (tget {} s.switches i).live.length < 1024) ∧
     ∀ o ∈ s.colls, o.finished = false → o.admitted = false → o.collid.toNat < (7 : BitVec 32).toNat → False) ∧
    -- not admitted: no free context
    (9 ∈ group1.top :: group1.leaves.map (·.1) ∧ ¬ (tget {} (stColl group1 (live1 false) [] [] [(9, fullSwitch)]).switches 9).live.length < 1024) := by
  decide +kernel

theorem witness_Contributions :
    let s := stColl group1 (live1 true)
    (live1 true).admitted = true ∧ (live1 true).record.op = 2 ∧ totalBlocks (live1 true).record = 1 ∧ (wire1).collid = 7 ∧ (s.colls.find? fun o => o.collid == 7) = some (live1 true) ∧
    childrenOf group1 9 = [0] ∧ childrenOf group2 9 = [5, 6] ∧ childrenOf group2 5 = [0] ∧ childrenOf group2 6 = [1] ∧
    -- one of this package's that has not been sent and one that has, and one of another package
    (0 = s.pkg ∧ FabricOut.contribution 9 0 wire1 ∉ s.fabricOut ∧ FabricOut.contribution 9 0 wire1 ∈ (stColl group1 (live1 true) [.contribution 9 0 wire1]).fabricOut) ∧
    ¬ ((6 = group2.top ∧ group2.leaves ≠ []) ∨ 1 = s.pkg) ∧ ((9 = group2.top ∧ group2.leaves ≠ []) ∨ 5 = s.pkg) ∧
    -- a closed block, the first contribution, and the last one
    (switchBlock (tget {} (stColl group1 (live1 true) [] [] [(9, { blocks := [swb [0] true] })]).switches 9) 7 0).closed = true ∧
    ((switchBlock (tget {} s.switches 9) 7 0).closed = false ∧ (switchBlock (tget {} s.switches 9) 7 0).arrived = []) ∧
    (let k := switchBlock (tget {} (stColl group2 (live1 true) [.contribution 9 6 wire1] [] [(9, { blocks := [swb [5] false none [1, 2]] })]).switches 9) 7 0
     k.closed = false ∧ 6 ∉ k.arrived ∧ ∀ m ∈ childrenOf group2 9, m = 6 ∨ m ∈ k.arrived) ∧
    -- not full: the first of two children
    ¬ (∀ m ∈ childrenOf group2 9, m = 5 ∨ m ∈ (switchBlock (tget {} s.switches 9) 7 0).arrived) ∧
    -- a child whose contribution is there, a block within its limit and one past it
    (0 ∈ (swb [0] false (some 3)).arrived ∧ blockLimit s (live1 true) group1 9 (swb [0] false (some 3)) = some 1027 ∧ ¬ 1027 < s.cycle ∧
      blockLimit { s with cycle := 1028 } (live1 true) group1 9 (swb [0] false (some 3)) = some 1027 ∧ 1027 < { s with cycle := 1028 }.cycle) := by
  decide +kernel

theorem witness_Timers :
    (live1 true).record.mire = true ∧ 9 ∈ group1.top :: group1.leaves.map (·.1) ∧ timerOf (stColl group1 (live1 true)) (live1 true) group1 9 (swb [] false) = none ∧
    timerOf (stColl group1 (live1 true)) (live1 true) group1 9 (swb [0] false (some 3)) = some 3 ∧ timerOf (stColl group2 (live1 true)) { live1 true with allTimers := some 2 } group2 9 (swb [5] false (some 3)) = some 2 ∧
    timerOf (stColl group2 (live1 true)) { live1 true with allTimers := some 2 } group2 5 (swb [0] false (some 3)) = some 3 ∧
    (1 ∈ group2.members ∧ 1 ∉ (live1 true).ends ∧ 1 ≠ (stColl group2 (live1 true)).pkg) ∧ ((∀ m ∈ group2.members, m = 1 ∨ m ∈ [0]) ∧ ¬ ∀ m ∈ group2.members, m = 1 ∨ m ∈ ([] : List Nat)) ∧
    liveColl (stColl group2 { live1 true with firstContribution := some 4 }) 7 = some { live1 true with firstContribution := some 4 } := by
  decide +kernel

-- Before the first contribution, in the last cycle before its limit and in that of the limit.
theorem witness_Timers_limits : (live1 true).allTimers = none ∧ (live1 true).firstContribution = none ∧ { live1 true with allTimers := some 2 }.allTimers = some 2 ∧
    (let c := { live1 true with firstContribution := some 4 }
     c.firstContribution = some 4 ∧ 4 + 2 * c.record.timeout * 1024 = 2052 ∧ allTimersOf { stColl group2 c with cycle := 2051 } c = none ∧
     allTimersOf { stColl group2 c with cycle := 2052 } c = some 2052) := by decide +kernel

/-- A bound of two transfers. -/
def twice : List (Nat × Int × Int × Int) := [(2, 0, 256, 256)]

theorem witness_Emission :
    (let s := stColl group1 (live1 true) [] [job1 2]
     (getWalker s 0 0).jobs[(0 : Nat)]? = some (job1 2) ∧ (job1 2).emitted = false ∧ (job1 2).failed = none ∧ tfind s.groups (job1 2).record.group = some group1 ∧
     (getWalker s 0 0).halted = false ∧ partLive s 0 = true ∧ (getDie s 0).fenced = false ∧ (job1 2).admitted = true ∧ earlierSeen s (job1 2) = true) ∧
    (let s := stColl group1 (live1 true) [] [job1 2 fun j => { j with admitted := false }]
     ((getWalker s 0 0).jobs[(0 : Nat)]?).map (·.admitted) = some false ∧ (job1 2).record.op ≠ 0) ∧
    ((job1 1 fun j => { j with record := { j.record with root := 1 } }).record.root ≠ (stColl group1 (live1 true)).pkg) ∧
    (∃ r, readBlock (stColl group1 (live1 true) [] [job1 2]) 0 (job1 2) 0 [] = .ok r ∧ r.2.valid = true) ∧
    (let s := stColl group1 (live1 true) [] [job1 0]
     peerOf s (rec0 0) 0 ∈ group1.members ∧ peerOf s (rec0 0) 0 = s.pkg ∧ endpointSram (rec0 0).dst = none) ∧
    (∃ r, putTarget (stColl group1 (live1 true) [] [job1 0]) 0 group1.part (zextI (((rec0 0).dst.toNat % 2 ^ 56 : Nat) + dstDisp (rec0 0) 0) 64) = .ok r ∧
      (putBlock (stColl group1 (live1 true) [] [job1 0]) r.1 0 0x1000 r.2.1 wire1 false fun _ => false).2 = false) ∧
    -- a destination that fails, another package with a route and without one, and an emission that is the queue's turn
    (∃ v k m, putTarget (stColl group1 (live1 true) [] [job1 0]) 0 group1.part 0xFF000000000000 = .stop v k m) ∧
    (routed { stColl group2 (live1 true) with mgmt := { ports := [2], routes := [(2, 1)] } } 1 = true ∧ routed (stColl group2 (live1 true)) 1 = false) ∧
    otherFirst (stColl group1 (live1 true) [] [job1 2]) 0 0 = false ∧
    totalBlocks (rec0 2 true false twice) = 2 ∧
    -- completion: a failed job and one whose block has landed, after one that is not over
    (let k := job1 2 fun j => { j with emitted := true, landed := [0] }
     let s := stColl group1 (live1 true) [] [job1 2, k]
     (getWalker s 0 0).jobs = [job1 2] ++ k :: [] ∧ (∀ o ∈ [job1 2], collOver o = false) ∧ partLive s 0 = true ∧ allInstalled s = true ∧ k.record.stat = 0 ∧
     k.emitted = true ∧ totalBlocks k.record ≤ k.landed.length) ∧
    (∃ r, (job1 2 fun j => { j with failed := some 3 }).failed = some r ∧ r ≠ 0) ∧ (rec0 2 true true).cen = true := by
  refine ⟨by decide +kernel, by decide +kernel, by decide, ?_, by decide +kernel, ?_, exists_of_trapped (by decide +kernel), by decide +kernel, by decide +kernel, by decide,
    by decide +kernel, ⟨3, rfl, by decide⟩, rfl⟩
  · exact exists_of_tries (P := fun r : State × WireBlock => r.2.valid) (by decide +kernel)
  · obtain ⟨r, h, g⟩ := exists_of_tries (r := putTarget (stColl group1 (live1 true) [] [job1 0]) 0 group1.part (zextI (((rec0 0).dst.toNat % 2 ^ 56 : Nat) + dstDisp (rec0 0) 0) 64))
      (P := fun r => decide ((putBlock (stColl group1 (live1 true) [] [job1 0]) r.1 0 0x1000 r.2.1 wire1 false fun _ => false).2 = false)) (by decide +kernel)
    exact ⟨r, h, of_decide_eq_true g⟩

theorem witness_Emission_waits :
    -- another partition's queue is first, and none is; a block whose page lacks tokens, and one that cannot be read
    (let s := { stColl group1 (live1 true) with dies := [(0, { walkers := [(0, { jobs := [job1 2] }), (1, { jobs := [job1 2] })] })] }
     (getWalker s 0 1).jobs[(0 : Nat)]? = some (job1 2) ∧ (job1 2).emitted = false ∧ otherFirst s 0 1 = true ∧ otherFirst s 0 0 = false) ∧
    (∃ u, emitBlock { stColl group1 (live1 true) with parts := [(0, poor)] } 0 (job1 2 fun j => { j with record := { j.record with src := 0x1000 } }) group1 = .wait u) ∧
    (∃ v k a, emitBlock (stColl group1 (live1 true) [] [job1 2]) 0 (job1 2 fun j => { j with record := { j.record with src := 0x00FF000000000000 } }) group1 = .stop v k a) ∧
    -- a job that a reset in another member's package may end, and one that it may not
    (abortable (stColl group2 (live1 true)) (job1 2 fun j => { j with record := { j.record with mire := false } }) = true ∧
      collOver (job1 2 fun j => { j with record := { j.record with mire := false } }) = false ∧ abortable (stColl group2 (live1 true)) (job1 2) = false) ∧
    (∃ u, writeStatus (stColl group1 (live1 true)) 0 (job1 2) = .ok u) := by
  refine ⟨by decide +kernel, exists_of_waits (by decide +kernel), exists_of_trapped (by decide +kernel), by decide, ?_⟩
  obtain ⟨u, h, -⟩ := exists_of_tries (r := writeStatus (stColl group1 (live1 true)) 0 (job1 2)) (P := fun _ => true) (by decide +kernel)
  exact ⟨u, h⟩

/-- A PUT of one block by group 2, whose peer is in another package, as a job that has left its queue or not. -/
def put2 (emitted : Bool) (j : CollJob → CollJob := id) : CollJob := j (job1 0 fun j => { j with emitted := emitted })

-- An emission behind a queue that is ready; places of a PUT that are no one's; a package without ports; a status word that waits and one that faults; what has left and is awaited.
theorem witness_Emission_more :
    (let s := { stColl group1 (live1 true) with dies := [(0, { walkers := [(0, { jobs := [job1 2] }), (1, { jobs := [job1 2] })] })] }
     tries (emitBlock s 0 (job1 2) group1) (fun _ => true) = true) ∧
    (0 ∉ ({ group1 with members := [1] } : Group).members ∧ (endpointSram (2 ^ 63 : BitVec 64)).isSome = true) ∧
    ({ stColl group1 (live1 true) with mgmt := { ports := [2] } }.mgmt.ports ≠ [] ∧ (stColl group1 (live1 true)).mgmt.ports = []) ∧
    (partLive { stColl group1 (live1 true) with parts := [] } 0 = false ∧
      allInstalled { stColl group1 (live1 true) with dies := [(1, { inbox := [{ home := 0, stamp := 1, deps := [], cells := [] }] })] } = false) ∧
    (∃ u, writeStatus { stColl group1 (live1 true) with parts := [(0, poor)] } 0 (job1 2 fun j => { j with record := { j.record with stat := 0x1000 } }) = .wait u) ∧
    (∃ v k a, writeStatus (stColl group1 (live1 true)) 0 (job1 2 fun j => { j with record := { j.record with stat := 0x00FF000000000000 } }) = .stop v k a) ∧
    ([job1 2, put2 true].find? putOut = some (put2 true) ∧ (∀ o ∈ [job1 2, put2 true], collOver o = false) ∧ [job1 2].find? putOut = none) ∧
    [put2 false].find? (abortable (stColl group2 (live1 true))) = none := by
  refine ⟨by decide +kernel, by decide +kernel, by decide, by decide, exists_of_waits (by decide +kernel), exists_of_trapped (by decide +kernel), by decide, by decide⟩

theorem witness_Delivery :
    (let s := stColl group1 (live1 true) [.result wire1] [job1 2]
     debugHeld s 0 = false ∧ receiver s 0 wire1 = some (0, job1 2) ∧ tfind s.groups (job1 2).record.group = some group1 ∧
     takeBlock s (job1 2).record wire1 = some { s with fabricOut := [] } ∧ (job1 2).record.mire = true ∧ partLive s 0 = true ∧ (getDie s 0).fenced = false) ∧
    (∃ v, deliverBlock (stColl group1 (live1 true) [] [job1 2]) 0 (job1 2) group1 wire1 true = .ok v ∧ (getDie v 0).fenced = false) ∧
    (∃ u, deliverBlock { stColl group1 (live1 true) [] [job1 2] with parts := [(0, poor)] } 0 (job1 2) group1 wire1 false = .wait u) ∧
    (let j := job1 2 fun j => { j with record := { j.record with dst := 0x00FF000000000000 } }
     ∃ v k a, deliverBlock (stColl group1 (live1 true) [] [j]) 0 j group1 wire1 false = .stop v k a) ∧
    -- the last block of a broadcast
    ((job1 1).record.op = 1 ∧ totalBlocks (job1 1).record ≤ (job1 1).landed.length + 1 ∧
      takeBlock (stColl group1 (live1 true 1) [.data wire1]) (job1 1).record wire1 = some (stColl group1 (live1 true 1))) ∧
    ((rec0 2).op = 2 ∧ (rec0 2).int64 = false ∧ { (wire1) with payload := List.replicate 64 (-3) }.payload.length = 64) := by
  refine ⟨by decide +kernel, ?_, exists_of_waits (by decide +kernel), exists_of_trapped (by decide +kernel), by decide +kernel, by decide⟩
  obtain ⟨r, h, g⟩ := exists_of_tries (r := deliverBlock (stColl group1 (live1 true) [] [job1 2]) 0 (job1 2) group1 wire1 true)
      (P := fun v => decide ((getDie v 0).fenced = false)) (by decide +kernel)
  exact ⟨r, h, of_decide_eq_true g⟩

/-- A live broadcast from here with an admitted context, and its block in flight. -/
def bcast (c : LiveColl → LiveColl := id) (out : List FabricOut := [.data wire1]) : State := stColl group1 (c (live1 true 1)) out

-- A broadcast block that no job takes, the last flit and one before it; a PUT block of another package that lands, that waits, whose tokens are not there and that cannot.
theorem witness_Delivery_more :
    (receiver (bcast) 0 wire1 = none ∧ (liveColl (bcast) wire1.collid).map (·.record.op) = some 1 ∧ wire1.blk < totalBlocks (live1 true 1).record ∧
      takeBlock (bcast) (live1 true 1).record wire1 = some (bcast id [])) ∧
    ((live1 true 1).cut.getD (totalBlocks (live1 true 1).record) ≤ [wire1.blk].length ∧ [wire1.blk].length < ({ live1 true 1 with cut := some 2 } : LiveColl).cut.getD 0) ∧
    (let s := { stColl group1 (live1 true) with dsize := 2 }
     tfind s.groups 1 = some group1 ∧ s.pkg ∈ group1.members ∧ 1 < s.dsize ∧ diesOf s 0 = [0]) ∧
    (∃ r, putTarget (stColl group1 (live1 true)) 0 0 0x1000 = .ok r ∧ demandReady (stColl group1 (live1 true)) (addDemand r.2.2 [(fabricBucket 0 r.1, flitTokens)]) = true) ∧
    demandReady { stColl group1 (live1 true) with parts := [(0, { part0 with buckets := [(3, { rateNow := 1 })] })] } [(fabricBucket 0 0, flitTokens)] = false ∧
    (∃ u, putTarget (stColl group1 (live1 true)) 0 0 0x40000000 = .wait u) ∧ ∃ v k a, putTarget (stColl group1 (live1 true)) 0 0 0xFF000000000000 = .stop v k a := by
  refine ⟨by decide +kernel, by decide, by decide, ?_, by decide +kernel, exists_of_waits (by decide +kernel), exists_of_trapped (by decide +kernel)⟩
  obtain ⟨r, h, g⟩ := exists_of_tries (r := putTarget (stColl group1 (live1 true)) 0 0 0x1000)
    (P := fun r => demandReady (stColl group1 (live1 true)) (addDemand r.2.2 [(fabricBucket 0 r.1, flitTokens)])) (by decide +kernel)
  exact ⟨r, h, g⟩

/-- A vector load of queue 0 with one remote granule in a class. -/
def remote1 (mire : Bool) : LAccess :=
  { dest := .queue 0, pieces := [{ loc := .remote 1 0 mire 0 0, addr := 0x4000, first := 0, count := 16, pos := 0 }], fe := .none, fpc := 0x10, parcels := 0 }
def stRemote (mire : Bool) : State := stm .L (sq []) { lacc := [remote1 mire] }
/-- Unit 0 of the fabric window maps a frame of partition 0 for reading and writing. -/
def stExport (granted : Bool) : State :=
  { stm .L (sq []) {} [] with mem := [(0x500, 7), (0x503, 0x40)], mgmt := { expbase := 0x500, exports := if granted then [0] else [] } }

theorem witness_LostFlits :
    ((getCtx (stRemote true) 0).lacc = remote1 true :: [] ∧ (remote1 true).dest = .queue 0 ∧ (∃ p ∈ (remote1 true).pieces, ∃ k off part die, p.loc = .remote k off true part die)) ∧
    ((getCtx (stRemote false) 0).lacc = remote1 false :: [] ∧ ∃ p ∈ (remote1 false).pieces, ∃ k off part die, p.loc = .remote k off false part die) :=
  ⟨⟨rfl, rfl, _, List.mem_singleton.mpr rfl, 1, 0, 0, 0, rfl⟩, rfl, _, List.mem_singleton.mpr rfl, 1, 0, 0, 0, rfl⟩

theorem witness_RemoteAccess :
    exportTarget (stExport false) 0 true = none ∧ exportTarget (stExport true) 0 true = some (0, 0, 0x40000000) ∧ exportTarget (stExport true) 0xFFFF false = some (0, 0, 0x40000000) ∧
    exportTarget (stExport true) 0x10000 false = none ∧ exportTarget (stExport true) (2 ^ 34) false = none ∧ debugHeld (stExport true) 0 = false ∧
    -- ready, and not for want of the fabric bucket's tokens or of the memory's
    (let ps := physPieces 0x40000000 16 0 0
     tokensReady (stExport true) ps = true ∧ bucketReady (stExport true) (fabricBucket 0 0) flitTokens = true ∧ writeWaits (stExport true) ps = false ∧
     bucketReady { stExport true with parts := [(0, { part0 with buckets := [(3, { rateNow := 1 })] })] } (fabricBucket 0 0) flitTokens = false ∧
     tokensReady { stExport true with parts := [(0, poor)] } ps = false) ∧
    (let v := takeBucket (keepExport (stExport true) 0) (fabricBucket 0 0) flitTokens
     ∃ r, writeAccess v (physPieces 0x40000000 16 0 0) (fun i => (List.replicate 16 (5 : Byte)).getD i 0) (fun _ => false) .none false (clockVector v 0 []) = .ok r) ∧
    (let v := takeBucket (keepExport (stExport true) 0) (fabricBucket 0 0) flitTokens
     ∃ r, readAccess v 0 (physPieces 0x40000000 16 0 0) = .ok r ∧ ∀ i, i < 16 → r.2 i = false) ∧
    (let v := takeBucket (keepExport { stExport true with lostWords := [0x1000000] } 0) (fabricBucket 0 0) flitTokens
     ∃ k, readAccess v 0 (physPieces 0x40000000 16 0 0) = .error k) ∧
    -- a partial store to a lost word
    (let v := takeBucket (keepExport { stExport true with lostWords := [0x1000000] } 0) (fabricBucket 0 0) flitTokens
     ∃ k, writeAccess v (physPieces 0x40000000 16 0 0) (fun i => (List.replicate 16 (5 : Byte)).getD i 0) (fun _ => false) .none false (clockVector v 0 []) = .error k) := by
  refine ⟨by decide +kernel, by decide +kernel, by decide +kernel, by decide +kernel, by decide +kernel, by decide, by decide +kernel, exists_of_okay (by decide +kernel), ?_,
    exists_of_not_okay (by decide +kernel), exists_of_not_okay (by decide +kernel)⟩
  obtain ⟨r, h, g⟩ := exists_of_okWith (r := readAccess (takeBucket (keepExport (stExport true) 0) (fabricBucket 0 0) flitTokens) 0 (physPieces 0x40000000 16 0 0))
    (P := fun r => (List.range 16).all fun i => !r.2 i) (by decide +kernel)
  exact ⟨r, h, fun i hi => by simpa using List.all_eq_true.mp g i (List.mem_range.mpr hi)⟩

-- The demand of an access that is ready, and not; a read that meets a lost byte of a page with MIRE.
theorem witness_RemoteAccess_demand :
    (let ps := physPieces 0x40000000 16 0 0
     let dm (s : State) := addDemand (tokensOf s ps) [(fabricBucket 0 0, flitTokens)]
     demandReady (stExport true) (dm (stExport true)) = true ∧
     demandReady { stExport true with parts := [(0, poor)] } (dm { stExport true with parts := [(0, poor)] }) = false) ∧
    (let s := { stExport true with lostWords := [0x1000000] }
     (firstFault (physPieces 0x40000000 16 0 0) (readHomes s 0 (physPieces 0x40000000 16 0 0) 0)).isSome = true) ∧
    (∀ i, i < 16 → accessLost (physPieces 0x40000000 16 0 0) (readHomes (stExport true) 0 (physPieces 0x40000000 16 0 0) 0) i = false) :=
  ⟨by decide +kernel, by decide +kernel, by decide +kernel⟩

/-- A gatherer context with one request in a ring at virtual 0x3000: batches of count rows of 128 bytes in one buffer at stripe 0 of cluster 0. -/
def gath (count : Nat) (tail : BitVec 16 := 1) : Gatherer :=
  { ring := 0x3000, logsize := 4, en := true, tail := tail, cfg := BitVec.ofNat 64 (count + 0x10000), dead := 8 }
def stRequests (g : Gatherer) : State := { stm .S (sq []) with dies := [(0, { gatherers := [(0, g)] })] }
def batch0 (opened : Nat) : Batch := { buf := 0, base := 0, len := 2, rows := 0, opened := opened, closed := 0, deadline := false }

theorem witness_Gatherer :
    (let g := gath 1
     getGath (stRequests g) 0 0 = g ∧ g.en = true ∧ g.logsize ≠ 0 ∧ g.stopped = false ∧ g.halted = false ∧ g.tail ≠ g.head ∧ partLive (stRequests g) 0 = true ∧ (getDie (stRequests g) 0).fenced = false ∧
     batchDue g = none ∧ batchFor (stRequests g) g = some (batch0 0) ∧ (batch0 0).rows + 1 = rgCount g ∧ (batch0 0).rows + 1 < rgCount (gath 2) ∧ rgUnusable (stRequests g) 0 0 g = false) ∧
    (∃ gs, ringRead (setGath (stRequests (gath 1)) 0 0 (gath 1)) 0 0 ((gath 1).ring.toNat + ((gath 1).head.toNat % 2 ^ (gath 1).logsize.toNat) * (64 + 128 * rgRowb (gath 1)))
      (64 + 128 * rgRowb (gath 1)) = .ok gs ∧ gs.2.length = 12) ∧
    (gath 1 0).tail = (gath 1 0).head ∧ batchFor (stRequests (gath 1)) { gath 1 with used := [0] } = none ∧
    (let g := { gath 2 with openBatch := some (batch0 3) }
     g.openBatch = some (batch0 3) ∧ g.dead ≠ 0 ∧ batchDue { g with dead := 0 } = none) ∧
    -- the layout is checked: a cluster of the partition and one that is not
    (rgUnusable (stRequests {}) 0 0 { gath 1 with en := true } = false ∧ rgUnusable (stRequests {}) 0 0 { gath 1 with cfg := 0x1010001 } = true ∧ rgUnusable (stRequests {}) 0 0 { gath 0 with en := true } = true ∧
      rgUnusable (stRequests {}) 0 0 (gath 4096) = false ∧ rgUnusable (stRequests {}) 0 0 (gath 4097) = true ∧ (getPart (stRequests {}) 0).reset = .idle) := by
  refine ⟨by decide +kernel, ?_, by decide, by decide, by decide, by decide +kernel⟩
  obtain ⟨r, h, g⟩ := exists_of_tries (r := ringRead (setGath (stRequests (gath 1)) 0 0 (gath 1)) 0 0
    ((gath 1).ring.toNat + ((gath 1).head.toNat % 2 ^ (gath 1).logsize.toNat) * (64 + 128 * rgRowb (gath 1))) (64 + 128 * rgRowb (gath 1)))
    (P := fun gs => decide (gs.2.length = 12)) (by decide +kernel)
  exact ⟨r, h, of_decide_eq_true g⟩

/-! Streams, kernels and cells -/

/-- Stream 3 with its ring of four records at virtual 0x3000. -/
def strm (tail : BitVec 16) (record : List Word := []) (taken : Nat := 0) : Stream :=
  { base := 0x3000, logsize := 2, en := true, tail := tail, record := record, taken := taken, state := if taken = 0 then 0 else 1 }
def stStream (x : Stream) (bytes : List Host.Cell := []) (kernels : List Kernel := []) (cnt : Table Word := []) : State :=
  { stm .S (sq []) {} [] with mem := tables ++ bytes, parts := [(0, { part0 with streams := [(3, x)], kernels := kernels, cnt := cnt })] }
/-- The words of a record of a kind for counter 5, with value v. -/
def rec8 (kind : Word) (v : Word) : List Word := [kind + 0x500, v, 0, 0, 0, 0, 0, 0]
/-- A kernel record at virtual 0x4000: code at 0x8000, one parcel in each store, one cell. -/
def krec (code0 : Byte) (sramg : Byte := 0) : List Host.Cell :=
  (if code0 = 0 then [] else [(0x40004000, code0)]) ++ [(0x40004001, 0x80), (0x40004008, 1), (0x4000400A, 1), (0x4000400C, 1)] ++
  (if sramg = 0 then [] else [(0x4000402A, 1), (0x4000402C, sramg)]) ++ [(0x40004056, 1), (0x40004066, 2), (0x40004076, 3), (0x40004086, 4), (0x40004096, 5)]

theorem exists_of_loaded {r : Try (State × Except Nat Kernel)} (h : tries r (fun a => okay a.2) = true) : ∃ w k, r = .ok (w, .ok k) := by
  obtain ⟨⟨w, a⟩, rfl, g⟩ := exists_of_tries h
  obtain ⟨k, rfl⟩ := exists_of_okay (r := a) g
  exact ⟨w, k, rfl⟩

theorem exists_of_refused {r : Try (State × Except Nat Kernel)} (h : tries r (fun a => !okay a.2) = true) : ∃ w e, r = .ok (w, .error e) := by
  obtain ⟨⟨w, a⟩, rfl, g⟩ := exists_of_tries h
  obtain ⟨e, rfl⟩ := exists_of_not_okay (r := a) (by simpa using g)
  exact ⟨w, e, rfl⟩

theorem witness_Gatherer_batches :
    -- an open batch whose deadline has passed, and one whose has not; a full one
    (let g := { gath 2 with openBatch := some (batch0 3) }
     (batch0 3).opened + g.dead.toNat < { stRequests g with cycle := 12 }.cycle ∧ ¬ (batch0 3).opened + g.dead.toNat < { stRequests g with cycle := 11 }.cycle ∧
     ¬ rgCount g ≤ (batch0 3).rows ∧ rgCount (gath 2) ≤ { batch0 3 with rows := 2 }.rows) ∧
    -- a ring whose page lacks tokens, and one that is not mapped
    (let g := { gath 1 with ring := 0x1000 }
     ∃ u, ringRead (setGath { stRequests g with parts := [(0, poor)] } 0 0 g) 0 0 (0x1000 + (g.head.toNat % 2 ^ g.logsize.toNat) * (64 + 128 * rgRowb g)) (64 + 128 * rgRowb g) = .wait u) ∧
    (let g := { gath 1 with ring := 0xFF000000000000 }
     ∃ v k a, ringRead (setGath (stRequests g) 0 0 g) 0 0 (0xFF000000000000 + (g.head.toNat % 2 ^ g.logsize.toNat) * (64 + 128 * rgRowb g)) (64 + 128 * rgRowb g) = .stop v k a) ∧
    -- the block of a die of the partition, and of one that is not
    (blockHeld (stRequests {}) 0 0 = true ∧ blockHeld (stRequests {}) 1 0 = false ∧ (gath 1).en = true ∧ ({} : Gatherer).en = false) := by
  refine ⟨by decide, exists_of_waits (by decide +kernel), exists_of_trapped (by decide +kernel), by decide⟩

theorem witness_LaunchRecords :
    (let s := stStream (strm 1)
     streamOpen s 0 3 = true ∧ (getStream s 0 3).taken = 0 ∧ pendingRecords (getStream s 0 3) ≠ 0 ∧ pendingRecords (strm 0) = 0 ∧ pendingRecords (strm 4) = 0) ∧
    (∃ v, engineRead (stStream (strm 1) [(0x40003000, 1)]) 0 0 0x3000 64 { rd := true } = .ok v ∧ launchBad (splitWords v 8) = false) ∧
    (∃ v, engineRead (stStream (strm 1) [(0x40003000, 3)]) 0 0 0x3000 64 { rd := true } = .ok v ∧ launchBad (splitWords v 8) = true) ∧
    -- a wait before and at its value, and a signal
    (let x := strm 1 (rec8 1 7) 1
     streamOpen (stStream x) 0 3 = true ∧ x.record ≠ [] ∧ (x.record.getD 0 0).toNat % 2 ^ 2 = 1 ∧ (x.record.getD 0 0).toNat / 2 ^ 8 % 2 ^ 8 = 5 ∧
     (tget 0 (getPart (stStream x [] [] [(5, 6)]) 0).cnt 5).toNat < (x.record.getD 1 0).toNat ∧ (x.record.getD 1 0).toNat ≤ (tget 0 (getPart (stStream x [] [] [(5, 7)]) 0).cnt 5).toNat) ∧
    ((strm 1 (rec8 2 7) 1).record.getD 0 0).toNat % 2 ^ 2 = 2 := by
  refine ⟨by decide, ?_, ?_, by decide, by decide⟩
  · obtain ⟨v, h, g⟩ := exists_of_tries (r := engineRead (stStream (strm 1) [(0x40003000, 1)]) 0 0 0x3000 64 { rd := true }) (P := fun v => !launchBad (splitWords v 8)) (by decide +kernel)
    exact ⟨v, h, by simpa using g⟩
  · exact exists_of_tries (r := engineRead (stStream (strm 1) [(0x40003000, 3)]) 0 0 0x3000 64 { rd := true }) (P := fun v => launchBad (splitWords v 8)) (by decide +kernel)

/-- The kernel launch record of the kernel record at 0x4000. -/
def launch4 : List Word := [0, 0x4000, 0, 0, 0, 0, 0, 0]

theorem witness_LaunchRecords_waits :
    -- a record whose page lacks tokens and one that is not mapped; a tail that overfills the queue and the last that does not
    (∃ u, engineRead { stStream { strm 1 with base := 0x1000 } with parts := [(0, { poor with streams := [(3, { strm 1 with base := 0x1000 })] })] } 0 0 0x1000 64 { rd := true } = .wait u) ∧
    (∃ v k g, engineRead (stStream (strm 1)) 0 0 0xFF000000000000 64 { rd := true } = .stop v k g) ∧
    (strm 1).undefs = 0 ∧ (4 ≤ 4 % 2 ^ 16 ∧ 4 ≤ (4 % 2 ^ 16 + 2 ^ 16 - (strm 1).head.toNat) % 2 ^ 16) ∧ ¬ 2 ^ (strm 1).logsize.toNat ≤ 3 % 2 ^ 16 ∧ (3 < 64 ∧ (strm 1).logsize = 2) := by
  refine ⟨exists_of_waits (by decide +kernel), exists_of_trapped (by decide +kernel), by decide, by decide, by decide, by decide⟩

theorem witness_KernelLoads :
    (∃ w k, loadKernel (stStream (strm 1 launch4 1) (krec 0)) 0 3 (strm 1 launch4 1).record false = .ok (w, .ok k)) ∧
    (∃ w e, loadKernel (stStream (strm 1 launch4 1) (krec 1)) 0 3 (strm 1 launch4 1).record false = .ok (w, .error e)) ∧
    (∃ w e, loadKernel (stStream (strm 1 launch4 1) (krec 0 2)) 0 3 (strm 1 launch4 1).record false = .ok (w, .error e)) ∧
    ∃ u, loadKernel { stStream (strm 1 [0, 0x1000, 0, 0, 0, 0, 0, 0] 1) with parts := [(0, poor)] } 0 3 [0, 0x1000, 0, 0, 0, 0, 0, 0] false = .wait u :=
  ⟨exists_of_loaded (by decide +kernel), exists_of_refused (by decide +kernel), exists_of_refused (by decide +kernel), exists_of_waits (by decide +kernel)⟩

/-- A resident kernel of stream 3 with one cell, which has ended. -/
def kern3 (ended : Bool) (failed : Option Nat := none) : Kernel :=
  { kern 1 with stream := 3, passedSms := [0], ended := if ended then [0] else [], failed := failed, cen := true, cidx := 5 }

theorem witness_EarlyAndComplete :
    (let s := stStream (strm 2 [] 1) [(0x40003040, 4), (0x40003049, 0x40)] [kern3 false]
     streamOpen s 0 3 = true ∧ (getPart s 0).kernels.filter (fun o => o.stream == 3) = [kern3 false] ∧ (getStream s 0 3).taken = 1 ∧ (getStream s 0 3).record = [] ∧
     2 ≤ pendingRecords (getStream s 0 3) ∧ (kern3 false).failed = none ∧ (kern3 false).passedSms.length = (kern3 false).cells) ∧
    (∃ v, engineRead (stStream (strm 2 [] 1) [(0x40003040, 4), (0x40003049, 0x40)] [kern3 false]) 0 0 0x3040 64 { rd := true } = .ok v ∧
      (!launchBad (splitWords v 8) && v % 2 ^ 2 == 0 && v / 2 ^ 2 % 2 == 1 &&
        tries (loadKernel (stStream (strm 2 [] 1) ([(0x40003040, 4), (0x40003049, 0x40)] ++ krec 0) [kern3 false]) 0 3 (splitWords v 8) true) fun a => okay a.2) = true) ∧
    (∃ v, engineRead (stStream (strm 2 [] 1) [] [kern3 false]) 0 0 0x3040 64 { rd := true } = .ok v ∧ (v / 2 ^ 2 % 2 == 0) = true) ∧
    (let s := stStream (strm 1 [] 1) [] [kern3 true]
     (getPart s 0).kernels = kern3 true :: [] ∧ (kern3 true).stream = 3 ∧ (getPart s 0).reset = .idle ∧ kernelDone s 0 (kern3 true) = true ∧ kernelDone s 0 (kern3 false) = false ∧
     kernelDone s 0 (kern3 true (some 5)) = true) ∧
    -- the tail, errors, aging
    (partLive (stStream (strm 1)) 0 = true ∧ partLive { stStream (strm 1) with parts := [] } 0 = false ∧ (getStream (stStream { strm 1 with state := 3, err := 3 }) 0 3).state = 3 ∧
      (getStream (stStream (strm 1)) 0 3).state ≠ 3) ∧
    (let k : Kernel := { kern3 false with started := [], ranges := [{ next := 0, hi := 1, die := 0, owner := none }] }
     k ∈ (getPart (stStream (strm 1 [] 1) [] [k]) 0).kernels ∧ k.stream = 3 ∧ kernelReady k = true ∧ effPrio (stStream { strm 1 with prio := 3 }) 0 3 < 4 ∧ ¬ effPrio (stStream { strm 1 with prio := 3, boost := 1 }) 0 3 < 4) := by
  refine ⟨by decide, exists_of_tries (r := engineRead _ 0 0 0x3040 64 { rd := true }) (P := fun v => !launchBad (splitWords v 8) && v % 2 ^ 2 == 0 && v / 2 ^ 2 % 2 == 1 &&
      tries (loadKernel (stStream (strm 2 [] 1) ([(0x40003040, 4), (0x40003049, 0x40)] ++ krec 0) [kern3 false]) 0 3 (splitWords v 8) true) fun a => okay a.2) (by decide +kernel),
    exists_of_tries (r := engineRead _ 0 0 0x3040 64 { rd := true }) (P := fun v => v / 2 ^ 2 % 2 == 0) (by decide +kernel), by decide +kernel, by decide, by decide⟩

-- An early record whose kernel record waits, and one that is refused.
theorem witness_EarlyAndComplete_loads :
    (∃ w, loadKernel { stStream (strm 2 [] 1) ((0x40003049, 0x40) :: krec 0) [kern3 false] with parts := [(0, { poor with streams := [(3, strm 2 [] 1)], kernels := [kern3 false] })] } 0 3
      [0, 0x4000, 0, 0, 0, 0, 0, 0] true = .wait w) ∧
    ∃ w e, loadKernel (stStream (strm 2 [] 1) (krec 1) [kern3 false]) 0 3 [0, 0x4000, 0, 0, 0, 0, 0, 0] true = .ok (w, .error e) :=
  ⟨exists_of_waits (by decide +kernel), exists_of_refused (by decide +kernel)⟩

/-- A kernel of four cells, the first two in a range of this owner. -/
def kern4 (owner : Option Nat) : Kernel :=
  { kern 1 with started := [], cells := 4, ranges := [{ next := 0, hi := 4, die := 0, owner := owner }], record := List.replicate 8 0 ++ [0x200000004, 0, 0x1000000000001, 0] }
/-- Core 0 without a cell, its placement and its kernel. -/
def stPlace (range : Option (Nat × Nat × Nat × Nat)) (ks : List Kernel) : State :=
  { parts := [(0, { part0 with kernels := ks })], cores := [(0, { range := range }), (1, {})] }

theorem witness_Placements :
    (let s := stPlace (some (0, 1, 1, 2)) [kern4 (some 1)]
     partOfCore s 0 = some 0 ∧ partRuns s 0 = true ∧ groupDue s 0 = false ∧ (getCore s 0).range = some (0, 1, 1, 2)) ∧
    -- a first core that asks for an open range, for a split, and for nothing
    (let s := stPlace (some (0, 1, 0, 1)) [kern4 none]
     groupDue s 0 = false ∧ lowerAsks s 0 0 = false ∧ groupBusy s 0 1 0 1 (getCore s 0).place = false ∧ kernelOf s 0 1 = some (kern4 none) ∧ (kern4 none).failed = none ∧ giveRange (kern4 none) 0 0 = some (kern4 (some 0)) ∧
     (∀ r ∈ (kern4 none).ranges, ¬ (r.owner = some 0 ∧ r.next < r.hi)) ∧ giveRange (kern4 (some 1)) 0 0 ≠ none ∧ giveRange { kern4 none with ranges := [] } 0 0 = none) ∧
    -- a free core, chosen and not chosen
    (let s := stPlace none [kern4 none]
     (getCore s 0).range = none ∧ groupDue s 0 = false ∧ lowerAsks s 0 0 = false ∧ offer s 0 0 = some (kern4 none, 0, 0) ∧ giveRange (kern4 none) 0 0 = some (kern4 (some 0))) ∧
    -- a group that starts
    (startable (stPlace (some (0, 1, 0, 1)) [kern4 (some 0)]) 0 = some (0, 0, 1, kern4 (some 0), 0) ∧
      (kern4 (some 0)).ranges[(0 : Nat)]? = some { next := 0, hi := 4, die := 0, owner := some 0 }) ∧
    -- core 1 while core 0 asks; a group whose member still runs its cell
    (lowerAsks (stPlace (some (0, 1, 0, 1)) [kern4 none]) 0 1 = true ∧ partOfCore (stPlace (some (0, 1, 0, 1)) [kern4 none]) 1 = some 0 ∧
      groupDue (stPlace (some (0, 1, 0, 1)) [kern4 none]) 1 = false) ∧
    (groupBusy { stPlace (some (0, 1, 0, 1)) [kern4 none] with cores := [(0, { range := some (0, 1, 0, 1), ctx := { cell := some cell0 } })] } 0 1 0 1 0 = true ∧
      groupDue { stPlace (some (0, 1, 0, 1)) [kern4 none] with cores := [(0, { range := some (0, 1, 0, 1), ctx := { cell := some cell0 } })] } 0 = false) ∧
    -- a range that is not empty, and a kernel without memory of the core's group
    (((kern4 (some 0)).ranges.any fun r => r.owner == some 0 && r.next < r.hi) = true ∧ (kern4 none).failed = none) := by
  decide +kernel

-- Stream 5, aged to the top, waits while stream 3's kernel is placed.
theorem witness_Placements_overtaken :
    let k := { kern4 none with stream := 3 }
    let o := { kern4 none with stream := 5, serial := 2 }
    let s : State := { stPlace none [k, o] with parts := [(0, { part0 with kernels := [k, o], streams := [(5, { en := true, prio := 3, boost := 1, overtaken := 62 })] })] }
    (offer s 0 0).isSome = true ∧ streamReady s 0 5 = true ∧ effPrio s 0 5 = 4 ∧ (63 : Nat) < 64 ∧ (0 : Nat) ≠ k.stream := by decide +kernel

/-- Core 0's cell with its three parts ended or one of them running. -/
def ended (k : Run) : Ctx := { cell := some cell0, seqL := { run := k }, seqX := { run := .ended }, seqS := { run := .ended } }
def stEnd (k : Run) (tr : List Tracked := []) : State := { parts := [(0, { part0 with kernels := [kern 1] })], cores := [(0, { ctx := ended k, tracker := tr })] }
def tracked (cards : Option Nat) (a : Option SAccess) : Tracked := { ranges := [(0, 1)], acc := a, ticket := cards, serial := 1 }

theorem witness_CellEnds :
    (let s := stEnd .ended
     (getCtx s 0).cell = some cell0 ∧ (getCtx s 0).seqL.run = .ended ∧ (getCtx s 0).seqX.run = .ended ∧ (getCtx s 0).seqS.run = .ended ∧ (getCtx s 0).nestRun = none ∧
     (getCtx s 0).nestPend = none ∧ (getCtx s 0).rjobs = [] ∧ (getCtx s 0).lacc = [] ∧ (∀ a ∈ (getCtx s 0).sacc, visibleAt s 0 .core a = true) ∧
     ctxCards s 0 (getCtx s 0) = [] ∧ ctxBmv s 0 (getCtx s 0) = [] ∧ engineWritesSeen s 0 (getCtx s 0) = true ∧ kernelOf s cell0.part cell0.serial = some (kern 1)) ∧
    (getCtx (stEnd .running) 0).seqL.run ≠ .ended ∧
    (let s := stEnd .ended [tracked (some 9) none, tracked none (some (acc0 0))]
     (getCore s 0).tracker[(0 : Nat)]? = some (tracked (some 9) none) ∧ itemVisible s 0 (tracked (some 9) none) = true ∧ (getCore s 0).tracker[(1 : Nat)]? = some (tracked none (some (acc0 0))) ∧
     itemVisible s 0 (tracked none (some (acc0 0))) = false) ∧
    (575 < 576 ∧ (getPart (stEnd .ended) 0).en = true ∧ 7 < 8 ∧ 15 < 16 ∧ (getCore (stEnd .ended) 0).range = none) := by
  decide +kernel

/-! Halts, parking and the debugger -/

/-- Partition 0 in a halt, with a stop area at virtual base and context slots at virtual 0x200000. -/
def partHalt (h : Halt) (base : BitVec 56 := 0) (dbg : Bool := false) : Partition :=
  { part0 with halt := h, stopbase := base, cxpool := 0x200000, cxper := 1, dbgok := dbg }
/-- The state of core 0, whose sequencers all run or have all halted. -/
def stHalt (p : Partition) (c : CoreState := { ctx := { cell := some cell0, seqX := sq [] } }) : State := { parts := [(0, p)], cores := [(0, c)], mem := tables }
def raised0 : Halt := { raised := true, cause := 0x10, serial := 1 }
def halted0 : Halt := { raised := true, cause := 0x10, serial := 1, halted := true, resumable := true }
/-- A core whose units have all stopped. -/
def coreStopped : CoreState :=
  let q : SeqState := { run := .running, halted := true, haltedAt := 5 }
  { ctx := { cell := some cell0, seqL := q, seqX := q, seqS := q, mHalted := true, rHalted := true } }

theorem witness_HaltingEvents :
    (let s := stHalt (partHalt raised0 0x10000)
     (getPart s 0).halt.raised = true ∧ (getPart s 0).halt.halted = false ∧ partOfCore s 0 = some 0 ∧ (getSeq s 0 .X).halted = false ∧ (getPart (stHalt part0) 0).halt.raised = false ∧
     isSeqUnit (.matrix 0) = false ∧ ownsUnit s 0 (.matrix 0) = true ∧ unitStopped s 0 (.matrix 0) = false ∧ HaltUnit.matrix 0 ∈ haltUnits s 0 ∧
     HaltUnit.copy 0 ∉ haltUnits s 0 ∧ isSeqUnit (.copy 0) = false ∧ ownsUnit s 0 (.copy 0) = true ∧ unitStopped s 0 (.copy 0) = false ∧ (getPart s 0).stopbase ≠ 0 ∧
     (getPart (stHalt (partHalt raised0)) 0).stopbase = 0) ∧
    (let s := stHalt (partHalt raised0 0x10000) coreStopped
     (getPart s 0).reset = .idle ∧ (∀ u ∈ haltUnits s 0, unitStopped s 0 u = true) ∧
     (coresOf s 0).filter (fun c => (getCtx s c).cell.isSome && !(getDie s (dieOfCore c)).fenced) = [0] ∧ issuedDone (getCtx s 0) = true ∧
     (getPart s 0).halt.cause ≠ 0x40 ∧ (getPart s 0).halt.cause ≠ 0x02) ∧
    -- the watchdog
    (let s := stHalt part0 { ctx := { cell := some cell0, seqX := { run := .running, wait := .other } } }
     (getCtx s 0).cell = some cell0 ∧ (getPart s 0).wdog ≠ 0 ∧ (getPart s 0).halt.raised = false ∧ (getSeq s 0 .X).run = .running ∧ (∀ q : Seq, q = .L ∨ q = .X ∨ q = .S → stuckSeq (getCtx s 0) q = true) ∧
     (getCtx s 0).lacc = [] ∧ jobOnPage s 0 cell0 = false ∧ (getCtx s 1).cell = none ∧ stuckSeq (getCtx (stHalt part0) 0) .X = false) := by
  refine ⟨by decide +kernel, by decide +kernel, by decide, by decide, by decide, by decide, ?_, by decide, by decide +kernel, by decide, by decide⟩
  rintro q (rfl | rfl | rfl) <;> decide

theorem witness_HaltingEvents_writes :
    -- a record without a stop area, one whose page is not there, one that cannot be translated, and one that is written, waits for tokens, and fails
    (recordTarget (stHalt (partHalt raised0)) 0 (.matrix 0) = .ok (stHalt (partHalt raised0), none, [])) ∧
    (∃ v, recordTarget (stHalt (partHalt raised0 0x40000000)) 0 (.matrix 0) = .wait v) ∧
    (∃ r, recordTarget (stHalt (partHalt raised0 0xFF000000000000)) 0 (.matrix 0) = .ok r ∧ r.2.1.isNone = true) ∧
    (∃ r, recordTarget (stHalt (partHalt raised0 0x10000)) 0 (.matrix 0) = .ok r ∧ r.2.1.isSome = true ∧ demandReady (stHalt (partHalt raised0 0x10000)) (addDemand [] r.2.2) = true) ∧
    demandReady (stHalt { partHalt raised0 0x1000 with buckets := [(0, { rateNow := 1 })] }) (addDemand [] [(0, 1)]) = false ∧
    (∃ u, writeRecords (stHalt (partHalt raised0 0x40000000)) 0 [.seq 0 .L] = .wait u) ∧
    (let s := stHalt (partHalt raised0 0x10000)
     (∃ w, writeAccess s (physPieces 0x40000000 16 0 0) (fun i => (recordOf s 0 (.matrix 0)).getD i 0) (fun _ => false) .none true [] = .ok w) ∧
     ∃ f, writeAccess { s with lostWords := [0x1000000] } (physPieces 0x40000000 16 0 0) (fun i => (recordOf s 0 (.matrix 0)).getD i 0) (fun _ => false) .none true [] = .error f) ∧
    (getPart (stHalt { part0 with reset := .draining }) 0).reset ≠ .idle ∧ (getPart (stHalt { part0 with reset := .draining }) 1).en = false := by
  refine ⟨rfl, exists_of_waits (by decide +kernel), exists_of_tries (P := fun r : State × Option (List Piece) × Demand => r.2.1.isNone) (by decide +kernel), ?_, by decide, exists_of_waits (by decide +kernel),
    ⟨exists_of_okay (by decide +kernel), exists_of_not_okay (by decide +kernel)⟩, by decide, rfl⟩
  obtain ⟨r, h, g⟩ := exists_of_tries (r := recordTarget (stHalt (partHalt raised0 0x10000)) 0 (.matrix 0))
    (P := fun r => r.2.1.isSome && demandReady (stHalt (partHalt raised0 0x10000)) (addDemand [] r.2.2)) (by decide +kernel)
  exact ⟨r, h, by simpa using g⟩

/-- Core 0 stuck, n cycles of its watchdog counted. -/
def stStuck (n cycle : Nat) : State :=
  { stHalt { part0 with wdog := 2 } { ctx := { cell := some cell0, seqX := { run := .running, wait := .other }, wdog := n } } with cycle := cycle }

-- The count in the last cycle before WDOG's and in that cycle, and a step in which no cycle passes.
theorem witness_HaltingEvents_watchdog :
    (let s := stStuck 0 2047
     (getCtx s 0).cell = some cell0 ∧ (getPart s 0).wdog ≠ 0 ∧ (getSeq s 0 .X).run = .running ∧ stuckSeq (getCtx s 0) .X = true ∧ jobOnPage s 0 cell0 = false ∧
     (stStuck 0 0).cycle < s.cycle ∧ 0 + (2047 - max 0 0) < 1024 * (getPart s 0).wdog.toNat) ∧
    1024 * (getPart (stStuck 0 2048) 0).wdog.toNat ≤ 0 + (2048 - max 0 0) ∧ 1024 * (getPart (stStuck 2048 5) 0).wdog.toNat ≤ (getCtx (stStuck 2048 5) 0).wdog ∧
    ¬ (stStuck 0 5).cycle < (stStuck 0 5).cycle := by decide

theorem witness_HaltRecords :
    let s := stHalt (partHalt raised0 0x10000) coreStopped
    ∃ v, writeRecords (setCtx s 0 (landAll (getCtx s 0))) 0 ((haltUnits s 0).filter isSeqUnit) = .ok v ∧ (fun _ => true) v = true :=
  exists_of_tries (by decide +kernel)

theorem witness_SequencerStopRecord :
    575 < 576 ∧ 7 < 8 ∧ (getSeq (stHalt part0 coreStopped) 0 .L).origin = none ∧
    (getSeq (setSeq (stHalt part0 coreStopped) 0 .L { origin := some stop0 }) 0 .L).origin = some stop0 := by decide

/-- Core 0 with its context, a context in the shadow and one parked in slot n. -/
def coreParks (req : Option Nat) (spilling : Option (Nat × Nat)) (shadow : Ctx := {}) (parked : Table Parked := []) (x : Ctx := { cell := some cell0 }) : CoreState :=
  { ctx := x, shadow := shadow, parkReq := req, spilling := spilling, parked := parked }
def parked0 (ready : Bool) : Parked := { ctx := { cell := some cell0 }, wake := 3, ready := ready }

/-- The state whose parked or spilling context has its image at the pool; die 1 is fenced or not, and the HBM4 bucket of die 0 limits or not. -/
def stImage (c : CoreState) (fenced : Bool := false) (buckets : Table Bucket := []) : State :=
  { stHalt { partHalt {} with buckets := buckets } c with
    dies := (List.range 4).map fun d => (d, { fenced := fenced && d == 1, mig := { base := 0xF000000000000 } }) }
def spills0 : CoreState := coreParks none (some (0, 3)) { cell := some cell0 }
def comes0 : CoreState := coreParks none none {} [(0, parked0 true)] {}
/-- Pages of the pool of those states. -/
def imageAt0 (l : List Loc) : Bool := l.all inHbm && decide (l.head? = some (.dram 0x40200000 false false 0 0))

theorem stImage_ready (c : CoreState) (f : Bool) (dm : Demand) : demandReady (stImage c f) dm = true :=
  demandReady_unlimited (fun p => by cases p <;> rfl) dm

theorem fenced_of {s : State} (h : (getDie s 1).fenced = true) {l : List Loc} (hl : imageAt0 l = true) (a : Nat) :
    (∀ byte bad deps, ∃ k e, writeAccess s (imagePieces a l) byte bad .none true deps = .error (k, e)) ∧ ∃ k e, imageRead s 0 (imagePieces a l) = .error (k, e) := by
  simp only [imageAt0, Bool.and_eq_true, decide_eq_true_eq, List.head?_eq_getElem?] at hl
  exact image_fenced (g := 512) (by decide) hl.2 (by decide) h a

theorem stImage_same (c : CoreState) (f : Bool) (b : Table Bucket) : SameDies (stImage c f b) (cacheAccess (stImage c f b) 0 0 (slotAddr (stImage c f b) 0 0 0) imageSize) :=
  sameDies_cacheAccess ⟨show (if _ then 0 * 2 ^ 30 else 0) = 0 by split <;> rfl, fun d h => by
    obtain rfl | rfl | rfl | rfl : d = 0 ∨ d = 1 ∨ d = 2 ∨ d = 3 := by omega
    all_goals exact ⟨by cases f <;> rfl, by cases f <;> rfl⟩⟩ ..

theorem stImage_waits {c : CoreState} {l : List Loc} (h : imageAt0 l = true) (a : Nat) :
    demandReady (stImage c false [(4, { rateNow := 1, tokens := 0 })])
      (imageDemand (stImage c false [(4, { rateNow := 1, tokens := 0 })]) 0 0 a (imagePieces a l)) = false := by
  simp only [imageAt0, Bool.and_eq_true, decide_eq_true_eq, List.head?_eq_getElem?] at h
  have pos : ∀ q ∈ imagePieces a l, 0 < q.count := fun q hq => by
    obtain ⟨g, -, rfl⟩ := List.mem_map.mp hq
    exact Nat.zero_lt_succ 15
  refine demandReady_empty (asks_addDemand (tokensOf_pos _ pos)
    (asks_tokensOf pos (p := ⟨.dram 0x40202000 false false 0 0, a + 16 * 512, 0, 16, 16 * 512⟩) (part := 0) (b := 4) (List.mem_map.mpr ⟨512, List.mem_range.mpr (by decide), ?_⟩) rfl)) rfl rfl rfl
  rw [List.getD_eq_getElem?_getD, h.2]
  rfl

theorem witness_ParkingEvents :
    (let p := partHalt {}
     canPark (stHalt p (coreParks none none)) 0 = true ∧ freeSlot (stHalt part0 (coreParks none none)) 0 = none ∧ freeSlot (stHalt p (coreParks (some 3) none)) 0 = some 0 ∧
     (getCore (stHalt p (coreParks (some 3) none)) 0).parkReq = some 3 ∧ (getCore (stHalt p (coreParks (some 3) (some (1, 2)))) 0).spilling ≠ none ∧
     (getCore (stHalt p (coreParks (some 3) none)) 0).shadow.cell = none ∧ (getCore (stHalt p (coreParks (some 3) none)) 0).shadow.lacc = []) ∧
    -- a spill that waits for a store, and one that ends
    (let s := stHalt (partHalt {}) (coreParks none (some (0, 3)) { cell := some cell0, sacc := [acc0 0] })
     (getCore s 0).spilling = some (0, 3) ∧ partOfCore s 0 = some 0 ∧ issuedDone (getCore s 0).shadow = false) ∧
    (let s := stHalt (partHalt {}) (coreParks none (some (0, 3)) { cell := some cell0 })
     issuedDone (getCore s 0).shadow = true ∧ inReset s 0 = false ∧ inReset (stHalt { part0 with reset := .draining } (coreParks none none)) 0 = true) ∧
    -- an image whose pages are not there
    (∃ u, imagePages (stHalt { partHalt {} with cxpool := 0x40000000 } spills0) 0 0 0x40000000 { wr := true } = .wait u) ∧
    (∃ u, imagePages (stHalt { partHalt {} with cxpool := 0x40000000 } comes0) 0 0 0x40000000 { rd := true } = .wait u) ∧
    (∃ v c g, imagePages (stHalt { partHalt {} with cxpool := 0xFF000000000000 } comes0) 0 0 0xFF000000000000 { rd := true } = .stop v c g) ∧
    -- an image that is written, and one of which a die is lost
    (∃ heads b, demandReady (stImage spills0 false b) (imageDemand (stImage spills0 false b) 0 0 (slotAddr (stImage spills0 false b) 0 0 0) (imagePieces (slotAddr (stImage spills0 false b) 0 0 0) heads)) = false ∧
      imagePages (stImage spills0 false b) 0 0 (slotAddr (stImage spills0 false b) 0 0 0) { wr := true } = .ok heads) ∧
    (∃ heads b, demandReady (stImage comes0 false b) (imageDemand (stImage comes0 false b) 0 0 (slotAddr (stImage comes0 false b) 0 0 0) (imagePieces (slotAddr (stImage comes0 false b) 0 0 0) heads)) = false ∧
      imagePages (stImage comes0 false b) 0 0 (slotAddr (stImage comes0 false b) 0 0 0) { rd := true } = .ok heads) ∧
    (∀ f, let s := stImage spills0 f
     ∃ heads, imagePages s 0 0 (slotAddr s 0 0 0) { wr := true } = .ok heads ∧
       let ps := imagePieces (slotAddr s 0 0 0) heads
       let v := cacheAccess s 0 0 (slotAddr s 0 0 0) imageSize
       let written := writeAccess v ps (imageByte (getCore s 0).shadow 3 v.freeCtr) (fun _ => false) .none true (clockVector v 0 [])
       demandReady s (imageDemand s 0 0 (slotAddr s 0 0 0) ps) = true ∧ writeWaits s ps = false ∧ if f then ∃ c g, written = .error (c, g) else ∃ u stamps, written = .ok (u, stamps)) ∧
    (let s := stHalt { partHalt {} with cxpool := 0xFF000000000000 } (coreParks none (some (0, 3)) { cell := some cell0 })
     (∃ v c g, imagePages s 0 0 (slotAddr s 0 0 0) { wr := true } = .stop v c g) ∧ (getPart s 0).reset = .idle ∧ (getPart s 0).halt.raised = false) ∧
    -- a parked context that wakes and comes back
    (let s := stHalt (partHalt {}) (coreParks none none {} [(0, parked0 true)] {})
     tfind (getCore s 0).parked 0 = some (parked0 true) ∧ tfind (getCore s 0).parked 1 = none ∧ partOfCore s 0 = some 0 ∧ resumeRoom s 0 (parked0 true).ctx = true ∧ partRuns s 0 = true ∧
     coveredDie s 0 (parked0 true).stamps = true ∧ ∀ m o, (m, o) ∈ (getCore s 0).parked → m ≠ 0 → False) ∧
    (∀ f, let s := stImage comes0 f
     ∃ heads, imagePages s 0 0 (slotAddr s 0 0 0) { rd := true } = .ok heads ∧
       let got := imageRead (cacheAccess s 0 0 (slotAddr s 0 0 0) imageSize) 0 (imagePieces (slotAddr s 0 0 0) heads)
       demandReady s (imageDemand s 0 0 (slotAddr s 0 0 0) (imagePieces (slotAddr s 0 0 0) heads)) = true ∧ if f then ∃ c g, got = .error (c, g) else ∃ byte, got = .ok byte) ∧
    -- a queue entry of an image
    (let x : Ctx := { q := [(0, { head := 15, entries := [{ data := 7, mask := 1, eos := true }] })] }
     (imageQueue x 0).entries[(0 : Nat)]? = some { data := 7, mask := 1, eos := true } ∧ (imageQueue x 0).entries.length ≤ 16) ∧
    (parked0 false).ready = false := by
  have page (s : State) (n : Need) (h : tries (imagePages s 0 0 (slotAddr s 0 0 0) n) imageAt0 = true) :=
    exists_of_tries h
  have whole (c : CoreState) : NothingLost (cacheAccess (stImage c) 0 0 (slotAddr (stImage c) 0 0 0) imageSize) :=
    have k := stImage_same c false []
    ⟨k.2.1, fun d => by
      simp only [getDie, k.1]
      by_cases h : d < 4
      · obtain rfl | rfl | rfl | rfl : d = 0 ∨ d = 1 ∨ d = 2 ∨ d = 3 := by omega
        all_goals rfl
      · simp only [stImage, tget]
        rw [show (List.range 4) = [0, 1, 2, 3] from rfl]
        simp [tfind, show 0 ≠ d by omega, show 1 ≠ d by omega, show 2 ≠ d by omega, show 3 ≠ d by omega]⟩
  have hbm {l : List Loc} (h : imageAt0 l = true) : l.all inHbm = true := (Bool.and_eq_true _ _ ▸ h).1
  refine ⟨by decide, by decide, by decide, exists_of_waits (by decide +kernel), exists_of_waits (by decide +kernel), exists_of_trapped (by decide +kernel), ?_, ?_, fun f => ?_, ⟨exists_of_trapped (by decide +kernel), rfl, rfl⟩,
    ⟨rfl, rfl, by decide, by decide, by decide, by decide, ?_⟩, fun f => ?_, ⟨rfl, by decide⟩, rfl⟩
  · obtain ⟨l, hl, h⟩ := page (stImage spills0 false [(4, { rateNow := 1, tokens := 0 })]) { wr := true } (by decide +kernel)
    exact ⟨l, _, stImage_waits h _, hl⟩
  · obtain ⟨l, hl, h⟩ := page (stImage comes0 false [(4, { rateNow := 1, tokens := 0 })]) { rd := true } (by decide +kernel)
    exact ⟨l, _, stImage_waits h _, hl⟩
  · obtain ⟨l, hl, h⟩ := page (stImage spills0 f) { wr := true } (by cases f <;> decide +kernel)
    refine ⟨l, hl, stImage_ready _ _ _, writeWaits_image _ (hbm h) _, ?_⟩
    cases f with
    | true => exact (fenced_of (by simp only [getDie, (stImage_same spills0 true []).1]; rfl) h _).1 _ _ _
    | false => exact writeAccess_image (whole _) (hbm h) _ _ _ _
  · intro m o h n
    exact n (congrArg Prod.fst (List.mem_singleton.mp h))
  · obtain ⟨l, hl, h⟩ := page (stImage comes0 f) { rd := true } (by cases f <;> decide +kernel)
    refine ⟨l, hl, stImage_ready _ _ _, ?_⟩
    cases f with
    | true => exact (fenced_of (by simp only [getDie, (stImage_same comes0 true []).1]; rfl) h _).2
    | false =>
      have k := stImage_same comes0 false []
      exact imageRead_ok (whole _) k.2.2.1 (by simp only [getDie, k.1]; rfl) (hbm h) _

/-- Requests in the page-request queue. -/
def preq (tag : Nat) (popped cancel : Bool) : PageRequest := { part := 0, access := 1, tag := tag, page := 0x4000, popped := popped, cancel := cancel }

theorem witness_HaltControl :
    (let s := stHalt (partHalt halted0) coreStopped
     (getPart s 0).halt.halted = true ∧ (getPart s 0).halt.debug = false ∧ (getPart s 0).halt.resumable = true ∧ (getPart (stHalt (partHalt raised0)) 0).halt.halted = false ∧
     (getPart (stHalt (partHalt raised0)) 0).halt.resumable = false ∧ 0 ∈ coresOf s 0 ∧ 20 ∉ coresOf s 0 ∧ ofKernel 0 (getPart s 0).halt.serial (getCtx s 0) = true ∧
     ofKernel 0 (getPart s 0).halt.serial (getCtx s 1) = false ∧ canPark s 0 = true ∧ canPark s 1 = false ∧ (getCore s 0).spilling = none ∧ (getCore s 0).shadow.cell = none ∧
     (getCore s 0).shadow.lacc = []) ∧
    (let q : List PageRequest := [preq 1 true false] ++ preq 2 false false :: [preq 3 false true]
     q = [preq 1 true false] ++ preq 2 false false :: [preq 3 false true] ∧ (∀ o ∈ [preq 1 true false], o.popped = true) ∧ (preq 2 false false).popped = false ∧
     (∀ o ∈ [preq 1 true false], o.tag ≠ (2 : BitVec 8).toNat ∨ o.cancel = true) ∧ (preq 2 false false).tag = (2 : BitVec 8).toNat ∧ (preq 2 false false).cancel = false ∧
     (∀ r ∈ q, r.tag = (3 : BitVec 8).toNat → r.cancel = true) ∧ ∀ r ∈ [preq 1 true false], r.popped = true) := by decide +kernel

-- A context of the kernel in the shadow with a batch buffer in slot 15, a core that cannot flip yet, and a partition that resets.
theorem witness_HaltControl_contexts :
    (let y : Ctx := { cell := some cell0, slots := [(15, { base := 1, len := 2, batch := some (0, 3) })] }
     let s := stHalt (partHalt halted0) { coreStopped with shadow := y }
     y ∈ contextsOf s 0 ∧ ofKernel 0 (getPart s 0).halt.serial y = true ∧ tfind y.slots 15 = some { base := 1, len := 2, batch := some (0, 3) } ∧ canPark s 0 = true ∧
     (getCore s 0).shadow.cell ≠ none ∧ (getPart s 0).reset = .idle) ∧
    ¬ (getPart (stHalt { partHalt halted0 with reset := .draining }) 0).reset = .idle ∧ (getSeq (stHalt part0 { ctx := { seqL := { waitc := 3, clock := 7 } } }) 0 .L).waitc = 3 := by decide +kernel

/-- Core 0 debugged with DBGCTL and DBGSEL. -/
def stDebug (h : Halt) (c : CoreState) (b : DebugBlock := {}) (ok : Bool := true) : State := { stHalt (partHalt h 0 ok) c with mgmt := { dbg := b } }
def debug0 : Halt := { raised := true, cause := 0x40, halted := true, debug := true }
/-- A resolver job that has begun. -/
def rjobStarted : RJob := { kind := .canon, tile := 0, h := 2, aview := 0, vview := 0, foot := 0, seq := .S, arrival := 0, issuedAt := 0, started := true, row := 0, transform := false, fpc := 0, parcels := 0 }

theorem witness_DebuggerEvents :
    (getPart (stHalt part0) (stHalt part0).mgmt.dbg.part.toNat).dbgok = false ∧
    (let s := stDebug {} {}
     (getPart s 0).dbgok = true ∧ (getPart s 0).reset = .idle ∧ s.mgmt.dbg.stepping = false ∧ (getPart s 0).halt.raised = false ∧ (getPart (stDebug raised0 {}) 0).halt.raised = true ∧
     (getPart (stDebug raised0 {}) 0).halt.raisedAt = (stDebug raised0 {}).cycle ∧ (getPart (stDebug raised0 {}) 0).halt.halted = false ∧
     (getPart (stDebug { raised0 with raisedAt := 1 } {}) 0).halt.raisedAt ≠ (stDebug { raised0 with raisedAt := 1 } {}).cycle ∧
     (getPart (stDebug { raised0 with debug := true } {}) 0).halt.debug = true ∧ (stDebug {} {} { stepping := true }).mgmt.dbg.stepping = true) ∧
    (let s := stDebug debug0 coreStopped
     (getPart s 0).halt.halted = true ∧ (getPart s 0).halt.debug = true ∧ partOfCore s 0 = some 0 ∧ (getSeq s 0 .L).run = .running ∧ (getSeq s 0 .L).origin = none ∧
     (getSeq (stDebug debug0 {}) 0 .L).run ≠ .running ∧ 6 ≤ (6 : BitVec 3).toNat ∧ selSpace 0 = 0 ∧ selSpace 0x1F0001 = 1 ∧ selOff 0x1F0001 / 8 < 32 ∧ partOfCore s (selCore 0x1F0001) = some 0) ∧
    (let s := stDebug debug0 { coreStopped with ctx := { coreStopped.ctx with rjobs := [rjobStarted] } } { eng := 1 }
     s.mgmt.dbg.eng = 1 ∧ (getCtx s 0).rjobs = rjobStarted :: [] ∧ rjobStarted.started = true ∧ rjobStarted.row + 1 < rjobStarted.h) ∧
    (let s := stDebug debug0 coreStopped { eng := 4 }
     let lifted := setPart s 0 { getPart s 0 with halt := { (getPart s 0).halt with raised := false } }
     gives (.blockEmit 0 0) (setWalker lifted 0 0 { getWalker lifted 0 0 with halted := false }) (fun _ => true) = true) := by
  decide +kernel

/-- One event answers a next state of which P holds. -/
theorem runsThrough_one {i : Instr} {s : State} {P : State → Bool} (h : gives i s P = true) : ∃ t, RunsThrough [i] s t ∧ P t = true := by
  unfold gives at h
  split at h
  case h_1 t e => exact ⟨t, ⟨t, e, rfl⟩, h⟩
  case h_2 => exact nomatch h

/-- The walker of core 0's die, freed from a debug halt, with this job, and a stop area at virtual base. -/
def stEstep (job : CollJob) (base : BitVec 56) : State :=
  let s := stDebug debug0 coreStopped { eng := 4 }
  let s := setPart s 0 { getPart s 0 with halt := { (getPart s 0).halt with raised := false }, stopbase := base }
  { setWalker s 0 0 { jobs := [job] } with groups := [(1, group1)] }
def unmapped1 : CollJob := job1 2 fun j => { j with record := { j.record with src := 0x00FF000000000000 } }

-- ESTEP of an engine that does nothing, and of one that faults, whose record is not kept or whose page is not there.
theorem witness_DebuggerEvents_engines :
    (∃ t, RunsThrough [.blockEmit 0 0] (setPart (stDebug debug0 coreStopped { eng := 4 }) 0 { partHalt {} 0 true with halt := { debug0 with raised := false } }) t ∧
      (!(getPart t 0).halt.raised) = true) ∧
    (∃ t, RunsThrough [.blockEmit 0 0] (stEstep unmapped1 0) t ∧ ((getPart t 0).halt.raised && tries (writeRecord t 0 (.walker 0)) fun _ => true) = true) ∧
    (∃ t, RunsThrough [.blockEmit 0 0] (stEstep unmapped1 0x40000000) t ∧ ((getPart t 0).halt.raised && waits (writeRecord t 0 (.walker 0))) = true) ∧
    (4 : BitVec 3).toNat = 4 ∧
    -- DBGOK: partitions with a debug halt, with none, and another than DBGCTL's
    (let s := stDebug debug0 coreStopped
     partLive s 0 = true ∧ partLive s 1 = false ∧ ((getPart s 0).halt.raised = true ∧ (getPart s 0).halt.debug = true) ∧ (getPart (stDebug {} {}) 0).halt.raised = false ∧
     s.mgmt.dbg.stepping = false) :=
  ⟨runsThrough_one (by decide +kernel), runsThrough_one (by decide +kernel), runsThrough_one (by decide +kernel), rfl, by decide⟩

/-! Partitions, boot, isolation and registers -/

/-- Partitions 0 and 1 hold clusters 0 and 1. -/
def two (reset : ResetStage := .idle) : State :=
  { parts := [(0, { part0 with reset := reset, asid := 1 }), (1, { en := true, clusters := 2, asid := 2 }), (2, { asid := 3 })], cores := [(0, coreStopped)],
    clusters := [(5, { scrubbed := false })], mem := tables }

theorem witness_PartitionLifeCycle :
    ((getPart (two) 0).en = true ∧ (getPart (two) 0).reset = .idle ∧ (getPart (two) 2).en = false ∧ (getPart (two .draining) 0).reset ≠ .idle ∧ 0 ∈ coresOf (two) 0 ∧ 16 ∉ coresOf (two) 0) ∧
    (resetDrained (two .draining) 0 = true ∧ resetDrained { two .draining with cores := [(0, { ctx := { sacc := [acc0 0] } })] } 0 = false ∧
      (two .destroying |> fun s => (getPart s 0).reset) = .destroying ∧ (two .draining |> fun s => (getPart s 0).reset) ≠ .destroying) ∧
    -- PCFG: another partition's cluster, an ASID in use, a cluster that is not scrubbed, and a set that can be taken
    ((∃ q, q < 8 ∧ q ≠ 2 ∧ (getPart (two) q).en = true ∧ (getPart (two) q).clusters &&& 3 ≠ 0) ∧ (∃ c, c < 36 ∧ (32 : BitVec 36).getLsbD c = true ∧ (getCluster (two) c).scrubbed = false) ∧
      enableRefused (two) 2 4 = false ∧ enableRefused (two) 2 2 = true ∧ enableRefused (two) 2 32 = true ∧ (getPart (two) 0).clusters = 1 ∧ (3 : BitVec 36) ≠ (getPart (two) 0).clusters ∧
      (0x8000000000000004 : Word).getLsbD 63 = true ∧ (4 : Word).getLsbD 63 = false) ∧
    (partOfCluster (two) 35 = none ∧ partOfCluster (two) 0 ≠ none ∧ 35 < 36 ∧ 35 ∈ List.range 36) :=
  ⟨by decide, by decide, ⟨⟨0, by decide⟩, ⟨5, by decide⟩, by decide +kernel⟩, by decide⟩

/-- A package whose dies are fenced up to a number, and kernel 1 with a cell lost. -/
def fencedTo (n : Nat) (k : Kernel) : State := { (two) with dies := (List.range n).map fun d => (d, { fenced := true }), parts := [(0, { part0 with clusters := 0x201, kernels := [k] })] }

theorem witness_BootAndDieLoss :
    ((getDie (two) 3).fenced = false ∧ 3 < 4 ∧ (getDie (fencedTo 4 (kern 1)) 3).fenced = true ∧ (two).mgmt.failure = false ∧ { (two).mgmt with failure := true }.failure = true) ∧
    ((∀ d, d < 4 → (getDie (fencedTo 4 (kern 1)) d).fenced = true) ∧ (getDie (fencedTo 1 (kern 1)) 1).fenced = false ∧ (∀ d, d < 1 → (getDie (fencedTo 1 (kern 1)) d).fenced = true) ∧
      liveDies (fencedTo 1 (kern 1)) 0 = 1 :: [] ∧ (getPart (fencedTo 1 (kern 1)) 0).kernels[(0 : Nat)]? = some (kern 1)) ∧
    -- a started cell that no core holds, one that a core holds, and a kernel that must not be issued again
    (let s := fencedTo 1 { kern 1 with started := [0, 5] }
     heldOrdinals s 0 1 = [0] ∧ 5 ∈ [0, 5] ∧ 5 ∉ (kern 1).ended ∧ 5 ∉ heldOrdinals s 0 1 ∧ kNoReissue (kern 1).record = false ∧ kNoReissue (List.replicate 5 0 ++ [16]) = true ∧ 0 < kGang (kern 1).record) ∧
    (∀ o, ¬ (o ∈ (kern 1).started ∧ o ∉ (kern 1).ended ∧ o ∉ heldOrdinals (fencedTo 1 (kern 1)) 0 1)) ∧
    (State.reset.mgmt.boot = .inReset ∧ { State.reset.mgmt with boot := .stage1 }.boot = .stage1 ∧ { State.reset.mgmt with boot := .ready }.boot ≠ .stage1) ∧
    -- whichever images stage 0 accepts, a list falls under one clause
    ∀ x : Image, (∀ y ∈ [x], imageAccepted y = true) ∨ ∃ y ∈ [x], imageAccepted y = false := by
  refine ⟨by decide, ⟨?_, by decide, ?_, by decide +kernel, rfl⟩, by decide +kernel, ?_, by decide, fun x => ?_⟩
  · intro d h
    match d, h with
    | 0, _ | 1, _ | 2, _ | 3, _ => rfl
  · intro d h
    match d, h with
    | 0, _ => rfl
  · rintro o ⟨h, -, g⟩
    have : o = 0 := List.mem_singleton.mp h
    subst this
    exact g (by decide)
  · cases h : imageAccepted x
    · exact Or.inr ⟨x, by simp, h⟩
    · exact Or.inl (by simpa using h)

/-- Partition 0 open to the management memory port. -/
def stPort (p : Partition → Partition := id) (m : Management := {}) : State :=
  { parts := [(0, p { part0 with consentRd := true, consentWr := true, budget := 1 })], mem := tables, mgmt := m }

theorem witness_IsolationServices :
    (let x := getPart (stPort) 0
     x.en = true ∧ x.reset = .idle ∧ 262143 < 262144 ∧ x.consentWr = true ∧ x.consentRd = true ∧ x.budget ≠ 0 ∧ (getPart (stPort) 1).en = false) ∧
    (∃ c q, resolveVirtual (stPort) 0 0 0xFF000000000000 64 { rd := true } = .error (.cause c, q)) ∧
    (∃ ps, resolveVirtual (stPort) 0 0 0x1000 64 { rd := true } = .ok ps ∧
      okWith (readAccess (stPort fun x => { x with budget := 0 }) 0 ps) (fun r => (List.range 64).all fun i => !r.2 i) = true) ∧
    (∃ ps, resolveVirtual (stPort) 0 0 0x1000 64 { wr := true } = .ok ps ∧
      okay (writeAccess (stPort fun x => { x with budget := 0 }) ps (fun _ => 1) (fun _ => false) .none false (clockVector (stPort) 0 [])) = true) ∧
    -- a line that waits for tokens, and lost ones that are read or partly written
    (∃ ps, resolveVirtual (stPort) 0 0 0x1000 64 { rd := true } = .ok ps ∧ (tokensReady (stPort) ps && !tokensReady (stPort fun x => { x with buckets := [(0, { rateNow := 1 })] }) ps &&
      !okay (readAccess { stPort fun x => { x with budget := 0 } with lostWords := [0x1000040] } 0 ps)) = true) ∧
    (∃ ps, resolveVirtual (stPort) 0 0 0x1000 64 { wr := true } = .ok ps ∧ (!writeWaits (stPort) ps) = true) ∧
    -- an invalidation that waits, one that ends, and one of a partition's that resets
    (let m : Management := { invBusy := true, invRun := (2, 0, 0) }
     let access : LAccess := { dest := .scalar 3 .i8, pieces := [{ loc := .dram 0x40000000 false false 0 0, addr := 0, first := 0, count := 8, pos := 0 }], fe := .none, fpc := 0, parcels := 0 }
     let waits : State := { stPort id m with tlb := [tlb0], cores := [(0, { ctx := { lacc := [access] } })] }
     accessUses waits 0 none (waits.tlb.filter (invNames m.invRun)) = true ∧
     (∀ p ∈ List.range 8, accessUses { stPort id m with tlb := [tlb0] } p none ({ stPort id m with tlb := [tlb0] }.tlb.filter (invNames m.invRun)) = false) ∧
     (stPort).mgmt.invBusy = false ∧ (getPart (stPort fun x => { x with reset := .draining, asid := 5 }) 0).reset ≠ .idle ∧ 1 < 2 ∧
     (getPart (stPort fun x => { x with reset := .draining, asid := 5 }) 0).asid = ((1, 5, 0) : Nat × BitVec 16 × Nat).2.1) ∧
    -- the key store: without a transport key, and with one, whatever unwrapping answers
    ((getPart (stPort) 0).transport = none ∧ (getPart (stPort fun x => { x with transport := some 7 }) 0).transport = some 7 ∧
      ∀ k w, unwrapKey k w = none ∨ ∃ key, unwrapKey k w = some key) ∧
    -- re-keying: no counter at its limit, a node's, a group's; below and at the last epoch
    (let node : CxlCounters := { node := [(2, [(0, BitVec.allOnes 56)])] }
     let group (n : Nat) : CxlCounters := { major := [(15, BitVec.allOnes 64)], minor := [(960, 63)], rekeyed := List.replicate n (0, 1) }
     let at' (x : CxlCounters) : State := { stPort id { cxlpop := 128, cxldata := 64 } with cxl := x }
     fullNode (at' {}) 0 = none ∧ majorFull (at' {}) 0 = false ∧ fullNode (at' node) 0 = some (2, 0) ∧ fullNode (at' (group 0)) 0 = none ∧ majorFull (at' (group 0)) 0 = true ∧
     epochOf (group 254) 0 < 255 ∧ epochOf (group 255) 0 = 255 ∧ cxlExhausted (group 255) 0 = false) := by
  refine ⟨by decide, exists_of_stops (by decide +kernel), exists_of_okWith (by decide +kernel), exists_of_okWith (by decide +kernel), exists_of_okWith (by decide +kernel),
    exists_of_okWith (by decide +kernel), by decide +kernel, ⟨rfl, rfl, fun k w => ?_⟩, by decide +kernel⟩
  cases unwrapKey k w with
  | none => exact Or.inl rfl
  | some key => exact Or.inr ⟨key, rfl⟩

-- A management access whose walk has no tokens, whose page is absent and whose die is lost; an invalidation of an export unit that an access of the package itself uses, and that none uses.
theorem witness_IsolationServices_more :
    (∃ dm q, resolveVirtual { stPort with parts := [(0, { poor with consentRd := true, budget := 1 })] } 0 0 0x1000 64 { rd := true } = .error (.busy dm, q)) ∧
    (∃ q, resolveVirtual (stPort) 0 0 0x40000000 64 { rd := true } = .error (.page, q)) ∧
    (∃ k, writeAccess { stPort with dies := (List.range 4).map fun d => (d, { fenced := true }) } (physPieces 0x40001000 64 0 0) (fun _ => 1) (fun _ => false) .none false [] = .error k) ∧
    (let e : TlbEntry := { owner := .exportMap, asid := 0, page := 0, size := 16, leaf := 0x40000007 }
     let access : LAccess := { flight [] with pieces := [{ loc := .dram 0x4000FFF0 false false 0 0, addr := 0x100, first := 0, count := 16, pos := 0 }] }
     let s : State := { stPort with cores := [(0, { ctx := { lacc := [access] } })] }
     2 < 3 ∧ exportUses s 0 [e] = true ∧ exportUses (stPort) 0 [e] = false) := by
  refine ⟨exists_of_lacks (by decide +kernel), exists_of_pages (by decide +kernel), exists_of_not_okay (by decide +kernel), by decide +kernel⟩

/-- Two leaf entries of 1 GiB, movable by swap or (layout byte 2) by optimistic copy, and a request. -/
def stMig (l : Byte) (busy mode : Bool) (pteb : BitVec 52 := 0x30008) : State :=
  { parts := [(0, part0)], mem := (tables.take 5) ++ (if l = 0 then [] else [(0x30001, l)]) ++ [(0x30003, 0x40), (0x30008, 0x1F), (0x3000B, 0x80)],
    dies := [(0, { mig := { ptea := 0x30000, pteb := pteb, frame := 0xC0000000, busy := busy, mode := mode } })] }
/-- No partition has page tables. -/
def noTables : State := { stMig 0 false false with parts := [] }
def pageOf (pte : Nat) (leaf : Word) : MigPage := { pte := pte, part := 0, bits := 30, leaf := leaf }

/-- What is found at an entry. -/
def isPage (r : Option MigPage) (m : MigPage) : Bool := match r with
  | some a => a.pte == m.pte && a.part == m.part && a.bits == m.bits && a.leaf == m.leaf
  | none => false

theorem page_of_isPage {r : Option MigPage} {m : MigPage} (h : isPage r m = true) : r = some m := by
  cases r with
  | none => exact nomatch h
  | some a =>
    obtain ⟨a1, a2, a3, a4⟩ := a
    obtain ⟨b1, b2, b3, b4⟩ := m
    simp only [isPage, Bool.and_eq_true, beq_iff_eq] at h
    obtain ⟨⟨⟨rfl, rfl⟩, rfl⟩, rfl⟩ := h
    rfl

theorem witness_MigrationEvents :
    migPage (stMig 0 false false) 0 0x30000 = some (pageOf 0x30000 0x4000001F) ∧ migPage (stMig 0 false false) 0 0x30008 = some (pageOf 0x30008 0x8000001F) ∧
    migPage (stMig 2 false true) 0 0x30000 = some (pageOf 0x30000 0x4000021F) ∧ migPage noTables 0 0x30008 = none ∧
    (bitOf (0x4000001F : Word).toNat 9 = false ∧ bitOf (0x4000021F : Word).toNat 9 = true ∧ isDram (stMig 0 false false) (leafFrame 0x4000001F) = true ∧
      isDram (stMig 0 false false) (leafFrame 0x8000001F) = true ∧ frameOk (stMig 0 false false) 0xC0000000 30 = true ∧ frameOk (stMig 0 false false) 0xC0010000 30 = false) ∧
    ((getDie (stMig 0 true false) 0).mig.busy = true ∧ (∀ e, e < 4 → (getDie (stMig 0 true false) e).inbox = []) ∧ frameBusy (stMig 0 true false) (leafFrame 0x4000001F) 30 = false ∧
      wverOf (stMig 2 true true) (leafFrame 0x4000021F) 16 = [0, 0, 0, 0] ∧
      frameBusy { stMig 0 true false with cores := [(0, { ctx := { sacc := [{ acc0 0 with pieces := [{ loc := .dram 0x80000000 false false 0 0, addr := 0, first := 0, count := 8, pos := 0 }] }] } })] }
        (leafFrame 0x8000001F) 30 = true) := by
  refine ⟨page_of_isPage (by decide +kernel), page_of_isPage (by decide +kernel), page_of_isPage (by decide +kernel), ?_, by decide +kernel,
    ⟨rfl, fun e _ => ?_, by decide +kernel, by decide +kernel, by decide +kernel⟩⟩
  · cases h : migPage noTables 0 0x30008 with
    | none => rfl
    | some a =>
      have g : (migPage noTables 0 0x30008).isNone = true := by decide +kernel
      rw [h] at g
      exact nomatch g
  · cases e <;> rfl

/-- Tables of five levels with entry 0 at 0x50000, a leaf of 64 KiB at frame 0xA0000000 or at the start of CXL memory with one line of another key, and
entry 1, a leaf at frame 0xA0010000; a request for them that runs. -/
def stPages (mode cxl : Bool) (wver : List (BitVec 32) := [0, 0, 0, 0]) : State :=
  { parts := [(0, part0)], mem := tables.take 4 ++ [(0x30000, 1), (0x30002, 4), (0x40000, 1), (0x40002, 5), (0x50000, 0x1F)] ++ (if mode then [(0x50001, 2)] else []) ++
      (if cxl then [(0x50005, 0x20)] else [(0x50003, 0xA0)]) ++ [(0x50008, 0x1F), (0x5000A, 1), (0x5000B, 0xA0)],
    dies := [(0, { mig := { ptea := 0x50000, pteb := 0x50008, frame := 0xC0000000, busy := true, mode := mode, wver := wver } })],
    mgmt := { cxlpop := 128, cxldata := 64 }, cxl := { minor := [(0, 1)] }, lineTags := if cxl then [(0x2000_0000_0000 / 64, { key := 1, integrity := 5 })] else [] }
/-- An entry is one of these pages, and whether a line of it fails its check. -/
def page16 (s : State) (pte : Nat) (fails : Bool) : Bool := match migPage s 0 pte with
  | some a => a.bits == 16 && pageFails s 0 a (leafFrame a.leaf) == fails && !frameBusy s (leafFrame a.leaf) 16
  | none => false

theorem page_of_page16 {s : State} {pte : Nat} {fails : Bool} (h : page16 s pte fails = true) :
    ∃ a, migPage s 0 pte = some a ∧ pageFails s 0 a (leafFrame a.leaf) = fails ∧ frameBusy s (leafFrame a.leaf) a.bits = false := by
  unfold page16 at h
  cases m : migPage s 0 pte with
  | none => exact nomatch m ▸ h
  | some a =>
    simp only [m, Bool.and_eq_true, beq_iff_eq, Bool.not_eq_true'] at h
    exact ⟨a, rfl, h.1.2, h.1.1 ▸ h.2⟩

theorem witness_MigrationEvents_end :
    (getDie (stPages true false) 0).mig.busy = true ∧ (∀ e, e < 4 → (getDie (stPages true false) e).inbox = []) ∧
    -- an optimistic copy with no write between, one with a write, one with a line that fails; a swap, and one with such a line
    (∃ a, migPage (stPages true false) 0 0x50000 = some a ∧ pageFails (stPages true false) 0 a (leafFrame a.leaf) = false ∧ frameBusy (stPages true false) (leafFrame a.leaf) a.bits = false) ∧
    wverOf (stPages true false) 0xA0000000 16 = [0, 0, 0, 0] ∧ wverOf (stPages true false [1, 0, 0, 0]) 0xA0000000 16 ≠ [1, 0, 0, 0] ∧
    (∃ a, migPage (stPages true true) 0 0x50000 = some a ∧ pageFails (stPages true true) 0 a (leafFrame a.leaf) = true ∧ frameBusy (stPages true true) (leafFrame a.leaf) a.bits = false) ∧
    (∃ b, migPage (stPages false false) 0 0x50008 = some b ∧ pageFails (stPages false false) 0 b (leafFrame b.leaf) = false ∧ frameBusy (stPages false false) (leafFrame b.leaf) b.bits = false) ∧
    (∃ a, migPage (stPages false true) 0 0x50000 = some a ∧ pageFails (stPages false true) 0 a (leafFrame a.leaf) = true ∧ frameBusy (stPages false true) (leafFrame a.leaf) a.bits = false) := by
  refine ⟨rfl, fun e _ => ?_, page_of_page16 (by decide +kernel), by decide +kernel, by decide +kernel, page_of_page16 (by decide +kernel), page_of_page16 (by decide +kernel),
    page_of_page16 (by decide +kernel)⟩
  cases e <;> rfl

/-- No entry stands at an address that is not one of a word. -/
theorem leafBits_unaligned {s : State} {d p a : Nat} (h : a % 8 ≠ 0) : ∀ l t, leafBits s d p a l t = none
  | [], _ => rfl
  | (lo, n, leafOk) :: l, t => by
    have k : (a % 8 == 0) = false := beq_false_of_ne h
    simp only [leafBits, k, Bool.and_false, Bool.false_and, Bool.false_eq_true, if_false, List.findSome?_eq_none_iff]
    intro i _
    split
    · split
      · exact leafBits_unaligned h l _
      · rfl
    · rfl

theorem migPage_unaligned {s : State} {d a : Nat} (h : a % 8 ≠ 0) : migPage s d a = none := by
  have f : findLeaf s d a = none := by
    simp only [findLeaf, List.findSome?_eq_none_iff]
    intro p _
    split
    · rw [leafBits_unaligned h]; rfl
    · rfl
  rw [migPage, f]

-- A fenced die; the second entry that is none; a new frame that is still mapped, and one that is not.
theorem witness_MigrationEvents_frames :
    (getDie { stMig 0 true false with dies := [(0, { fenced := true, mig := { busy := true } })] } 0).fenced = true ∧
    migPage (stMig 0 true false 0x3000C) 0 0x3000C = none ∧
    stillMapped (stMig 0 true false) 0 0x80000000 30 [] = true ∧ stillMapped noTables 0 0xC0000000 30 [0x30000] = false :=
  ⟨by decide, migPage_unaligned (by decide), by decide +kernel, by decide +kernel⟩

theorem witness_RegistersAndWindows :
    (let s := two
     (getPart s 0).en = true ∧ (getPart s 0).reset = .idle ∧ (getPart s 2).en = false ∧ (getPart (two .draining) 0).reset ≠ .idle ∧ 255 < 256 ∧ 63 < 64 ∧ 12 < 13 ∧
     ¬ (∀ p, p < 8 → (getPart s p).en = false) ∧ (0 : Word).getLsbD 7 = false ∧ (2 : Word).setWidth 16 ≠ (getPart s 0).asid) ∧
    (∀ p, (getPart State.reset p).en = false) ∧
    (let s := stPort
     (getPart s 0).kernels = [] ∧ tfind (getPart s 0).keys 0 ≠ none ∧ (∀ g ∈ spans 0x40000000 8, isDram s g.1 = true) ∧
     okay (writeAccess s (physPieces 0x40000000 8 0 0) (fun _ => 1) (fun _ => false) .none false (clockVector s 0 [])) = true) ∧
    (∃ v c g, engineResolve (stPort) 0 0 0xFF000000000000 8 { rd := true } = .stop v c g) ∧
    (∃ ps, engineResolve (stPort) 0 0 0x1000 8 { rd := true } = .ok ps ∧ okWith (readAccess (stPort) 0 ps) (fun r => (List.range 8).all fun i => !r.2 i) = true) ∧
    (∃ ps, engineResolve (stPort) 0 0 0x1000 8 { wr := true } = .ok ps ∧
      okay (writeAccess (stPort) ps (fun _ => 1) (fun _ => false) .none false (clockVector (stPort) 0 [])) = true) ∧
    -- the window takes writes or does not; accesses that wait, that are out of the window, and that meet a lost word; a metadata word
    ((stPort).mgmt.boot = .inReset ∧ (stPort id { boot := .ready }).mgmt.boot = .ready ∧ ¬ 0x1000000000 + 8 ≤ 2 ^ 36 ∧ 0xFFFFFFFF8 + 8 ≤ 2 ^ 36 ∧
      (stPort fun x => { x with kernels := [kern 1] }).parts ≠ [] ∧ (getPart (stPort fun x => { x with kernels := [kern 1] }) 0).kernels ≠ []) ∧
    (let s := stPort fun x => { x with buckets := [(0, { rateNow := 1 })] }
     tokensReady s (physPieces 0x40001000 8 0 0) = false ∧ (∃ u, engineRead s 0 0 0x1000 8 { rd := true } = .wait u) ∧ ∃ u, engineWrite s 0 0 0x1000 (List.replicate 8 0) = .wait u) ∧
    (let s := { stPort with lostWords := [0x1000000] }
     okay (writeAccess s (physPieces 0x40000000 8 0 0) (fun _ => 1) (fun _ => false) .none false (clockVector s 0 [])) = false) ∧
    (∃ v k g, engineWrite (stPort) 0 0 0xFF000000000000 (List.replicate 8 0) = .stop v k g) ∧
    (let s := stPort id { cxlpop := 128, cxldata := 64 }
     isDram s (64 * (0x2010_0000_0000 / 64)) = false ∧ inMeta s (64 * (0x2010_0000_0000 / 64)) = true) ∧
    (isDram State.reset (64 * 0x1000000) = true ∧ inMeta State.reset (64 * 2 ^ 50) = false ∧ isDram State.reset (64 * 2 ^ 50) = false ∧ 35 < 36 ∧ 524287 < 524288) := by
  refine ⟨by decide, fun p => rfl, by decide +kernel, exists_of_trapped (by decide +kernel), exists_of_tries (by decide +kernel), exists_of_tries (by decide +kernel), by decide,
    ⟨by decide +kernel, exists_of_waits (by decide +kernel), exists_of_waits (by decide +kernel)⟩, by decide +kernel, exists_of_trapped (by decide +kernel), by decide +kernel,
    by decide +kernel⟩

theorem witness_InstructionsComplete :
    XReady (stq 0) [.q 0, .q 0, .q 0] (.w 0) ∧ XReady (stx 1 2 3) [.dir 1, .dir 2, .dir 4] (.dir 3) ∧ XReady (stx 1 2 3) [] (.dir 3) ∧
    (queuesReady (xContext (stx 1 2 3)) [.dir 1, .dir 2] = true ∧ (stx 1 2 3).cur.2 = .X) ∧
    -- MGO, and the jobs of the resolver
    (let s := stMgo (10 * 2 ^ 26) (1 + 6 * 2 ^ 21 + 2 ^ 29) [(1, hnd)]
     let t := latchTable (xContext s) s.freeCtr
     tfind (xContext s).slots (nHslot t) ≠ none ∧ nestBad t = false ∧ nestAlias t (xContext s).tview (xContext s).aview (footprint (xContext s)) = false ∧
     (xContext s).nestRun = none ∧ (xContext s).nestPend = none ∧ (xContext s).rjobs = [] ∧ s.cur.2 = .X) ∧
    -- translation
    ((getPart (stm .L (sq [(1, 0x100)])) 0).ktlbi = true ∧ curPart (stm .L (sq [(1, 0x100)])) = 0 ∧ ownAccessesSeen (stm .L (sq [(1, 0x100)])) = true ∧
      (∀ va es, accessUses (stm .L (sq [(1, 0x100)])) 0 va es = false)) ∧
    (lookup (stm .L (sq [(1, 0x100)])) 0 0 0x100 (some (.core 0)) = .leaf 0x4000001F 30 ∧ 0xFF_0000_0000_0000 ≤ (rd (stm .L (sq [(1, 0xFF000000000000)])) 1).toNat) ∧
    -- tokens, tickets, handles, fences
    (let s := stm .S (sq []) { slots := [(1, hnd)] }
     (rd s 3).toNat ≤ tokenWord s (curCtx s) ∧ tfind (curCtx s).tickets (rd s 3).toNat = none ∧ tfind (curCtx s).slots 1 ≠ none ∧ slotBusy s s.cur.1 1 = false ∧
     (curCtx s).sacc = [] ∧ (curCtx s).bmvStamps = [] ∧ bmvPending s s.cur.1 = false) := by
  refine ⟨by unfold XReady; decide +kernel, by unfold XReady; decide +kernel, by unfold XReady; decide +kernel, by decide, by decide +kernel, ⟨rfl, rfl, by decide, fun va es => rfl⟩,
    by decide +kernel, by decide⟩

theorem witness_EventsComplete :
    -- a bank that wakes, and bank 3 among them
    ((getCtx (st .X (sq []) { waking := 8 }) 0).waking ≠ 0 ∧ (getCtx (st .X (sq []) { waking := 8 }) 0).waking.getLsbD 3 = true) ∧
    -- a nest of floats that may start, one that wants a shard whose granules are full, one with its shard, one at its end
    (let j : NestJob := { nest1 false 0 none with table := [(13, BitVec.ofNat 64 (1 + 2 ^ 29))] }
     let x := getCtx (stNest j) 0
     x.nestRun = some j ∧ x.mHalted = false ∧ j.started = false ∧ mayStart x j.arrival (nestSets j) = true ∧ tileFaulted x (nestDest j.table j.aview j.foot) = false ∧
     nAsrc j.table = false ∧ integerNest j.table = false) ∧
    (let j := nest1 true 0 none
     let s := stNest j
     let ps := shardPieces (clusterOfCore 0) hnd 0 (shardReads j.table)
     tfind (getCtx s 0).engStop 3 = none ∧ wantedShard j = some 0 ∧ loadedOf j 0 = [] ∧ tfind (getCtx s 0).slots (nHslot j.table) = some hnd ∧
     (∀ p ∈ ps, granuleTaken s 0 j p = true) ∧ firstFault ps (readPieces s (dieOfCore 0) ps 0) = none ∧ firstBeyond ps = none ∧ j.latch = none) ∧
    (let j := nest1 true 0 (some latch1)
     j.started = true ∧ j.beat < nBeats j.table ∧ latch1.ws = nWs j.table j.beat ∧ nBeats (nest1 true 1 none).table ≤ (nest1 true 1 none).beat) ∧
    -- a resolver job that may start, and ACLR at its end
    (let x := getCtx (stRes .canon false 0) 0
     x.rjobs = rjob .canon false :: [] ∧ x.rHalted = false ∧ mayStart x (rjob .canon false).arrival (rjobSets (rjob .canon false)) = true ∧
     (rjob (.aclr 5) true).started = true ∧ (rjob (.aclr 5) true).kind = .aclr 5) ∧
    -- the Lamplighter
    (let s := stLamp { waiting := [(owner0, 0x100)] } [(0x40000100, 1)]
     blockHeld s 0 0 = true ∧ (getLamp s 0 0).waiting = (owner0, 0x100) :: [] ∧ (getLamp s 0 0).running = none ∧ lampRuns s 0 0 = true ∧
     ∃ v, engineRead s 0 0 0x100 64 { rd := true } = .ok v ∧ (!headerBad ((List.range 8).map (recWord v))) = true) ∧
    (let e := move1 false 0 0
     (itin [e]).entries = [e] ∧ (itin [e]).stopped = none ∧ 0 < (itin [e]).win.getD e.hop 1 ∧ entryTracked (stLamp {}) (itin [e]) 0 = false ∧ e.issued = false ∧ e.group = 0 ∧ e.hop ≠ 2 ∧
     e.complete = false ∧ e.lateAt = none ∧ e.due < (getCore (stLamp {} [] 6) e.watch).mprog.toNat ∧ (getCore (stLamp {} [] 5) e.watch).mprog.toNat ≤ e.due) ∧
    (let e := move1 true 0 0 (List.range 8)
     e.issued = true ∧ e.complete = false ∧ e.failed = false ∧ 16 * e.landed.length = e.size ∧ e.sequ = none ∧ (itin [] true).ended = true ∧ (itin [] true).stopped = none ∧
     ∀ e ∈ (itin [] true).entries, e.complete = true) ∧
    -- the copy engine
    (let s := stCard none [{ card0 0 with started := false }]
     tget [] (getDie s 0).cards 0 = [{ card0 0 with started := false }] ∧ cardReady s 0 0 { card0 0 with started := false } = true ∧ partRuns s 0 = true ∧ (getDie s 0).fenced = false) ∧
    (let s := stCard (some (card0 0))
     (getCluster s 0).card = some (card0 0) ∧ (getCluster s 0).halted = false ∧ (getCluster s 0).stopInfo = none ∧ partLive s 0 = true ∧
     ∃ r, cardChunk s 0 (card0 0) = .ok r ∧ true = true) ∧
    -- a collective
    (let c := live1 false
     let s := stColl group1 c
     liveColl s 7 = some c ∧ c.collid = 7 ∧ c.finished = false ∧ tfind s.groups c.group = some group1 ∧ c.admitted = false ∧ s.colls = [c] ∧
     (∀ i ∈ group1.top :: group1.leaves.map (·.1), (tget {} s.switches i : Switch).live.length < 1024) ∧ ∀ m ∈ group1.members, m = s.pkg) ∧
    (let c := { live1 true with firstContribution := some 4 }
     let s := stColl group2 c [] [] [(9, { blocks := [swb [5] false (some 3)] })]
     c.admitted = true ∧ c.record.op = 2 ∧ c.record.mire = true ∧ 9 ∈ group2.top :: group2.leaves.map (·.1) ∧ 0 < totalBlocks c.record ∧
     (switchBlock (tget {} s.switches 9) 7 0).closed = false ∧ timerOf s c group2 9 (switchBlock (tget {} s.switches 9) 7 0) = some 3 ∧
     1 ∈ group2.members ∧ 1 ∉ c.ends ∧ 1 ≠ s.pkg ∧ c.allTimers = none) ∧
    -- the gatherer
    (let g := { gath 2 with openBatch := some (batch0 3) }
     partLive (stRequests g) 0 = true ∧ (getGath (stRequests g) 0 0).openBatch = some (batch0 3) ∧ g.dead ≠ 0 ∧ blockHeld (stRequests {}) 0 0 = true ∧
     (getGath (stRequests {}) 0 0).openBatch = none) ∧
    -- migration
    (let s := stMig 0 false false
     let u := setMig s 0 { (getDie s 0).mig with mode := false }
     (getDie s 0).mig.busy = false ∧ isPage (migPage u 0 0x30000) (pageOf 0x30000 0x4000001F) = true ∧ isPage (migPage u 0 0x30008) (pageOf 0x30008 0x8000001F) = true ∧
     bitOf (0x4000001F : Word).toNat 9 = false ∧ bitOf (0x8000001F : Word).toNat 9 = false ∧ isDram u (leafFrame 0x4000001F) = true ∧ isDram u (leafFrame 0x8000001F) = true ∧
     frameOk u 0xC0000000 30 = true) ∧
    (let s := stMig 2 false true
     let u := setMig s 0 { (getDie s 0).mig with mode := true }
     isPage (migPage u 0 0x30000) (pageOf 0x30000 0x4000021F) = true ∧ bitOf (0x4000021F : Word).toNat 9 = true ∧ isDram u (leafFrame 0x4000021F) = true ∧ frameOk u 0xC0000000 30 = true) ∧
    ((getDie (stPages true false) 0).mig.busy = true ∧ (getDie (stPages true false) 0).mig.mode = true ∧ (∀ e, e < 4 → (getDie (stPages true false) e).inbox = []) ∧
     ∀ a, migPage (stPages true false) 0 0x50000 = some a → frameBusy (stPages true false) (leafFrame a.leaf) a.bits = false) := by
  refine ⟨by decide, by decide +kernel, by decide +kernel, by decide, by decide +kernel, ⟨by decide, rfl, rfl, by decide, exists_of_tries (by decide +kernel)⟩, by decide, by decide,
    by decide, ⟨rfl, by decide, rfl, by decide, exists_of_tries (by decide +kernel)⟩, by decide +kernel, by decide +kernel, by decide +kernel, by decide +kernel, by decide +kernel,
    rfl, rfl, fun e _ => by cases e <;> rfl, fun a h => ?_⟩
  obtain ⟨b, m, -, f⟩ := page_of_page16 (s := stPages true false) (pte := 0x50000) (fails := false) (by decide +kernel)
  obtain rfl : a = b := Option.some.inj (h.symm.trans m)
  exact f

-- The row before the last of a clear, and its last.
theorem witness_EventsComplete_rows : (rjob2 (.aclr 0) 0 true).started = true ∧ ¬ (rjob2 (.aclr 0) 0 true).h ≤ 0 + 1 ∧ (rjob2 (.aclr 0) 1 true).h ≤ 1 + 1 := by decide

/-! ## Loads, stores, handles and fences: an instruction and the event that completes it -/

/-- P holds of the next state of j after that of i. -/
def then' (i j : Instr) (s : State) (P : State → Bool) : Bool := gives i s fun t => gives j t P

-- Byte 0x80 at virtual 0x100, sign-extended and zero-extended.
theorem test_lds_i8 : then' (.lds .i8 3 (adr 1) .none) (.loadDataArrive 0) (stm .L (sq [(1, 0x100)]) {} [(0x40000100, 0x80), (0x40000101, 0x7F)]) (fun t => rd t 3 == 0xFFFFFFFFFFFFFF80) = true := by
  decide +kernel
theorem test_lds_n16 : then' (.lds .n16 3 (adr 1) .none) (.loadDataArrive 0) (stm .L (sq [(1, 0x100)]) {} [(0x40000100, 0x80), (0x40000101, 0xFF)]) (fun t => rd t 3 == 0xFF80) = true := by
  decide +kernel
-- A misaligned 16-bit load is the alignment fault 0x11 at its address (R252).
theorem test_lds_misaligned : gives (.lds .i16 3 (adr 1) .none) (stm .L (sq [(1, 0x101)]))
    (fun t => (curSeq t).halted && ((curSeq t).origin.map fun i => (i.cause, i.eaddr)) == some (0x11, 0x100)) = true := by decide +kernel
theorem test_sts_i16 : then' (.sts .i16 2 (adr 1) .none) (.writePerformHome 0 0) (stm .S (sq [(1, 0x100), (2, 0x12345)]))
    (fun t => memGet t.mem 0x40000100 == 0x45 && memGet t.mem 0x40000101 == 0x23 && memGet t.mem 0x40000102 == 0) = true := by decide +kernel
-- 0xFFFFFFFF + 3 in 32 bits; the old value comes back sign-extended.
theorem test_atadd : then' (.atadd .i32 .none .core 3 2 { gb := 1, off := 0, slot := none }) (.writePerformHome 0 0)
    (stm .S (sq [(1, 0x100), (2, 3)]) {} [(0x40000100, 0xFF), (0x40000101, 0xFF), (0x40000102, 0xFF), (0x40000103, 0xFF)])
    (fun t => memGet t.mem 0x40000100 == 2 && memGet t.mem 0x40000101 == 0 && rd t 3 == 0xFFFFFFFFFFFFFFFF) = true := by decide +kernel
-- HGET of 2 stripes takes the lowest free ones of the reservation and returns success (R221).
theorem test_hget : gives (.hget 3 1 2) (sth [(1, 2)]) (fun t => rd t 3 == 1 && (tfind (curCtx t).slots 2).map (fun h => (h.base, h.len)) == some (0, 2)) = true := by decide +kernel
theorem test_fence : gives (.fence .full .core) (stm .S { sq [] with pc := 4 }) (fun t => (curSeq t).pc == 12 && !(curSeq t).halted) = true := by decide +kernel

-- "abc" (FIPS 180-4's example), the AES-256 block of FIPS 197 (appendix C.3) and the first X25519 vector of RFC 7748 (section 5.2).
theorem test_sha512 : (sha512 [0x61, 0x62, 0x63]).take 8 = [0xDD, 0xAF, 0x35, 0xA1, 0x93, 0x61, 0x7A, 0xBA] := by decide +kernel
theorem test_aes : aesDecrypt ((aesSchedule (natBytes 0x1F1E1D1C1B1A191817161514131211100F0E0D0C0B0A09080706050403020100 32)).reverse)
    [0x8E, 0xA2, 0xB7, 0xCA, 0x51, 0x67, 0x45, 0xBF, 0xEA, 0xFC, 0x49, 0x90, 0x4B, 0x49, 0x60, 0x89] = (List.range 16).map fun i => BitVec.ofNat 8 (17 * i) := by decide +kernel
theorem test_x25519 : x25519 0xC49A44BA44226A50185AFCC10A4C1462DD5E46824B15163B9D7C52F06BE346A5 0x4C1CABD0A603A9103B35B326EC2466727C5FB124A4C19435DB3030586768DBE6 =
    0x5285A2775507B454F7711C4903CFEC324F088DF24DEA948E90C6E99D3755DAC3 := by decide +kernel

end Sys2Proof.Tests
end

/-! SUPPORT. What translating and counting accesses leaves behind (R245, R293, R375, R376, R382): OnlyCounting composes, and each operation that a read of an
engine is made of keeps to it. -/

namespace Sys2Proof.Machine

/-- An event completes with the next state that its meaning answers. -/
theorem completes_of_next {i : Instr} {s t : State} {P : State → Prop} (h : exec i s = .next t) (ht : P t) : Completes i s P := ⟨t, h, ht⟩

/-! ## Tables -/

theorem tfind_tdel {α : Type} (t : Table α) (n m : Nat) : tfind (tdel t n) m = if m = n then none else tfind t m := by
  induction t with
  | nil => simp [tdel, tfind]
  | cons p t ih =>
    obtain ⟨k, v⟩ := p
    have ih' : tfind (t.filter fun p => p.1 != n) m = if m = n then none else tfind t m := ih
    by_cases hk : k = n
    · subst hk
      by_cases hm : m = k
      · simpa [tdel, hm] using ih'
      · simp [tdel, tfind, ih', hm, Ne.symm hm]
    · by_cases hm : k = m
      · subst hm
        simp [tdel, tfind, hk]
      · simp [tdel, tfind, hk, hm, ih']

theorem tfind_map {α : Type} (f : α → α) (t : Table α) (n : Nat) : tfind (t.map fun p => (p.1, f p.2)) n = (tfind t n).map f := by
  induction t with
  | nil => rfl
  | cons p t ih =>
    simp only [List.map_cons, tfind, ih]
    split <;> rfl

/-! ## OnlyCounting as a relation -/

theorem isDram_congr {s t : State} (hd : t.mgmt.cxldata = s.mgmt.cxldata) (hp : t.mgmt.cxlpop = s.mgmt.cxlpop) (pa : Nat) : isDram t pa = isDram s pa := by
  simp [isDram, regionOf, cxlData, hd, hp]

/-- Which bytes belong to counter records and rings is fixed by the regions of DRAM and by the migration blocks of the dies. -/
theorem counterByte_congr {s t : State} (hd : ∀ pa, isDram t pa = isDram s pa) (hm : ∀ d, restOfDie (getDie t d) = restOfDie (getDie s d)) (a : Nat) :
    CounterByte t a ↔ CounterByte s a := by
  have base (d : Nat) : (getDie t d).mig.base = (getDie s d).mig.base := congrArg (·.mig.base) (hm d)
  have ring (d : Nat) : (getDie t d).mig.ring = (getDie s d).mig.ring := congrArg (·.mig.ring) (hm d)
  have logsize (d : Nat) : (getDie t d).mig.logsize = (getDie s d).mig.logsize := congrArg (·.mig.logsize) (hm d)
  simp only [CounterByte, recordAddrOf, hd, base, ring, logsize]

namespace OnlyCounting

variable {s t u : State}

theorem frame (h : OnlyCounting s t) :
    t = { s with mem := t.mem, dies := t.dies, clusters := t.clusters, parts := t.parts, mgmt := { s.mgmt with mirq := t.mgmt.mirq, messages := t.mgmt.messages },
                 lineTags := t.lineTags, lostWords := t.lostWords, tlb := t.tlb, tlbGone := t.tlbGone, farMem := t.farMem, freeCtr := t.freeCtr } := h.1
theorem mem (h : OnlyCounting s t) : MemSameButCounters s t := h.2.1
theorem cluster (h : OnlyCounting s t) (c : Nat) : restOfCluster (getCluster t c) = restOfCluster (getCluster s c) := h.2.2.1 c
theorem die (h : OnlyCounting s t) (d : Nat) : restOfDie (getDie t d) = restOfDie (getDie s d) := h.2.2.2.1 d
theorem part (h : OnlyCounting s t) (p : Nat) : { getPart t p with buckets := [] } = { getPart s p with buckets := [] } := h.2.2.2.2.1 p
theorem lineTag (h : OnlyCounting s t) (n : Nat) : tfind t.lineTags n = tfind s.lineTags n := h.2.2.2.2.2.1 n
theorem lostWord (h : OnlyCounting s t) (n : Nat) : n ∈ t.lostWords ↔ n ∈ s.lostWords := h.2.2.2.2.2.2 n

theorem cycle (h : OnlyCounting s t) : t.cycle = s.cycle := by rw [h.frame]

theorem isDram (h : OnlyCounting s t) (pa : Nat) : isDram t pa = isDram s pa := isDram_congr (by rw [h.frame]) (by rw [h.frame]) pa

theorem counterByte (h : OnlyCounting s t) (a : Nat) : CounterByte t a ↔ CounterByte s a := counterByte_congr h.isDram h.die a

theorem refl (s : State) : OnlyCounting s s :=
  ⟨rfl, fun _ _ => rfl, fun _ => rfl, fun _ => rfl, fun _ => rfl, fun _ => rfl, fun _ => Iff.rfl⟩

theorem trans (h : OnlyCounting s t) (k : OnlyCounting t u) : OnlyCounting s u := by
  refine ⟨?_, fun a ha => ?_, fun c => (k.cluster c).trans (h.cluster c), fun d => (k.die d).trans (h.die d), fun p => (k.part p).trans (h.part p),
    fun n => (k.lineTag n).trans (h.lineTag n), fun n => (k.lostWord n).trans (h.lostWord n)⟩
  · refine k.frame.trans ?_
    rw [h.frame]
  · exact (k.mem a (mt (h.counterByte a).1 ha)).trans (h.mem a ha)

/-- A fold of operations that only count only counts. -/
theorem foldl {α : Type} {f : State → α → State} (hf : ∀ t a, OnlyCounting t (f t a)) (l : List α) (s : State) : OnlyCounting s (l.foldl f s) :=
  List.foldlRecOn l f (refl s) fun t ht a _ => ht.trans (hf t a)

theorem ite {c : Prop} [Decidable c] (h : OnlyCounting s t) (k : OnlyCounting s u) : OnlyCounting s (if c then t else u) := by
  split
  · exact h
  · exact k

end OnlyCounting

/-- A partition's work, whatever it has left of its buckets: what OnlyCounting keeps of it. -/
theorem OnlyCounting.partEq {s t : State} (h : OnlyCounting s t) (p : Nat) : getPart t p = { getPart s p with buckets := (getPart t p).buckets } :=
  congrArg (fun x : Partition => { x with buckets := (getPart t p).buckets }) (h.part p)

/-! ## Free values, translations, tokens -/

theorem onlyCounting_takeFree (s : State) (n : Nat) : OnlyCounting s (takeFree s n) :=
  ⟨rfl, fun _ _ => rfl, fun _ => rfl, fun _ => rfl, fun _ => rfl, fun _ => rfl, fun _ => Iff.rfl⟩

theorem onlyCounting_keepEntry (s : State) (e : TlbEntry) : OnlyCounting s (keepEntry s e) :=
  ⟨rfl, fun _ _ => rfl, fun _ => rfl, fun _ => rfl, fun _ => rfl, fun _ => rfl, fun _ => Iff.rfl⟩

theorem onlyCounting_farSeen (s : State) (ps : List Piece) : OnlyCounting s (farSeen s ps) :=
  ⟨rfl, fun _ _ => rfl, fun _ => rfl, fun _ => rfl, fun _ => rfl, fun _ => rfl, fun _ => Iff.rfl⟩

theorem onlyCounting_setMirq (s : State) (b : Nat) : OnlyCounting s (setMirq s b) :=
  ⟨rfl, fun _ _ => rfl, fun _ => rfl, fun _ => rfl, fun _ => rfl, fun _ => rfl, fun _ => Iff.rfl⟩

theorem onlyCounting_updBucket (s : State) (k : Nat) (f : Bucket → Bucket) : OnlyCounting s (updBucket s k f) := by
  refine ⟨rfl, fun _ _ => rfl, fun _ => rfl, fun _ => rfl, fun p => ?_, fun _ => rfl, fun _ => Iff.rfl⟩
  by_cases h : p = k / 16
  · subst h; simp [updBucket]
  · simp [updBucket, getPart_setPart_other _ _ h]

theorem onlyCounting_takeDemand (s : State) (dm : Demand) : OnlyCounting s (takeDemand s dm) := by
  refine OnlyCounting.foldl (fun t kn => ?_) dm s
  obtain ⟨k, n⟩ := kn
  simp only [takeBucket]
  split
  · exact .refl t
  · exact onlyCounting_updBucket t k _

/-! ## Cards that stray -/

/-- A card that strays notes what it meets, and nothing else of a cluster changes. -/
theorem onlyCounting_noteTouch (s : State) (ps : List Piece) : OnlyCounting s (noteTouch s ps) := by
  unfold noteTouch
  split
  · refine ⟨rfl, fun _ _ => rfl, fun c => ?_, fun _ => rfl, fun _ => rfl, fun _ => rfl, fun _ => Iff.rfl⟩
    simp only [getCluster, tget]
    rw [tfind_map (fun x : Cluster => { x with card := x.card.map fun c => if c.strays then { c with touched := c.touched ++ ps } else c })]
    cases tfind s.clusters c with
    | none => rfl
    | some x =>
      simp only [Option.map_some, Option.getD_some, restOfCluster, Option.map_map]
      congr 2
      funext k
      simp only [Function.comp]
      split <;> rfl
  · exact .refl s

/-! ## Views and the writes that the part makes of its own (R245, R293, R299) -/

theorem onlyCounting_setDie (s : State) (d : Nat) (x : Die) (h : restOfDie x = restOfDie (getDie s d)) : OnlyCounting s (setDie s d x) := by
  refine ⟨rfl, fun _ _ => rfl, fun _ => rfl, fun e => ?_, fun _ => rfl, fun _ => rfl, fun _ => Iff.rfl⟩
  by_cases he : e = d
  · subst he; simpa using h
  · simp [getDie_setDie_other _ _ he]

theorem onlyCounting_installUpdate (s : State) (d n : Nat) : OnlyCounting s (installUpdate s d n) := by
  unfold installUpdate
  dsimp only
  split
  · exact .refl s
  · split
    · exact .refl s
    · exact onlyCounting_setDie s d _ rfl

theorem onlyCounting_catchUp (s : State) (d : Nat) (need : List Nat) : OnlyCounting s (catchUp s d need) := by
  refine OnlyCounting.foldl (fun t _ => ?_) _ s
  unfold installNext
  dsimp only
  split
  · exact onlyCounting_installUpdate t d _
  · exact .refl t

/-- The keys of lines, and below the lost words, after a write that leaves what belongs to each line as it was. -/
theorem lineTags_of_same (lines : Table LineMeta) (tags : Table LineTag) (h : ∀ l ∈ lines, l.2.tag = tfind tags l.1) (n : Nat) :
    tfind (lines.foldl (fun t (n, m) => match m.tag with
      | some k => tput t n k
      | none => tdel t n) tags) n = tfind tags n := by
  refine List.foldlRecOn (motive := fun r => ∀ n, tfind r n = tfind tags n) lines _ (fun _ => rfl) (fun r hr l hl n => ?_) n
  obtain ⟨k, m⟩ := l
  have hk : m.tag = tfind tags k := h _ hl
  dsimp only
  by_cases e : n = k
  · subst e
    cases ht : m.tag with
    | none => simp [tfind_tdel, ← hk, ht]
    | some v => simp [tfind_tput_same, ← hk, ht]
  · cases m.tag with
    | none => simp [tfind_tdel, e, hr]
    | some v => simp [tfind_tput_other _ _ e, hr]

theorem lostWords_of_same (lines : Table LineMeta) (lost : List Nat) (h : ∀ l ∈ lines, l.2.lost = true ↔ l.1 ∈ lost) (n : Nat) :
    n ∈ lines.foldl (fun l (n, m) => if m.lost then n :: l.filter (· != n) else l.filter (· != n)) lost ↔ n ∈ lost := by
  refine List.foldlRecOn (motive := fun r => ∀ n, n ∈ r ↔ n ∈ lost) lines _ (fun _ => Iff.rfl) (fun r hr l hl n => ?_) n
  obtain ⟨k, m⟩ := l
  have hk : m.lost = true ↔ k ∈ lost := h _ hl
  dsimp only
  by_cases e : n = k
  · subst e
    split <;> simp_all
  · split <;> simp [e, hr]

/-- A write at a home that changes bytes of counters alone and leaves what belongs to its lines as it was. -/
theorem onlyCounting_performAtHome (s : State) (home : Nat) (cells : List Host.Cell) (lines : Table LineMeta) (deps : List Nat)
    (hc : ∀ c ∈ cells, CounterByte s c.1) (ht : ∀ l ∈ lines, l.2.tag = tfind s.lineTags l.1) (hl : ∀ l ∈ lines, l.2.lost = true ↔ l.1 ∈ s.lostWords) :
    OnlyCounting s (performAtHome s home cells lines deps).1 := by
  let s0 := catchUp s home deps
  let stamp := tget 0 (getDie s0 home).clock home + 1
  let s1 := [0, 1, 2, 3].foldl (fun t d =>
    if d = home then setDie t d { getDie t d with clock := tput (getDie t d).clock home stamp }
    else setDie t d { getDie t d with lag := lagCells s0 d cells, lagLines := lagLinesOf s0 d lines,
                                      inbox := (getDie t d).inbox ++ [{ home := home, stamp := stamp, deps := deps, cells := cells, lines := lines }] }) s0
  have h1 : OnlyCounting s s1 := by
    refine (onlyCounting_catchUp s home deps).trans (OnlyCounting.foldl (fun t d => ?_) _ _)
    split
    · exact onlyCounting_setDie t d _ rfl
    · exact onlyCounting_setDie t d _ rfl
  refine h1.trans ⟨rfl, fun a ha => ?_, fun _ => rfl, fun _ => rfl, fun _ => rfl, fun n => ?_, fun n => ?_⟩
  · refine memGet_memPutAll_other _ _ _ fun c hcm e => ha ((h1.counterByte a).2 ?_)
    exact e ▸ hc c hcm
  · exact lineTags_of_same lines _ (fun l hlm => (ht l hlm).trans (h1.lineTag _).symm) n
  · exact lostWords_of_same lines _ (fun l hlm => (hl l hlm).trans (h1.lostWord _).symm) n

theorem onlyCounting_homeWrite (s : State) (d a v : Nat) (h : ∀ k, k < 8 → CounterByte s (a + k)) : OnlyCounting s (homeWrite s d a v) := by
  unfold homeWrite
  split
  · refine onlyCounting_performAtHome s _ _ _ _ (fun c hc => ?_) (fun l hl => ?_) (fun l hl => ?_)
    · obtain ⟨k, hk, rfl⟩ := List.mem_map.1 hc
      exact h k (List.mem_range.1 hk)
    · rw [List.mem_singleton.1 hl]
    · rw [List.mem_singleton.1 hl]; simp
  · exact .refl s

theorem onlyCounting_notifyMig (s : State) (pa i : Nat) (write : Bool) (hpa : isDram s pa = true) : OnlyCounting s (notifyMig s (homeOf pa) i write) := by
  unfold notifyMig
  dsimp only
  split
  · exact .refl s
  next hlog =>
    split
    · exact onlyCounting_setDie s _ _ rfl
    · have h1 := onlyCounting_setDie s (homeOf pa) { getDie s (homeOf pa) with mig := { (getDie s (homeOf pa)).mig with rtail := (getDie s (homeOf pa)).mig.rtail + 1 } } rfl
      refine (h1.trans (onlyCounting_homeWrite _ _ _ _ fun k hk => (h1.counterByte _).2 ?_)).trans (onlyCounting_setMirq _ _)
      have hslot : (getDie s (homeOf pa)).mig.rtail.toNat % 2 ^ (getDie s (homeOf pa)).mig.logsize.toNat < 2 ^ (getDie s (homeOf pa)).mig.logsize.toNat :=
        Nat.mod_lt _ (Nat.two_pow_pos _)
      exact ⟨pa, hpa, .inr ⟨hlog, by omega, by omega⟩⟩

theorem onlyCounting_countFrame (s : State) (pa : Nat) (write : Bool) : OnlyCounting s (countFrame s pa write) := by
  unfold countFrame
  split
  next hpa =>
    have h1 (v : Nat) : OnlyCounting s (homeWrite s (homeOf pa) (recordAddrOf s pa) v) :=
      onlyCounting_homeWrite s _ _ v fun k hk => ⟨pa, hpa, .inl ⟨by omega, by omega⟩⟩
    exact .ite ((h1 _).trans (onlyCounting_notifyMig _ pa _ write (((h1 _).isDram pa).trans hpa))) (h1 _)
  · exact .refl s

/-! ## Reads and translations of an engine (R245, R376, R382) -/

theorem onlyCounting_countReads (s : State) (ps : List Piece) : OnlyCounting s (countReads s ps) :=
  ((onlyCounting_farSeen s ps).trans (onlyCounting_noteTouch _ ps)).trans <|
    (onlyCounting_takeDemand _ _).trans <| OnlyCounting.foldl (fun t (w : Nat × Bool × Nat × Nat) => onlyCounting_countFrame t (64 * w.1) false) _ _

theorem onlyCounting_cacheWalk (s : State) (d part va : Nat) (who : Option Translator) : OnlyCounting s (cacheWalk s d part va who) := by
  unfold cacheWalk
  split
  · exact .refl s
  · have hw (asid : BitVec 16) : OnlyCounting s ((walkReads s d part va who).foldl (fun t (a, lo, e) =>
        let t := countFrame t a false
        if bitOf e.toNat 0 && !bitOf e.toNat 4 then keepEntry t { owner := .walk d, asid := asid, page := va / 2 ^ lo, size := lo, leaf := e } else t) s) := by
      refine OnlyCounting.foldl (fun t x => ?_) _ s
      obtain ⟨a, lo, e⟩ := x
      dsimp only
      split
      · exact (onlyCounting_countFrame t a false).trans (onlyCounting_keepEntry _ _)
      · exact onlyCounting_countFrame t a false
    dsimp only
    split
    · exact (hw _).trans (onlyCounting_keepEntry _ _)
    · exact hw _

theorem onlyCounting_cachePage (s : State) (d part va : Nat) (who : Option Translator) : OnlyCounting s (cachePage s d part va who) := by
  refine OnlyCounting.trans ?_ (onlyCounting_cacheWalk _ d part va who)
  unfold keepOwnExport
  split
  · exact onlyCounting_keepEntry s _
  · exact .refl s

theorem onlyCounting_cacheAccess (s : State) (d part a n : Nat) (who : Option Translator) : OnlyCounting s (cacheAccess s d part a n who) :=
  (onlyCounting_takeDemand s _).trans (OnlyCounting.foldl (fun t va => onlyCounting_cachePage t d part va who) _ _)

theorem onlyCounting_failedWalk (s : State) (d part va : Nat) (who : Option Translator) : OnlyCounting s (failedWalk s d part va who) := by
  unfold failedWalk
  split
  · exact .refl s
  · exact (onlyCounting_takeDemand s _).trans (onlyCounting_cachePage _ d part va who)

theorem onlyCounting_engineTouch (s : State) (d part a n : Nat) (need : Need) (who : Option Translator) : OnlyCounting s (engineTouch s d part a n need who) := by
  unfold engineTouch
  split
  · exact .refl s
  · exact ((onlyCounting_cacheAccess s d part a n who).trans (onlyCounting_countReads _ _)).trans (onlyCounting_takeFree _ 32)

end Sys2Proof.Machine

/-! SUPPORT. Streams, launch records and resident kernels (R305 to R311, R316, R320, R321, R333): what the operations on a stream do, and how the reads of the
distributor end. -/

namespace Sys2Proof.Machine

/-! ## Fields of a word -/

theorem fieldOf_eq (w : Word) (lo n : Nat) : fieldOf w lo n = w.toNat / 2 ^ lo % 2 ^ n := by rw [fieldOf, Nat.shiftRight_eq_div_pow]

theorem fieldOf_zero (w : Word) (n : Nat) : fieldOf w 0 n = w.toNat % 2 ^ n := rfl

/-! ## Interrupts -/

@[simp] theorem setPirq_mem (s : State) (p b : Nat) : (setPirq s p b).mem = s.mem := by unfold setPirq; dsimp only; split <;> [rfl; (split <;> rfl)]

theorem getPart_setPirq {s : State} {p : Nat} (b : Nat) (h : (getPart s p).reset = .idle) :
    getPart (setPirq s p b) p = { getPart s p with pirq := (getPart s p).pirq ||| BitVec.ofNat 4 (2 ^ b) } := by
  have e (m : Management) (y : Partition) : getPart { setPart s p y with mgmt := m } p = y := getPart_setPart s p y
  unfold setPirq
  simp only [h, bne_self_eq_false, Bool.false_eq_true, if_false]
  split
  · exact e _ _
  · exact getPart_setPart s p _

/-! ## Streams (R305) -/

@[simp] theorem setStream_mem (s : State) (p n : Nat) (x : Stream) : (setStream s p n x).mem = s.mem := rfl
@[simp] theorem setStream_cycle (s : State) (p n : Nat) (x : Stream) : (setStream s p n x).cycle = s.cycle := rfl
@[simp] theorem getPart_setStream (s : State) (p n : Nat) (x : Stream) :
    getPart (setStream s p n x) p = { getPart s p with streams := tput (getPart s p).streams n x } := getPart_setPart s p _
@[simp] theorem getStream_setStream (s : State) (p n : Nat) (x : Stream) : getStream (setStream s p n x) p n = x := by simp [getStream]
theorem getStream_setStream_other (s : State) (p : Nat) {n m : Nat} (x : Stream) (h : m ≠ n) : getStream (setStream s p n x) p m = getStream s p m := by
  simp [getStream, tget_tput_other _ _ _ h]

/-- A stream is read from its partition's table. -/
theorem getStream_congr {s t : State} {p : Nat} (h : (getPart t p).streams = (getPart s p).streams) (n : Nat) : getStream t p n = getStream s p n := by
  rw [getStream, h, getStream]

theorem streamReady_congr {s t : State} {p : Nat} (h : (getPart t p).kernels = (getPart s p).kernels) (n : Nat) : streamReady t p n = streamReady s p n := by
  rw [streamReady, h, streamReady]

theorem streamReady_iff (s : State) (p n : Nat) : streamReady s p n = true ↔ ∃ k ∈ (getPart s p).kernels, k.stream = n ∧ kernelReady k = true := by
  simp [streamReady]

/-- A stream that takes records belongs to a partition that no reset runs on. -/
theorem reset_of_streamOpen {s : State} {p n : Nat} (h : streamOpen s p n = true) : (getPart s p).reset = .idle := by
  simp only [streamOpen, partRuns, Bool.and_eq_true, beq_iff_eq] at h
  exact h.1.1.1.1.2

theorem OnlyCounting.setStream {s t : State} (h : OnlyCounting s t) (p n : Nat) (x : Stream) : OnlyCounting (setStream s p n x) (setStream t p n x) := by
  refine ⟨congrArg (fun u : State => { u with parts := (Machine.setStream t p n x).parts }) h.frame, h.mem, h.cluster, h.die, fun q => ?_, h.lineTag, h.lostWord⟩
  by_cases hq : q = p
  · subst hq
    rw [getPart_setStream, getPart_setStream, h.partEq]
  · simpa [Machine.setStream, getPart_setPart_other _ _ hq] using h.part q

/-! ## How an engine's read ends -/

/-- A partition but for its buckets and for the pages whose requests failed (R376, R403). -/
def restOfWork (x : Partition) : Partition := { x with buckets := [], failedPages := [] }

/-- What a read that does not come to its end may leave: no more than counting does, and a failed page that is no longer noted. -/
def ReadLeaves (s t : State) : Prop := MemSameButCounters s t ∧ t.cycle = s.cycle ∧ ∀ p, restOfWork (getPart t p) = restOfWork (getPart s p)

theorem OnlyCounting.readLeaves {s t : State} (h : OnlyCounting s t) : ReadLeaves s t :=
  ⟨h.mem, h.cycle, fun p => congrArg (fun x : Partition => { x with failedPages := [] }) (h.part p)⟩

theorem readLeaves_endFailed (s : State) (part va : Nat) (who : Option Translator) : ReadLeaves s (endFailed s part va who) := by
  refine ⟨fun _ _ => rfl, rfl, fun p => ?_⟩
  by_cases h : p = part
  · subst h; simp [endFailed, restOfWork]
  · simp [endFailed, getPart_setPart_other _ _ h]

section
variable {s t : State} {d part a n : Nat} {need : Need} {who : Option Translator} {c : BitVec 8} {g : Nat}

theorem engineResolve_stop (h : engineResolve s d part a n need who = .stop t c g) : ReadLeaves s t := by
  unfold engineResolve at h
  split at h
  next va _ =>
    obtain ⟨rfl, _, _⟩ := Try.stop.inj h
    exact readLeaves_endFailed s part va who
  next =>
    split at h
    next e k _ =>
      cases e with
      | page => exact nomatch h
      | busy dm => exact nomatch h
      | cause b =>
        obtain ⟨rfl, _, _⟩ := Try.stop.inj h
        exact (onlyCounting_failedWalk s d part k who).readLeaves
    next => exact nomatch h

theorem engineRead_stop (h : engineRead s d part a n need who = .stop t c g) : ReadLeaves s t := by
  unfold engineRead at h
  split at h
  next => exact nomatch h
  next hr =>
    obtain ⟨rfl, _, _⟩ := Try.stop.inj h
    exact engineResolve_stop hr
  next =>
    split at h
    next => exact nomatch h
    next =>
      obtain ⟨rfl, _, _⟩ := Try.stop.inj h
      exact (onlyCounting_engineTouch s d part a n need who).readLeaves
    next => exact nomatch h
    next => exact nomatch h

/-- The distributor's reads leave what counting leaves (R245). -/
theorem readAll_ok {l : List (Nat × Nat × Need)} {more : Demand} {vs : List Nat} (h : readAll s part l more = .ok (t, vs)) : OnlyCounting s t := by
  induction l generalizing more t vs with
  | nil =>
    unfold readAll at h
    split at h
    · cases h; exact .refl s
    · exact nomatch h
  | cons x rest ih =>
    obtain ⟨a, n, need⟩ := x
    unfold readAll at h
    split at h
    · split at h
      next hr => cases h; exact ih hr
      next hr => exact ih h
    · split at h
      · exact nomatch h
      · exact nomatch h
      · split at h
        next hr =>
          split at h
          · exact nomatch h
          · cases h; exact (ih hr).trans (onlyCounting_engineTouch _ _ _ _ _ _ _)
        next hr => exact ih h

theorem readAll_stop {l : List (Nat × Nat × Need)} {more : Demand} (h : readAll s part l more = .stop t c g) : ReadLeaves s t := by
  induction l generalizing more t c g with
  | nil =>
    unfold readAll at h
    split at h <;> exact nomatch h
  | cons x rest ih =>
    obtain ⟨a, n, need⟩ := x
    unfold readAll at h
    split at h
    · split at h
      next => exact nomatch h
      next => exact ih h
    · split at h
      next => exact nomatch h
      next hr =>
        obtain ⟨rfl, _, _⟩ := Try.stop.inj h
        exact engineResolve_stop hr
      next =>
        split at h
        next hr =>
          split at h
          · obtain ⟨rfl, _, _⟩ := Try.stop.inj h
            exact ((readAll_ok hr).trans (onlyCounting_engineTouch _ _ _ _ _ _ _)).readLeaves
          · exact nomatch h
        next => exact ih h

/-- A kernel that loads is the one that its record names, numbered and prioritised as the partition stood before the reads (R51, R311). -/
theorem loadKernel_ok {r : List Word} {early : Bool} {k : Kernel} (h : loadKernel s part n r early = .ok (t, .ok k)) :
    OnlyCounting s t ∧ ∃ record images, k = newKernel s part n r record early images := by
  unfold loadKernel at h
  dsimp only at h
  split at h
  next => exact nomatch h
  next => cases h
  next =>
    split at h
    · cases h
    split at h
    · cases h
    split at h
    next => exact nomatch h
    next => cases h
    next hr => cases h; exact ⟨readAll_ok hr, _, _, rfl⟩

theorem loadKernel_error {r : List Word} {early : Bool} {e : Nat} (h : loadKernel s part n r early = .ok (t, .error e)) : ReadLeaves s t := by
  unfold loadKernel at h
  dsimp only at h
  split at h
  next => exact nomatch h
  next hr => cases h; exact readAll_stop hr
  next hr =>
    split at h
    · cases h; exact (readAll_ok hr).readLeaves
    split at h
    · cases h; exact (readAll_ok hr).readLeaves
    split at h
    next => exact nomatch h
    next hr => cases h; exact readAll_stop hr
    next => cases h

end

/-! ## Kernel records (R309) -/

theorem kExtent_eq (r : List Word) (l : Nat) : kExtent r l = max 1 (kBound r l) := by
  unfold kExtent
  split <;> omega

theorem kCells_eq (r : List Word) : kCells r = ((List.range 6).map fun l => max 1 (kBound r l)).prod := by
  simp only [kCells, List.prod_eq_foldl, List.foldl_map, kExtent_eq]

/-! ## A stream in error (R307, R375) -/

/-- The stream stands in STATE 3 with an ERR and a serial number, and its partition's cause is set. -/
def StreamStopped (s : State) (p n err serial : Nat) (t : State) : Prop :=
  (getStream t p n).state = 3 ∧ (getStream t p n).err = BitVec.ofNat 8 err ∧ (getStream t p n).serial = BitVec.ofNat 32 serial ∧
    (getPart t p).pirq.getLsbD 1 = true ∧ MemSameButCounters s t

theorem getPart_streamError {s : State} {p : Nat} (n err serial : Nat) (h : (getPart s p).reset = .idle) :
    getPart (streamError s p n err serial) p =
      { getPart s p with streams := tput (getPart s p).streams n { getStream s p n with state := 3, err := BitVec.ofNat 8 err, serial := BitVec.ofNat 32 serial },
                         pirq := (getPart s p).pirq ||| BitVec.ofNat 4 (2 ^ 1) } := by
  rw [streamError, getPart_setPirq 1 (by simpa using h), getPart_setStream]

theorem getStream_streamError {s : State} {p : Nat} (n err serial : Nat) (h : (getPart s p).reset = .idle) :
    getStream (streamError s p n err serial) p n = { getStream s p n with state := 3, err := BitVec.ofNat 8 err, serial := BitVec.ofNat 32 serial } := by
  rw [getStream, getPart_streamError n err serial h]
  simp

theorem streamStopped_streamError {s t : State} {p : Nat} (n err serial : Nat) (hm : MemSameButCounters s t) (h : (getPart t p).reset = .idle) :
    StreamStopped s p n err serial (streamError t p n err serial) := by
  have e : (streamError t p n err serial).mem = t.mem := setPirq_mem _ _ _
  refine ⟨?_, ?_, ?_, ?_, fun a ha => by rw [e]; exact hm a ha⟩
  · rw [getStream_streamError n err serial h]
  · rw [getStream_streamError n err serial h]
  · rw [getStream_streamError n err serial h]
  · rw [getPart_streamError n err serial h]
    simp

/-! ## The end of a record (R307) -/

/-- The oldest record of a stream has ended, and no other stream and no byte of memory has changed. -/
def RecordEnded (s : State) (p n : Nat) (t : State) : Prop :=
  let x := getStream s p n
  (getStream t p n).head.toNat = (x.head.toNat + 1) % 2 ^ x.logsize.toNat % 2 ^ 16 ∧ (getStream t p n).done = x.done + 1 ∧
    (getStream t p n).taken = x.taken - 1 ∧ (getStream t p n).record = [] ∧ (∀ m, m ≠ n → getStream t p m = getStream s p m) ∧ MemSame s t

theorem recordEnded_endRecord {s t : State} {p : Nat} (n : Nat) (hs : (getPart t p).streams = (getPart s p).streams) (hm : MemSame s t) :
    RecordEnded s p n (endRecord t p n) := by
  unfold RecordEnded endRecord
  dsimp only
  rw [getStream_setStream, getStream_congr hs]
  refine ⟨by simp, rfl, rfl, rfl, fun m h => ?_, hm⟩
  rw [getStream_setStream_other _ _ _ h, getStream_congr hs]

theorem RecordEnded.memSame {s t : State} {p n : Nat} (h : RecordEnded s p n t) : MemSame s t := h.2.2.2.2.2

@[simp] theorem getPart_endRecord_cnt (s : State) (p n : Nat) : (getPart (endRecord s p n) p).cnt = (getPart s p).cnt := by simp [endRecord]
@[simp] theorem getPart_endRecord_kernels (s : State) (p n : Nat) : (getPart (endRecord s p n) p).kernels = (getPart s p).kernels := by simp [endRecord]
@[simp] theorem getPart_endRecord_reset (s : State) (p n : Nat) : (getPart (endRecord s p n) p).reset = (getPart s p).reset := by simp [endRecord]

theorem getPart_addCounter (s : State) (p c : Nat) (v : Word) :
    getPart (addCounter s p c v) p = { getPart s p with cnt := tput (getPart s p).cnt c (tget 0 (getPart s p).cnt c + v) } := getPart_setPart s p _

/-! ## A kernel becomes resident (R311, R316) -/

theorem getStream_beginAging (s t : State) (p n : Nat) :
    getStream (beginAging s t p n) p n =
      { getStream t p n with agedAt := if streamReady s p n = false ∧ streamReady t p n = true then t.cycle else (getStream t p n).agedAt } := by
  unfold beginAging
  by_cases h : streamReady s p n = false ∧ streamReady t p n = true
  · simp [h]
  · simp only [h, if_false]
    split
    next k => simp only [Bool.and_eq_true, Bool.not_eq_true'] at k; exact absurd k h
    next => rfl

theorem getPart_beginAging (s t : State) (p n : Nat) : ∃ l, getPart (beginAging s t p n) p = { getPart t p with streams := l } := by
  unfold beginAging
  split
  · exact ⟨_, getPart_setStream ..⟩
  · exact ⟨_, rfl⟩

@[simp] theorem beginAging_mem (s t : State) (p n : Nat) : (beginAging s t p n).mem = t.mem := by unfold beginAging; split <;> rfl

/-- A kernel among those of its partition, with the next serial number taken. -/
def withKernel (w : State) (p : Nat) (k : Kernel) : State :=
  setPart w p { getPart w p with kernels := (getPart w p).kernels ++ [k], nextSerial := (getPart w p).nextSerial + 1 }

section
variable (w : State) (p n : Nat) (k : Kernel)

theorem getPart_withKernel : getPart (withKernel w p k) p =
    { getPart w p with kernels := (getPart w p).kernels ++ [k], nextSerial := (getPart w p).nextSerial + 1 } := getPart_setPart w p _

theorem makeResident_eq : makeResident w p n k =
    setStream (beginAging w (withKernel w p k) p n) p n
      { getStream (beginAging w (withKernel w p k) p n) p n with record := [], taken := if k.early then 2 else 1 } := rfl

theorem makeResident_mem : (makeResident w p n k).mem = w.mem := by rw [makeResident_eq, setStream_mem, beginAging_mem]; rfl

theorem getPart_makeResident : ∃ l, getPart (makeResident w p n k) p =
    { getPart w p with kernels := (getPart w p).kernels ++ [k], nextSerial := (getPart w p).nextSerial + 1, streams := l } := by
  obtain ⟨l, h⟩ := getPart_beginAging w (withKernel w p k) p n
  rw [makeResident_eq, getPart_setStream, h, getPart_withKernel]
  exact ⟨_, rfl⟩

/-- The stream holds no record any more, and counts quanta from now where the kernel gives it its first ready cell. -/
theorem getStream_makeResident : ∃ a, getStream (makeResident w p n k) p n = { getStream w p n with record := [], taken := if k.early then 2 else 1, agedAt := a } ∧
    (k.stream = n → streamReady w p n = false → kernelReady k = true → a = w.cycle) := by
  have hx : getStream (withKernel w p k) p n = getStream w p n := getStream_congr (by rw [getPart_withKernel]) n
  rw [makeResident_eq, getStream_setStream, getStream_beginAging, hx]
  refine ⟨_, rfl, fun hn hw hk => if_pos ⟨hw, (streamReady_iff _ p n).2 ⟨k, ?_, hn, hk⟩⟩⟩
  rw [getPart_withKernel]
  simp

end

end Sys2Proof.Machine

/-! PROOF. Streams and kernels (R305 to R311, R316, R320, R321, R333): each event of a stream, and the statement StreamsAndKernels from them. -/

namespace Sys2Proof.Machine

/-! ## What a read leaves the distributor to work with -/

section
variable {s t : State}

theorem ReadLeaves.reset (h : ReadLeaves s t) (p : Nat) : (getPart t p).reset = (getPart s p).reset := congrArg (·.reset) (h.2.2 p)
theorem ReadLeaves.kernels (h : ReadLeaves s t) (p : Nat) : (getPart t p).kernels = (getPart s p).kernels := congrArg (·.kernels) (h.2.2 p)
theorem ReadLeaves.nextSerial (h : ReadLeaves s t) (p : Nat) : (getPart t p).nextSerial = (getPart s p).nextSerial := congrArg (·.nextSerial) (h.2.2 p)
theorem ReadLeaves.streams (h : ReadLeaves s t) (p : Nat) : (getPart t p).streams = (getPart s p).streams := congrArg (·.streams) (h.2.2 p)

end

/-! ## Taking a launch record (R307) -/

section
variable {s : State} {p n : Nat} (hl : streamOpen s p n = true) (ht : (getStream s p n).taken = 0) (hp : pendingRecords (getStream s p n) ≠ 0)
include hl ht hp

theorem launchRecordTake_wait {u : State} (h : engineRead s s.mgmt.master p (recordAddr (getStream s p n) 0) 64 { rd := true } = .wait u) :
    execLaunchRecordTake p n s = .next u := by simp [execLaunchRecordTake, hl, ht, hp, masterDie, h]

theorem launchRecordTake_stop {u : State} {k : BitVec 8} {g : Nat}
    (h : engineRead s s.mgmt.master p (recordAddr (getStream s p n) 0) 64 { rd := true } = .stop u k g) :
    Completes (.launchRecordTake p n) s (StreamStopped s p n 1 0) := by
  refine completes_of_next (t := streamError u p n 1 0) (?_ : execLaunchRecordTake p n s = _) ?_
  · simp [execLaunchRecordTake, hl, ht, hp, masterDie, h]
  · have hr := engineRead_stop h
    exact streamStopped_streamError n 1 0 hr.1 ((hr.reset p).trans (reset_of_streamOpen hl))

variable {v : Nat} (h : engineRead s s.mgmt.master p (recordAddr (getStream s p n) 0) 64 { rd := true } = .ok v)
include h

theorem launchRecordTake_bad (hb : launchBad (launchWords s (getStream s p n) v) = true) :
    Completes (.launchRecordTake p n) s (StreamStopped s p n 1 0) := by
  have hu : OnlyCounting s (engineTouch (takeFree s 8) s.mgmt.master p (recordAddr (getStream s p n) 0) 64 { rd := true }) :=
    (onlyCounting_takeFree s 8).trans (onlyCounting_engineTouch _ _ _ _ _ _ _)
  refine completes_of_next (t := streamError _ p n 1 0) (?_ : execLaunchRecordTake p n s = _)
    (streamStopped_streamError n 1 0 hu.mem ((hu.readLeaves.reset p).trans (reset_of_streamOpen hl)))
  simp [execLaunchRecordTake, hl, ht, hp, masterDie, h, hb]

theorem launchRecordTake_good (hb : launchBad (launchWords s (getStream s p n) v) = false) :
    Completes (.launchRecordTake p n) s fun t =>
      OnlyCounting (setStream s p n { getStream s p n with taken := 1, record := launchWords s (getStream s p n) v,
                                                               state := if ((launchWords s (getStream s p n) v).getD 0 0).toNat % 2 ^ 2 = 1 then 2 else 1 }) t := by
  have hu : OnlyCounting s (engineTouch (takeFree s 8) s.mgmt.master p (recordAddr (getStream s p n) 0) 64 { rd := true }) :=
    (onlyCounting_takeFree s 8).trans (onlyCounting_engineTouch _ _ _ _ _ _ _)
  refine completes_of_next (?_ : execLaunchRecordTake p n s = _) (hu.setStream p n _)
  simp [execLaunchRecordTake, hl, ht, hp, masterDie, h, hb, wordOf, fieldOf_zero]

end

theorem launchRecordTake_idle {s : State} {p n : Nat} (h : ¬ streamOpen s p n = true ∨ (getStream s p n).taken ≠ 0 ∨ pendingRecords (getStream s p n) = 0) :
    execLaunchRecordTake p n s = .next s := by
  unfold execLaunchRecordTake
  dsimp only
  rw [if_pos (by simpa [or_assoc] using h)]

/-! ## A wait and a signal (R307) -/

theorem holdsKind_iff (x : Stream) (k : Nat) : holdsKind x k = true ↔ x.record ≠ [] ∧ (x.record.getD 0 0).toNat % 2 ^ 2 = k := by
  simp [holdsKind, fieldOf_zero, wordOf]

section
variable {s : State} {p n : Nat} (hl : streamOpen s p n = true)
include hl

theorem streamWaitSatisfied_early (hk : holdsKind (getStream s p n) 1 = true)
    (h : (tget 0 (getPart s p).cnt (((getStream s p n).record.getD 0 0).toNat / 2 ^ 8 % 2 ^ 8)).toNat < ((getStream s p n).record.getD 1 0).toNat) :
    execStreamWaitSatisfied p n s = .next s := by
  unfold execStreamWaitSatisfied
  dsimp only
  rw [if_pos]
  simp only [hl, hk, fieldOf_eq, wordOf, BitVec.lt_def, h, decide_true, Bool.or_true]

theorem streamWaitSatisfied_come (hk : holdsKind (getStream s p n) 1 = true)
    (h : ((getStream s p n).record.getD 1 0).toNat ≤ (tget 0 (getPart s p).cnt (((getStream s p n).record.getD 0 0).toNat / 2 ^ 8 % 2 ^ 8)).toNat) :
    execStreamWaitSatisfied p n s = .next (endRecord s p n) := by
  unfold execStreamWaitSatisfied
  dsimp only
  rw [if_neg]
  simp only [hl, hk, fieldOf_eq, wordOf, BitVec.lt_def, Nat.not_lt.2 h, decide_false, Bool.or_false, Bool.not_true, Bool.false_eq_true, not_false_eq_true]

theorem signalRecord_next (hk : holdsKind (getStream s p n) 2 = true) :
    execSignalRecord p n s =
      .next (endRecord (addCounter s p (((getStream s p n).record.getD 0 0).toNat / 2 ^ 8 % 2 ^ 8) ((getStream s p n).record.getD 1 0)) p n) := by
  simp [execSignalRecord, hl, hk, fieldOf_eq, wordOf]

end

/-- A record that ends after a counter has risen. -/
theorem recordEnded_addCounter (s : State) (p n c : Nat) (v : Word) :
    let t := endRecord (addCounter s p c v) p n
    RecordEnded s p n t ∧ tget 0 (getPart t p).cnt c = tget 0 (getPart s p).cnt c + v ∧ ∀ m, m ≠ c → tget 0 (getPart t p).cnt m = tget 0 (getPart s p).cnt m := by
  refine ⟨recordEnded_endRecord n (by rw [getPart_addCounter]) fun _ => rfl, ?_, fun m h => ?_⟩
  · rw [getPart_endRecord_cnt, getPart_addCounter, tget_tput_same]
  · rw [getPart_endRecord_cnt, getPart_addCounter, tget_tput_other _ _ _ h]

/-! ## A kernel becomes resident (R308 to R311, R321) -/

section
variable {s : State} {p n : Nat} (hl : streamOpen s p n = true) (hk : holdsKind (getStream s p n) 0 = true)
include hl hk

theorem kernelResident_wait {u : State} (h : loadKernel s p n (getStream s p n).record false = .wait u) : execKernelResident p n s = .next u := by
  simp [execKernelResident, hl, hk, h]

theorem kernelResident_ok {w : State} {k : Kernel} (h : loadKernel s p n (getStream s p n).record false = .ok (w, .ok k)) :
    execKernelResident p n s = .next (makeResident w p n k) := by
  simp [execKernelResident, hl, hk, h]

theorem kernelResident_error {w : State} {e : Nat} (h : loadKernel s p n (getStream s p n).record false = .ok (w, .error e)) :
    Completes (.kernelResident p n) s fun t =>
      StreamStopped s p n e (getPart s p).nextSerial.toNat t ∧ (getPart t p).nextSerial = (getPart s p).nextSerial + 1 ∧
        (getPart t p).kernels = (getPart s p).kernels := by
  have hr := loadKernel_error h
  have hx : execKernelResident p n s =
      .next (streamError (setPart w p { getPart w p with nextSerial := (getPart w p).nextSerial + 1 }) p n e (getPart w p).nextSerial.toNat) := by
    simp [execKernelResident, hl, hk, h]
  have hi : (getPart (setPart w p { getPart w p with nextSerial := (getPart w p).nextSerial + 1 }) p).reset = .idle := by
    rw [getPart_setPart]
    exact (hr.reset p).trans (reset_of_streamOpen hl)
  rw [hr.nextSerial] at hx hi
  refine completes_of_next hx ⟨streamStopped_streamError n e _ hr.1 hi, ?_, ?_⟩
  · rw [getPart_streamError _ _ _ hi, getPart_setPart]
  · rw [getPart_streamError _ _ _ hi, getPart_setPart]
    exact hr.kernels p

end

/-- A kernel that becomes resident once reads have been counted. -/
theorem makeResident_after {s w : State} (h : OnlyCounting s w) (p n : Nat) (k : Kernel) (hn : k.stream = n) :
    let t := makeResident w p n k
    (getPart t p).kernels = (getPart s p).kernels ++ [k] ∧ (getPart t p).nextSerial = (getPart s p).nextSerial + 1 ∧ (getStream t p n).record = [] ∧
      (getStream t p n).taken = (if k.early then 2 else 1) ∧ (getStream t p n).head = (getStream s p n).head ∧ MemSameButCounters s t ∧
      (streamReady s p n = false → kernelReady k = true → (getStream t p n).agedAt = s.cycle) := by
  obtain ⟨l, hp⟩ := getPart_makeResident w p n k
  obtain ⟨a, hx, ha⟩ := getStream_makeResident w p n k
  have hr := h.readLeaves
  dsimp only
  rw [hp, hx]
  refine ⟨?_, ?_, rfl, rfl, ?_, fun b hb => ?_, fun hs hk => ?_⟩
  · exact congrArg (· ++ [k]) (hr.kernels p)
  · exact congrArg (· + 1) (hr.nextSerial p)
  · show (getStream w p n).head = _
    rw [getStream_congr (hr.streams p)]
  · rw [makeResident_mem]; exact h.mem b hb
  · exact (ha hn ((streamReady_congr (hr.kernels p) n).trans hs) hk).trans h.cycle

theorem splitWords_head (v : Nat) : ((splitWords v 8).getD 0 0).toNat = v % 2 ^ 64 := by simp [splitWords, recWord, List.range_succ]

/-- KIND of a launch record, and whether its kernel may begin early (R306, R321). -/
theorem launchKind_splitWords (v : Nat) : fieldOf (wordOf (splitWords v 8) 0) 0 2 = v % 2 ^ 2 := by
  rw [fieldOf_zero, wordOf, splitWords_head]
  omega

theorem launchEarly_splitWords (v : Nat) : bitOf (wordOf (splitWords v 8) 0).toNat 2 = (v / 2 ^ 2 % 2 == 1) := by
  rw [bitOf, wordOf, splitWords_head, Nat.shiftRight_eq_div_pow]
  congr 1
  omega

/-- What reading the launch record after the oldest leaves (R321). -/
def afterPeek (s : State) (p n : Nat) : State := engineTouch s s.mgmt.master p (recordAddr (getStream s p n) 1) 64 { rd := true }

theorem onlyCounting_afterPeek (s : State) (p n : Nat) : OnlyCounting s (afterPeek s p n) := onlyCounting_engineTouch ..

section
variable {s : State} {p n v : Nat} {a : Kernel} (hl : streamOpen s p n = true) (hf : (getPart s p).kernels.filter (fun o => o.stream == n) = [a])
  (ht : (getStream s p n).taken = 1) (hr : (getStream s p n).record = []) (hp : 2 ≤ pendingRecords (getStream s p n)) (ha : a.failed = none)
  (hc : a.passedSms.length = a.cells)
  (hv : engineRead s s.mgmt.master p (recordAddr (getStream s p n) 1) 64 { rd := true } = .ok v)
include hl hf ht hr hp ha hc hv

/-- A record that is no further kernel of the stream, or none that may begin early, is left for later (R321). -/
theorem earlyResident_bad (h : (getStream s p n).undefs ≠ 0 ∨ launchBad (splitWords v 8) = true ∨ v % 2 ^ 2 ≠ 0 ∨ v / 2 ^ 2 % 2 = 0) :
    execEarlyResident p n s = .next (afterPeek s p n) := by
  have hw : ((getStream s p n).undefs ≠ 0 || launchBad (splitWords v 8) || fieldOf (wordOf (splitWords v 8) 0) 0 2 ≠ 0 ||
      !bitOf (wordOf (splitWords v 8) 0).toNat 2) = true := by
    simpa [launchKind_splitWords, launchEarly_splitWords, or_assoc] using h
  simp only [execEarlyResident, hf, masterDie, hv, hw, if_true, afterPeek]
  rw [if_neg (by simp [hl, ht, hr, ha, hc]; omega)]

variable (hu : (getStream s p n).undefs = 0) (hb : launchBad (splitWords v 8) = false) (hz : v % 2 ^ 2 = 0) (he : v / 2 ^ 2 % 2 = 1)
include hu hb hz he

theorem earlyResident_good :
    (∀ w, loadKernel (afterPeek s p n) p n (splitWords v 8) true = .wait w → execEarlyResident p n s = .next w) ∧
    (∀ w e, loadKernel (afterPeek s p n) p n (splitWords v 8) true = .ok (w, .error e) → execEarlyResident p n s = .next w) ∧
    ∀ w k, loadKernel (afterPeek s p n) p n (splitWords v 8) true = .ok (w, .ok k) → execEarlyResident p n s = .next (makeResident w p n k) := by
  have hw : ((getStream s p n).undefs ≠ 0 || launchBad (splitWords v 8) || fieldOf (wordOf (splitWords v 8) 0) 0 2 ≠ 0 ||
      !bitOf (wordOf (splitWords v 8) 0).toNat 2) = false := by
    simp [launchKind_splitWords, launchEarly_splitWords, hu, hb]
    exact ⟨hz, he⟩
  have hg : (!streamOpen s p n || (getStream s p n).taken ≠ 1 || !(getStream s p n).record.isEmpty || pendingRecords (getStream s p n) < 2 || a.failed.isSome ||
      a.passedSms.length ≠ a.cells) = false := by
    simp [hl, ht, hr, ha, hc]
    omega
  unfold afterPeek
  refine ⟨fun w h => ?_, fun w e h => ?_, fun w k h => ?_⟩ <;>
    simp only [execEarlyResident, hf, masterDie, hv, hw, hg, h, Bool.false_eq_true, if_false]

end

/-! ## A kernel completes (R320, R333) -/

/-- A partition's oldest kernel is gone. -/
def withoutFirst (s : State) (p : Nat) : State := setPart s p { getPart s p with kernels := (getPart s p).kernels.tail }

theorem getPart_withoutFirst (s : State) (p : Nat) : getPart (withoutFirst s p) p = { getPart s p with kernels := (getPart s p).kernels.tail } := getPart_setPart s p _

theorem filter_otherSerials {k : Kernel} {rest : List Kernel} (hd : ∀ o ∈ rest, o.serial ≠ k.serial) : rest.filter (fun o => o.serial != k.serial) = rest :=
  List.filter_eq_self.2 fun o ho => by simpa using hd o ho

section
variable {s : State} {p : Nat} {k : Kernel} {rest : List Kernel} (hk : (getPart s p).kernels = k :: rest) (hd : ∀ o ∈ rest, o.serial ≠ k.serial)
include hk

theorem kernelComplete_busy (h : kernelDone s p k = false) : execKernelComplete p k.serial.toNat s = .next s := by
  simp [execKernelComplete, kernelOf, hk, h]

include hd

theorem kernelComplete_done (h : kernelDone s p k = true) (hf : k.failed = none) :
    execKernelComplete p k.serial.toNat s = .next (endRecord (if k.cen then addCounter (withoutFirst s p) p k.cidx 1 else withoutFirst s p) p k.stream) := by
  simp [execKernelComplete, kernelOf, hk, h, hf, withoutFirst, filter_otherSerials hd]

theorem kernelComplete_failed {e : Nat} (h : kernelDone s p k = true) (hf : k.failed = some e) :
    execKernelComplete p k.serial.toNat s = .next (streamError (endRecord (withoutFirst s p) p k.stream) p k.stream e k.serial.toNat) := by
  simp [execKernelComplete, kernelOf, hk, h, hf, withoutFirst, filter_otherSerials hd]

theorem kernelComplete_counts (h : kernelDone s p k = true) (hf : k.failed = none) :
    Completes (.kernelComplete p k.serial.toNat) s fun t => (getPart t p).kernels = rest ∧ RecordEnded s p k.stream t ∧
      ∀ m, tget 0 (getPart t p).cnt m = if k.cen = true ∧ m = k.cidx then tget 0 (getPart s p).cnt m + 1 else tget 0 (getPart s p).cnt m := by
  refine completes_of_next (kernelComplete_done hk hd h hf) ?_
  have ht : (getPart s p).kernels.tail = rest := by rw [hk]; rfl
  cases k.cen with
  | false =>
    simp only [Bool.false_eq_true, if_false, false_and]
    refine ⟨?_, recordEnded_endRecord _ (by rw [getPart_withoutFirst]) fun _ => rfl, fun m => ?_⟩
    · rw [getPart_endRecord_kernels, getPart_withoutFirst, ← ht]
    · rw [getPart_endRecord_cnt, getPart_withoutFirst]
  | true =>
    simp only [if_true, true_and]
    refine ⟨?_, recordEnded_endRecord _ (by rw [getPart_addCounter, getPart_withoutFirst]) fun _ => rfl, fun m => ?_⟩
    · rw [getPart_endRecord_kernels, getPart_addCounter, getPart_withoutFirst, ← ht]
    · rw [getPart_endRecord_cnt, getPart_addCounter, getPart_withoutFirst]
      split
      next e => rw [e, tget_tput_same]
      next e => exact tget_tput_other _ _ _ e

theorem kernelComplete_stops (h : kernelDone s p k = true) {e : Nat} (hf : k.failed = some e) (hi : (getPart s p).reset = .idle) :
    Completes (.kernelComplete p k.serial.toNat) s fun t => (getPart t p).kernels = rest ∧ MemSame s t ∧ StreamStopped s p k.stream e k.serial.toNat t := by
  have ht : (getPart s p).kernels.tail = rest := by rw [hk]; rfl
  have hr : (getPart (endRecord (withoutFirst s p) p k.stream) p).reset = .idle := by rw [getPart_endRecord_reset, getPart_withoutFirst]; exact hi
  refine completes_of_next (kernelComplete_failed hk hd h hf) ⟨?_, memSame_of_mem (setPirq_mem _ _ _), streamStopped_streamError _ e _ (fun _ _ => rfl) hr⟩
  rw [getPart_streamError _ _ _ hr]
  show (getPart (endRecord (withoutFirst s p) p k.stream) p).kernels = rest
  rw [getPart_endRecord_kernels, getPart_withoutFirst, ← ht]

end

/-! ## The tail, errors, aging (R305, R316, R333) -/

theorem streamTailWrite_dead {s : State} {p : Nat} (n : Nat) (v : Word) (h : partLive s p = false) : execStreamTailWrite p n v s = .next s := by
  simp [execStreamTailWrite, h]

/-- A tail that leaves no more records than the queue holds is written and changes nothing else. -/
theorem streamTailWrite_fits {s : State} {p n : Nat} (v : Word) (hn : n < 64) (h : partLive s p = true)
    (hf : ¬ (2 ^ (getStream s p n).logsize.toNat ≤ v.toNat % 2 ^ 16 ∧
      2 ^ (getStream s p n).logsize.toNat ≤ (v.toNat % 2 ^ 16 + 2 ^ 16 - (getStream s p n).head.toNat) % 2 ^ 16)) :
    execStreamTailWrite p n v s = .next (setStream s p n { getStream s p n with tail := v.setWidth 16 }) := by
  unfold execStreamTailWrite
  rw [if_neg (by simp [h]; omega)]
  dsimp only
  rw [if_neg (by simpa only [BitVec.toNat_setWidth, Bool.and_eq_true, decide_eq_true_eq] using hf)]

theorem streamTailWrite_full {s : State} {p n : Nat} (v : Word) (hn : n < 64) (h : partLive s p = true)
    (hf : 2 ^ (getStream s p n).logsize.toNat ≤ v.toNat % 2 ^ 16 ∧
      2 ^ (getStream s p n).logsize.toNat ≤ (v.toNat % 2 ^ 16 + 2 ^ 16 - (getStream s p n).head.toNat) % 2 ^ 16) :
    execStreamTailWrite p n v s = .next (setStream s p n { getStream s p n with tail := v.setWidth 16,
                                                                                undefs := pendingRecords { getStream s p n with tail := v.setWidth 16 } }) := by
  unfold execStreamTailWrite
  rw [if_neg (by simp [h]; omega)]
  dsimp only
  rw [if_pos (by simpa only [BitVec.toNat_setWidth, Bool.and_eq_true, decide_eq_true_eq] using hf)]

theorem streamClearError_idle {s : State} {p n : Nat} (h : (getStream s p n).state ≠ 3) : execStreamClearError p n s = .next s := by
  unfold execStreamClearError
  dsimp only
  rw [if_pos (by rw [Bool.or_eq_true]; exact .inr (bne_iff_ne.2 h))]

/-- Clearing an error: after ERR 1 to 3 the record that failed is skipped. -/
theorem streamClearError_clears {s : State} {p n : Nat} (hl : partLive s p = true) (h : (getStream s p n).state = 3) :
    ∃ y : Stream, execStreamClearError p n s = .next (setStream s p n y) ∧ y.err = 0 ∧ y.serial = 0 ∧ y.state ≠ 3 ∧
      y.head = if (getStream s p n).err = 1 ∨ (getStream s p n).err = 2 ∨ (getStream s p n).err = 3
        then BitVec.ofNat 16 (((getStream s p n).head.toNat + 1) % 2 ^ (getStream s p n).logsize.toNat) else (getStream s p n).head := by
  have hg : ¬ (!partLive s p || (getStream s p n).state != 3) = true := by simp [hl, h]
  have hst (c : Nat) : (if c = 0 then (0 : BitVec 2) else 1) ≠ 3 := by split <;> decide
  unfold execStreamClearError
  dsimp only
  rw [if_neg hg]
  refine ⟨_, rfl, rfl, rfl, hst _, ?_⟩
  by_cases hs : (getStream s p n).err = 1 ∨ (getStream s p n).err = 2 ∨ (getStream s p n).err = 3
  · rw [if_pos hs, if_pos (by simpa [or_assoc] using hs)]
  · rw [if_neg hs, if_neg (by simpa [or_assoc] using hs)]

section
variable {s : State} {p n : Nat}

theorem effPrio_of_ready (hr : streamReady s p n = true) :
    effPrio s p n = min 4 ((getStream s p n).prio.toNat +
      min 4 ((getStream s p n).boost + (s.cycle - (getStream s p n).agedAt) / max 1 (getPart s p).ageq.toNat)) := by
  simp [effPrio, boosted, agedStream, hr, quantum]

theorem priorityAging_starves (hr : streamReady s p n = true) (he : effPrio s p n < 4) :
    let x := getStream s p n
    let q := max 1 (getPart s p).ageq.toNat
    let due := x.agedAt + (s.cycle - x.agedAt) / q * q + q
    execPriorityAging p n s =
      .next (setStream { s with cycle := max s.cycle due } p n { x with boost := min 4 (x.boost + (s.cycle - x.agedAt) / q) + 1, agedAt := due }) := by
  have he' : boosted (agedStream s p n) < 4 := he
  unfold execPriorityAging
  dsimp only
  rw [if_pos (by simp [hr, he'])]
  simp only [agedStream, hr, if_true, quantum]

theorem priorityAging_rests (h : ¬ (streamReady s p n = true ∧ effPrio s p n < 4)) : execPriorityAging p n s = .next s := by
  unfold execPriorityAging
  dsimp only
  rw [if_neg (by simpa [effPrio] using h)]

end

/-! ## The statement -/

/-- Settles O47: each event of a stream by its own lemma, the reads of the distributor through OnlyCounting. -/
theorem streamsAndKernels : Obligations.StreamsAndKernels := by
  intro p n s x live word kind holds cnt Stopped Ended first
  have hkind (k : Nat) (h : holds k) : holdsKind x k = true := (holdsKind_iff x k).2 h
  refine ⟨fun hl ht hp => ⟨fun u h => ?_, fun u k g h => launchRecordTake_stop hl ht hp h, fun v h => ⟨fun hu => ?_, launchRecordTake_bad hl ht hp h,
      launchRecordTake_good hl ht hp h⟩⟩, fun h => ?_, ⟨fun hl hk h => ?_, fun hl hk h => ?_, fun hl hk => ?_⟩, fun w k hl hk h => ?_, fun u hl hk h => ?_,
    fun w e hl hk h => kernelResident_error hl (hkind 0 hk) h, fun a v k hl hf ht hr hp ha hc hv => ⟨fun h => ?_, fun hu hb hz he => ?_⟩,
    fun k rest hk hn hd hi => ⟨fun h => ?_, fun h => ?_⟩, fun v hn h => ?_, fun v h => ?_, fun hl h => ?_, fun hl h => ?_, fun h => ?_, fun h => ?_, fun h => ?_⟩
  · exact completes_of_next (launchRecordTake_wait hl ht hp h) rfl
  · exact if_pos hu
  · exact completes_of_next (launchRecordTake_idle h) rfl
  · exact completes_of_next (streamWaitSatisfied_early hl (hkind 1 hk) h) rfl
  · exact completes_of_next (streamWaitSatisfied_come hl (hkind 1 hk) h) ⟨recordEnded_endRecord n rfl fun _ => rfl, getPart_endRecord_cnt s p n⟩
  · exact completes_of_next (signalRecord_next hl (hkind 2 hk)) (recordEnded_addCounter s p n _ _)
  · obtain ⟨hw, record, images, rfl⟩ := loadKernel_ok h
    obtain ⟨hks, hser, hrec, htk, hhd, hmem, hage⟩ := makeResident_after hw p n (newKernel s p n x.record record false images) rfl
    exact ⟨rfl, rfl, rfl, rfl, rfl, rfl, kCells_eq record,
      completes_of_next (kernelResident_ok hl (hkind 0 hk) h) ⟨hks, hser, hrec, htk, hhd, hmem, hage⟩⟩
  · exact completes_of_next (kernelResident_wait hl (hkind 0 hk) h) rfl
  · exact completes_of_next (earlyResident_bad hl hf ht hr hp ha hc hv h) (onlyCounting_afterPeek s p n)
  · obtain ⟨hwait, herr, hok⟩ := earlyResident_good hl hf ht hr hp ha hc hv hu hb hz he
    refine ⟨fun w h => completes_of_next (hwait w h) rfl, fun w e h => completes_of_next (herr w e h) rfl, fun w h => ?_⟩
    obtain ⟨hw, record, images, rfl⟩ := loadKernel_ok h
    obtain ⟨hks, -, -, htk, hhd, hmem, -⟩ :=
      makeResident_after ((onlyCounting_afterPeek s p n).trans hw) p n (newKernel _ p n _ record true images) rfl
    exact completes_of_next (hok w _ h) ⟨hks, rfl, htk, hhd, hmem⟩
  · exact completes_of_next (kernelComplete_busy hk h) rfl
  · cases hf : k.failed with
    | none =>
      obtain ⟨t, ht, hks, hend, hcnt⟩ := hn ▸ kernelComplete_counts hk hd h hf
      exact ⟨t, ht, hks, hend.memSame, fun _ => ⟨hend, hcnt⟩, nofun⟩
    | some e =>
      obtain ⟨t, ht, hks, hmem, hstop⟩ := hn ▸ kernelComplete_stops hk hd h hf hi
      exact ⟨t, ht, hks, hmem, nofun, fun e' he => by obtain rfl := Option.some.inj he; exact hstop⟩
  · rcases Classical.em (2 ^ x.logsize.toNat ≤ v.toNat % 2 ^ 16 ∧ 2 ^ x.logsize.toNat ≤ (v.toNat % 2 ^ 16 + 2 ^ 16 - x.head.toNat) % 2 ^ 16) with hf | hf
    · exact completes_of_next (streamTailWrite_full v hn h hf) ⟨fun k => absurd hf k, fun _ => rfl⟩
    · exact completes_of_next (streamTailWrite_fits v hn h hf) ⟨fun _ => rfl, fun k => absurd k hf⟩
  · exact completes_of_next (streamTailWrite_dead n v h) rfl
  · obtain ⟨y, hy, herr, hser, hst, hhd⟩ := streamClearError_clears hl h
    refine completes_of_next hy ?_
    rw [getStream_setStream]
    exact ⟨herr, hser, hst, hhd, rfl⟩
  · exact completes_of_next (streamClearError_idle h) rfl
  · exact completes_of_next (priorityAging_starves ((streamReady_iff s p n).2 h.1) h.2) ⟨rfl, fun _ => rfl, getStream_setStream _ _ _ _⟩
  · have he := effPrio_of_ready ((streamReady_iff s p n).2 h.1)
    have hlt := h.2
    rw [he] at hlt ⊢
    exact min_eq_right (by omega)
  · exact completes_of_next (priorityAging_rests (by rwa [streamReady_iff])) rfl

end Sys2Proof.Machine

/-! SUPPORT. Writes of memory leave cached translations and address spaces alone: what a migration's copies keep of the translators (R246, R247, R382). -/

namespace Sys2Proof.Machine

/-- The translators hold the same entries, and every partition has its ASID. -/
def SameTranslations (s t : State) : Prop := t.tlb = s.tlb ∧ ∀ p, (getPart t p).asid = (getPart s p).asid

namespace SameTranslations

variable {s t u : State}

theorem refl (s : State) : SameTranslations s s := ⟨rfl, fun _ => rfl⟩

theorem trans (h : SameTranslations s t) (k : SameTranslations t u) : SameTranslations s u := ⟨k.1.trans h.1, fun p => (k.2 p).trans (h.2 p)⟩

theorem ite {c : Prop} [Decidable c] (h : SameTranslations s t) (k : SameTranslations s u) : SameTranslations s (if c then t else u) := by
  split
  · exact h
  · exact k

/-- A fold of operations that leave translations alone leaves them alone. -/
theorem foldl {α : Type} {f : State → α → State} (hf : ∀ t a, SameTranslations t (f t a)) (l : List α) (s : State) : SameTranslations s (l.foldl f s) :=
  List.foldlRecOn l f (refl s) fun t ht a _ => ht.trans (hf t a)

end SameTranslations

theorem sameTranslations_of_eq {s t : State} (ht : t.tlb = s.tlb) (hp : t.parts = s.parts) : SameTranslations s t :=
  ⟨ht, fun p => by rw [getPart, hp, getPart]⟩

/-! ## Tokens, cards that stray, other packages -/

theorem sameTranslations_updBucket (s : State) (k : Nat) (f : Bucket → Bucket) : SameTranslations s (updBucket s k f) := by
  refine ⟨rfl, fun p => ?_⟩
  by_cases h : p = k / 16
  · subst h; simp [updBucket]
  · simp [updBucket, getPart_setPart_other _ _ h]

theorem sameTranslations_takeDemand (s : State) (dm : Demand) : SameTranslations s (takeDemand s dm) := by
  refine .foldl (fun t kn => ?_) dm s
  exact .ite (.refl t) (sameTranslations_updBucket t kn.1 _)

theorem sameTranslations_noteTouch (s : State) (ps : List Piece) : SameTranslations s (noteTouch s ps) := .ite (sameTranslations_of_eq rfl rfl) (.refl s)

theorem sameTranslations_writeFar (s : State) (l : List (Piece × Nat × Nat)) (byte : Nat → Byte) : SameTranslations s (writeFar s l byte) := by
  refine .foldl (fun t x => ?_) l s
  exact sameTranslations_of_eq rfl rfl

theorem sameTranslations_writeSram (s : State) (ps : List Piece) (byte : Nat → Byte) (bad : Nat → Bool) (fa : Fe) (engine : Bool) :
    SameTranslations s (writeSram s ps byte bad fa engine) := by
  refine .foldl (fun t p => ?_) ps s
  dsimp only
  split
  · exact sameTranslations_of_eq rfl rfl
  · exact .refl t

/-! ## Writes at homes and the counting of frames (R245, R293) -/

theorem sameTranslations_catchUp (s : State) (d : Nat) (need : List Nat) : SameTranslations s (catchUp s d need) := by
  refine .foldl (fun t _ => ?_) _ s
  unfold installNext
  dsimp only
  split
  next n _ =>
    unfold installUpdate
    dsimp only
    split
    · exact .refl t
    · exact .ite (.refl t) (sameTranslations_of_eq rfl rfl)
  next => exact .refl t

theorem sameTranslations_performAtHome (s : State) (home : Nat) (cells : List Host.Cell) (lines : Table LineMeta) (deps : List Nat) :
    SameTranslations s (performAtHome s home cells lines deps).1 := by
  refine .trans ?_ (sameTranslations_of_eq (s := [0, 1, 2, 3].foldl _ (catchUp s home deps)) rfl rfl)
  refine (sameTranslations_catchUp s home deps).trans (.foldl (fun t d => ?_) _ _)
  exact .ite (sameTranslations_of_eq rfl rfl) (sameTranslations_of_eq rfl rfl)

theorem sameTranslations_homeWrite (s : State) (d a v : Nat) : SameTranslations s (homeWrite s d a v) :=
  .ite (sameTranslations_performAtHome ..) (.refl s)

theorem sameTranslations_notifyMig (s : State) (d i : Nat) (write : Bool) : SameTranslations s (notifyMig s d i write) := by
  refine .ite (.refl s) (.ite (sameTranslations_of_eq rfl rfl) ?_)
  exact ((sameTranslations_of_eq rfl rfl).trans (sameTranslations_homeWrite (setDie s d _) d _ _)).trans (sameTranslations_of_eq rfl rfl)

theorem sameTranslations_countFrame (s : State) (pa : Nat) (write : Bool) : SameTranslations s (countFrame s pa write) := by
  have h := sameTranslations_homeWrite s (homeOf pa) (recordAddrOf s pa)
  exact .ite (.ite ((h _).trans (sameTranslations_notifyMig ..)) (h _)) (.refl s)

theorem sameTranslations_countReads (s : State) (ps : List Piece) : SameTranslations s (countReads s ps) :=
  ((sameTranslations_of_eq rfl rfl).trans (sameTranslations_noteTouch (farSeen s ps) ps)).trans <|
    (sameTranslations_takeDemand _ _).trans <| .foldl (fun t (w : Nat × Bool × Nat × Nat) => sameTranslations_countFrame t (64 * w.1) false) _ _

theorem sameTranslations_writeAccess {s t : State} {ps : List Piece} {byte : Nat → Byte} {bad : Nat → Bool} {fa : Fe} {engine : Bool} {deps counted : List Nat}
    {st : List (Nat × Nat)} (h : writeAccess s ps byte bad fa engine deps counted = .ok (t, st)) : SameTranslations s t := by
  unfold writeAccess at h
  dsimp only at h
  split at h
  · exact nomatch h
  · cases h
    refine .trans ?_ (((sameTranslations_writeFar ..).trans (sameTranslations_writeSram ..)).trans (sameTranslations_noteTouch ..))
    refine List.foldlRecOn (motive := fun r : State × List (Nat × Nat) => SameTranslations s r.1) _ _ ?_
      fun r hr home _ => hr.trans (sameTranslations_performAtHome ..)
    dsimp only
    refine .trans (.trans (.ite ?_ ?_) (sameTranslations_takeDemand _ _)) (.foldl (fun u w => ?_) _ _)
    · exact .refl s
    · exact sameTranslations_of_eq rfl rfl
    obtain ⟨w, mire, key, part⟩ := w
    have hc : SameTranslations u (if regionOf u (64 * w) = .cxl then { u with cxl := cxlCount u (64 * w) } else u) :=
      .ite (sameTranslations_of_eq rfl rfl) (.refl u)
    exact .ite hc (hc.trans (sameTranslations_countFrame ..))

/-! ## The steps of a migration (R246 to R248) -/

theorem sameTranslations_copyPage (s : State) (d : Nat) (m : MigPage) (src dst : Nat) : SameTranslations s (copyPage s d m src dst) := by
  refine .foldl (fun t k => ?_) _ s
  dsimp only
  split
  next h => exact ((sameTranslations_countReads ..).trans (sameTranslations_writeAccess h)).trans (sameTranslations_of_eq rfl rfl)
  next => exact .refl t

theorem sameTranslations_repoint (s : State) (d : Nat) (m : MigPage) (frame : Nat) : SameTranslations s (repoint s d m frame) := by
  unfold repoint
  dsimp only
  split
  next h => exact sameTranslations_writeAccess h
  next => exact .refl s

/-- Settling the views changes neither memory nor translations. -/
theorem settleViews_frame (s : State) : (settleViews s).mem = s.mem ∧ SameTranslations s (settleViews s) := by
  refine ⟨List.foldlRecOn (motive := fun t : State => t.mem = s.mem) _ _ rfl fun _ h _ _ => h, .foldl (fun t d => ?_) _ s⟩
  exact sameTranslations_of_eq rfl rfl

/-- No die lags once the views are settled. -/
theorem settleViews_lag (s : State) {e : Nat} (he : e < 4) : (getDie (settleViews s) e).lag = [] := by
  have h (l : List Nat) (t : State) (hl : e ∈ l ∨ (getDie t e).lag = []) : (getDie (l.foldl (fun t d =>
      setDie t d { getDie t d with lag := [], lagLines := [], inbox := [],
                                   clock := (List.range 4).map fun h => (h, tget 0 (getDie s h).clock h) }) t) e).lag = [] := by
    induction l generalizing t with
    | nil => simpa using hl
    | cons d l ih =>
      refine ih _ ?_
      by_cases hd : e = d
      · subst hd; exact .inr (by rw [getDie_setDie])
      · rw [getDie_setDie_other _ _ hd]
        simpa [hd] using hl
  exact h _ s (.inl (List.mem_range.2 he))

theorem mem_dropLeaf (s : State) (m : MigPage) (e : TlbEntry) :
    e ∈ (dropLeaf s m).tlb ↔ e ∈ s.tlb ∧ ¬ (e.asid = (getPart s m.part).asid ∧ e.leaf = m.leaf) := by
  simp [dropLeaf, dropEntries, imp_iff_not_or]

/-- A frame that is written while mapped reads undefined data; nothing else changes (R7, R246). -/
theorem undefineMapped_frame (s : State) (d f n : Nat) (except : List Nat) :
    (undefineMapped s d f n except).tlb = s.tlb ∧ (undefineMapped s d f n except).dies = s.dies := by
  unfold undefineMapped
  split <;> exact ⟨rfl, rfl⟩

theorem undefineMapped_mem {s : State} {d f bits n : Nat} {except : List Nat} (h : stillMapped s d f bits except = false ∨ n < f ∨ f + 2 ^ bits ≤ n) :
    memGet (undefineMapped s d f bits except).mem n = memGet s.mem n := by
  unfold undefineMapped
  split
  · rfl
  next hm =>
    refine memGet_memPutAll_other _ _ _ fun c hc => ?_
    obtain ⟨i, hi, rfl⟩ := List.mem_map.1 hc
    have hi := List.mem_range.1 hi
    rcases h with h | h
    · simp [h] at hm
    · dsimp only; omega

end Sys2Proof.Machine

/-! PROOF. Migration (R245 to R249, R425): each event of a migration block, and the statement MigrationEvents from them. -/

namespace Sys2Proof.Machine

/-! ## The end of a request (R246) -/

@[simp] theorem getDie_setMirq (s : State) (b d : Nat) : getDie (setMirq s b) d = getDie s d := rfl

/-- A migration block has ended its request with a RESULT. -/
def MigEnded (d : Nat) (result : BitVec 2) (t : State) : Prop :=
  (getDie t d).mig.busy = false ∧ (getDie t d).mig.result = result ∧ t.mgmt.mirq.getLsbD 3 = true

theorem migEnded_endMig (s : State) (d : Nat) (r : BitVec 2) : MigEnded d r (endMig s d r) := by
  refine ⟨?_, ?_, ?_⟩
  · rw [endMig, getDie_setMirq, setMig, getDie_setDie]
  · rw [endMig, getDie_setMirq, setMig, getDie_setDie]
  · simp [endMig, setMirq]

@[simp] theorem endMig_mem (s : State) (d : Nat) (r : BitVec 2) : (endMig s d r).mem = s.mem := rfl
@[simp] theorem endMig_tlb (s : State) (d : Nat) (r : BitVec 2) : (endMig s d r).tlb = s.tlb := rfl

theorem getDie_endMig_lag (s : State) (d e : Nat) (r : BitVec 2) : (getDie (endMig s d r) e).lag = (getDie s e).lag := by
  rw [endMig, getDie_setMirq, setMig]
  by_cases h : e = d
  · subst h; rw [getDie_setDie]
  · rw [getDie_setDie_other _ _ h]

/-! ## Requests (R246) -/

/-- A page that a request of a MODE accepts, as the statement says it. -/
theorem pageFits_iff (s : State) (m : MigPage) (mode : Bool) : pageFits s m mode = true ↔ bitOf m.leaf.toNat 9 = mode ∧ isDram s (leafFrame m.leaf) = true := by
  simp [pageFits]

theorem setMig_setMig (s : State) (d : Nat) (m n : Migration) : setMig (setMig s d m) d n = setMig s d n := by simp [setMig]

/-- A die's migration block has been given a request's MODE. -/
def withMode (s : State) (d : Nat) (mode : Bool) : State := setMig s d { (getDie s d).mig with mode := mode }

/-- What a swap asks of its two pages and of its frame (R246). -/
def SwapFits (s : State) (f : Nat) (a b : MigPage) : Prop :=
  a.bits = b.bits ∧ (bitOf a.leaf.toNat 9 = false ∧ isDram s (leafFrame a.leaf) = true) ∧ (bitOf b.leaf.toNat 9 = false ∧ isDram s (leafFrame b.leaf) = true) ∧
    frameOk s f a.bits = true

/-- What an optimistic copy asks of its page and of its frame (R246). -/
def CopyFits (s : State) (f : Nat) (a : MigPage) : Prop :=
  (bitOf a.leaf.toNat 9 = true ∧ isDram s (leafFrame a.leaf) = true) ∧ frameOk s f a.bits = true

section
variable {s : State} {d : Nat}

theorem migrateSwap_idle (h : (getDie s d).mig.busy = true ∨ ¬ (getDie s d).fenced = false) : execMigrateSwap d s = .next s := by
  unfold execMigrateSwap
  dsimp only
  rw [if_pos (by simpa using h)]

theorem migrateOptimistic_idle (h : (getDie s d).mig.busy = true ∨ ¬ (getDie s d).fenced = false) : execMigrateOptimistic d s = .next s := by
  unfold execMigrateOptimistic
  dsimp only
  rw [if_pos (by simpa using h)]

/-- A request refused, once its MODE is held. -/
theorem refused_withMode (s : State) (d : Nat) (mode : Bool) : MigEnded d 2 (endMig (withMode s d mode) d 2) ∧ MemSame s (endMig (withMode s d mode) d 2) :=
  ⟨migEnded_endMig _ d 2, fun _ => rfl⟩

variable (hb : (getDie s d).mig.busy = false) (hf : (getDie s d).fenced = false)
include hb hf

theorem migrateSwap_missing
    (h : migPage (withMode s d false) d (getDie s d).mig.ptea.toNat = none ∨ migPage (withMode s d false) d (getDie s d).mig.pteb.toNat = none) :
    execMigrateSwap d s = .next (endMig (withMode s d false) d 2) := by
  unfold execMigrateSwap
  dsimp only
  rw [if_neg (by simp [hb, hf]), ← withMode]
  split
  next ha hpb =>
    rcases h with h | h
    · exact nomatch ha.symm.trans h
    · exact nomatch hpb.symm.trans h
  next => rfl

theorem migrateOptimistic_missing (h : migPage (withMode s d true) d (getDie s d).mig.ptea.toNat = none) :
    execMigrateOptimistic d s = .next (endMig (withMode s d true) d 2) := by
  unfold execMigrateOptimistic
  dsimp only
  rw [if_neg (by simp [hb, hf]), ← withMode, h]

section
variable {a : MigPage} (ha : migPage (withMode s d true) d (getDie s d).mig.ptea.toNat = some a)
include ha

theorem migrateOptimistic_refused (h : ¬ CopyFits (withMode s d true) (getDie s d).mig.frame.toNat a) :
    execMigrateOptimistic d s = .next (endMig (withMode s d true) d 2) := by
  unfold execMigrateOptimistic
  dsimp only
  rw [if_neg (by simp [hb, hf]), ← withMode, ha]
  dsimp only
  rw [if_pos (by simpa only [CopyFits, ← pageFits_iff, not_and_or, Bool.not_eq_true, Bool.or_eq_true, Bool.not_eq_true'] using h)]

theorem migrateOptimistic_begins (h : CopyFits (withMode s d true) (getDie s d).mig.frame.toNat a) :
    execMigrateOptimistic d s = .next (setMig s d { (getDie s d).mig with mode := true, busy := true, part := a.part, partB := a.part,
                                                                          wver := wverOf (withMode s d true) (leafFrame a.leaf) a.bits }) := by
  obtain ⟨hfa, hfr⟩ := h
  unfold execMigrateOptimistic
  dsimp only
  rw [if_neg (by simp [hb, hf]), ← withMode, ha]
  dsimp only
  rw [if_neg (by simp [(pageFits_iff _ a true).2 hfa, hfr]), withMode, setMig_setMig]

end

variable {a b : MigPage} (ha : migPage (withMode s d false) d (getDie s d).mig.ptea.toNat = some a)
  (hpb : migPage (withMode s d false) d (getDie s d).mig.pteb.toNat = some b)
include ha hpb

theorem migrateSwap_refused (h : ¬ SwapFits (withMode s d false) (getDie s d).mig.frame.toNat a b) :
    execMigrateSwap d s = .next (endMig (withMode s d false) d 2) := by
  unfold execMigrateSwap
  dsimp only
  rw [if_neg (by simp [hb, hf]), ← withMode, ha, hpb]
  dsimp only
  rw [if_pos (by simpa only [SwapFits, ← pageFits_iff, not_and_or, Bool.not_eq_true, Bool.or_eq_true, Bool.not_eq_true', decide_eq_true_eq, or_assoc] using h)]

theorem migrateSwap_begins (h : SwapFits (withMode s d false) (getDie s d).mig.frame.toNat a b) :
    execMigrateSwap d s = .next (setMig s d { (getDie s d).mig with mode := false, busy := true, part := a.part, partB := b.part }) := by
  obtain ⟨hbits, hfa, hfb, hfr⟩ := h
  unfold execMigrateSwap
  dsimp only
  rw [if_neg (by simp [hb, hf]), ← withMode, ha, hpb]
  dsimp only
  rw [hbits] at hfr
  rw [if_neg (by simp [(pageFits_iff _ a false).2 hfa, (pageFits_iff _ b false).2 hfb, hfr, hbits]), withMode, setMig_setMig]

end

/-! ## The end of a migration (R246 to R248) -/

section
variable {s : State} {d : Nat}

theorem migrationEnd_idle (h : (getDie s d).mig.busy = false ∨ ¬ (getDie s d).fenced = false ∨ ∃ e, e < 4 ∧ (getDie s e).inbox ≠ []) :
    execMigrationEnd d s = .next s := by
  unfold execMigrationEnd
  dsimp only
  rw [if_pos (by simpa [or_assoc] using h)]

/-- An access in flight touches page A: the end comes later, if at all. -/
theorem migrationEnd_held {a : MigPage} (ha : migPage s d (getDie s d).mig.ptea.toNat = some a) (h : frameBusy s (leafFrame a.leaf) a.bits = true) :
    execMigrationEnd d s = .next s := by
  unfold execMigrationEnd
  dsimp only
  split
  · rfl
  · rw [ha]
    dsimp only
    rw [if_pos h]

variable (hb : (getDie s d).mig.busy = true) (hf : (getDie s d).fenced = false) (hi : ∀ e, e < 4 → (getDie s e).inbox = [])
include hb hf hi

theorem migrationEnd_gone (ha : migPage s d (getDie s d).mig.ptea.toNat = none) : execMigrationEnd d s = .next (endMig s d 2) := by
  unfold execMigrationEnd
  dsimp only
  rw [if_neg (by simpa [hb, hf] using hi), ha]

variable {a : MigPage} (ha : migPage s d (getDie s d).mig.ptea.toNat = some a) (hfa : frameBusy s (leafFrame a.leaf) a.bits = false)
include ha hfa

theorem migrationEnd_optimistic (hm : (getDie s d).mig.mode = true) :
    execMigrationEnd d s = .next (finishOptimistic s d a (getDie s d).mig.frame.toNat (getDie s d).mig.wver) := by
  unfold execMigrationEnd
  dsimp only
  rw [if_neg (by simpa [hb, hf] using hi), ha]
  dsimp only
  rw [if_neg (by simp [hfa]), if_pos hm]

theorem migrationEnd_swap_gone (hm : (getDie s d).mig.mode = false) (hpb : migPage s d (getDie s d).mig.pteb.toNat = none) :
    execMigrationEnd d s = .next (endMig s d 2) := by
  unfold execMigrationEnd
  dsimp only
  rw [if_neg (by simpa [hb, hf] using hi), ha]
  dsimp only
  rw [if_neg (by simp [hfa]), if_neg (by simp [hm]), hpb]

/-- A swap whose entries still stand: it waits for accesses to page B, is abandoned over a line that fails, or is done. -/
theorem migrationEnd_swap (hm : (getDie s d).mig.mode = false) {b : MigPage} (hpb : migPage s d (getDie s d).mig.pteb.toNat = some b) :
    execMigrationEnd d s =
      if frameBusy s (leafFrame b.leaf) b.bits then .next s
      else if pageFails s d a (leafFrame a.leaf) || pageFails s d b (leafFrame b.leaf) then .next (endMig s d 1)
      else .next (endMig (finishSwap s d a b (getDie s d).mig.frame.toNat) d 0) := by
  unfold execMigrationEnd
  dsimp only
  rw [if_neg (by simpa [hb, hf] using hi), ha]
  dsimp only
  rw [if_neg (by simp [hfa]), if_neg (by simp [hm]), hpb]

end

/-! ## What a migration that is done leaves -/

/-- Pages have moved to where a state u has them; but for the frame, where it stays mapped, memory holds what u holds (R7, R246). -/
theorem moved_mem {u w : State} {d f bits n : Nat} {except : List Nat} (r : BitVec 2) (hw : w.mem = u.mem)
    (h : stillMapped w d f bits except = false ∨ n < f ∨ f + 2 ^ bits ≤ n) :
    memGet (endMig (undefineMapped w d f bits except) d r).mem n = memGet u.mem n := by
  rw [endMig_mem, undefineMapped_mem h, hw]

theorem dropLeaf_settleViews_mem (u : State) (a : MigPage) : (dropLeaf (settleViews u) a).mem = u.mem := (settleViews_frame u).1

section
variable {s : State} {d : Nat} {a : MigPage} {new : Nat} {wver : List (BitVec 32)}

theorem finishOptimistic_done (hk : wverOf s (leafFrame a.leaf) a.bits = wver) (hl : ¬ pageFails s d a (leafFrame a.leaf) = true) :
    finishOptimistic s d a new wver =
      endMig (undefineMapped (dropLeaf (settleViews (repoint (copyPage s d a (leafFrame a.leaf) new) d a new)) a) d new a.bits [a.pte]) d 0 := by
  rw [finishOptimistic, if_pos ⟨hk, by simpa using hl⟩]

/-- An optimistic copy that is done: its entry's translations are gone, and no die lags. -/
theorem finishOptimistic_tlb (hk : wverOf s (leafFrame a.leaf) a.bits = wver) (hl : ¬ pageFails s d a (leafFrame a.leaf) = true) :
    (∀ e, e < 4 → (getDie (finishOptimistic s d a new wver) e).lag = []) ∧
    ∀ e ∈ (finishOptimistic s d a new wver).tlb, e ∈ s.tlb ∧ ¬ (e.asid = (getPart s a.part).asid ∧ e.leaf = a.leaf) := by
  let u := repoint (copyPage s d a (leafFrame a.leaf) new) d a new
  have hu : SameTranslations s (settleViews u) := ((sameTranslations_copyPage ..).trans (sameTranslations_repoint ..)).trans (settleViews_frame u).2
  obtain ⟨htlb, hdies⟩ := undefineMapped_frame (dropLeaf (settleViews u) a) d new a.bits [a.pte]
  rw [finishOptimistic_done hk hl]
  refine ⟨fun e he => ?_, fun e he => ?_⟩
  · rw [getDie_endMig_lag, getDie, hdies]
    exact settleViews_lag u he
  · rw [endMig_tlb, htlb, mem_dropLeaf, hu.1, hu.2] at he
    exact he

/-- An optimistic copy that is abandoned leaves its new frame undefined and nothing else changed (R248). -/
theorem finishOptimistic_abandoned (h : ¬ wverOf s (leafFrame a.leaf) a.bits = wver ∨ pageFails s d a (leafFrame a.leaf) = true) :
    MigEnded d 1 (finishOptimistic s d a new wver) ∧ (finishOptimistic s d a new wver).tlb = s.tlb ∧
      ∀ n, n < new ∨ new + 2 ^ a.bits ≤ n → memGet (finishOptimistic s d a new wver).mem n = memGet s.mem n := by
  have hc : ¬ (wverOf s (leafFrame a.leaf) a.bits = wver ∧ (!pageFails s d a (leafFrame a.leaf)) = true) := by
    rw [Bool.not_eq_true']
    rintro ⟨hk, hl⟩
    rcases h with h | h
    · exact h hk
    · rw [hl] at h; exact nomatch h
  rw [finishOptimistic, if_neg hc]
  refine ⟨migEnded_endMig _ d 1, rfl, fun n hn => ?_⟩
  refine memGet_memPutAll_other _ _ _ fun c hcm => ?_
  obtain ⟨i, hi, rfl⟩ := List.mem_map.1 hcm
  have hi := List.mem_range.1 hi
  dsimp only
  omega

/-- A swap that is done: the translations of both entries are gone. -/
theorem finishSwap_tlb (s : State) (d : Nat) (a b : MigPage) (stage : Nat) : ∀ e ∈ (finishSwap s d a b stage).tlb,
    e ∈ s.tlb ∧ ¬ (e.asid = (getPart s a.part).asid ∧ e.leaf = a.leaf) ∧ ¬ (e.asid = (getPart s b.part).asid ∧ e.leaf = b.leaf) := by
  intro e he
  let s3 := copyPage (copyPage (copyPage s d a (leafFrame a.leaf) stage) d b (leafFrame b.leaf) (leafFrame a.leaf)) d a stage (leafFrame b.leaf)
  let u := repoint (repoint s3 d a (leafFrame b.leaf)) d b (leafFrame a.leaf)
  have h3 : SameTranslations s s3 := ((sameTranslations_copyPage ..).trans (sameTranslations_copyPage ..)).trans (sameTranslations_copyPage ..)
  have hu : SameTranslations s (settleViews u) := (h3.trans ((sameTranslations_repoint ..).trans (sameTranslations_repoint ..))).trans (settleViews_frame u).2
  have hx : e ∈ (undefineMapped (dropLeaf (dropLeaf (settleViews u) a) b) d stage a.bits []).tlb := he
  have hp (q : Nat) : getPart (dropLeaf (settleViews u) a) q = getPart (settleViews u) q := rfl
  rw [(undefineMapped_frame _ _ _ _ _).1, mem_dropLeaf, mem_dropLeaf, hp, hu.1, hu.2, hu.2, and_assoc] at hx
  exact hx

end

/-! ## The statement -/

/-- Settles O57: each event of a migration block by its own lemma; what the copies keep of the translators through SameTranslations. -/
theorem migrationEvents : Obligations.MigrationEvents := by
  intro d s m swap copy Ended Begun fits here still Moved
  refine ⟨fun h => ⟨completes_of_next (migrateSwap_idle h) rfl, completes_of_next (migrateOptimistic_idle h) rfl⟩,
    fun h => completes_of_next (migrationEnd_idle (.inr (.inl h))) rfl,
    fun hb hf => ⟨fun h => completes_of_next (migrateSwap_missing hb hf h) (refused_withMode s d false),
      fun a b ha hpb => ⟨fun h => completes_of_next (migrateSwap_refused hb hf ha hpb h) (refused_withMode s d false),
        fun h => completes_of_next (migrateSwap_begins hb hf ha hpb h) rfl⟩,
      fun h => completes_of_next (migrateOptimistic_missing hb hf h) (refused_withMode s d true),
      fun a ha => ⟨fun h => completes_of_next (migrateOptimistic_refused hb hf ha h) (refused_withMode s d true),
        fun h => completes_of_next (migrateOptimistic_begins hb hf ha h) rfl⟩,
      completes_of_next (migrationEnd_idle (.inl hb)) rfl⟩,
    fun h => completes_of_next (migrationEnd_idle (.inr (.inr h))) rfl,
    fun hb hf hi h => completes_of_next (migrationEnd_gone hb hf hi h) ⟨migEnded_endMig s d 2, fun _ => rfl⟩,
    fun a ha h => completes_of_next (migrationEnd_held ha h) rfl,
    fun hb hf hi a ha hfa => ⟨fun hm hk hl => ?_, fun hm h => ?_, fun b hm hpb hfb h => ?_, fun b hm hpb hfb hla hlb => ?_,
      fun hm h => completes_of_next (migrationEnd_swap_gone hb hf hi ha hfa hm h) ⟨migEnded_endMig s d 2, fun _ => rfl⟩, fun b hm hpb h => ?_⟩⟩
  · obtain ⟨hlag, htlb⟩ := finishOptimistic_tlb (new := m.frame.toNat) hk hl
    refine completes_of_next (migrationEnd_optimistic hb hf hi ha hfa hm) ⟨?_, fun n hn => ?_, hlag, htlb⟩
    · rw [finishOptimistic_done hk hl]; exact migEnded_endMig _ d 0
    · rw [finishOptimistic_done hk hl]; exact moved_mem 0 (dropLeaf_settleViews_mem _ a) hn
  · exact completes_of_next (migrationEnd_optimistic hb hf hi ha hfa hm) (finishOptimistic_abandoned h)
  · have he := migrationEnd_swap hb hf hi ha hfa hm hpb
    rw [if_neg (by simp [hfb]), if_pos (by simpa using h)] at he
    exact completes_of_next he ⟨migEnded_endMig s d 1, fun _ => rfl⟩
  · have he := migrationEnd_swap hb hf hi ha hfa hm hpb
    rw [if_neg (by simp [hfb]), if_neg (by simpa using And.intro hla hlb)] at he
    exact completes_of_next he ⟨migEnded_endMig _ d 0, fun n hn => moved_mem 0 (dropLeaf_settleViews_mem _ a) hn, finishSwap_tlb s d a b _⟩
  · have he := migrationEnd_swap hb hf hi ha hfa hm hpb
    rw [if_pos h] at he
    exact completes_of_next he rfl

end Sys2Proof.Machine

/-! PROOF. What a step of a sequencer is made of (R12, R54, R55, R67, R68, R81, R82): landing leaves sequencers alone, the cycle of issue is a greatest cycle,
and the statement StepRunsTheDecodedInstruction. -/

namespace Sys2Proof.Machine

/-! ## Landing changes no sequencer (R68) -/

theorem ctxSeq_writeGranule (x : Ctx) (n : Nat) (m v : Granule) (sq : Seq) : ctxSeq (writeGranule x n m v) sq = ctxSeq x sq := by
  simp only [writeGranule, putGranule]
  split <;> cases sq <;> rfl

theorem ctxSeq_programWrite (x : Ctx) (n : Nat) (m v : Granule) (sq : Seq) : ctxSeq (programWrite x n m v) sq = ctxSeq x sq := by
  have h := ctxSeq_writeGranule x n m v sq
  unfold programWrite
  split
  · cases sq <;> exact h
  · exact h

theorem ctxSeq_applyResult (x : Ctx) (r : XResult) (sq : Seq) : ctxSeq (applyResult x r) sq = ctxSeq x sq := by
  have hw : ctxSeq (r.writes.foldl (fun x (n, m, v) => programWrite x n m v) x) sq = ctxSeq x sq :=
    List.foldlRecOn (motive := fun y => ctxSeq y sq = ctxSeq x sq) _ _ rfl fun y hy w _ => (ctxSeq_programWrite y _ _ _ sq).trans hy
  refine Eq.trans ?_ hw
  unfold applyResult
  generalize r.writes.foldl _ x = y
  cases r.setFlags <;> cases r.k <;> dsimp only <;> (try split) <;> cases sq <;> rfl

theorem ctxSeq_landList (t : Nat) (l stay : List XResult) (x : Ctx) (sq : Seq) : ctxSeq (landList t l stay x) sq = ctxSeq x sq := by
  induction l generalizing stay x with
  | nil => cases sq <;> rfl
  | cons r l ih =>
    have hx := ctxSeq_applyResult x r sq
    unfold landList
    split
    · cases r.push with
      | none => exact (ih ..).trans hx
      | some p =>
        obtain ⟨w, e⟩ := p
        dsimp only
        split
        · exact (ih ..).trans hx
        · refine (ih ..).trans (Eq.trans ?_ hx)
          cases sq <;> rfl
    · exact ih ..

/-- Where no result is due, landing changes nothing. -/
theorem landList_of_not_due {t : Nat} {l : List XResult} (h : ∀ r ∈ l, t < r.due) (stay : List XResult) (x : Ctx) :
    landList t l stay x = { x with xres := stay ++ l } := by
  induction l generalizing stay with
  | nil => simp [landList]
  | cons r l ih =>
    obtain ⟨hr, hl⟩ := List.forall_mem_cons.1 h
    rw [landList, if_neg (Nat.not_le.2 hr), ih hl]
    simp

theorem landCtx_eq (now : Nat) (x : Ctx) : landCtx now x = landBy now x := by
  unfold landCtx
  split
  next => rfl
  next h =>
    rw [landBy, landList_of_not_due (by simpa using h)]
    rfl

theorem getCtx_landDue (s : State) (n : Nat) : getCtx (landDue s) n = landBy s.cycle (getCtx s n) := by
  have h : tfind (landDue s).cores n = _ :=
    tfind_map (fun y : CoreState => { y with ctx := landCtx s.cycle y.ctx, shadow := landCtx s.cycle y.shadow }) s.cores n
  simp only [getCtx, getCore, tget, h]
  cases tfind s.cores n with
  | none => rfl
  | some y => exact landCtx_eq ..

/-! ## The cycle of issue (R67, R81, R82) -/

/-- A fold that keeps the greatest value, taken apart from what it begins with. -/
theorem max_foldl_max {α : Type} (f : α → Nat) (l : List α) (a b : Nat) : max a (l.foldl (fun n x => max n (f x)) b) = (l.map f).foldl max (max a b) := by
  induction l generalizing b with
  | nil => rfl
  | cons x l ih => rw [List.foldl_cons, ih, List.map_cons, List.foldl_cons, max_assoc]

theorem foldl_max_append_comm (k l : List Nat) (a : Nat) : (k ++ l).foldl max a = (l ++ k).foldl max a :=
  List.Perm.foldl_eq List.perm_append_comm a

/-- An instruction issues at the first cycle that is no earlier than CYCLE, its sequencer's clock, and what it depends on. -/
theorem issueCycle_eq (s : State) (c : Nat) (sq : Seq) (i : Instr) :
    issueCycle s c sq i =
      ((sysUsed i).map (tget 0 (getSeq s c sq).sysReady) ++ (regsRead i).map fun r => tget 0 (getSeq s c sq).gready r.toNat).foldl max
        (max s.cycle (getSeq s c sq).clock) := by
  rw [issueCycle, readyAt, max_foldl_max (tget 0 (getSeq s c sq).sysReady), max_foldl_max fun r : Reg => tget 0 (getSeq s c sq).gready r.toNat,
    ← List.foldl_append, foldl_max_append_comm]

theorem atIssue_eq (s : State) (c : Nat) (sq : Seq) (i : Instr) :
    atIssue s c sq i =
      setSeq (setCtx { s with cur := (c, sq), cycle := issueCycle s c sq i } c (landBy (issueCycle s c sq i) (getCtx s c))) c sq
        { getSeq s c sq with clock := issueCycle s c sq i } := by
  unfold atIssue
  dsimp only
  rw [getSeq, getCtx_setCtx, landBy, ctxSeq_landList]
  rfl

/-! ## The turn of a sequencer (R12, R54, R55, R403) -/

section
variable {s : State} {c : Nat} {sq : Seq} {i : Instr}

/-- What stands at a program counter that lies in the store with the whole of its instruction. -/
theorem fetched_eq_some (ha : (getSeq s c sq).pc.toNat % 4 = 0) (hn : (getSeq s c sq).pc.toNat / 4 < storeParcels sq)
    (hw : isWide (Machine.parcelAt (getSeq s c sq) ((getSeq s c sq).pc.toNat / 4)) = true → (getSeq s c sq).pc.toNat / 4 + 1 < storeParcels sq)
    (hd : decode sq (Machine.parcelAt (getSeq s c sq) ((getSeq s c sq).pc.toNat / 4))
      (Machine.parcelAt (getSeq s c sq) ((getSeq s c sq).pc.toNat / 4 + 1)) = .ok i) : fetched s c sq = some i := by
  have hin : ¬ (!goodTarget sq (getSeq s c sq).pc.toNat || (isWide (Machine.parcelAt (getSeq s c sq) ((getSeq s c sq).pc.toNat / 4)) &&
      storeParcels sq ≤ (getSeq s c sq).pc.toNat / 4 + 1)) = true := by
    simpa [goodTarget, ha, hn] using hw
  unfold fetched
  dsimp only [parcelPair]
  rw [if_neg hin, hd]

variable (hc : canIssue s c sq = true) (hf : fetched s c sq = some i) (hi : interlocked s c sq i = false)
include hc hf hi

theorem seqTurn_runs (hp : (getSeq s c sq).pageFail = false) : seqTurn s c sq = endTurn c sq (exec i (atIssue s c sq i)) := by
  simp [seqTurn, hc, hf, runFetched, hi, hp]

theorem seqTurn_pageFail (hp : (getSeq s c sq).pageFail = true) :
    seqTurn s c sq = endTurn c sq (fault causeTranslation (getSeq s c sq).stallAddr.toNat (atIssue s c sq i)) := by
  simp [seqTurn, hc, hf, runFetched, hi, hp]

end

theorem endTurn_of_not_stepping {t : State} (c : Nat) (sq : Seq) (h : t.mgmt.dbg.stepping = false) : endTurn c sq (.next t) = .next t := by
  simp [endTurn, endStep, h]

/-- A turn that takes no time counts for no watchdog and no wait. -/
theorem passTime_of_same_cycle {before t : State} (h : t.cycle = before.cycle) : passTime before (.next t) = .next t := by
  have hw : watch before t = t := if_neg (by omega)
  simp [passTime, countWaits, hw, h]

theorem choice_seq {s : State} {c : Nat} {sq : Seq} {rest : List Turn} (h : s.agenda = .seq c sq :: rest) (hc : c < 576) :
    choice s = seqTurn { s with agenda := rest } c sq := by
  have : isCore c = true := by simpa [isCore] using (show c < Config.cores from hc)
  simp [choice, h, this]

theorem choice_own {s : State} {c : Nat} {sq : Seq} (h : s.agenda = []) (hcur : s.cur = (c, sq)) (hc : canIssue s c sq = true)
    (hw : (getSeq s c sq).wait = .none) : choice s = seqTurn s c sq := by
  simp [choice, h, ownTurn, hcur, hc, hw]

/-! ## The statement -/

/-- Settles O11: the turn of a sequencer by seqTurn_runs and seqTurn_pageFail, whoever chose it; the state of issue by atIssue_eq. -/
theorem stepRunsTheDecodedInstruction : Obligations.StepRunsTheDecodedInstruction := by
  intro before c sq i rest s q n p0 p1 hc ha hn hw hd hi
  have hf : fetched s c sq = some i := fetched_eq_some ha hn hw hd
  have hstep {r : Res} (h : choice s = r) : step before = passTime before r := congrArg (passTime before) h
  refine ⟨fun hp hag hcur hwait => ?_, fun hp hag h576 => ?_, fun hp hag h576 => ?_, ?_, fun t h => endTurn_of_not_stepping c sq h,
    ⟨rfl, getCtx_landDue before⟩, fun t h => passTime_of_same_cycle h⟩
  · exact hstep ((choice_own hag hcur hc hwait).trans (seqTurn_runs hc hf hi hp))
  · exact hstep ((choice_seq hag h576).trans (seqTurn_runs (s := { s with agenda := rest }) hc hf hi hp))
  · obtain ⟨t, ht, hfa⟩ := fault_faultsAt causeTranslation q.stallAddr.toNat (atIssue { s with agenda := rest } c sq i)
    refine ⟨t, hfa, hstep ((choice_seq hag h576).trans ?_)⟩
    exact (seqTurn_pageFail (s := { s with agenda := rest }) hc hf hi hp).trans (congrArg (endTurn c sq) ht)
  · intro t
    have ht : t = issueCycle s c sq i := (issueCycle_eq s c sq i).symm
    rw [ht]
    exact atIssue_eq s c sq i

end Sys2Proof.Machine

/-! SUPPORT. Bytes that end undefined and cards that run no more (R7, R282, R299): what catching up, writing at a home and settling a card change. -/

namespace Sys2Proof.Machine

/-! ## Tables and lists -/

/-- Reading a table whose values were changed each by its key. -/
theorem tfind_mapKey {α : Type} (f : Nat → α → α) (t : Table α) (n : Nat) : tfind (t.map fun p => (p.1, f p.1 p.2)) n = (tfind t n).map (f n) := by
  induction t with
  | nil => rfl
  | cons p t ih =>
    simp only [List.map_cons, tfind, ih]
    split
    next h => rw [h]; rfl
    next => rfl

/-! ## Views and homes (R293, R299) -/

theorem installUpdate_eq (s : State) (d n : Nat) : ∃ l, installUpdate s d n = { s with dies := l } := by
  unfold installUpdate
  dsimp only
  split
  · exact ⟨_, rfl⟩
  · split <;> exact ⟨_, rfl⟩

/-- A fold of operations that change dies alone changes dies alone. -/
theorem foldl_dies {α : Type} {f : State → α → State} (hf : ∀ t a, ∃ m, f t a = { t with dies := m }) (l : List α) (s : State) :
    ∃ m, l.foldl f s = { s with dies := m } := by
  refine List.foldlRecOn (motive := fun t : State => ∃ m, t = { s with dies := m }) l f ⟨_, rfl⟩ fun t ht a _ => ?_
  obtain ⟨m, rfl⟩ := ht
  exact hf _ a

/-- Catching up changes views of dies alone. -/
theorem catchUp_eq (s : State) (d : Nat) (need : List Nat) : ∃ l, catchUp s d need = { s with dies := l } := by
  refine foldl_dies (fun t _ => ?_) _ s
  unfold installNext
  dsimp only
  split
  · exact installUpdate_eq ..
  · exact ⟨_, rfl⟩

@[simp] theorem catchUp_mem (s : State) (d : Nat) (need : List Nat) : (catchUp s d need).mem = s.mem := by
  obtain ⟨l, h⟩ := catchUp_eq s d need; rw [h]
@[simp] theorem catchUp_cores (s : State) (d : Nat) (need : List Nat) : (catchUp s d need).cores = s.cores := by
  obtain ⟨l, h⟩ := catchUp_eq s d need; rw [h]
@[simp] theorem catchUp_clusters (s : State) (d : Nat) (need : List Nat) : (catchUp s d need).clusters = s.clusters := by
  obtain ⟨l, h⟩ := catchUp_eq s d need; rw [h]

/-- A write at a home changes the bytes given, what belongs to the lines given, and views of dies. -/
theorem performAtHome_eq (s : State) (home : Nat) (cells : List Host.Cell) (lines : Table LineMeta) (deps : List Nat) :
    ∃ l tags lost, (performAtHome s home cells lines deps).1 = { s with dies := l, mem := memPutAll s.mem cells, lineTags := tags, lostWords := lost } := by
  obtain ⟨l, hl⟩ := catchUp_eq s home deps
  obtain ⟨m, hm⟩ := foldl_dies (f := fun t d =>
    if d = home then setDie t d { getDie t d with clock := tput (getDie t d).clock home (tget 0 (getDie (catchUp s home deps) home).clock home + 1) }
    else setDie t d { getDie t d with
      lag := lagCells (catchUp s home deps) d cells
      lagLines := lagLinesOf (catchUp s home deps) d lines
      inbox := (getDie t d).inbox ++
        [{ home := home, stamp := tget 0 (getDie (catchUp s home deps) home).clock home + 1, deps := deps, cells := cells, lines := lines }] })
    (fun t d => by split <;> exact ⟨_, rfl⟩) [0, 1, 2, 3] (catchUp s home deps)
  have key (w : State) (tags : Table LineTag) (lost : List Nat) (hw : w = { s with dies := m }) :
      { w with mem := memPutAll w.mem cells, lineTags := tags, lostWords := lost } =
        { s with dies := m, mem := memPutAll s.mem cells, lineTags := tags, lostWords := lost } := by rw [hw]
  exact ⟨m, (performAtHome s home cells lines deps).1.lineTags, (performAtHome s home cells lines deps).1.lostWords, key _ _ _ (hm.trans (by rw [hl]))⟩

/-! ## Bytes that end undefined (R7) -/

/-- Nothing has changed but bytes of memory that b names, bytes of pools and of other packages, and what the dies see of them; the copy engines run the same
cards but for those that run no more bytes outside their regions. -/
def OnlyBytes (b : Nat → Prop) (s t : State) : Prop :=
  t = { s with mem := t.mem, dies := t.dies, clusters := t.clusters, lineTags := t.lineTags, lostWords := t.lostWords, farMem := t.farMem, freeCtr := t.freeCtr } ∧
  (∀ a, ¬ b a → memGet t.mem a = memGet s.mem a) ∧
  ∀ n, (getCluster t n).card = (getCluster s n).card ∨ ∀ c, (getCluster t n).card = some c → c.strays = false

namespace OnlyBytes

variable {b : Nat → Prop} {s t u : State}

theorem refl (s : State) : OnlyBytes b s s := ⟨rfl, fun _ _ => rfl, fun _ => .inl rfl⟩

theorem trans (h : OnlyBytes b s t) (k : OnlyBytes b t u) : OnlyBytes b s u := by
  obtain ⟨hf, hm, hc⟩ := h
  obtain ⟨kf, km, kc⟩ := k
  refine ⟨?_, fun a ha => (km a ha).trans (hm a ha), fun n => ?_⟩
  · refine kf.trans ?_
    rw [hf]
  · rcases kc n with e | e
    · rw [e]; exact hc n
    · exact .inr e

theorem cores (h : OnlyBytes b s t) : t.cores = s.cores := by rw [h.1]
theorem parts (h : OnlyBytes b s t) : t.parts = s.parts := by rw [h.1]
theorem cycle (h : OnlyBytes b s t) : t.cycle = s.cycle := by rw [h.1]
theorem mem (h : OnlyBytes b s t) {a : Nat} (ha : ¬ b a) : memGet t.mem a = memGet s.mem a := h.2.1 a ha
theorem card (h : OnlyBytes b s t) (n : Nat) : (getCluster t n).card = (getCluster s n).card ∨ ∀ c, (getCluster t n).card = some c → c.strays = false :=
  h.2.2 n

theorem mono {b' : Nat → Prop} (h : OnlyBytes b s t) (hb : ∀ a, b a → b' a) : OnlyBytes b' s t := ⟨h.1, fun a ha => h.2.1 a fun k => ha (hb a k), h.2.2⟩

end OnlyBytes

/-- A byte of memory that one of the pieces covers. -/
def CoversByte (ps : List Piece) (a : Nat) : Prop :=
  ∃ p ∈ ps, ∃ pa layout mire key part, p.loc = .dram pa layout mire key part ∧ ∃ i, i < p.count ∧ a = placed pa layout + p.first + i

theorem onlyBytes_performAtHome {b : Nat → Prop} {cells : List Host.Cell} (h : ∀ c ∈ cells, b c.1) (s : State) (home : Nat) (lines : Table LineMeta)
    (deps : List Nat) : OnlyBytes b s (performAtHome s home cells lines deps).1 := by
  obtain ⟨_, _, _, e⟩ := performAtHome_eq s home cells lines deps
  rw [e]
  exact ⟨rfl, fun a ha => memGet_memPutAll_other _ _ _ fun c hc k => ha (k ▸ h c hc), fun _ => .inl rfl⟩

theorem onlyBytes_setCluster {b : Nat → Prop} (s : State) (c : Nat) (x : Cluster)
    (h : x.card = (getCluster s c).card ∨ ∀ k, x.card = some k → k.strays = false) : OnlyBytes b s (setCluster s c x) := by
  refine ⟨rfl, fun _ _ => rfl, fun n => ?_⟩
  by_cases hn : n = c
  · subst hn; rw [getCluster_setCluster]; exact h
  · rw [getCluster_setCluster_other _ _ hn]; exact .inl rfl

theorem onlyBytes_takeFree {b : Nat → Prop} (s : State) (n : Nat) : OnlyBytes b s (takeFree s n) := ⟨rfl, fun _ _ => rfl, fun _ => .inl rfl⟩

theorem onlyBytes_freeBytes (s : State) (ps : List Piece) : OnlyBytes (CoversByte ps) s (freeBytes s ps) := by
  unfold freeBytes
  dsimp only
  generalize hcells : ps.zipIdx.flatMap _ = cells
  have hb : ∀ c ∈ cells, CoversByte ps c.1 := by
    intro c hc
    rw [← hcells] at hc
    obtain ⟨⟨p, k⟩, hp, hc⟩ := List.mem_flatMap.1 hc
    split at hc
    next e =>
      obtain ⟨i, hi, rfl⟩ := List.mem_map.1 hc
      exact ⟨p, List.fst_mem_of_mem_zipIdx hp, _, _, _, _, _, e, i, List.mem_range.1 hi, rfl⟩
    next => exact nomatch hc
  refine .trans (List.foldlRecOn _ _ ?_ fun t ht x _ => ht.trans ?_) (onlyBytes_takeFree _ _)
  · exact List.foldlRecOn _ _ (.refl s) fun t ht home _ => ht.trans (onlyBytes_performAtHome (fun c hc => hb c (List.mem_filter.1 hc).1) t home _ _)
  · split
    · exact onlyBytes_setCluster _ _ _ (.inl rfl)
    · exact ⟨rfl, fun _ _ => rfl, fun _ => .inl rfl⟩
    · exact .refl t

/-! ## A card that runs no more (R282) -/

theorem settleCard_of_not_strays {s : State} {n : Nat} (h : ∀ c, (getCluster s n).card = some c → c.strays = false) : settleCard s n = s := by
  unfold settleCard
  dsimp only
  split
  next => rfl
  next c hc => rw [if_neg (by simp [h c hc])]

/-- Where a card that runs no more strayed, the bytes outside its regions that another agent touched end undefined, and no others do. -/
theorem onlyBytes_settleCard {b : Nat → Prop} {s : State} {n : Nat}
    (h : ∀ c, (getCluster s n).card = some c → c.strays = true → ∀ a, CoversByte (racedBytes c) a → b a) : OnlyBytes b s (settleCard s n) := by
  by_cases hs : ∀ c, (getCluster s n).card = some c → c.strays = false
  · rw [settleCard_of_not_strays hs]; exact .refl s
  · push Not at hs
    obtain ⟨c, hc, hst⟩ := hs
    have hst : c.strays = true := by simpa using hst
    have e : settleCard s n =
        freeBytes (setCluster s n { getCluster s n with card := some { c with strays := false, outside := [], touched := [] } }) (racedBytes c) := by
      unfold settleCard
      dsimp only
      rw [hc]
      exact if_pos hst
    rw [e]
    exact (onlyBytes_setCluster s n _ (.inr fun k hk => by cases hk; rfl)).trans ((onlyBytes_freeBytes _ _).mono (h c hc hst))

end Sys2Proof.Machine

/-! PROOF. Boot, the loss of a die, the new master and attestation (R15, R19, R332, R333, R396 to R399, R425, R426): each event by its own lemma, and the
statement BootAndDieLoss from them. -/

namespace Sys2Proof.Machine

/-! ## The loss of a die (R19, R425) -/

/-- What the package's restart leaves (R51, R396). -/
def Restarted (s : State) (failure : Bool) (t : State) : Prop :=
  t.mem = s.mem ∧ t.cores = [] ∧ t.clusters = [] ∧ t.dies = [] ∧ t.parts = [] ∧ t.cycle = 0 ∧ t.tlb = [] ∧ t.mgmt.boot = .inReset ∧ t.mgmt.failure = failure ∧
    t.mgmt.mirq = 0 ∧ t.mgmt.exports = [] ∧ t.lineTags = s.lineTags

theorem restarted_packageReset (s : State) (failure : Bool) : Restarted s failure (packageReset s failure) :=
  ⟨rfl, rfl, rfl, rfl, rfl, rfl, rfl, rfl, rfl, rfl, rfl, rfl⟩

/-- What the fence of a die leaves (R425). -/
def DieFenced (s : State) (d : Nat) (t : State) : Prop :=
  MemSameButStrays s t ∧ (getDie t d).fenced = true ∧ (getDie t d).bmv = [] ∧ (getDie t d).cards = [] ∧
    (getDie t d).lamps = [] ∧ (getDie t d).walkers = [] ∧ (getDie t d).gatherers = [] ∧ (getDie t d).mig.busy = false ∧
    (∀ n, n / 9 = d → (getCluster t n).card = none) ∧ t.mgmt.mifence.getLsbD d = true ∧ t.mgmt.mirq.getLsbD 5 = true ∧ t.parts = s.parts ∧
    (∀ c, c / 144 = d → (getCtx t c) = {} ∧ (getCore t c).parked = [] ∧ (getCore t c).range = none) ∧ (∀ c, c / 144 ≠ d → getCore t c = getCore s c) ∧
    ((∀ n c, (getCluster s n).card = some c → c.strays = false) → (getDie t d).lag = (getDie s d).lag ∧ ∀ e, e ≠ d → getDie t e = getDie s e)

/-- A bit that is set in a register is set. -/
theorem getLsbD_or_twoPow {w d : Nat} (x : BitVec w) (h : d < w) : (x ||| BitVec.ofNat w (2 ^ d)).getLsbD d = true := by
  rw [BitVec.getLsbD_or, BitVec.getLsbD_ofNat, Nat.testBit_two_pow_self]
  simp [h]

/-- A collective whose job stops short changes collectives and switches alone. -/
theorem cutColl_eq (s : State) (j : CollJob) : ∃ l w, cutColl s j = { s with colls := l, switches := w } := by
  unfold cutColl
  split
  · split
    · unfold settleColl
      split
      · split <;> exact ⟨_, _, rfl⟩
      · exact ⟨_, _, rfl⟩
    · exact ⟨_, _, rfl⟩
  · exact ⟨_, _, rfl⟩

theorem foldl_cutColl_eq (l : List CollJob) (s : State) : ∃ k w, l.foldl cutColl s = { s with colls := k, switches := w } := by
  refine List.foldlRecOn (motive := fun t : State => ∃ k w, t = { s with colls := k, switches := w }) l cutColl ⟨_, _, rfl⟩ fun t ht j _ => ?_
  obtain ⟨k, w, rfl⟩ := ht
  exact cutColl_eq _ j

/-- The state in which a die is fenced: its walkers' jobs have stopped short and its copy engines' cards run no more. -/
def cutOff (s : State) (d : Nat) : State :=
  (List.range 36).foldl (fun s n => if dieOfCluster n = d then settleCard s n else s) (((getDie s d).walkers.flatMap fun w => w.2.jobs).foldl cutColl s)

/-- Settling cards one after another leaves no other byte undefined than those that the cards had left so when the first one was settled. -/
theorem onlyBytes_settleCards (s : State) (p : Nat → Prop) [DecidablePred p] (l : List Nat) :
    OnlyBytes (StrayByte s) s (l.foldl (fun s n => if p n then settleCard s n else s) s) := by
  refine List.foldlRecOn (motive := OnlyBytes (StrayByte s) s) l _ (.refl s) fun t ht n _ => ?_
  split
  · refine ht.trans (onlyBytes_settleCard fun c hc hst a ha => ?_)
    obtain ⟨o, ho, pa, layout, mire, key, part, hl, i, hi, rfl⟩ := ha
    rcases ht.card n with e | e
    · exact ⟨n, c, o, pa, layout, mire, key, part, e ▸ hc, hst, ho, hl, i, hi, rfl⟩
    · rw [e c hc] at hst; exact nomatch hst
  · exact ht

/-- Where no card strays, settling changes nothing. -/
theorem settleCards_of_not_strays {s : State} (h : ∀ n c, (getCluster s n).card = some c → c.strays = false) (p : Nat → Prop) [DecidablePred p] (l : List Nat) :
    l.foldl (fun s n => if p n then settleCard s n else s) s = s := by
  refine List.foldlRecOn (motive := (· = s)) l _ rfl fun t ht n _ => ?_
  subst ht
  split
  · exact settleCard_of_not_strays (h n)
  · rfl

theorem cutOff_spec (s : State) (d : Nat) : MemSameButStrays s (cutOff s d) ∧ (cutOff s d).cores = s.cores ∧ (cutOff s d).parts = s.parts ∧
    (cutOff s d).cycle = s.cycle ∧ ((∀ n c, (getCluster s n).card = some c → c.strays = false) → (cutOff s d).dies = s.dies) := by
  unfold cutOff
  obtain ⟨k, w, e⟩ := foldl_cutColl_eq ((getDie s d).walkers.flatMap fun w => w.2.jobs) s
  rw [e]
  have h := onlyBytes_settleCards { s with colls := k, switches := w } (dieOfCluster · = d) (List.range 36)
  exact ⟨fun a ha => h.mem ha, h.cores, h.parts, h.cycle, fun hs =>
    (congrArg State.dies (settleCards_of_not_strays (s := { s with colls := k, switches := w }) hs (dieOfCluster · = d) (List.range 36))).trans rfl⟩

section
variable {s : State} {d : Nat}

theorem fenceDie_of_lost (h : 4 ≤ d ∨ (getDie s d).fenced = true) : fenceDie s d = s := by
  have : (decide (Config.dies ≤ d) || (getDie s d).fenced) = true := by
    rw [Bool.or_eq_true, decide_eq_true_eq]; exact h
  exact if_pos this

theorem not_lost (h : ¬ (4 ≤ d ∨ (getDie s d).fenced = true)) : ¬ (decide (Config.dies ≤ d) || (getDie s d).fenced) = true := by
  rw [Bool.or_eq_true, decide_eq_true_eq]; exact h

theorem fenceDie_zero (h : ¬ (4 ≤ 0 ∨ (getDie s 0).fenced = true)) : fenceDie s 0 = packageReset s true := (if_neg (not_lost h)).trans (if_pos rfl)

theorem heartbeatTimeout_of_lost (h : 4 ≤ d ∨ (getDie s d).fenced = true) : execHeartbeatTimeout d s = .next s := by
  refine if_pos ?_
  rw [Bool.or_eq_true, decide_eq_true_eq]; exact h

theorem heartbeatTimeout_of_not_lost (h : ¬ (4 ≤ d ∨ (getDie s d).fenced = true)) :
    execHeartbeatTimeout d s = .next (fenceDie { s with cycle := s.cycle + 16384 } d) := if_neg (not_lost h)

/-- The units of a die as its fence leaves them. -/
def fencedUnits (u : State) (d : Nat) : State :=
  let y := getDie u d
  let v := setDie u d { y with fenced := true, mig := { y.mig with busy := false }, lamps := [], walkers := [], cards := [], bmv := [], gatherers := [] }
  { v with clusters := v.clusters.map fun x => (x.1, if dieOfCluster x.1 = d then lostCluster x.2 else x.2)
           cores := v.cores.map fun y => (y.1, if dieOfCore y.1 = d then lostCore y.2 else y.2) }

theorem fenceDie_eq (h : ¬ (4 ≤ d ∨ (getDie s d).fenced = true)) (hd : d ≠ 0) :
    fenceDie s d = setMirq { fencedUnits (cutOff s d) d with
      mgmt := { (fencedUnits (cutOff s d) d).mgmt with mifence := (fencedUnits (cutOff s d) d).mgmt.mifence ||| BitVec.ofNat 4 (2 ^ d) } } 5 :=
  (if_neg (not_lost h)).trans (if_neg hd)

theorem getCluster_fencedUnits (u : State) (d n : Nat) (h : n / 9 = d) : (getCluster (fencedUnits u d) n).card = none := by
  have e : tfind (fencedUnits u d).clusters n = _ := tfind_mapKey (fun n x => if dieOfCluster n = d then lostCluster x else x) u.clusters n
  rw [getCluster, tget, e]
  cases tfind u.clusters n with
  | none => rfl
  | some x => exact congrArg Cluster.card (if_pos h)

theorem getCore_fencedUnits (u : State) (d c : Nat) :
    getCore (fencedUnits u d) c = if c / 144 = d then lostCore (getCore u c) else getCore u c := by
  have e : tfind (fencedUnits u d).cores c = _ := tfind_mapKey (fun c y => if dieOfCore c = d then lostCore y else y) u.cores c
  rw [getCore, tget, e, getCore, tget]
  cases tfind u.cores c with
  | none => exact (ite_self ({} : CoreState)).symm
  | some y => rfl

theorem getDie_fencedUnits (u : State) (d : Nat) : getDie (fencedUnits u d) d =
    { getDie u d with fenced := true, mig := { (getDie u d).mig with busy := false }, lamps := [], walkers := [], cards := [], bmv := [], gatherers := [] } :=
  getDie_setDie u d _

/-- A die other than D0 that is not lost is fenced with everything that it held. -/
theorem dieFenced_fenceDie (h : ¬ (4 ≤ d ∨ (getDie s d).fenced = true)) (hd : d ≠ 0) : DieFenced s d (fenceDie s d) ∧ (fenceDie s d).cycle = s.cycle := by
  obtain ⟨hmem, hcores, hparts, hcycle, hdies⟩ := cutOff_spec s d
  have h4 : d < 4 := by omega
  have hy := getDie_fencedUnits (cutOff s d) d
  have hgone (c : Nat) (hc : c / 144 = d) : getCore (fencedUnits (cutOff s d) d) c = lostCore (getCore (cutOff s d) c) :=
    (getCore_fencedUnits _ d c).trans (if_pos hc)
  rw [fenceDie_eq h hd]
  refine ⟨⟨hmem, congrArg Die.fenced hy, congrArg Die.bmv hy, congrArg Die.cards hy, congrArg Die.lamps hy, congrArg Die.walkers hy, congrArg Die.gatherers hy,
    congrArg (fun y : Die => y.mig.busy) hy, fun n hn => getCluster_fencedUnits _ d n hn, ?_, ?_, hparts, fun c hc => ?_, fun c hc => ?_, fun hs => ?_⟩, hcycle⟩
  · exact getLsbD_or_twoPow _ h4
  · exact getLsbD_or_twoPow _ (by decide : 5 < 6)
  · exact ⟨congrArg CoreState.ctx (hgone c hc), congrArg CoreState.parked (hgone c hc), congrArg CoreState.range (hgone c hc)⟩
  · refine ((getCore_fencedUnits _ d c).trans (if_neg hc)).trans ?_
    rw [getCore, hcores, getCore]
  · have hg (e : Nat) : getDie (cutOff s d) e = getDie s e := by rw [getDie, hdies hs, getDie]
    exact ⟨(congrArg Die.lag hy).trans (show (getDie (cutOff s d) d).lag = _ from congrArg Die.lag (hg d)), fun e he => (getDie_setDie_other _ _ he).trans (hg e)⟩

end

/-! ## The new master and the lost cells (R332, R333, R426) -/

/-- A cell of a kernel that the package has lost: it has started and not ended, and no core that is left holds it. -/
def LostCell (s : State) (p : Nat) (k : Kernel) (o : Nat) : Prop := o ∈ k.started ∧ o ∉ k.ended ∧ o ∉ heldOrdinals s p k.serial.toNat

/-- The ordinals of a kernel's lost cells. -/
def lostCells (s : State) (p : Nat) (k : Kernel) : List Nat :=
  k.started.filter fun o => !k.ended.contains o && !(heldOrdinals s p k.serial.toNat).contains o

theorem mem_lostCells {s : State} {p : Nat} {k : Kernel} {o : Nat} : o ∈ lostCells s p k ↔ LostCell s p k o := by
  simp [lostCells, LostCell]

theorem lostCells_isEmpty {s : State} {p : Nat} {k : Kernel} : (lostCells s p k).isEmpty = true ↔ ∀ o, ¬ LostCell s p k o := by
  rw [List.isEmpty_iff, List.eq_nil_iff_forall_not_mem]
  exact forall_congr' fun o => not_congr mem_lostCells

/-- A kernel whose lost ranges have gone to the survivors, and whose lost cells have not started. -/
def movedKernel (s : State) (p home : Nat) (k : Kernel) : Kernel :=
  { k with
    ranges := k.ranges.map fun r => if rangeLost s r then { r with die := if (getDie s r.die).fenced then home else r.die, owner := none } else r
    reissued := (k.ranges.filter (rangeLost s)).map (fun r => (r.next, r.hi)) ++ k.reissued
    started := k.started.filter fun o => !(lostCells s p k).contains o
    passedSms := k.passedSms.filter fun o => !(lostCells s p k).contains o }

/-- The gangs of a kernel that have lost a cell. -/
def lostGangs (s : State) (p : Nat) (k : Kernel) : List Nat := ((lostCells s p k).map fun o => o / kGang k.record).eraseDups

theorem reissueKernel_eq (s : State) (p home : Nat) (k : Kernel) :
    reissueKernel s p home k =
      if (lostCells s p k).isEmpty || k.failed.isSome then movedKernel s p home k
      else if kNoReissue k.record then { movedKernel s p home k with failed := some 4 }
      else { movedKernel s p home k with
        ranges := (movedKernel s p home k).ranges ++
          (lostGangs s p k).map fun n => { next := kGang k.record * n, hi := kGang k.record * n + kGang k.record, die := home, owner := none }
        reissued := (lostGangs s p k).map (fun n => (kGang k.record * n, kGang k.record * n + kGang k.record)) ++ (movedKernel s p home k).reissued } := rfl

/-- What becomes of a kernel when its package has lost a die (R332, R333). -/
def Reissues (s : State) (p home : Nat) (k k' : Kernel) : Prop :=
  k'.serial = k.serial ∧ k'.record = k.record ∧ k'.ended = k.ended ∧ (∀ o, o ∈ k'.started ↔ o ∈ k.started ∧ ¬ LostCell s p k o) ∧
    (∀ r ∈ k.ranges, (rangeLost s r = false → r ∈ k'.ranges) ∧ (rangeLost s r = true → (r.next, r.hi) ∈ k'.reissued ∧
      { r with die := if (getDie s r.die).fenced then home else r.die, owner := none } ∈ k'.ranges))

theorem reissues_movedKernel (s : State) (p home : Nat) (k : Kernel) : Reissues s p home k (movedKernel s p home k) := by
  refine ⟨rfl, rfl, rfl, fun o => ?_, fun r hr => ⟨fun h => ?_, fun h => ⟨?_, ?_⟩⟩⟩
  · simp [movedKernel, mem_lostCells]
  · exact List.mem_map.2 ⟨r, hr, if_neg (by simp [h])⟩
  · exact List.mem_append_left _ (List.mem_map.2 ⟨r, List.mem_filter.2 ⟨hr, h⟩, rfl⟩)
  · exact List.mem_map.2 ⟨r, hr, if_pos h⟩

/-- More ranges and more of them reissued take nothing from a kernel. -/
theorem Reissues.append {s : State} {p home : Nat} {k k' : Kernel} (h : Reissues s p home k k') (l : List RangeTask) (m : List (Nat × Nat)) :
    Reissues s p home k { k' with ranges := k'.ranges ++ l, reissued := m ++ k'.reissued } := by
  obtain ⟨hs, hr, he, hst, hrg⟩ := h
  exact ⟨hs, hr, he, hst, fun r hk => ⟨fun g => List.mem_append_left _ ((hrg r hk).1 g),
    fun g => ⟨List.mem_append_right _ ((hrg r hk).2 g).1, List.mem_append_left _ ((hrg r hk).2 g).2⟩⟩⟩

section
variable (s : State) (p home : Nat) (k : Kernel)

theorem reissues_reissueKernel : Reissues s p home k (reissueKernel s p home k) := by
  have h := reissues_movedKernel s p home k
  rw [reissueKernel_eq]
  split
  · exact h
  · split
    · exact h
    · exact h.append _ _

theorem reissueKernel_untouched (h : (∀ o, ¬ LostCell s p k o) ∨ k.failed ≠ none) : (reissueKernel s p home k).failed = k.failed := by
  rw [reissueKernel_eq, if_pos]
  · rfl
  · rw [Bool.or_eq_true, lostCells_isEmpty, ← Option.isSome_iff_ne_none.symm.eq]; exact h

variable {s p home k} (hl : ∃ o, LostCell s p k o) (hk : k.failed = none)
include hl hk

theorem not_untouched : ¬ ((lostCells s p k).isEmpty || k.failed.isSome) = true := by
  rw [Bool.or_eq_true, lostCells_isEmpty, hk]
  rintro (h | h)
  · exact hl.elim h
  · exact nomatch h

theorem reissueKernel_failed (h : kNoReissue k.record = true) : (reissueKernel s p home k).failed = some 4 := by
  rw [reissueKernel_eq, if_neg (not_untouched hl hk), if_pos h]

/-- The gang of a lost cell goes to a survivor, unowned. -/
theorem reissueKernel_gang (h : kNoReissue k.record = false) :
    (reissueKernel s p home k).failed = none ∧ ∀ o, LostCell s p k o → 0 < kGang k.record → ∃ r ∈ (reissueKernel s p home k).ranges,
      r.next ≤ o ∧ o < r.hi ∧ r.die = home ∧ r.owner = none ∧ (r.next, r.hi) ∈ (reissueKernel s p home k).reissued := by
  rw [reissueKernel_eq, if_neg (not_untouched hl hk), if_neg (by simp [h])]
  refine ⟨hk, fun o ho hg => ?_⟩
  have hn : o / kGang k.record ∈ lostGangs s p k := List.mem_eraseDups.2 (List.mem_map.2 ⟨o, mem_lostCells.2 ho, rfl⟩)
  exact ⟨_, List.mem_append_right _ (List.mem_map.2 ⟨_, hn, rfl⟩), Nat.mul_div_le o _, Nat.lt_mul_div_succ o hg, rfl, rfl,
    List.mem_append_left _ (List.mem_map.2 ⟨_, hn, rfl⟩)⟩

end

/-- The kernels of a partition after a die was lost. -/
def reissuedKernels (s : State) (p : Nat) : List Kernel := match liveDies s p with
  | [] => (getPart s p).kernels
  | home :: _ => (getPart s p).kernels.map (reissueKernel s p home)

/-- Reissuing looks at cores, dies and the partition itself. -/
theorem reissuedKernels_congr {s t : State} {p : Nat} (h : t = { s with parts := t.parts }) (hp : getPart t p = getPart s p) :
    reissuedKernels t p = reissuedKernels s p := by
  have hlive : liveDies t p = liveDies s p := by
    rw [liveDies, diesOf, clustersOf, hp, h]; rfl
  have hk (home : Nat) : reissueKernel t p home = reissueKernel s p home := by rw [h]; rfl
  simp only [reissuedKernels, hlive, hp, hk]

/-- The kernels of a partition are reissued, and no other partition changes. -/
theorem reissuePart_spec (s : State) (p : Nat) : reissuePart s p = { s with parts := (reissuePart s p).parts } ∧
    (getPart (reissuePart s p) p).kernels = reissuedKernels s p ∧ ∀ q, q ≠ p → getPart (reissuePart s p) q = getPart s q := by
  unfold reissuePart reissuedKernels
  cases liveDies s p with
  | nil => exact ⟨rfl, rfl, fun _ _ => rfl⟩
  | cons home l =>
    refine List.foldlRecOn (motive := fun t : State => t = { s with parts := t.parts } ∧
      (getPart t p).kernels = (getPart s p).kernels.map (reissueKernel s p home) ∧ ∀ q, q ≠ p → getPart t q = getPart s q) _ _ ?_ fun t ht n _ => ?_
    · exact ⟨rfl, congrArg Partition.kernels (getPart_setPart s p _), fun q hq => getPart_setPart_other _ _ hq⟩
    · obtain ⟨hf, hk, hq⟩ := ht
      obtain ⟨m, hm⟩ := getPart_beginAging s t p n
      refine ⟨?_, by rw [hm]; exact hk, fun q h => ?_⟩
      · unfold beginAging
        split
        · rw [setStream, setPart, hf]
        · exact hf
      · unfold beginAging
        split
        · exact (getPart_setPart_other _ _ h).trans (hq q h)
        · exact hq q h

/-- The kernels of each partition of a list are reissued, and nothing else of the package changes. -/
theorem reissueParts_spec {l : List Nat} (hl : l.Nodup) (s : State) : l.foldl reissuePart s = { s with parts := (l.foldl reissuePart s).parts } ∧
    (∀ p ∈ l, (getPart (l.foldl reissuePart s) p).kernels = reissuedKernels s p) ∧ ∀ p, p ∉ l → getPart (l.foldl reissuePart s) p = getPart s p := by
  induction l generalizing s with
  | nil => exact ⟨rfl, fun p h => (List.not_mem_nil h).elim, fun _ _ => rfl⟩
  | cons q l ih =>
    obtain ⟨hq, hl⟩ := List.nodup_cons.1 hl
    obtain ⟨hf, hk, ho⟩ := reissuePart_spec s q
    obtain ⟨kf, kk, ko⟩ := ih hl (reissuePart s q)
    rw [List.foldl_cons]
    refine ⟨kf.trans (by rw [hf]), fun p hp => ?_, fun p hp => ?_⟩
    · rcases List.mem_cons.1 hp with rfl | hp
      · rw [ko p hq, hk]
      · rw [kk p hp, reissuedKernels_congr hf (ho p fun e => hq (e ▸ hp))]
    · obtain ⟨hpq, hpl⟩ := not_or.1 (mt List.mem_cons.2 hp)
      rw [ko p hpl, ho p hpq]

theorem masterElection_none {s : State} (h : ∀ d, d < 4 → (getDie s d).fenced = true) : execMasterElection s = .next s := by
  have : (List.range 4).find? (fun d => !(getDie s d).fenced) = none := by
    simpa using h
  rw [execMasterElection, this]

theorem masterElection_lowest {s : State} {m : Nat} (hm : m < 4) (hf : (getDie s m).fenced = false) (hl : ∀ d, d < m → (getDie s d).fenced = true) :
    execMasterElection s = .next ((List.range 8).foldl reissuePart { s with mgmt := { s.mgmt with master := m } }) := by
  have : (List.range 4).find? (fun d => !(getDie s d).fenced) = some m := by
    rw [List.find?_range_eq_some]
    exact ⟨by simp [hf], List.mem_range.2 hm, by simpa using hl⟩
  rw [execMasterElection, this]

/-! ## Boot (R396, R397) -/

section
variable {s : State}

theorem perstDeassert_idle {images : List Image} (h : s.mgmt.boot ≠ .inReset) : execPerstDeassert images s = .next s := if_pos (by simpa using h)

theorem takeWhile_length_eq_iff {α : Type} (p : α → Bool) (l : List α) : (l.takeWhile p).length = l.length ↔ ∀ x ∈ l, p x = true := by
  rw [← List.takeWhile_eq_self_iff]
  exact ⟨(List.takeWhile_sublist p).eq_of_length, congrArg List.length⟩

/-- The management window after the check of the images. -/
def bootedMgmt (m : Management) (images : List Image) : Management :=
  { m with
    treeKey := Config.drawKey m.draws
    draws := m.draws + 1
    meas := (images.takeWhile imageAccepted).zipIdx.foldl (fun t y => tupd 0 t (min y.2 7) fun v => extendMeasurement v y.1.digest) m.meas
    boot := if (images.takeWhile imageAccepted).length = images.length ∧ !images.isEmpty then .stage1 else .failed }

theorem perstDeassert_boots {images : List Image} (h : s.mgmt.boot = .inReset) :
    execPerstDeassert images s = .next { s with cycle := 0, cxl := staleCxl s.cxl, mgmt := bootedMgmt s.mgmt images } := if_neg (by simp [h])

theorem bootedMgmt_stage1 (m : Management) {images : List Image} (hn : images ≠ []) (h : ∀ x ∈ images, imageAccepted x = true) :
    (bootedMgmt m images).boot = .stage1 := if_pos ⟨(takeWhile_length_eq_iff ..).2 h, by simpa using hn⟩

theorem bootedMgmt_failed (m : Management) {images : List Image} (h : images = [] ∨ ∃ x ∈ images, imageAccepted x = false) :
    (bootedMgmt m images).boot = .failed := by
  refine if_neg ?_
  rintro ⟨hl, hn⟩
  rcases h with rfl | ⟨x, hx, ha⟩
  · exact nomatch hn
  · rw [(takeWhile_length_eq_iff ..).1 hl x hx] at ha
    exact nomatch ha

/-- One image is measured into the first register, whatever extends it. -/
theorem tget_measured (g : BitVec 512 → BitVec 512 → BitVec 512) (t : Table (BitVec 512)) (x : Image) :
    tget 0 ([x].zipIdx.foldl (fun t y => tupd 0 t (min y.2 7) fun v => g v y.1.digest) t) 0 = g (tget 0 t 0) x.digest := by
  simp [tupd]

theorem bootedMgmt_meas (m : Management) {x : Image} (h : imageAccepted x = true) :
    tget 0 (bootedMgmt m [x]).meas 0 = extendMeasurement (tget 0 m.meas 0) x.digest := by
  have ht : [x].takeWhile imageAccepted = [x] := by rw [List.takeWhile_cons_of_pos h, List.takeWhile_nil]
  unfold bootedMgmt
  dsimp only
  rw [ht]
  exact tget_measured extendMeasurement m.meas x

theorem stage1Ready_idle (h : s.mgmt.boot ≠ .stage1) : execStage1Ready s = .next s := if_pos (by simpa using h)

theorem stage1Ready_comes (h : s.mgmt.boot = .stage1) : Completes .stage1Ready s fun t =>
    t.mgmt.boot = .ready ∧ t.mgmt.mirq.getLsbD 0 = true ∧ MemSame s t ∧ t.parts = s.parts ∧
      (∀ n, n ∈ t.mgmt.ports ↔ n ∈ Config.allowedPorts ∧ n < 36) ∧ ∀ r, r ∈ t.mgmt.routes ↔ r ∈ Config.allowedRoutes ∧ r.1 ∈ t.mgmt.ports := by
  have he : execStage1Ready s = _ := if_neg (by simp [h])
  refine completes_of_next he ⟨rfl, getLsbD_or_twoPow _ (by decide : 0 < 6), fun _ => rfl, rfl, fun n => ?_, fun r => ?_⟩
  · simp [setMirq]
  · simp [setMirq]

end

/-! ## Attestation (R398) -/

theorem attestationRequest_reports {s : State} {p : Nat} (hp : p < 8) (nonce peer : BitVec 256) :
    Completes (.attestationRequest p nonce peer) s fun t =>
      getPart t p = { getPart s p with share := x25519 (Config.drawKey s.mgmt.draws) 9,
                                       transport := some (transportKey p nonce (Config.drawKey s.mgmt.draws) peer) } ∧
      (∀ o, o ≠ p → getPart t o = getPart s o) ∧ MemSame s t ∧ t.mgmt.draws = s.mgmt.draws + 1 ∧
      ∃ l, t.mgmt.reports = s.mgmt.reports ++ [signReport (tget 0 s.mgmt.meas 0) l] ∧ l.head? = some nonce.toNat ∧
        l.getLast? = some (x25519 (Config.drawKey s.mgmt.draws) 9).toNat ∧ ∀ i, i < 8 → l[1 + i]? = some (tget 0 s.mgmt.meas i).toNat := by
  have he : execAttestationRequest p nonce peer s = _ := if_neg (by omega)
  refine completes_of_next he ⟨getPart_setPart s p _, fun o ho => getPart_setPart_other s _ ho, fun _ => rfl, rfl, _, rfl, rfl, ?_, fun i hi => ?_⟩
  · exact List.getLast?_append_of_ne_nil _ (by simp)
  · rw [reportOf, Nat.add_comm 1 i]
    simp [List.getElem?_append, hi]

/-! ## The statement -/

/-- Settles O55: the loss of a die by dieFenced_fenceDie, lost cells by reissueParts_spec and reissueKernel_gang, boot and attestation by their own lemmas. -/
theorem bootAndDieLoss : Obligations.BootAndDieLoss := by
  refine ⟨fun d s => ?_, fun s => ⟨fun h => completes_of_next (masterElection_none h) rfl, fun m hm hf hl => ?_⟩, fun images s => ?_, fun p nonce peer s => ?_⟩
  · intro PackageReset Fenced lost
    refine ⟨fun h => ⟨completes_of_next (congrArg Host.Outcome.next (fenceDie_of_lost h)) rfl, completes_of_next (heartbeatTimeout_of_lost h) rfl⟩,
      fun h hd => ?_, fun h hd => ⟨completes_of_next rfl (dieFenced_fenceDie h hd), ?_⟩,
      fun h => completes_of_next (if_pos h) (restarted_packageReset s false), fun h => completes_of_next (if_neg (by simp [h])) rfl⟩
    · subst hd
      exact ⟨completes_of_next (congrArg Host.Outcome.next (fenceDie_zero h)) (restarted_packageReset s true),
        completes_of_next ((heartbeatTimeout_of_not_lost h).trans (congrArg Host.Outcome.next (fenceDie_zero h))) (restarted_packageReset _ true)⟩
    · exact completes_of_next (heartbeatTimeout_of_not_lost h) (dieFenced_fenceDie (s := { s with cycle := s.cycle + 16384 }) h hd)
  · obtain ⟨ht, hk, -⟩ := reissueParts_spec List.nodup_range { s with mgmt := { s.mgmt with master := m } } (l := List.range 8)
    refine completes_of_next (masterElection_lowest hm hf hl) ⟨by rw [ht], memSame_of_mem (by rw [ht]), by rw [ht], fun p hp home rest hlive => ?_⟩
    have hkp : (getPart ((List.range 8).foldl reissuePart { s with mgmt := { s.mgmt with master := m } }) p).kernels =
        (getPart s p).kernels.map (reissueKernel s p home) := by
      have hlive : liveDies { s with mgmt := { s.mgmt with master := m } } p = home :: rest := hlive
      rw [hk p (List.mem_range.2 hp), reissuedKernels, hlive]
      rfl
    rw [hkp]
    refine ⟨List.length_map _, fun n k hn => ⟨reissueKernel s p home k, by rw [List.getElem?_map, hn]; rfl, ?_⟩⟩
    obtain ⟨h1, h2, h3, h4, h5⟩ := reissues_reissueKernel s p home k
    exact ⟨h1, h2, h3, h4, h5, reissueKernel_untouched s p home k, fun hl hk h => reissueKernel_failed hl hk h, fun hl hk h => reissueKernel_gang hl hk h⟩
  · intro m
    refine ⟨fun h => completes_of_next (perstDeassert_idle h) rfl, fun h => completes_of_next (perstDeassert_boots h) ?_,
      fun h => completes_of_next (stage1Ready_idle h) rfl, fun h => stage1Ready_comes h⟩
    refine ⟨rfl, fun _ => rfl, rfl, rfl, rfl, rfl, fun hn ha => bootedMgmt_stage1 m hn ha, fun hb => bootedMgmt_failed m hb, fun x hx ha => ?_⟩
    subst hx
    exact bootedMgmt_meas m ha
  · exact ⟨fun h => completes_of_next (if_pos h) rfl, fun h => attestationRequest_reports h nonce peer⟩

end Sys2Proof.Machine

/-! SUPPORT. Small laws of the steps of engines: dropping and changing an element of a list, halts and tickets, progress, and what stops an engine's access. -/

namespace Sys2Proof.Machine

/-! ## Lists -/

theorem dropAt_eq {α : Type} (l : List α) (i : Nat) : dropAt l i = l.take i ++ l.drop (i + 1) := by
  induction l generalizing i with
  | nil => simp [dropAt]
  | cons a l ih =>
    cases i with
    | zero => rfl
    | succ i => simp [dropAt, ih]

theorem changeAt_const {α : Type} (l : List α) (i : Nat) (b : α) : changeAt l i (fun _ => b) = l.set i b := by
  induction l generalizing i with
  | nil => rfl
  | cons a l ih =>
    cases i with
    | zero => rfl
    | succ i => exact congrArg (a :: ·) (ih i)

theorem getElem?_changeAt {α : Type} (l : List α) (i : Nat) (f : α → α) : (changeAt l i f)[i]? = (l[i]?).map f := by
  induction l generalizing i with
  | nil => rfl
  | cons a l ih =>
    cases i with
    | zero => rfl
    | succ i => simpa [changeAt] using ih i

/-- The first element that meets a test is found. -/
theorem findIdx?_of_first {α : Type} {p : α → Bool} {l : List α} {i : Nat} {a : α} (hi : l[i]? = some a) (ha : p a = true)
    (h : ∀ k b, k < i → l[k]? = some b → p b = false) : l.findIdx? p = some i := by
  obtain ⟨hlt, rfl⟩ := List.getElem?_eq_some_iff.1 hi
  rw [List.findIdx?_eq_some_iff_getElem]
  exact ⟨hlt, ha, fun j hj => by rw [h j l[j] hj (List.getElem?_eq_getElem (by omega))]; decide⟩

/-! ## Halts (R405) -/

theorem raiseHalt_eq (s : State) (p : Nat) (k : BitVec 8) (c u n : Nat) (r b : Bool) : ∃ l, raiseHalt s p k c u n r b = { s with parts := l } := by
  unfold raiseHalt
  dsimp only
  split
  · exact ⟨_, rfl⟩
  · split <;> exact ⟨_, rfl⟩

theorem setPirq_eq (s : State) (p b : Nat) : ∃ l m, setPirq s p b = { s with parts := l, mgmt := m } := by
  unfold setPirq
  dsimp only
  split
  · exact ⟨_, _, rfl⟩
  · split <;> exact ⟨_, _, rfl⟩

/-- A halt line raised for a fault, with its interrupt, changes partitions and the management window alone. -/
theorem setPirq_raiseHalt_eq (s : State) (p : Nat) (k : BitVec 8) (c u n : Nat) (r b : Bool) (bit : Nat) :
    ∃ l m, setPirq (raiseHalt s p k c u n r b) p bit = { s with parts := l, mgmt := m } := by
  obtain ⟨l, hl⟩ := raiseHalt_eq s p k c u n r b
  rw [hl]
  exact setPirq_eq _ p bit

/-- While no reset runs, the halt line is raised. -/
theorem getPart_raiseHalt {s : State} {p : Nat} (h : (getPart s p).reset = .idle) (k : BitVec 8) (c u n : Nat) (r b : Bool) :
    ∃ x, x.raised = true ∧ getPart (raiseHalt s p k c u n r b) p = { getPart s p with halt := x } := by
  unfold raiseHalt
  simp only [h, bne_self_eq_false, Bool.false_eq_true, if_false]
  split
  next hr =>
    refine ⟨_, ?_, getPart_setPart s p _⟩
    split <;> exact hr
  · exact ⟨_, rfl, getPart_setPart s p _⟩

theorem halt_raised_of_fault {s : State} {p : Nat} (h : (getPart s p).reset = .idle) (k : BitVec 8) (c u n : Nat) (r b : Bool) (bit : Nat) :
    (getPart (setPirq (raiseHalt s p k c u n r b) p bit) p).halt.raised = true := by
  obtain ⟨x, hx, e⟩ := getPart_raiseHalt h k c u n r b
  rw [getPart_setPirq bit (by rw [e]; exact h), e]
  exact hx

/-! ## Progress and tickets (R278, R404) -/

/-- Progress of a job is seen at the watchdog of the context that issued it, and nowhere else. -/
theorem progress_eq (s : State) (o : Owner) : ∃ l, progress s o = { s with cores := l } := by
  unfold progress
  dsimp only
  split
  · split <;> exact ⟨_, rfl⟩
  · exact ⟨_, rfl⟩

@[simp] theorem progress_mem (s : State) (o : Owner) : (progress s o).mem = s.mem := by obtain ⟨l, h⟩ := progress_eq s o; rw [h]
@[simp] theorem getCluster_progress (s : State) (o : Owner) (n : Nat) : getCluster (progress s o) n = getCluster s n := by
  obtain ⟨l, h⟩ := progress_eq s o; rw [h]; rfl
@[simp] theorem getDie_progress (s : State) (o : Owner) (n : Nat) : getDie (progress s o) n = getDie s n := by
  obtain ⟨l, h⟩ := progress_eq s o; rw [h]; rfl

theorem tickets_progress (s : State) (o : Owner) (c : Nat) : (getCtx (progress s o) c).tickets = (getCtx s c).tickets := by
  unfold progress
  dsimp only
  split
  · split
    · by_cases h : c = o.core
      · subst h; rw [getCtx_setCtx]; rfl
      · rw [getCtx_setCtx_other _ _ h]
    · rfl
  · rfl

/-- The ticket of a job that its core's context holds gets the job's status. -/
theorem tickets_setTicket {s : State} {o : Owner} {old : JobStatus} (h : tfind (getCtx s o.core).tickets o.ticket = some old) (new : JobStatus) :
    tfind (getCtx (setTicket s o new) o.core).tickets o.ticket = some new := by
  have hs : (tfind (getCore s o.core).ctx.tickets o.ticket).isSome = true := Option.isSome_of_mem h
  unfold setTicket
  dsimp only
  rw [getCtx, getCore_setCore]
  dsimp only
  rw [if_pos hs]
  exact tfind_tput_same _ _ _

/-! ## What an engine's access leaves that is stopped (R245, R403) -/

/-- An engine's access that a fault stops has counted its walk, or has taken note of the failed page. -/
theorem engineResolve_stop_state {s t : State} {d part a n : Nat} {need : Need} {who : Option Translator} {c : BitVec 8} {g : Nat}
    (h : engineResolve s d part a n need who = .stop t c g) : OnlyCounting s t ∨ ∃ va, t = endFailed s part va who := by
  unfold engineResolve at h
  split at h
  next va _ => 
    obtain ⟨rfl, _, _⟩ := Try.stop.inj h
    exact .inr ⟨va, rfl⟩
  next =>
    split at h
    next e k _ =>
      cases e with
      | page => exact nomatch h
      | busy dm => exact nomatch h
      | cause b =>
        obtain ⟨rfl, _, _⟩ := Try.stop.inj h
        exact .inl (onlyCounting_failedWalk s d part k who)
    next => exact nomatch h

theorem OnlyCounting.cores {s t : State} (h : OnlyCounting s t) : t.cores = s.cores := by rw [h.frame]

/-- Cards are the same but for what they noted. -/
theorem OnlyCounting.card {s t : State} (h : OnlyCounting s t) (n : Nat) :
    (getCluster t n).card.map (fun c => { c with touched := [] }) = (getCluster s n).card.map fun c => { c with touched := [] } :=
  congrArg Cluster.card (h.cluster n)

theorem OnlyCounting.lamps {s t : State} (h : OnlyCounting s t) (d : Nat) : (getDie t d).lamps = (getDie s d).lamps := (congrArg Die.lamps (h.die d) :)

theorem OnlyCounting.reset {s t : State} (h : OnlyCounting s t) (p : Nat) : (getPart t p).reset = (getPart s p).reset := (congrArg Partition.reset (h.part p) :)

end Sys2Proof.Machine

/-! PROOF. The copy engines (R280 to R282, R296): a card starts, goes chunk by chunk, and ends. -/

namespace Sys2Proof.Machine

/-! ## A card starts (R282) -/

section
variable {s : State} {d p i : Nat} {c : Card}

theorem cardReady_of_free (hc : (getCluster s (clusterOfCore c.owner.core)).card = none) (hh : (getCluster s (clusterOfCore c.owner.core)).halted = false)
    (h : ∀ o ∈ cardsOf s d p, ticketBefore o.owner.ticket c.owner.ticket = true → ∀ w a m v b k, (w, a, m) ∈ o.regions → (v, b, k) ∈ c.regions →
      w = true ∨ v = true → regionsMeet a m b k = false) : cardReady s d p c = true := by
  have hall : ((cardsOf s d p).all fun o => !(ticketBefore o.owner.ticket c.owner.ticket) || !cardsClash o c) = true := by
    rw [List.all_eq_true]
    intro o ho
    cases ht : ticketBefore o.owner.ticket c.owner.ticket with
    | false => rfl
    | true =>
      have hm : ∀ w a m, (w, a, m) ∈ o.regions → ∀ v b k, (v, b, k) ∈ c.regions → w = true ∨ v = true → regionsMeet a m b k = false :=
        fun w a m ha v b k hb => h o ho ht w a m v b k ha hb
      simpa [cardsClash] using hm
  unfold cardReady
  dsimp only
  rw [hc, hh, hall]
  rfl

/-- The first waiting card that may start goes to its cluster's copy engine. -/
theorem copyCardStart_starts (hi : (tget [] (getDie s d).cards p)[i]? = some c)
    (hfirst : ∀ k b, k < i → (tget [] (getDie s d).cards p)[k]? = some b → cardReady s d p b = false)
    (hr : partRuns s p = true) (hf : (getDie s d).fenced = false) (hc : cardReady s d p c = true) :
    execCopyCardStart d p s =
      .next (setCluster (setDie s d { getDie s d with cards := tput (getDie s d).cards p (dropAt (tget [] (getDie s d).cards p) i) })
        (clusterOfCore c.owner.core) { getCluster s (clusterOfCore c.owner.core) with card := some (startedCard c) }) := by
  have hfind := findIdx?_of_first hi hc hfirst
  unfold execCopyCardStart
  simp only [hfind, hr, hf, hi, Bool.not_false, Bool.and_self]
  rfl

/-- A started card does not stray where every row of its destination lies within its write regions. -/
theorem startedCard_strays (c : Card) :
    (startedCard c).strays = false ↔ ∀ k, k < c.rows → inRegions c c.dst (k * c.dstride) c.rowlen true = true := by
  simp [startedCard]

end

/-! ## The bytes of a fill (R280) -/

/-- Byte i of a granule made of 16 bytes. -/
theorem granuleByte_ofBytes (f : Nat → Byte) {i : Nat} (hi : i < 16) : granuleByte (BitVec.ofNat 128 (ofBytes f 16)) i = f i := by
  have hlt : packN 8 (fun i => (f i).toNat) 16 < 2 ^ 128 := packN_lt 8 _ 16
  apply BitVec.eq_of_toNat_eq
  rw [granuleByte, ofBytes, BitVec.toNat_ofNat, BitVec.toNat_ofNat, Nat.mod_eq_of_lt hlt, packN_digit 8 _ hi]
  exact Nat.mod_eq_of_lt (f i).isLt

/-- The granules of n bytes of a fill. -/
def fillGranules (c : Card) (n : Nat) : List (Granule × Bool) :=
  (List.range ((n + 15) / 16)).map fun t => (BitVec.ofNat 128 (ofBytes (fun i => fillByte c.pattern (c.off + 16 * t + i)) 16), false)

theorem chunkSource_fill {s : State} {d n : Nat} {c : Card} {more : Demand} (hf : c.fill = true) (hd : demandReady s more = true) :
    chunkSource s d c n more = .ok (s, fillGranules c n) := by
  simp [chunkSource, hf, hd, fillGranules]

theorem fillByte_toNat (w : Word) (i : Nat) : (fillByte w i).toNat = w.toNat / 2 ^ (8 * (i % 8)) % 2 ^ 8 := by
  rw [fillByte, BitVec.toNat_ofNat, Nat.shiftRight_eq_div_pow]

theorem granuleBytes_fillGranules (c : Card) {n i : Nat} (hi : i < n) :
    (granuleBytes (fillGranules c n)).1 i = fillByte c.pattern (c.off + i) ∧ (granuleBytes (fillGranules c n)).2 i = false := by
  have hg : (fillGranules c n).getD (i / 16) (0, false) =
      (BitVec.ofNat 128 (ofBytes (fun k => fillByte c.pattern (c.off + 16 * (i / 16) + k)) 16), false) := by
    have : i / 16 < (n + 15) / 16 := by omega
    simp [fillGranules, this]
  unfold granuleBytes
  dsimp only
  rw [hg]
  refine ⟨?_, rfl⟩
  rw [granuleByte_ofBytes _ (Nat.mod_lt i (by decide))]
  congr 1
  omega

/-! ## A chunk (R280, R282, R296) -/

/-- A card after a chunk: its place, whether bytes were lost, the stamps of its writes and the bytes that it wrote outside its regions; nothing else of it. -/
theorem advanceCard_eq (c : Card) (n : Nat) (lost : Bool) (stamps : List (Nat × Nat)) (ps : List Piece) :
    advanceCard c n lost stamps ps =
      { c with row := if c.rowlen ≤ c.off + n then c.row + 1 else c.row, off := if c.rowlen ≤ c.off + n then 0 else c.off + n, lost := c.lost || lost,
               stamps := mergeStamps c.stamps stamps, outside := c.outside ++ strayBytes c ps } := by
  unfold advanceCard
  dsimp only
  split <;> rfl

/-- A cluster's copy engine with a chunk more of its card done. -/
def chunkDone (u : State) (n : Nat) (c : Card) : State := progress (setCluster u n { getCluster u n with card := some c }) c.owner

/-- A cluster's copy engine with its card complete: its writes are in the view of its die, and its ticket is done. -/
def cardDone (u : State) (n : Nat) (c : Card) : State :=
  let v := settleCard (chunkDone u n c) n
  setTicket (catchUp (setCluster v n { getCluster v n with card := none }) (dieOfCluster n) c.stamps) c.owner (.done 0 c.lost c.stamps)

section
variable {s : State} {n : Nat} {c : Card} (hc : (getCluster s n).card = some c) (hh : (getCluster s n).halted = false) (hs : (getCluster s n).stopInfo = none)
  (hl : partLive s c.owner.part = true) (hf : (getDie s (dieOfCluster n)).fenced = false)
include hc hh hs hl hf

theorem copyCardComplete_wait {v : State} (h : cardChunk s (dieOfCluster n) c = .wait v) : execCopyCardComplete n s = .next v := by
  simp [execCopyCardComplete, hc, hh, hs, hl, hf, h]

theorem copyCardComplete_stop {v : State} {k : BitVec 8} {g : Nat} (h : cardChunk s (dieOfCluster n) c = .stop v k g) :
    execCopyCardComplete n s = .next (stopCard v n c k g) := by
  simp [execCopyCardComplete, hc, hh, hs, hl, hf, h]

theorem copyCardComplete_ok {u : State} {lost : Bool} {stamps : List (Nat × Nat)} (h : cardChunk s (dieOfCluster n) c = .ok (u, lost, stamps)) :
    execCopyCardComplete n s =
      if (advanceCard c (chunkSize c) lost stamps (chunkTarget s (dieOfCluster n) c)).row = c.rows then
        .next (cardDone u n (advanceCard c (chunkSize c) lost stamps (chunkTarget s (dieOfCluster n) c)))
      else .next (chunkDone u n (advanceCard c (chunkSize c) lost stamps (chunkTarget s (dieOfCluster n) c))) := by
  have hrows : (advanceCard c (chunkSize c) lost stamps (chunkTarget s (dieOfCluster n) c)).rows = c.rows := by rw [advanceCard_eq]
  have ho : (advanceCard c (chunkSize c) lost stamps (chunkTarget s (dieOfCluster n) c)).owner = c.owner := by rw [advanceCard_eq]
  simp [execCopyCardComplete, hc, hh, hs, hl, hf, h, hrows, ho, chunkDone, cardDone]

end

theorem getCluster_chunkDone (u : State) (n : Nat) (c : Card) : getCluster (chunkDone u n c) n = { getCluster u n with card := some c } := by
  rw [chunkDone, getCluster_progress, getCluster_setCluster]

theorem getCluster_chunkDone_other (u : State) {n m : Nat} (c : Card) (h : m ≠ n) : getCluster (chunkDone u n c) m = getCluster u m := by
  rw [chunkDone, getCluster_progress, getCluster_setCluster_other _ _ h]

@[simp] theorem chunkDone_mem (u : State) (n : Nat) (c : Card) : (chunkDone u n c).mem = u.mem := progress_mem ..

theorem cardDone_mem (u : State) (n : Nat) (c : Card) : (cardDone u n c).mem = (settleCard (chunkDone u n c) n).mem := catchUp_mem ..

theorem getCluster_cardDone (u : State) (n : Nat) (c : Card) : (getCluster (cardDone u n c) n).card = none := by
  have h : getCluster (cardDone u n c) n = { getCluster (settleCard (chunkDone u n c) n) n with card := none } := by
    unfold cardDone
    dsimp only
    rw [setTicket, getCluster_setCore, getCluster, catchUp_clusters]
    exact getCluster_setCluster ..
  rw [h]

/-- A card that is complete has left undefined no other bytes of memory than those that it wrote outside its regions while another agent touched them. -/
theorem memGet_cardDone {u : State} {n a : Nat} {c : Card} (h : c.strays = true → ¬ CoversByte (racedBytes c) a) :
    memGet (cardDone u n c).mem a = memGet u.mem a := by
  have hb : OnlyBytes (fun a => c.strays = true ∧ CoversByte (racedBytes c) a) (chunkDone u n c) (settleCard (chunkDone u n c) n) :=
    onlyBytes_settleCard fun k hk hst b hb => by
      rw [getCluster_chunkDone] at hk
      cases hk
      exact ⟨hst, hb⟩
  rw [cardDone_mem, hb.mem fun k => h k.1 k.2, chunkDone_mem]

/-- A card that does not stray leaves nothing undefined. -/
theorem cardDone_mem_of_not_strays (u : State) (n : Nat) {c : Card} (h : c.strays = false) : (cardDone u n c).mem = u.mem := by
  rw [cardDone_mem, settleCard_of_not_strays, chunkDone_mem]
  intro k hk
  rw [getCluster_chunkDone] at hk
  cases hk
  exact h

theorem tickets_cardDone {u : State} (n : Nat) {c : Card} {old : JobStatus} (h : tfind (getCtx u c.owner.core).tickets c.owner.ticket = some old) :
    tfind (getCtx (cardDone u n c) c.owner.core).tickets c.owner.ticket = some (.done 0 c.lost c.stamps) := by
  have hb : (settleCard (chunkDone u n c) n).cores = (chunkDone u n c).cores :=
    (onlyBytes_settleCard (b := fun _ => True) fun _ _ _ _ _ => trivial).cores
  refine tickets_setTicket (old := old) ?_ _
  rw [getCtx, getCore, catchUp_cores, setCluster_cores, hb]
  exact (congrArg (tfind · c.owner.ticket) (tickets_progress _ c.owner c.owner.core)).trans h

/-! ## A chunk that stops on a fault (R245, R281) -/

/-- What a chunk that does not come to its end leaves of memory, of cards and of tickets: counters, and what cards that stray note. -/
def ChunkLeaves (s t : State) : Prop :=
  MemSameButCounters s t ∧ (∀ a, CounterByte t a ↔ CounterByte s a) ∧
  (∀ n, (getCluster t n).card.map (fun c => { c with touched := [] }) = (getCluster s n).card.map fun c => { c with touched := [] }) ∧
  ∀ c, (getCtx t c).tickets = (getCtx s c).tickets

namespace ChunkLeaves

variable {s t u : State}

theorem refl (s : State) : ChunkLeaves s s := ⟨fun _ _ => rfl, fun _ => Iff.rfl, fun _ => rfl, fun _ => rfl⟩

theorem trans (h : ChunkLeaves s t) (k : ChunkLeaves t u) : ChunkLeaves s u := by
  obtain ⟨hm, hb, hc, ht⟩ := h
  obtain ⟨km, kb, kc, kt⟩ := k
  exact ⟨fun a ha => (km a (mt (hb a).1 ha)).trans (hm a ha), fun a => (kb a).trans (hb a), fun n => (kc n).trans (hc n), fun c => (kt c).trans (ht c)⟩

/-- A card that does not stray does not come to stray. -/
theorem not_strays (h : ChunkLeaves s t) {n : Nat} {c k : Card} (hc : (getCluster s n).card = some c) (hk : (getCluster t n).card = some k) :
    k.strays = c.strays := by
  have e := h.2.2.1 n
  rw [hc, hk] at e
  exact (congrArg Card.strays (Option.some.inj e) :)

end ChunkLeaves

theorem OnlyCounting.chunkLeaves {s t : State} (h : OnlyCounting s t) : ChunkLeaves s t :=
  ⟨h.mem, h.counterByte, h.card, fun c => by rw [getCtx, getCore, h.cores]; rfl⟩

theorem chunkLeaves_setCluster (s : State) (n : Nat) (x : Cluster) (h : x.card = (getCluster s n).card) : ChunkLeaves s (setCluster s n x) := by
  refine ⟨fun _ _ => rfl, fun _ => Iff.rfl, fun m => ?_, fun _ => rfl⟩
  by_cases hm : m = n
  · subst hm; rw [getCluster_setCluster, h]
  · rw [getCluster_setCluster_other _ _ hm]

theorem chunkLeaves_clearAll (s : State) (ps : List Piece) : ChunkLeaves s (clearAll s ps) :=
  List.foldlRecOn _ _ (.refl s) fun _ ht _ _ => ht.trans (chunkLeaves_setCluster _ _ _ rfl)

theorem chunkLeaves_leaveWaiters (s : State) (n : Nat) (g : FeAgent) : ChunkLeaves s (leaveWaiters s n g) := by
  unfold leaveWaiters
  dsimp only
  split
  · exact chunkLeaves_setCluster _ _ _ rfl
  · exact .refl s

theorem chunkLeaves_setCore (s : State) (c : Nat) (y : CoreState) (h : y.ctx = (getCore s c).ctx) : ChunkLeaves s (setCore s c y) := by
  refine ⟨fun _ _ => rfl, fun _ => Iff.rfl, fun _ => rfl, fun k => ?_⟩
  by_cases hk : k = c
  · subst hk; rw [getCtx, getCore_setCore, h]; rfl
  · rw [getCtx, getCore_setCore_other _ _ hk]; rfl

theorem chunkLeaves_noteCard (s : State) (serial : Nat) (e : Word) (ps : List Piece) (read : Bool) : ChunkLeaves s (noteCard s serial e ps read) := by
  unfold noteCard
  split
  · unfold recordHoor
    dsimp only
    split <;> exact chunkLeaves_setCore _ _ _ rfl
  · exact .refl s

theorem chunkLeaves_endFailed (s : State) (part va : Nat) (who : Option Translator) : ChunkLeaves s (endFailed s part va who) :=
  ⟨fun _ _ => rfl, fun _ => Iff.rfl, fun _ => rfl, fun _ => rfl⟩

theorem onlyCounting_cacheEndpoint (s : State) (d : Nat) (c : Card) (e : Word) (disp : Int) (n : Nat) : OnlyCounting s (cacheEndpoint s d c e disp n) :=
  .ite (.refl s) (onlyCounting_cacheAccess ..)

section
variable {s t : State} {d n : Nat} {c : Card} {k : BitVec 8} {g : Nat}

theorem cardPieces_stop {e : Word} {disp : Int} {need : Need} (h : cardPieces s d c e disp n need = .stop t k g) : ChunkLeaves s t := by
  unfold cardPieces endpointPieces at h
  split at h
  · split at h
    · obtain ⟨rfl, _, _⟩ := Try.stop.inj h
      exact .refl _
    · exact nomatch h
    · exact nomatch h
  · rcases engineResolve_stop_state h with ht | ⟨va, rfl⟩
    · exact ht.chunkLeaves
    · exact chunkLeaves_endFailed ..

theorem chunkSource_stop {more : Demand} (h : chunkSource s d c n more = .stop t k g) : ChunkLeaves s t := by
  unfold chunkSource at h
  split at h
  · split at h <;> exact nomatch h
  · split at h
    · exact nomatch h
    next hp =>
      obtain ⟨rfl, _, _⟩ := Try.stop.inj h
      exact cardPieces_stop hp
    · dsimp only at h
      split at h
      · exact nomatch h
      · split at h
        · exact nomatch h
        · split at h
          · obtain ⟨rfl, _, _⟩ := Try.stop.inj h
            exact .refl _
          · exact nomatch h

/-- What a chunk's reads leave: counters, out-of-range records, F bits and waits. -/
theorem chunkSource_ok {more : Demand} {gs : List (Granule × Bool)} (h : chunkSource s d c n more = .ok (t, gs)) : ChunkLeaves s t := by
  unfold chunkSource at h
  split at h
  · split at h
    · exact nomatch h
    · cases h; exact .refl _
  · split at h
    · exact nomatch h
    · exact nomatch h
    next ps _ =>
      dsimp only at h
      split at h
      · exact nomatch h
      · split at h
        · exact nomatch h
        · split at h
          · exact nomatch h
          · cases h
            have hr := ((onlyCounting_cacheEndpoint s d c c.src (c.row * c.sstride + c.off) n).trans (onlyCounting_countReads _ ps)).chunkLeaves.trans
              (chunkLeaves_noteCard _ c.owner.serial c.src ps true)
            refine .trans ?_ (chunkLeaves_leaveWaiters ..)
            split
            · exact hr.trans (chunkLeaves_clearAll ..)
            · exact hr

theorem cardChunk_stop (h : cardChunk s d c = .stop t k g) : ChunkLeaves s t := by
  unfold cardChunk at h
  dsimp only at h
  split at h
  · exact nomatch h
  next hp =>
    obtain ⟨rfl, _, _⟩ := Try.stop.inj h
    exact cardPieces_stop hp
  · split at h
    · exact nomatch h
    · split at h
      · exact nomatch h
      next hp =>
        obtain ⟨rfl, _, _⟩ := Try.stop.inj h
        exact chunkSource_stop hp
      next hp =>
        split at h
        · obtain ⟨rfl, _, _⟩ := Try.stop.inj h
          exact (chunkSource_ok hp).trans (onlyCounting_cacheEndpoint ..).chunkLeaves
        · exact nomatch h

end

theorem leaveWaiters_mem (s : State) (n : Nat) (g : FeAgent) : (leaveWaiters s n g).mem = s.mem := by
  unfold leaveWaiters
  dsimp only
  split <;> rfl

theorem leaveWaiters_cores (s : State) (n : Nat) (g : FeAgent) : (leaveWaiters s n g).cores = s.cores := by
  unfold leaveWaiters
  dsimp only
  split <;> rfl

theorem stopInfo_leaveWaiters (s : State) (n : Nat) (g : FeAgent) : (getCluster (leaveWaiters s n g) n).stopInfo = (getCluster s n).stopInfo := by
  unfold leaveWaiters
  dsimp only
  split
  · rw [getCluster_setCluster]
  · rfl

/-- What a card's engine shows once it has stopped. -/
def stopOf (c : Card) (cause : BitVec 8) (eaddr : Nat) : StopInfo :=
  { cause := cause, eaddr := BitVec.ofNat 56 eaddr, fpc := c.owner.fpc, parcels := c.owner.parcels, imprecise := true }

/-- A card's engine with its stop noted, and its wait left. -/
def stoppedAt (s : State) (n : Nat) (c : Card) (cause : BitVec 8) (eaddr : Nat) : State :=
  leaveWaiters (setCluster (settleCard s n) n { getCluster (settleCard s n) n with stopInfo := some (stopOf c cause eaddr) }) n .card

theorem stopCard_eq (s : State) (n : Nat) (c : Card) (cause : BitVec 8) (eaddr : Nat) : ∃ l m,
    stopCard s n c cause eaddr = { setTicket (stoppedAt s n c cause eaddr) c.owner (.done 1 c.lost c.stamps) with parts := l, mgmt := m } :=
  setPirq_raiseHalt_eq (setTicket (stoppedAt s n c cause eaddr) c.owner (.done 1 c.lost c.stamps)) c.owner.part _ _ _ _ _ _ 0

section
variable {s v : State} {n : Nat} {c : Card} {k : BitVec 8} {g : Nat}

theorem stopCard_mem_of_not_strays (hv : ∀ x, (getCluster v n).card = some x → x.strays = false) : (stopCard v n c k g).mem = v.mem := by
  obtain ⟨_, _, h⟩ := stopCard_eq v n c k g
  rw [h]
  refine (leaveWaiters_mem ..).trans ?_
  rw [setCluster_mem, settleCard_of_not_strays hv]

theorem stopInfo_stopCard : (getCluster (stopCard v n c k g) n).stopInfo = some (stopOf c k g) := by
  obtain ⟨_, _, h⟩ := stopCard_eq v n c k g
  rw [h]
  refine (stopInfo_leaveWaiters ..).trans ?_
  rw [getCluster_setCluster]

theorem tickets_stopCard {old : JobStatus} (h : tfind (getCtx v c.owner.core).tickets c.owner.ticket = some old) :
    tfind (getCtx (stopCard v n c k g) c.owner.core).tickets c.owner.ticket = some (.done 1 c.lost c.stamps) := by
  have hcores : (stoppedAt v n c k g).cores = v.cores := by
    rw [stoppedAt, leaveWaiters_cores, setCluster_cores]
    exact (onlyBytes_settleCard (b := fun _ => True) fun _ _ _ _ _ => trivial).cores
  have hold : tfind (getCtx (stoppedAt v n c k g) c.owner.core).tickets c.owner.ticket = some old := by
    rw [getCtx, getCore, hcores]; exact h
  obtain ⟨_, _, e⟩ := stopCard_eq v n c k g
  rw [e]
  exact tickets_setTicket hold _

end

end Sys2Proof.Machine

/-! PROOF. Bank compute (R287 to R289, R318): a row of a job, its stop, and its end. -/

namespace Sys2Proof.Machine

/-! ## Rows (R287, R288) -/

section
variable {s t : State} {d a n : Nat} {j k : BmvJob} {bytes : List Byte} {ys : List Nat}

/-- Writing results changes nothing of a job but what it knows of its writes. -/
theorem bmvStore_ok (h : bmvStore s d j a bytes = .ok (t, k)) : ∃ stamps far, k = { j with stamps := stamps, far := far } := by
  unfold bmvStore at h
  split at h
  · exact nomatch h
  · exact nomatch h
  · cases h; exact ⟨_, _, rfl⟩

theorem bmvWrite_ok (h : bmvWrite s d j ys n = .ok (t, k)) : ∃ stamps far, k = { j with stamps := stamps, far := far } := by
  induction n generalizing t k with
  | zero => cases h; exact ⟨_, _, rfl⟩
  | succ n ih =>
    unfold bmvWrite at h
    split at h
    next hw =>
      obtain ⟨_, _, rfl⟩ := ih hw
      obtain ⟨_, _, rfl⟩ := bmvStore_ok h
      exact ⟨_, _, rfl⟩
    next hr => exact absurd h (hr t k)

/-- A row done is the next one's turn; words once read as zeros stay named (R288). -/
theorem bmvRow_ok (h : bmvRow s d j = .ok (t, k)) : k.row = j.row + 1 ∧ k.owner = j.owner ∧ ∀ w, w ∈ j.lost → w ∈ k.lost := by
  unfold bmvRow at h
  dsimp only at h
  split at h
  · exact nomatch h
  · exact nomatch h
  · split at h
    · exact nomatch h
    · exact nomatch h
    · split at h
      · exact nomatch h
      · exact nomatch h
      next hw =>
        obtain ⟨_, _, rfl⟩ := bmvWrite_ok hw
        split at h
        · cases h
          exact ⟨rfl, rfl, fun w hl => by simp [hl]⟩
        · obtain ⟨_, _, rfl⟩ := bmvStore_ok h
          exact ⟨rfl, rfl, fun w hl => by simp [hl]⟩

end

/-- A term that is not finite makes the canonical NaN (R288). -/
theorem bmvElement_of_not_finite {terms : List (ANum × ANum)} (h : ∃ w ∈ terms, w.1.nv = true ∨ w.2.nv = true) : bmvElement terms = 0x7FC00000 := by
  have : (terms.any fun w => w.1.nv || w.2.nv) = true := by simpa using h
  exact if_pos this

/-! ## Whose turn it is (R318) -/

/-- A job of a core has a step to make: a row is left, or its die shows all it wrote. -/
def BmvDue (s : State) (c : Nat) (b : BmvJob) : Prop :=
  b.owner.core = c ∧ b.stopped = none ∧ (b.row < b.m ∨ stampsVisible s (dieOfCore c) .core b.stamps = true)

theorem bmvDue_iff (s : State) (c : Nat) (b : BmvJob) :
    (b.owner.core == c && b.stopped.isNone && bmvDue s (dieOfCore c) b) = true ↔ BmvDue s c b := by
  simp [BmvDue, bmvDue, and_assoc]

theorem bmvJobComplete_idle {s : State} {c : Nat} (h : ∀ b ∈ (getDie s (dieOfCore c)).bmv, ¬ BmvDue s c b) : execBmvJobComplete c s = .next s := by
  have hfind : (getDie s (dieOfCore c)).bmv.findIdx? (fun j => j.owner.core == c && j.stopped.isNone && bmvDue s (dieOfCore c) j) = none := by
    rw [List.findIdx?_eq_none_iff]
    exact fun b hb => Bool.eq_false_iff.2 (mt (bmvDue_iff s c b).1 (h b hb))
  unfold execBmvJobComplete
  dsimp only
  rw [hfind]

/-- A die with a job of bank compute after a row. -/
def rowDone (u : State) (d i : Nat) (j k : BmvJob) : State :=
  setDie (progress u j.owner) d { getDie (progress u j.owner) d with bmv := changeAt (getDie (progress u j.owner) d).bmv i fun _ => k }

section
variable {s : State} {c i : Nat} {j : BmvJob} (hi : (getDie s (dieOfCore c)).bmv[i]? = some j) (hj : BmvDue s c j)
  (hfirst : ∀ k b, k < i → (getDie s (dieOfCore c)).bmv[k]? = some b → ¬ BmvDue s c b) (hh : j.owner.part ∉ (getDie s (dieOfCore c)).bmvHalted)
  (hl : partLive s j.owner.part = true) (hf : (getDie s (dieOfCore c)).fenced = false)
include hi hj hfirst hh hl hf

/-- The oldest job that is due takes its step. -/
theorem bmvJobComplete_turn : execBmvJobComplete c s =
    if j.m ≤ j.row then .next (noteBmv (setDie s (dieOfCore c) { getDie s (dieOfCore c) with bmv := dropAt (getDie s (dieOfCore c)).bmv i }) j)
    else match bmvRow s (dieOfCore c) j with
      | .wait t => .next t
      | .stop t x g => .next (stopBmv t (dieOfCore c) i j x g)
      | .ok (t, k) => .next (rowDone t (dieOfCore c) i j k) := by
  have hfind : (getDie s (dieOfCore c)).bmv.findIdx? (fun j => j.owner.core == c && j.stopped.isNone && bmvDue s (dieOfCore c) j) = some i :=
    findIdx?_of_first hi ((bmvDue_iff s c j).2 hj) fun k b hk hb => Bool.eq_false_iff.2 (mt (bmvDue_iff s c b).1 (hfirst k b hk hb))
  have hgo : ¬ ((getDie s (dieOfCore c)).bmvHalted.contains j.owner.part || !partLive s j.owner.part || (getDie s (dieOfCore c)).fenced) = true := by
    simp [hh, hl, hf]
  unfold execBmvJobComplete
  dsimp only
  rw [hfind]
  dsimp only
  rw [hi]
  dsimp only
  rw [if_neg hgo]
  rfl

theorem bmvJobComplete_end (hm : j.m ≤ j.row) : execBmvJobComplete c s =
    .next (noteBmv (setDie s (dieOfCore c) { getDie s (dieOfCore c) with bmv := dropAt (getDie s (dieOfCore c)).bmv i }) j) :=
  (bmvJobComplete_turn hi hj hfirst hh hl hf).trans (if_pos hm)

variable (hm : j.row < j.m)
include hm

theorem bmvJobComplete_wait {v : State} (h : bmvRow s (dieOfCore c) j = .wait v) : execBmvJobComplete c s = .next v := by
  rw [bmvJobComplete_turn hi hj hfirst hh hl hf, if_neg (by omega), h]

theorem bmvJobComplete_stop {v : State} {x : BitVec 8} {g : Nat} (h : bmvRow s (dieOfCore c) j = .stop v x g) :
    execBmvJobComplete c s = .next (stopBmv v (dieOfCore c) i j x g) := by
  rw [bmvJobComplete_turn hi hj hfirst hh hl hf, if_neg (by omega), h]

theorem bmvJobComplete_row {u : State} {k : BmvJob} (h : bmvRow s (dieOfCore c) j = .ok (u, k)) :
    execBmvJobComplete c s = .next (rowDone u (dieOfCore c) i j k) := by
  rw [bmvJobComplete_turn hi hj hfirst hh hl hf, if_neg (by omega), h]

end

/-! ## What each of them leaves -/

@[simp] theorem rowDone_mem (u : State) (d i : Nat) (j k : BmvJob) : (rowDone u d i j k).mem = u.mem := progress_mem ..

theorem bmv_rowDone (u : State) (d i : Nat) (j k : BmvJob) : (getDie (rowDone u d i j k) d).bmv = (getDie u d).bmv.set i k := by
  rw [rowDone, getDie_setDie, getDie_progress, changeAt_const]

/-- What a job shows once it has stopped (R288). -/
def bmvStopOf (j : BmvJob) (cause : BitVec 8) (eaddr : Nat) : StopInfo :=
  { cause := cause, eaddr := BitVec.ofNat 56 eaddr, fpc := j.owner.fpc, parcels := j.owner.parcels, imprecise := true }

theorem stopBmv_eq (v : State) (d i : Nat) (j : BmvJob) (x : BitVec 8) (g : Nat) : ∃ l m, stopBmv v d i j x g =
    { setDie v d { getDie v d with bmv := changeAt (getDie v d).bmv i fun b => { b with stopped := some (bmvStopOf j x g) } } with parts := l, mgmt := m } :=
  setPirq_raiseHalt_eq (setDie v d _) j.owner.part _ _ _ _ _ _ 0

/-- A job that a fault stops stays with its stop noted (R288). -/
theorem stopBmv_stopped {v : State} {d i : Nat} {j b : BmvJob} (hi : (getDie v d).bmv[i]? = some b) (x : BitVec 8) (g : Nat) :
    (stopBmv v d i j x g).mem = v.mem ∧ ∃ o f, (getDie (stopBmv v d i j x g) d).bmv[i]? = some o ∧ o.stopped = some f ∧ f.cause = x ∧ f.fpc = j.owner.fpc := by
  obtain ⟨l, m, e⟩ := stopBmv_eq v d i j x g
  rw [e]
  refine ⟨rfl, { b with stopped := some (bmvStopOf j x g) }, bmvStopOf j x g, ?_, rfl, rfl, rfl⟩
  refine (congrArg (fun y : Die => y.bmv[i]?) (getDie_setDie v d _)).trans ?_
  rw [getElem?_changeAt, hi]
  rfl

/-- The context that issued a job that is over knows its writes (R289). -/
theorem getCtx_noteBmv (s : State) (j : BmvJob) : getCtx (noteBmv s j) j.owner.core =
    if j.owner.ticket ∈ (getCtx s j.owner.core).bmvJobs then
      { getCtx s j.owner.core with bmvStamps := maxVec (getCtx s j.owner.core).bmvStamps j.stamps, bmvFar := (getCtx s j.owner.core).bmvFar || j.far }
    else getCtx s j.owner.core := by
  unfold noteBmv
  dsimp only
  rw [getCtx, getCore_setCore]
  simp only [List.contains_iff_mem]
  rfl

end Sys2Proof.Machine

/-! PROOF. Deliveries of a shared stream (R21, R357): what a member's delivery counts, where it faults, and where it waits; and the statement
CopyAndBankCompute from the copy engines, bank compute and these. -/

namespace Sys2Proof.Machine

/-! ## Counting deliveries, in whatever order they come (R357) -/

theorem length_dropRun_le (fuel : Nat) (l : List Nat) (base : Nat) : (dropRun l base fuel).length ≤ l.length := by
  induction fuel generalizing l base with
  | zero => exact Nat.le_refl _
  | succ fuel ih =>
    unfold dropRun
    split
    · exact (ih _ _).trans (List.length_filter_le _ _)
    · exact Nat.le_refl _

/-- Taking a run of numbers out of a list leaves a number of it there, or the run has gone beyond the number. -/
theorem dropRun_keeps (fuel : Nat) {l : List Nat} {base n : Nat} (h : n ∈ l) :
    n ∈ dropRun l base fuel ∨ n + (dropRun l base fuel).length < base + l.length := by
  induction fuel generalizing l base with
  | zero => exact .inl h
  | succ fuel ih =>
    unfold dropRun
    split
    next hb =>
      have hlt : (l.filter (· != base)).length < l.length :=
        List.length_filter_lt_length_iff_exists.2 ⟨base, List.contains_iff_mem.1 hb, by simp⟩
      by_cases hn : n = base
      · have := length_dropRun_le fuel (l.filter (· != base)) (base + 1)
        omega
      · exact (ih (List.mem_filter.2 ⟨h, by simpa using hn⟩)).imp_right fun k => by omega
    next => exact .inl h

/-- A member's group after one more delivery. -/
theorem deliverSeq_eq {g : McGroup} {n : Nat} (h : seqDone g n = false) :
    deliverSeq g n = { g with delivered := g.delivered + 1, ahead := dropRun (n :: g.ahead) (g.delivered - g.ahead.length) (g.ahead.length + 1) } :=
  if_neg (by simp [h])

theorem seqDone_iff (g : McGroup) (n : Nat) : seqDone g n = true ↔ n < g.delivered - g.ahead.length ∨ n ∈ g.ahead := by
  simp [seqDone]

/-- A block delivered is done. -/
theorem seqDone_deliverSeq {g : McGroup} {n : Nat} (h : seqDone g n = false) (ha : g.ahead.length ≤ g.delivered) : seqDone (deliverSeq g n) n = true := by
  rw [deliverSeq_eq h, seqDone_iff]
  rcases dropRun_keeps (g.ahead.length + 1) (base := g.delivered - g.ahead.length) (List.mem_cons_self (a := n) (l := g.ahead)) with k | k
  · exact .inr k
  · refine .inl ?_
    rw [List.length_cons] at k
    dsimp only
    omega

@[simp] theorem getLamp_setLamp (s : State) (d p : Nat) (l : Lamp) : getLamp (setLamp s d p l) d p = l := by
  simp [getLamp, setLamp]

/-- A member's group has counted the block with a sequence number, and whether it was dropped. -/
def Delivered (d p n : Nat) (g : McGroup) (sequ dropped : Nat) (t : State) : Prop :=
  ∃ h, tfind (getLamp t d p).groups n = some h ∧ h.delivered = g.delivered + 1 ∧ h.dropped = g.dropped + dropped ∧
    (g.ahead.length ≤ g.delivered → seqDone h sequ = true) ∧ { h with delivered := 0, dropped := 0, ahead := [] } = { g with delivered := 0, dropped := 0, ahead := [] }

theorem delivered_countDelivery (u : State) (d p n : Nat) {g : McGroup} {sequ : Nat} (h : seqDone g sequ = false) (dropped : Bool) :
    Delivered d p n g sequ dropped.toNat (countDelivery u d p n g sequ dropped) := by
  have hd := seqDone_deliverSeq h
  refine ⟨{ deliverSeq g sequ with dropped := if dropped then g.dropped + 1 else g.dropped }, ?_, ?_, ?_, ?_, ?_⟩
  · rw [countDelivery, getLamp_setLamp]
    exact tfind_tput_same ..
  · rw [deliverSeq_eq h]
  · cases dropped <;> rfl
  · exact fun ha => (seqDone_iff ..).2 ((seqDone_iff ..).1 (hd ha))
  · rw [deliverSeq_eq h]

/-! ## Machine faults (R21) -/

/-- A machine fault of a delivery drops nothing: the groups are as they were, and the partition's halt line is raised. -/
def DeliveryFaults (s : State) (d p : Nat) (t : State) : Prop :=
  (getLamp t d p).groups = (getLamp s d p).groups ∧ MemSameButCounters s t ∧ ((getPart s p).reset = .idle → (getPart t p).halt.raised = true)

/-- What a delivery's access leaves before it comes to its write: counters, the groups, and whether a reset runs. -/
def DeliveryLeaves (s : State) (d p : Nat) (t : State) : Prop :=
  getLamp t d p = getLamp s d p ∧ MemSameButCounters s t ∧ (getPart t p).reset = (getPart s p).reset

theorem OnlyCounting.deliveryLeaves {s t : State} (h : OnlyCounting s t) (d p : Nat) : DeliveryLeaves s d p t :=
  ⟨by rw [getLamp, h.lamps, getLamp], h.mem, h.reset p⟩

theorem engineResolve_stop_deliveryLeaves {s t : State} {d p a n : Nat} {need : Need} {who : Option Translator} {c : BitVec 8} {g : Nat}
    (h : engineResolve s d p a n need who = .stop t c g) : DeliveryLeaves s d p t := by
  have hr := (engineResolve_stop h).2.2 p
  refine ⟨?_, (engineResolve_stop h).1, (congrArg Partition.reset hr :)⟩
  rcases engineResolve_stop_state h with ht | ⟨va, rfl⟩
  · exact (ht.deliveryLeaves d p).1
  · rfl

theorem DeliveryLeaves.faults {s t : State} {d p : Nat} (h : DeliveryLeaves s d p t) (core : Nat) (cause : BitVec 8) :
    DeliveryFaults s d p (deliveryFault t p core cause) := by
  obtain ⟨hl, hm, hr⟩ := h
  obtain ⟨l, m, e⟩ := setPirq_raiseHalt_eq t p cause core 6 (serialOfCore t core) false false 0
  refine ⟨?_, fun a ha => ?_, fun hidle => halt_raised_of_fault (hr.trans hidle) ..⟩
  · exact congrArg Lamp.groups ((congrArg (getLamp · d p) e).trans hl)
  · rw [deliveryFault, e]
    exact hm a ha

/-! ## The delivery -/

/-- The write of a delivery through resolved pieces: it waits for tokens and for the other lines of a full counter block, faults, or counts. -/
def writeDelivery (d p n : Nat) (g : McGroup) (sequ : Nat) (gs : List (Granule × Bool)) (s : State) (ps : List Piece) : Res :=
  if !tokensReady s ps || writeWaits s ps then .next (awaitTokens s ps)
  else
    match writeAccess s ps (granuleBytes gs).1 (granuleBytes gs).2 .none true (clockVector s d []) with
    | .error (c, _) => .next (deliveryFault s p g.dcore c)
    | .ok (t, _) => .next (countDelivery (takeFree (match firstBeyond ps with
      | some o => recordHoor t g.dcore (serialOfCore t g.dcore) o g.dslot false 3
      | none => t) 32) d p n g sequ false)

section
variable {d p n sequ : Nat} {g : McGroup} {gs : List (Granule × Bool)} {s u : State} {ps : List Piece}

theorem writeDelivery_waits (h : ¬ (tokensReady s ps = true ∧ writeWaits s ps = false)) :
    writeDelivery d p n g sequ gs s ps = .next (awaitTokens s ps) := by
  refine if_pos ?_
  rw [Bool.or_eq_true, Bool.not_eq_true', ← Bool.not_eq_false, ← Bool.not_eq_true (tokensReady s ps)]
  exact not_and_or.1 h

variable (h : tokensReady s ps = true ∧ writeWaits s ps = false)
include h

theorem writeDelivery_faults {k : BitVec 8} {a : Nat}
    (hw : writeAccess s ps (granuleBytes gs).1 (granuleBytes gs).2 .none true (clockVector s d []) = .error (k, a)) :
    writeDelivery d p n g sequ gs s ps = .next (deliveryFault s p g.dcore k) := by
  simp [writeDelivery, h, hw]

theorem writeDelivery_counts {st : List (Nat × Nat)} (hb : firstBeyond ps = none)
    (hw : writeAccess s ps (granuleBytes gs).1 (granuleBytes gs).2 .none true (clockVector s d []) = .ok (u, st)) :
    writeDelivery d p n g sequ gs s ps = .next (countDelivery (takeFree u 32) d p n g sequ false) := by
  simp [writeDelivery, h, hw, hb]

end

section
variable {s : State} {d p n : Nat} {g : McGroup} {m : McBlock} (hg : tfind (getLamp s d p).groups n = some g) (hsrc : g.source = false) (he : g.ended = false)
  (hd : seqDone g m.sequ = false) (hl : partLive s p = true) (hf : (getDie s d).fenced = false) (hh : debugHeld s p = false)
include hg hsrc he hd hl hf hh

theorem multicastDelivery_none (hv : deliveryOf s g.streamId m = none) : execMulticastDelivery d p n m s = .next s := by
  simp [execMulticastDelivery, hg, hsrc, he, hd, hl, hf, hh, hv]

variable {v : Delivery} (hv : deliveryOf s g.streamId m = some v)
include hv

theorem multicastDelivery_empty (h2 : v.hop = 2) (hs : tfind (getCtx s g.dcore).slots g.dslot = none) :
    execMulticastDelivery d p n m s = .next (countDelivery s d p n g m.sequ true) := by
  simp [execMulticastDelivery, hg, hsrc, he, hd, hl, hf, hh, hv, h2, hs]

theorem multicastDelivery_slot (h2 : v.hop = 2) {h : Handle} (hs : tfind (getCtx s g.dcore).slots g.dslot = some h) :
    execMulticastDelivery d p n m s =
      writeDelivery d p n g m.sequ v.granules s (resolveBuffer (clusterOfCore g.dcore) h (128 * v.dst) (16 * v.granules.length)) := by
  simp only [execMulticastDelivery, hg, hsrc, he, hd, hl, hf, hh, hv, h2, hs, Bool.not_true, Bool.or_self, Bool.false_eq_true, if_false, if_true]
  rfl

variable (h2 : v.hop ≠ 2)
include h2

theorem multicastDelivery_wait {u : State} (hr : engineResolve s d p v.dst (16 * v.granules.length) { wr := true } (some (.receive d)) = .wait u) :
    execMulticastDelivery d p n m s = .next u := by
  simp [execMulticastDelivery, hg, hsrc, he, hd, hl, hf, hh, hv, h2, hr]

theorem multicastDelivery_stop {u : State} {k : BitVec 8} {a : Nat}
    (hr : engineResolve s d p v.dst (16 * v.granules.length) { wr := true } (some (.receive d)) = .stop u k a) :
    execMulticastDelivery d p n m s = .next (if dropCause k then countDelivery u d p n g m.sequ true else deliveryFault u p g.dcore k) := by
  simp [execMulticastDelivery, hg, hsrc, he, hd, hl, hf, hh, hv, h2, hr]

theorem multicastDelivery_write {ps : List Piece}
    (hr : engineResolve s d p v.dst (16 * v.granules.length) { wr := true } (some (.receive d)) = .ok ps) :
    execMulticastDelivery d p n m s =
      writeDelivery d p n g m.sequ v.granules (cacheAccess s d p v.dst (16 * v.granules.length) (some (.receive d))) ps := by
  simp only [execMulticastDelivery, hg, hsrc, he, hd, hl, hf, hh, hv, h2, hr, Bool.not_true, Bool.or_self, Bool.false_eq_true, if_false]
  rfl

end

theorem dropCause_iff (k : BitVec 8) : dropCause k = true ↔ k ∈ [(0x12 : BitVec 8), 0x13, 0x14] := by
  simp [dropCause, causeTranslation, causeProtection, causeLayout, or_assoc]

/-! ## The statement -/

/-- Settles O44: cards by the lemmas on the copy engine's two events, bank compute by those on a row, deliveries through writeDelivery. -/
theorem copyAndBankCompute : Obligations.CopyAndBankCompute := by
  refine ⟨fun d p i c s => ?_, fun n c s u lost stamps hc hh hs hl hf => ?_, fun c i j k s u => ?_, fun d p n m g s hg hsrc he hd hl hf hh => ?_⟩
  · intro l hi hfirst hr hf n ready hready
    obtain ⟨hc, hh, hclash⟩ := hready
    refine completes_of_next (copyCardStart_starts hi hfirst hr hf (cardReady_of_free hc hh hclash))
      ⟨?_, ⟨startedCard c, congrArg Cluster.card (getCluster_setCluster _ _ _), rfl, startedCard_strays c⟩, fun _ => rfl,
        fun m hm => getCluster_setCluster_other _ _ hm⟩
    exact (congrArg (fun y : Die => tget [] y.cards p) (getDie_setDie s d _)).trans ((tget_tput_same ..).trans (dropAt_eq ..))
  · intro size last seen target
    refine ⟨fun hfill dm hdm => ⟨_, chunkSource_fill hfill hdm, fun i hi => ?_⟩, fun hok => ?_,
      fun v hv => completes_of_next (copyCardComplete_wait hc hh hs hl hf hv) rfl, fun v k g hv => ?_⟩
    · obtain ⟨hb, hz⟩ := granuleBytes_fillGranules c hi
      exact ⟨by rw [hb, fillByte_toNat], hz⟩
    · have hexec := copyCardComplete_ok hc hh hs hl hf hok
      have hadv : advanceCard c size lost stamps target = _ := advanceCard_eq c size lost stamps target
      rw [show advanceCard c (chunkSize c) lost stamps (chunkTarget s (dieOfCluster n) c) = _ from hadv] at hexec
      refine ⟨fun hlast => completes_of_next (hexec.trans (if_neg hlast)) ⟨chunkDone_mem .., fun m hm => getCluster_chunkDone_other _ _ hm, _,
        congrArg Cluster.card (getCluster_chunkDone ..), rfl, ?_, rfl, rfl, rfl⟩,
        fun hlast => completes_of_next (hexec.trans (if_pos hlast)) ⟨fun hst => cardDone_mem_of_not_strays u n hst, fun a ha => ?_, getCluster_cardDone ..,
          fun st hst => tickets_cardDone n hst⟩⟩
      · split <;> exact ⟨rfl, rfl⟩
      · refine memGet_cardDone fun _ ⟨q, hq, pa, layout, mire, key, part, hloc, i, hi, h⟩ => ?_
        obtain ⟨hout, htouch⟩ := List.mem_filter.1 hq
        have := ha q hout htouch pa layout mire key part hloc
        omega
    · have hleaves := cardChunk_stop hv
      refine completes_of_next (copyCardComplete_stop hc hh hs hl hf hv) ⟨fun hst a ha => ?_, ⟨_, stopInfo_stopCard, rfl, rfl⟩, fun st hst => ?_⟩
      · rw [stopCard_mem_of_not_strays fun x hx => (hleaves.not_strays hc hx).trans hst]
        exact hleaves.1 a ha
      · exact tickets_stopCard ((congrArg (tfind · c.owner.ticket) (hleaves.2.2.2 c.owner.core)).trans hst)
  · intro d l due
    refine ⟨fun h => completes_of_next (bmvJobComplete_idle h) rfl, fun hi hj hfirst hh hl hf => ⟨fun hm => ⟨fun h => ?_, fun v h => ?_, fun v x g h hb => ?_⟩,
      fun hm => completes_of_next (bmvJobComplete_end hi hj hfirst hh hl hf hm) ⟨fun _ => rfl, ?_, ?_⟩⟩, fun terms h => bmvElement_of_not_finite h⟩
    · obtain ⟨hrow, howner, hlost⟩ := bmvRow_ok h
      exact ⟨hrow, howner, hlost, completes_of_next (bmvJobComplete_row hi hj hfirst hh hl hf hm h)
        ⟨rowDone_mem .., fun hb => (bmv_rowDone ..).trans (congrArg (·.set i k) hb)⟩⟩
    · exact completes_of_next (bmvJobComplete_wait hi hj hfirst hh hl hf hm h) rfl
    · exact completes_of_next (bmvJobComplete_stop hi hj hfirst hh hl hf hm h) (stopBmv_stopped ((congrArg (·[i]?) hb).trans hi) x g)
    · exact (congrArg Die.bmv (getDie_setDie s d _)).trans (dropAt_eq ..)
    · intro x y
      have hnote := getCtx_noteBmv (setDie s d { getDie s d with bmv := dropAt (getDie s d).bmv i }) j
      rw [hj.1] at hnote
      split
      next ht => exact hnote.trans (if_pos ht)
      next ht => exact hnote.trans (if_neg ht)
  · refine ⟨fun hv => completes_of_next (multicastDelivery_none hg hsrc he hd hl hf hh hv) rfl, fun v hv => ?_⟩
    intro Counts size who
    refine ⟨fun h2 hs => completes_of_next (multicastDelivery_empty hg hsrc he hd hl hf hh hv h2 hs) ⟨delivered_countDelivery s d p n hd true, fun _ => rfl, rfl⟩, ?_⟩
    intro Faults
    refine ⟨fun h2 => ⟨fun u hr => completes_of_next (multicastDelivery_wait hg hsrc he hd hl hf hh hv h2 hr) rfl, fun u k a hr => ?_⟩,
      fun ps u st hslot hvirt hb => ?_⟩
    · have hexec := multicastDelivery_stop hg hsrc he hd hl hf hh hv h2 hr
      have hleaves := engineResolve_stop_deliveryLeaves hr
      refine ⟨fun hk => completes_of_next (hexec.trans (congrArg Host.Outcome.next (if_pos ((dropCause_iff k).2 hk))))
          ⟨delivered_countDelivery u d p n hd true, hleaves.2.1⟩,
        fun hk => completes_of_next (hexec.trans (congrArg Host.Outcome.next (if_neg (mt (dropCause_iff k).1 hk)))) (hleaves.faults ..)⟩
    · intro s' ready
      have hexec : execMulticastDelivery d p n m s = writeDelivery d p n g m.sequ v.granules s' ps ∧ OnlyCounting s s' := by
        by_cases h2 : v.hop = 2
        · obtain ⟨h, hs, rfl⟩ := hslot h2
          rw [show s' = s from if_pos h2]
          exact ⟨multicastDelivery_slot hg hsrc he hd hl hf hh hv h2 hs, .refl s⟩
        · rw [show s' = cacheAccess s d p v.dst size who from if_neg h2]
          exact ⟨multicastDelivery_write hg hsrc he hd hl hf hh hv h2 (hvirt h2), onlyCounting_cacheAccess ..⟩
      obtain ⟨hexec, hcount⟩ := hexec
      exact ⟨fun h => completes_of_next (hexec.trans (writeDelivery_waits h)) rfl,
        fun h k a hw => completes_of_next (hexec.trans (writeDelivery_faults h hw)) ((hcount.deliveryLeaves d p).faults ..),
        fun h hw => completes_of_next (hexec.trans (writeDelivery_counts h hb hw)) ⟨rfl, rfl, fun _ => delivered_countDelivery _ d p n hd false⟩⟩

end Sys2Proof.Machine

/-! SUPPORT. Whose g registers an operation may change (R39): OthersKeep composes, and each operation that a sequencer's instruction is made of keeps to
it. -/

namespace Sys2Proof.Machine

/-! ## Contexts -/

/-- The g registers of the three sequencers of a context are the same. -/
def SameRegs (x y : Ctx) : Prop := y.seqL.g = x.seqL.g ∧ y.seqX.g = x.seqX.g ∧ y.seqS.g = x.seqS.g

theorem sameRegs_iff (x y : Ctx) : SameRegs x y ↔ ∀ sq, (ctxSeq y sq).g = (ctxSeq x sq).g :=
  ⟨fun ⟨hl, hx, hs⟩ sq => match sq with | .L => hl | .X => hx | .S => hs, fun h => ⟨h .L, h .X, h .S⟩⟩

@[simp] theorem SameRegs.refl (x : Ctx) : SameRegs x x := ⟨rfl, rfl, rfl⟩

theorem SameRegs.trans {x y z : Ctx} (h : SameRegs x y) (k : SameRegs y z) : SameRegs x z := by
  rw [sameRegs_iff] at *
  exact fun sq => (k sq).trans (h sq)

theorem SameRegs.foldl {α : Type} {f : Ctx → α → Ctx} (h : ∀ x a, SameRegs x (f x a)) (l : List α) (x : Ctx) : SameRegs x (l.foldl f x) :=
  List.foldlRecOn (motive := fun y => SameRegs x y) l _ (.refl x) fun y hy a _ => hy.trans (h y a)

theorem sameRegs_landBy (t : Nat) (x : Ctx) : SameRegs x (landBy t x) :=
  (sameRegs_iff ..).2 fun sq => congrArg SeqState.g (ctxSeq_landList t x.xres [] x sq)

theorem sameRegs_xContext (s : State) : SameRegs (curCtx s) (xContext s) := sameRegs_landBy ..

theorem sameRegs_landAll (x : Ctx) : SameRegs x (landAll x) := by
  obtain ⟨hl, hx, hs⟩ := sameRegs_landBy (lastDue x) x
  exact ⟨hl, hx, hs⟩

theorem OorOnly.sameRegs {x y : Ctx} (h : OorOnly x y) : SameRegs x y := by
  obtain ⟨_, _, rfl⟩ := h
  exact ⟨rfl, rfl, rfl⟩

theorem sameRegs_noteAll (s : State) (x : Ctx) (rs : List Opnd) (d : Option Opnd) (p : Option (Nat × Bool × Bool)) : SameRegs x (noteAll s x rs d p) :=
  (noteAll_only ..).sameRegs

theorem sameRegs_popQueues (x : Ctx) (os : List Opnd) : SameRegs x (popQueues x os) := by
  rw [popQueues_eq]
  exact ⟨rfl, rfl, rfl⟩

theorem sameRegs_xArrival (now : Nat) (x : Ctx) : SameRegs x (xArrival now x).1 := by
  unfold xArrival
  split
  · split <;> exact ⟨rfl, rfl, rfl⟩
  · exact ⟨rfl, rfl, rfl⟩

theorem noteSpan_only (now : Nat) (x : Ctx) (v : Word) (f : BitVec 8) (i off n : Nat) (r : Bool) (k : Nat) : OorOnly x (noteSpan now x v f i off n r k) := by
  unfold noteSpan
  split
  · exact recordOor_only ..
  · split
    · exact recordOor_only ..
    · exact .refl x

theorem noteBank7_only (now : Nat) (x : Ctx) (g : Nat) (read : Bool) : OorOnly x (noteBank7 now x g read) := by
  unfold noteBank7
  split
  · exact .refl x
  · exact recordOor_only ..

theorem sameRegs_writeTable (now : Nat) (x : Ctx) (writes : List (Nat × Granule × Granule)) (fl : LaneFlags) : SameRegs x (writeTable now x writes fl) := by
  unfold writeTable
  split
  · exact SameRegs.trans ⟨rfl, rfl, rfl⟩ (sameRegs_landBy ..)
  · obtain ⟨hl, hx, hs⟩ := (recordOor_only now x (16 * (writes.map (·.1)).headD nestGranule) false false 0).sameRegs
    exact ⟨hl, hx, hs⟩

theorem sameRegs_settleBanks (x : Ctx) : SameRegs x (settleBanks x) := by
  refine SameRegs.trans (.foldl (fun y b => ?_) (List.range 8) x) ⟨rfl, rfl, rfl⟩
  split
  · split <;> exact ⟨rfl, rfl, rfl⟩
  · exact .refl y

theorem sameRegs_gateRetained (x : Ctx) : SameRegs x (gateRetained x) := by
  refine .foldl (fun y b => ?_) (List.range 8) x
  dsimp only
  split
  · exact ⟨rfl, rfl, rfl⟩
  · exact .refl y

theorem sameRegs_clearOor (now : Nat) (x : Ctx) : SameRegs x (clearOor now x) := by
  unfold clearOor
  split
  · split <;> exact ⟨rfl, rfl, rfl⟩
  · exact ⟨rfl, rfl, rfl⟩

/-- A sequencer of a context that keeps its g registers. -/
theorem sameRegs_setCtxSeq (x : Ctx) (sq : Seq) (q : SeqState) (h : q.g = (ctxSeq x sq).g) : SameRegs x (setCtxSeq x sq q) := by
  cases sq
  · exact ⟨h, rfl, rfl⟩
  · exact ⟨rfl, h, rfl⟩
  · exact ⟨rfl, rfl, h⟩

theorem setTrapBank_g (q : SeqState) (b : Nat) (t : TrapBank) : (setTrapBank q b t).g = q.g := by
  unfold setTrapBank
  split <;> rfl

theorem sameRegs_sysWrite (now : Nat) (x : Ctx) (sq : Seq) (v : Word) (r : SysReg) : SameRegs x (sysWrite now x sq v r) := by
  cases r with
  | lc n => exact sameRegs_setCtxSeq x sq _ rfl
  | vview | tview | aview => exact SameRegs.trans ⟨rfl, rfl, rfl⟩ (sameRegs_settleBanks _)
  | bankpwr => exact SameRegs.trans ⟨rfl, rfl, rfl⟩ (sameRegs_gateRetained _)
  | rsoor =>
    show SameRegs x (if bitOf v.toNat 63 then clearOor now x else x)
    split
    · exact sameRegs_clearOor ..
    · exact .refl x
  | epc b | ecause b | eaddr b | escr b => exact sameRegs_setCtxSeq x sq _ (setTrapBank_g ..)
  | _ => exact .refl x

theorem sameRegs_sysContext (s : State) : SameRegs (curCtx s) (sysContext s) := by
  unfold sysContext
  split
  · exact sameRegs_xContext s
  · exact .refl _

theorem sameRegs_clearCell (x : Ctx) : SameRegs x (clearCell x) := (sameRegs_landAll x).trans ⟨rfl, rfl, rfl⟩

/-! ## States -/

/-- No sequencer but the executing one has other g registers than before. -/
def OthersKeep (s t : State) : Prop := t.cur = s.cur ∧ ∀ c sq, (c, sq) ≠ s.cur → (getSeq t c sq).g = (getSeq s c sq).g

theorem OthersKeep.refl (s : State) : OthersKeep s s := ⟨rfl, fun _ _ _ => rfl⟩

theorem OthersKeep.trans {s t u : State} (h : OthersKeep s t) (k : OthersKeep t u) : OthersKeep s u :=
  ⟨k.1.trans h.1, fun c sq n => (k.2 c sq (h.1 ▸ n)).trans (h.2 c sq n)⟩

theorem OthersKeep.foldl {α : Type} {f : State → α → State} (h : ∀ s a, OthersKeep s (f s a)) (l : List α) (s : State) : OthersKeep s (l.foldl f s) :=
  List.foldlRecOn (motive := fun t => OthersKeep s t) l _ (.refl s) fun t ht a _ => ht.trans (h t a)

/-- What leaves the cores alone leaves every g register alone. -/
theorem othersKeep_of_cores {s t : State} (hc : t.cores = s.cores) (hcur : t.cur = s.cur) : OthersKeep s t :=
  ⟨hcur, fun c sq _ => by simp only [getSeq, getCtx, getCore, hc]⟩

theorem OnlyCounting.othersKeep {s t : State} (h : OnlyCounting s t) : OthersKeep s t :=
  othersKeep_of_cores h.cores (congrArg State.cur h.frame :)

theorem othersKeep_setCore (s : State) (c : Nat) (y : CoreState) (h : SameRegs (getCtx s c) y.ctx) : OthersKeep s (setCore s c y) := by
  refine ⟨rfl, fun d sq _ => ?_⟩
  by_cases hd : d = c
  · subst hd
    simpa [getSeq, getCtx] using (sameRegs_iff ..).1 h sq
  · simp only [getSeq, getCtx, getCore_setCore_other _ _ hd]

theorem othersKeep_setCtx (s : State) (c : Nat) (x : Ctx) (h : SameRegs (getCtx s c) x) : OthersKeep s (setCtx s c x) := othersKeep_setCore s c _ h

theorem othersKeep_setCurCtx (s : State) (x : Ctx) (h : SameRegs (curCtx s) x) : OthersKeep s (setCurCtx s x) := othersKeep_setCtx s _ x h

theorem othersKeep_setCurSeq (s : State) (q : SeqState) : OthersKeep s (setCurSeq s q) := by
  refine ⟨rfl, fun c sq h => ?_⟩
  by_cases hc : c = s.cur.1
  · subst hc
    have hq : sq ≠ s.cur.2 := fun e => h (by rw [e])
    simp only [getSeq, setCurSeq, setSeq, getCtx_setCtx, ctxSeq_setCtxSeq_other _ _ hq]
  · simp only [getSeq, setCurSeq, setSeq, getCtx_setCtx_other _ _ hc]

theorem othersKeep_takeFree (s : State) (n : Nat) : OthersKeep s (takeFree s n) := othersKeep_of_cores rfl rfl
theorem othersKeep_setCluster (s : State) (c : Nat) (x : Cluster) : OthersKeep s (setCluster s c x) := othersKeep_of_cores rfl rfl
theorem othersKeep_setDie (s : State) (d : Nat) (x : Die) : OthersKeep s (setDie s d x) := othersKeep_of_cores rfl rfl
theorem othersKeep_setPart (s : State) (p : Nat) (x : Partition) : OthersKeep s (setPart s p x) := othersKeep_of_cores rfl rfl
theorem othersKeep_wr (s : State) (r : Reg) (v : Word) : OthersKeep s (wr s r v) := othersKeep_setCurSeq ..
theorem othersKeep_wrAt (s : State) (r : Reg) (v : Word) (n : Nat) : OthersKeep s (wrAt s r v n) := othersKeep_setCurSeq ..

theorem othersKeep_petWatchdog (s : State) : OthersKeep s (petWatchdog s) := othersKeep_setCurCtx s _ ⟨rfl, rfl, rfl⟩

theorem othersKeep_finish (len n : Nat) (s : State) : OthersKeep s (finish len n s) := (othersKeep_setCurSeq ..).trans (othersKeep_petWatchdog _)

theorem othersKeep_jumpTo (a n : Nat) (s : State) : OthersKeep s (jumpTo a n s) := (othersKeep_setCurSeq ..).trans (othersKeep_petWatchdog _)

theorem othersKeep_raiseFrom (s : State) (c : Nat) (sq : Seq) (k : BitVec 8) (r : Bool) : OthersKeep s (raiseFrom s c sq k r) := by
  obtain ⟨hc, _, hcur⟩ := raiseFrom_keeps s c sq k r
  exact othersKeep_of_cores hc hcur

theorem othersKeep_raiseHalt (s : State) (p : Nat) (k : BitVec 8) (c u n : Nat) (r d : Bool) : OthersKeep s (raiseHalt s p k c u n r d) := by
  obtain ⟨hc, _, hcur⟩ := raiseHalt_keeps s p k c u n r d
  exact othersKeep_of_cores hc hcur

theorem othersKeep_setPirq (s : State) (p b : Nat) : OthersKeep s (setPirq s p b) := by
  obtain ⟨hc, _, hcur⟩ := setPirq_keeps s p b
  exact othersKeep_of_cores hc hcur

theorem othersKeep_takeFault (k : BitVec 8) (a : Nat) (s : State) : OthersKeep s (takeFault k a s) :=
  (othersKeep_setCurSeq ..).trans (othersKeep_raiseFrom ..)

/-! ## Memory, pools and the fabric -/

theorem othersKeep_catchUp (s : State) (d : Nat) (need : List Nat) : OthersKeep s (catchUp s d need) := (onlyCounting_catchUp s d need).othersKeep

theorem othersKeep_ownStoresSeen (s : State) (a n : Nat) : OthersKeep s (ownStoresSeen s a n) := by
  unfold ownStoresSeen
  dsimp only
  split <;> exact othersKeep_catchUp ..

theorem othersKeep_afterResolve (s : State) (a n : Nat) (slot : Option (BitVec 4)) : OthersKeep s (afterResolve s a n slot) := by
  unfold afterResolve
  dsimp only
  split
  · exact (othersKeep_takeFree ..).trans (onlyCounting_cacheAccess ..).othersKeep
  · exact othersKeep_takeFree ..

theorem othersKeep_countReads (s : State) (ps : List Piece) : OthersKeep s (countReads s ps) := (onlyCounting_countReads s ps).othersKeep

theorem othersKeep_afterRecord (s : State) (a n : Nat) : OthersKeep s (afterRecord s a n) := by
  unfold afterRecord
  split
  · exact .refl s
  · exact (othersKeep_afterResolve ..).trans (othersKeep_countReads ..)

theorem othersKeep_setF (s : State) (c g : Nat) (v : Bool) : OthersKeep s (setF s c g v) := othersKeep_setCluster ..

theorem othersKeep_clearAll (s : State) (ps : List Piece) : OthersKeep s (clearAll s ps) := by
  refine .foldl (fun t x => ?_) (poolGranules ps) s
  exact othersKeep_setF t x.1 x.2 false

theorem othersKeep_sramFree (s : State) (c lo hi : Nat) : OthersKeep s (sramFree s c lo hi) := (othersKeep_setCluster ..).trans (othersKeep_takeFree ..)

theorem othersKeep_freeOverlap (s : State) (d : Nat) (g : Gatherer) (b : Batch) : OthersKeep s (freeOverlap s d g b) :=
  .foldl (fun _ _ => othersKeep_sramFree ..) _ s

theorem othersKeep_leaveWaiters (s : State) (c : Nat) (g : FeAgent) : OthersKeep s (leaveWaiters s c g) := by
  unfold leaveWaiters
  dsimp only
  split
  · exact othersKeep_setCluster ..
  · exact .refl s

theorem othersKeep_joinWait (s : State) (c : Nat) (g : FeAgent) (ps : List Piece) : OthersKeep s (joinWait s c g ps) := othersKeep_setCluster ..

theorem othersKeep_setRing (s : State) (r : RingRef) (lo v : Nat) : OthersKeep s (setRing s r lo v) := othersKeep_setCluster ..

theorem othersKeep_leaveRing (s : State) (r : RingRef) : OthersKeep s (leaveRing s r) := by
  unfold leaveRing
  dsimp only
  split
  · exact othersKeep_setCluster ..
  · exact .refl s

theorem othersKeep_joinRing (s : State) (r : RingRef) : OthersKeep s (joinRing s r) := by
  unfold joinRing
  dsimp only
  split
  · exact .refl s
  · exact othersKeep_setCluster ..

theorem othersKeep_noteConsumer (s : State) (r : RingRef) : OthersKeep s (noteConsumer s r) := by
  unfold noteConsumer
  dsimp only
  split
  · exact .refl s
  · exact othersKeep_setCluster ..

theorem othersKeep_cacheLanes (s : State) (base : Nat) (slot : Option (BitVec 4)) (lanes : List (Option Nat)) : OthersKeep s (cacheLanes s base slot lanes) :=
  .foldl (fun t _ => (onlyCounting_cacheAccess t ..).othersKeep) _ s

theorem othersKeep_forgetEntries (s : State) (f : TlbEntry → Bool) : OthersKeep s (forgetEntries s f) := othersKeep_of_cores rfl rfl
theorem othersKeep_addCounter (s : State) (p c : Nat) (v : Word) : OthersKeep s (addCounter s p c v) := othersKeep_setPart ..
theorem othersKeep_setGath (s : State) (d p : Nat) (g : Gatherer) : OthersKeep s (setGath s d p g) := othersKeep_setDie ..
theorem othersKeep_setLamp (s : State) (d p : Nat) (l : Lamp) : OthersKeep s (setLamp s d p l) := othersKeep_setDie ..
theorem othersKeep_setWalker (s : State) (d p : Nat) (w : Walker) : OthersKeep s (setWalker s d p w) := othersKeep_setDie ..
theorem othersKeep_updKernel (s : State) (p n : Nat) (f : Kernel → Kernel) : OthersKeep s (updKernel s p n f) := othersKeep_setPart ..

theorem othersKeep_askAdmission (s : State) (j : CollJob) : OthersKeep s (askAdmission s j).1 := by
  unfold askAdmission
  dsimp only
  split
  · exact .refl s
  · split
    · exact othersKeep_of_cores rfl rfl
    · split
      · exact .refl s
      · split
        · exact othersKeep_of_cores rfl rfl
        · exact .refl s

theorem postPage_cores (s : State) (p va : Nat) (access : BitVec 2) (engine : List (Option Translator)) :
    (postPage s p va access engine).1.cores = s.cores ∧ (postPage s p va access engine).1.cur = s.cur := by
  unfold postPage
  dsimp only
  split
  · exact ⟨rfl, rfl⟩
  · split
    · exact ⟨rfl, rfl⟩
    · dsimp only
      split <;> exact ⟨rfl, rfl⟩

theorem othersKeep_postPage (s : State) (p va : Nat) (access : BitVec 2) (engine : List (Option Translator)) :
    OthersKeep s (postPage s p va access engine).1 :=
  othersKeep_of_cores (postPage_cores ..).1 (postPage_cores ..).2

/-! ## The executing context's accesses and jobs -/

theorem othersKeep_recordHoor (s : State) (c serial off slot : Nat) (read : Bool) (agent : Nat) : OthersKeep s (recordHoor s c serial off slot read agent) := by
  unfold recordHoor
  dsimp only
  split <;> exact othersKeep_setCore s c _ (.refl _)

theorem othersKeep_noteBeyond (s : State) (c : Nat) (ps : List Piece) (slot : Nat) (read : Bool) (agent : Nat) : OthersKeep s (noteBeyond s c ps slot read agent) := by
  unfold noteBeyond
  split
  · exact othersKeep_recordHoor ..
  · exact .refl s

theorem othersKeep_noteOperand (s : State) (o : Opnd) (n : Nat) (read : Bool) (src : Nat) : OthersKeep s (noteOperand s o n read src) :=
  othersKeep_setCurCtx s _ (noteOor_only ..).sameRegs

theorem othersKeep_snapshot (s : State) (c : Nat) (a : LAccess) : OthersKeep s (snapshot s c a).1 := by
  unfold snapshot
  split
  · exact othersKeep_takeFree ..
  · exact .refl s

theorem othersKeep_headSnapshot (s : State) (c : Nat) : OthersKeep s (headSnapshot s c) := by
  unfold headSnapshot
  split
  · exact .refl s
  next a rest _ =>
    dsimp only
    split
    · exact .refl s
    · refine (othersKeep_snapshot s c a).trans ?_
      exact othersKeep_setCtx _ c _ ⟨rfl, rfl, rfl⟩

theorem othersKeep_fly (s : State) (dest : LDest) (ps : List Piece) (strm : Option (Reg × Reg × Word)) : OthersKeep s (fly s dest ps strm) := by
  refine .trans ?_ (othersKeep_headSnapshot ..)
  exact othersKeep_setCurCtx s _ ⟨rfl, rfl, rfl⟩

theorem othersKeep_pushOperand (q : Nat) (e : QEntry) (s : State) : OthersKeep s (pushOperand q e s) := by
  unfold pushOperand
  dsimp only
  split
  · exact othersKeep_setCurCtx s _ ⟨rfl, rfl, rfl⟩
  · exact othersKeep_fly ..

theorem othersKeep_flyStore (s : State) (act : SAct) (ps : List Piece) (fa : Fe) (range : Option (Nat × Nat)) : OthersKeep s (flyStore s act ps fa range) :=
  othersKeep_setCurCtx s _ ⟨rfl, rfl, rfl⟩

theorem othersKeep_popW (s : State) (d : BitVec 2) : OthersKeep s (popW s d) := othersKeep_setCurCtx s _ ⟨rfl, rfl, rfl⟩

theorem othersKeep_askFar (s : State) (c : Nat) : OthersKeep s (askFar s c) := by
  unfold askFar
  dsimp only
  split
  · refine .trans ?_ (othersKeep_takeFree ..)
    exact othersKeep_setCtx s c _ ⟨rfl, rfl, rfl⟩
  · exact .refl s

theorem othersKeep_awaitRoom (s : State) : OthersKeep s (awaitRoom s) := by
  unfold awaitRoom
  split
  · exact .refl s
  · exact othersKeep_askFar ..

theorem othersKeep_drawAcks (s : State) (c : Nat) (sc : Scope) : OthersKeep s (drawAcks s c sc) := by
  unfold drawAcks
  split
  · exact othersKeep_askFar ..
  · exact .refl s

theorem othersKeep_setSlotsOf (s : State) (c : Nat) (l : Table Handle) : OthersKeep s (setCtx s c { getCtx s c with slots := l }) :=
  othersKeep_setCtx s c _ ⟨rfl, rfl, rfl⟩
theorem othersKeep_setSlots (s : State) (l : Table Handle) : OthersKeep s (setCurCtx s { curCtx s with slots := l }) := othersKeep_setSlotsOf ..
theorem othersKeep_setTickets (s : State) (l : Table JobStatus) : OthersKeep s (setCurCtx s { curCtx s with tickets := l }) :=
  othersKeep_setCurCtx s _ ⟨rfl, rfl, rfl⟩
theorem othersKeep_setBmvJobs (s : State) (l : List Nat) : OthersKeep s (setCurCtx s { curCtx s with bmvJobs := l }) := othersKeep_setCurCtx s _ ⟨rfl, rfl, rfl⟩
theorem othersKeep_setJoinWait (s : State) (w : Option (List Word × Reg)) : OthersKeep s (setCurCtx s { curCtx s with joinWait := w }) :=
  othersKeep_setCurCtx s _ ⟨rfl, rfl, rfl⟩
theorem othersKeep_setJobs (s : State) (l : List RJob) (n : Nat) : OthersKeep s (setCurCtx s { curCtx s with rjobs := l, arrivals := n }) :=
  othersKeep_setCurCtx s _ ⟨rfl, rfl, rfl⟩

theorem othersKeep_giveTicket (s : State) (d : Reg) (o : Bool) : OthersKeep s (giveTicket s d o) := by
  have h : OthersKeep s { s with ticketCtr := s.ticketCtr + 1 } := othersKeep_of_cores rfl rfl
  unfold giveTicket
  dsimp only
  split
  · refine .trans (h.trans ?_) (othersKeep_wr ..)
    exact othersKeep_setCurCtx _ _ ⟨rfl, rfl, rfl⟩
  · exact h.trans (othersKeep_wr ..)

theorem othersKeep_updCell (s : State) (f : CellInfo → CellInfo) : OthersKeep s (updCell s f) := othersKeep_setCurCtx s _ ⟨rfl, rfl, rfl⟩

theorem othersKeep_askPark (s : State) (c wake : Nat) : OthersKeep s (askPark s c wake) := othersKeep_setCore s c _ (.refl _)

theorem othersKeep_yieldCore (s : State) : OthersKeep s (yieldCore s) := by
  unfold yieldCore
  split
  · exact othersKeep_askPark ..
  · exact .refl s

theorem othersKeep_releaseSlot (s : State) (p : Nat) (x : Ctx) (k : Nat) :
    OthersKeep s (releaseSlot s p x k).1 ∧ SameRegs x (releaseSlot s p x k).2 := by
  unfold releaseSlot
  split
  · exact ⟨.refl s, .refl x⟩
  next h _ =>
    dsimp only
    split
    · exact ⟨othersKeep_setDie .., rfl, rfl, rfl⟩
    · exact ⟨.refl s, rfl, rfl, rfl⟩

theorem releaseSlot_cores (s : State) (p : Nat) (x : Ctx) (k : Nat) : (releaseSlot s p x k).1.cores = s.cores := by
  unfold releaseSlot
  split
  · rfl
  · dsimp only
    split <;> rfl

/-! ## The end of a cell, and the reset of a core -/

theorem othersKeep_retireSlotsOf (s : State) (c p n : Nat) (x : Ctx) : OthersKeep s (retireSlotsOf s c p n x) := by
  have h : OthersKeep s (releaseAll s p x).1 :=
    List.foldlRecOn (motive := fun r : State × Ctx => OthersKeep s r.1) (List.range 16) _ (.refl s) fun r hr k _ =>
      hr.trans (othersKeep_releaseSlot r.1 p r.2 k).1
  unfold retireSlotsOf
  generalize releaseAll s p x = r at h
  exact h.trans (othersKeep_setCore r.1 c _ (.refl _))

theorem othersKeep_dropReservation (s : State) (base g p n place : Nat) : OthersKeep s (dropReservation s base g p n place) := by
  unfold dropReservation
  dsimp only
  split
  · split
    · exact .refl s
    · exact othersKeep_setCluster ..
  · split
    · exact .refl s
    · exact othersKeep_setCluster ..

theorem othersKeep_endCell (s : State) (c : Nat) : OthersKeep s (endCell s c) := by
  unfold endCell
  split
  · exact .refl s
  next e _ =>
    exact ((((othersKeep_retireSlotsOf s c e.part e.serial _).trans (othersKeep_setCtx _ c _ (sameRegs_clearCell _))).trans
      (othersKeep_updKernel ..)).trans (othersKeep_dropReservation ..)).trans (othersKeep_updKernel ..)

theorem onlyCounting_awaitDemand (s : State) (dm : Demand) : OnlyCounting s (awaitDemand s dm) :=
  OnlyCounting.foldl (fun t kn => by
    obtain ⟨k, n⟩ := kn
    unfold saveBucket
    dsimp only
    split
    · exact .refl t
    · exact onlyCounting_updBucket ..) dm s

end Sys2Proof.Machine

/-! SUPPORT. No instruction of a sequencer changes the g registers of another one (R39): one lemma for each shape of instruction and each instruction
of no shape, and the statement. -/

namespace Sys2Proof.Machine

/-- Whatever state an outcome answers, no sequencer but the executing one has other g registers than before. -/
structure KeepsOthers (s : State) (r : Res) : Prop where
  othersKeep : ∀ t, r = .next t → OthersKeep s t

theorem keepsOthers_next {s t : State} (h : OthersKeep s t) : KeepsOthers s (.next t) :=
  ⟨fun _ e => (Host.Outcome.next.inj e) ▸ h⟩

/-- An outcome that is reached through another state. -/
theorem KeepsOthers.after {s t : State} {r : Res} (k : KeepsOthers t r) (h : OthersKeep s t) : KeepsOthers s r :=
  ⟨fun u e => h.trans (k.othersKeep u e)⟩

theorem keepsOthers_ite {s : State} {c : Prop} [Decidable c] {r r' : Res} (h : c → KeepsOthers s r) (k : ¬ c → KeepsOthers s r') :
    KeepsOthers s (if c then r else r') := by
  split
  · exact h ‹_›
  · exact k ‹_›

theorem keepsOthers_block (w : Wait) (s : State) : KeepsOthers s (block w s) := keepsOthers_next (othersKeep_setCurSeq ..)
theorem keepsOthers_fault (k : BitVec 8) (a : Nat) (s : State) : KeepsOthers s (fault k a s) := keepsOthers_next (othersKeep_takeFault ..)
theorem keepsOthers_illegal (s : State) : KeepsOthers s (illegal s) := keepsOthers_fault ..
theorem keepsOthers_finish (len n : Nat) (s : State) : KeepsOthers s (.next (finish len n s)) := keepsOthers_next (othersKeep_finish ..)

theorem keepsOthers_stopAccess (s : State) (p : Nat) (e : Stop) (g : Nat) (a : BitVec 2) : KeepsOthers s (stopAccess s p e g a) := by
  have hw := (onlyCounting_failedWalk s (dieOfCore s.cur.1) p g (some (.core s.cur.1))).othersKeep
  cases e with
  | cause c =>
    refine (keepsOthers_fault ..).after ?_
    split
    · exact .refl s
    · exact hw
  | busy dm => exact (keepsOthers_block ..).after (onlyCounting_awaitDemand s dm).othersKeep
  | page => exact keepsOthers_next ((hw.trans (othersKeep_postPage ..)).trans (othersKeep_setCurSeq ..))

theorem keepsOthers_stopRecord (s : State) (a n : Nat) (e : Stop) (g : Nat) : KeepsOthers s (stopRecord s a n e g) := by
  refine (keepsOthers_stopAccess ..).after ?_
  cases e with
  | cause c => exact othersKeep_afterRecord ..
  | busy dm | page => exact .refl s

/-! ## Control instructions -/

theorem keepsOthers_putResult (d : Reg) (v : Word) (n : Nat) (s : State) : KeepsOthers s (putResult d v n s) :=
  keepsOthers_next ((othersKeep_wrAt ..).trans (othersKeep_finish ..))

theorem keepsOthers_opDiv (f : Word → Word → Word) (d a b : Reg) (s : State) : KeepsOthers s (opDiv f d a b s) := by
  unfold opDiv
  split
  · exact keepsOthers_block ..
  · exact (keepsOthers_finish ..).after ((othersKeep_wrAt ..).trans (othersKeep_setCurSeq ..))

/-- A transfer of control goes on from a state, or faults in the state before. -/
theorem keepsOthers_transfer (a : Int) (n : Nat) {s t : State} (h : OthersKeep s t) : KeepsOthers s (transfer a n s t) := by
  unfold transfer
  split
  · exact keepsOthers_next (h.trans (othersKeep_jumpTo ..))
  · exact keepsOthers_next ((othersKeep_setCurSeq ..).trans (othersKeep_raiseFrom ..))

theorem keepsOthers_opBranch (p : Word → Word → Bool) (a b : Reg) (off : BitVec 15) (s : State) : KeepsOthers s (opBranch p a b off s) := by
  unfold opBranch
  split
  · exact keepsOthers_transfer _ _ (.refl s)
  · exact keepsOthers_finish ..

theorem keepsOthers_opLoop (i : BitVec 2) (n : Nat) (body : BitVec 10) (s : State) : KeepsOthers s (opLoop i n body s) := by
  unfold opLoop
  dsimp only
  split
  · exact keepsOthers_illegal s
  · split
    · exact keepsOthers_transfer _ _ (.refl s)
    · exact keepsOthers_next ((othersKeep_setCurSeq ..).trans (othersKeep_jumpTo ..))

theorem keepsOthers_lbrk (i : BitVec 2) (s : State) : KeepsOthers s (execLbrk i s) := by
  unfold execLbrk
  dsimp only
  split
  · exact keepsOthers_next ((othersKeep_setCurSeq ..).trans (othersKeep_jumpTo ..))
  · exact keepsOthers_next (othersKeep_jumpTo ..)

theorem keepsOthers_mfs (d : Reg) (sr : BitVec 12) (s : State) : KeepsOthers s (execMfs d sr s) := by
  unfold execMfs
  split
  · exact keepsOthers_illegal s
  · split
    · exact keepsOthers_illegal s
    · exact keepsOthers_next ((((othersKeep_setCurCtx s _ (sameRegs_sysContext s)).trans (othersKeep_wrAt ..)).trans (othersKeep_finish ..)).trans (othersKeep_takeFree ..))

theorem keepsOthers_mts (a : Reg) (sr : BitVec 12) (s : State) : KeepsOthers s (execMts a sr s) := by
  unfold execMts
  split
  · exact keepsOthers_illegal s
  next r _ =>
    split
    · exact keepsOthers_illegal s
    · exact (keepsOthers_finish ..).after ((othersKeep_setCurCtx s _ ((sameRegs_sysContext s).trans (sameRegs_sysWrite ..))).trans (othersKeep_setCurSeq ..))

theorem keepsOthers_waitc (imm : BitVec 20) (s : State) : KeepsOthers s (execWaitc imm s) :=
  keepsOthers_next ((othersKeep_finish ..).trans (othersKeep_setCurSeq ..))

theorem keepsOthers_rte (s : State) : KeepsOthers s (execRte s) := by
  unfold execRte
  split
  · exact keepsOthers_illegal s
  · exact keepsOthers_next ((othersKeep_setCurSeq ..).trans (othersKeep_petWatchdog _))

theorem keepsOthers_idle (s : State) : KeepsOthers s (execIdle s) := by
  have h : OthersKeep s (if s.cur.2 = .X then releaseLS s else s) := by
    split
    · exact othersKeep_updCell ..
    · exact .refl s
  unfold execIdle
  split
  · exact keepsOthers_illegal s
  · exact keepsOthers_next ((h.trans (othersKeep_finish ..)).trans (othersKeep_setCurSeq ..))

theorem keepsOthers_tlbi (a b : Reg) (s : State) : KeepsOthers s (execTlbi a b s) :=
  keepsOthers_ite (fun _ => keepsOthers_fault ..) fun _ => keepsOthers_ite (fun _ => keepsOthers_block ..) fun _ =>
    keepsOthers_ite (fun _ => keepsOthers_block ..) fun _ => (keepsOthers_finish ..).after (othersKeep_forgetEntries ..)

theorem keepsOthers_tlbs (d a : Reg) (s : State) : KeepsOthers s (execTlbs d a s) := by
  unfold execTlbs
  split
  · exact keepsOthers_fault ..
  · exact keepsOthers_next ((((onlyCounting_cacheAccess ..).othersKeep.trans (othersKeep_wrAt ..)).trans (othersKeep_finish ..)).trans (othersKeep_takeFree ..))

theorem keepsOthers_cswap (a : Reg) (s : State) : KeepsOthers s (execCswap a s) := by
  unfold execCswap
  dsimp only
  split
  · split
    · exact keepsOthers_finish ..
    · exact (keepsOthers_block ..).after (othersKeep_setCurSeq ..)
  · split
    · exact keepsOthers_next ((othersKeep_finish ..).trans (othersKeep_yieldCore _))
    · exact keepsOthers_next ((othersKeep_finish ..).trans (othersKeep_askPark ..))

/-! ## X's instructions -/

/-- X's context after its due results have landed, accesses out of range noted and queues popped. -/
theorem sameRegs_popped (s : State) (srcs : List Opnd) (d : Option Opnd) (p : Option (Nat × Bool × Bool)) :
    SameRegs (curCtx s) (popQueues (noteAll s (xContext s) srcs d p) srcs) :=
  ((sameRegs_xContext s).trans (sameRegs_noteAll ..)).trans (sameRegs_popQueues ..)

/-- An instruction of X that issues from another context. -/
theorem keepsOthers_issue (s : State) (x : Ctx) (n k : Nat) (h : SameRegs (curCtx s) x) : KeepsOthers s (.next (takeFree (finish 2 n (setCurCtx s x)) k)) :=
  keepsOthers_next (((othersKeep_setCurCtx s x h).trans (othersKeep_finish ..)).trans (othersKeep_takeFree ..))

/-- With a result more in flight. -/
theorem SameRegs.withResult {x y : Ctx} (h : SameRegs x y) (r : XResult) : SameRegs x { y with xres := y.xres ++ [r] } := h

theorem keepsOthers_opX (bound : Nat) (srcs : List Opnd) (d : Opnd) (q : XQ) (f : State → List Src → Mask → XOut) (s : State) :
    KeepsOthers s (opX bound srcs d q f s) := by
  unfold opX
  dsimp only
  split
  · exact keepsOthers_block ..
  · exact keepsOthers_issue s _ _ _ (sameRegs_popped s srcs _ _)

theorem keepsOthers_opXk (bound : Nat) (srcs : List Opnd) (kd : BitVec 3) (q : XQ) (f : State → List Src → Mask × LaneFlags) (s : State) :
    KeepsOthers s (opXk bound srcs kd q f s) := by
  unfold opXk
  dsimp only
  split
  · exact keepsOthers_block ..
  · exact keepsOthers_issue s _ _ _ (sameRegs_popped s srcs _ _)

theorem keepsOthers_opXg (bound : Nat) (srcs : List Opnd) (d : Reg) (q : XQ) (f : State → List Src → Mask → Word × Mask) (s : State) :
    KeepsOthers s (opXg bound srcs d q f s) := by
  unfold opXg
  dsimp only
  split
  · exact keepsOthers_block ..
  · refine keepsOthers_next (.trans (.trans (.trans ?_ (othersKeep_wrAt ..)) (othersKeep_finish ..)) (othersKeep_takeFree ..))
    exact othersKeep_setCurCtx s _ (sameRegs_popped s srcs _ _)

theorem keepsOthers_opResolver (kind : RKind) (tile : Opnd) (h : BitVec 6) (q : XQ) (s : State) : KeepsOthers s (opResolver kind tile h q s) := by
  unfold opResolver
  dsimp only
  split
  · exact keepsOthers_block ..
  · refine (keepsOthers_finish ..).after (othersKeep_setCurCtx s _ ?_)
    exact (sameRegs_xContext s).trans (sameRegs_xArrival ..)

theorem keepsOthers_cbx (w : CbBits) (t : BitVec 3) (d a : Opnd) (q : XQ) (s : State) : KeepsOthers s (execCbx w t d a q s) := by
  unfold execCbx
  split
  · exact keepsOthers_block ..
  · exact (keepsOthers_opX ..).after (othersKeep_setCurCtx s _ (noteBank7_only ..).sameRegs)

theorem keepsOthers_cbld (t : BitVec 3) (a : Opnd) (q : XQ) (s : State) : KeepsOthers s (execCbld t a q s) := by
  unfold execCbld
  dsimp only
  split
  · exact keepsOthers_block ..
  · refine keepsOthers_issue s _ _ _ (SameRegs.withResult ?_ _)
    exact (((sameRegs_xContext s).trans (noteX_only ..).sameRegs).trans (noteBank7_only ..).sameRegs).trans (sameRegs_popQueues ..)

theorem keepsOthers_vsct (d a b : Opnd) (q : XQ) (s : State) : KeepsOthers s (execVsct d a b q s) := by
  unfold execVsct
  dsimp only
  split
  · exact keepsOthers_block ..
  · exact keepsOthers_issue s _ _ _ (sameRegs_popped s [a, b] _ _)

theorem keepsOthers_sms (q : XQ) (s : State) : KeepsOthers s (execSms q s) := by
  unfold execSms
  split
  · exact keepsOthers_finish ..
  · exact (keepsOthers_finish ..).after ((othersKeep_updKernel ..).trans (othersKeep_updCell ..))

theorem keepsOthers_wpw (q : XQ) (s : State) : KeepsOthers s (execWpw q s) := by
  unfold execWpw
  split
  · exact keepsOthers_finish ..
  · split
    · exact keepsOthers_block ..
    · exact (keepsOthers_finish ..).after (othersKeep_updCell ..)

theorem keepsOthers_gbar (q : XQ) (s : State) : KeepsOthers s (execGbar q s) := by
  unfold execGbar
  split
  · exact keepsOthers_finish ..
  · split
    · exact keepsOthers_finish ..
    · split
      · split
        · exact (keepsOthers_finish ..).after (othersKeep_updCell ..)
        · exact keepsOthers_block ..
      · exact (keepsOthers_block ..).after (othersKeep_updCell ..)

theorem keepsOthers_sig (a : Reg) (q : XQ) (s : State) : KeepsOthers s (execSig a q s) := by
  have h (n : Option Nat) : OthersKeep s (setCurCtx s { curCtx s with sigWait := n }) := othersKeep_setCurCtx s _ ⟨rfl, rfl, rfl⟩
  unfold execSig
  dsimp only
  split
  · exact (keepsOthers_finish ..).after ((h none).trans (othersKeep_addCounter ..))
  · exact (keepsOthers_block ..).after (h _)

theorem keepsOthers_tail (q : XQ) (s : State) : KeepsOthers s (execTail q s) := by
  unfold execTail
  dsimp only
  split
  · exact keepsOthers_block ..
  · refine keepsOthers_next (.trans (.trans (othersKeep_finish 2 (spacing q) s) ?_) (othersKeep_endCell ..))
    exact othersKeep_setCore _ _ _ ⟨rfl, rfl, rfl⟩

theorem keepsOthers_yld (q : XQ) (s : State) : KeepsOthers s (execYld q s) := keepsOthers_next ((othersKeep_finish ..).trans (othersKeep_yieldCore _))

theorem keepsOthers_qtst (d : Reg) (a : BitVec 3) (q : XQ) (s : State) : KeepsOthers s (execQtst d a q s) :=
  (keepsOthers_finish ..).after ((othersKeep_setCurCtx s _ (sameRegs_xContext s)).trans (othersKeep_wr ..))

theorem keepsOthers_qfwd (d : BitVec 2) (a : BitVec 3) (q : XQ) (s : State) : KeepsOthers s (execQfwd d a q s) := by
  unfold execQfwd
  dsimp only
  split
  · exact keepsOthers_block ..
  · split
    · exact keepsOthers_block ..
    · exact (keepsOthers_finish ..).after (othersKeep_setCurCtx s _ (sameRegs_xContext s))

theorem keepsOthers_mcfg (w : BitVec 5) (a : Reg) (q : XQ) (s : State) : KeepsOthers s (execMcfg w a q s) :=
  (keepsOthers_finish ..).after (othersKeep_setCurCtx s _ ((sameRegs_xContext s).trans (sameRegs_writeTable ..)))

theorem keepsOthers_mcfgl (a : Opnd) (q : XQ) (s : State) : KeepsOthers s (execMcfgl a q s) := by
  unfold execMcfgl
  dsimp only
  split
  · exact keepsOthers_block ..
  · exact keepsOthers_issue s _ _ _ ((((sameRegs_xContext s).trans (noteX_only ..).sameRegs).trans (sameRegs_popQueues ..)).trans (sameRegs_writeTable ..))

theorem keepsOthers_mgo (q : XQ) (s : State) : KeepsOthers s (execMgo q s) := by
  have hseen : OthersKeep s (if bitOf (footprint (xContext s)).toNat 7 then s else setCurCtx s (recordOor s.cycle (curCtx s) (16 * nestGranule) true false 3)) := by
    split
    · exact .refl s
    · exact othersKeep_setCurCtx s _ (recordOor_only ..).sameRegs
  have hx := (sameRegs_xContext s).trans (sameRegs_xArrival s.cycle (xContext s))
  unfold execMgo
  dsimp only
  split
  · exact keepsOthers_block ..
  · refine keepsOthers_ite (fun _ => (keepsOthers_fault ..).after hseen) fun _ => keepsOthers_ite (fun _ => (keepsOthers_fault ..).after hseen) fun _ =>
      keepsOthers_ite (fun _ => (keepsOthers_fault ..).after hseen) fun _ => keepsOthers_issue s _ _ _ ?_
    split <;> exact hx

theorem keepsOthers_mwait (d : Reg) (q : XQ) (s : State) : KeepsOthers s (execMwait d q s) := by
  unfold execMwait
  dsimp only
  split
  · exact keepsOthers_block ..
  · refine (keepsOthers_finish ..).after (.trans ?_ (othersKeep_wr ..))
    exact othersKeep_setCurCtx s _ (sameRegs_xContext s)

theorem keepsOthers_acmp (p : Pred) (raw : Bool) (kd : BitVec 3) (a b : Opnd) (col : BitVec 8) (q : XQ) (s : State) :
    KeepsOthers s (execAcmp p raw kd a b col q s) := by
  unfold execAcmp
  dsimp only
  split
  · exact keepsOthers_block ..
  · have note (x : Ctx) (t : Tile) (l : List Nat) : SameRegs x
        (l.foldl (fun x j => noteTile s.cycle x t (dataOff j col.toNat) 24 true 0) (noteTile s.cycle x t 0 8 true 0)) :=
      (noteSpan_only ..).sameRegs.trans (.foldl (fun _ _ => (noteSpan_only ..).sameRegs) l _)
    exact keepsOthers_issue s _ _ _ (SameRegs.withResult (((sameRegs_xContext s).trans (note ..)).trans (note ..)) _)

/-! ## Loads and stores -/

theorem keepsOthers_waitFull (s : State) (dest : LDest) (ps : List Piece) (fa : Fe) (strm : Option (Reg × Reg × Word)) :
    KeepsOthers s (waitFull s dest ps fa strm) := by
  refine (keepsOthers_block ..).after (.trans ?_ (othersKeep_joinWait ..))
  exact othersKeep_setCurCtx s _ ⟨rfl, rfl, rfl⟩

theorem othersKeep_resolved (s : State) (a n : Nat) (slot : Option (BitVec 4)) (c : Nat) (ps : List Piece) (k : Nat) (r : Bool) (agent : Nat) :
    OthersKeep s (noteBeyond (afterResolve s a n slot) c ps k r agent) :=
  (othersKeep_afterResolve ..).trans (othersKeep_noteBeyond ..)

theorem keepsOthers_startLoad {note : State → State} (hnote : ∀ t, OthersKeep t (note t)) (dest : LDest) (a n : Nat) (slot : Option (BitVec 4)) (fa : Fe)
    (s : State) : KeepsOthers s (startLoad note dest a n slot fa s) := by
  unfold startLoad
  dsimp only
  split
  · exact keepsOthers_block ..
  · split
    · exact keepsOthers_block ..
    · split
      · exact keepsOthers_stopAccess ..
      · have h := (othersKeep_resolved s a n slot s.cur.1 ‹_› (slot.getD 0).toNat true 0).trans (hnote _)
        split
        · exact (keepsOthers_finish ..).after (h.trans (othersKeep_fly ..))
        · exact (keepsOthers_waitFull ..).after h

theorem keepsOthers_startStore {done : State → List Piece → State} (hdone : ∀ t ps, OthersKeep t (done t ps)) (a n : Nat) (slot : Option (BitVec 4)) (need : Need)
    (s : State) : KeepsOthers s (startStore a n slot need done s) := by
  unfold startStore
  dsimp only
  split
  · exact (keepsOthers_block ..).after (othersKeep_awaitRoom s)
  · split
    · exact keepsOthers_stopAccess ..
    · exact (keepsOthers_finish ..).after ((othersKeep_resolved ..).trans (hdone ..))

theorem keepsOthers_ldv (d : Opnd) (e : Addr) (fa : Fe) (s : State) : KeepsOthers s (execLdv d e fa s) := by
  unfold execLdv
  dsimp only
  split
  · exact keepsOthers_fault ..
  · exact keepsOthers_startLoad (fun t => othersKeep_noteOperand ..) ..

theorem keepsOthers_ldq (d : BitVec 3) (e : Addr) (fa : Fe) (s : State) : KeepsOthers s (execLdq d e fa s) := by
  unfold execLdq
  dsimp only
  split
  · exact keepsOthers_fault ..
  · split
    · exact keepsOthers_block ..
    · exact keepsOthers_startLoad OthersKeep.refl ..

theorem keepsOthers_lds (f : SFmt) (d : Reg) (e : Addr) (fa : Fe) (s : State) : KeepsOthers s (execLds f d e fa s) := by
  unfold execLds
  dsimp only
  split
  · exact keepsOthers_fault ..
  · split
    · split
      · exact keepsOthers_fault ..
      · split
        · exact keepsOthers_block ..
        · exact (keepsOthers_finish ..).after (othersKeep_fly ..)
    · exact keepsOthers_startLoad OthersKeep.refl ..

theorem othersKeep_lanes (s : State) (iv base : Nat) (slot : Option (BitVec 4)) (lanes : List (Option Nat)) :
    OthersKeep s (takeFree (cacheLanes (afterRecord s iv 256) base slot lanes) 96) :=
  ((othersKeep_afterRecord ..).trans (othersKeep_cacheLanes ..)).trans (othersKeep_takeFree ..)

theorem keepsOthers_gthq (d : BitVec 3) (gx : Reg) (e : Base) (s : State) : KeepsOthers s (execGthq d gx e s) := by
  unfold execGthq
  dsimp only
  refine keepsOthers_ite (fun _ => keepsOthers_fault ..) fun _ => keepsOthers_ite (fun _ => keepsOthers_fault ..) fun _ =>
    keepsOthers_ite (fun _ => keepsOthers_block ..) fun _ => keepsOthers_ite (fun _ => keepsOthers_block ..) fun _ => ?_
  split
  · exact keepsOthers_stopRecord ..
  · refine keepsOthers_ite (fun _ => keepsOthers_block ..) fun _ =>
      keepsOthers_ite (fun _ => (keepsOthers_block ..).after (onlyCounting_awaitDemand ..).othersKeep) fun _ => ?_
    split
    · exact keepsOthers_stopAccess ..
    · exact (keepsOthers_finish ..).after (((othersKeep_lanes ..).trans (othersKeep_noteBeyond ..)).trans (othersKeep_fly ..))

theorem keepsOthers_qpsh (d : BitVec 3) (gb gx : Reg) (s : State) : KeepsOthers s (execQpsh d gb gx s) :=
  keepsOthers_ite (fun _ => keepsOthers_block ..) fun _ => keepsOthers_ite (fun _ => keepsOthers_block ..) fun _ =>
    (keepsOthers_finish ..).after (othersKeep_pushOperand ..)

theorem keepsOthers_qeos (d : BitVec 3) (s : State) : KeepsOthers s (execQeos d s) :=
  keepsOthers_ite (fun _ => keepsOthers_block ..) fun _ => keepsOthers_ite (fun _ => keepsOthers_block ..) fun _ =>
    (keepsOthers_finish ..).after (othersKeep_pushOperand ..)

theorem keepsOthers_strm (d : BitVec 3) (e : Addr) (fa : Fe) (s : State) : KeepsOthers s (execStrm d e fa s) := by
  unfold execStrm
  dsimp only
  refine keepsOthers_ite (fun _ => keepsOthers_block ..) fun _ =>
    keepsOthers_ite (fun _ => keepsOthers_ite (fun _ => keepsOthers_finish ..) fun _ => keepsOthers_block ..) fun _ =>
    keepsOthers_ite (fun _ => keepsOthers_fault ..) fun _ => keepsOthers_ite (fun _ => keepsOthers_block ..) fun _ =>
    keepsOthers_ite (fun _ => keepsOthers_block ..) fun _ => keepsOthers_ite (fun _ => keepsOthers_block ..) fun _ => ?_
  split
  · exact keepsOthers_stopAccess ..
  · refine keepsOthers_ite (fun _ => (keepsOthers_waitFull ..).after (othersKeep_resolved ..)) fun _ => keepsOthers_next ?_
    exact (((othersKeep_resolved ..).trans (othersKeep_fly ..)).trans (othersKeep_setCurSeq ..)).trans (othersKeep_petWatchdog _)

theorem keepsOthers_stv (d : Opnd) (e : Addr) (fa : Fe) (s : State) : KeepsOthers s (execStv d e fa s) :=
  keepsOthers_ite (fun _ => keepsOthers_fault ..) fun _ =>
    keepsOthers_startStore (fun _ _ => (othersKeep_noteOperand ..).trans (othersKeep_flyStore ..)) ..

theorem keepsOthers_sts (f : SFmt) (d : Reg) (e : Addr) (fa : Fe) (s : State) : KeepsOthers s (execSts f d e fa s) := by
  unfold execSts
  dsimp only
  refine keepsOthers_ite (fun _ => keepsOthers_fault ..) fun _ => keepsOthers_ite (fun _ => ?_) fun _ => ?_
  · exact keepsOthers_ite (fun _ => keepsOthers_fault ..) fun _ => keepsOthers_ite (fun _ => (keepsOthers_block ..).after (othersKeep_awaitRoom s)) fun _ =>
      (keepsOthers_finish ..).after (othersKeep_flyStore ..)
  · exact keepsOthers_startStore (fun t ps => othersKeep_flyStore ..) ..

theorem keepsOthers_stq (d : BitVec 2) (e : Addr) (fa : Fe) (s : State) : KeepsOthers s (execStq d e fa s) := by
  unfold execStq
  split
  · exact keepsOthers_block ..
  · dsimp only
    refine keepsOthers_ite (fun _ => (keepsOthers_finish ..).after (othersKeep_popW ..)) fun _ => keepsOthers_ite (fun _ => keepsOthers_fault ..) fun _ => ?_
    exact keepsOthers_startStore (fun t ps => (othersKeep_popW ..).trans (othersKeep_flyStore ..)) ..

theorem keepsOthers_sta (raw : Bool) (d : Opnd) (gx : Reg) (e : Base) (s : State) : KeepsOthers s (execSta raw d gx e s) := by
  unfold execSta
  dsimp only
  exact keepsOthers_ite (fun _ => keepsOthers_fault ..) fun _ => keepsOthers_ite (fun _ => keepsOthers_block ..) fun _ =>
    keepsOthers_startStore (fun _ _ => (othersKeep_flyStore ..).trans (othersKeep_setJobs ..)) ..

theorem keepsOthers_sct (d : BitVec 2) (gx : Reg) (e : Base) (s : State) : KeepsOthers s (execSct d gx e s) := by
  unfold execSct
  split
  · exact keepsOthers_block ..
  · dsimp only
    refine keepsOthers_ite (fun _ => (keepsOthers_finish ..).after (othersKeep_popW ..)) fun _ => keepsOthers_ite (fun _ => keepsOthers_fault ..) fun _ =>
      keepsOthers_ite (fun _ => keepsOthers_fault ..) fun _ => keepsOthers_ite (fun _ => (keepsOthers_block ..).after (othersKeep_awaitRoom s)) fun _ =>
      KeepsOthers.after ?_ (othersKeep_ownStoresSeen s (rd s gx).toNat 256)
    generalize ownStoresSeen s (rd s gx).toNat 256 = u
    split
    · exact keepsOthers_stopRecord ..
    · refine keepsOthers_ite (fun _ => keepsOthers_block ..) fun _ =>
        keepsOthers_ite (fun _ => (keepsOthers_block ..).after (onlyCounting_awaitDemand ..).othersKeep) fun _ => ?_
      split
      · exact keepsOthers_stopAccess ..
      · exact (keepsOthers_finish ..).after ((((othersKeep_lanes ..).trans (othersKeep_noteBeyond ..)).trans (othersKeep_popW ..)).trans (othersKeep_flyStore ..))

theorem keepsOthers_opAtomic (op : AtomOp) (n : Nat) (signed : Bool) (ff : Option AFFmt) (k : AKind) (sc : Scope) (d gx : Reg) (e : Base) (s : State) :
    KeepsOthers s (opAtomic op n signed ff k sc d gx e s) := by
  have hu : OthersKeep s (if kindRel k then drawAcks s s.cur.1 sc else s) := by
    split
    · exact othersKeep_drawAcks ..
    · exact .refl s
  unfold opAtomic
  dsimp only
  generalize (if kindRel k then drawAcks s s.cur.1 sc else s) = u at hu ⊢
  refine keepsOthers_ite (fun _ => keepsOthers_fault ..) fun _ => keepsOthers_ite (fun _ => (keepsOthers_block ..).after hu) fun _ => keepsOthers_ite (fun _ => ?_) fun _ => ?_
  · exact keepsOthers_ite (fun _ => keepsOthers_fault ..) fun _ => keepsOthers_ite (fun _ => (keepsOthers_block ..).after (hu.trans (othersKeep_awaitRoom u))) fun _ =>
      (keepsOthers_finish ..).after (hu.trans (othersKeep_flyStore ..))
  · exact (keepsOthers_startStore (fun t ps => othersKeep_flyStore ..) ..).after hu

theorem keepsOthers_fence (k : AKind) (sc : Scope) (s : State) : KeepsOthers s (execFence k sc s) := by
  have hu : OthersKeep s (if kindRel k then drawAcks s s.cur.1 sc else s) := by
    split
    · exact othersKeep_drawAcks ..
    · exact .refl s
  unfold execFence
  dsimp only
  generalize (if kindRel k then drawAcks s s.cur.1 sc else s) = u at hu ⊢
  refine keepsOthers_ite (fun _ => (keepsOthers_finish ..).after (hu.trans ?_)) fun _ => (keepsOthers_block ..).after hu
  split
  · exact othersKeep_catchUp ..
  · exact .refl u

theorem keepsOthers_bfen (sc : Scope) (s : State) : KeepsOthers s (execBfen sc s) :=
  KeepsOthers.after (keepsOthers_ite (fun _ => keepsOthers_block ..) fun _ => keepsOthers_ite (fun _ => keepsOthers_finish ..) fun _ => keepsOthers_block ..)
    (othersKeep_drawAcks s s.cur.1 sc)

/-! ## Tokens, handles, rings and jobs -/

theorem keepsOthers_tokw (d : Reg) (s : State) : KeepsOthers s (execTokw d s) := by
  have hu : OthersKeep s (if bitOf (footprint (curCtx s)).toNat 7 then s else setCurCtx s (recordOor s.cycle (curCtx s) (16 * tokenGranule) true false 5)) := by
    split
    · exact .refl s
    · exact othersKeep_setCurCtx s _ (recordOor_only ..).sameRegs
  unfold execTokw
  dsimp only
  generalize (if bitOf (footprint (curCtx s)).toNat 7 then s else setCurCtx s (recordOor s.cycle (curCtx s) (16 * tokenGranule) true false 5)) = u at hu ⊢
  have ht : OthersKeep u (if (curCtx u).tokenBad then takeFree u 1 else u) := by
    split
    · exact othersKeep_takeFree ..
    · exact .refl u
  exact keepsOthers_ite (fun _ => (keepsOthers_finish ..).after (hu.trans ht)) fun _ => (keepsOthers_block ..).after (hu.trans ht)

theorem keepsOthers_toks (sc : Scope) (d : Reg) (s : State) : KeepsOthers s (execToks sc d s) :=
  keepsOthers_ite (fun _ => (keepsOthers_block ..).after (othersKeep_awaitRoom s)) fun _ => (keepsOthers_finish ..).after (othersKeep_flyStore ..)

theorem keepsOthers_hget (d gb : Reg) (slot : BitVec 4) (s : State) : KeepsOthers s (execHget d gb slot s) := by
  unfold execHget
  dsimp only
  refine keepsOthers_ite (fun _ => keepsOthers_fault ..) fun _ => ?_
  split
  · exact (keepsOthers_finish ..).after (othersKeep_wr ..)
  · exact (keepsOthers_finish ..).after (((othersKeep_sramFree ..).trans (othersKeep_setSlots ..)).trans (othersKeep_wr ..))

theorem keepsOthers_hpass (d gb gx : Reg) (slot : BitVec 4) (s : State) : KeepsOthers s (execHpass d gb gx slot s) := by
  unfold execHpass
  dsimp only
  split
  · exact keepsOthers_fault ..
  · refine keepsOthers_ite (fun _ => keepsOthers_fault ..) fun _ => keepsOthers_ite (fun _ => keepsOthers_block ..) fun _ =>
      keepsOthers_ite (fun _ => (keepsOthers_finish ..).after (othersKeep_wr ..)) fun _ => (keepsOthers_finish ..).after (((othersKeep_setSlots ..).trans (othersKeep_setSlotsOf ..)).trans (othersKeep_wr ..))

theorem keepsOthers_hrel (slot : BitVec 4) (s : State) : KeepsOthers s (execHrel slot s) := by
  obtain ⟨h, hx⟩ := othersKeep_releaseSlot s (curPart s) (curCtx s) slot.toNat
  have hk : SameRegs (curCtx (releaseSlot s (curPart s) (curCtx s) slot.toNat).1) (releaseSlot s (curPart s) (curCtx s) slot.toNat).2 := by
    rwa [show curCtx (releaseSlot s (curPart s) (curCtx s) slot.toNat).1 = curCtx s from
      curCtx_congr (releaseSlot_cores ..) h.1]
  unfold execHrel
  generalize releaseSlot s (curPart s) (curCtx s) slot.toNat = r at h hk
  exact keepsOthers_ite (fun _ => keepsOthers_fault ..) fun _ => keepsOthers_ite (fun _ => keepsOthers_block ..) fun _ =>
    (keepsOthers_finish ..).after (h.trans (othersKeep_setCurCtx _ _ hk))

theorem keepsOthers_jwait (d : Reg) (s : State) : KeepsOthers s (execJwait d s) := by
  unfold execJwait
  dsimp only
  split
  · exact (keepsOthers_finish ..).after (othersKeep_wr ..)
  · exact keepsOthers_block ..
  · refine keepsOthers_ite (fun _ => keepsOthers_block ..) fun _ => (keepsOthers_finish ..).after ((othersKeep_setTickets ..).trans (othersKeep_wr ..))

theorem keepsOthers_itin (d : Reg) (e : Addr) (s : State) : KeepsOthers s (execItin d e s) := by
  unfold execItin
  dsimp only
  refine keepsOthers_ite (fun _ => keepsOthers_fault ..) fun _ => keepsOthers_ite (fun _ => keepsOthers_block ..) fun _ => keepsOthers_ite (fun _ => keepsOthers_block ..) fun _ => ?_
  split
  · exact keepsOthers_stopRecord ..
  · exact (keepsOthers_finish ..).after (((othersKeep_setDie ..).trans (othersKeep_afterRecord ..)).trans (othersKeep_giveTicket ..))

theorem keepsOthers_jcpy (d : Reg) (e : Addr) (s : State) : KeepsOthers s (execJcpy d e s) := by
  unfold execJcpy
  dsimp only
  refine keepsOthers_ite (fun _ => keepsOthers_fault ..) fun _ => keepsOthers_ite (fun _ => keepsOthers_block ..) fun _ => keepsOthers_ite (fun _ => keepsOthers_block ..) fun _ => ?_
  split
  · exact keepsOthers_stopRecord ..
  · exact keepsOthers_ite (fun _ => keepsOthers_fault ..) fun _ => keepsOthers_ite (fun _ => keepsOthers_block ..) fun _ =>
      (keepsOthers_finish ..).after (((othersKeep_setDie ..).trans (othersKeep_afterRecord ..)).trans (othersKeep_giveTicket ..))

theorem keepsOthers_bmv (d : Reg) (e : Addr) (s : State) : KeepsOthers s (execBmv d e s) := by
  unfold execBmv
  dsimp only
  refine keepsOthers_ite (fun _ => keepsOthers_fault ..) fun _ => keepsOthers_ite (fun _ => keepsOthers_block ..) fun _ =>
    KeepsOthers.after ?_ (othersKeep_ownStoresSeen s (effAddr s e) 64)
  generalize ownStoresSeen s (effAddr s e) 64 = u
  split
  · exact keepsOthers_stopRecord ..
  · refine keepsOthers_ite (fun _ => keepsOthers_fault ..) fun _ => keepsOthers_ite (fun _ => keepsOthers_block ..) fun _ =>
      (keepsOthers_finish ..).after ((((othersKeep_setDie ..).trans (othersKeep_setBmvJobs ..)).trans (othersKeep_afterRecord ..)).trans (othersKeep_giveTicket ..))

theorem keepsOthers_mca (d gb gx : Reg) (s : State) : KeepsOthers s (execMca d gb gx s) := by
  unfold execMca
  dsimp only
  refine keepsOthers_ite (fun _ => keepsOthers_block ..) fun _ => ?_
  split
  · exact (keepsOthers_finish ..).after (othersKeep_wr ..)
  · exact (keepsOthers_finish ..).after ((othersKeep_setLamp ..).trans (othersKeep_wr ..))

theorem keepsOthers_mcj (d : Reg) (e : Addr) (s : State) : KeepsOthers s (execMcj d e s) := by
  unfold execMcj
  dsimp only
  refine keepsOthers_ite (fun _ => keepsOthers_fault ..) fun _ => keepsOthers_ite (fun _ => keepsOthers_block ..) fun _ =>
    KeepsOthers.after ?_ (othersKeep_ownStoresSeen s (effAddr s e) 64)
  generalize ownStoresSeen s (effAddr s e) 64 = u
  split
  · exact keepsOthers_stopAccess ..
  · refine keepsOthers_ite (fun _ => keepsOthers_fault ..) fun _ => (keepsOthers_block ..).after ((othersKeep_afterRecord ..).trans (othersKeep_setJoinWait ..))

theorem keepsOthers_coll (d : Reg) (e : Addr) (s : State) : KeepsOthers s (execColl d e s) := by
  unfold execColl
  dsimp only
  refine keepsOthers_ite (fun _ => keepsOthers_fault ..) fun _ => keepsOthers_ite (fun _ => keepsOthers_block ..) fun _ =>
    KeepsOthers.after ?_ (othersKeep_ownStoresSeen s (effAddr s e) 256)
  generalize ownStoresSeen s (effAddr s e) 256 = u
  split
  · exact keepsOthers_stopRecord ..
  · refine keepsOthers_ite (fun _ => keepsOthers_fault ..) fun _ => keepsOthers_ite (fun _ => keepsOthers_block ..) fun _ =>
      keepsOthers_ite (fun _ => keepsOthers_block ..) fun _ => ?_
    exact (keepsOthers_finish ..).after ((((othersKeep_afterRecord ..).trans (othersKeep_askAdmission ..)).trans (othersKeep_setWalker ..)).trans (othersKeep_giveTicket ..))

theorem keepsOthers_rrsv (d gb : Reg) (off : BitVec 18) (slot : BitVec 4) (s : State) : KeepsOthers s (execRrsv d gb off slot s) := by
  unfold execRrsv
  refine keepsOthers_ite (fun _ => keepsOthers_block ..) fun _ => ?_
  split
  · exact keepsOthers_fault ..
  · exact keepsOthers_ite (fun _ => (keepsOthers_finish ..).after (((othersKeep_leaveRing ..).trans (othersKeep_setRing ..)).trans (othersKeep_wr ..))) fun _ =>
      (keepsOthers_block ..).after (othersKeep_joinRing ..)

theorem keepsOthers_rpub (d : BitVec 2) (gb gx : Reg) (off : BitVec 18) (slot : BitVec 4) (s : State) : KeepsOthers s (execRpub d gb gx off slot s) := by
  unfold execRpub
  split
  · exact keepsOthers_block ..
  · refine keepsOthers_ite (fun _ => (keepsOthers_block ..).after (othersKeep_awaitRoom s)) fun _ => ?_
    split
    · exact keepsOthers_fault ..
    · exact keepsOthers_ite (fun _ => keepsOthers_block ..) fun _ =>
        (keepsOthers_finish ..).after (((othersKeep_takeFree ..).trans (othersKeep_popW ..)).trans (othersKeep_flyStore ..))

theorem keepsOthers_rcon (d : BitVec 3) (gb gx : Reg) (off : BitVec 18) (slot : BitVec 4) (s : State) : KeepsOthers s (execRcon d gb gx off slot s) := by
  unfold execRcon
  dsimp only
  refine keepsOthers_ite (fun _ => keepsOthers_block ..) fun _ => keepsOthers_ite (fun _ => keepsOthers_block ..) fun _ => ?_
  split
  · exact keepsOthers_fault ..
  next r _ =>
    refine keepsOthers_ite (fun _ => (keepsOthers_block ..).after (othersKeep_joinWait ..)) fun _ => ?_
    have ht := (((onlyCounting_noteTouch s (ringSlot r (rd s gx).toNat)).othersKeep.trans (othersKeep_leaveWaiters _ (clusterOfCore r.holder) (.ring s.cur.1))).trans
      (othersKeep_clearAll _ (ringSlot r (rd s gx).toNat))).trans (othersKeep_setRing _ r 32 (r.con + 1))
    have push (t : State) (e : QEntry) (w : Word) : OthersKeep t (wr (pushOperand d.toNat e (noteConsumer t r)) gx w) :=
      ((othersKeep_noteConsumer ..).trans (othersKeep_pushOperand ..)).trans (othersKeep_wr ..)
    split
    · exact keepsOthers_fault ..
    · split
      · exact (keepsOthers_finish ..).after ((ht.trans (othersKeep_takeFree ..)).trans (push ..))
      · exact (keepsOthers_finish ..).after (ht.trans (push ..))

theorem keepsOthers_rqgt (d : BitVec 3) (slot : BitVec 4) (s : State) : KeepsOthers s (execRqgt d slot s) := by
  unfold execRqgt
  dsimp only
  refine keepsOthers_ite (fun _ => keepsOthers_block ..) fun _ => keepsOthers_ite (fun _ => keepsOthers_fault ..) fun _ => keepsOthers_ite (fun _ => keepsOthers_block ..) fun _ =>
    keepsOthers_ite (fun _ => (keepsOthers_block ..).after (othersKeep_setGath ..)) fun _ =>
    keepsOthers_ite (fun _ => (keepsOthers_finish ..).after ((othersKeep_setGath ..).trans (othersKeep_pushOperand ..))) fun _ => ?_
  split
  · exact (keepsOthers_block ..).after (othersKeep_setGath ..)
  · exact (keepsOthers_finish ..).after ((((othersKeep_setGath ..).trans (othersKeep_freeOverlap ..)).trans (othersKeep_setSlots ..)).trans (othersKeep_pushOperand ..))

/-! ## The instructions together -/

theorem keepsOthers_opElems (bound w : Nat) (sel : Sel) (srcs : List Opnd) (d : Opnd) (q : XQ) (op : Nat → Nat → Nat → Nat × Flags) (s : State) :
    KeepsOthers s (opElems bound w sel srcs d q op s) := keepsOthers_opX ..

theorem keepsOthers_opInt (bound : Nat) (f : IFmt) (sat : Bool) (sel : Sel) (srcs : List Opnd) (d : Opnd) (q : XQ) (op : Int → Int → Int → Int) (s : State) :
    KeepsOthers s (opInt bound f sat sel srcs d q op s) := keepsOthers_opElems ..

theorem keepsOthers_opFloat (bound : Nat) (f : FFmt) (sel : Sel) (srcs : List Opnd) (d : Opnd) (q : XQ) (op : Val → Val → Val → Nat × Flags) (s : State) :
    KeepsOthers s (opFloat bound f sel srcs d q op s) := keepsOthers_opElems ..

theorem keepsOthers_opLanes (bound : Nat) (srcs : List Opnd) (d : Opnd) (q : XQ) (op : BitVec 32 → BitVec 32 → BitVec 32 × Flags) (s : State) :
    KeepsOthers s (opLanes bound srcs d q op s) := keepsOthers_opX ..

theorem keepsOthers_opConvert (ws wd : Nat) (sel : Sel) (d a : Opnd) (q : XQ) (cvt : Nat → Nat × Flags) (s : State) :
    KeepsOthers s (opConvert ws wd sel d a q cvt s) := keepsOthers_opX ..

theorem keepsOthers_opExtreme (largest : Bool) (f : DFmt) (d a : Opnd) (q : XQ) (s : State) : KeepsOthers s (opExtreme largest f d a q s) := keepsOthers_opX ..

theorem keepsOthers_opCompare (bound w : Nat) (sel : Sel) (kd : BitVec 3) (a b : Opnd) (q : XQ) (p : Nat → Nat → Bool) (s : State) :
    KeepsOthers s (opCompare bound w sel kd a b q p s) := keepsOthers_opXk ..

/-- Whoever executes it, no instruction but TRAP and BRK changes the g registers of another sequencer. -/
theorem keepsOthers_exec {i : Instr} (s : State) (hw : encode i ≠ []) (hi : ∀ imm, i ≠ .trap imm ∧ i ≠ .brk imm) : KeepsOthers s (exec i s) := by
  cases i with
  | trap imm => exact absurd rfl (hi imm).1
  | brk imm => exact absurd rfl (hi imm).2
  | nop => exact keepsOthers_finish ..
  | add | sub | mul | mulh | andr | orr | xorr | shl | shr | sra | minr | maxr | seq | slt | sltu | csel | addx | addi | andi | ori | xori | shli | shri | srai
    | slti | lui => exact keepsOthers_putResult ..
  | div | rem => exact keepsOthers_opDiv ..
  | beq | bne | blt | bge | bltu | bgeu =>
    dsimp only [exec]
    exact keepsOthers_opBranch ..
  | jmp | jr => exact keepsOthers_transfer _ _ (.refl s)
  | jal => exact keepsOthers_transfer _ _ (othersKeep_wr ..)
  | loop | loopi => exact keepsOthers_opLoop ..
  | lbrk => exact keepsOthers_lbrk ..
  | mfs => exact keepsOthers_mfs ..
  | mts => exact keepsOthers_mts ..
  | waitc => exact keepsOthers_waitc ..
  | rte => exact keepsOthers_rte s
  | idle => exact keepsOthers_idle s
  | tlbi => exact keepsOthers_tlbi ..
  | tlbs => exact keepsOthers_tlbs ..
  | cswap => exact keepsOthers_cswap ..
  | vadd | vsub | vmul | vmulh | vmad | vabs | vneg | vmin | vmax =>
    dsimp only [exec]
    exact keepsOthers_opInt ..
  | vand | vor | vxor | vandn | vsat | tunp =>
    dsimp only [exec]
    exact keepsOthers_opLanes ..
  | vshl | vshr | vsra | vfmin | vfmax | vfcls =>
    dsimp only [exec]
    exact keepsOthers_opElems ..
  | vfadd | vfsub | vfmul | vfma | vfnma | vfdiv | vrcp | vrsq | vexp2 | vlog2 =>
    dsimp only [exec]
    exact keepsOthers_opFloat ..
  | vcvtFloatToFloat | vcvtFloatToInteger | vcvtIntegerToFloat | vcvtIntegerToInteger =>
    dsimp only [exec]
    exact keepsOthers_opConvert ..
  | vrmax | vrmin =>
    dsimp only [exec]
    exact keepsOthers_opExtreme ..
  | vcmp | vfcmp =>
    dsimp only [exec]
    exact keepsOthers_opCompare ..
  | vsel | vtacc | vpack | vunpk | vmov | vbcst | vidx | vperm | vrot | vgth | vins | vrsum | vmscl =>
    dsimp only [exec]
    exact keepsOthers_opX ..
  | kop | kset =>
    dsimp only [exec]
    exact keepsOthers_opXk ..
  | vxtr | vmcnt =>
    dsimp only [exec]
    exact keepsOthers_opXg ..
  | cbx => exact keepsOthers_cbx ..
  | cbld => exact keepsOthers_cbld ..
  | vsct => exact keepsOthers_vsct ..
  | sms => exact keepsOthers_sms ..
  | wpw => exact keepsOthers_wpw ..
  | gbar => exact keepsOthers_gbar ..
  | sig => exact keepsOthers_sig ..
  | tail => exact keepsOthers_tail ..
  | yld => exact keepsOthers_yld ..
  | qtst => exact keepsOthers_qtst ..
  | qfwd => exact keepsOthers_qfwd ..
  | mcfg => exact keepsOthers_mcfg ..
  | mcfgl => exact keepsOthers_mcfgl ..
  | mgo => exact keepsOthers_mgo ..
  | mwait => exact keepsOthers_mwait ..
  | aclr | aanc | rslvCanonical | rslvToFormat | rslvWireForm | achk =>
    dsimp only [exec]
    exact keepsOthers_opResolver ..
  | ascl | amov =>
    dsimp only [exec]
    exact keepsOthers_ite (fun _ => keepsOthers_fault ..) fun _ => keepsOthers_opResolver ..
  | acmp => exact keepsOthers_acmp ..
  | prf => exact keepsOthers_finish ..
  | ldv => exact keepsOthers_ldv ..
  | ldq => exact keepsOthers_ldq ..
  | lds => exact keepsOthers_lds ..
  | gthq => exact keepsOthers_gthq ..
  | qpsh => exact keepsOthers_qpsh ..
  | qeos => exact keepsOthers_qeos ..
  | strm => exact keepsOthers_strm ..
  | tokw => exact keepsOthers_tokw ..
  | hget => exact keepsOthers_hget ..
  | hpass => exact keepsOthers_hpass ..
  | hrel => exact keepsOthers_hrel ..
  | itin => exact keepsOthers_itin ..
  | jcpy => exact keepsOthers_jcpy ..
  | jwait => exact keepsOthers_jwait ..
  | rcon => exact keepsOthers_rcon ..
  | rqgt => exact keepsOthers_rqgt ..
  | mca => exact keepsOthers_mca ..
  | stv => exact keepsOthers_stv ..
  | stq => exact keepsOthers_stq ..
  | sts => exact keepsOthers_sts ..
  | sta => exact keepsOthers_sta ..
  | sct => exact keepsOthers_sct ..
  | atadd | atfadd | atmin | atmax | atxch | atcas =>
    dsimp only [exec]
    exact keepsOthers_opAtomic ..
  | fence => exact keepsOthers_fence ..
  | bfen => exact keepsOthers_bfen ..
  | toks => exact keepsOthers_toks ..
  | rrsv => exact keepsOthers_rrsv ..
  | rpub => exact keepsOthers_rpub ..
  | bmv => exact keepsOthers_bmv ..
  | coll => exact keepsOthers_coll ..
  | mcj => exact keepsOthers_mcj ..
  | _ => exact absurd rfl hw

/-! ## The third-level trap (R417) -/

/-- Every core but c is as before. -/
structure OtherCoresKeep (c : Nat) (s t : State) : Prop where
  cur : t.cur = s.cur
  core : ∀ d, d ≠ c → getCore t d = getCore s d

theorem OtherCoresKeep.refl (c : Nat) (s : State) : OtherCoresKeep c s s := ⟨rfl, fun _ _ => rfl⟩

theorem OtherCoresKeep.trans {c : Nat} {s t u : State} (h : OtherCoresKeep c s t) (k : OtherCoresKeep c t u) : OtherCoresKeep c s u :=
  ⟨k.cur.trans h.cur, fun d hd => (k.core d hd).trans (h.core d hd)⟩

theorem OtherCoresKeep.ite {c : Nat} {s t u : State} {p : Prop} [Decidable p] (h : OtherCoresKeep c s t) (k : OtherCoresKeep c s u) :
    OtherCoresKeep c s (if p then t else u) := by
  split
  · exact h
  · exact k

theorem OtherCoresKeep.foldl {c : Nat} {α : Type} {f : State → α → State} (h : ∀ s a, OtherCoresKeep c s (f s a)) (l : List α) (s : State) :
    OtherCoresKeep c s (l.foldl f s) :=
  List.foldlRecOn (motive := OtherCoresKeep c s) l _ (.refl c s) fun t ht a _ => ht.trans (h t a)

theorem otherCoresKeep_of_cores {s t : State} (hc : t.cores = s.cores) (hcur : t.cur = s.cur) (c : Nat) : OtherCoresKeep c s t :=
  ⟨hcur, fun d _ => by simp only [getCore, hc]⟩

theorem OnlyCounting.otherCoresKeep {s t : State} (h : OnlyCounting s t) (c : Nat) : OtherCoresKeep c s t :=
  otherCoresKeep_of_cores h.cores (congrArg State.cur h.frame :) c

theorem otherCoresKeep_setCore (c : Nat) (s : State) (y : CoreState) : OtherCoresKeep c s (setCore s c y) := ⟨rfl, fun _ hd => getCore_setCore_other s y hd⟩

theorem otherCoresKeep_setCurSeq (s : State) (q : SeqState) : OtherCoresKeep s.cur.1 s (setCurSeq s q) := otherCoresKeep_setCore ..

theorem otherCoresKeep_setCluster (c : Nat) (s : State) (n : Nat) (x : Cluster) : OtherCoresKeep c s (setCluster s n x) :=
  otherCoresKeep_of_cores (setCluster_cores ..) (setCluster_cur ..) c
theorem otherCoresKeep_setDie (c : Nat) (s : State) (d : Nat) (x : Die) : OtherCoresKeep c s (setDie s d x) :=
  otherCoresKeep_of_cores (setDie_cores ..) (setDie_cur ..) c

theorem releaseAll_cores (s : State) (p : Nat) (x : Ctx) : (releaseAll s p x).1.cores = s.cores ∧ (releaseAll s p x).1.cur = s.cur := by
  unfold releaseAll
  refine List.foldlRecOn (motive := fun r : State × Ctx => r.1.cores = s.cores ∧ r.1.cur = s.cur) _ _ ⟨rfl, rfl⟩ fun r hr k _ => ?_
  exact ⟨(releaseSlot_cores ..).trans hr.1, (othersKeep_releaseSlot r.1 p r.2 k).1.1.trans hr.2⟩

theorem otherCoresKeep_retireCell (c : Nat) (s : State) (x : Ctx) : OtherCoresKeep c s (retireCell s c x) := by
  unfold retireCell
  split
  next e _ =>
    obtain ⟨hc, hcur⟩ := releaseAll_cores s e.part x
    unfold retireSlotsOf
    generalize releaseAll s e.part x = r at hc hcur
    exact (otherCoresKeep_of_cores hc hcur c).trans (otherCoresKeep_setCore c r.1 _)
  · exact .refl c s

theorem otherCoresKeep_leaveWaiters (c : Nat) (s : State) (n : Nat) (g : FeAgent) : OtherCoresKeep c s (leaveWaiters s n g) :=
  otherCoresKeep_of_cores (leaveWaiters_cores ..) (othersKeep_leaveWaiters s n g).1 c

theorem otherCoresKeep_leavePool (c : Nat) (s : State) : OtherCoresKeep c s (leavePool s c) := by
  have h := (otherCoresKeep_leaveWaiters c s (clusterOfCore c) (.load c)).trans (otherCoresKeep_leaveWaiters c _ (clusterOfCore c) (.ring c))
  unfold leavePool
  exact List.foldlRecOn (motive := OtherCoresKeep c s) _ _ h fun t ht k _ => ht.trans (.ite (otherCoresKeep_setCluster ..) (.refl c t))

theorem otherCoresKeep_leaveWait (c : Nat) (s : State) : OtherCoresKeep c s (leaveWait s c) := by
  have h := (otherCoresKeep_setCore c s { getCore s c with ctx := { getCtx s c with feWait := none, joinWait := none } }).trans (otherCoresKeep_leavePool c _)
  unfold leaveWait
  exact .ite (h.trans (otherCoresKeep_setDie ..)) h

theorem otherCoresKeep_leaveExpander (c : Nat) (s : State) : OtherCoresKeep c s (leaveExpander s c) := by
  unfold leaveExpander
  refine .trans ?_ (otherCoresKeep_leaveWaiters c _ (clusterOfCore c) (.nest c))
  generalize (getCluster s (clusterOfCore c)).waiters.find? (·.agent == .nest c) = w
  generalize (getCtx s c).nestRun = j
  cases w with
  | none => exact .refl c s
  | some w =>
    cases j with
    | none => exact .refl c s
    | some j =>
      exact .ite (otherCoresKeep_setCore c s _) (.refl c s)

theorem otherCoresKeep_coreReset (c : Nat) (s : State) : OtherCoresKeep c s (coreReset s c) :=
  ((((otherCoresKeep_leaveWait c s).trans (otherCoresKeep_leaveExpander c _)).trans (otherCoresKeep_retireCell c _ (getCore s c).ctx)).trans
    (otherCoresKeep_retireCell c _ (getCore s c).shadow)).trans (otherCoresKeep_setCore c _ _)

/-! The write of the crash record leaves the cores alone, however it ends. -/

theorem otherCoresKeep_takeFree (c : Nat) (s : State) (n : Nat) : OtherCoresKeep c s (takeFree s n) := ⟨rfl, fun _ _ => rfl⟩

theorem otherCoresKeep_writeFar (c : Nat) (s : State) (l : List (Piece × Nat × Nat)) (byte : Nat → Byte) : OtherCoresKeep c s (writeFar s l byte) := by
  unfold writeFar
  exact List.foldlRecOn (motive := OtherCoresKeep c s) _ _ (.refl c s) fun t ht x _ => ht.trans ⟨rfl, fun _ _ => rfl⟩

theorem otherCoresKeep_writeSram (c : Nat) (s : State) (ps : List Piece) (byte : Nat → Byte) (bad : Nat → Bool) (fa : Fe) (engine : Bool) :
    OtherCoresKeep c s (writeSram s ps byte bad fa engine) := by
  unfold writeSram
  refine List.foldlRecOn (motive := OtherCoresKeep c s) _ _ (.refl c s) fun t ht p _ => ht.trans ?_
  split
  · exact otherCoresKeep_setCluster ..
  · exact .refl c t

theorem otherCoresKeep_performAtHome (c : Nat) (s : State) (home : Nat) (cells : List Host.Cell) (lines : Table LineMeta) (deps : List Nat) :
    OtherCoresKeep c s (performAtHome s home cells lines deps).1 := by
  obtain ⟨_, _, _, h⟩ := performAtHome_eq s home cells lines deps
  rw [h]
  exact ⟨rfl, fun _ _ => rfl⟩

theorem otherCoresKeep_takeTokens (c : Nat) (s : State) (ps : List Piece) : OtherCoresKeep c s (takeTokens s ps) := (onlyCounting_takeDemand s _).otherCoresKeep c

theorem otherCoresKeep_writeAccess (c : Nat) {s t : State} {ps : List Piece} {byte : Nat → Byte} {bad : Nat → Bool} {fa : Fe} {engine : Bool}
    {deps counted : List Nat} {st : List (Nat × Nat)} (h : writeAccess s ps byte bad fa engine deps counted = .ok (t, st)) : OtherCoresKeep c s t := by
  unfold writeAccess at h
  dsimp only at h
  split at h
  · exact nomatch h
  · cases h
    refine .trans ?_ (((otherCoresKeep_writeFar ..).trans (otherCoresKeep_writeSram ..)).trans ((onlyCounting_noteTouch ..).otherCoresKeep c))
    refine List.foldlRecOn (motive := fun r : State × List (Nat × Nat) => OtherCoresKeep c s r.1) _ _ ?_
      fun r hr home _ => hr.trans (otherCoresKeep_performAtHome ..)
    dsimp only
    refine .trans (.trans (.ite (.refl c s) ?_) (otherCoresKeep_takeTokens ..)) (.foldl (fun u w => ?_) _ _)
    · exact otherCoresKeep_takeFree ..
    obtain ⟨w, mire, key, part⟩ := w
    have hc : OtherCoresKeep c u (if regionOf u (64 * w) = .cxl then { u with cxl := cxlCount u (64 * w) } else u) :=
      .ite (otherCoresKeep_of_cores (s := u) (t := { u with cxl := cxlCount u (64 * w) }) rfl rfl c) (.refl c u)
    exact .ite hc (hc.trans ((onlyCounting_countFrame ..).otherCoresKeep c))

/-- An attempt leaves the cores as they were, however it ends. -/
structure TryKeeps {α : Type} (c : Nat) (s : State) (r : Try α) : Prop where
  wait : ∀ t, r = .wait t → OtherCoresKeep c s t
  stop : ∀ t k g, r = .stop t k g → OtherCoresKeep c s t

theorem tryKeeps_ok {α : Type} (c : Nat) (s : State) (a : α) : TryKeeps c s (.ok a) := ⟨fun _ h => (nomatch h), fun _ _ _ h => nomatch h⟩

theorem tryKeeps_wait {α : Type} {c : Nat} {s t : State} (h : OtherCoresKeep c s t) : TryKeeps c s (.wait t : Try α) :=
  ⟨fun _ e => Try.wait.inj e ▸ h, fun _ _ _ e => nomatch e⟩

theorem tryKeeps_stop {α : Type} {c : Nat} {s t : State} (h : OtherCoresKeep c s t) (k : BitVec 8) (g : Nat) : TryKeeps c s (.stop t k g : Try α) :=
  ⟨fun _ e => (nomatch e), fun _ _ _ e => (Try.stop.inj e).1 ▸ h⟩

theorem tryKeeps_engineResolve (c : Nat) (s : State) (d p a n : Nat) (need : Need) (who : Option Translator) :
    TryKeeps c s (engineResolve s d p a n need who) := by
  have hwalk (g : Nat) := (onlyCounting_failedWalk s d p g who).otherCoresKeep c
  unfold engineResolve
  cases failedAt s p a n who with
  | some va => exact tryKeeps_stop (otherCoresKeep_of_cores (setPart_cores ..) (setPart_cur ..) c) _ _
  | none =>
    cases resolveVirtual s d p a n need who with
    | ok ps => exact tryKeeps_ok ..
    | error k =>
      obtain ⟨e, g⟩ := k
      cases e with
      | cause k => exact tryKeeps_stop (hwalk g) ..
      | busy dm => exact tryKeeps_wait ((onlyCounting_awaitDemand s dm).otherCoresKeep c)
      | page =>
        obtain ⟨hc, hcur⟩ := postPage_cores (failedWalk s d p g who) p g (accessCode need) [who]
        exact tryKeeps_wait ((hwalk g).trans (otherCoresKeep_of_cores hc hcur c))

/-- The state after a write of an engine, however it ended. -/
def Try.after : Try State → State
  | .ok t | .wait t | .stop t _ _ => t

theorem otherCoresKeep_engineWrite (c : Nat) (s : State) (d p a : Nat) (bytes : List Byte) (who : Option Translator) :
    OtherCoresKeep c s (engineWrite s d p a bytes who).after := by
  have hr := tryKeeps_engineResolve c s d p a bytes.length { wr := true } who
  unfold engineWrite engineStore
  cases h : engineResolve s d p a bytes.length { wr := true } who with
  | wait t => exact hr.wait t h
  | stop t k g => exact hr.stop t k g h
  | ok ps =>
    dsimp only
    by_cases hd : (!demandReady s (engineDemand s d p a bytes.length who ps) || writeWaits s ps) = true
    · rw [if_pos hd]
      exact (onlyCounting_awaitDemand s _).otherCoresKeep c
    · rw [if_neg hd]
      have hca := (onlyCounting_cacheAccess s d p a bytes.length who).otherCoresKeep c
      generalize cacheAccess s d p a bytes.length who = u at hca
      cases hw : writeAccess u ps (fun i => bytes.getD i 0) (fun _ => false) .none true (clockVector u d []) with
      | error k => exact hca
      | ok r => exact (hca.trans (otherCoresKeep_writeAccess c hw)).trans (otherCoresKeep_takeFree ..)

theorem otherCoresKeep_raised (c : Nat) (s : State) (p : Nat) (k : BitVec 8) (u n : Nat) (r d : Bool) :
    OtherCoresKeep c s (setPirq (raiseHalt s p k c u n r d) p 0) := by
  obtain ⟨hc, _, hcur⟩ := raiseHalt_keeps s p k c u n r d
  obtain ⟨kc, _, kcur⟩ := setPirq_keeps (raiseHalt s p k c u n r d) p 0
  exact otherCoresKeep_of_cores (kc.trans hc) (kcur.trans hcur) c

/-- The halt that a third-level trap raises once its core is reset. -/
def thirdHalt (c u p n : Nat) (noRec : Bool) (s : State) : State :=
  let t := setPirq (raiseHalt (coreReset s c) p causeThird c u n false false) p 0
  if noRec then setPart t p { getPart t p with halt := { (getPart t p).halt with norec := true } } else t

theorem thirdTrap_eq (k : BitVec 8) (imm : BitVec 20) (s : State) : thirdTrap k imm s =
    match partOfCore s s.cur.1 with
    | none => .next (coreReset s s.cur.1)
    | some p =>
      if (getPart s p).stopbase = 0 then .next (thirdHalt s.cur.1 (unitOfSeq s.cur.2) p (serialOfCore s s.cur.1) true s)
      else
        match engineWrite s (dieOfCore s.cur.1) p ((getPart s p).stopbase.toNat + 0xA0000 + 192 * s.cur.1 + 64 * unitOfSeq s.cur.2)
          (crashRecord s s.cur.1 s.cur.2 k imm) (curTlb s) with
        | .wait t => .next (setCurSeq t { curSeq t with wait := .page })
        | .stop t _ _ => .next (thirdHalt s.cur.1 (unitOfSeq s.cur.2) p (serialOfCore s s.cur.1) true t)
        | .ok t => .next (thirdHalt s.cur.1 (unitOfSeq s.cur.2) p (serialOfCore s s.cur.1) false t) := rfl

theorem otherCoresKeep_thirdHalt (c u p n : Nat) (noRec : Bool) (s : State) : OtherCoresKeep c s (thirdHalt c u p n noRec s) := by
  have h := (otherCoresKeep_coreReset c s).trans (otherCoresKeep_raised c (coreReset s c) p causeThird u n false false)
  exact .ite (h.trans (otherCoresKeep_of_cores (setPart_cores ..) (setPart_cur ..) c)) h

theorem otherCoresKeep_thirdTrap {k : BitVec 8} {imm : BitVec 20} {s t : State} (h : thirdTrap k imm s = .next t) : OtherCoresKeep s.cur.1 s t := by
  rw [thirdTrap_eq] at h
  cases hp : partOfCore s s.cur.1 with
  | none =>
    rw [hp] at h
    exact Host.Outcome.next.inj h ▸ otherCoresKeep_coreReset ..
  | some p =>
    rw [hp] at h
    dsimp only at h
    split at h
    · exact Host.Outcome.next.inj h ▸ otherCoresKeep_thirdHalt ..
    · have hw := otherCoresKeep_engineWrite s.cur.1 s (dieOfCore s.cur.1) p
        ((getPart s p).stopbase.toNat + 0xA0000 + 192 * s.cur.1 + 64 * unitOfSeq s.cur.2) (crashRecord s s.cur.1 s.cur.2 k imm) (curTlb s)
      split at h
      next u he =>
        rw [he] at hw
        exact Host.Outcome.next.inj h ▸ hw.trans (hw.cur ▸ otherCoresKeep_setCurSeq ..)
      next u _ _ he =>
        rw [he] at hw
        exact Host.Outcome.next.inj h ▸ hw.trans (otherCoresKeep_thirdHalt ..)
      next u he =>
        rw [he] at hw
        exact Host.Outcome.next.inj h ▸ hw.trans (otherCoresKeep_thirdHalt ..)

theorem otherCoresKeep_takeTrap {k : BitVec 8} {imm : BitVec 20} {s t : State} (h : takeTrap k imm s = .next t) : OtherCoresKeep s.cur.1 s t := by
  have hs : OtherCoresKeep s.cur.1 s (if s.cur.2 = .X then setCurCtx s (landAll (curCtx s)) else s) := .ite (otherCoresKeep_setCore ..) (.refl _ s)
  unfold takeTrap at h
  dsimp only at h
  generalize (if s.cur.2 = .X then setCurCtx s (landAll (curCtx s)) else s) = u at hs h
  rw [← hs.cur] at hs ⊢
  split at h
  · exact hs.trans (otherCoresKeep_thirdTrap h)
  · cases h
    exact (hs.trans (otherCoresKeep_setCurSeq ..)).trans (otherCoresKeep_setCore ..)

theorem otherCoresKeep_brk {imm : BitVec 20} {s t : State} (h : execBrk imm s = .next t) : OtherCoresKeep s.cur.1 s t := by
  unfold execBrk at h
  dsimp only at h
  split at h
  · cases h
    obtain ⟨hc, _, hcur⟩ := raiseHalt_keeps (setCurSeq s _) (curPart s) causeBrk s.cur.1 (unitOfSeq s.cur.2) (serialOfCore s s.cur.1) true true
    exact (otherCoresKeep_setCurSeq ..).trans (otherCoresKeep_of_cores hc hcur _)
  · exact otherCoresKeep_takeTrap h

/-- Settles O15: every instruction but TRAP and BRK through keepsOthers_exec; what TRAP and BRK leave of other cores through OtherCoresKeep. -/
theorem registersArePrivate : Obligations.RegistersArePrivate := by
  intro i s t hw ht
  have other (h : OtherCoresKeep s.cur.1 s t) (c : Nat) (sq : Seq) (hc : c ≠ s.cur.1) : (getSeq t c sq).g = (getSeq s c sq).g := by
    rw [getSeq, getSeq, getCtx, getCtx, h.core c hc]
  by_cases hi : ∀ imm, i ≠ .trap imm ∧ i ≠ .brk imm
  · have h := (keepsOthers_exec s hw hi).othersKeep t ht
    exact ⟨fun c sq hc => h.2 c sq fun e => hc (congrArg Prod.fst e), fun _ sq hsq => h.2 _ sq fun e => hsq (congrArg Prod.snd e)⟩
  · refine ⟨?_, fun h => absurd h hi⟩
    push Not at hi
    obtain ⟨imm, hi⟩ := hi
    by_cases htrap : i = .trap imm
    · subst htrap
      exact other (otherCoresKeep_takeTrap ht)
    · obtain rfl := hi htrap
      exact other (otherCoresKeep_brk ht)

end Sys2Proof.Machine

/-! SUPPORT. The machine after package reset, and what MFS of each system register of R50 reads. -/

namespace Sys2Proof.Machine

/-! ## Package reset -/

/-- Settles O17: the reset state lists nothing, so every unit is read as its default. -/
theorem resetState : Obligations.ResetState := by
  refine ⟨rfl, rfl, rfl, rfl, fun p => ⟨rfl, rfl, rfl⟩, fun c sq => ?_⟩
  cases sq <;> exact ⟨rfl, rfl, rfl, rfl, fun r => ite_self _, rfl, rfl⟩

/-! ## Which registers there are -/

theorem toNat_sysRegNumber {n : Nat} (h : n < 4096) : (BitVec.ofNat 12 n).toNat = n := by
  rw [BitVec.toNat_ofNat]; omega

theorem sysReg_lc {n : Nat} (h : n < 4) : sysReg (0x008 + n) = some (.lc n) := by
  interval_cases n <;> rfl

theorem sysReg_qstq {n : Nat} (h : n < 8) : sysReg (0x020 + n) = some (.qstq n) := by
  interval_cases n <;> rfl

theorem sysReg_qstw {n : Nat} (h : n < 4) : sysReg (0x028 + n) = some (.qstw n) := by
  interval_cases n <;> rfl

theorem sysReg_hslot {n : Nat} (h : n < 16) : sysReg (0x040 + n) = some (.hslot n) := by
  interval_cases n <;> rfl

/-- R50's map assigns no register to any other number. -/
theorem sysReg_none {n : Nat} (h : n ∉ [0, 1, 2, 3, 8, 9, 10, 11, 0x10, 0x11, 0x12, 0x30, 0x100, 0x101, 0x110, 0x111, 0x112, 0x113, 0x118, 0x119, 0x11A, 0x11B])
    (hx : ¬ (0x13 ≤ n ∧ n ≤ 0x15)) (hq : ¬ (0x20 ≤ n ∧ n < 0x2C)) (hs : ¬ (0x40 ≤ n ∧ n < 0x50)) : sysReg n = none := by
  simp only [List.mem_cons, List.not_mem_nil, or_false, not_or] at h
  unfold sysReg
  repeat rw [if_neg (by omega)]

/-! ## MFS -/

/-- MFS of a register that the sequencer may read writes the register's value to d. -/
theorem mfs_reads (d : Reg) (s : State) {n : Nat} {r : SysReg} (hn : n < 4096) (hr : sysReg n = some r) (hq : readableBy s.cur.2 r = true)
    {v : Word} (hv : sysRead s (sysContext s) s.cur.1 s.cur.2 r = v) :
    Completes (.mfs d (BitVec.ofNat 12 n)) s fun t => Holds t d v ∧ SeqFrom s (sysContext s) 1 1 [d] t := by
  refine ⟨takeFree (finish 1 1 (wrAt (setCurCtx s (sysContext s)) d v 2)) 128, ?_, ?_⟩
  · show execMfs d (BitVec.ofNat 12 n) s = _
    simp only [execMfs, toNat_sysRegNumber hn, hr, hq, hv]
    rfl
  · rw [finish_wrAt, setCurCtx_setCurCtx, curCtx_setCurCtx, curSeq_setCurCtx, setCurCtx_cur]
    refine ⟨?_, onlyContext_takeFree _ _ _, ?_, ?_⟩
    · unfold Holds rd
      rw [curSeq_takeFree, curSeq_setCurCtx, ctxSeq_wdog (setCtxSeq ..), ctxSeq_setCtxSeq]
      exact regOf_withReg _ d v
    · rw [curCtx_takeFree, curCtx_setCurCtx, restOfCtx_wdog, restOfCtx_setCtxSeq]
    · rw [curSeq_takeFree, curSeq_setCurCtx, ctxSeq_wdog (setCtxSeq ..), ctxSeq_setCtxSeq]
      exact seqDone_write (ctxSeq (sysContext s) s.cur.2) _ d v 1 1

/-- MFS of a number that names no register the sequencer may read is illegal. -/
theorem mfs_illegal (d : Reg) (s : State) {n : Nat} (hn : n < 4096) (hr : ∀ r, sysReg n = some r → readableBy s.cur.2 r = false) :
    Completes (.mfs d (BitVec.ofNat 12 n)) s (FaultsAt s 0x10 0) := by
  have h : exec (.mfs d (BitVec.ofNat 12 n)) s = illegal s := by
    show execMfs d (BitVec.ofNat 12 n) s = _
    simp only [execMfs, toNat_sysRegNumber hn]
    cases h : sysReg n with
    | none => rfl
    | some r => simp only [hr r h]; rfl
  unfold Completes
  rw [h]
  exact fault_faultsAt causeIllegal 0 s

/-! ## The values with a form of their own -/

theorem queueStatus_eq_queueWord (q : Queue) : queueStatus q = QueueWord q := by
  unfold queueStatus QueueWord
  cases q.entries <;> rfl

theorem orFlagsN_congr {f g : Nat → Flags} {n : Nat} (h : ∀ i, i < n → f i = g i) : orFlagsN f n = orFlagsN g n :=
  List.foldl_ext _ _ _ fun a i hi => by rw [h i (List.mem_range.1 hi)]

theorem flagsumValue_of_nil {x : Ctx} (h : x.xres = []) (free : Nat) :
    flagsumValue x free = BitVec.ofNat 64 (orFlagsN (laneFlags x.flags) 64).toNat := by
  have hv : flagsVector x free = ofLanes fun j => (laneFlags x.flags j).setWidth 32 := by
    simp [flagsVector, flagsPending, flagsSeen, h]
  have hl (j : Nat) (hj : j < 64) : (lane (flagsVector x free) j).setWidth 8 = laneFlags x.flags j := by
    rw [hv, lane_ofLanes _ hj, BitVec.setWidth_setWidth_of_le _ (by omega), BitVec.setWidth_eq]
  rw [flagsumValue, BitVec.ofNat_toNat]
  exact congrArg _ (orFlagsN_congr hl)

theorem seqidValue_eq (s : State) (c : Nat) (sq : Seq) :
    seqidValue s c sq = BitVec.ofNat 64 ((match sq with | .L => 0 | .X => 1 | .S => 2) + 4 * c + 4096 * (partOfCore s c).getD 0) := by
  cases sq <;> rfl

theorem hslotValue_of_some {x : Ctx} {n : Nat} {h : Handle} (hf : tfind x.slots n = some h) (hb : h.base < 2 ^ 16) (hl : h.len < 2 ^ 17) :
    hslotValue x n = BitVec.ofNat 64 (h.base + 2 ^ 16 * h.len + 2 ^ 63) := by
  unfold hslotValue
  rw [hf]
  simp only [Nat.mod_eq_of_lt hb, Nat.mod_eq_of_lt hl]

/-- Settles O6: mfs_reads for each register of the map, mfs_illegal for every other number. -/
theorem systemRegisterReads : Obligations.SystemRegisterReads := by
  intro d s sq x q Reads
  have all (n : Nat) (r : SysReg) (hn : n < 4096) (hr : sysReg n = some r) (hq : ∀ sq, readableBy sq r = true) {v : Word}
      (hv : sysRead s x s.cur.1 sq r = v) : Reads n v := mfs_reads d s hn hr (hq sq) hv
  have xOnly (n : Nat) (r : SysReg) (h : sq = .X) (hn : n < 4096) (hr : sysReg n = some r) (hq : readableBy .X r = true) {v : Word}
      (hv : sysRead s x s.cur.1 sq r = v) : Reads n v := mfs_reads d s hn hr ((congrArg (readableBy · r) h).trans hq) hv
  refine ⟨all _ .seqid (by omega) rfl (fun _ => rfl) (seqidValue_eq ..), all _ .cycle (by omega) rfl (fun _ => rfl) rfl,
    all _ .kargs (by omega) rfl (fun _ => rfl) rfl, all _ .kernid (by omega) rfl (fun _ => rfl) rfl,
    fun n h => all _ (.lc n) (by omega) (sysReg_lc h) (fun _ => rfl) (BitVec.ofNat_toNat ..).symm, all _ .vview (by omega) rfl (fun _ => rfl) rfl,
    all _ .tview (by omega) rfl (fun _ => rfl) rfl, all _ .aview (by omega) rfl (fun _ => rfl) rfl,
    fun h => ⟨xOnly _ .bankpwr h (by omega) rfl rfl rfl, xOnly _ .rsoor h (by omega) rfl rfl rfl,
      fun hx => xOnly _ .flagsum h (by omega) rfl rfl (flagsumValue_of_nil hx _)⟩,
    fun n h => all _ (.qstq n) (by omega) (sysReg_qstq h) (fun _ => rfl) (queueStatus_eq_queueWord _),
    fun n h => all _ (.qstw n) (by omega) (sysReg_qstw h) (fun _ => rfl) (queueStatus_eq_queueWord _),
    all _ .mprog (by omega) rfl (fun _ => rfl) rfl, fun n hn => ⟨fun h => ?_, fun h hf hb hl => ?_⟩,
    all _ .tlevel (by omega) rfl (fun _ => rfl) (BitVec.ofNat_toNat ..).symm, all _ .tvec (by omega) rfl (fun _ => rfl) (BitVec.ofNat_toNat ..).symm,
    all _ (.epc 0) (by omega) rfl (fun _ => rfl) (BitVec.ofNat_toNat ..).symm, all _ (.ecause 0) (by omega) rfl (fun _ => rfl) (BitVec.ofNat_toNat ..).symm,
    all _ (.eaddr 0) (by omega) rfl (fun _ => rfl) (BitVec.ofNat_toNat ..).symm, all _ (.escr 0) (by omega) rfl (fun _ => rfl) rfl,
    all _ (.epc 1) (by omega) rfl (fun _ => rfl) (BitVec.ofNat_toNat ..).symm, all _ (.ecause 1) (by omega) rfl (fun _ => rfl) (BitVec.ofNat_toNat ..).symm,
    all _ (.eaddr 1) (by omega) rfl (fun _ => rfl) (BitVec.ofNat_toNat ..).symm, all _ (.escr 1) (by omega) rfl (fun _ => rfl) rfl, fun n hn hlist hq hs hx => ?_⟩
  · exact all _ (.hslot n) (by omega) (sysReg_hslot hn) (fun _ => rfl) (by simp [sysRead, hslotValue, h])
  · exact all _ (.hslot n) (by omega) (sysReg_hslot hn) (fun _ => rfl) (hslotValue_of_some hf hb hl)
  · refine mfs_illegal d s hn fun r hr => ?_
    by_cases hb : 0x13 ≤ n ∧ n ≤ 0x15
    · have hne : s.cur.2 ≠ .X := fun e => hx ⟨e, hb⟩
      obtain ⟨h1, h2⟩ := hb
      interval_cases n <;> cases hr <;> simpa [readableBy] using hne
    · rw [sysReg_none hlist hb hq hs] at hr
      exact nomatch hr

end Sys2Proof.Machine

/-! SUPPORT. What MTS writes (R103), what a change of the views and of RET does to the banks (R36, R37), and BANK_WAKE. -/

namespace Sys2Proof.Machine

/-! ## Bits -/

theorem bitOf_eq_testBit (x i : Nat) : bitOf x i = x.testBit i := by
  rw [bitOf, Nat.testBit_eq_decide_div_mod_eq, Nat.shiftRight_eq_div_pow, beq_eq_decide]

theorem bitOf_toNat {w : Nat} (m : BitVec w) (i : Nat) : bitOf m.toNat i = m.getLsbD i := bitOf_eq_testBit ..

theorem getLsbD_bit {i b : Nat} (hb : b < 8) : (BitVec.ofNat 8 (2 ^ b)).getLsbD i = decide (i = b) := by
  rw [BitVec.getLsbD_ofNat, Nat.testBit_two_pow, Bool.eq_iff_iff]
  simp only [Bool.and_eq_true, decide_eq_true_eq]
  omega

theorem and_bit_eq_zero (m : BitVec 8) {b : Nat} (hb : b < 8) : m &&& BitVec.ofNat 8 (2 ^ b) = 0 ↔ m.getLsbD b = false := by
  constructor
  · intro h
    replace h : (m &&& BitVec.ofNat 8 (2 ^ b)).getLsbD b = BitVec.getLsbD 0 b := congrArg (BitVec.getLsbD · b) h
    rw [BitVec.getLsbD_and, getLsbD_bit hb, decide_eq_true rfl, Bool.and_true] at h
    exact h.trans BitVec.getLsbD_zero
  · intro h
    refine BitVec.eq_of_getLsbD_eq fun i _ => ?_
    rw [BitVec.getLsbD_and, getLsbD_bit hb]
    refine Eq.trans ?_ BitVec.getLsbD_zero.symm
    by_cases e : i = b
    · rw [e, h, Bool.false_and]
    · rw [decide_eq_false e, Bool.and_false]

/-! ## Banks that lose their contents -/

theorem tfind_tdelRange {α : Type} (t : Table α) (lo hi n : Nat) : tfind (tdelRange t lo hi) n = if lo ≤ n ∧ n < hi then none else tfind t n := by
  induction t with
  | nil => exact (ite_self _).symm
  | cons e t ih =>
    obtain ⟨k, v⟩ := e
    have ih' : tfind (t.filter fun p => p.1 < lo || hi ≤ p.1) n = if lo ≤ n ∧ n < hi then none else tfind t n := ih
    by_cases hk : k < lo ∨ hi ≤ k
    · by_cases hn : k = n
      · subst hn
        simp [tdelRange, tfind, hk, show ¬ (lo ≤ k ∧ k < hi) by omega]
      · simp [tdelRange, tfind, hk, hn, ih']
    · have hn : ¬ (lo ≤ n ∧ n < hi) → k ≠ n := by omega
      by_cases hb : lo ≤ n ∧ n < hi
      · simp [tdelRange, hk, ih', hb]
      · simp [tdelRange, tfind, hk, ih', hb, hn hb]

theorem storeGranule_dropBank (x : Ctx) (b n : Nat) : storeGranule (dropBank x b) n = if n / 8192 = b then 0 else storeGranule x n := by
  unfold storeGranule dropBank bankOfGranule
  simp only [tfind_tdelRange, tfind_tdel]
  by_cases h : n / 8192 = b
  · rw [if_pos (by omega), if_pos h, if_pos h]
  · rw [if_neg (by omega), if_neg h, if_neg h]

/-- A bank that p names loses its contents and is gated. -/
def gateBank (p : Nat → Bool) (x : Ctx) (b : Nat) : Ctx := if p b then { dropBank x b with gated := x.gated ||| BitVec.ofNat 8 (2 ^ b) } else x

/-- A bank that p names loses its contents. -/
def scrubBank (p : Nat → Bool) (x : Ctx) (b : Nat) : Ctx := if p b then dropBank x b else x

/-- Nothing of a context has changed but what its store holds and which banks are gated. -/
def OnlyBanks (x y : Ctx) : Prop := y = { x with fills := y.fills, store := y.store, gated := y.gated }

theorem onlyBanks_refl (x : Ctx) : OnlyBanks x x := rfl

theorem OnlyBanks.trans {x y z : Ctx} (h : OnlyBanks x y) (k : OnlyBanks y z) : OnlyBanks x z := by
  unfold OnlyBanks at *
  rw [h] at k
  exact k

theorem onlyBanks_foldl {f : Ctx → Nat → Ctx} (hf : ∀ x b, OnlyBanks x (f x b)) (l : List Nat) (x : Ctx) : OnlyBanks x (l.foldl f x) := by
  induction l generalizing x with
  | nil => exact onlyBanks_refl x
  | cons b l ih => exact (hf x b).trans (ih _)

theorem onlyBanks_gateBank (p : Nat → Bool) (x : Ctx) (b : Nat) : OnlyBanks x (gateBank p x b) := by
  unfold gateBank
  split
  · rfl
  · exact onlyBanks_refl x

theorem onlyBanks_scrubBank (p : Nat → Bool) (x : Ctx) (b : Nat) : OnlyBanks x (scrubBank p x b) := by
  unfold scrubBank
  split
  · rfl
  · exact onlyBanks_refl x

/-- Granules of the banks that p names among l read as zero, every other one as before. -/
theorem storeGranule_foldl {f : Ctx → Nat → Ctx} {p : Nat → Bool}
    (hf : ∀ x b n, storeGranule (f x b) n = if n / 8192 = b ∧ p b = true then 0 else storeGranule x n) (l : List Nat) (x : Ctx) (n : Nat) :
    storeGranule (l.foldl f x) n = if n / 8192 ∈ l ∧ p (n / 8192) = true then 0 else storeGranule x n := by
  induction l generalizing x with
  | nil => simp
  | cons b l ih =>
    rw [List.foldl_cons, ih, hf]
    by_cases hb : n / 8192 = b
    · subst hb
      by_cases hp : p (n / 8192) = true <;> simp [hp]
    · simp [hb]

theorem storeGranule_gateBank (p : Nat → Bool) (x : Ctx) (b n : Nat) :
    storeGranule (gateBank p x b) n = if n / 8192 = b ∧ p b = true then 0 else storeGranule x n := by
  unfold gateBank
  by_cases h : p b = true
  · simp only [h, and_true, if_true]
    exact storeGranule_dropBank x b n
  · rw [if_neg h, if_neg (h ·.2)]

theorem storeGranule_scrubBank (p : Nat → Bool) (x : Ctx) (b n : Nat) :
    storeGranule (scrubBank p x b) n = if n / 8192 = b ∧ p b = true then 0 else storeGranule x n := by
  unfold scrubBank
  by_cases h : p b = true
  · rw [if_pos h]
    simpa [h] using storeGranule_dropBank x b n
  · rw [if_neg h, if_neg (h ·.2)]

theorem gated_gateBank (p : Nat → Bool) (x : Ctx) {b : Nat} (hb : b < 8) (i : Nat) :
    (gateBank p x b).gated.getLsbD i = (x.gated.getLsbD i || (decide (i = b) && p b)) := by
  unfold gateBank
  by_cases h : p b = true
  · rw [if_pos h, h, Bool.and_true, ← getLsbD_bit hb]
    exact BitVec.getLsbD_or
  · rw [if_neg h, Bool.eq_false_iff.2 h, Bool.and_false, Bool.or_false]

theorem gated_foldl_gateBank (p : Nat → Bool) (l : List Nat) (hl : ∀ b ∈ l, b < 8) (x : Ctx) (i : Nat) :
    (l.foldl (gateBank p) x).gated.getLsbD i = (x.gated.getLsbD i || (decide (i ∈ l) && p i)) := by
  induction l generalizing x with
  | nil => simp
  | cons b l ih =>
    rw [List.foldl_cons, ih (fun c hc => hl c (List.mem_cons_of_mem _ hc)), gated_gateBank p x (hl b (List.mem_cons_self ..))]
    by_cases e : i = b
    · subst e; cases h : p i <;> simp
    · simp [e]

/-! ## settleBanks and gateRetained -/

/-- The banks that leave the footprint, held by no nest and without a RET bit (R37). -/
def leaves (x : Ctx) (b : Nat) : Bool := x.bankOn.getLsbD b && !(footprint x ||| nestFoot x).getLsbD b && !x.ret.getLsbD b

/-- The retained banks without a RET bit (R103). -/
def unretained (x : Ctx) (b : Nat) : Bool := !x.bankOn.getLsbD b && !x.gated.getLsbD b && !x.ret.getLsbD b

/-- What settleBanks does to bank b when want is the footprint to hold. -/
def settleBank (want : BitVec 8) (y : Ctx) (b : Nat) : Ctx :=
  if bitOf y.bankOn.toNat b && !bitOf want.toNat b then
    if bitOf y.ret.toNat b then y else { dropBank y b with gated := y.gated ||| BitVec.ofNat 8 (2 ^ b) }
  else y

theorem settleBank_eq {x y : Ctx} (hon : y.bankOn = x.bankOn) (hret : y.ret = x.ret) (b : Nat) :
    settleBank (footprint x ||| nestFoot x) y b = gateBank (leaves x) y b := by
  unfold settleBank gateBank
  simp only [bitOf_toNat, hon, hret]
  by_cases hl : leaves x b = true
  · rw [if_pos hl]
    simp only [leaves, Bool.and_eq_true, Bool.not_eq_true'] at hl
    obtain ⟨⟨hb, hw⟩, hr⟩ := hl
    simp only [hb, hw, hr, Bool.not_false, Bool.and_true, if_true, Bool.false_eq_true, if_false]
  · rw [if_neg hl]
    split
    next h =>
      split
      · rfl
      · exact absurd (by simp_all [leaves]) hl
    · rfl

theorem settleBanks_fold (x : Ctx) (l : List Nat) (y : Ctx) (hon : y.bankOn = x.bankOn) (hret : y.ret = x.ret) :
    l.foldl (settleBank (footprint x ||| nestFoot x)) y = l.foldl (gateBank (leaves x)) y := by
  induction l generalizing y with
  | nil => rfl
  | cons b l ih =>
    have hk := onlyBanks_gateBank (leaves x) y b
    rw [List.foldl_cons, List.foldl_cons, settleBank_eq hon hret]
    exact ih _ ((congrArg Ctx.bankOn hk).trans hon) ((congrArg Ctx.ret hk).trans hret)

theorem settleBanks_eq (x : Ctx) : settleBanks x =
    { (List.range 8).foldl (gateBank (leaves x)) x with
      bankOn := x.bankOn &&& (footprint x ||| nestFoot x), waking := footprint x &&& ~~~ x.bankOn } := by
  have hk := onlyBanks_foldl (onlyBanks_gateBank (leaves x)) (List.range 8) x
  have hf := settleBanks_fold x (List.range 8) x rfl rfl
  have hs : settleBanks x = (fun y : Ctx => { y with bankOn := y.bankOn &&& (footprint x ||| nestFoot x), waking := footprint y &&& ~~~ y.bankOn })
      ((List.range 8).foldl (settleBank (footprint x ||| nestFoot x)) x) := rfl
  rw [hs, hf]
  generalize (List.range 8).foldl (gateBank (leaves x)) x = y at hk
  rw [hk]
  rfl

/-- What gateRetained does to bank b. -/
def gateUnretained (y : Ctx) (b : Nat) : Ctx :=
  if (y.bankOn ||| y.gated) &&& BitVec.ofNat 8 (2 ^ b) = 0 ∧ y.ret &&& BitVec.ofNat 8 (2 ^ b) = 0 then
    { dropBank y b with gated := y.gated ||| BitVec.ofNat 8 (2 ^ b) }
  else y

theorem gateUnretained_eq {x y : Ctx} {b : Nat} (hb : b < 8) (hon : y.bankOn = x.bankOn) (hret : y.ret = x.ret)
    (hg : y.gated.getLsbD b = x.gated.getLsbD b) : gateUnretained y b = gateBank (unretained x) y b := by
  refine if_congr ?_ rfl rfl
  rw [and_bit_eq_zero _ hb, and_bit_eq_zero _ hb, BitVec.getLsbD_or, hon, hret, hg]
  simp [unretained]

theorem gateRetained_fold (x : Ctx) (l : List Nat) (hn : l.Nodup) (hl : ∀ b ∈ l, b < 8) (y : Ctx) (hon : y.bankOn = x.bankOn) (hret : y.ret = x.ret)
    (hg : ∀ b ∈ l, y.gated.getLsbD b = x.gated.getLsbD b) : l.foldl gateUnretained y = l.foldl (gateBank (unretained x)) y := by
  induction l generalizing y with
  | nil => rfl
  | cons b l ih =>
    have h8 := hl b (List.mem_cons_self ..)
    have hk := onlyBanks_gateBank (unretained x) y b
    rw [List.foldl_cons, List.foldl_cons, gateUnretained_eq h8 hon hret (hg b (List.mem_cons_self ..))]
    refine ih (List.nodup_cons.1 hn).2 (fun c hc => hl c (List.mem_cons_of_mem _ hc)) _ ((congrArg Ctx.bankOn hk).trans hon)
      ((congrArg Ctx.ret hk).trans hret) fun c hc => ?_
    have hne : c ≠ b := fun e => (List.nodup_cons.1 hn).1 (e ▸ hc)
    rw [gated_gateBank _ _ h8, hg c (List.mem_cons_of_mem _ hc), decide_eq_false hne, Bool.false_and, Bool.or_false]

theorem gateRetained_eq (x : Ctx) : gateRetained x = (List.range 8).foldl (gateBank (unretained x)) x :=
  gateRetained_fold x (List.range 8) List.nodup_range (fun _ h => List.mem_range.1 h) x rfl rfl fun _ _ => rfl

theorem ctxSeq_of_onlyBanks {x y : Ctx} (h : OnlyBanks x y) (sq : Seq) : ctxSeq y sq = ctxSeq x sq := by
  rw [h]; cases sq <;> rfl

theorem ctxSeq_settleBanks (x : Ctx) (sq : Seq) : ctxSeq (settleBanks x) sq = ctxSeq x sq := by
  rw [settleBanks_eq, ← ctxSeq_of_onlyBanks (onlyBanks_foldl (onlyBanks_gateBank (leaves x)) (List.range 8) x) sq]
  cases sq <;> rfl

theorem ctxSeq_gateRetained (x : Ctx) (sq : Seq) : ctxSeq (gateRetained x) sq = ctxSeq x sq := by
  rw [gateRetained_eq]
  exact ctxSeq_of_onlyBanks (onlyBanks_foldl (onlyBanks_gateBank (unretained x)) (List.range 8) x) sq

/-- R36, R37: what settleBanks does to bank b. -/
theorem settleBanks_bank (x : Ctx) {b : Nat} (hb : b < 8) :
    ((settleBanks x).bankOn.getLsbD b = true ↔ x.bankOn.getLsbD b = true ∧ (footprint x ||| nestFoot x).getLsbD b = true) ∧
    ((settleBanks x).waking.getLsbD b = true ↔ (footprint x).getLsbD b = true ∧ ¬ x.bankOn.getLsbD b = true) ∧
    ((settleBanks x).gated.getLsbD b = true ↔ x.gated.getLsbD b = true ∨ leaves x b = true) ∧
    ∀ n, n / 8192 = b → storeGranule (settleBanks x) n = if leaves x b = true then 0 else storeGranule x n := by
  have hmem : b ∈ List.range 8 := List.mem_range.2 hb
  rw [settleBanks_eq]
  refine ⟨by simp, by simp [hb], ?_, fun n hn => ?_⟩
  · show ((List.range 8).foldl (gateBank (leaves x)) x).gated.getLsbD b = true ↔ _
    rw [gated_foldl_gateBank _ _ (fun _ h => List.mem_range.1 h)]
    simp [hb]
  · subst hn
    exact (storeGranule_foldl (storeGranule_gateBank (leaves x)) (List.range 8) x n).trans (by simp [hb])

/-- R103: what gateRetained does to bank b. -/
theorem gateRetained_bank (x : Ctx) {b : Nat} (hb : b < 8) :
    (gateRetained x).bankOn = x.bankOn ∧ (gateRetained x).waking = x.waking ∧
    ((gateRetained x).gated.getLsbD b = true ↔ x.gated.getLsbD b = true ∨ unretained x b = true) ∧
    ∀ n, n / 8192 = b → storeGranule (gateRetained x) n = if unretained x b = true then 0 else storeGranule x n := by
  have hk := onlyBanks_foldl (onlyBanks_gateBank (unretained x)) (List.range 8) x
  rw [gateRetained_eq]
  refine ⟨(congrArg Ctx.bankOn hk :), (congrArg Ctx.waking hk :), ?_, fun n hn => ?_⟩
  · rw [gated_foldl_gateBank _ _ (fun _ h => List.mem_range.1 h)]
    simp [hb]
  · subst hn
    exact (storeGranule_foldl (storeGranule_gateBank (unretained x)) (List.range 8) x n).trans (by simp [hb])

/-! ## BANK_WAKE -/

/-- The banks that wait to wake from the gated state. -/
def scrubbed (x : Ctx) (b : Nat) : Bool := x.waking.getLsbD b && x.gated.getLsbD b

theorem banksOn_fold (x : Ctx) (l : List Nat) (y : Ctx) (hw : y.waking = x.waking) (hg : y.gated = x.gated) :
    l.foldl (fun y b => if bitOf (y.waking &&& y.gated).toNat b then dropBank y b else y) y = l.foldl (scrubBank (scrubbed x)) y ∧
      (l.foldl (scrubBank (scrubbed x)) y).gated = x.gated := by
  induction l generalizing y with
  | nil => exact ⟨rfl, hg⟩
  | cons b l ih =>
    have hk : (scrubBank (scrubbed x) y b).waking = x.waking ∧ (scrubBank (scrubbed x) y b).gated = x.gated := by
      unfold scrubBank
      split <;> exact ⟨hw, hg⟩
    rw [List.foldl_cons, List.foldl_cons, hw, hg, bitOf_toNat, BitVec.getLsbD_and]
    exact ih _ hk.1 hk.2

theorem banksOn_eq (x : Ctx) : banksOn x =
    { (List.range 8).foldl (scrubBank (scrubbed x)) x with bankOn := x.bankOn ||| x.waking, gated := x.gated &&& ~~~ x.waking, waking := 0 } := by
  have hk := onlyBanks_foldl (onlyBanks_scrubBank (scrubbed x)) (List.range 8) x
  obtain ⟨hf, hg⟩ := banksOn_fold x (List.range 8) x rfl rfl
  unfold banksOn
  rw [hf]
  generalize (List.range 8).foldl (scrubBank (scrubbed x)) x = y at hk hg
  rw [hk, hg]

/-- R36, R37: what waking does to bank b. -/
theorem banksOn_bank (x : Ctx) {b : Nat} (hb : b < 8) :
    (banksOn x).waking = 0 ∧ ((banksOn x).bankOn.getLsbD b = true ↔ x.bankOn.getLsbD b = true ∨ x.waking.getLsbD b = true) ∧
    ((banksOn x).gated.getLsbD b = true ↔ x.gated.getLsbD b = true ∧ ¬ x.waking.getLsbD b = true) ∧ (banksOn x).seqX = x.seqX ∧
    ∀ n, n / 8192 = b → storeGranule (banksOn x) n = if x.waking.getLsbD b = true ∧ x.gated.getLsbD b = true then 0 else storeGranule x n := by
  have hk := onlyBanks_foldl (onlyBanks_scrubBank (scrubbed x)) (List.range 8) x
  rw [banksOn_eq]
  refine ⟨rfl, by simp, by simp [hb], (congrArg Ctx.seqX hk :), fun n hn => ?_⟩
  subst hn
  exact (storeGranule_foldl (storeGranule_scrubBank (scrubbed x)) (List.range 8) x n).trans
    (by simp [hb, scrubbed])

/-! ## MTS -/

theorem bitOf_63 (v : Word) : bitOf v.toNat 63 = v.msb := by
  rw [bitOf_toNat, BitVec.msb_eq_getLsbD_last]

theorem ctxSeq_of_seqs {x y : Ctx} (hl : y.seqL = x.seqL) (hx : y.seqX = x.seqX) (hs : y.seqS = x.seqS) (sq : Seq) : ctxSeq y sq = ctxSeq x sq := by
  cases sq
  exacts [hl, hx, hs]

theorem clearOor_of_some {now : Nat} {x : Ctx} {l : Nat × Word} (h : (x.oor.latest.filter fun l => l.1 == now) = some l) :
    clearOor now x = { x with rsoor := l.2, oor := { x.oor with heldAt := now } } := by
  obtain ⟨hl, he⟩ := Option.filter_eq_some_iff.1 h
  have hc : l.1 = now := beq_iff_eq.1 he
  simp only [clearOor, hl, if_pos hc]

theorem clearOor_of_none {now : Nat} {x : Ctx} (h : (x.oor.latest.filter fun l => l.1 == now) = none) :
    clearOor now x = { x with rsoor := x.rsoor &&& 0x7FFFFFFFFFFFFFFF } := by
  unfold clearOor
  cases hl : x.oor.latest with
  | none => rfl
  | some l =>
    have hne : l.1 ≠ now := by simpa [hl, Option.filter] using h
    simp only [if_neg hne]

theorem ctxSeq_clearOor (now : Nat) (x : Ctx) (sq : Seq) : ctxSeq (clearOor now x) sq = ctxSeq x sq := by
  unfold clearOor
  split
  · split <;> exact ctxSeq_of_seqs rfl rfl rfl sq
  · exact ctxSeq_of_seqs rfl rfl rfl sq

/-- MTS changes neither a sequencer's clock nor what an earlier MTS asks. -/
def KeepsTime (x y : Ctx) (sq : Seq) : Prop := (ctxSeq y sq).clock = (ctxSeq x sq).clock ∧ (ctxSeq y sq).sysReady = (ctxSeq x sq).sysReady

theorem keepsTime_of_ctxSeq {x y : Ctx} {sq : Seq} (h : ctxSeq y sq = ctxSeq x sq) : KeepsTime x y sq := ⟨by rw [h], by rw [h]⟩

theorem keepsTime_setCtxSeq {x : Ctx} {sq : Seq} {q : SeqState} (hc : q.clock = (ctxSeq x sq).clock) (hr : q.sysReady = (ctxSeq x sq).sysReady) :
    KeepsTime x (setCtxSeq x sq q) sq := by
  rw [KeepsTime, ctxSeq_setCtxSeq]
  exact ⟨hc, hr⟩

/-- The executing sequencer once it has asked the users of system register n to wait two cycles (R82). -/
def usesLater (s : State) (n : Nat) (u : SeqState) : SeqState :=
  { u with sysReady := tput (ctxSeq (sysContext s) s.cur.2).sysReady n ((ctxSeq (sysContext s) s.cur.2).clock + 2) }

/-- MTS of a register that the sequencer may write. -/
theorem mts_writes (a : Reg) (s : State) {n : Nat} {r : SysReg} (hn : n < 4096) (hr : sysReg n = some r) (hq : writableBy s.cur.2 r = true)
    {y : Ctx} (hy : sysWrite s.cycle (sysContext s) s.cur.2 (rd s a) r = y) (ht : KeepsTime (sysContext s) y s.cur.2) :
    Completes (.mts a (BitVec.ofNat 12 n)) s (SeqFrom s (setCtxSeq y s.cur.2 (usesLater s n (ctxSeq y s.cur.2))) 1 1 []) := by
  obtain ⟨hc, hs⟩ := ht
  refine ⟨finish 1 1 (setCurSeq (setCurCtx s y) (usesLater s n (ctxSeq y s.cur.2))), ?_, ?_⟩
  · show execMts a (BitVec.ofNat 12 n) s = _
    simp only [execMts, toNat_sysRegNumber hn, hr, hq, hy, curSeq_setCurCtx, usesLater, ← hc, ← hs]
    rfl
  · rw [finish_setCurSeq, setCurCtx_setCurCtx, curCtx_setCurCtx, setCurCtx_cur]
    refine ⟨onlyContext_setCurCtx _ _, ?_, ?_⟩
    · rw [curCtx_setCurCtx, restOfCtx_wdog, restOfCtx_setCtxSeq, restOfCtx_setCtxSeq]
    · rw [curSeq_setCurCtx, ctxSeq_setCtxSeq, ctxSeq_wdog (setCtxSeq ..), ctxSeq_setCtxSeq]
      exact seqDone_plain _ 1 1

theorem mts_illegal (a : Reg) (s : State) {n : Nat} (hn : n < 4096) (hr : ∀ r, sysReg n = some r → writableBy s.cur.2 r = false) :
    Completes (.mts a (BitVec.ofNat 12 n)) s (FaultsAt s 0x10 0) := by
  have h : exec (.mts a (BitVec.ofNat 12 n)) s = illegal s := by
    show execMts a (BitVec.ofNat 12 n) s = _
    simp only [execMts, toNat_sysRegNumber hn]
    cases h : sysReg n with
    | none => rfl
    | some r => simp only [hr r h]; rfl
  unfold Completes
  rw [h]
  exact fault_faultsAt causeIllegal 0 s

theorem not_writableBy {n : Nat} {sq : Seq} (hl : n ∉ [8, 9, 10, 11, 0x110, 0x111, 0x112, 0x113, 0x118, 0x119, 0x11A, 0x11B])
    (hx : ¬ (sq = .X ∧ 0x10 ≤ n ∧ n ≤ 0x14)) (r : SysReg) (hr : sysReg n = some r) : writableBy sq r = false := by
  simp only [List.mem_cons, List.not_mem_nil, or_false, not_or] at hl
  by_cases hview : 0x10 ≤ n ∧ n ≤ 0x14
  · have hne : sq ≠ .X := fun e => hx ⟨e, hview⟩
    obtain ⟨h1, h2⟩ := hview
    interval_cases n <;> cases hr <;> exact beq_eq_false_iff_ne.2 hne
  by_cases hq : 0x20 ≤ n ∧ n < 0x28
  · obtain ⟨m, rfl⟩ := Nat.exists_eq_add_of_le hq.1
    cases (sysReg_qstq (by omega)).symm.trans hr
    rfl
  by_cases hw : 0x28 ≤ n ∧ n < 0x2C
  · obtain ⟨m, rfl⟩ := Nat.exists_eq_add_of_le hw.1
    cases (sysReg_qstw (by omega)).symm.trans hr
    rfl
  by_cases hs : 0x40 ≤ n ∧ n < 0x50
  · obtain ⟨m, rfl⟩ := Nat.exists_eq_add_of_le hs.1
    cases (sysReg_hslot (by omega)).symm.trans hr
    rfl
  by_cases hro : n ∈ [0, 1, 2, 3, 0x15, 0x30, 0x100, 0x101]
  · simp only [List.mem_cons, List.not_mem_nil, or_false] at hro
    rcases hro with rfl | rfl | rfl | rfl | rfl | rfl | rfl | rfl <;> cases hr <;> rfl
  · simp only [List.mem_cons, List.not_mem_nil, or_false, not_or] at hro
    have hn : sysReg n = none := sysReg_none (by simp only [List.mem_cons, List.not_mem_nil, or_false, not_or]; omega) (by omega) (by omega) hs
    exact nomatch hn.symm.trans hr

/-! ## The statement -/

theorem epcMask_eq (sq : Seq) : epcMask sq = if sq = .X then 0xFFFC#16 else 0x3FFC#16 := by
  cases sq <;> rfl

theorem tfind_delayed {t : Table Nat} {r at' : Nat} (n : Nat) (h : tfind t r = some at') :
    tfind (t.map fun (r, a) => (r, a + n)) r = some (at' + n) :=
  (tfind_map (· + n) t r).trans (by rw [h]; rfl)

/-- Settles O7: mts_writes for each register that MTS may write, mts_illegal for every other number; then the banks one by one. -/
theorem systemRegisterWrites : Obligations.SystemRegisterWrites := by
  refine ⟨fun a s => ?_, fun x b hb => ?_, fun s c hw => ?_, fun s c b hb hw => ?_⟩
  · intro sq x q v view later Writes WritesSeq
    have all (n : Nat) (r : SysReg) (hn : n < 4096) (hr : sysReg n = some r) (hq : ∀ sq, writableBy sq r = true) (u : SeqState)
        (hu : sysWrite s.cycle x sq v r = setCtxSeq x sq u) (hc : u.clock = q.clock) (hs : u.sysReady = q.sysReady) : WritesSeq n u :=
      mts_writes a s hn hr (hq sq) hu (keepsTime_setCtxSeq hc hs)
    have xOnly (n : Nat) (r : SysReg) (y : Ctx) (hsq : sq = .X) (hn : n < 4096) (hr : sysReg n = some r) (hq : writableBy .X r = true)
        (hy : sysWrite s.cycle x sq v r = y) (hk : ctxSeq y sq = q) : Writes n y :=
      mts_writes a s hn hr ((congrArg (writableBy · r) hsq).trans hq) hy (keepsTime_of_ctxSeq hk)
    refine ⟨fun n h => all _ (.lc n) (by omega) (sysReg_lc h) (fun _ => rfl) _ rfl rfl rfl, fun h => ⟨?_, ?_, ?_, ?_, ?_⟩, ⟨?_, ?_⟩,
      all _ (.ecause 0) (by omega) rfl (fun _ => rfl) _ rfl rfl rfl, all _ (.ecause 1) (by omega) rfl (fun _ => rfl) _ rfl rfl rfl,
      all _ (.eaddr 0) (by omega) rfl (fun _ => rfl) _ rfl rfl rfl, all _ (.eaddr 1) (by omega) rfl (fun _ => rfl) _ rfl rfl rfl,
      all _ (.escr 0) (by omega) rfl (fun _ => rfl) _ rfl rfl rfl, all _ (.escr 1) (by omega) rfl (fun _ => rfl) _ rfl rfl rfl, fun n hn hl hx => ?_⟩
    · exact xOnly _ .vview _ h (by omega) rfl rfl rfl ((ctxSeq_settleBanks ..).trans (ctxSeq_of_seqs rfl rfl rfl sq))
    · exact xOnly _ .tview _ h (by omega) rfl rfl rfl ((ctxSeq_settleBanks ..).trans (ctxSeq_of_seqs rfl rfl rfl sq))
    · exact xOnly _ .aview _ h (by omega) rfl rfl rfl ((ctxSeq_settleBanks ..).trans (ctxSeq_of_seqs rfl rfl rfl sq))
    · exact xOnly _ .bankpwr _ h (by omega) rfl rfl rfl ((ctxSeq_gateRetained ..).trans (ctxSeq_of_seqs rfl rfl rfl sq))
    · have hy : sysWrite s.cycle x sq v .rsoor = if v.msb then clearOor s.cycle x else x := by simp only [sysWrite, bitOf_63]
      have hk : ctxSeq (if v.msb then clearOor s.cycle x else x) sq = q := by
        split
        · exact ctxSeq_clearOor ..
        · rfl
      have hw := xOnly 0x014 .rsoor _ h (by omega) rfl rfl hy hk
      cases hf : x.oor.latest.filter fun l => l.1 == s.cycle with
      | some l =>
        rw [clearOor_of_some hf] at hw
        exact hw
      | none =>
        rw [clearOor_of_none hf] at hw
        exact hw
    · exact all _ (.epc 0) (by omega) rfl (fun _ => rfl) _ (by rw [← epcMask_eq]; rfl) rfl rfl
    · exact all _ (.epc 1) (by omega) rfl (fun _ => rfl) _ (by rw [← epcMask_eq]; rfl) rfl rfl
    · exact mts_illegal a s hn (not_writableBy hl hx)
  · obtain ⟨hon, hwake, hgate, hstore⟩ := settleBanks_bank x hb
    obtain ⟨kon, kwake, kgate, kstore⟩ := gateRetained_bank x hb
    simp only [leaves, unretained, Bool.and_eq_true, Bool.not_eq_true', and_assoc] at hgate hstore kgate kstore
    simp only [Bool.not_eq_true]
    exact ⟨hon, by simpa using hwake, hgate, hstore, kon, kwake, kgate, kstore⟩
  · refine ⟨s, ?_, rfl⟩
    show execBankWake c s = _
    simp only [execBankWake, hw, if_true]
  · refine ⟨setCtx s c (wakeBanks (getCtx s c)), ?_, ?_⟩
    · show execBankWake c s = _
      simp only [execBankWake, if_neg hw]
    · obtain ⟨hz, hon, hg, hseq, hstore⟩ := banksOn_bank (getCtx s c) hb
      have hn : wakeCycles (getCtx s c) = if ((getCtx s c).waking &&& (getCtx s c).gated) = 0 then 40 else 168 := if_neg hw
      rw [getCtx_setCtx]
      refine ⟨rfl, fun _ => rfl, hz, hon, hg, ⟨?_, fun r at' h => ?_⟩, hstore⟩
      · rw [← hn, ← hseq]; rfl
      · rw [← hn]
        refine tfind_delayed _ ?_
        rw [hseq]; exact h

end Sys2Proof.Machine

/-! SUPPORT. Hardware loops (R94 to R96): the records that LOOP leaves, bodies that end inside an instruction, and the end-of-body test. -/

namespace Sys2Proof.Machine

/-! ## Counting -/

theorem countP_lt_countP {α : Type} {p q : α → Bool} {l : List α} (h : ∀ x ∈ l, p x = true → q x = true) {a : α} (ha : a ∈ l) (hp : p a = false)
    (hq : q a = true) : l.countP p < l.countP q := by
  induction l with
  | nil => exact nomatch ha
  | cons b l ih =>
    have hle : l.countP p ≤ l.countP q := List.countP_mono_left fun x hx => h x (List.mem_cons_of_mem _ hx)
    rcases List.mem_cons.1 ha with rfl | hm
    · rw [List.countP_cons_of_neg (by simp [hp]), List.countP_cons_of_pos hq]
      omega
    · have hlt := ih (fun x hx => h x (List.mem_cons_of_mem _ hx)) hm
      by_cases hb : p b = true
      · rw [List.countP_cons_of_pos hb, List.countP_cons_of_pos (h b (List.mem_cons_self ..) hb)]
        omega
      · rw [List.countP_cons_of_neg hb]
        exact hlt.trans_le ((List.sublist_cons_self b l).countP_le)

theorem countP_range_lt {p : Nat → Bool} {n a : Nat} (ha : a < n) (hp : p a = false) : (List.range n).countP p < n := by
  have h := countP_lt_countP (p := p) (q := fun _ => true) (l := List.range n) (fun _ _ _ => rfl) (List.mem_range.2 ha) hp rfl
  simpa using h

/-! ## The records after a LOOP (R94) -/

theorem tget_foldl_tput {α : Type} (d : α) (c : Nat → Bool) (f : Nat → α) (l : List Nat) (t : Table α) (m : Nat) :
    tget d (l.foldl (fun t n => if c n then tput t n (f n) else t) t) m = if m ∈ l ∧ c m = true then f m else tget d t m := by
  induction l generalizing t with
  | nil => simp
  | cons n l ih =>
    rw [List.foldl_cons, ih]
    by_cases hm : m = n
    · subst hm
      cases hc : c m <;> simp
    · have : tget d (if c n then tput t n (f n) else t) m = tget d t m := by
        split
        · exact tget_tput_other _ _ _ hm
        · rfl
      simp [hm, this]

/-- The new record, younger than the active ones. -/
theorem startRecord_self (lc : Table LoopRec) (i : Nat) (r : LoopRec) :
    tget {} (startRecord lc i r) i = { r with age := (List.range 4).countP fun m => m != i && (tget {} lc m).active } := by
  rw [startRecord, tget_tput_same]

theorem startRecord_other (lc : Table LoopRec) {i m : Nat} (r : LoopRec) (h4 : m < 4) (hm : m ≠ i) :
    tget {} (startRecord lc i r) m =
      if (tget {} lc m).active = true then { tget {} lc m with age := olderRecords lc i (tget {} lc m) } else tget {} lc m := by
  have hf := tget_foldl_tput {} (fun n => n != i && (tget {} lc n).active) (fun n => { tget {} lc n with age := olderRecords lc i (tget {} lc n) })
    (List.range 4) lc m
  rw [startRecord, tget_tput_other _ _ _ hm]
  refine hf.trans ?_
  simp [h4, hm]

/-- An active record counts fewer older ones than there are active ones. -/
theorem olderRecords_lt (lc : Table LoopRec) {i m : Nat} (h4 : m < 4) (hm : m ≠ i) (ha : (tget {} lc m).active = true) :
    olderRecords lc i (tget {} lc m) < (List.range 4).countP fun m => m != i && (tget {} lc m).active := by
  refine countP_lt_countP (fun k _ hk => ?_) (List.mem_range.2 h4) (by simp) (Bool.and_eq_true_iff.2 ⟨bne_iff_ne.2 hm, ha⟩)
  simp only [Bool.and_eq_true] at hk ⊢
  exact hk.1

/-- An older record counts fewer older ones. -/
theorem olderRecords_lt_olderRecords (lc : Table LoopRec) {i m : Nat} {r : LoopRec} (h4 : m < 4) (hm : m ≠ i) (ha : (tget {} lc m).active = true)
    (hage : (tget {} lc m).age < r.age) : olderRecords lc i (tget {} lc m) < olderRecords lc i r := by
  refine countP_lt_countP (fun k _ hk => ?_) (List.mem_range.2 h4) (by simp)
    (Bool.and_eq_true_iff.2 ⟨Bool.and_eq_true_iff.2 ⟨bne_iff_ne.2 hm, ha⟩, decide_eq_true hage⟩)
  simp only [Bool.and_eq_true, decide_eq_true_eq] at hk ⊢
  exact ⟨hk.1, hk.2.trans hage⟩

/-! ## Bodies that end inside an instruction (R95) -/

theorem repeat_succ' {α : Type} (f : α → α) (k : Nat) (a : α) : Nat.repeat f (k + 1) a = Nat.repeat f k (f a) := by
  induction k with
  | zero => rfl
  | succ k ih => exact congrArg f ih

theorem lt_nextStart (q : SeqState) (n : Nat) : n < nextStart q n := by
  unfold nextStart
  split <;> omega

theorem le_repeat_nextStart (q : SeqState) (k n : Nat) : n ≤ Nat.repeat (nextStart q) k n := by
  induction k with
  | zero => exact Nat.le_refl n
  | succ k ih => exact ih.trans (lt_nextStart q _).le

theorem splitsPair_iff (q : SeqState) (last fuel n : Nat) (hf : last + 1 ≤ n + fuel) :
    splitsPair q last fuel n = true ↔ ∃ k, Nat.repeat (nextStart q) k n = last ∧ bitOf (parcelAt q last).toNat 31 = true := by
  induction fuel generalizing n with
  | zero =>
    refine iff_of_false Bool.false_ne_true fun ⟨k, hk, _⟩ => ?_
    have := le_repeat_nextStart q k n
    omega
  | succ fuel ih =>
    by_cases hn : last < n
    · refine iff_of_false (by simp [splitsPair, hn]) fun ⟨k, hk, _⟩ => ?_
      have := le_repeat_nextStart q k n
      omega
    · have hstep : splitsPair q last (fuel + 1) n = (bitOf (parcelAt q n).toNat 31 && n == last || splitsPair q last fuel (nextStart q n)) := by
        rw [splitsPair, if_neg hn, nextStart]
        cases bitOf (parcelAt q n).toNat 31
        · exact (Bool.false_or _).symm
        · exact congrArg (· || splitsPair q last fuel (n + 2)) (Bool.true_and _).symm
      rw [hstep, Bool.or_eq_true, ih (nextStart q n) (by have := lt_nextStart q n; omega)]
      constructor
      · rintro (h | ⟨k, hk, hb⟩)
        · obtain ⟨hb, hl⟩ := Bool.and_eq_true_iff.1 h
          obtain rfl := beq_iff_eq.1 hl
          exact ⟨0, rfl, hb⟩
        · exact ⟨k + 1, (repeat_succ' ..).trans hk, hb⟩
      · rintro ⟨k, hk, hb⟩
        cases k with
        | zero =>
          obtain rfl : n = last := hk
          exact .inl (by simp [hb])
        | succ k => exact .inr ⟨k, (repeat_succ' ..).symm.trans hk, hb⟩

theorem splitsPair_iff_bodySplits (q : SeqState) (p : Nat) (body : Nat) :
    splitsPair q (p + body) body (p + 1) = true ↔ BodySplits q p (p + body) :=
  splitsPair_iff q (p + body) body (p + 1) (by omega)

/-! ## The end-of-body test (R96) -/

/-- Record n is active at a level and its body ends at an address. -/
def EndsAt (lc : Table LoopRec) (level : BitVec 2) (last n : Nat) : Bool :=
  (tget {} lc n).active && (tget {} lc n).level == level && (tget {} lc n).stop.toNat == last

/-- A record among l whose body ends and that no other such record of l is younger than, none where there is none. -/
def IsYoungest (lc : Table LoopRec) (level : BitVec 2) (last : Nat) (l : List Nat) : Option Nat → Prop
  | none => ∀ k ∈ l, EndsAt lc level last k = false
  | some m => m ∈ l ∧ EndsAt lc level last m = true ∧ ∀ k ∈ l, EndsAt lc level last k = true → (tget {} lc k).age ≤ (tget {} lc m).age

/-- The younger of the best record so far and record n. -/
def younger (lc : Table LoopRec) (level : BitVec 2) (last : Nat) (best : Option Nat) (n : Nat) : Option Nat :=
  if EndsAt lc level last n then
    match best with
    | none => some n
    | some m => if (tget {} lc m).age < (tget {} lc n).age then some n else some m
  else best

theorem isYoungest_younger {lc : Table LoopRec} {level : BitVec 2} {last : Nat} {l : List Nat} {best : Option Nat}
    (h : IsYoungest lc level last l best) (n : Nat) : IsYoungest lc level last (l ++ [n]) (younger lc level last best n) := by
  unfold younger
  by_cases hn : EndsAt lc level last n = true
  · rw [if_pos hn]
    cases best with
    | none =>
      refine ⟨by simp, hn, fun k hk he => ?_⟩
      rcases List.mem_append.1 hk with hk | hk
      · exact absurd he (by simp [h k hk])
      · rw [List.mem_singleton.1 hk]
    | some m =>
      obtain ⟨hm, hem, hmax⟩ := h
      by_cases hage : (tget {} lc m).age < (tget {} lc n).age
      · simp only [if_pos hage]
        refine ⟨by simp, hn, fun k hk he => ?_⟩
        rcases List.mem_append.1 hk with hk | hk
        · exact (hmax k hk he).trans hage.le
        · rw [List.mem_singleton.1 hk]
      · simp only [if_neg hage]
        refine ⟨List.mem_append_left _ hm, hem, fun k hk he => ?_⟩
        rcases List.mem_append.1 hk with hk | hk
        · exact hmax k hk he
        · rw [List.mem_singleton.1 hk]
          exact Nat.le_of_not_lt hage
  · rw [if_neg hn]
    cases best with
    | none =>
      intro k hk
      rcases List.mem_append.1 hk with hk | hk
      · exact h k hk
      · rw [List.mem_singleton.1 hk]
        exact Bool.eq_false_iff.2 hn
    | some m =>
      obtain ⟨hm, hem, hmax⟩ := h
      refine ⟨List.mem_append_left _ hm, hem, fun k hk he => ?_⟩
      rcases List.mem_append.1 hk with hk | hk
      · exact hmax k hk he
      · rw [List.mem_singleton.1 hk] at he
        exact absurd he hn

theorem isYoungest_foldl {lc : Table LoopRec} {level : BitVec 2} {last : Nat} (l : List Nat) {done : List Nat} {best : Option Nat}
    (h : IsYoungest lc level last done best) : IsYoungest lc level last (done ++ l) (l.foldl (younger lc level last) best) := by
  induction l generalizing done best with
  | nil => rwa [List.append_nil]
  | cons n l ih =>
    have h' := ih (isYoungest_younger h n)
    rwa [List.append_assoc, List.singleton_append] at h'

theorem isYoungest_youngestAt (lc : Table LoopRec) (level : BitVec 2) (last : Nat) :
    IsYoungest lc level last (List.range 4) (youngestAt lc level last) :=
  isYoungest_foldl (List.range 4) (done := []) (best := none) fun _ h => nomatch h

theorem youngestAt_eq_none {lc : Table LoopRec} {level : BitVec 2} {last : Nat} (h : ∀ n, n < 4 → EndsAt lc level last n = false) :
    youngestAt lc level last = none := by
  have hy := isYoungest_youngestAt lc level last
  cases hb : youngestAt lc level last with
  | none => rfl
  | some m =>
    rw [hb] at hy
    obtain ⟨hm, he, _⟩ := hy
    exact absurd he (by simp [h m (List.mem_range.1 hm)])

theorem youngestAt_eq_some {lc : Table LoopRec} {level : BitVec 2} {last n : Nat} (h4 : n < 4) (hn : EndsAt lc level last n = true)
    (hy : ∀ m, m < 4 → EndsAt lc level last m = true → m ≠ n → (tget {} lc m).age < (tget {} lc n).age) : youngestAt lc level last = some n := by
  have h := isYoungest_youngestAt lc level last
  cases hb : youngestAt lc level last with
  | none =>
    rw [hb] at h
    exact absurd hn (by simp [h n (List.mem_range.2 h4)])
  | some m =>
    rw [hb] at h
    obtain ⟨hm, he, hmax⟩ := h
    by_cases hmn : m = n
    · rw [hmn]
    · have := hy m (List.mem_range.1 hm) he hmn
      have := hmax n (List.mem_range.2 h4) hn
      omega

/-- The loops whose body ends here. -/
def endingLoops (lc : Table LoopRec) (level : BitVec 2) (last : Nat) : Nat := (List.range 4).countP (EndsAt lc level last)

theorem endingLoops_ended {lc : Table LoopRec} {level : BitVec 2} {last n : Nat} (h4 : n < 4) (hn : EndsAt lc level last n = true) (r : LoopRec) :
    endingLoops (tput lc n { r with count := 0, active := false }) level last < endingLoops lc level last := by
  refine countP_lt_countP (fun k _ hk => ?_) (List.mem_range.2 h4) ?_ hn
  · by_cases e : k = n
    · rw [e]; exact hn
    · simpa [EndsAt, tget_tput_other _ _ _ e] using hk
  · simp [EndsAt]

/-- Once every ending loop can be taken, more turns of the test change nothing. -/
theorem endOfBody_succ (level : BitVec 2) (last fuel : Nat) (lc : Table LoopRec) (h : endingLoops lc level last ≤ fuel) :
    endOfBody lc level last (fuel + 1) = endOfBody lc level last fuel := by
  induction fuel generalizing lc with
  | zero =>
    have hn : youngestAt lc level last = none := youngestAt_eq_none fun n hn =>
      Bool.eq_false_iff.2 fun he => absurd h (by have := List.countP_pos_iff.2 ⟨n, List.mem_range.2 hn, he⟩; unfold endingLoops; omega)
    simp only [endOfBody, hn]
  | succ fuel ih =>
    have hy := isYoungest_youngestAt lc level last
    rw [endOfBody, endOfBody]
    cases hb : youngestAt lc level last with
    | none => rfl
    | some i =>
      rw [hb] at hy
      obtain ⟨hi, he, _⟩ := hy
      dsimp only
      split
      · rfl
      · have := endingLoops_ended (List.mem_range.1 hi) he (tget {} lc i)
        exact ih _ (by omega)

theorem fallThrough_none {q : SeqState} {p len : Nat} (h : youngestAt q.lc q.tlevel (p + 4 * len - 4) = none) :
    fallThrough q p len = { q with pc := BitVec.ofNat 32 (p + 4 * len) } := by
  unfold fallThrough
  simp only [endOfBody, h]
  rfl

/-- The body is run again. -/
theorem fallThrough_again {q : SeqState} {p len n : Nat} (h : youngestAt q.lc q.tlevel (p + 4 * len - 4) = some n)
    (hc : 2 ≤ (tget {} q.lc n).count.toNat) : fallThrough q p len =
      { q with lc := tput q.lc n { tget {} q.lc n with count := (tget {} q.lc n).count - 1 }, pc := BitVec.ofNat 32 (tget {} q.lc n).start.toNat } := by
  unfold fallThrough
  simp only [endOfBody, h, if_pos hc]
  rfl

/-- A turn of the test that ends loop i. -/
theorem endOfBody_ends {lc : Table LoopRec} {level : BitVec 2} {last i : Nat} (h : youngestAt lc level last = some i)
    (hc : (tget {} lc i).count.toNat < 2) (fuel : Nat) : endOfBody lc level last (fuel + 1) =
      endOfBody (tput lc i { tget {} lc i with count := 0, active := false }) level last fuel := by
  rw [endOfBody, h]
  exact if_neg (Nat.not_le.2 hc)

/-- The loop ends, and the test goes on with the loops around it. -/
theorem endOfBody_goesOn {lc : Table LoopRec} {level : BitVec 2} {last i : Nat} (h4 : i < 4) (he : EndsAt lc level last i = true)
    (h : youngestAt lc level last = some i) (hc : (tget {} lc i).count.toNat < 2) : endOfBody lc level last 4 =
      endOfBody (tput lc i { tget {} lc i with count := 0, active := false }) level last 4 := by
  have hlt := endingLoops_ended h4 he (tget {} lc i)
  have hle : endingLoops lc level last ≤ 4 := List.countP_le_length
  exact (endOfBody_ends h hc 3).trans (endOfBody_succ level last 3 _ (Nat.le_of_lt_succ (hlt.trans_le hle))).symm

theorem fallThrough_ends {q : SeqState} {p len n : Nat} (h4 : n < 4) (he : EndsAt q.lc q.tlevel (p + 4 * len - 4) n = true)
    (h : youngestAt q.lc q.tlevel (p + 4 * len - 4) = some n) (hc : (tget {} q.lc n).count.toNat < 2) : fallThrough q p len =
      fallThrough { q with lc := tput q.lc n { tget {} q.lc n with count := 0, active := false } } p len := by
  unfold fallThrough
  dsimp only
  rw [endOfBody_goesOn h4 he h hc]

/-! ## LOOP and LOOPI (R95) -/

/-- The record with which a loop of n turns and body starts. -/
def newRecord (q : SeqState) (body : BitVec 10) (n : Nat) : LoopRec :=
  { count := BitVec.ofNat 32 n, active := true, start := BitVec.ofNat 16 (q.pc.toNat + 4),
    stop := BitVec.ofNat 16 (4 * (q.pc.toNat / 4 + body.toNat)), level := q.tlevel, age := 0 }

theorem opLoop_illegal {i : BitVec 2} {n : Nat} {body : BitVec 10} {s : State}
    (h : body = 0 ∨ storeParcels s.cur.2 ≤ (curSeq s).pc.toNat / 4 + body.toNat ∨
      BodySplits (curSeq s) ((curSeq s).pc.toNat / 4) ((curSeq s).pc.toNat / 4 + body.toNat)) : opLoop i n body s = illegal s := by
  rw [← splitsPair_iff_bodySplits] at h
  exact if_pos h

theorem opLoop_legal {i : BitVec 2} {n : Nat} {body : BitVec 10} {s : State} (hb : body ≠ 0)
    (hl : (curSeq s).pc.toNat / 4 + body.toNat < storeParcels s.cur.2)
    (hs : ¬ BodySplits (curSeq s) ((curSeq s).pc.toNat / 4) ((curSeq s).pc.toNat / 4 + body.toNat)) : opLoop i n body s =
      if n = 0 then transfer ((4 * ((curSeq s).pc.toNat / 4 + body.toNat) + 4 : Nat) : Int) 3 s s
      else .next (jumpTo ((curSeq s).pc.toNat + 4) 1
        (setCurSeq s { curSeq s with lc := startRecord (curSeq s).lc i.toNat (newRecord (curSeq s) body n) })) := by
  rw [← splitsPair_iff_bodySplits] at hs
  exact if_neg fun h => h.elim hb fun h => h.elim hl.not_ge hs

theorem jumpTo_setCurSeq (s : State) (q : SeqState) (a n : Nat) :
    jumpTo a n (setCurSeq s q) = setCurCtx s { setCtxSeq (curCtx s) s.cur.2 (issued { q with pc := BitVec.ofNat 32 a } n) with wdog := 0 } := by
  rw [jumpTo_eq, curCtx_setCurSeq, curSeq_setCurSeq, setCurSeq_cur, setCtxSeq_setCtxSeq, setCurSeq_eq, setCurCtx_setCurCtx]

theorem loopCount_eq (v : Word) :
    loopCount v = (if v.toInt ≤ 0 then 0 else if 2 ^ 32 ≤ v.toInt then 2 ^ 32 - 1 else v.toInt : Int).toNat := by
  unfold loopCount clampI
  split_ifs <;> omega

/-- Settles O4: opLoop case by case, the records that startRecord leaves, and the end-of-body test through the youngest record. -/
theorem loopStartAndEnd : Obligations.LoopStartAndEnd := by
  refine ⟨fun n a cnt body s => ?_, fun q p len => ?_, fun imm s => ?_⟩
  · intro q p last count Loops
    have loops (i : Instr) (c : Nat) (hi : exec i s = opLoop n c body s) : Loops i c := by
      refine ⟨fun h => ?_, fun hb hl hs => ?_⟩
      · unfold Completes
        rw [hi, opLoop_illegal h]
        exact fault_faultsAt causeIllegal 0 s
      · rw [opLoop_legal hb hl hs] at hi
        have hcast : ((4 * last + 4 : Nat) : Int) = 4 * (last : Int) + 4 := by push_cast; rfl
        refine ⟨fun hc ht => ?_, fun hc ht => ?_, fun hc => ?_⟩
        · rw [if_pos hc, transfer_ok (hcast ▸ ht)] at hi
          exact ⟨_, hi, jump_goes ..⟩
        · rw [if_pos hc] at hi
          obtain ⟨u, hu, hbad⟩ := transfer_bad (n := 3) (hcast ▸ ht) s
          exact ⟨u, hi.trans hu, hcast ▸ hbad⟩
        · rw [if_neg hc, jumpTo_setCurSeq] at hi
          refine ⟨_, hi, ?_⟩
          dsimp only
          rw [curSeq_after]
          refine ⟨onlyContext_after _ _ _, restOfCtx_after _ _ _, fun r => by rw [rd, curSeq_after]; rfl, rfl, rfl, ?_⟩
          have hself := startRecord_self q.lc n.toNat (newRecord q body c)
          have h4 : n.toNat < 4 := n.isLt
          refine ⟨congrArg LoopRec.count hself, congrArg LoopRec.active hself, congrArg LoopRec.start hself, congrArg LoopRec.stop hself,
            congrArg LoopRec.level hself, ?_, fun m hm hne => ?_⟩
          · exact (congrArg LoopRec.age hself).trans_lt (countP_range_lt h4 (by simp))
          · have hm' := startRecord_other q.lc (newRecord q body c) hm hne
            have age {k : Nat} (hk : k < 4) (hkn : k ≠ n.toNat) (hka : (tget {} q.lc k).active = true) :
                (tget {} (startRecord q.lc n.toNat (newRecord q body c)) k).age = olderRecords q.lc n.toNat (tget {} q.lc k) :=
              congrArg LoopRec.age ((startRecord_other q.lc _ hk hkn).trans (if_pos hka))
            refine ⟨?_, fun ha => ⟨?_, fun k hk hkn hka hage => ?_⟩⟩
            · show tget {} (startRecord q.lc n.toNat (newRecord q body c)) m =
                { tget {} q.lc m with age := (tget {} (startRecord q.lc n.toNat (newRecord q body c)) m).age }
              rw [hm']
              split <;> rfl
            · exact ((age hm hne ha).trans_lt (olderRecords_lt q.lc hm hne ha)).trans_eq (congrArg LoopRec.age hself).symm
            · exact ((age hm hne ha).trans_lt (olderRecords_lt_olderRecords q.lc hm hne ha hage)).trans_eq (age hk hkn hka).symm
    exact ⟨loops _ _ (congrArg (opLoop n · body s) (loopCount_eq _)), loops _ _ rfl⟩
  · intro last ends youngest
    have hends (m : Nat) : ends m ↔ m < 4 ∧ EndsAt q.lc q.tlevel last m = true := by
      simp [ends, EndsAt, and_assoc]
    refine ⟨fun h => fallThrough_none (youngestAt_eq_none fun m hm => Bool.eq_false_iff.2 fun he => h m ((hends m).2 ⟨hm, he⟩)), fun m ⟨hm, hy⟩ => ?_⟩
    obtain ⟨h4, he⟩ := (hends m).1 hm
    have hyoung := youngestAt_eq_some h4 he fun k hk hek hne => hy k ((hends k).2 ⟨hk, hek⟩) hne
    exact ⟨fallThrough_again hyoung, fallThrough_ends h4 he hyoung⟩
  · refine ⟨⟨_, rfl, finish_seqOnly 1 1 s⟩, ⟨_, rfl, ?_, by rw [curSeq_setCurSeq]⟩⟩
    rw [finish_eq, curSeq_after, setCurSeq_eq, setCurCtx_setCurCtx, curCtx_setCurCtx, setCurCtx_cur]
    refine ⟨onlyContext_setCurCtx _ _, ?_, ?_⟩
    · rw [curCtx_setCurCtx, restOfCtx_setCtxSeq, restOfCtx_wdog, restOfCtx_setCtxSeq]
    · rw [curSeq_setCurCtx, ctxSeq_setCtxSeq]
      exact ⟨rfl, rfl, rfl, rfl, fun _ _ => rfl, rfl⟩

end Sys2Proof.Machine

/-! SUPPORT. Comparisons into masks and the predicates (R64, R144, R152), mask logic (R171, R172) and VSEL (R145). -/

namespace Sys2Proof.Machine

/-! ## Bits of a vector -/

theorem testBit_elem (v : Vec) {w b : Nat} (hb : b < w) (n : Nat) : (elem w v n).testBit b = v.getLsbD (w * n + b) := by
  rw [elem, Nat.testBit_mod_two_pow, Nat.testBit_shiftRight, decide_eq_true hb, Bool.true_and, BitVec.getLsbD]

theorem getLsbD_ofElems {w : Nat} (hw : 0 < w) (f : Nat → Nat) {i : Nat} (hi : i / w < 2048 / w) : (ofElems w f).getLsbD i = (f (i / w)).testBit (i % w) := by
  have hb := Nat.mod_lt i hw
  rw [← Nat.div_add_mod i w, ← testBit_elem (ofElems w f) hb, elem_ofElems w f hi, Nat.testBit_mod_two_pow, Nat.div_add_mod, decide_eq_true hb,
    Bool.true_and]

theorem getLsbD_spreadMask_allOnes {i : Nat} (hi : i < 2048) : (spreadMask (BitVec.allOnes 64)).getLsbD i = true := by
  have hj : i / 32 < 64 := by omega
  have hb : i % 32 < 32 := Nat.mod_lt _ (by omega)
  have hm : maskBit (BitVec.allOnes 64) (i / 32) = true := by rw [maskBit_eq, BitVec.getLsbD_allOnes]; exact decide_eq_true hj
  have hn : (0xFFFFFFFF : Nat) = 2 ^ 32 - 1 := rfl
  rw [spreadMask, getLsbD_ofElems (by omega) _ hj, if_pos hm, hn, Nat.testBit_two_pow_sub_one]
  exact decide_eq_true hb

/-! ## Predicates -/

theorem predHolds_lt (p : Pred) : predHolds p (some .lt) = true ↔ p = .ne ∨ p = .lt ∨ p = .le := by cases p <;> decide
theorem predHolds_eq (p : Pred) : predHolds p (some .eq) = true ↔ p = .eq ∨ p = .le ∨ p = .ge := by cases p <;> decide
theorem predHolds_gt (p : Pred) : predHolds p (some .gt) = true ↔ p = .ne ∨ p = .gt ∨ p = .ge := by cases p <;> decide
theorem predHolds_unordered (p : Pred) : predHolds p none = true ↔ p = .ne ∨ p = .un := by cases p <;> decide

/-- R64, R144: the predicates of two integers. -/
theorem predHolds_compare (x y : Int) :
    let h (p : Pred) : Bool := predHolds p (some (compare x y))
    (h .eq = true ↔ x = y) ∧ (h .ne = true ↔ x ≠ y) ∧ (h .lt = true ↔ x < y) ∧ (h .le = true ↔ x ≤ y) ∧ (h .gt = true ↔ y < x) ∧ (h .ge = true ↔ y ≤ x) := by
  intro h
  rcases lt_trichotomy x y with hlt | heq | hgt
  · have hc : compare x y = .lt := compare_lt_iff_lt.2 hlt
    simp only [h, hc, predHolds_lt]
    simp only [reduceCtorEq, or_false, or_true, false_iff, true_iff]
    omega
  · have hc : compare x y = .eq := compare_eq_iff_eq.2 heq
    simp only [h, hc, predHolds_eq]
    simp only [reduceCtorEq, or_false, or_true, false_iff, true_iff]
    omega
  · have hc : compare x y = .gt := compare_gt_iff_gt.2 hgt
    simp only [h, hc, predHolds_gt]
    simp only [reduceCtorEq, or_false, or_true, false_iff, true_iff]
    omega

theorem predHolds_ordered (o : Ordering) : predHolds .un (some o) = false ∧ predHolds .ne (some o) = !predHolds .eq (some o) ∧
    predHolds .le (some o) = (predHolds .lt (some o) || predHolds .eq (some o)) ∧ predHolds .ge (some o) = !predHolds .lt (some o) := by
  cases o <;> decide

theorem fcompare_unordered {f : FFmt} {u v : Nat} (h : isNaN (decodeF f u) = true ∨ isNaN (decodeF f v) = true) : fcompare f u v = none := by
  simp only [fcompare, Bool.or_eq_true, if_pos h]

theorem fcompare_ordered {f : FFmt} {u v : Nat} (h : ¬ (isNaN (decodeF f u) = true ∨ isNaN (decodeF f v) = true)) :
    fcompare f u v = some (cmpVal (decodeF f u) (decodeF f v)) := by
  simp only [fcompare, Bool.or_eq_true, if_neg h]

theorem fcompare_fin {f : FFmt} {u v : Nat} {s t : Bool} {m n : Nat} {e g : Int} (hu : decodeF f u = .fin s m e) (hv : decodeF f v = .fin t n g) :
    fcompare f u v =
      some (compare (signedM s m * 2 ^ (e - min e g).toNat) (signedM t n * 2 ^ (g - min e g).toNat)) := by
  rw [fcompare_ordered (by rw [hu, hv]; simp [isNaN]), hu, hv]
  simp only [cmpVal, Nat.cast_pow, Nat.cast_ofNat]

theorem cmpVal_inf_left (s : Bool) {y : Val} (hy : isNaN y = false) : cmpVal (.inf s) y = if y = .inf s then .eq else if s then .lt else .gt := by
  cases y with
  | nan | nar => exact nomatch hy
  | inf t => cases s <;> cases t <;> rfl
  | fin => rfl

theorem cmpVal_inf_right (s : Bool) {x : Val} (hx : isNaN x = false) : cmpVal x (.inf s) = if x = .inf s then .eq else if s then .gt else .lt := by
  cases x with
  | nan | nar => exact nomatch hx
  | inf t => cases s <;> cases t <;> rfl
  | fin => rfl

/-! ## The instructions -/

theorem maskBit_compare (w : Nat) (x y : Vec) (sel : Sel) (p : Nat → Nat → Bool) {j : Nat} (hj : j < 64) :
    maskBit (ofMask fun j => (List.range (32 / w)).all fun e => p (elem w x (32 / w * j + selA sel e)) (elem w y (32 / w * j + selB sel e))) j =
      decide (∀ e, e < 32 / w → p (elem w x (32 / w * j + selA sel e)) (elem w y (32 / w * j + selB sel e)) = true) := by
  rw [maskBit_ofMask _ hj, Bool.eq_iff_iff, List.all_eq_true, decide_eq_true_eq]
  exact forall_congr' fun e => by rw [List.mem_range]

theorem xMask_of_opCompare {bound w : Nat} {sel : Sel} {kd : BitVec 3} {a b : Opnd} {q : XQ} {p : Nat → Nat → Bool} {s : State} {i : Instr}
    (h : exec i s = opCompare bound w sel kd a b q p s) :
    XMask s i [a, b] kd q bound (fun j => decide (∀ e, e < 32 / w →
      p (elem w (srcVec s [a, b] 0) (32 / w * j + selA sel e)) (elem w (srcVec s [a, b] 1) (32 / w * j + selB sel e)) = true)) :=
  xMask_of_opXk _ h fun _ hj => maskBit_compare w _ _ sel p hj

theorem foldl_eq_self {α β : Type} {f : α → β → α} {l : List β} (h : ∀ b ∈ l, ∀ a, f a b = a) (a : α) : l.foldl f a = a := by
  induction l with
  | nil => rfl
  | cons b l ih =>
    rw [List.foldl_cons, h b (List.mem_cons_self ..)]
    exact ih fun c hc => h c (List.mem_cons_of_mem _ hc)

/-- With no mask write in flight a mask reads as it stands. -/
theorem readMask_of_none {x : Ctx} (h : ∀ r ∈ x.xres, r.k = none) (k free : Nat) : readMask x k free = if k = 0 then BitVec.allOnes 64 else tget 0 x.k k := by
  unfold readMask
  rw [foldl_eq_self fun r hr m => by rw [h r hr]]
  rfl

theorem maskBit_kopBits (op : KOpKind) (x y : Mask) {j : Nat} (hj : j < 64) : maskBit (kopBits op x y) j =
    match op with
    | .and => x.getLsbD j && y.getLsbD j
    | .or => x.getLsbD j || y.getLsbD j
    | .xor => x.getLsbD j != y.getLsbD j
    | .andn => x.getLsbD j && !y.getLsbD j
    | .orn => x.getLsbD j || !y.getLsbD j
    | .xnor => x.getLsbD j == y.getLsbD j := by
  have hnot (z : Mask) : (~~~ z).getLsbD j = !z.getLsbD j := by rw [BitVec.getLsbD_not, decide_eq_true hj, Bool.true_and]
  rw [maskBit_eq]
  cases op with
  | and => exact BitVec.getLsbD_and
  | or => exact BitVec.getLsbD_or
  | xor => exact BitVec.getLsbD_xor
  | andn => rw [kopBits, BitVec.getLsbD_and, hnot]
  | orn => rw [kopBits, BitVec.getLsbD_or, hnot]
  | xnor => rw [kopBits, hnot, BitVec.getLsbD_xor]; exact Bool.not_not _

theorem exec_kop (op : KOpKind) (kd ka kb : BitVec 3) (q : XQ) (s : State) : exec (.kop op kd ka kb q) s = opXk 1 [] kd q (fun s' _ =>
    (kopBits op (readMask (curCtx s') ka.toNat (s.freeCtr + 65)) (readMask (curCtx s') kb.toNat (s.freeCtr + 66)), 0)) s := by
  dsimp only [exec]
  rfl

theorem exec_kset (kd : BitVec 3) (g : Reg) (q : XQ) (s : State) : exec (.kset kd g q) s = opXk 1 [] kd q (fun s' _ => (rd s' g, 0)) s := by
  dsimp only [exec]
  rfl

theorem rd_xContext (s : State) (r : Reg) : rd (setCurCtx s (xContext s)) r = rd s r := by
  rw [rd, curSeq_setCurCtx, xContext, landBy, ctxSeq_landList]
  rfl

/-- The lane that VSEL takes: of the first source where the mask is 1, else of the second (R145). -/
def mergeLane (kn : Mask) : Consumes := fun i j => if maskBit kn j == (i == 0) then [j] else []

/-- Of two sources the one that VSEL takes lane j of. -/
theorem any_mergeLane (kn : Mask) (x y z : Src) (bit : Src → Nat → Bool) (j : Nat) (h : [x, y][if maskBit kn j then 0 else 1]? = some z) :
    ([x, y].zipIdx.all fun e => (mergeLane kn e.2 j).all (bit e.1)) = bit z j ∧
      ([x, y].zipIdx.any fun e => (mergeLane kn e.2 j).any (bit e.1)) = bit z j := by
  by_cases hk : maskBit kn j = true
  · obtain rfl : x = z := by simpa [hk] using h
    simp [mergeLane, hk]
  · obtain rfl : y = z := by simpa [hk] using h
    simp [mergeLane, hk]

theorem exec_vsel (d a b : Opnd) (q : XQ) (s : State) : exec (.vsel d a b q) s = opX 2 [a, b] d q (fun _ l kn =>
    deliverLanes l (mergeLane kn) (BitVec.allOnes 64) (ofLanes fun j => if maskBit kn j then lane (srcAt l 0) j else lane (srcAt l 1) j) 0) s := by
  dsimp only [exec]
  rfl

theorem xGives_vsel (d a b : Opnd) (q : XQ) (s : State) : XGives s (.vsel d a b q) [a, b] d q 2 (fun o =>
    o.lanes = BitVec.allOnes 64 ∧ o.flags = 0 ∧ o.oor = none ∧ (∀ j, j < 2048 → o.bits.getLsbD j = true) ∧
    ∀ j, j < 64 → lane o.data j = lane (srcVec s [a, b] (if maskBit (activeOf s q) j then 0 else 1)) j ∧
      ∀ y, (srcsOf s [a, b])[if maskBit (activeOf s q) j then 0 else 1]? = some y → maskBit o.valid j = maskBit y.valid j ∧ maskBit o.mz j = maskBit y.lost j) := by
  refine xGives_of_opX _ (exec_vsel d a b q s) ⟨rfl, rfl, rfl, fun _ hj => getLsbD_spreadMask_allOnes hj, fun j hj => ⟨?_, fun y hy => ?_⟩⟩
  · refine (lane_ofLanes _ hj).trans ?_
    split <;> rfl
  · obtain ⟨hall, _⟩ := any_mergeLane (activeOf s q) _ _ y (fun x => maskBit x.valid) j hy
    obtain ⟨_, hany⟩ := any_mergeLane (activeOf s q) _ _ y (fun x => maskBit x.lost) j hy
    refine ⟨(maskBit_ofMask _ hj).trans hall, ?_⟩
    refine (maskBit_and ..).trans ?_
    rw [maskBit_eq (BitVec.allOnes 64), BitVec.getLsbD_allOnes, decide_eq_true hj, Bool.true_and]
    exact (maskBit_ofMask _ hj).trans hany

/-- Settles O22: opCompare for the comparisons, opXk for KSET and the mask logic, VSEL, and the predicates by the ordering they are asked about. -/
theorem maskInstructions : Obligations.MaskInstructions := by
  refine ⟨fun fi ff p sel op kd ka kb d a b g q s => ?_, fun x y f u v => ?_⟩
  · refine ⟨xMask_of_opCompare (p := fun x y => predHolds p (some (compare (readInt fi x) (readInt fi y)))) rfl, xMask_of_opCompare (p := fun x y => predHolds p (fcompare ff x y)) rfl, ?_, fun hk => ?_, xGives_vsel d a b q s⟩
    · refine xMask_of_opXk _ (exec_kset kd g q s) fun j _ => ?_
      rw [maskBit_eq, rd_xContext]
    · refine xMask_of_opXk _ (exec_kop op kd ka kb q s) fun j hj => ?_
      have hz (n : BitVec 3) : (if n.toNat = 0 then BitVec.allOnes 64 else tget 0 (xContext s).k n.toNat) =
          if n = 0 then BitVec.allOnes 64 else tget 0 (xContext s).k n.toNat :=
        if_congr ⟨fun h => BitVec.eq_of_toNat_eq h, fun h => by rw [h]; rfl⟩ rfl rfl
      have h := maskBit_kopBits op (readMask (xContext s) ka.toNat (s.freeCtr + 65)) (readMask (xContext s) kb.toNat (s.freeCtr + 66)) hj
      rw [readMask_of_none hk, readMask_of_none hk, hz, hz] at h
      rw [curCtx_setCurCtx, readMask_of_none hk, readMask_of_none hk, hz, hz]
      exact h
  · obtain ⟨h1, h2, h3, h4, h5, h6⟩ := predHolds_compare x y
    refine ⟨h1, h2, h3, h4, h5, h6, fun hn p => ?_, fun hn => ?_, fun s t e e' hu hv => ?_, fun s t m n e e' p hu hv => ?_, fun s p hu hn => ?_,
      fun s p hv hn => ?_⟩
    · simp only [fcompare_unordered hn, predHolds_unordered]
    · simp only [fcompare_ordered hn]
      exact predHolds_ordered _
    · have hz (s : Bool) : signedM s 0 = 0 := by cases s <;> rfl
      simp only [fcompare_fin hu hv, hz, zero_mul]
      exact (predHolds_eq .eq).2 (.inl rfl)
    · simp only [fcompare_fin hu hv]
    · have hy : isNaN (decodeF f v) = false := Bool.eq_false_iff.2 fun h => hn (.inr h)
      simp only [fcompare_ordered hn, hu, cmpVal_inf_left s hy]
    · have hx : isNaN (decodeF f u) = false := Bool.eq_false_iff.2 fun h => hn (.inl h)
      simp only [fcompare_ordered hn, hv, cmpVal_inf_right s hx]

end Sys2Proof.Machine

/-! SUPPORT. VGTH and VSCT (R164, R165): the granule of each lane through its offset, what is gathered and what is written. -/

namespace Sys2Proof.Machine

theorem laneGranule_fst (x : Ctx) (i j : Nat) : (laneGranule x i j).1 = LaneAt x i j := by
  unfold laneGranule LaneAt
  dsimp only
  by_cases hi : min (fieldOf x.vview 32 11) 1024 ≤ i
  · rw [if_pos hi, if_neg fun h => absurd hi h.1.not_ge]
  · rw [if_neg hi]
    generalize fieldOf x.vview 0 16 + fieldOf x.vview 16 16 * i + j / 4 = g
    by_cases hg : g < 65536 ∧ bitOf (footprint x).toNat (bankOfGranule g) = true
    · rw [if_neg (by simp [hg]), if_pos ⟨by omega, hg⟩]
    · rw [if_pos (by simpa [imp_iff_not_or] using hg), if_neg fun h => hg h.2]

theorem xGranule_of_settled {x : Ctx} {n : Nat} (h : Settled x n) (free : Nat) : xGranule x n free = storeGranule x n := by
  obtain ⟨hm, hr⟩ := h
  have ha : (x.xres.any fun r => r.writes.any fun w => w.1 == n) = false := by
    simpa [List.any_eq_false] using fun r hr' a b hw => hr r hr' (n, a, b) hw rfl
  rw [xGranule, ha]
  simp only [Bool.false_eq_true, if_false, settledOr, hm, if_true]

/-! ## VGTH -/

/-- What VGTH reads: lane j of the operand with index idx j, zero where that is out of range (R164). -/
def gathered (x : Ctx) (free : Nat) (idx : Nat → Nat) : Vec :=
  ofLanes fun j => match (laneGranule x (idx j) j).1 with
    | some g => BitVec.ofNat 32 ((xGranule x g (free + 100 + j)).toNat >>> (32 * (j % 4)))
    | none => 0

theorem lane_gathered_of_none {x : Ctx} {idx : Nat → Nat} {j : Nat} (hj : j < 64) (h : LaneAt x (idx j) j = none) (free : Nat) :
    lane (gathered x free idx) j = 0 := by
  rw [gathered, lane_ofLanes _ hj, laneGranule_fst, h]

theorem lane_gathered_of_some {x : Ctx} {idx : Nat → Nat} {j g : Nat} (hj : j < 64) (h : LaneAt x (idx j) j = some g) (hs : Settled x g) (free : Nat) :
    lane (gathered x free idx) j = BitVec.ofNat 32 ((storeGranule x g).toNat / 2 ^ (32 * (j % 4))) := by
  rw [gathered, lane_ofLanes _ hj, laneGranule_fst, h]
  dsimp only
  rw [xGranule_of_settled hs, Nat.shiftRight_eq_div_pow]

theorem exec_vgth (d a b : Opnd) (q : XQ) (s : State) : exec (.vgth d a b q) s = opX 6 [b] d q (fun s' l active =>
    { deliverLanes l sameLane active (gathered (curCtx s') s.freeCtr fun j => opIndex s' a + (lane (srcAt l 0) j).toNat) 0 with
      oor := lanesOor (curCtx s') active (fun j => opIndex s' a + (lane (srcAt l 0) j).toNat) true }) s := by
  dsimp only [exec]
  rfl

theorem opIndex_xContext (s : State) (o : Opnd) : opIndex (setCurCtx s (xContext s)) o = opIndex s o := by
  unfold opIndex
  split
  · rfl
  · rw [rd_xContext]
  · rfl

/-! ## VSCT -/

/-- What VSCT writes: the lanes of a mask whose operands are in range (R165). -/
def scattered (x : Ctx) (lanes : Mask) (data : Vec) (idx : Nat → Nat) : List (Nat × Granule × Granule) :=
  (List.range 64).filterMap fun j =>
    if maskBit lanes j then
      match (laneGranule x (idx j) j).1 with
      | some g => some (g, byteMask (4 * (j % 4)) 4, BitVec.ofNat 128 ((lane data j).toNat <<< (32 * (j % 4))))
      | none => none
    else none

theorem mem_scattered (x : Ctx) (lanes : Mask) (data : Vec) (idx : Nat → Nat) (w : Nat × Granule × Granule) :
    w ∈ scattered x lanes data idx ↔ ∃ j, j < 64 ∧ maskBit lanes j = true ∧ LaneAt x (idx j) j = some w.1 ∧ w.2.1 = byteMask (4 * (j % 4)) 4 ∧
      w.2.2 = BitVec.ofNat 128 ((lane data j).toNat * 2 ^ (32 * (j % 4))) := by
  obtain ⟨g, m, v⟩ := w
  rw [scattered, List.mem_filterMap]
  refine exists_congr fun j => and_congr List.mem_range ?_
  rw [laneGranule_fst, Nat.shiftLeft_eq]
  by_cases hj : maskBit lanes j = true
  · rw [if_pos hj]
    cases LaneAt x (idx j) j with
    | none => simp
    | some n => simp [hj, eq_comm]
  · simp [hj]

/-- The lanes of the offsets that are valid, all of them where there is no such source. -/
def offsetLanes (l : List Src) : Mask := ~~~ (match l[1]? with
  | some r => ~~~ r.valid
  | none => 0)

/-- The result of VSCT. -/
def scatterResult (s : State) (d a b : Opnd) (q : XQ) : XResult :=
  { due := (curSeq s).clock + 6,
    writes := scattered (xContext s) (activeOf s q &&& offsetLanes (srcsOf s [a, b])) (srcVec s [a, b] 0)
      fun j => opIndex s d + (lane (srcVec s [a, b] 1) j).toNat,
    k := none,
    orFlags := if q.nf then 0 else ofFlags fun j => flagIf (maskBit (activeOf s q &&& lostLanes (srcsOf s [a, b]) sameLane) j) flagMZ,
    setFlags := none, push := none }

theorem exec_vsct {d a b : Opnd} {q : XQ} {s : State} (hq : queuesReady (xContext s) [a, b] = true) : exec (.vsct d a b q) s =
    .next (takeFree (finish 2 (spacing q) (setCurCtx s (xAfter s [a, b] none (lanesOor (xContext s) (activeOf s q &&& offsetLanes (srcsOf s [a, b]))
      (fun j => opIndex s d + (lane (srcVec s [a, b] 1) j).toNat) false) (scatterResult s d a b q)))) 256) := by
  dsimp only [exec]
  unfold execVsct
  simp only [hq, Bool.not_true, Bool.false_eq_true, if_false]
  rw [xAfter_eq]
  rfl

theorem maskBit_not (k : Mask) {j : Nat} (hj : j < 64) : maskBit (~~~ k) j = !maskBit k j := by
  rw [maskBit_eq, maskBit_eq, BitVec.getLsbD_not, decide_eq_true hj, Bool.true_and]

theorem maskBit_offsetLanes (l : List Src) {j : Nat} (hj : j < 64) : maskBit (offsetLanes l) j = true ↔ ∀ y, l[1]? = some y → maskBit y.valid j = true := by
  unfold offsetLanes
  cases l[1]? with
  | none => exact iff_of_true ((maskBit_not 0 hj).trans (by simp [maskBit_eq])) fun _ h => nomatch h
  | some r =>
    show maskBit (~~~ ~~~ r.valid) j = true ↔ _
    rw [maskBit_not _ hj, maskBit_not _ hj, Bool.not_not]
    exact ⟨fun h y e => Option.some.inj e ▸ h, fun h => h r rfl⟩

/-- Settles O28: VGTH as a lane-by-lane delivery of what it gathers, VSCT by the writes of its result. -/
theorem vectorGatherAndScatter : Obligations.VectorGatherAndScatter := by
  intro d a b q s x gi si
  refine ⟨xGives_of_opX _ (exec_vgth d a b q s) ⟨rfl, rfl, rfl, fun j hj => ?_⟩, fun hs hq => ?_⟩
  · simp only [opIndex_xContext, curCtx_setCurCtx]
    refine ⟨(maskBit_ofMask _ hj).trans (by simp [srcsOf, readSrcs, sameLane]), ?_, fun h => lane_gathered_of_none hj h _,
      fun g h hg => lane_gathered_of_some hj h hg _⟩
    refine (maskBit_and ..).trans (congrArg _ ((maskBit_ofMask _ hj).trans (by simp [srcsOf, readSrcs, sameLane])))
  · refine ⟨scatterResult s d a b q, ⟨_, exec_vsct hq, finish_xAfter s [a, b] none _ _ q hs⟩, rfl, rfl, rfl, rfl, fun w => ?_⟩
    refine (mem_scattered x (activeOf s q &&& offsetLanes (srcsOf s [a, b])) (srcVec s [a, b] 0) si w).trans
      (exists_congr fun j => and_congr_right fun hj => ?_)
    rw [maskBit_and, Bool.and_eq_true, maskBit_offsetLanes _ hj, and_assoc]

end Sys2Proof.Machine

/-! SUPPORT. Results in flight that land (R32, R45, R68): what one of them writes, what all that are due write, what they push, and what stays. -/

namespace Sys2Proof.Machine

/-! ## Writes of the store -/

theorem storeGranule_putGranule (x : Ctx) (n : Nat) (m v : Granule) (g : Nat) :
    storeGranule (putGranule x n m v) g = if n = g then (v &&& m) ||| (storeGranule x g &&& ~~~ m) else storeGranule x g := by
  by_cases h : n = g
  · subst h
    rw [if_pos rfl, storeGranule, putGranule, tfind_tput_same]
  · rw [if_neg h]
    show (match tfind (tput x.store n _) g with | some w => w | none => _) = _
    rw [tfind_tput_other _ _ (Ne.symm h)]
    rfl

/-- A granule with the bytes of one write. -/
def withBytes (v : Granule) (w : Nat × Granule × Granule) : Granule := (w.2.2 &&& w.2.1) ||| (v &&& ~~~ w.2.1)

/-- A write of a byte of the token word (R272). -/
def ReachesToken (w : Nat × Granule × Granule) : Prop := w.1 = 0xFFDF ∧ w.2.1 >>> 64 ≠ 0

/-- Of a context only what writes of the store change has changed, and as the writes say. -/
structure Written (ws : List (Nat × Granule × Granule)) (x y : Ctx) : Prop where
  frame : y = { x with store := y.store, raced := y.raced, tokenBad := y.tokenBad }
  store : ∀ g, storeGranule y g = (ws.filter (·.1 == g)).foldl withBytes (storeGranule x g)
  token : y.tokenBad = true ↔ x.tokenBad = true ∨ ∃ w ∈ ws, ReachesToken w

theorem written_nil (x : Ctx) : Written [] x x := ⟨rfl, fun _ => rfl, by simp⟩

theorem Written.cons {w : Nat × Granule × Granule} {ws : List (Nat × Granule × Granule)} {x y z : Ctx} (h : Written [w] x y) (k : Written ws y z) :
    Written (w :: ws) x z := by
  refine ⟨?_, fun g => ?_, ?_⟩
  · have hk := k.frame
    rw [h.frame] at hk
    exact hk
  · rw [k.store, h.store, ← List.foldl_append, ← List.filter_append]
    rfl
  · rw [k.token, h.token]
    simp [or_assoc]

theorem writeGranule_raced (x : Ctx) (n : Nat) (m v : Granule) : ∃ r, writeGranule x n m v = { putGranule x n m v with raced := r } := by
  unfold writeGranule
  dsimp only
  split
  · exact ⟨x.raced, rfl⟩
  · exact ⟨_, rfl⟩

theorem written_programWrite (x : Ctx) (n : Nat) (m v : Granule) : Written [(n, m, v)] x (programWrite x n m v) := by
  obtain ⟨r, hr⟩ := writeGranule_raced x n m v
  have hstore (g : Nat) : storeGranule (putGranule x n m v) g = ([(n, m, v)].filter (·.1 == g)).foldl withBytes (storeGranule x g) := by
    rw [storeGranule_putGranule]
    by_cases h : n = g <;> simp [h, withBytes]
  unfold programWrite
  rw [hr]
  by_cases ht : n = tokenGranule ∧ m >>> 64 ≠ 0
  · rw [if_pos (by simpa using ht)]
    exact ⟨rfl, hstore, iff_of_true rfl (.inr ⟨_, List.mem_singleton_self _, ht⟩)⟩
  · rw [if_neg (by simpa using ht)]
    refine ⟨rfl, hstore, (or_iff_left fun ⟨w, hw, h⟩ => ht ?_).symm⟩
    rw [List.mem_singleton.1 hw] at h
    exact h

theorem written_foldl (ws : List (Nat × Granule × Granule)) (x : Ctx) : Written ws x (ws.foldl (fun x (n, m, v) => programWrite x n m v) x) := by
  induction ws generalizing x with
  | nil => exact written_nil x
  | cons w ws ih => exact (written_programWrite x w.1 w.2.1 w.2.2).cons (ih _)

/-! ## One result -/

/-- A mask register n with the bits of a result. -/
def withMask (n : Nat) (v : Mask) (r : XResult) : Mask := match r.k with
  | some (m, b, u) => if m = n then (u &&& b) ||| (v &&& ~~~ b) else v
  | none => v

/-- The flags with those of a result. -/
def withFlags (v : LaneFlags) (r : XResult) : LaneFlags := (match r.setFlags with
  | some (m, u) => (u &&& m) ||| (v &&& ~~~ m)
  | none => v) ||| r.orFlags

/-- The results rs have landed, but for their pushes: of a context nothing else has changed than queues and what is in flight. -/
structure Landed (rs : List XResult) (x y : Ctx) : Prop where
  frame : y = { x with store := y.store, raced := y.raced, tokenBad := y.tokenBad, k := y.k, flags := y.flags, w := y.w, xres := y.xres }
  store : ∀ g, storeGranule y g = ((rs.flatMap (·.writes)).filter (·.1 == g)).foldl withBytes (storeGranule x g)
  mask : ∀ n, n ≠ 0 → tget 0 y.k n = rs.foldl (withMask n) (tget 0 x.k n)
  flags : y.flags = rs.foldl withFlags x.flags
  token : y.tokenBad = true ↔ x.tokenBad = true ∨ ∃ w ∈ rs.flatMap (·.writes), ReachesToken w

theorem landed_nil (x : Ctx) (w : Table Queue) (l : List XResult) : Landed [] x { x with w := w, xres := l } :=
  ⟨rfl, fun _ => rfl, fun _ _ => rfl, rfl, by simp⟩

theorem Landed.cons {r : XResult} {rs : List XResult} {x y z : Ctx} (h : Landed [r] x y) (k : Landed rs y z) : Landed (r :: rs) x z := by
  refine ⟨?_, fun g => ?_, fun n hn => ?_, ?_, ?_⟩
  · have hk := k.frame
    rw [h.frame] at hk
    exact hk
  · rw [k.store, h.store, ← List.foldl_append, ← List.filter_append]
    simp
  · rw [k.mask n hn, h.mask n hn]
    rfl
  · rw [k.flags, h.flags]
    rfl
  · rw [k.token, h.token]
    simp [or_assoc, or_and_right, exists_or]

/-- A context with the mask bits of a result: k0 discards them (R41). -/
def landMask (x : Ctx) (r : XResult) : Ctx := match r.k with
  | some (n, m, v) => if n = 0 then x else { x with k := tput x.k n ((v &&& m) ||| (tget 0 x.k n &&& ~~~ m)) }
  | none => x

/-- A context with the flags that a result writes whole (R48). -/
def landFlags (x : Ctx) (r : XResult) : Ctx := match r.setFlags with
  | some (m, v) => { x with flags := (v &&& m) ||| (x.flags &&& ~~~ m) }
  | none => x

theorem landMask_eq (x : Ctx) (r : XResult) : ∃ k, landMask x r = { x with k := k } ∧ ∀ n, n ≠ 0 → tget 0 k n = withMask n (tget 0 x.k n) r := by
  unfold landMask withMask
  cases r.k with
  | none => exact ⟨x.k, rfl, fun _ _ => rfl⟩
  | some e =>
    obtain ⟨m, b, u⟩ := e
    dsimp only
    by_cases h0 : m = 0
    · exact ⟨x.k, if_pos h0, fun n hn => (if_neg fun e => hn (e.symm.trans h0)).symm⟩
    · refine ⟨_, if_neg h0, fun n _ => ?_⟩
      by_cases e : m = n
      · rw [e, tget_tput_same, if_pos rfl]
      · rw [tget_tput_other _ _ _ (Ne.symm e), if_neg e]

theorem landFlags_eq (x : Ctx) (r : XResult) : ∃ f, landFlags x r = { x with flags := f } ∧ f ||| r.orFlags = withFlags x.flags r := by
  unfold landFlags withFlags
  cases r.setFlags with
  | none => exact ⟨x.flags, rfl, rfl⟩
  | some e => exact ⟨_, rfl, rfl⟩

theorem applyResult_eq (x : Ctx) (r : XResult) : applyResult x r =
    let y := landFlags (landMask (r.writes.foldl (fun x (n, m, v) => programWrite x n m v) x) r) r
    { y with flags := y.flags ||| r.orFlags } := rfl

theorem landed_applyResult_and_w (x : Ctx) (r : XResult) : Landed [r] x (applyResult x r) ∧ (applyResult x r).w = x.w := by
  have hw := written_foldl r.writes x
  rw [applyResult_eq]
  generalize r.writes.foldl (fun x (n, m, v) => programWrite x n m v) x = y at hw
  obtain ⟨k, hk, hmask⟩ := landMask_eq y r
  obtain ⟨f, hf, hflags⟩ := landFlags_eq { y with k := k } r
  obtain ⟨hframe, hstore, htoken⟩ := hw
  rw [hk, hf]
  have hyk : y.k = x.k := (congrArg Ctx.k hframe :)
  have hyf : y.flags = x.flags := (congrArg Ctx.flags hframe :)
  refine ⟨⟨?_, fun g => ?_, fun n hn => (hmask n hn).trans (by rw [hyk]; rfl), hflags.trans (by rw [← hyf]; rfl), ?_⟩, (congrArg Ctx.w hframe :)⟩
  · rw [hframe]
  · rw [List.flatMap_singleton]
    exact hstore g
  · rw [List.flatMap_singleton]
    exact htoken

theorem landed_applyResult (x : Ctx) (r : XResult) : Landed [r] x (applyResult x r) := (landed_applyResult_and_w x r).1

theorem getW_applyResult (x : Ctx) (r : XResult) (n : Nat) : getW (applyResult x r) n = getW x n := by
  rw [getW, getW, (landed_applyResult_and_w x r).2]

/-! ## All of them -/

/-- A result whose push has still to wait: all else of it has landed. -/
def onlyPush (r : XResult) : XResult := { r with writes := [], k := none, orFlags := 0, setFlags := none }

/-- What can become of the oldest result r of the list when those due by time t land: it is late; it pushes nothing; its push waits; or it pushes. -/
theorem landList_induction {t : Nat} {P : List XResult → List XResult → Ctx → Ctx → Prop} (nil : ∀ stay x, P [] stay x { x with xres := stay })
    (late : ∀ r l stay x y, t < r.due → P l (stay ++ [r]) x y → P (r :: l) stay x y)
    (quiet : ∀ r l stay x y, r.due ≤ t → r.push = none → P l (stay.map (yieldTo r)) (applyResult x r) y → P (r :: l) stay x y)
    (waits : ∀ r l stay x y w e, r.due ≤ t → r.push = some (w, e) → stay ≠ [] →
      P l (stay.map (yieldTo r) ++ [onlyPush r]) (applyResult x r) y → P (r :: l) stay x y)
    (pushes : ∀ r l stay x y w e, r.due ≤ t → r.push = some (w, e) → (∀ f ∈ stay, ∀ v g, f.push = some (v, g) → v ≠ w) →
      P l (stay.map (yieldTo r)) { applyResult x r with w := tput (applyResult x r).w w (pushEntry (getW (applyResult x r) w) e) } y →
      P (r :: l) stay x y)
    (l stay : List XResult) (x : Ctx) : P l stay x (landList t l stay x) := by
  induction l generalizing stay x with
  | nil => exact nil stay x
  | cons r l ih =>
    rw [landList]
    by_cases hd : r.due ≤ t
    · rw [if_pos hd]
      cases hp : r.push with
      | none => exact quiet r l stay x _ hd hp (ih ..)
      | some p =>
        obtain ⟨w, e⟩ := p
        dsimp only
        split
        next hw =>
          have ho : onlyPush r = { due := r.due, writes := [], k := none, orFlags := 0, setFlags := none, push := some (w, e) } := by rw [onlyPush, hp]
          rw [← ho]
          refine waits r l stay x _ w e hd hp (fun hs => ?_) (ih ..)
          rw [hs] at hw
          exact nomatch hw
        next hw =>
          refine pushes r l stay x _ w e hd hp (fun f hf v g hfp hv => hw ?_) (ih ..)
          refine List.any_eq_true.2 ⟨yieldTo r f, List.mem_map_of_mem hf, ?_⟩
          have hfp' : (yieldTo r f).push = some (v, g) := hfp
          rw [hfp', hv]
          simp
    · rw [if_neg hd]
      exact late r l stay x _ (Nat.lt_of_not_le hd) (ih ..)

/-- The results of l that are due by time t. -/
def dueBy (t : Nat) (l : List XResult) : List XResult := l.filter fun e => decide (e.due ≤ t)

theorem dueBy_cons_late {t : Nat} {r : XResult} (h : t < r.due) (l : List XResult) : dueBy t (r :: l) = dueBy t l :=
  List.filter_cons_of_neg (by simpa using h)

theorem dueBy_cons_due {t : Nat} {r : XResult} (h : r.due ≤ t) (l : List XResult) : dueBy t (r :: l) = r :: dueBy t l :=
  List.filter_cons_of_pos (decide_eq_true h)

theorem Landed.pushed {rs : List XResult} {x y : Ctx} (h : Landed rs x y) (w : Table Queue) : Landed rs x { y with w := w } :=
  ⟨by rw [h.frame], h.store, h.mask, h.flags, h.token⟩

theorem landed_landList (t : Nat) (l stay : List XResult) (x : Ctx) : Landed (dueBy t l) x (landList t l stay x) := by
  refine landList_induction (P := fun l _ x y => Landed (dueBy t l) x y) (fun stay x => landed_nil x x.w stay) (fun r l stay x y hd ih => ?_)
    (fun r l stay x y hd _ ih => ?_) (fun r l stay x y w e hd _ _ ih => ?_) (fun r l stay x y w e hd _ _ ih => ?_) l stay x
  · rwa [dueBy_cons_late hd]
  · rw [dueBy_cons_due hd]
    exact (landed_applyResult x r).cons ih
  · rw [dueBy_cons_due hd]
    exact (landed_applyResult x r).cons ih
  · rw [dueBy_cons_due hd]
    exact ((landed_applyResult x r).pushed _).cons ih

/-! ## Pushes (R45) -/

/-- What a list of results pushes to queue n, oldest first. -/
def pushesTo (n : Nat) (l : List XResult) : List QEntry := ((l.flatMap fun e => e.push.toList).filter (·.1 == n)).map (·.2)

theorem pushesTo_append (n : Nat) (l m : List XResult) : pushesTo n (l ++ m) = pushesTo n l ++ pushesTo n m := by
  simp [pushesTo]

theorem pushesTo_cons (n : Nat) (r : XResult) (l : List XResult) : pushesTo n (r :: l) = pushesTo n [r] ++ pushesTo n l := pushesTo_append n [r] l

theorem pushesTo_map_yieldTo (n : Nat) (r : XResult) (l : List XResult) : pushesTo n (l.map (yieldTo r)) = pushesTo n l := by
  unfold pushesTo
  rw [List.flatMap_map]
  rfl

theorem pushesTo_of_none {r : XResult} (h : r.push = none) (n : Nat) : pushesTo n [r] = [] := by simp [pushesTo, h]

theorem pushesTo_of_some {r : XResult} {w : Nat} {e : QEntry} (h : r.push = some (w, e)) (n : Nat) : pushesTo n [r] = if w = n then [e] else [] := by
  by_cases hw : w = n <;> simp [pushesTo, h, hw]

theorem pushesTo_eq_nil {n : Nat} {l : List XResult} (h : ∀ f ∈ l, ∀ v g, f.push = some (v, g) → v ≠ n) : pushesTo n l = [] := by
  induction l with
  | nil => rfl
  | cons f l ih =>
    rw [pushesTo_cons, ih fun g hg => h g (List.mem_cons_of_mem _ hg), List.append_nil]
    cases hf : f.push with
    | none => exact pushesTo_of_none hf n
    | some p => rw [pushesTo_of_some (w := p.1) (e := p.2) hf, if_neg (h f (List.mem_cons_self ..) p.1 p.2 hf)]

/-- Entries are pushed in order, and what waits is what is left to push. -/
theorem landList_pushes (t n : Nat) (l stay : List XResult) (x : Ctx) :
    ∃ more, (getW (landList t l stay x) n).entries = (getW x n).entries ++ more ∧
      more ++ pushesTo n (landList t l stay x).xres = pushesTo n stay ++ pushesTo n l := by
  refine landList_induction (t := t)
    (P := fun l stay x y => ∃ more, (getW y n).entries = (getW x n).entries ++ more ∧ more ++ pushesTo n y.xres = pushesTo n stay ++ pushesTo n l)
    (fun stay x => ⟨[], (List.append_nil _).symm, (List.append_nil _).symm⟩) (fun r l stay x y _ ih => ?_) (fun r l stay x y _ hp ih => ?_)
    (fun r l stay x y w e _ hp _ ih => ?_) (fun r l stay x y w e _ hp hw ih => ?_) l stay x
  · obtain ⟨more, he, hm⟩ := ih
    exact ⟨more, he, hm.trans (by rw [pushesTo_append, pushesTo_cons n r l, List.append_assoc])⟩
  · obtain ⟨more, he, hm⟩ := ih
    rw [getW_applyResult] at he
    exact ⟨more, he, hm.trans (by rw [pushesTo_map_yieldTo, pushesTo_cons n r l, pushesTo_of_none hp, List.nil_append])⟩
  · obtain ⟨more, he, hm⟩ := ih
    rw [getW_applyResult] at he
    exact ⟨more, he, hm.trans (by rw [pushesTo_append, pushesTo_map_yieldTo, pushesTo_cons n r l, List.append_assoc]; rfl)⟩
  · obtain ⟨more, he, hm⟩ := ih
    rw [pushesTo_map_yieldTo] at hm
    by_cases hn : w = n
    · subst hn
      refine ⟨e :: more, he.trans ?_, ?_⟩
      · show (tget ({} : Queue) (tput _ w _) w).entries ++ more = _
        rw [tget_tput_same, getW_applyResult]
        simp [pushEntry]
      · rw [pushesTo_eq_nil hw] at hm ⊢
        rw [pushesTo_cons w r l, pushesTo_of_some hp, if_pos rfl, List.cons_append, hm]
        rfl
    · refine ⟨more, he.trans ?_, hm.trans ?_⟩
      · show (tget ({} : Queue) (tput _ w _) n).entries ++ more = _
        rw [tget_tput_other _ _ _ (Ne.symm hn)]
        exact congrArg (fun q : Queue => q.entries ++ more) (getW_applyResult x r n)
      · rw [pushesTo_cons n r l, pushesTo_of_some hp, if_neg hn, List.nil_append]

/-! ## What stays in flight -/

/-- f is what is left in flight of e: its bytes may have been written since. -/
structure LeftOf (e f : XResult) : Prop where
  due : f.due = e.due
  push : f.push = e.push
  orFlags : f.orFlags = e.orFlags
  setFlags : f.setFlags = e.setFlags
  writes : f.writes.map (fun w => (w.1, w.2.2)) = e.writes.map (fun w => (w.1, w.2.2))

theorem leftOf_refl (e : XResult) : LeftOf e e := ⟨rfl, rfl, rfl, rfl, rfl⟩

theorem LeftOf.yieldTo {e f : XResult} (h : LeftOf e f) (r : XResult) : LeftOf e (yieldTo r f) := by
  refine ⟨h.due, h.push, h.orFlags, h.setFlags, Eq.trans ?_ h.writes⟩
  simp [Machine.yieldTo]

theorem landList_keeps {t : Nat} {e : XResult} (l stay : List XResult) (x : Ctx) (h : (∃ f ∈ stay, LeftOf e f) ∨ (e ∈ l ∧ t < e.due)) :
    ∃ f ∈ (landList t l stay x).xres, LeftOf e f := by
  have keep {stay : List XResult} (r : XResult) (h : ∃ f ∈ stay, LeftOf e f) : ∃ f ∈ stay.map (yieldTo r), LeftOf e f := by
    obtain ⟨f, hf, hl⟩ := h
    exact ⟨_, List.mem_map_of_mem hf, hl.yieldTo r⟩
  have next {r : XResult} {l stay : List XResult} (hd : r.due ≤ t) (h : (∃ f ∈ stay, LeftOf e f) ∨ (e ∈ r :: l ∧ t < e.due)) :
      (∃ f ∈ stay.map (yieldTo r), LeftOf e f) ∨ (e ∈ l ∧ t < e.due) := by
    rcases h with h | ⟨hm, ht⟩
    · exact .inl (keep r h)
    · rcases List.mem_cons.1 hm with rfl | hm
      · omega
      · exact .inr ⟨hm, ht⟩
  refine landList_induction (t := t) (P := fun l stay _ y => (∃ f ∈ stay, LeftOf e f) ∨ (e ∈ l ∧ t < e.due) → ∃ f ∈ y.xres, LeftOf e f)
    (fun stay x h => ?_) (fun r l stay x y _ ih h => ih ?_) (fun r l stay x y hd _ ih h => ih (next hd h))
    (fun r l stay x y w v hd _ _ ih h => ih ?_) (fun r l stay x y w v hd _ _ ih h => ih (next hd h)) l stay x h
  · exact h.resolve_right fun h => nomatch h.1
  · rcases h with ⟨f, hf, hl⟩ | ⟨hm, ht⟩
    · exact .inl ⟨f, List.mem_append_left _ hf, hl⟩
    · rcases List.mem_cons.1 hm with rfl | hm
      · exact .inl ⟨e, List.mem_append_right _ (List.mem_singleton_self e), leftOf_refl e⟩
      · exact .inr ⟨hm, ht⟩
  · exact (next hd h).imp_left fun ⟨f, hf, hl⟩ => ⟨f, List.mem_append_left _ hf, hl⟩

/-- f is late, or only its push is left, of one of the results D. -/
def LateOrPush (t : Nat) (D : List XResult) (f : XResult) : Prop :=
  t < f.due ∨ (f.writes = [] ∧ f.k = none ∧ f.orFlags = 0 ∧ f.setFlags = none ∧ ∃ e ∈ D, f.push = e.push ∧ e.push ≠ none)

theorem LateOrPush.yieldTo {t : Nat} {D : List XResult} {f : XResult} (h : LateOrPush t D f) (r : XResult) : LateOrPush t D (yieldTo r f) := by
  rcases h with h | ⟨hw, hk, ho, hs, hp⟩
  · exact .inl h
  · exact .inr ⟨by simp [Machine.yieldTo, hw], by simp [Machine.yieldTo, hk], ho, hs, hp⟩

theorem landList_left {t : Nat} {D : List XResult} (l stay : List XResult) (x : Ctx) (hD : ∀ e ∈ l, e.due ≤ t → e ∈ D)
    (hs : ∀ f ∈ stay, LateOrPush t D f) : ∀ f ∈ (landList t l stay x).xres, LateOrPush t D f := by
  have keep {stay : List XResult} (r : XResult) (h : ∀ f ∈ stay, LateOrPush t D f) : ∀ f ∈ stay.map (yieldTo r), LateOrPush t D f := by
    rintro _ hf
    obtain ⟨g, hg, rfl⟩ := List.mem_map.1 hf
    exact (h g hg).yieldTo r
  refine landList_induction (t := t)
    (P := fun l stay _ y => (∀ e ∈ l, e.due ≤ t → e ∈ D) → (∀ f ∈ stay, LateOrPush t D f) → ∀ f ∈ y.xres, LateOrPush t D f)
    (fun stay x _ h => h) (fun r l stay x y hd ih hD h => ih (List.forall_mem_cons.1 hD).2 ?_)
    (fun r l stay x y hd _ ih hD h => ih (List.forall_mem_cons.1 hD).2 (keep r h))
    (fun r l stay x y w v hd hp _ ih hD h => ih (List.forall_mem_cons.1 hD).2 ?_)
    (fun r l stay x y w v hd _ _ ih hD h => ih (List.forall_mem_cons.1 hD).2 (keep r h)) l stay x hD hs
  · exact fun f hf => (List.mem_append.1 hf).elim (h f) fun hf => List.mem_singleton.1 hf ▸ .inl hd
  · refine fun f hf => (List.mem_append.1 hf).elim (keep r h f) fun hf => ?_
    rw [List.mem_singleton.1 hf]
    exact .inr ⟨rfl, rfl, rfl, rfl, r, (List.forall_mem_cons.1 hD).1 hd, rfl, by simp [hp]⟩

/-- Where all are due, none stays. -/
theorem landList_all {t : Nat} (l : List XResult) (x : Ctx) (h : ∀ e ∈ l, e.due ≤ t) : (landList t l [] x).xres = [] := by
  refine landList_induction (t := t) (P := fun l stay _ y => (∀ e ∈ l, e.due ≤ t) → stay = [] → y.xres = [])
    (fun stay x _ h => h) (fun r l stay x y hd _ h => absurd hd ((List.forall_mem_cons.1 h).1).not_gt)
    (fun r l stay x y _ _ ih h hs => ih (List.forall_mem_cons.1 h).2 (by rw [hs]; rfl))
    (fun r l stay x y w v _ _ hne _ _ hs => absurd hs hne)
    (fun r l stay x y w v _ _ _ ih h hs => ih (List.forall_mem_cons.1 h).2 (by rw [hs]; rfl)) l [] x h rfl

/-- A context once what is due by cycle now has landed and X's clock is there. -/
def landedAt (now : Nat) (x : Ctx) : Ctx := { landBy now x with seqX := { (landBy now x).seqX with clock := now } }

theorem execXResultLand_nil {s : State} {c : Nat} (h : (getCtx s c).xres = []) : execXResultLand c s = .next s := by
  unfold execXResultLand
  dsimp only
  rw [h]

theorem execXResultLand_cons {s : State} {c : Nat} {r : XResult} {rest : List XResult} (h : (getCtx s c).xres = r :: rest) :
    execXResultLand c s = .next (setCtx s c (landedAt (max (getCtx s c).seqX.clock r.due) (getCtx s c))) := by
  unfold execXResultLand
  dsimp only
  rw [h]
  rfl

/-- Settles O30: landed_landList for what lands, landList_pushes for the queues, landList_keeps and landList_left for what stays in flight. -/
theorem xResultLands : Obligations.XResultLands := by
  intro s c x
  refine ⟨fun h => ⟨s, execXResultLand_nil h, rfl⟩, fun r rest h => ?_⟩
  · intro now due writes push
    have hl := landed_landList now x.xres [] x
    have hp := fun n => landList_pushes now n x.xres [] x
    have hk := fun e (he : e ∈ x.xres) (hd : now < e.due) => landList_keeps x.xres [] x (.inr ⟨he, hd⟩)
    have hleft := landList_left (D := due) x.xres [] x (fun e he hd => List.mem_filter.2 ⟨he, decide_eq_true hd⟩) (fun f hf => nomatch hf)
    have hall := landList_all (t := now) x.xres x
    refine ⟨_, execXResultLand_cons h, ?_⟩
    · have hy : getCtx (setCtx s c (landedAt now x)) c = landedAt now x := getCtx_setCtx ..
      change _ ∧ _
      rw [hy]
      have hseq : (landBy now x).seqX = x.seqX := (congrArg Ctx.seqX hl.frame :)
      refine ⟨rfl, fun _ => rfl, ?_, by rw [landedAt, hseq], hl.store, hl.mask, hl.flags, hl.token, fun h => ⟨hall h, fun n => ?_⟩, fun n => hp n, fun e he hd => ?_,
        hleft⟩
      · have hf := hl.frame
        change landBy now x = _ at hf
        unfold landedAt
        generalize landBy now x = y at hf ⊢
        rw [hf]
      · obtain ⟨more, he, hm⟩ := hp n
        rw [hall h] at hm
        exact he.trans (congrArg _ ((List.append_nil more).symm.trans hm))
      · obtain ⟨f, hf, hl⟩ := hk e he hd
        exact ⟨f, hf, hl.due, hl.push, hl.orFlags, hl.setFlags, hl.writes⟩

end Sys2Proof.Machine

/-! SUPPORT. Where the instructions of the sequencers complete (InstructionsComplete): a sequencer goes on after its instruction when what happened before
left its program counter, loop records, trap level and halt alone. -/

namespace Sys2Proof.Machine

/-! ## Going on after an instruction -/

/-- What a completing instruction looks at in its sequencer is the same. -/
structure SameControl (p q : SeqState) : Prop where
  pc : q.pc = p.pc
  lc : q.lc = p.lc
  tlevel : q.tlevel = p.tlevel
  halted : q.halted = p.halted

theorem sameControl_refl (q : SeqState) : SameControl q q := ⟨rfl, rfl, rfl, rfl⟩

theorem sameControl_of_eq {p q : SeqState} (h : q = p) : SameControl p q := h ▸ sameControl_refl q

theorem SameControl.trans {p q r : SeqState} (h : SameControl p q) (k : SameControl q r) : SameControl p r :=
  ⟨k.pc.trans h.pc, k.lc.trans h.lc, k.tlevel.trans h.tlevel, k.halted.trans h.halted⟩

theorem sameControl_withReg (q : SeqState) (r : Reg) (v : Word) : SameControl q (withReg q r v) := by
  unfold withReg
  split <;> exact ⟨rfl, rfl, rfl, rfl⟩

theorem sameControl_wr (s : State) (r : Reg) (v : Word) : SameControl (curSeq s) (curSeq (wr s r v)) := by
  rw [wr, curSeq_setCurSeq]
  exact sameControl_withReg ..

theorem sameControl_wrAt (s : State) (r : Reg) (v : Word) (n : Nat) : SameControl (curSeq s) (curSeq (wrAt s r v n)) := by
  rw [wrAt, curSeq_setCurSeq]
  refine SameControl.trans ?_ (sameControl_withReg ..)
  exact ⟨rfl, rfl, rfl, rfl⟩

theorem retires_finish {s u : State} (h : SameControl (curSeq s) (curSeq u)) (len n : Nat) : Retires s len (finish len n u) := by
  have hpc := (fallThrough_congr (curSeq s) (curSeq u) (curSeq u).pc.toNat len h.lc h.tlevel).1
  rw [finish_eq, Retires, curSeq_after]
  refine ⟨hpc.trans (by rw [h.pc]), rfl, h.halted⟩

theorem retires_takeFree {s t : State} {len : Nat} (h : Retires s len t) (n : Nat) : Retires s len (takeFree t n) := h

/-- An outcome after which control goes on. -/
structure GoesOn (s : State) (len : Nat) (r : Res) : Prop where
  retires : ∃ t, r = .next t ∧ Retires s len t

theorem goesOn_finish {s u : State} (h : SameControl (curSeq s) (curSeq u)) (len n : Nat) : GoesOn s len (.next (finish len n u)) :=
  ⟨⟨_, rfl, retires_finish h len n⟩⟩

theorem goesOn_finish_takeFree {s u : State} (h : SameControl (curSeq s) (curSeq u)) (len n k : Nat) :
    GoesOn s len (.next (takeFree (finish len n u) k)) := ⟨⟨_, rfl, retires_takeFree (retires_finish h len n) k⟩⟩

/-- X goes on from a context with its sequencer as before. -/
theorem sameControl_setCurCtx {s : State} {x : Ctx} (hs : s.cur.2 = .X) (h : x.seqX = (curCtx s).seqX) : SameControl (curSeq s) (curSeq (setCurCtx s x)) :=
  sameControl_of_eq (by rw [curSeq_setCurCtx, curSeq_eq, hs]; exact h)

/-! ## X's vector instructions -/

theorem goesOn_of_xIssued {s t : State} {r : Res} {srcs : List Opnd} {q : XQ} {ds : List Reg} {o : XResult} (hs : s.cur.2 = .X) (hr : r = .next t)
    (h : XIssued s t srcs q ds o) : GoesOn s 2 r := by
  obtain ⟨⟨hframe, _⟩, _, _, _, hpc, _, _, hwait, _, hrest⟩ := h
  have hcur : t.cur = s.cur := (congrArg State.cur hframe :)
  have hx : (xContext s).seqX = curSeq s := by rw [xContext_seqX, curSeq_eq, hs]; rfl
  have ht : curSeq t = (curCtx t).seqX := by rw [curSeq_eq, hcur, hs]; rfl
  rw [hx] at hpc hrest
  rw [← ht] at hpc hwait hrest
  exact ⟨⟨t, hr, hpc, hwait, (congrArg SeqState.halted hrest :)⟩⟩

section
variable {s : State} {srcs : List Opnd} {d : Opnd}

theorem goesOn_opX (h : XReady s srcs d) (bound : Nat) (q : XQ) (f : State → List Src → Mask → XOut) : GoesOn s 2 (opX bound srcs d q f s) := by
  obtain ⟨t, ht, hi⟩ := opX_issues bound srcs d q f s h
  exact goesOn_of_xIssued h.1 ht hi

theorem goesOn_opXk (hs : s.cur.2 = .X) (hq : queuesReady (xContext s) srcs = true) (bound : Nat) (kd : BitVec 3) (q : XQ)
    (f : State → List Src → Mask × LaneFlags) : GoesOn s 2 (opXk bound srcs kd q f s) := by
  obtain ⟨r, t, ht, hi, _⟩ := opXk_issues bound srcs kd q f s hs hq
  exact goesOn_of_xIssued hs ht hi

theorem goesOn_opXg (hs : s.cur.2 = .X) (hq : queuesReady (xContext s) srcs = true) (bound : Nat) (g : Reg) (q : XQ)
    (f : State → List Src → Mask → Word × Mask) : GoesOn s 2 (opXg bound srcs g q f s) := by
  obtain ⟨r, t, ht, _, hi, _⟩ := opXg_issues bound srcs g q f s hs hq
  exact goesOn_of_xIssued hs ht hi

theorem goesOn_opElems (h : XReady s srcs d) (bound w : Nat) (sel : Sel) (q : XQ) (op : Nat → Nat → Nat → Nat × Flags) :
    GoesOn s 2 (opElems bound w sel srcs d q op s) := goesOn_opX h ..

theorem goesOn_opInt (h : XReady s srcs d) (bound : Nat) (f : IFmt) (sat : Bool) (sel : Sel) (q : XQ) (op : Int → Int → Int → Int) :
    GoesOn s 2 (opInt bound f sat sel srcs d q op s) := goesOn_opElems h ..

theorem goesOn_opFloat (h : XReady s srcs d) (bound : Nat) (f : FFmt) (sel : Sel) (q : XQ) (op : Val → Val → Val → Nat × Flags) :
    GoesOn s 2 (opFloat bound f sel srcs d q op s) := goesOn_opElems h ..

theorem goesOn_opLanes (h : XReady s srcs d) (bound : Nat) (q : XQ) (op : BitVec 32 → BitVec 32 → BitVec 32 × Flags) :
    GoesOn s 2 (opLanes bound srcs d q op s) := goesOn_opX h ..

theorem goesOn_opConvert {a : Opnd} (h : XReady s [a] d) (ws wd : Nat) (sel : Sel) (q : XQ) (cvt : Nat → Nat × Flags) :
    GoesOn s 2 (opConvert ws wd sel d a q cvt s) := goesOn_opX h ..

theorem goesOn_opCompare {a b : Opnd} (hs : s.cur.2 = .X) (hq : queuesReady (xContext s) [a, b] = true) (bound w : Nat) (sel : Sel) (kd : BitVec 3) (q : XQ)
    (p : Nat → Nat → Bool) : GoesOn s 2 (opCompare bound w sel kd a b q p s) := goesOn_opXk hs hq ..

theorem goesOn_opExtreme {a : Opnd} (h : XReady s [a] d) (largest : Bool) (f : DFmt) (q : XQ) : GoesOn s 2 (opExtreme largest f d a q s) := goesOn_opX h ..

end

/-! CBX notes an access of bank 7 before it issues, which what lands does not show. -/

/-- A context with another record of out-of-range accesses. -/
def setOor (w : Word) (o : OorCycle) (x : Ctx) : Ctx := { x with rsoor := w, oor := o }

theorem programWrite_setOor (w : Word) (o : OorCycle) (x : Ctx) (n : Nat) (m v : Granule) :
    programWrite (setOor w o x) n m v = setOor w o (programWrite x n m v) := by
  have hg : writeGranule (setOor w o x) n m v = setOor w o (writeGranule x n m v) := by
    have hj : jobWrites (setOor w o x) n = jobWrites x n := rfl
    unfold writeGranule
    rw [hj]
    dsimp only
    split <;> rfl
  unfold programWrite
  rw [hg]
  dsimp only
  split <;> rfl

theorem foldl_programWrite_setOor (w : Word) (o : OorCycle) (ws : List (Nat × Granule × Granule)) (x : Ctx) :
    ws.foldl (fun x (n, m, v) => programWrite x n m v) (setOor w o x) = setOor w o (ws.foldl (fun x (n, m, v) => programWrite x n m v) x) := by
  induction ws generalizing x with
  | nil => rfl
  | cons e ws ih =>
    rw [List.foldl_cons, List.foldl_cons, ← ih, ← programWrite_setOor]

theorem applyResult_setOor (w : Word) (o : OorCycle) (x : Ctx) (r : XResult) : applyResult (setOor w o x) r = setOor w o (applyResult x r) := by
  have hm (y : Ctx) : landMask (setOor w o y) r = setOor w o (landMask y r) := by
    unfold landMask
    cases r.k with
    | none => rfl
    | some e => dsimp only; split <;> rfl
  have hf (y : Ctx) : landFlags (setOor w o y) r = setOor w o (landFlags y r) := by
    unfold landFlags
    cases r.setFlags <;> rfl
  rw [applyResult_eq, applyResult_eq, foldl_programWrite_setOor, hm, hf]
  rfl

theorem landList_setOor (w : Word) (o : OorCycle) (t : Nat) (l stay : List XResult) (x : Ctx) :
    landList t l stay (setOor w o x) = setOor w o (landList t l stay x) := by
  induction l generalizing stay x with
  | nil => rfl
  | cons r l ih =>
    have hp (v : Nat) (e : QEntry) : { setOor w o (applyResult x r) with
        w := tput (setOor w o (applyResult x r)).w v (pushEntry (getW (setOor w o (applyResult x r)) v) e) } =
        setOor w o { applyResult x r with w := tput (applyResult x r).w v (pushEntry (getW (applyResult x r) v) e) } := rfl
    rw [landList, landList, applyResult_setOor]
    dsimp only
    split
    · cases r.push with
      | none => exact ih ..
      | some p =>
        dsimp only
        split
        · exact ih ..
        · rw [hp]; exact ih ..
    · exact ih ..

theorem xContext_noted {s : State} {y : Ctx} (hs : s.cur.2 = .X) (h : OorOnly (curCtx s) y) : OorOnly (xContext s) (xContext (setCurCtx s y)) := by
  obtain ⟨w, o, rfl⟩ := h
  refine ⟨w, o, ?_⟩
  rw [xContext, xContext, curSeq_setCurCtx, curCtx_setCurCtx, curSeq_eq, hs]
  exact landList_setOor ..

theorem xReady_noted {s : State} {y : Ctx} (h : OorOnly (curCtx s) y) {srcs : List Opnd} {d : Opnd} (hr : XReady s srcs d) :
    XReady (setCurCtx s y) srcs d := by
  obtain ⟨hs, hq, hd⟩ := hr
  obtain ⟨w, o, e⟩ := xContext_noted hs h
  refine ⟨hs, ?_, ?_⟩
  · rw [e]; exact hq
  · rw [e]; exact hd

theorem curSeq_noted {s : State} {y : Ctx} (h : OorOnly (curCtx s) y) : curSeq (setCurCtx s y) = curSeq s := by
  obtain ⟨w, o, rfl⟩ := h
  rw [curSeq_setCurCtx, curSeq_eq]
  cases s.cur.2 <;> rfl

theorem GoesOn.noted {s : State} {y : Ctx} {len : Nat} {r : Res} (k : GoesOn (setCurCtx s y) len r) (h : OorOnly (curCtx s) y) : GoesOn s len r := by
  obtain ⟨t, ht, hret⟩ := k.retires
  rw [Retires, curSeq_noted h] at hret
  exact ⟨⟨t, ht, hret⟩⟩

theorem goesOn_cbx {s : State} {d a : Opnd} (h : XReady s [a] d) (w : CbBits) (t : BitVec 3) (q : XQ) : GoesOn s 2 (execCbx w t d a q s) := by
  have hn := noteBank7_only s.cycle (curCtx s) (tableGranule t.toNat) true
  unfold execCbx
  rw [if_neg (by simp [h.2.1, h.2.2])]
  exact (goesOn_opX (xReady_noted hn h) 3 q _).noted hn

theorem goesOn_cbld {s : State} {a : Opnd} (hs : s.cur.2 = .X) (hq : queuesReady (xContext s) [a] = true) (t : BitVec 3) (q : XQ) :
    GoesOn s 2 (execCbld t a q s) := by
  unfold execCbld
  dsimp only
  rw [hq]
  refine goesOn_finish_takeFree (sameControl_setCurCtx hs ?_) ..
  obtain ⟨w, o, hx⟩ := (noteX_only s (xContext s) a true).trans (noteBank7_only s.cycle _ (tableGranule t.toNat) false)
  rw [popQueues_eq, hx]
  exact xContext_seqX s

/-! ## The instructions of the matrix path -/

theorem OorOnly.seqX {x y : Ctx} (h : OorOnly x y) : y.seqX = x.seqX := by
  obtain ⟨w, o, rfl⟩ := h
  rfl

theorem landBy_seqX (t : Nat) (x : Ctx) : (landBy t x).seqX = x.seqX := (congrArg Ctx.seqX (landed_landList t x.xres [] x).frame :)

theorem writeTable_seqX (now : Nat) (x : Ctx) (ws : List (Nat × Granule × Granule)) (fl : LaneFlags) : (writeTable now x ws fl).seqX = x.seqX := by
  unfold writeTable
  dsimp only
  split
  · exact landBy_seqX ..
  · exact (recordOor_only ..).seqX

theorem goesOn_mcfg {s : State} (hs : s.cur.2 = .X) (w : BitVec 5) (g : Reg) (q : XQ) : GoesOn s 2 (execMcfg w g q s) :=
  goesOn_finish (sameControl_setCurCtx hs ((writeTable_seqX ..).trans (xContext_seqX s))) ..

theorem popQueues_seqX (x : Ctx) (os : List Opnd) : (popQueues x os).seqX = x.seqX := by rw [popQueues_eq]

theorem goesOn_mcfgl {s : State} {v : Opnd} (hs : s.cur.2 = .X) (hq : queuesReady (xContext s) [v] = true) (q : XQ) : GoesOn s 2 (execMcfgl v q s) := by
  unfold execMcfgl
  rw [if_neg (by simp [hq])]
  refine goesOn_finish_takeFree (sameControl_setCurCtx hs ?_) ..
  exact (writeTable_seqX ..).trans ((popQueues_seqX ..).trans ((noteX_only ..).seqX.trans (xContext_seqX s)))

theorem xArrival_seqX (now : Nat) (x : Ctx) : (xArrival now x).1.seqX = x.seqX := by
  unfold xArrival
  split
  · split <;> rfl
  · rfl

theorem goesOn_mgo {s : State} (hs : s.cur.2 = .X) (hn : (xContext s).nestRun = none ∨ (xContext s).nestPend = none)
    (hh : tfind (xContext s).slots (nHslot (latchTable (xContext s) s.freeCtr)) ≠ none) (hb : nestBad (latchTable (xContext s) s.freeCtr) = false)
    (ha : nestAlias (latchTable (xContext s) s.freeCtr) (xContext s).tview (xContext s).aview (footprint (xContext s)) = false) (q : XQ) :
    GoesOn s 2 (execMgo q s) := by
  have hx : (xArrival s.cycle (xContext s)).1.seqX = (curCtx s).seqX := (xArrival_seqX ..).trans (xContext_seqX s)
  unfold execMgo
  dsimp only
  rw [if_neg (by rcases hn with h | h <;> simp [h]), if_neg (by simpa [Option.isNone_iff_eq_none] using hh), if_neg (by simp [hb]), if_neg (by simp [ha])]
  refine goesOn_finish_takeFree (sameControl_setCurCtx hs ?_) ..
  split <;> exact hx

theorem goesOn_mwait {s : State} (hs : s.cur.2 = .X) (hn : (xContext s).nestRun = none) (hp : (xContext s).nestPend = none) (hr : (xContext s).rjobs = [])
    (d : Reg) (q : XQ) : GoesOn s 2 (execMwait d q s) := by
  unfold execMwait
  dsimp only
  rw [if_neg (by simp [hn, hp, hr])]
  refine goesOn_finish (.trans (sameControl_setCurCtx hs ?_) (sameControl_wr ..)) ..
  exact xContext_seqX s

theorem oorOnly_foldl {α : Type} {f : Ctx → α → Ctx} (hf : ∀ x a, OorOnly x (f x a)) (l : List α) (x : Ctx) : OorOnly x (l.foldl f x) := by
  induction l generalizing x with
  | nil => exact .refl x
  | cons a l ih => exact (hf x a).trans (ih _)

theorem goesOn_acmp {s : State} (hs : s.cur.2 = .X) (hn : (xContext s).nestRun = none) (hp : (xContext s).nestPend = none) (hr : (xContext s).rjobs = [])
    (p : Pred) (raw : Bool) (kd : BitVec 3) (a b : Opnd) (col : BitVec 8) (q : XQ) : GoesOn s 2 (execAcmp p raw kd a b col q s) := by
  have hj : jobsOf (xContext s) = [] := by simp [jobsOf, hn, hp, hr]
  have note (x : Ctx) (t : Tile) (l : List Nat) : OorOnly x
      (l.foldl (fun x j => noteTile s.cycle x t (dataOff j col.toNat) 24 true 0) (noteTile s.cycle x t 0 8 true 0)) :=
    (noteSpan_only ..).trans (oorOnly_foldl (fun _ _ => noteSpan_only ..) l _)
  unfold execAcmp
  dsimp only
  rw [if_neg (by simp [hj])]
  refine goesOn_finish_takeFree (sameControl_setCurCtx hs ?_) ..
  exact ((note ..).trans (note ..)).seqX.trans (xContext_seqX s)

theorem goesOn_opResolver {s : State} (hs : s.cur.2 = .X) (hr : (xContext s).rjobs.length < 8) (kind : RKind) (tile : Opnd) (h : BitVec 6) (q : XQ) :
    GoesOn s 2 (opResolver kind tile h q s) := by
  unfold opResolver
  dsimp only
  rw [if_neg hr.not_ge]
  refine goesOn_finish (sameControl_setCurCtx hs ?_) ..
  exact (xArrival_seqX ..).trans (xContext_seqX s)

/-- Tiles of one address, or apart, do not overlap. -/
theorem tilesOverlap_false {s : State} {v a : Opnd} {h : BitVec 6} {t0 : Opnd → Nat}
    (ht : ∀ o, t0 o = 16 * ((xContext s).aview.toNat % 2 ^ 16) + 16 * ((xContext s).aview.toNat / 2 ^ 16 % 2 ^ 16) * opIndex s o)
    (hap : t0 v = t0 a ∨ t0 a + tileExtent (h.toNat + 1) ≤ t0 v ∨ t0 v + tileExtent (h.toNat + 1) ≤ t0 a) : tilesOverlap s v a h = false := by
  have hv : (xContext s).aview = (curCtx s).aview := (congrArg Ctx.aview (landed_landList _ (curCtx s).xres [] (curCtx s)).frame :)
  have haddr (o : Opnd) : viewAddr (curCtx s).aview (opIndex s o) = t0 o := by
    rw [ht, hv, viewAddr, fieldOf, fieldOf, Nat.shiftRight_zero, Nat.shiftRight_eq_div_pow]
  unfold tilesOverlap tileRange tileAddr bytesMeet
  dsimp only
  rw [haddr, haddr]
  generalize tileExtent (h.toNat + 1) = n at hap ⊢
  by_cases he : t0 v = t0 a
  · simp [he]
  · rcases hap.resolve_left he with hle | hle
    · simp [hle.not_gt]
    · simp [hle.not_gt]

/-! ## System registers and translation -/

theorem retires_of_seqFrom {s t : State} {x : Ctx} {len n : Nat} {ds : List Reg} (h : SeqFrom s x len n ds t) {u : State}
    (hc : SameControl (curSeq u) (ctxSeq x s.cur.2)) : Retires u len t := by
  obtain ⟨_, _, hpc, _, _, hwait, _, hrest⟩ := h
  have hp := (fallThrough_congr (curSeq u) (ctxSeq x s.cur.2) (ctxSeq x s.cur.2).pc.toNat len hc.lc hc.tlevel).1
  exact ⟨hpc.trans (hp.trans (by rw [hc.pc])), hwait, (congrArg SeqState.halted hrest :).trans hc.halted⟩

theorem ctxSeq_sysContext (s : State) : ctxSeq (sysContext s) s.cur.2 = curSeq s := by
  unfold sysContext
  split
  · exact ctxSeq_landList ..
  · rfl

/-- MTS goes on, in a sequencer that it has left as far as control is concerned like that of u. -/
theorem mts_goesOn (a : Reg) (s : State) {n : Nat} {r : SysReg} (hn : n < 4096) (hr : sysReg n = some r) (hq : writableBy s.cur.2 r = true)
    (ht : KeepsTime (sysContext s) (sysWrite s.cycle (sysContext s) s.cur.2 (rd s a) r) s.cur.2) {u : State}
    (hc : SameControl (curSeq u) (ctxSeq (sysWrite s.cycle (sysContext s) s.cur.2 (rd s a) r) s.cur.2)) :
    Completes (.mts a (BitVec.ofNat 12 n)) s (Retires u 1) := by
  obtain ⟨t, hexec, hfrom⟩ := mts_writes a s hn hr hq rfl ht
  refine ⟨t, hexec, retires_of_seqFrom hfrom (hc.trans ?_)⟩
  rw [ctxSeq_setCtxSeq]
  exact ⟨rfl, rfl, rfl, rfl⟩

/-- A sequencer with a trap register written. -/
theorem sameControl_setTrapBank (q : SeqState) (b : Nat) (t : TrapBank) : SameControl q (setTrapBank q b t) := by
  unfold setTrapBank
  split <;> exact ⟨rfl, rfl, rfl, rfl⟩

theorem mts_goesOn_trapBank (a : Reg) (s : State) {n b : Nat} {r : SysReg} {t : TrapBank} (hn : n < 4096) (hr : sysReg n = some r)
    (hq : writableBy s.cur.2 r = true)
    (hw : sysWrite s.cycle (sysContext s) s.cur.2 (rd s a) r = setCtxSeq (sysContext s) s.cur.2 (setTrapBank (ctxSeq (sysContext s) s.cur.2) b t)) :
    Completes (.mts a (BitVec.ofNat 12 n)) s (Retires s 1) := by
  refine mts_goesOn a s hn hr hq ?_ ?_
  · rw [hw]
    refine keepsTime_setCtxSeq ?_ ?_ <;> unfold setTrapBank <;> split <;> rfl
  · rw [hw, ctxSeq_setCtxSeq, ctxSeq_sysContext]
    exact sameControl_setTrapBank ..

theorem mts_goesOn_lc (a : Reg) (s : State) {n : Nat} (hn : n < 4) : Completes (.mts a (BitVec.ofNat 12 (8 + n))) s
    (Retires (setCurSeq s { curSeq s with lc := tput (curSeq s).lc n { tget {} (curSeq s).lc n with count := (rd s a).setWidth 32 } }) 1) := by
  refine mts_goesOn a s (by omega) (sysReg_lc hn) rfl (keepsTime_setCtxSeq rfl rfl) ?_
  show SameControl _ (ctxSeq (setCtxSeq (sysContext s) s.cur.2 _) s.cur.2)
  rw [ctxSeq_setCtxSeq, ctxSeq_sysContext, curSeq_setCurSeq]
  exact ⟨rfl, rfl, rfl, rfl⟩

theorem mts_goesOn_X (a : Reg) (s : State) {n : Nat} {r : SysReg} (hs : s.cur.2 = .X) (hn : n < 4096) (hr : sysReg n = some r) (hq : writableBy .X r = true)
    (hk : ctxSeq (sysWrite s.cycle (sysContext s) s.cur.2 (rd s a) r) s.cur.2 = ctxSeq (sysContext s) s.cur.2) :
    Completes (.mts a (BitVec.ofNat 12 n)) s (Retires s 1) :=
  mts_goesOn a s hn hr ((congrArg (writableBy · r) hs).trans hq) (keepsTime_of_ctxSeq hk) (sameControl_of_eq (hk.trans (ctxSeq_sysContext s)))

theorem goesOn_tlbi {s : State} (hk : (getPart s (curPart s)).ktlbi = true) (ho : ownAccessesSeen s = true)
    (hu : ∀ va es, accessUses s (curPart s) va es = false) (a b : Reg) : GoesOn s 1 (execTlbi a b s) := by
  unfold execTlbi
  dsimp only
  rw [if_neg (by simp [hk]), if_neg (by simp [ho]), if_neg (by simp [hu])]
  refine goesOn_finish (sameControl_of_eq ?_) ..
  exact curSeq_congr rfl rfl

theorem probe_ok {s : State} {d p : Nat} {a : Word} {who : Option Translator}
    (h : (∀ c, lookup s d p a.toNat who ≠ .error c) ∨ 0xFF_0000_0000_0000 ≤ a.toNat) : ∃ v, probe s d p a who = .ok v := by
  unfold probe
  by_cases h1 : fieldOf a 56 8 ≠ 0
  · exact ⟨_, if_pos h1⟩
  rw [if_neg h1]
  by_cases h2 : inAperture a.toNat = true
  · exact ⟨_, if_pos h2⟩
  rw [if_neg h2]
  by_cases h3 : fieldOf a 48 8 = 0xFF
  · exact ⟨_, if_pos h3⟩
  rw [if_neg h3]
  have hl : ∀ c, lookup s d p a.toNat who ≠ .error c := h.resolve_right fun hge => h3 (by
    have hlt := a.isLt
    simp only [fieldOf, Nat.shiftRight_eq_div_pow, not_not] at h1 ⊢
    omega)
  cases hw : lookup s d p a.toNat who with
  | absent => exact ⟨_, rfl⟩
  | bad => exact ⟨_, rfl⟩
  | error c => exact absurd hw (hl c)
  | leaf e n => exact ⟨_, rfl⟩

theorem goesOn_tlbs {s : State} {a : Reg}
    (h : (∀ c, lookup s (curDie s) (curPart s) (rd s a).toNat (curTlb s) ≠ .error c) ∨ 0xFF_0000_0000_0000 ≤ (rd s a).toNat) (d : Reg) :
    GoesOn s 1 (execTlbs d a s) := by
  obtain ⟨v, hv⟩ := probe_ok h
  have hc := onlyCounting_cacheAccess s (curDie s) (curPart s) (fieldOf (rd s a) 0 56) 1 (curTlb s)
  unfold execTlbs
  rw [hv]
  exact goesOn_finish_takeFree (.trans (sameControl_of_eq (curSeq_congr hc.cores (congrArg State.cur hc.frame :))) (sameControl_wrAt ..)) ..

/-! ## Tokens, tickets, handles and fences -/

theorem tokenWord_noted {s : State} {y : Ctx} (h : OorOnly (curCtx s) y) (hb : bitOf (footprint (curCtx s)).toNat 7 = false) :
    tokenWord (setCurCtx s y) y = tokenWord s (curCtx s) := by
  obtain ⟨w, o, rfl⟩ := h
  have hf : footprint { curCtx s with rsoor := w, oor := o } = footprint (curCtx s) := rfl
  rw [tokenWord, tokenWord, hf, hb]
  rfl

theorem goesOn_tokw {s : State} {d : Reg} (h : (rd s d).toNat ≤ tokenWord s (curCtx s)) : GoesOn s 2 (execTokw d s) := by
  have hn := recordOor_only s.cycle (curCtx s) (16 * tokenGranule) true false 5
  have hseq (u : State) (hu : curSeq u = curSeq s) : GoesOn s 2 (.next (finish 2 1 (if (curCtx u).tokenBad then takeFree u 1 else u))) := by
    refine goesOn_finish (sameControl_of_eq ?_) ..
    split
    · exact hu
    · exact hu
  unfold execTokw
  dsimp only
  by_cases hb : bitOf (footprint (curCtx s)).toNat 7 = true
  · rw [if_pos hb, if_pos h]
    exact hseq s rfl
  · rw [if_neg hb]
    have hr : rd (setCurCtx s (recordOor s.cycle (curCtx s) (16 * tokenGranule) true false 5)) d = rd s d := congrArg (regOf · d) (curSeq_noted hn)
    rw [hr, curCtx_setCurCtx, tokenWord_noted hn (Bool.eq_false_iff.2 hb), if_pos h]
    have hg := hseq _ (curSeq_noted hn)
    rwa [curCtx_setCurCtx] at hg

theorem goesOn_jwait {s : State} {d : Reg} (h : tfind (curCtx s).tickets (rd s d).toNat = none) : GoesOn s 2 (execJwait d s) := by
  unfold execJwait
  dsimp only
  rw [h]
  exact goesOn_finish (sameControl_wr ..) ..

/-- What releasing a slot leaves of the context and of the executing sequencer's place. -/
theorem releaseSlot_frame (s : State) (p : Nat) (x : Ctx) (slot : Nat) :
    (releaseSlot s p x slot).1.cur = s.cur ∧ ∃ l, (releaseSlot s p x slot).2 = { x with slots := l } := by
  unfold releaseSlot
  cases tfind x.slots slot with
  | none => exact ⟨rfl, x.slots, rfl⟩
  | some h =>
    dsimp only
    cases h.batch <;> exact ⟨rfl, _, rfl⟩

theorem goesOn_hrel {s : State} {slot : BitVec 4} (hs : tfind (curCtx s).slots slot.toNat ≠ none) (hb : slotBusy s s.cur.1 slot.toNat = false) :
    GoesOn s 2 (execHrel slot s) := by
  obtain ⟨hcur, l, hx⟩ := releaseSlot_frame s (curPart s) (curCtx s) slot.toNat
  unfold execHrel
  rw [if_neg (by simpa [Option.isNone_iff_eq_none] using hs), if_neg (by simp [hb])]
  show GoesOn s 2 (.next (finish 2 1 (setCurCtx (releaseSlot s (curPart s) (curCtx s) slot.toNat).1 (releaseSlot s (curPart s) (curCtx s) slot.toNat).2)))
  refine goesOn_finish (sameControl_of_eq ?_) ..
  rw [curSeq_setCurCtx, hcur, hx, curSeq_eq]
  exact ctxSeq_of_seqs rfl rfl rfl _

/-- Where no store is in flight, drawing acknowledgements asks at most for those of copies to other packages. -/
theorem drawAcks_of_nil {s : State} (h : (curCtx s).sacc = []) (sc : Scope) :
    drawAcks s s.cur.1 sc = s ∨
      (curCtx s).bmvFar = true ∧ ∃ far, drawAcks s s.cur.1 sc = takeFree (setCurCtx s { curCtx s with sacc := [], bmvFar := far }) 1 := by
  have hx : getCtx s s.cur.1 = curCtx s := rfl
  unfold drawAcks askFar
  split
  · dsimp only
    rw [hx, h]
    by_cases hf : (curCtx s).bmvFar = true
    · rw [if_pos (.inl hf)]
      exact .inr ⟨hf, _, rfl⟩
    · rw [if_neg (by simp [hf])]
      exact .inl rfl
  · exact .inl rfl

/-- Then the sequencer stays, and every store is visible. -/
theorem drawAcks_keeps {s : State} (h : (curCtx s).sacc = []) (sc : Scope) :
    curSeq (drawAcks s s.cur.1 sc) = curSeq s ∧ (curCtx (drawAcks s s.cur.1 sc)).sacc = [] := by
  rcases drawAcks_of_nil h sc with e | ⟨_, far, e⟩
  · rw [e]
    exact ⟨rfl, h⟩
  · rw [e, curSeq_takeFree, curSeq_setCurCtx, curCtx_takeFree, curCtx_setCurCtx, curSeq_eq]
    exact ⟨ctxSeq_of_seqs rfl rfl rfl _, rfl⟩

theorem allVisible_of_nil {s : State} {c : Nat} (h : (getCtx s c).sacc = []) (sc : Scope) : allVisible s c sc = true := by
  rw [allVisible, h]
  rfl

theorem curSeq_catchUp (s : State) (d : Nat) (need : List Nat) : curSeq (catchUp s d need) = curSeq s := by
  obtain ⟨l, h⟩ := catchUp_eq s d need
  rw [h]
  exact curSeq_congr rfl rfl

theorem goesOn_fence {s : State} (h : (curCtx s).sacc = []) (k : AKind) (sc : Scope) : GoesOn s 2 (execFence k sc s) := by
  have hu : ∃ u, (if kindRel k then drawAcks s s.cur.1 sc else s) = u ∧ curSeq u = curSeq s ∧ (curCtx u).sacc = [] ∧ u.cur = s.cur := by
    split
    · refine ⟨_, rfl, (drawAcks_keeps h sc).1, (drawAcks_keeps h sc).2, ?_⟩
      rcases drawAcks_of_nil h sc with e | ⟨_, far, e⟩
      · rw [e]
      · rw [e]; rfl
    · exact ⟨s, rfl, rfl, h, rfl⟩
  obtain ⟨u, hu, hseq, hnil, hcur⟩ := hu
  have hv : allVisible u s.cur.1 sc = true := allVisible_of_nil (hcur ▸ hnil) sc
  have ha : atomicsReturned (curCtx u) = true := by rw [atomicsReturned, hnil]; rfl
  unfold execFence
  dsimp only
  rw [hu, hcur, hv, ha, Bool.or_true, Bool.or_true, Bool.and_true, if_pos rfl]
  refine goesOn_finish (sameControl_of_eq ?_) ..
  split
  · exact (curSeq_catchUp ..).trans hseq
  · exact hseq

theorem goesOn_bfen {s : State} (h : (curCtx s).sacc = []) (hst : (curCtx s).bmvStamps = []) (hf : (curCtx s).bmvFar = false)
    (hp : bmvPending s s.cur.1 = false) (sc : Scope) : GoesOn s 2 (execBfen sc s) := by
  have hd : drawAcks s s.cur.1 sc = s := (drawAcks_of_nil h sc).resolve_right fun ⟨ht, _⟩ => by rw [hf] at ht; exact nomatch ht
  have hv : allVisible s s.cur.1 sc = true := allVisible_of_nil h sc
  have hs : stampsVisible s (curDie s) sc [] = true := by cases sc <;> rfl
  unfold execBfen
  dsimp only
  rw [hd, hp, hv, hst, hs, hf]
  rw [if_neg Bool.false_ne_true, if_pos (by simp)]
  exact goesOn_finish (sameControl_refl _) 2 1

/-! ## The statement -/

/-- Settles O59: each instruction through the lemma of its shape that says where it goes on. -/
theorem instructionsComplete : Obligations.InstructionsComplete := by
  refine ⟨?_, ?_, ?_, ?_⟩
  · intro f di si ff df sf fm cb r p sat sel d a b c kd ka kb t op gd ga gb q s Goes Into
    refine ⟨fun h => ?vadd, fun h => ?vsub, fun h => ?vmul, fun h => ?vmulh, fun h => ?vmin, fun h => ?vmax, fun h => ?vabs, fun h => ?vneg,
      fun h => ?vmad, fun h => ?vand, fun h => ?vor, fun h => ?vxor, fun h => ?vandn, fun h => ?vshl, fun h => ?vshr, fun h => ?vsra, fun h => ?vsat,
      fun h => ?vtacc, fun h => ?tunp, fun h => ?vsel, fun h => ?vfadd, fun h => ?vfsub, fun h => ?vfmul, fun h => ?vfma, fun h => ?vfnma,
      fun h => ?vfmin, fun h => ?vfmax, fun h => ?vfcls, fun h => ?vfdiv, fun h => ?vrcp, fun h => ?vrsq, fun h => ?vexp2, fun h => ?vlog2,
      fun h => ?cvtff, fun h => ?cvtfi, fun h => ?cvtif, fun h => ?cvtii, fun h => ?vpack, fun h => ?vunpk, fun h => ?cbx, fun h => ?vmov,
      fun h => ?vbcst, fun h => ?vidx, fun h => ?vperm, fun h => ?vrot, fun h => ?vgth, fun h => ?vins, fun h => ?vrsum, fun h => ?vrmax,
      fun h => ?vrmin, fun h => ?vmscl, fun hs hq => ?vcmp, fun hs hq => ?vfcmp, fun hs hq => ?cbld, fun hs hq => ?vsct, fun hs hq => ?vxtr,
      fun hs hq => ?vmcnt, fun hs hq => ?kop, fun hs hq => ?kset⟩
    case vadd | vsub | vmul | vmulh | vmin | vmax | vabs | vneg | vmad =>
      dsimp only [Completes, exec]
      exact (goesOn_opInt h ..).retires
    case vand | vor | vxor | vandn | vsat | tunp =>
      dsimp only [Completes, exec]
      exact (goesOn_opLanes h ..).retires
    case vshl | vshr | vsra | vfmin | vfmax | vfcls =>
      dsimp only [Completes, exec]
      exact (goesOn_opElems h ..).retires
    case vfadd | vfsub | vfmul | vfma | vfnma | vfdiv | vrcp | vrsq | vexp2 | vlog2 =>
      dsimp only [Completes, exec]
      exact (goesOn_opFloat h ..).retires
    case cvtff | cvtfi | cvtif | cvtii =>
      dsimp only [Completes, exec]
      exact (goesOn_opConvert h ..).retires
    case vrmax | vrmin =>
      dsimp only [Completes, exec]
      exact (goesOn_opExtreme h ..).retires
    case vtacc | vsel | vpack | vunpk | vmov | vbcst | vidx | vperm | vrot | vgth | vins | vrsum | vmscl =>
      dsimp only [Completes, exec]
      exact (goesOn_opX h ..).retires
    case vcmp | vfcmp =>
      dsimp only [Completes, exec]
      exact (goesOn_opCompare hs hq ..).retires
    case kop | kset =>
      dsimp only [Completes, exec]
      exact (goesOn_opXk hs hq ..).retires
    case vxtr | vmcnt =>
      dsimp only [Completes, exec]
      exact (goesOn_opXg hs hq ..).retires
    case cbx => exact (goesOn_cbx h cb t q).retires
    case cbld => exact (goesOn_cbld hs hq t q).retires
    case vsct => exact (goesOn_of_xIssued hs (exec_vsct hq) (finish_xAfter s [a, b] none _ _ q hs)).retires
  · intro word g d v a b sc f r sat raw h p kd col q s hs x Goes idle t t0 apart
    refine ⟨(goesOn_mcfg hs word g q).retires, fun hq => (goesOn_mcfgl hs hq q).retires, fun hn hh hb ha => (goesOn_mgo hs hn hh hb ha q).retires,
      fun ⟨hn, hp, hr⟩ => ⟨(goesOn_mwait hs hn hp hr d q).retires, (goesOn_acmp hs hn hp hr p raw kd a b col q).retires⟩, fun hr => ?_⟩
    refine ⟨?aclr, ?aanc, ?canonical, ?toFormat, ?wireForm, ?achk, fun hap => ⟨?ascl, ?amov⟩⟩
    case aclr | aanc | canonical | toFormat | wireForm | achk =>
      dsimp only [Goes, Completes, exec]
      exact (goesOn_opResolver hs hr ..).retires
    case ascl | amov =>
      dsimp only [Goes, Completes, exec]
      simp only [execAscl, execAmov, tilesOverlap_false (fun _ => rfl) hap, Bool.false_eq_true, if_false]
      exact (goesOn_opResolver hs hr ..).retires
  · intro d a b n s w q
    refine ⟨fun hn => ?_, mts_goesOn_lc a s, fun hs hn => ?_, fun hk ho hu => (goesOn_tlbi hk ho hu a b).retires, fun h => (goesOn_tlbs h d).retires⟩
    · simp only [List.mem_cons, List.not_mem_nil, or_false] at hn
      rcases hn with rfl | rfl | rfl | rfl | rfl | rfl | rfl | rfl
      · exact mts_goesOn_trapBank (r := .epc 0) a s (by omega) rfl rfl rfl
      · exact mts_goesOn_trapBank (r := .ecause 0) a s (by omega) rfl rfl rfl
      · exact mts_goesOn_trapBank (r := .eaddr 0) a s (by omega) rfl rfl rfl
      · exact mts_goesOn_trapBank (r := .escr 0) a s (by omega) rfl rfl rfl
      · exact mts_goesOn_trapBank (r := .epc 1) a s (by omega) rfl rfl rfl
      · exact mts_goesOn_trapBank (r := .ecause 1) a s (by omega) rfl rfl rfl
      · exact mts_goesOn_trapBank (r := .eaddr 1) a s (by omega) rfl rfl rfl
      · exact mts_goesOn_trapBank (r := .escr 1) a s (by omega) rfl rfl rfl
    · simp only [List.mem_cons, List.not_mem_nil, or_false] at hn
      rcases hn with rfl | rfl | rfl | rfl | rfl
      · exact mts_goesOn_X (r := .vview) a s hs (by omega) rfl rfl ((ctxSeq_settleBanks ..).trans (ctxSeq_of_seqs rfl rfl rfl _))
      · exact mts_goesOn_X (r := .tview) a s hs (by omega) rfl rfl ((ctxSeq_settleBanks ..).trans (ctxSeq_of_seqs rfl rfl rfl _))
      · exact mts_goesOn_X (r := .aview) a s hs (by omega) rfl rfl ((ctxSeq_settleBanks ..).trans (ctxSeq_of_seqs rfl rfl rfl _))
      · exact mts_goesOn_X (r := .bankpwr) a s hs (by omega) rfl rfl ((ctxSeq_gateRetained ..).trans (ctxSeq_of_seqs rfl rfl rfl _))
      · refine mts_goesOn_X (r := .rsoor) a s hs (by omega) rfl rfl ?_
        show ctxSeq (if bitOf (rd s a).toNat 63 then clearOor s.cycle (sysContext s) else sysContext s) s.cur.2 = _
        split
        · exact ctxSeq_clearOor ..
        · rfl
  · intro d slot sc s x
    exact ⟨fun h => (goesOn_tokw h).retires, fun h => (goesOn_jwait h).retires, fun h hb => (goesOn_hrel h hb).retires,
      fun h => ⟨(goesOn_fence h .rel sc).retires, (goesOn_fence h .acq .core).retires, (goesOn_fence h .full sc).retires⟩,
      fun h hst hf hp => (goesOn_bfen h hst hf hp sc).retires⟩

end Sys2Proof.Machine

/-! SUPPORT. Events of the matrix path (R181, R187 to R189, R193, R195, R202): what the work on tiles and on the store leaves of the jobs of a context, and
where nest and resolver go on. -/

namespace Sys2Proof.Machine

/-! ## The cores that an operation leaves alone -/

theorem getCtx_of_cores {s t : State} (h : t.cores = s.cores) (c : Nat) : getCtx t c = getCtx s c := by rw [getCtx, getCtx, getCore, getCore, h]

theorem foldl_cores {α : Type} {f : State → α → State} (hf : ∀ s a, (f s a).cores = s.cores) (l : List α) (s : State) : (l.foldl f s).cores = s.cores := by
  induction l generalizing s with
  | nil => rfl
  | cons a l ih => exact (ih _).trans (hf s a)

theorem clearShard_cores (s : State) (c : Nat) (j : NestJob) (ws : Int) : (clearShard s c j ws).cores = s.cores := by
  unfold clearShard
  split
  · exact foldl_cores (f := fun s (c, g) => setF s c g false) (fun _ _ => rfl) _ s
  · rfl

theorem notePace_cores (s : State) (c : Nat) : (notePace s c).cores = s.cores := by
  unfold notePace
  split
  · rfl
  · dsimp only
    split <;> rfl

theorem noteLateness_cores (s : State) (c : Nat) : (noteLateness s c).cores = s.cores := by
  unfold noteLateness noteLateEntries
  split
  · rfl
  · split
    · rfl
    · refine (foldl_cores (fun u e => ?_) _ _).trans (foldl_cores (fun u e => ?_) _ s)
      · dsimp only
        split <;> rfl
      · dsimp only
        split <;> rfl

/-! ## Work on tiles leaves the jobs -/

/-- The jobs of the matrix path are the same. -/
structure KeepsJobs (x y : Ctx) : Prop where
  nestRun : y.nestRun = x.nestRun
  nestPend : y.nestPend = x.nestPend
  rjobs : y.rjobs = x.rjobs

theorem keepsJobs_refl (x : Ctx) : KeepsJobs x x := ⟨rfl, rfl, rfl⟩

theorem KeepsJobs.trans {x y z : Ctx} (h : KeepsJobs x y) (k : KeepsJobs y z) : KeepsJobs x z :=
  ⟨k.nestRun.trans h.nestRun, k.nestPend.trans h.nestPend, k.rjobs.trans h.rjobs⟩

theorem KeepsJobs.foldl {α : Type} {f : Ctx → α → Ctx} (hf : ∀ x a, KeepsJobs x (f x a)) (l : List α) (x : Ctx) : KeepsJobs x (l.foldl f x) := by
  induction l generalizing x with
  | nil => exact keepsJobs_refl x
  | cons a l ih => exact (hf x a).trans (ih _)

theorem OorOnly.keepsJobs {x y : Ctx} (h : OorOnly x y) : KeepsJobs x y := by
  obtain ⟨w, o, rfl⟩ := h
  exact ⟨rfl, rfl, rfl⟩

theorem keepsJobs_tileWrite (x : Ctx) (t : Tile) (off n v : Nat) : KeepsJobs x (tileWrite x t off n v) := by
  refine .foldl (fun y e => ?_) _ x
  obtain ⟨g, k⟩ := e
  cases g <;> exact ⟨rfl, rfl, rfl⟩

theorem keepsJobs_markTile (x : Ctx) (t : Tile) (a : Option Int) (q : Option Nat) (nv mz : Bool) : KeepsJobs x (markTile x t a q nv mz) :=
  keepsJobs_tileWrite ..

theorem keepsJobs_mapElems (x : Ctx) (t : Tile) (off n : Nat) (f : Nat → Nat) : KeepsJobs x (mapElems x t off n f) :=
  .foldl (fun _ _ => keepsJobs_tileWrite ..) _ x

theorem keepsJobs_addRow (x : Ctx) (t : Tile) (r : Nat) (p : List Nat) : KeepsJobs x (addRow x t r p) := by
  unfold addRow
  dsimp only
  refine ((KeepsJobs.foldl (fun y e => ?_) _ x).trans (keepsJobs_tileWrite ..)).trans (keepsJobs_tileWrite ..)
  exact (keepsJobs_tileWrite ..).trans (keepsJobs_tileWrite ..)

theorem noteTile_only (now : Nat) (x : Ctx) (t : Tile) (off n : Nat) (r : Bool) (k : Nat) : OorOnly x (noteTile now x t off n r k) := noteSpan_only ..

theorem noteBeat_only (now : Nat) (x : Ctx) (j : NestJob) (arow crow : Nat) : OorOnly x (noteBeat now x j arow crow) := by
  unfold noteBeat
  dsimp only
  refine ((OorOnly.trans ?_ (noteTile_only ..)).trans (noteTile_only ..)).trans ((noteTile_only ..).trans (noteTile_only ..))
  split
  · exact (noteTile_only ..).trans (noteTile_only ..)
  · split
    · exact (noteSpan_only ..).trans (noteSpan_only ..)
    · exact noteSpan_only ..

theorem noteRow_only (now : Nat) (x : Ctx) (t : Tile) (r : Nat) (last rdAcc : Bool) : OorOnly x (noteRow now x t r last rdAcc) := by
  unfold noteRow
  dsimp only
  split
  · exact (noteTile_only ..).trans (noteTile_only ..)
  · exact noteTile_only ..

theorem keepsJobs_settleJob (x : Ctx) (arrival free : Nat) : KeepsJobs x (settleJob x arrival free) := by
  have h : KeepsJobs x (x.raced.zipIdx.foldl (fun y ((n, m), i) =>
      putGranule y n (m &&& rangesMask (x.writing.filter (·.arrival == arrival)) n) (Config.freeGranule (free + i))) x) := by
    refine .foldl (fun y e => ?_) _ x
    exact ⟨rfl, rfl, rfl⟩
  exact ⟨h.nestRun, h.nestPend, h.rjobs⟩

theorem keepsJobs_settleBanks (x : Ctx) : KeepsJobs x (settleBanks x) := by
  have h := onlyBanks_foldl (onlyBanks_gateBank (leaves x)) (List.range 8) x
  rw [settleBanks_eq]
  exact ⟨(congrArg Ctx.nestRun h :), (congrArg Ctx.nestPend h :), (congrArg Ctx.rjobs h :)⟩

theorem KeepsJobs.ite {x y : Ctx} (p : Prop) [Decidable p] (h : KeepsJobs x y) : KeepsJobs x (if p then y else x) := by
  split
  · exact h
  · exact keepsJobs_refl x

/-! ## The nest -/

section
variable {s : State} {c : Nat} {j : NestJob}

/-- R181: a job may start. -/
theorem nestJobStart_starts (hj : (getCtx s c).nestRun = some j) (hm : (getCtx s c).mHalted = false) (hs : j.started = false)
    (hmay : mayStart (getCtx s c) j.arrival (nestSets j) = true) (hf : tileFaulted (getCtx s c) (nestDest j.table j.aview j.foot) = false)
    (ha : nAsrc j.table = false) (hi : integerNest j.table = false) :
    Completes (.nestJobStart c) s fun u => ∃ k, (getCtx u c).nestRun = some k ∧ k.started = true := by
  obtain ⟨w, o, hn⟩ := noteTile_only s.cycle (getCtx s c) (nestDest j.table j.aview j.foot) 0 8 true 3
  have hf' : tileFaulted (noteTile s.cycle (getCtx s c) (nestDest j.table j.aview j.foot) 0 8 true 3) (nestDest j.table j.aview j.foot) = false := by
    rw [hn]
    exact hf
  show ∃ u, execNestJobStart c s = .next u ∧ _
  unfold execNestJobStart
  dsimp only
  rw [hj]
  dsimp only
  rw [ha, hs, hm, hmay, hi]
  simp only [Bool.false_or, Bool.not_true, Bool.false_and, Bool.false_eq_true, if_false, hf']
  refine ⟨_, rfl, { j with started := true }, ?_, rfl⟩
  rw [getCtx_setCtx]

/-- R189: a beat. -/
theorem beatLand_counts {l : Latch} (hj : (getCtx s c).nestRun = some j) (hm : (getCtx s c).mHalted = false) (hs : j.started = true)
    (hb : j.beat < nBeats j.table) (hl : j.latch = some l) (hw : l.ws = nWs j.table j.beat) :
    Completes (.beatLand c) s fun u => ∃ k, (getCtx u c).nestRun = some k ∧ k.beat = j.beat + 1 := by
  have hpick : [j.latch, j.ahead].findSome? (fun o => o.bind fun l => if l.ws = nWs j.table j.beat then some l else none) = some l := by
    simp [hl, hw]
  show ∃ u, execBeatLand c s = .next u ∧ _
  unfold execBeatLand
  dsimp only
  rw [hj]
  dsimp only
  rw [hs, hm, if_neg (by simp [hb]), hpick]
  refine ⟨_, rfl, ?_⟩
  rw [getCtx_of_cores (noteLateness_cores ..), getCtx, getCore_setCore]
  refine ⟨_, rfl, ?_⟩
  dsimp only
  exact congrArg (· + 1) (apply_ite NestJob.beat ..|>.trans (ite_self _))

end

/-! ## The expander -/

/-- Granules of a cluster's pool read alike where the pools are alike. -/
theorem readLoc_bufferLoc_fault {s t : State} (h : ∀ n g, sramGet (getCluster t n) g = sramGet (getCluster s n) g) (d k off n : Nat) (b : Handle) :
    (readLoc t d (bufferLoc k b off) n).fault = (readLoc s d (bufferLoc k b off) n).fault := by
  rw [readLoc, readLoc, strayed_fault, strayed_fault, bufferLoc]
  split
  · rw [plainLoc, plainLoc, h]
  · rfl

theorem firstFault_readPieces {s t : State} {d : Nat} {ps : List Piece} (h : ∀ p ∈ ps, ∀ n, (readLoc t d p.loc n).fault = (readLoc s d p.loc n).fault) (n : Nat) :
    firstFault ps (readPieces t d ps n) = firstFault ps (readPieces s d ps n) := by
  unfold firstFault
  congr 1
  induction ps generalizing n with
  | nil => rfl
  | cons p ps ih =>
    rw [readPieces, readPieces, List.zip_cons_cons, List.zip_cons_cons, List.filterMap_cons, List.filterMap_cons, ih fun q hq => h q (.tail _ hq)]
    simp only [h p (.head _)]

theorem firstFault_shardPieces {s t : State} (h : ∀ n g, sramGet (getCluster t n) g = sramGet (getCluster s n) g) (d k : Nat) (b : Handle) (ws : Int)
    (gs : List Nat) :
    firstFault (shardPieces k b ws gs) (readPieces t d (shardPieces k b ws gs) 0) = firstFault (shardPieces k b ws gs) (readPieces s d (shardPieces k b ws gs) 0) := by
  refine firstFault_readPieces (fun p hp n => ?_) 0
  obtain ⟨g, _, rfl⟩ := List.mem_map.mp hp
  exact readLoc_bufferLoc_fault h ..

theorem length_readPieces (s : State) (d : Nat) (ps : List Piece) (n : Nat) : (readPieces s d ps n).length = ps.length := by
  induction ps generalizing n with
  | nil => rfl
  | cons p ps ih => rw [readPieces, List.length_cons, List.length_cons, ih]

/-- Leaving the line of an expander keeps the pools. -/
theorem sramGet_leaveWaiters (s : State) (k : Nat) (a : FeAgent) (n g : Nat) : sramGet (getCluster (leaveWaiters s k a) n) g = sramGet (getCluster s n) g := by
  unfold leaveWaiters
  dsimp only
  split
  · by_cases h : n = k
    · rw [h, getCluster_setCluster]; rfl
    · rw [getCluster_setCluster_other _ _ h]
  · rfl

theorem nestRun_countStall {s : State} {c : Nat} {j : NestJob} (hj : (getCtx s c).nestRun = some j) (b : Bool) (n : Nat) :
    ∃ w, (getCtx (if b then setNest s c { j with tstall := n } else s) c).nestRun = some { j with tstall := w } := by
  cases b
  · exact ⟨_, hj⟩
  · exact ⟨n, by rw [if_pos rfl, setNest, getCtx_setCtx]⟩

/-- Leaving the line of the expander only counts what was waited for. -/
theorem leaveExpander_keeps (s : State) (c : Nat) {j : NestJob} (hj : (getCtx s c).nestRun = some j) :
    (∀ n g, sramGet (getCluster (leaveExpander s c) n) g = sramGet (getCluster s n) g) ∧
    ∃ w, (getCtx (leaveExpander s c) c).nestRun = some { j with tstall := w } := by
  unfold leaveExpander
  dsimp only
  rw [hj]
  generalize List.find? _ (getCluster s (clusterOfCore c)).waiters = o
  refine ⟨fun n g => (sramGet_leaveWaiters ..).trans ?_, ?_⟩
  · cases o with
    | none => rfl
    | some w => exact congrArg (sramGet · g) (apply_ite (getCluster · n) ..|>.trans (ite_self _))
  · rw [getCtx_of_cores (leaveWaiters_cores ..)]
    cases o with
    | none => exact ⟨_, hj⟩
    | some w => exact nestRun_countStall hj ..

theorem placeLatch_latch {j : NestJob} (h : j.latch = none) (l : Latch) : (placeLatch j l).latch = some l := by
  rw [placeLatch, h]
  rfl

section
variable {s : State} {c : Nat} {j : NestJob}

/-- R187, R188: all granules of the shard that is wanted are there. -/
theorem shardLatchReady_latches {ws : Int} {h : Handle} (hj : (getCtx s c).nestRun = some j) (hm : (getCtx s c).mHalted = false) (hs : j.started = true)
    (he : tfind (getCtx s c).engStop 3 = none) (hw : wantedShard j = some ws) (hl : loadedOf j ws = []) (hh : tfind (getCtx s c).slots (nHslot j.table) = some h)
    (hall : ∀ p ∈ shardPieces (clusterOfCore c) h ws (shardReads j.table), granuleTaken s c j p = true)
    (hf : firstFault (shardPieces (clusterOfCore c) h ws (shardReads j.table))
      (readPieces s (dieOfCore c) (shardPieces (clusterOfCore c) h ws (shardReads j.table)) 0) = none)
    (hb : firstBeyond (shardPieces (clusterOfCore c) h ws (shardReads j.table)) = none) (hn : j.latch = none) :
    Completes (.shardLatchReady c) s fun u => ∃ k l, (getCtx u c).nestRun = some k ∧ (k.latch = some l ∨ k.ahead = some l) ∧ l.ws = ws := by
  obtain ⟨hsram, w, hj'⟩ := leaveExpander_keeps s c hj
  have htake : (shardPieces (clusterOfCore c) h ws (shardReads j.table)).takeWhile (granuleTaken s c j) = shardPieces (clusterOfCore c) h ws (shardReads j.table) :=
    List.takeWhile_eq_self_iff.mpr hall
  show ∃ u, execShardLatchReady c s = .next u ∧ _
  unfold execShardLatchReady
  dsimp only
  rw [hj]
  dsimp only
  rw [hs, hm, he, hw, hh]
  simp only [Bool.not_true, Option.isSome_none, Bool.or_self, Bool.false_eq_true, if_false, hl, List.length_nil, List.drop_zero, htake, hj',
    Option.getD_some, firstFault_shardPieces hsram, hf, hb, List.nil_append, List.length_map, length_readPieces, Nat.lt_irrefl, List.drop_length, List.length_pos_iff]
  rw [if_neg (by cases shardPieces (clusterOfCore c) h ws (shardReads j.table) <;> simp)]
  refine ⟨_, rfl, ?_⟩
  rw [getCtx_setCtx]
  rw [(KeepsJobs.ite _ ((noteTile_only ..).keepsJobs.trans (keepsJobs_markTile ..))).nestRun]
  refine ⟨_, _, rfl, .inl (placeLatch_latch ?_ _), rfl⟩
  exact hn

end

/-! ## The end of a nest job, the resolver and the waking banks -/

theorem leaveNest_nestRun {s : State} {c : Nat} {j : NestJob} (hj : (getCtx s c).nestRun = some j) :
    (getCtx (leaveNest s c) c).nestRun = (getCtx s c).nestPend := by
  unfold leaveNest
  dsimp only
  rw [hj]
  exact (congrArg Ctx.nestRun (getCtx_setCtx ..)).trans ((keepsJobs_settleJob ..).trans (keepsJobs_settleBanks _)).nestRun

/-- R189: after the last beat, the job that waits takes the place of the one that ran. -/
theorem nestJobComplete_leaves {s : State} {c : Nat} {j : NestJob} (hj : (getCtx s c).nestRun = some j) (hm : (getCtx s c).mHalted = false)
    (hs : j.started = true) (hb : nBeats j.table ≤ j.beat) :
    Completes (.nestJobComplete c) s fun u => (getCtx u c).nestRun = (getCtx s c).nestPend := by
  have hctx : getCtx (match j.lastWs with | some ws => clearShard s c j ws | none => s) c = getCtx s c := by
    cases j.lastWs with
    | none => rfl
    | some ws => exact getCtx_of_cores (clearShard_cores ..) c
  show ∃ u, execNestJobComplete c s = .next u ∧ _
  unfold execNestJobComplete
  dsimp only
  rw [hj]
  dsimp only
  rw [hs, hm, if_neg (by simp [hb])]
  refine ⟨_, rfl, (leaveNest_nestRun (j := j) ?_).trans ?_⟩
  · refine (congrArg Ctx.nestRun (getCtx_setCtx ..)).trans ((congrArg Ctx.nestRun hctx :).trans hj)
  · exact (congrArg Ctx.nestPend (getCtx_setCtx ..)).trans (congrArg Ctx.nestPend hctx :)

theorem keepsJobs_noteTransform_aclr {j : RJob} {a : BitVec 16} (hk : j.kind = .aclr a) (now : Nat) (x : Ctx) (r : Nat) (last : Bool) :
    KeepsJobs x (noteTransform now x j r last) := by
  rw [noteTransform, hk]
  exact (noteRow_only ..).keepsJobs.trans (.ite _ (noteTile_only ..).keepsJobs)

theorem keepsJobs_transformRow_aclr {j : RJob} {a : BitVec 16} (hk : j.kind = .aclr a) (x : Ctx) (r : Nat) (last : Bool) :
    KeepsJobs x (transformRow x j r last) := by
  rw [transformRow, hk]
  exact (keepsJobs_mapElems ..).trans (.ite _ ((keepsJobs_mapElems ..).trans (keepsJobs_tileWrite ..)))

/-- R202: a row of the pass that clears a tile. -/
theorem jobRow_aclr {j : RJob} {a : BitVec 16} (hk : j.kind = .aclr a) (ht : j.transform = true) (now : Nat) (x : Ctx) :
    (jobRow now x j).next = (if j.h ≤ j.row + 1 then none else some { j with row := j.row + 1 }) ∧ (jobRow now x j).bad = none ∧
    KeepsJobs x (jobRow now x j).ctx := by
  have hrows : transformRows x j = j.h := by rw [transformRows, hk]
  have hj : { j with row := j.row + 1, transform := true } = { j with row := j.row + 1 } := by rw [← ht]
  rw [jobRow, if_pos ht, transformStep]
  refine ⟨?_, rfl, (keepsJobs_noteTransform_aclr hk ..).trans (keepsJobs_transformRow_aclr hk ..)⟩
  simp only [hrows, decide_eq_true_eq, hj]

section
variable {s : State} {c : Nat} {j : RJob} {rest : List RJob}

/-- R193: a job of the resolver may start. -/
theorem resolverJobStart_starts (hj : (getCtx s c).rjobs = j :: rest) (hm : (getCtx s c).rHalted = false) (hs : j.started = false)
    (hmay : mayStart (getCtx s c) j.arrival (rjobSets j) = true) :
    Completes (.resolverJobStart c) s fun u => (getCtx u c).rjobs = { j with started := true } :: rest := by
  show ∃ u, execResolverJobStart c s = .next u ∧ _
  unfold execResolverJobStart
  dsimp only
  rw [hj]
  dsimp only
  rw [hs, hm, hmay]
  exact ⟨_, rfl, congrArg Ctx.rjobs (getCtx_setCtx ..)⟩

/-- R202: a pass goes row by row, and its last row ends the job. -/
theorem resolverJobComplete_row {a : BitVec 16} (hj : (getCtx s c).rjobs = j :: rest) (hm : (getCtx s c).rHalted = false) (hs : j.started = true)
    (hk : j.kind = .aclr a) (ht : j.transform = true) :
    Completes (.resolverJobComplete c) s fun u => (getCtx u c).rjobs = if j.h ≤ j.row + 1 then rest else { j with row := j.row + 1 } :: rest := by
  obtain ⟨hnext, hbad, hkeep⟩ := jobRow_aclr hk ht s.cycle (getCtx s c)
  show ∃ u, execResolverJobComplete c s = .next u ∧ _
  unfold execResolverJobComplete
  dsimp only
  rw [hj]
  dsimp only
  rw [if_neg (by simp [hs, hm]), hnext, hbad]
  by_cases hlast : j.h ≤ j.row + 1
  · rw [if_pos hlast, if_pos hlast, hk]
    exact ⟨_, rfl, (congrArg Ctx.rjobs (getCtx_setCtx ..)).trans (keepsJobs_settleJob ..).rjobs⟩
  · rw [if_neg hlast, if_neg hlast]
    refine ⟨_, rfl, ?_⟩
    rw [getCtx_setCtx]
    rfl

end

/-- R36: the banks that wake are on. -/
theorem bankWake_wakes {s : State} {c : Nat} (hw : (getCtx s c).waking ≠ 0) :
    Completes (.bankWake c) s fun t => (getCtx t c).waking = 0 ∧ ∀ b, (getCtx s c).waking.getLsbD b = true → (getCtx t c).bankOn.getLsbD b = true := by
  show ∃ u, execBankWake c s = .next u ∧ _
  unfold execBankWake
  refine ⟨_, if_neg hw, ?_⟩
  rw [getCtx_setCtx]
  refine ⟨(banksOn_bank (getCtx s c) (b := 0) (by omega)).1, fun b hb => ?_⟩
  obtain ⟨_, hon, _⟩ := banksOn_bank (getCtx s c) (b := b) (BitVec.lt_of_getLsbD hb)
  exact hon.mpr (.inr hb)

end Sys2Proof.Machine

/-! SUPPORT. Events of the Lamplighter and of the copy engine (R232 to R235, R238, R240, R246 to R248, R282): what a write of a Lamplighter's state leaves of
its itineraries, and where the events act. -/

namespace Sys2Proof.Machine

/-! ## A Lamplighter's state -/

/-- A write of a Lamplighter's state may also note the times of its pacing. -/
theorem getLamp_putPaced (s : State) (d p : Nat) (l : Lamp) : ∃ f r, getLamp (putPaced s d p l) d p = { l with paceFrom := f, paceSpans := r } := by
  unfold putPaced
  dsimp only
  rw [getLamp, getDie_setDie]
  dsimp only
  rw [tget_tput_same]
  split
  · exact ⟨_, _, rfl⟩
  · exact ⟨_, _, rfl⟩
  · exact ⟨_, _, rfl⟩

/-- The itineraries that wait are the same, and the one that runs, if one runs, is the same job. -/
structure SameItinerary (x y : Lamp) : Prop where
  waiting : y.waiting = x.waiting
  running : ∀ it, x.running = some it → ∃ it', y.running = some it' ∧ it'.owner = it.owner ∧ it'.addr = it.addr

theorem SameItinerary.trans {x y z : Lamp} (h : SameItinerary x y) (k : SameItinerary y z) : SameItinerary x z := by
  refine ⟨k.waiting.trans h.waiting, fun it hit => ?_⟩
  obtain ⟨i, hi, ho, ha⟩ := h.running it hit
  obtain ⟨j, hj, ho', ha'⟩ := k.running i hi
  exact ⟨j, hj, ho'.trans ho, ha'.trans ha⟩

theorem sameItinerary_refl (x : Lamp) : SameItinerary x x := ⟨rfl, fun it h => ⟨it, h, rfl, rfl⟩⟩

theorem sameItinerary_putPaced (s : State) (d p : Nat) {x l : Lamp} (h : SameItinerary x l) : SameItinerary x (getLamp (putPaced s d p l) d p) := by
  obtain ⟨f, r, e⟩ := getLamp_putPaced s d p l
  rw [e]
  exact ⟨h.waiting, h.running⟩

theorem sameItinerary_lateEntry (s : State) (d p i : Nat) (e : ItinEntry) : SameItinerary (getLamp s d p) (getLamp (lateEntry s d p i e) d p) := by
  refine sameItinerary_putPaced s d p ⟨rfl, fun it h => ?_⟩
  exact ⟨_, congrArg (Option.map _) h, rfl, rfl⟩

theorem sameItinerary_lateUnread (s : State) (d p i : Nat) (e : ItinEntry) : SameItinerary (getLamp s d p) (getLamp (lateUnread s d p i e) d p) := by
  refine sameItinerary_putPaced s d p ⟨rfl, fun it h => ?_⟩
  exact ⟨_, congrArg (Option.map _) h, rfl, rfl⟩

theorem sameItinerary_foldl {α : Type} {d p : Nat} {f : State → α → State} (hf : ∀ s a, SameItinerary (getLamp s d p) (getLamp (f s a) d p)) (l : List α) (s : State) :
    SameItinerary (getLamp s d p) (getLamp (l.foldl f s) d p) := by
  induction l generalizing s with
  | nil => exact sameItinerary_refl _
  | cons a l ih => exact (hf s a).trans (ih _)

theorem sameItinerary_noteLateEntries (s : State) (d p : Nat) (q : Nat → Bool) : SameItinerary (getLamp s d p) (getLamp (noteLateEntries s d p q) d p) := by
  unfold noteLateEntries
  split
  · exact sameItinerary_refl _
  · refine (sameItinerary_foldl (fun t e => ?_) _ s).trans (sameItinerary_foldl (fun t e => ?_) _ _)
    · dsimp only
      split
      · exact sameItinerary_lateEntry ..
      · exact sameItinerary_refl _
    · dsimp only
      split
      · exact sameItinerary_lateUnread ..
      · exact sameItinerary_refl _

theorem getLamp_setTicket (s : State) (o : Owner) (st : JobStatus) (d p : Nat) : getLamp (setTicket s o st) d p = getLamp s d p := rfl

theorem getLamp_catchUp (s : State) (k : Nat) (need : List Nat) (d p : Nat) : getLamp (catchUp s k need) d p = getLamp s d p := by
  rw [getLamp, (onlyCounting_catchUp s k need).lamps, getLamp]

/-- An entry of the itinerary that a Lamplighter runs. -/
def itinEntry (l : Lamp) (n : Nat) : Option ItinEntry := l.running.bind fun it => it.entries[n]?

theorem itinEntry_putPaced (s : State) (d p n : Nat) (l : Lamp) : itinEntry (getLamp (putPaced s d p l) d p) n = itinEntry l n := by
  obtain ⟨f, r, h⟩ := getLamp_putPaced s d p l
  rw [h]
  rfl

theorem getLamp_begun (s : State) (d p : Nat) {l : Lamp} {it : Itinerary} (h : l.running = some it) {o : Owner} {a : Nat} (ho : it.owner = o) (ha : it.addr = a) :
    (getLamp (noteLateEntries (putPaced s d p l) d p fun _ => true) d p).waiting = l.waiting ∧
    ∃ it', (getLamp (noteLateEntries (putPaced s d p l) d p fun _ => true) d p).running = some it' ∧ it'.owner = o ∧ it'.addr = a := by
  obtain ⟨hwait, hrun⟩ := (sameItinerary_putPaced s d p (sameItinerary_refl l)).trans (sameItinerary_noteLateEntries _ d p fun _ => true)
  obtain ⟨it', hit, ho', ha'⟩ := hrun it h
  exact ⟨hwait, it', hit, ho'.trans ho, ha'.trans ha⟩

theorem itinEntry_putEntry (s : State) (d p n : Nat) (f : ItinEntry → ItinEntry) (lost : Bool) :
    itinEntry (getLamp (putEntry s d p n f lost) d p) n = (itinEntry (getLamp s d p) n).map f := by
  unfold putEntry
  cases h : (getLamp s d p).running with
  | none => rw [itinEntry, h]; rfl
  | some it =>
    dsimp only
    rw [setItin, getLamp_setLamp, itinEntry, itinEntry, h]
    exact getElem?_changeAt ..

section
variable {s : State} {d p : Nat}

/-! ## Its events -/

/-- R240: the counts of a hop are cleared. -/
theorem llclrHop_clears (h : Nat) (hb : blockHeld s d p = true) : Completes (.llclrHop d p h) s fun t => tget 0 (getLamp t d p).late h = 0 := by
  refine ⟨_, congrArg Host.Outcome.next (if_pos hb), ?_⟩
  dsimp only
  rw [getLamp_setLamp]
  exact tget_tput_same ..

theorem llclrPace_clears (hb : blockHeld s d p = true) : Completes (.llclrPace d p) s fun t => (getLamp t d p).paceCyc = 0 := by
  refine ⟨_, congrArg Host.Outcome.next (if_pos hb), ?_⟩
  dsimp only
  rw [getLamp_setLamp]

/-- R232: an itinerary whose header is well formed begins. -/
theorem itineraryStart_begins {o : Owner} {a v : Nat} {rest : List (Owner × Nat)} (hw : (getLamp s d p).waiting = (o, a) :: rest)
    (hn : (getLamp s d p).running = none) (hr : lampRuns s d p = true) (hv : engineRead s d p a 64 { rd := true } = .ok v)
    (hb : headerBad ((List.range 8).map (recWord v)) = false) :
    Completes (.itineraryStart d p) s fun t => (getLamp t d p).waiting = rest ∧ ∃ it, (getLamp t d p).running = some it ∧ it.owner = o ∧ it.addr = a := by
  show ∃ u, execItineraryStart d p s = .next u ∧ _
  unfold execItineraryStart
  dsimp only
  rw [hw, hn]
  dsimp only
  rw [hv]
  dsimp only
  rw [hb, hr, if_neg (by simp), if_neg (by simp)]
  refine ⟨_, rfl, ?_⟩
  exact getLamp_begun _ d p rfl rfl rfl

/-- R233, R238: the one entry of an itinerary is issued. -/
theorem itineraryEntryIssue_issues {it : Itinerary} {e : ItinEntry} (hl : (getLamp s d p).running = some it) (he : it.entries = [e]) (hs : it.stopped = none)
    (hr : lampRuns s d p = true) (hi : e.issued = false) (hw : 0 < it.win.getD e.hop 1) (ht : entryTracked s it 0 = false) (hg : e.group = 0)
    (hh : e.hop ≠ 2) :
    Completes (.itineraryEntryIssue d p) s fun t => itinEntry (getLamp t d p) 0 = some { e with issued := true, issueCycle := s.cycle } := by
  have hmay : mayIssue it 0 = true := by
    simp [mayIssue, he, hi, inFlight, behindStall]
    exact hw
  have hgroup : groupReady s d p it 0 = true := by simp [groupReady, he, hg]
  have hfirst : firstIndex (fun i => mayIssue it i && !entryTracked s it i && groupReady s d p it i) it.entries.length = some 0 := by
    rw [he, firstIndex]
    simp [hmay, hgroup, ht]
  show ∃ u, execItineraryEntryIssue d p s = .next u ∧ _
  unfold execItineraryEntryIssue
  rw [hl]
  dsimp only
  rw [hs, hr, hfirst]
  dsimp only
  rw [he]
  refine ⟨_, rfl, ?_⟩
  unfold issueEntry
  dsimp only
  rw [if_neg (by simp [hh]), if_pos hg, getLamp_setLamp, he]
  rfl

/-- R234: an entry past due is late. -/
theorem entryLate_notes {it : Itinerary} {n : Nat} {e : ItinEntry} (hl : (getLamp s d p).running = some it) (he : it.entries[n]? = some e)
    (hc : e.complete = false) (ha : e.lateAt = none) (hd : e.due < (getCore s e.watch).mprog.toNat) :
    Completes (.entryLate d p n) s fun t => itinEntry (getLamp t d p) n = some { e with lateAt := some s.cycle } := by
  have hlate : pastDue s e = true := decide_eq_true hd
  show ∃ u, execEntryLate d p n s = .next u ∧ _
  unfold execEntryLate
  rw [hl]
  dsimp only
  rw [he]
  dsimp only
  rw [if_pos (by simp [hc, ha, hlate])]
  refine ⟨_, rfl, ?_⟩
  unfold lateEntry
  dsimp only
  obtain ⟨f, r, h⟩ := getLamp_putPaced s d p
    { oneMoreLate (tget {} (getDie s d).lamps p) e.hop with
      running := (tget {} (getDie s d).lamps p : Lamp).running.map fun it => { it with entries := changeAt it.entries n fun e => { e with lateAt := some s.cycle } } }
  rw [h, itinEntry]
  dsimp only
  rw [show (tget {} (getDie s d).lamps p : Lamp).running = some it from hl]
  exact (getElem?_changeAt ..).trans (congrArg (Option.map _) he)

/-- R235: an entry whose granules have all landed is complete. -/
theorem itineraryEntryComplete_completes {it : Itinerary} {n : Nat} {e : ItinEntry} (hl : (getLamp s d p).running = some it) (he : it.entries[n]? = some e)
    (hi : e.issued = true) (hc : e.complete = false) (hf : e.failed = false) (hg : 16 * e.landed.length = e.size) (hq : e.sequ = none)
    (hd : e.due ≥ (getCore s e.watch).mprog.toNat) :
    Completes (.itineraryEntryComplete d p n) s fun t => itinEntry (getLamp t d p) n = some { e with complete := true } := by
  have hlate : pastDue s e = false := decide_eq_false (Nat.not_lt.mpr hd)
  have hserved : membersServed s (getLamp s d p) e = true := by rw [membersServed, hq]
  show ∃ u, execItineraryEntryComplete d p n s = .next u ∧ _
  unfold execItineraryEntryComplete
  dsimp only
  rw [hl]
  dsimp only
  rw [he]
  dsimp only
  rw [if_neg (by simp [hi, hc, hf, hserved, hg]), if_neg (by simp [hlate])]
  refine ⟨_, rfl, ?_⟩
  rw [itinEntry_putEntry]
  rw [getLamp_catchUp, itinEntry_putPaced, itinEntry]
  dsimp only
  rw [hl, Option.bind_some, he]
  rfl

/-- R232: an itinerary that is read to its end and whose entries are complete ends. -/
theorem itineraryEnd_ends {it : Itinerary} (hl : (getLamp s d p).running = some it) (hs : it.stopped = none) (he : it.ended = true)
    (hc : ∀ e ∈ it.entries, e.complete = true) : Completes (.itineraryEnd d p) s fun t => (getLamp t d p).running = none := by
  have hquiet : it.entries.all (fun e => !e.issued || e.complete || e.failed) = true := List.all_eq_true.mpr fun e h => by simp [hc e h]
  have hall : it.entries.all (·.complete) = true := List.all_eq_true.mpr hc
  show ∃ u, execItineraryEnd d p s = .next u ∧ _
  unfold execItineraryEnd
  dsimp only
  rw [hl]
  dsimp only
  rw [hquiet, hs, he, hall]
  refine ⟨_, rfl, ?_⟩
  rw [getLamp_setTicket]
  obtain ⟨f, r, h⟩ := getLamp_putPaced s d p _
  exact (congrArg Lamp.running h :)

end

/-! ## The copy engine -/

/-- R282: the one card of a queue starts. -/
theorem copyCardStart_one {s : State} {d p : Nat} {c : Card} (hq : tget [] (getDie s d).cards p = [c]) (hc : cardReady s d p c = true)
    (hr : partRuns s p = true) (hf : (getDie s d).fenced = false) :
    Completes (.copyCardStart d p) s fun t => ∃ k, (getCluster t (clusterOfCore c.owner.core)).card = some k ∧ k.started = true ∧ k.owner = c.owner := by
  refine ⟨_, copyCardStart_starts (i := 0) (by rw [hq]; rfl) (fun k b hk => absurd hk (Nat.not_lt_zero k)) hr hf hc, startedCard c, ?_, rfl, rfl⟩
  rw [getCluster_setCluster]

theorem advanceCard_goesOn (c : Card) (lost : Bool) (stamps : List (Nat × Nat)) (ps : List Piece) :
    c.row < (advanceCard c (chunkSize c) lost stamps ps).row ∨
    c.row = (advanceCard c (chunkSize c) lost stamps ps).row ∧ (advanceCard c (chunkSize c) lost stamps ps).off = c.off + chunkSize c := by
  rw [advanceCard_eq]
  dsimp only
  split
  · exact .inl (Nat.lt_succ_self _)
  · exact .inr ⟨rfl, rfl⟩

/-- R246 to R248: a chunk that comes to its end. -/
theorem copyCardComplete_chunk {s u : State} {n : Nat} {c : Card} {lost : Bool} {stamps : List (Nat × Nat)} (hc : (getCluster s n).card = some c)
    (hh : (getCluster s n).halted = false) (hs : (getCluster s n).stopInfo = none) (hl : partLive s c.owner.part = true)
    (hf : (getDie s (dieOfCluster n)).fenced = false) (h : cardChunk s (dieOfCluster n) c = .ok (u, lost, stamps)) :
    Completes (.copyCardComplete n) s fun t => (c.strays = false → t.mem = u.mem) ∧
      ∀ k, (getCluster t n).card = some k → c.row < k.row ∨ c.row = k.row ∧ k.off = c.off + chunkSize c := by
  have hexec := copyCardComplete_ok hc hh hs hl hf h
  by_cases hend : (advanceCard c (chunkSize c) lost stamps (chunkTarget s (dieOfCluster n) c)).row = c.rows
  · rw [if_pos hend] at hexec
    refine ⟨_, hexec, fun hst => cardDone_mem_of_not_strays u n ?_, fun k hk => ?_⟩
    · rw [advanceCard_eq]; exact hst
    · rw [getCluster_cardDone] at hk; exact nomatch hk
  · rw [if_neg hend] at hexec
    refine ⟨_, hexec, fun _ => chunkDone_mem .., fun k hk => ?_⟩
    rw [getCluster_chunkDone] at hk
    obtain rfl := Option.some.inj hk
    exact advanceCard_goesOn ..

end Sys2Proof.Machine

/-! SUPPORT. Events of collectives, of the gatherer and of migration (R209, R287, R343, R349, R352, R361), and the settlement of O60. -/

namespace Sys2Proof.Machine

/-! ## Collectives -/

theorem reductionContexts_eq : Config.reductionContexts = 1024 := rfl

/-- The collective of a number is the one that is not over. -/
theorem liveColl_some {s : State} {id : BitVec 32} {c : LiveColl} (h : liveColl s id = some c) : c.collid = id ∧ c.finished = false := by
  have := List.find?_some h
  simpa using this

/-- A change of the collective of a number that keeps its number and does not end it. -/
theorem liveColl_updColl {s : State} {id : BitVec 32} {c : LiveColl} {f : LiveColl → LiveColl} (h : liveColl s id = some c)
    (hid : ∀ x, (f x).collid = x.collid) (hf : ∀ x, (f x).finished = x.finished) : liveColl (updColl s id f) id = some (f c) := by
  have hpred : (fun x : LiveColl => x.collid == id && !x.finished) ∘ (fun x => if x.collid = id ∧ !x.finished then f x else x) =
      fun x => x.collid == id && !x.finished := by
    funext x
    dsimp only [Function.comp]
    split
    · rw [hid, hf]
    · rfl
  obtain ⟨hc, hn⟩ := liveColl_some h
  rw [liveColl, updColl]
  dsimp only
  rw [List.find?_map, hpred]
  refine (congrArg (Option.map _) h).trans ?_
  simp [hc, hn]

theorem blocks_releaseColl (s : State) (id : BitVec 32) (n : Nat) :
    (tget {} (releaseColl s id).switches n : Switch).blocks = (tget {} s.switches n : Switch).blocks := by
  show (tget {} (s.switches.map fun (n, w) => (n, { w with live := w.live.filter (· != id) })) n : Switch).blocks = _
  generalize s.switches = l
  induction l with
  | nil => rfl
  | cons e l ih =>
    obtain ⟨k, w⟩ := e
    by_cases h : k = n
    · simp [tget, tfind, h]
    · simpa [tget, tfind, h] using ih

/-- A block of a switch, once written. -/
theorem switchBlock_putSwBlock (s : State) (sw : Nat) {b : SwBlock} {id : BitVec 32} {blk : Nat} (hid : b.collid = id) (hblk : b.blk = blk) :
    switchBlock (tget {} (putSwBlock s sw b).switches sw) id blk = b := by
  subst hid hblk
  unfold putSwBlock
  dsimp only
  rw [tget_tput_same, switchBlock]
  dsimp only
  rw [List.find?_append, List.find?_eq_none.mpr, Option.none_or, List.find?_cons_of_pos (by simp)]
  intro x hx
  have := (List.mem_filter.mp hx).2
  simpa [imp_iff_not_or] using this

theorem switchBlock_congr {x y : Switch} (h : x.blocks = y.blocks) (id : BitVec 32) (blk : Nat) : switchBlock x id blk = switchBlock y id blk := by
  rw [switchBlock, h, switchBlock]

theorem switchBlock_key (w : Switch) (id : BitVec 32) (blk : Nat) : (switchBlock w id blk).collid = id ∧ (switchBlock w id blk).blk = blk := by
  unfold switchBlock
  split
  next b h => simpa using List.find?_some h
  · exact ⟨rfl, rfl⟩

theorem blocks_closeBlock (s : State) (c : LiveColl) (g : Group) (sw : Nat) (b : SwBlock) :
    (tget {} (closeBlock s c g sw b).switches sw : Switch).blocks = (tget {} (putSwBlock s sw { b with closed := true }).switches sw : Switch).blocks := by
  unfold closeBlock
  dsimp only
  split
  · split
    · exact blocks_releaseColl ..
    · rfl
  · rfl

section
variable {s : State} {id : BitVec 32} {c : LiveColl} {g : Group} (hc : liveColl s id = some c) (hg : tfind s.groups c.group = some g)
include hc hg

/-- R343: a collective alone in its tree is admitted. -/
theorem collectiveAdmission_admits (ha : c.admitted = false) (hone : s.colls = [c])
    (hroom : ∀ i ∈ g.top :: g.leaves.map (·.1), (tget {} s.switches i : Switch).live.length < 1024) (hm : ∀ m ∈ g.members, m = s.pkg) :
    Completes (.collectiveAdmission c.group id) s fun t => liveColl t id = some { c with admitted := true } := by
  have hmay : mayAdmit s c (treeOf g) = true := by
    rw [mayAdmit, hone, reductionContexts_eq, Bool.and_eq_true]
    refine ⟨List.all_eq_true.mpr fun i hi => decide_eq_true (hroom i hi), ?_⟩
    simp
  have hmem : (g.members.any (· != s.pkg)) = false := List.any_eq_false.mpr fun m h => by simp [hm m h]
  show ∃ u, execCollectiveAdmission c.group id s = .next u ∧ _
  unfold execCollectiveAdmission
  rw [hc, hg]
  dsimp only
  rw [if_neg (by simp [ha, hmay]), hmem]
  exact ⟨_, rfl, liveColl_updColl (f := fun c => { c with admitted := true }) (s := updMembers (reserve s (treeOf g) id) id fun j => { j with admitted := true })
    hc (fun _ => rfl) fun _ => rfl⟩

/-- R349: a block whose time is over closes. -/
theorem switchBlockTimeout_closes {sw blk t0 : Nat} (ha : c.admitted = true) (hop : c.record.op = 2) (hmire : c.record.mire = true)
    (hsw : sw ∈ g.top :: g.leaves.map (·.1)) (hblk : blk < totalBlocks c.record) (hopen : (switchBlock (tget {} s.switches sw) id blk).closed = false)
    (ht : timerOf s c g sw (switchBlock (tget {} s.switches sw) id blk) = some t0) :
    Completes (.switchBlockTimeout sw id blk) s fun t => (switchBlock (tget {} t.switches sw) id blk).closed = true := by
  have htree : sw ∈ treeOf g := hsw
  have hlimit : blockLimit s c g sw (switchBlock (tget {} s.switches sw) id blk) = some (t0 + heightOf g sw * c.record.timeout * 1024) := by
    rw [blockLimit, if_pos hmire, ht]
    rfl
  obtain ⟨hid, hk⟩ := switchBlock_key (tget {} s.switches sw) id blk
  show ∃ u, execSwitchBlockTimeout sw id blk s = .next u ∧ _
  unfold execSwitchBlockTimeout
  rw [hc]
  dsimp only
  rw [hg]
  dsimp only
  rw [if_neg (by simp [ha, hop, hmire, hopen, hblk, htree]), hlimit]
  refine ⟨_, rfl, ?_⟩
  rw [switchBlock_congr (blocks_closeBlock ..)]
  rw [switchBlock_putSwBlock _ sw (b := { switchBlock (tget {} s.switches sw) id blk with closed := true }) hid hk]

/-- R349: the end marker of a member of another package. -/
theorem endMarker_arrives {member : Nat} (ha : c.admitted = true) (hm : member ∈ g.members) (hnew : member ∉ c.ends) (hfar : member ≠ s.pkg) :
    Completes (.endMarker id member) s fun t => ∃ e, liveColl t id = some e ∧ member ∈ e.ends := by
  show ∃ u, execEndMarker id member s = .next u ∧ _
  unfold execEndMarker
  rw [hc]
  dsimp only
  rw [hg]
  dsimp only
  rw [if_neg (by simp [ha, hm, hnew, hfar])]
  exact ⟨_, rfl, _, liveColl_updColl hc (fun _ => rfl) fun _ => rfl, List.mem_cons_self⟩

omit hg in
/-- R349: the top switch starts the timers of every block. -/
theorem topSwitchTimerStart_starts {f : Nat} (hop : c.record.op = 2) (hmire : c.record.mire = true) (ht : c.allTimers = none)
    (hf : c.firstContribution = some f) :
    Completes (.topSwitchTimerStart id) s fun t => liveColl t id = some { c with allTimers := some (f + 2 * c.record.timeout * 1024) } := by
  have hexec : execTopSwitchTimerStart id s =
      .next (updColl { s with cycle := max s.cycle (f + 2 * c.record.timeout * 1024) } id fun x => { x with allTimers := some (f + 2 * c.record.timeout * 1024) }) := by
    unfold execTopSwitchTimerStart
    rw [hc]
    dsimp only
    rw [hf]
    dsimp only
    rw [if_neg (by simp [hop, hmire, ht])]
  exact ⟨_, hexec, liveColl_updColl (f := fun x => { x with allTimers := some (f + 2 * c.record.timeout * 1024) }) hc (fun _ => rfl) fun _ => rfl⟩

end

/-! ## The gatherer -/

theorem getGath_setGath (s : State) (d p : Nat) (g : Gatherer) : getGath (setGath s d p g) d p = g := by
  rw [setGath, getGath, getDie_setDie]
  exact tget_tput_same ..

/-- R287: a batch whose time is over closes. -/
theorem batchCloseDeadline_closes {s : State} {d p : Nat} {b : Batch} (hl : partLive s p = true) (hb : (getGath s d p).openBatch = some b)
    (hd : (getGath s d p).dead ≠ 0) : Completes (.batchCloseDeadline d p) s fun t => (getGath t d p).openBatch = none := by
  have hdue : batchDue (getGath s d p) = some (b.opened + (getGath s d p).dead.toNat) := by rw [batchDue, hb]; exact if_neg hd
  show ∃ u, execBatchCloseDeadline d p s = .next u ∧ _
  unfold execBatchCloseDeadline
  dsimp only
  rw [hdue]
  dsimp only
  rw [if_neg (by simp [hl])]
  refine ⟨_, rfl, ?_⟩
  rw [getGath_setGath, closeBatch, hb]

/-- R287: a write of the tail of the ring, with no batch open. -/
theorem gathererConfigWrite_tail {s : State} {d p : Nat} (v : Word) (hb : blockHeld s d p = true) (ho : (getGath s d p).openBatch = none) :
    Completes (.gathererConfigWrite d p 0x10 v) s fun t => (getGath t d p).tail = v.setWidth 16 := by
  have haged : agedBatch s (getGath s d p) = getGath s d p := by rw [agedBatch, batchDue, ho]
  refine ⟨_, congrArg Host.Outcome.next (if_pos hb), ?_⟩
  show (getGath (setGath s d p (settleBatch s { agedBatch s (getGath s d p) with tail := BitVec.ofNat 16 v.toNat })) d p).tail = _
  rw [haged, getGath_setGath, settleBatch]
  dsimp only
  rw [ho]
  exact BitVec.ofNat_toNat ..

/-! ## Migration -/

theorem busy_finishOptimistic (s : State) (d : Nat) (a : MigPage) (f : Nat) (w : List (BitVec 32)) :
    (getDie (finishOptimistic s d a f w) d).mig.busy = false := by
  unfold finishOptimistic
  dsimp only
  split <;> exact (migEnded_endMig ..).1

/-- R361: the end of a copy. -/
theorem migrationEnd_ends {s : State} {d : Nat} (hb : (getDie s d).mig.busy = true) (hf : (getDie s d).fenced = false)
    (hi : ∀ e, e < 4 → (getDie s e).inbox = [])
    (hfree : ∀ a, migPage s d (getDie s d).mig.ptea.toNat = some a → frameBusy s (leafFrame a.leaf) a.bits = false) (hm : (getDie s d).mig.mode = true) :
    Completes (.migrationEnd d) s fun t => (getDie t d).mig.busy = false := by
  cases ha : migPage s d (getDie s d).mig.ptea.toNat with
  | none => exact ⟨_, migrationEnd_gone hb hf hi ha, (migEnded_endMig ..).1⟩
  | some a => exact ⟨_, migrationEnd_optimistic hb hf hi ha (hfree a ha) hm, busy_finishOptimistic ..⟩

theorem busy_setMig {s : State} {d : Nat} {m : Migration} (h : m.busy = true) : (getDie (setMig s d m) d).mig.busy = true := by
  rw [setMig, getDie_setDie]
  exact h

/-- Settles O60: each event, where it acts. -/
theorem eventsComplete : Obligations.EventsComplete := by
  unfold Obligations.EventsComplete
  refine ⟨fun c s => ⟨?_, ?_, ?_⟩, fun d p s => ⟨?_, ?_, ?_, ?_⟩, ?_, ?_, ?_, ?_⟩
  case refine_1 => exact bankWake_wakes
  case refine_2 =>
    intro j hj hm
    refine ⟨fun hs hmay hf ha hi => ?_, fun ws h hs he hw hl hh hall hf hb hn => ?_, fun l hs hb hl hw => ?_, fun hs hb => ?_⟩
    · exact nestJobStart_starts hj hm hs hmay hf ha hi
    · exact shardLatchReady_latches hj hm hs he hw hl hh hall hf hb hn
    · exact beatLand_counts hj hm hs hb hl hw
    · exact nestJobComplete_leaves hj hm hs hb
  case refine_3 =>
    intro j rest hj hm
    exact ⟨fun hs hmay => resolverJobStart_starts hj hm hs hmay, fun a hs hk ht => resolverJobComplete_row hj hm hs hk ht⟩
  case refine_4 => exact fun hb => ⟨fun h => llclrHop_clears h hb, llclrPace_clears hb⟩
  case refine_5 => exact fun o a rest v hw hn hr hv hb => itineraryStart_begins hw hn hr hv hb
  case refine_6 =>
    intro it hl
    refine ⟨fun e he hs hr hi hw ht hg hh => ?_, fun n e he hc ha hd => ?_, fun n e he hi hc hf hg hq hd => ?_, fun hs he hc => ?_⟩
    · exact itineraryEntryIssue_issues hl he hs hr hi hw ht hg hh
    · exact entryLate_notes hl he hc ha hd
    · exact itineraryEntryComplete_completes hl he hi hc hf hg hq hd
    · exact itineraryEnd_ends hl hs he hc
  case refine_7 => exact fun c hq hc hr hf => copyCardStart_one hq hc hr hf
  case refine_8 => exact fun n c s u lost stamps hc hh hs hl hf h => copyCardComplete_chunk hc hh hs hl hf h
  case refine_9 =>
    intro id c g sw blk member t0 f s hc _ _ hg
    refine ⟨fun ha hone hroom hm => ?_, fun hr hsw hblk hopen ht => ?_, fun ha hm hnew hfar => ?_, fun hr ht hf => ?_⟩
    · exact collectiveAdmission_admits hc hg ha hone hroom hm
    · exact switchBlockTimeout_closes hc hg hr.1 hr.2.1 hr.2.2 hsw hblk hopen ht
    · exact endMarker_arrives hc hg ha hm hnew hfar
    · exact topSwitchTimerStart_starts hc hr.2.1 hr.2.2 ht hf
  case refine_10 => exact fun d p s => ⟨fun b hl hb hd => batchCloseDeadline_closes hl hb hd, fun v hb ho => gathererConfigWrite_tail v hb ho⟩
  case refine_11 =>
    intro d s
    refine ⟨fun a b hb hf ha hpb hbits ha9 hb9 hda hdb hfr => ?_, fun a hb hf ha ha9 hda hfr => ?_, fun hb hf hi hfree hm => ?_⟩
    · exact ⟨_, migrateSwap_begins hb hf ha hpb ⟨hbits, ⟨ha9, hda⟩, ⟨hb9, hdb⟩, hfr⟩, busy_setMig rfl⟩
    · exact ⟨_, migrateOptimistic_begins hb hf ha ⟨⟨ha9, hda⟩, hfr⟩, busy_setMig rfl⟩
    · exact migrationEnd_ends hb hf hi hfree hm

end Sys2Proof.Machine

/-! SUPPORT. The image of a parked context (R420): what its bytes hold. -/

namespace Sys2Proof.Machine

/-! ## Bytes of the image -/

section
variable (x : Ctx) (w f : Nat)

theorem imageByte_store {o : Nat} (h : o < 0x100000) : imageByte x w f o = granuleByte (storeGranule x (o / 16)) (o % 16) := if_pos h

theorem imageByte_queue {o : Nat} (h : o < 52224) : imageByte x w f (imageQueues + o) = queueByte x f o := by
  unfold imageByte
  dsimp only
  rw [if_neg (by show ¬ 0x118000 + o < 0x100000; omega), if_neg (by show ¬ 0x118000 + o < 0x118000; omega), if_pos (by show 0x118000 + o < 0x124C00; omega),
    Nat.add_sub_cancel_left]

theorem imageByte_seq (q : Seq) {o : Nat} (h : o < 512) : imageByte x w f (imageSeq q + o) = seqByte (ctxSeq x q) o := by
  have howner : imageOwner imageSeq (imageSeq q + o) = q := by
    cases q
    · exact if_pos (show 0x124C00 + o < 0x124E00 by omega)
    · exact (if_neg (by show ¬ 0x124E00 + o < 0x124E00; omega)).trans (if_pos (by show 0x124E00 + o < 0x125000; omega))
    · exact (if_neg (by show ¬ 0x125000 + o < 0x124E00; omega)).trans (if_neg (by show ¬ 0x125000 + o < 0x125000; omega))
  have hq : 0x124C00 ≤ imageSeq q ∧ imageSeq q ≤ 0x125000 := by cases q <;> decide
  unfold imageByte
  dsimp only
  rw [if_neg (by show ¬ imageSeq q + o < 0x100000; omega), if_neg (by show ¬ imageSeq q + o < 0x118000; omega),
    if_neg (by show ¬ imageSeq q + o < 0x124C00; omega), if_pos (by show imageSeq q + o < 0x125200; omega), howner, Nat.add_sub_cancel_left]

theorem imageByte_core {o : Nat} (h : o < 512) : imageByte x w f (imageCore + o) = coreByte x w o := by
  unfold imageByte
  dsimp only
  rw [if_neg (by show ¬ 0x125200 + o < 0x100000; omega), if_neg (by show ¬ 0x125200 + o < 0x118000; omega), if_neg (by show ¬ 0x125200 + o < 0x124C00; omega),
    if_neg (by show ¬ 0x125200 + o < 0x125200; omega), if_pos (by show 0x125200 + o < 0x125400; omega), Nat.add_sub_cancel_left]

theorem imageByte_engine (o : Nat) : imageByte x w f (imageEngine + o) = engineByte x f o := by
  unfold imageByte
  dsimp only
  rw [if_neg (by show ¬ 0x125400 + o < 0x100000; omega), if_neg (by show ¬ 0x125400 + o < 0x118000; omega), if_neg (by show ¬ 0x125400 + o < 0x124C00; omega),
    if_neg (by show ¬ 0x125400 + o < 0x125200; omega), if_neg (by show ¬ 0x125400 + o < 0x125400; omega), Nat.add_sub_cancel_left]

/-! ## Words of the image -/

theorem imageNat_pc (q : Seq) : imageNat (imageByte x w f) (imageSeq q + 400) 8 = (ctxSeq x q).pc.toNat := by
  refine (imageNat_byteOf _ _ (ctxSeq x q).pc.toNat 8 fun i hi => ?_).trans (Nat.mod_eq_of_lt ?_)
  · rw [Nat.add_assoc, imageByte_seq _ _ _ _ (by omega), seqByte, if_neg (by omega), if_neg (by omega), if_neg (by omega), if_pos (by omega)]
    congr 1
    omega
  · exact Nat.lt_of_lt_of_le (ctxSeq x q).pc.isLt (by decide)

theorem imageNat_reg (q : Seq) (r : Reg) : imageNat (imageByte x w f) (imageSeq q + 8 * r.toNat) 8 = (tget 0 (ctxSeq x q).g r.toNat).toNat := by
  have hr := r.isLt
  refine (imageNat_byteOf _ _ (tget 0 (ctxSeq x q).g r.toNat).toNat 8 fun i hi => ?_).trans (Nat.mod_eq_of_lt (tget 0 (ctxSeq x q).g r.toNat).isLt)
  rw [Nat.add_assoc, imageByte_seq _ _ _ _ (by omega), seqByte, if_pos (by omega), Nat.mul_add_div (by decide), Nat.div_eq_of_lt hi, Nat.add_zero,
    Nat.mul_add_mod, Nat.mod_eq_of_lt hi]

theorem imageNat_k0 : imageNat (imageByte x w f) imageCore 8 = 2 ^ 64 - 1 := by
  refine (imageNat_byteOf _ _ (2 ^ 64 - 1) 8 fun i hi => ?_).trans (by decide)
  rw [imageByte_core _ _ _ (by omega), coreByte, if_pos hi]
  have : ∀ i : Fin 8, (0xFF : Byte) = byteOf (2 ^ 64 - 1) i := by decide
  exact this ⟨i, hi⟩

theorem imageNat_rjob {m : Nat} {j : RJob} (hm : m < 8) (hj : x.rjobs[m]? = some j) :
    imageNat (imageByte x w f) (imageEngine + 560 + 32 * m) 8 = j.parcels.toNat := by
  refine (imageNat_byteOf _ _ j.parcels.toNat 8 fun i hi => ?_).trans (Nat.mod_eq_of_lt j.parcels.isLt)
  have hdiv : (560 + 32 * m + i - 560) / 32 = m := by omega
  have hmod : (560 + 32 * m + i - 560) % 32 = i := by omega
  rw [Nat.add_assoc, Nat.add_assoc, ← Nat.add_assoc 560, imageByte_engine, engineByte, if_neg (by omega), if_neg (by omega), if_neg (by omega), if_neg (by omega),
    if_neg (by omega), if_pos (by omega), hdiv, hmod, hj]
  exact if_pos hi

theorem imageNat_granule {m : Nat} (hm : m < 65536) : imageNat (imageByte x w f) (16 * m) 16 = (storeGranule x m).toNat := by
  refine (imageNat_byteOf _ _ (storeGranule x m).toNat 16 fun i hi => ?_).trans (Nat.mod_eq_of_lt (storeGranule x m).isLt)
  rw [imageByte_store _ _ _ (by omega), Nat.mul_add_div (by decide), Nat.div_eq_of_lt hi, Nat.add_zero, Nat.mul_add_mod, Nat.mod_eq_of_lt hi]
  rfl

/-! ## Queue entries of the image -/

/-- Bytes 0 to 255 of an entry are its data. -/
theorem entryBytes_data (e : QEntry) {i : Nat} (h : i < 256) : (entryBytes e).getD i 0 = byteOf e.data.toNat i := by
  rw [entryBytes, List.append_assoc, List.append_assoc, List.getD_append _ _ _ _ (by simpa using h), List.getD_eq_getElem _ _ (by simpa using h),
    List.getElem_map, List.getElem_range]
  rfl

/-- Bytes 256 to 263 of an entry are its mask. -/
theorem entryBytes_mask (e : QEntry) {i : Nat} (h : i < 8) : (entryBytes e).getD (256 + i) 0 = byteOf e.mask.toNat i := by
  rw [entryBytes, List.append_assoc, List.append_assoc, List.getD_append_right _ _ _ _ (by simp), List.getD_append _ _ _ _ (by simpa using h)]
  simp [h, byteOf]

/-- Byte 264 of an entry is its EOS. -/
theorem entryBytes_eos (e : QEntry) : (entryBytes e).getD 264 0 = if e.eos then 1 else 0 := by
  rw [entryBytes, List.append_assoc, List.append_assoc, List.getD_append_right _ _ _ _ (by simp), List.getD_append_right _ _ _ _ (by simp)]
  simp

theorem entryFrom_of_bytes {b : Nat → Byte} {o : Nat} {e : QEntry} (h : ∀ i, i < 272 → b (o + i) = (entryBytes e).getD i 0) : entryFrom b o = e := by
  have hdata : imageNat b o 256 = e.data.toNat := by
    refine (imageNat_byteOf _ _ e.data.toNat 256 fun i hi => ?_).trans (Nat.mod_eq_of_lt e.data.isLt)
    rw [h i (by omega), entryBytes_data e hi]
  have hmask : imageNat b (o + 256) 8 = e.mask.toNat := by
    refine (imageNat_byteOf _ _ e.mask.toNat 8 fun i hi => ?_).trans (Nat.mod_eq_of_lt e.mask.isLt)
    rw [Nat.add_assoc, h _ (by omega), entryBytes_mask e hi]
  have heos : imageNat b (o + 264) 1 = if e.eos then 1 else 0 := by
    refine (imageNat_byteOf _ _ (if e.eos then 1 else 0) 1 fun i hi => ?_).trans (by split <;> rfl)
    rw [Nat.lt_one_iff.mp hi, Nat.add_zero, h 264 (by omega), entryBytes_eos]
    split <;> rfl
  rw [entryFrom, hdata, hmask, heos]
  obtain ⟨d, m, s⟩ := e
  cases s <;> simp

/-- An entry in use stands in its slot. -/
theorem slotEntry_of_entry {q : Queue} {i : Nat} {e : QEntry} (hi : i < 16) (he : q.entries[i]? = some e) : slotEntry q ((q.head.toNat + i) % 16) = some e := by
  have hh := q.head.isLt
  rw [slotEntry, show ((q.head.toNat + i) % 16 + 16 - q.head.toNat) % 16 = i by omega, he]

theorem entryFrom_image {m i : Nat} {e : QEntry} (hm : m < 12) (hi : i < 16) (he : (imageQueue x m).entries[i]? = some e) :
    entryFrom (imageByte x w f) (imageQueues + 4352 * m + 272 * (((imageQueue x m).head.toNat + i) % 16)) = e := by
  have hslot := slotEntry_of_entry hi he
  refine entryFrom_of_bytes fun k hk => ?_
  have hn : ((imageQueue x m).head.toNat + i) % 16 < 16 := Nat.mod_lt _ (by decide)
  generalize ((imageQueue x m).head.toNat + i) % 16 = n at hslot hn ⊢
  rw [Nat.add_assoc, Nat.add_assoc, imageByte_queue _ _ _ (by omega), queueByte, show (4352 * m + (272 * n + k)) / 4352 = m by omega,
    show (4352 * m + (272 * n + k)) / 272 % 16 = n by omega, show (4352 * m + (272 * n + k)) % 272 = k by omega, hslot]

end

end Sys2Proof.Machine

/-! SUPPORT. The flip of a parked context into the shadow (R418): what leaving waits and giving back ranges leaves, and what landing leaves of a context. -/

namespace Sys2Proof.Machine

/-! ## Leaving waits -/

/-- Whoever leaves the line of an expander stands in it no longer, and nobody joins. -/
theorem waiters_leaveWaiters {s : State} {k n : Nat} {g : FeAgent} {w : Waiter} (h : w ∈ (getCluster (leaveWaiters s k g) n).waiters) :
    w ∈ (getCluster s n).waiters ∧ (n = k → w.agent ≠ g) := by
  unfold leaveWaiters at h
  dsimp only at h
  split at h
  · by_cases hn : n = k
    · subst hn
      rw [getCluster_setCluster] at h
      obtain ⟨hmem, hne⟩ := List.mem_filter.mp h
      exact ⟨hmem, fun _ => by simpa using hne⟩
    · rw [getCluster_setCluster_other _ _ hn] at h
      exact ⟨h, fun e => absurd e hn⟩
  next hany =>
    refine ⟨h, fun hn e => hany ?_⟩
    subst hn
    exact List.any_eq_true.mpr ⟨w, h, by simpa using e⟩

/-- Two states differ in clusters and dies only. -/
def SameButPools (s t : State) : Prop := t = { s with clusters := t.clusters, dies := t.dies }

theorem sameButPools_refl (s : State) : SameButPools s s := rfl

theorem SameButPools.trans {s t u : State} (h : SameButPools s t) (k : SameButPools t u) : SameButPools s u := by
  rw [SameButPools, k, h]

theorem sameButPools_setDie (s : State) (d : Nat) (y : Die) : SameButPools s (setDie s d y) := rfl

theorem sameButPools_setCluster (s : State) (k : Nat) (y : Cluster) : SameButPools s (setCluster s k y) := rfl

theorem SameButPools.cores {s t : State} (h : SameButPools s t) : t.cores = s.cores := (congrArg State.cores h :)
theorem SameButPools.mem {s t : State} (h : SameButPools s t) : t.mem = s.mem := (congrArg State.mem h :)
theorem SameButPools.cycle {s t : State} (h : SameButPools s t) : t.cycle = s.cycle := (congrArg State.cycle h :)

theorem sameButPools_leaveWaiters (s : State) (k : Nat) (g : FeAgent) : SameButPools s (leaveWaiters s k g) := by
  unfold leaveWaiters
  dsimp only
  split <;> rfl

/-- A core that leaves the line for memory in its cluster's pool. -/
theorem leavePool_spec (s : State) (c : Nat) : SameButPools s (leavePool s c) ∧
    ∀ n w, w ∈ (getCluster (leavePool s c) n).waiters → w ∈ (getCluster s n).waiters ∧ (n = clusterOfCore c → w.agent ≠ .load c ∧ w.agent ≠ .ring c) := by
  unfold leavePool
  dsimp only
  refine List.foldlRecOn (motive := fun t => SameButPools s t ∧ ∀ n w, w ∈ (getCluster t n).waiters →
    w ∈ (getCluster s n).waiters ∧ (n = clusterOfCore c → w.agent ≠ .load c ∧ w.agent ≠ .ring c)) _ _
    ⟨(sameButPools_leaveWaiters ..).trans (sameButPools_leaveWaiters ..), fun n w h => ?_⟩ fun t ht k _ => ?_
  · obtain ⟨h1, hring⟩ := waiters_leaveWaiters h
    obtain ⟨h0, hload⟩ := waiters_leaveWaiters h1
    exact ⟨h0, fun e => ⟨hload e, hring e⟩⟩
  · split
    · refine ⟨ht.1.trans (sameButPools_setCluster ..), fun n w h => ht.2 n w ?_⟩
      by_cases hn : n = k
      · subst hn; rw [getCluster_setCluster] at h; exact h
      · rwa [getCluster_setCluster_other _ _ hn] at h
    · exact ht

/-- A core that leaves its waits: nothing else of it or of any other core changes. -/
theorem leaveWait_spec (s : State) (c : Nat) :
    SameButPools (setCtx s c { getCtx s c with feWait := none, joinWait := none }) (leaveWait s c) ∧
    ∀ w ∈ (getCluster (leaveWait s c) (clusterOfCore c)).waiters, w.agent ≠ .load c ∧ w.agent ≠ .ring c := by
  obtain ⟨h, hw⟩ := leavePool_spec (setCtx s c { getCtx s c with feWait := none, joinWait := none }) c
  unfold leaveWait
  dsimp only
  split
  · refine ⟨h.trans (sameButPools_setDie ..), fun w hm => ?_⟩
    rw [getCluster_setDie] at hm
    exact (hw (clusterOfCore c) w hm).2 rfl
  · exact ⟨h, fun w hm => (hw (clusterOfCore c) w hm).2 rfl⟩

/-- Of a state nothing else has changed than what the running nest of a core has counted of its waits. -/
def CountsStall (s : State) (c : Nat) (t : State) : Prop := t = s ∨ ∃ n, t = setCtx s c { getCtx s c with nestRun := n }

theorem countsStall_ite (s : State) (c : Nat) (j : NestJob) (b : Bool) : CountsStall s c (if b then setNest s c j else s) := by
  cases b
  · exact .inl rfl
  · exact .inr ⟨some j, rfl⟩

theorem CountsStall.clusters {s t : State} {c : Nat} (h : CountsStall s c t) : t.clusters = s.clusters := by
  rcases h with rfl | ⟨n, rfl⟩ <;> rfl

/-- A nest that leaves the line of its expander only counts what it waited for. -/
theorem leaveExpander_spec (s : State) (c : Nat) :
    (∃ t, CountsStall s c t ∧ SameButPools t (leaveExpander s c)) ∧
    ∀ w ∈ (getCluster (leaveExpander s c) (clusterOfCore c)).waiters, w ∈ (getCluster s (clusterOfCore c)).waiters ∧ w.agent ≠ .nest c := by
  have hleave (t : State) (ht : CountsStall s c t) : (∃ u, CountsStall s c u ∧ SameButPools u (leaveWaiters t (clusterOfCore c) (.nest c))) ∧
      ∀ w ∈ (getCluster (leaveWaiters t (clusterOfCore c) (.nest c)) (clusterOfCore c)).waiters,
        w ∈ (getCluster s (clusterOfCore c)).waiters ∧ w.agent ≠ .nest c := by
    refine ⟨⟨t, ht, sameButPools_leaveWaiters ..⟩, fun w hw => ?_⟩
    obtain ⟨hmem, hne⟩ := waiters_leaveWaiters hw
    rw [getCluster, ht.clusters, ← getCluster] at hmem
    exact ⟨hmem, hne rfl⟩
  unfold leaveExpander
  dsimp only
  generalize List.find? _ (getCluster s (clusterOfCore c)).waiters = o
  cases o with
  | none => exact hleave s (.inl rfl)
  | some w =>
    cases (getCtx s c).nestRun with
    | none => exact hleave s (.inl rfl)
    | some j => exact hleave _ (countsStall_ite ..)

/-- A core whose placement gives its ranges back. -/
theorem disown_spec (s : State) (c : Nat) :
    (∃ r, getCore (disown s c) c = { getCore s c with range := r }) ∧ (disown s c).mem = s.mem ∧ (disown s c).cycle = s.cycle ∧
    (disown s c).clusters = s.clusters := by
  unfold disown
  split
  · exact ⟨⟨none, getCore_setCore ..⟩, rfl, rfl, rfl⟩
  · exact ⟨⟨_, rfl⟩, rfl, rfl, rfl⟩

/-! ## Landing -/

theorem due_le_lastDue {x : Ctx} {e : XResult} (h : e ∈ x.xres) : e.due ≤ lastDue x := by
  unfold lastDue
  generalize x.xres = l at h
  generalize 0 = n
  induction l generalizing n with
  | nil => exact nomatch h
  | cons r l ih =>
    rcases List.mem_cons.mp h with rfl | h
    · refine Nat.le_trans (Nat.le_max_right n e.due) ?_
      rw [List.foldl_cons]
      exact List.foldlRecOn (motive := fun m => max n e.due ≤ m) l _ (Nat.le_refl _) fun m hm r _ => Nat.le_trans hm (Nat.le_max_left ..)
    · exact ih h _

/-- Landing every result leaves of a context all but what results write, and X's clock. -/
theorem landAll_frame (x : Ctx) : ∃ n, landAll x =
    { x with store := (landAll x).store, raced := (landAll x).raced, tokenBad := (landAll x).tokenBad, k := (landAll x).k, flags := (landAll x).flags,
             w := (landAll x).w, xres := [], seqX := { x.seqX with clock := n } } := by
  have hland := (landed_landList (lastDue x) x.xres [] x).frame
  have hnone := landList_all x.xres x fun e he => due_le_lastDue he
  refine ⟨max x.seqX.clock (lastDue x), ?_⟩
  unfold landAll
  dsimp only
  rw [landBy_seqX, landBy]
  generalize landList (lastDue x) x.xres [] x = y at hland hnone
  rw [hnone] at hland
  rw [hland]

end Sys2Proof.Machine

/-! SUPPORT. Parking a context (R418, R419): asking, the flip, and the spill's faults. -/

namespace Sys2Proof.Machine

theorem getCore_setCore_cycle (s : State) (c n : Nat) (y : CoreState) : getCore { setCore s c y with cycle := n } c = y := getCore_setCore ..

/-- What comes before the exchange of contexts in a flip. -/
theorem beforeFlip_spec (s : State) (c : Nat) :
    (∃ n r, getCore (disown (leaveExpander (leaveWait s c) c) c) c =
      { getCore s c with ctx := { getCtx s c with feWait := none, joinWait := none, nestRun := n }, range := r }) ∧
    (disown (leaveExpander (leaveWait s c) c) c).mem = s.mem ∧ (disown (leaveExpander (leaveWait s c) c) c).cycle = s.cycle ∧
    ∀ w ∈ (getCluster (disown (leaveExpander (leaveWait s c) c) c) (clusterOfCore c)).waiters, w.agent ≠ .load c ∧ w.agent ≠ .ring c ∧ w.agent ≠ .nest c := by
  obtain ⟨hwait, hload⟩ := leaveWait_spec s c
  obtain ⟨⟨t, hstall, hpool⟩, hnest⟩ := leaveExpander_spec (leaveWait s c) c
  obtain ⟨⟨r, hr⟩, hmem, hcyc, hcl⟩ := disown_spec (leaveExpander (leaveWait s c) c) c
  have hcore : getCore (leaveWait s c) c = { getCore s c with ctx := { getCtx s c with feWait := none, joinWait := none } } := by
    rw [getCore, hwait.cores]
    exact getCore_setCore ..
  have hm : (leaveWait s c).mem = s.mem := hwait.mem.trans (setCtx_mem ..)
  have hc : (leaveWait s c).cycle = s.cycle := hwait.cycle.trans (setCtx_cycle ..)
  have ht : (∃ n, getCore t c = { getCore s c with ctx := { getCtx s c with feWait := none, joinWait := none, nestRun := n } }) ∧ t.mem = s.mem ∧ t.cycle = s.cycle := by
    rcases hstall with ht | ⟨n, ht⟩
    · rw [ht]
      exact ⟨⟨(getCtx s c).nestRun, hcore⟩, hm, hc⟩
    · rw [ht]
      refine ⟨⟨n, ?_⟩, (setCtx_mem ..).trans hm, (setCtx_cycle ..).trans hc⟩
      rw [setCtx, getCore_setCore, getCtx, hcore]
  obtain ⟨⟨n, hn⟩, htm, htc⟩ := ht
  refine ⟨⟨n, r, ?_⟩, hmem.trans (hpool.mem.trans htm), hcyc.trans (hpool.cycle.trans htc), fun w hw => ?_⟩
  · rw [hr, getCore, hpool.cores, ← getCore, hn]
  · rw [getCluster, hcl, ← getCluster] at hw
    obtain ⟨hw1, hw2⟩ := hnest w hw
    exact ⟨(hload w hw1).1, (hload w hw1).2, hw2⟩

section
variable {s : State} {c : Nat}

/-! ## Asking -/

theorem cxctlPark_asks (hp : canPark s c = true) (hr : inReset s c = false) :
    Completes (.cxctlPark c) s fun t => t = setCore s c (getCore t c) ∧ getCore t c = { getCore s c with parkReq := some 0 } := by
  refine ⟨_, if_pos (by simp [hp, hr]), ?_⟩
  dsimp only [askPark]
  rw [getCore_setCore]
  exact ⟨rfl, rfl⟩

theorem cxctlPark_ignored (h : (getCore s c).ctx.cell = none ∨ (getCore s c).parkReq ≠ none ∨ freeSlot s c = none ∨ inReset s c = true) :
    Completes (.cxctlPark c) s fun t => t = s := by
  refine ⟨s, if_neg ?_, rfl⟩
  rw [canPark]
  rcases h with h | h | h | h
  · simp [h]
  · cases hp : (getCore s c).parkReq with
    | none => exact absurd hp h
    | some w => simp
  · simp [h]
  · simp [h]

/-! ## The flip -/

theorem shadowFlip_unasked (h : (getCore s c).parkReq = none) : Completes (.shadowFlip c) s fun t => t = s := by
  refine ⟨s, ?_, rfl⟩
  show execShadowFlip c s = _
  unfold execShadowFlip
  dsimp only
  rw [h]

theorem shadowFlip_full (hf : freeSlot s c = none) (h : (getCore s c).parkReq ≠ none) :
    Completes (.shadowFlip c) s fun t => t = setCore s c (getCore t c) ∧ getCore t c = { getCore s c with parkReq := none } := by
  obtain ⟨w, hw⟩ := Option.ne_none_iff_exists'.mp h
  refine ⟨setCore s c { getCore s c with parkReq := none }, ?_, ?_⟩
  · show execShadowFlip c s = _
    unfold execShadowFlip
    dsimp only
    rw [hw, hf]
  · dsimp only
    rw [getCore_setCore]
    exact ⟨rfl, rfl⟩

theorem shadowFlip_waits {w i : Nat} (hw : (getCore s c).parkReq = some w) (hi : freeSlot s c = some i)
    (h : (getCore s c).spilling ≠ none ∨ (getCore s c).shadow.cell ≠ none ∨ (getCore s c).shadow.lacc ≠ [] ∨ inReset s c = true) :
    Completes (.shadowFlip c) s fun t => t = s := by
  refine ⟨s, ?_, rfl⟩
  show execShadowFlip c s = _
  unfold execShadowFlip
  dsimp only
  rw [hw, hi]
  refine if_pos ?_
  simpa [Option.isSome_iff_ne_none, or_assoc] using h

/-- What a flip makes of a core (R418). -/
structure Flipped (y z : CoreState) (i w : Nat) : Prop where
  parkReq : z.parkReq = none
  spilling : z.spilling = some (i, w)
  parked : z.parked = y.parked
  lastKernel : z.lastKernel = y.lastKernel
  cell : z.ctx.cell = y.shadow.cell
  vview : z.ctx.vview = y.ctx.vview
  tview : z.ctx.tview = y.ctx.tview
  aview : z.ctx.aview = y.ctx.aview
  ret : z.ctx.ret = y.ctx.ret
  rsoor : z.ctx.rsoor = y.ctx.rsoor
  shadowCell : z.shadow.cell = y.ctx.cell
  shadowResults : z.shadow.xres = []
  active : ∀ q, (ctxSeq z.ctx q).istore = (ctxSeq y.ctx q).istore ∧ (ctxSeq z.ctx q).tvec = (ctxSeq y.ctx q).tvec ∧
    ∀ r, regOf (ctxSeq z.ctx q) r = regOf (ctxSeq y.shadow q) r
  shadow : ∀ q, (ctxSeq z.shadow q).pc = (ctxSeq y.ctx q).pc ∧ ∀ r, regOf (ctxSeq z.shadow q) r = regOf (ctxSeq y.ctx q) r

theorem flipped_exchange (y : CoreState) (n : Option NestJob) (r : Option (Nat × Nat × Nat × Nat)) (i w : Nat) :
    Flipped y { y with
      ctx := inheritKernel (stillCtx { y.ctx with feWait := none, joinWait := none, nestRun := n }) y.shadow
      shadow := stillCtx { y.ctx with feWait := none, joinWait := none, nestRun := n }, parkReq := none, spilling := some (i, w), range := r } i w := by
  obtain ⟨m, hl⟩ := landAll_frame { y.ctx with feWait := none, joinWait := none, nestRun := n }
  unfold stillCtx
  dsimp only
  generalize landAll { y.ctx with feWait := none, joinWait := none, nestRun := n } = l at hl
  rw [hl]
  refine ⟨rfl, rfl, rfl, rfl, rfl, rfl, rfl, rfl, rfl, rfl, rfl, rfl, fun q => ?_, fun q => ?_⟩
  · cases q <;> exact ⟨rfl, rfl, fun _ => rfl⟩
  · cases q <;> exact ⟨rfl, fun _ => rfl⟩

theorem shadowFlip_flips {w i : Nat} (hw : (getCore s c).parkReq = some w) (hi : freeSlot s c = some i)
    (hsp : (getCore s c).spilling = none) (hsh : (getCore s c).shadow.cell = none) (hl : (getCore s c).shadow.lacc = []) (hr : inReset s c = false) :
    ∃ t, execShadowFlip c s = .next t ∧ t.cycle = s.cycle + 48 ∧ MemSame s t ∧ Flipped (getCore s c) (getCore t c) i w ∧
      ∀ w ∈ (getCluster t (clusterOfCore c)).waiters, w.agent ≠ .load c ∧ w.agent ≠ .ring c ∧ w.agent ≠ .nest c := by
  obtain ⟨⟨n, r, hcore⟩, hmem, hcyc, hwaiters⟩ := beforeFlip_spec s c
  unfold execShadowFlip
  dsimp only
  rw [hw, hi]
  dsimp only
  rw [if_neg (by simp [hsp, hsh, hl, hr])]
  generalize disown (leaveExpander (leaveWait s c) c) c = u at hcore hmem hcyc hwaiters
  rw [hcore]
  refine ⟨_, rfl, congrArg (· + 48) hcyc, fun a => congrFun (congrArg memGet hmem) a, ?_, hwaiters⟩
  rw [getCore_setCore_cycle]
  exact flipped_exchange ..

end

end Sys2Proof.Machine

/-! SUPPORT. The spill of a parked context and its return (R419, R420), and the settlement of O51. -/

namespace Sys2Proof.Machine

/-! ## Faults on an image -/

/-- A state on which a fault may be raised that belongs to another: the cores and the halt line of a partition stand as there. -/
structure FaultGround (p : Nat) (s u : State) : Prop where
  cores : u.cores = s.cores
  mem : MemSameButCounters s u
  halt : (getPart u p).halt = (getPart s p).halt
  reset : (getPart u p).reset = (getPart s p).reset

theorem OnlyCounting.faultGround {s u : State} (h : OnlyCounting s u) (p : Nat) : FaultGround p s u :=
  ⟨h.cores, h.mem, (congrArg Partition.halt (h.part p) :), h.reset p⟩

theorem faultGround_endFailed (s : State) (p va : Nat) (who : Option Translator) : FaultGround p s (endFailed s p va who) := by
  unfold endFailed
  exact ⟨rfl, fun _ _ => rfl, by rw [getPart_setPart], by rw [getPart_setPart]⟩

/-- What a fault on the image of a context shows. -/
structure ImageFaulted (s : State) (p c : Nat) (x : Ctx) (k : BitVec 8) (t : State) : Prop where
  raised : (getPart t p).halt.raised = true
  cause : (getPart t p).halt.cause = k
  core : (getPart t p).halt.core = c
  serial : (getPart t p).halt.serial = x.kernid.toNat % 2 ^ 32
  kept : getCore t c = getCore s c
  mem : MemSameButCounters s t

theorem raiseHalt_first {s : State} {p : Nat} (hr : (getPart s p).reset = .idle) (hn : (getPart s p).halt.raised = false) (k : BitVec 8) (c u n : Nat) (r d : Bool) :
    let t := getPart (raiseHalt s p k c u n r d) p
    t.reset = .idle ∧ t.halt.raised = true ∧ t.halt.cause = k ∧ t.halt.core = c ∧ t.halt.serial = n := by
  unfold raiseHalt
  dsimp only
  rw [if_neg (by simp [hr]), if_neg (by simp [hn]), getPart_setPart]
  exact ⟨hr, rfl, rfl, rfl, rfl⟩

theorem imageFault_faulted {s u : State} {p : Nat} (h : FaultGround p s u) (hr : (getPart s p).reset = .idle) (hn : (getPart s p).halt.raised = false)
    (c : Nat) (x : Ctx) (k : BitVec 8) : ImageFaulted s p c x k (imageFault u p c x k) := by
  obtain ⟨hcores, hmem, hhalt, hreset⟩ := h
  obtain ⟨hidle, hraised, hcause, hcore, hserial⟩ :=
    raiseHalt_first (hreset.trans hr) (by rw [hhalt]; exact hn) k c 1 (fieldOf x.kernid 0 32) (resumableCause k) false
  obtain ⟨kcores, kmem, _⟩ := raiseHalt_keeps u p k c 1 (fieldOf x.kernid 0 32) (resumableCause k) false
  unfold imageFault
  generalize raiseHalt u p k c 1 (fieldOf x.kernid 0 32) (resumableCause k) false = v at *
  obtain ⟨pcores, pmem, _⟩ := setPirq_keeps v p 0
  have hpart := getPart_setPirq 0 hidle
  refine ⟨?_, ?_, ?_, ?_, ?_, ?_⟩
  · rw [hpart]; exact hraised
  · rw [hpart]; exact hcause
  · rw [hpart]; exact hcore
  · rw [hpart]; exact hserial.trans (by simp [fieldOf])
  · rw [getCore, pcores, kcores, hcores, ← getCore]
  · intro a ha
    rw [pmem, kmem]
    exact hmem a ha

/-! ## The pages of an image -/

theorem imagePages_stop {s u : State} {d p a : Nat} {need : Need} {k : BitVec 8} {g : Nat} (h : imagePages s d p a need = .stop u k g) : FaultGround p s u := by
  unfold imagePages at h
  revert h
  refine List.foldlRecOn (motive := fun r : Try (List Loc) => r = .stop u k g → FaultGround p s u) _ _ (fun h => nomatch h) fun r ih n _ => ?_
  cases r with
  | wait v => exact ih
  | stop v e f => exact ih
  | ok l =>
    dsimp only
    cases hres : engineResolve s d p (a + 65536 * n) 16 need with
    | ok ps => exact fun h => nomatch h
    | wait v => exact fun h => nomatch h
    | stop v e f =>
      intro h
      obtain ⟨rfl, _, _⟩ := Try.stop.inj h
      rcases engineResolve_stop_state hres with hc | ⟨va, rfl⟩
      · exact hc.faultGround p
      · exact faultGround_endFailed ..

theorem getCore_of_cores {s t : State} (h : s.cores = t.cores) (n : Nat) : getCore s n = getCore t n := by rw [getCore, h, getCore]

theorem reset_of_not_inReset {s : State} {c p : Nat} (hp : partOfCore s c = some p) (h : inReset s c = false) : (getPart s p).reset = .idle := by
  rw [inReset, hp] at h
  simpa using h

/-- How a spill ends on core c, whose state is y: in state v, with what the write of the image into slot i has come to. -/
def spillEnd (v : State) (y : CoreState) (p c i w : Nat) : Except (BitVec 8 × Nat) (State × List (Nat × Nat)) → Res
  | .error (k, _) => .next (imageFault v p c y.shadow k)
  | .ok (t, stamps) => .next (takeFree (setCore t c { y with
      shadow := {}, spilling := none, parked := tput y.parked i { ctx := y.shadow, wake := w, ready := false, stamps := stamps } }) imageSize)

section
variable {s : State} {c p i w : Nat}

/-! ## The spill -/

theorem contextSpill_waits (hs : (getCore s c).spilling = some (i, w)) (hp : partOfCore s c = some p) (h : issuedDone (getCore s c).shadow = false ∨ inReset s c = true) :
    Completes (.contextSpillComplete c) s fun t => t = s := by
  refine ⟨s, ?_, rfl⟩
  show execContextSpillComplete c s = _
  unfold execContextSpillComplete
  dsimp only
  rw [hs, hp]
  exact if_pos (by simpa using h)

section
variable (hs : (getCore s c).spilling = some (i, w)) (hp : partOfCore s c = some p) (hd : issuedDone (getCore s c).shadow = true) (hr : inReset s c = false)
include hs hp hd hr

theorem contextSpill_page {u : State} (h : imagePages s (dieOfCore c) p (slotAddr s p c i) { wr := true } = .wait u) :
    Completes (.contextSpillComplete c) s fun t => t = u := by
  refine ⟨u, ?_, rfl⟩
  show execContextSpillComplete c s = _
  unfold execContextSpillComplete
  dsimp only
  rw [hs, hp]
  dsimp only
  rw [if_neg (by simp [hd, hr]), h]

theorem contextSpill_stops {u : State} {k : BitVec 8} {g : Nat} (h : imagePages s (dieOfCore c) p (slotAddr s p c i) { wr := true } = .stop u k g)
    (hn : (getPart s p).halt.raised = false) : Completes (.contextSpillComplete c) s (ImageFaulted s p c (getCore s c).shadow k) := by
  refine ⟨_, ?_, imageFault_faulted (imagePages_stop h) (reset_of_not_inReset hp hr) hn c _ k⟩
  show execContextSpillComplete c s = _
  unfold execContextSpillComplete
  dsimp only
  rw [hs, hp]
  dsimp only
  rw [if_neg (by simp [hd, hr]), h]

variable {heads : List Loc} (h : imagePages s (dieOfCore c) p (slotAddr s p c i) { wr := true } = .ok heads)
include h

/-- The write of an image whose pages are all there. -/
theorem contextSpill_writing : execContextSpillComplete c s =
    if !demandReady s (imageDemand s (dieOfCore c) p (slotAddr s p c i) (imagePieces (slotAddr s p c i) heads)) || writeWaits s (imagePieces (slotAddr s p c i) heads)
    then .next (awaitDemand s (imageDemand s (dieOfCore c) p (slotAddr s p c i) (imagePieces (slotAddr s p c i) heads)))
    else spillEnd (cacheAccess s (dieOfCore c) p (slotAddr s p c i) imageSize) (getCore s c) p c i w
      (writeAccess (cacheAccess s (dieOfCore c) p (slotAddr s p c i) imageSize) (imagePieces (slotAddr s p c i) heads)
        (imageByte (getCore s c).shadow w (cacheAccess s (dieOfCore c) p (slotAddr s p c i) imageSize).freeCtr) (fun _ => false) .none true
        (clockVector (cacheAccess s (dieOfCore c) p (slotAddr s p c i) imageSize) (dieOfCore c) [])) := by
  unfold execContextSpillComplete
  dsimp only
  rw [hs, hp]
  dsimp only
  rw [if_neg (by simp [hd, hr]), h]
  refine if_congr Iff.rfl rfl ?_
  generalize writeAccess (cacheAccess s (dieOfCore c) p (slotAddr s p c i) imageSize) _ _ _ _ _ _ = r
  cases r <;> rfl

theorem contextSpill_tokens
    (hw : demandReady s (imageDemand s (dieOfCore c) p (slotAddr s p c i) (imagePieces (slotAddr s p c i) heads)) = false ∨
      writeWaits s (imagePieces (slotAddr s p c i) heads) = true) :
    Completes (.contextSpillComplete c) s fun t =>
      t = awaitDemand s (imageDemand s (dieOfCore c) p (slotAddr s p c i) (imagePieces (slotAddr s p c i) heads)) :=
  ⟨_, (contextSpill_writing hs hp hd hr h).trans (if_pos (by simpa using hw)), rfl⟩

variable (hdm : demandReady s (imageDemand s (dieOfCore c) p (slotAddr s p c i) (imagePieces (slotAddr s p c i) heads)) = true)
  (hww : writeWaits s (imagePieces (slotAddr s p c i) heads) = false)
include hdm hww

theorem contextSpill_writes {u : State} {stamps : List (Nat × Nat)}
    (hok : writeAccess (cacheAccess s (dieOfCore c) p (slotAddr s p c i) imageSize) (imagePieces (slotAddr s p c i) heads)
      (imageByte (getCore s c).shadow w (cacheAccess s (dieOfCore c) p (slotAddr s p c i) imageSize).freeCtr) (fun _ => false) .none true
      (clockVector (cacheAccess s (dieOfCore c) p (slotAddr s p c i) imageSize) (dieOfCore c) []) = .ok (u, stamps)) :
    Completes (.contextSpillComplete c) s fun t => t.mem = u.mem ∧ t.dies = u.dies ∧ (∀ m, m ≠ c → getCore t m = getCore s m) ∧
      getCore t c = { getCore s c with shadow := {}, spilling := none,
                                       parked := tput (getCore s c).parked i { ctx := (getCore s c).shadow, wake := w, ready := false, stamps := stamps } } := by
  have hexec := contextSpill_writing hs hp hd hr h
  rw [if_neg (by simp [hdm, hww]), hok] at hexec
  refine ⟨_, hexec, rfl, rfl, fun m hm => ?_, getCore_setCore ..⟩
  exact (getCore_setCore_other _ _ hm).trans (((otherCoresKeep_writeAccess c hok).2 m hm).trans (getCore_of_cores (onlyCounting_cacheAccess ..).cores m))

theorem contextSpill_fails {k : BitVec 8} {g : Nat}
    (herr : writeAccess (cacheAccess s (dieOfCore c) p (slotAddr s p c i) imageSize) (imagePieces (slotAddr s p c i) heads)
      (imageByte (getCore s c).shadow w (cacheAccess s (dieOfCore c) p (slotAddr s p c i) imageSize).freeCtr) (fun _ => false) .none true
      (clockVector (cacheAccess s (dieOfCore c) p (slotAddr s p c i) imageSize) (dieOfCore c) []) = .error (k, g)) (hn : (getPart s p).halt.raised = false) :
    Completes (.contextSpillComplete c) s (ImageFaulted s p c (getCore s c).shadow k) := by
  have hexec := contextSpill_writing hs hp hd hr h
  rw [if_neg (by simp [hdm, hww]), herr] at hexec
  exact ⟨_, hexec, imageFault_faulted ((onlyCounting_cacheAccess ..).faultGround p) (reset_of_not_inReset hp hr) hn c _ k⟩

end

end

end Sys2Proof.Machine

/-! SUPPORT. The return of a parked context (R419, R420), and the settlement of O51. -/

namespace Sys2Proof.Machine

/-! ## A context that comes back -/

/-- What a fill makes of an image, with the performed stores of the context that it replaces. -/
def filledCtx (b : Nat → Byte) (k : Ctx) (held : List SAccess) (now : Nat) : Ctx :=
  resumeCtx { ctxFrom b k with sacc := held ++ (ctxFrom b k).sacc } now

section
variable (b : Nat → Byte) (k : Ctx) (held : List SAccess) (now : Nat)

theorem tfind_store_filledCtx {m : Nat} (h : m < 65536) : tfind (filledCtx b k held now).store m = some (BitVec.ofNat 128 (imageNat b (16 * m) 16)) := by
  unfold filledCtx resumeCtx ctxFrom
  dsimp only
  rw [tfind_fullTable, if_pos h]

theorem imageQueue_filledCtx {m : Nat} (h : m < 12) : imageQueue (filledCtx b k held now) m = queueFrom b m := by
  unfold imageQueue
  by_cases hm : m < 8
  · rw [if_pos hm]
    show tget {} (fullTable 8 (queueFrom b)) m = _
    rw [tget, tfind_fullTable, if_pos hm, Option.getD_some]
  · rw [if_neg hm]
    show tget {} (fullTable 4 fun n => queueFrom b (8 + n)) (m - 8) = _
    rw [tget, tfind_fullTable, if_pos (by omega), Option.getD_some, Nat.add_sub_cancel' (by omega)]

theorem nestRun_filledCtx : (filledCtx b k held now).nestRun = none ↔ imageNat b (imageEngine + 829) 1 = 0 := by
  show Option.map resumeNest (if _ then none else some _) = none ↔ _
  rw [Option.map_eq_none_iff]
  simp

theorem nestPend_filledCtx : (filledCtx b k held now).nestPend = none ↔ imageNat b (imageEngine + 830) 1 = 0 := by
  show (if _ then none else some _) = none ↔ _
  simp

theorem nestRun_filledCtx_reloads {j : NestJob} (h : (filledCtx b k held now).nestRun = some j) : j.latch = none ∧ j.ahead = none ∧ j.loading = none := by
  obtain ⟨i, _, rfl⟩ := Option.map_eq_some_iff.mp h
  exact ⟨rfl, rfl, rfl⟩

theorem ctxSeq_filledCtx (q : Seq) : ∃ r, ctxSeq (filledCtx b k held now) q =
    { seqFrom b q r with halted := false, origin := none, wait := .none, pageFail := false, clock := now } := by
  cases q
  · exact ⟨k.seqL, rfl⟩
  · exact ⟨k.seqX, rfl⟩
  · exact ⟨k.seqS, rfl⟩

theorem seq_filledCtx (q : Seq) : (ctxSeq (filledCtx b k held now) q).halted = false ∧ (ctxSeq (filledCtx b k held now) q).clock = now ∧
    (ctxSeq (filledCtx b k held now) q).pc = BitVec.ofNat 32 (imageNat b (imageSeq q + 400) 8) ∧
    ∀ r, regOf (ctxSeq (filledCtx b k held now) q) r = if r = 0 then 0 else BitVec.ofNat 64 (imageNat b (imageSeq q + 8 * r.toNat) 8) := by
  obtain ⟨v, hv⟩ := ctxSeq_filledCtx b k held now q
  rw [hv]
  refine ⟨rfl, rfl, rfl, fun r => ?_⟩
  unfold regOf
  refine if_congr Iff.rfl rfl ?_
  show tget 0 (fullTable 32 fun r => BitVec.ofNat 64 (imageNat b (imageSeq q + 8 * r) 8)) r.toNat = _
  rw [tget, tfind_fullTable, if_pos r.isLt, Option.getD_some]

end

/-! ## Coming back -/

theorem onlyCounting_imageReads (s : State) (d p a : Nat) (ps : List Piece) : OnlyCounting s (countReads (cacheAccess s d p a imageSize) ps) :=
  (onlyCounting_cacheAccess ..).trans (onlyCounting_countReads ..)

theorem reset_of_partRuns {s : State} {p : Nat} (h : partRuns s p = true) : (getPart s p).reset = .idle := by
  unfold partRuns at h
  simp only [Bool.and_eq_true, beq_iff_eq] at h
  exact h.1.2


/-- How the return of a context k from slot n ends on core c, whose state is y: in state v, with what the read of its image has come to. -/
def resumeEnd (v : State) (y : CoreState) (p c n : Nat) (k : Parked) (ps : List Piece) : Except (BitVec 8 × Nat) (Nat → Byte) → Res
  | .error (e, _) => .next (imageFault (countReads v ps) p c k.ctx e)
  | .ok b => .next (takeFree (setCore { countReads v ps with cycle := v.cycle + 48 } c
      { y with ctx := filledCtx b k.ctx y.ctx.sacc (v.cycle + 48), parked := tdel y.parked n, lastKernel := k.ctx.cell.map fun e => (e.part, e.serial) }) imageSize)

/-- A parked context may come back (R419). -/
def MayResume (s : State) (c p n : Nat) (k : Parked) : Prop :=
  k.ready = true ∧ resumeRoom s c k.ctx = true ∧ partRuns s p = true ∧ coveredDie s (dieOfCore c) k.stamps = true ∧
    ∀ m o, (m, o) ∈ (getCore s c).parked → m ≠ n → o.ready = true → ctxPrio s p o.ctx ≤ ctxPrio s p k.ctx

section
variable {s : State} {c p n : Nat} {k : Parked} (hk : tfind (getCore s c).parked n = some k)
include hk

theorem outranked_iff : outranked s p c n = false ↔
    ∀ m o, (m, o) ∈ (getCore s c).parked → m ≠ n → o.ready = true → ctxPrio s p o.ctx ≤ ctxPrio s p k.ctx := by
  unfold outranked
  dsimp only
  rw [hk]
  simp only [List.any_eq_false]
  constructor
  · intro h m o hmem hm ho
    have := h (m, o) hmem
    simpa [hm, ho] using this
  · rintro h ⟨m, o⟩ hmem
    have := h m o hmem
    simpa [imp_iff_not_or, or_assoc] using this

theorem mayResume_iff : MayResume s c p n k ↔
    (!k.ready || !resumeRoom s c k.ctx || outranked s p c n || !partRuns s p || !coveredDie s (dieOfCore c) k.stamps) = false := by
  rw [MayResume, ← outranked_iff hk]
  simp only [Bool.or_eq_false_iff, Bool.not_eq_false']
  tauto

theorem contextWake_readies : Completes (.contextWake c n) s fun t => t.cycle = max s.cycle k.wake ∧
    getCore t c = { getCore s c with parked := tput (getCore s c).parked n { k with ready := true } } ∧ MemSame s t := by
  refine ⟨{ setCore s c { getCore s c with parked := tput (getCore s c).parked n { k with ready := true } } with cycle := max s.cycle k.wake }, ?_,
    rfl, getCore_setCore .., fun _ => rfl⟩
  show execContextWake c n s = _
  unfold execContextWake
  dsimp only
  rw [hk]

variable (hp : partOfCore s c = some p)
include hp

theorem contextResume_waits (h : ¬ MayResume s c p n k) : Completes (.contextResume c n) s fun t => t = s := by
  rw [mayResume_iff hk] at h
  refine ⟨s, ?_, rfl⟩
  show execContextResume c n s = _
  unfold execContextResume
  dsimp only
  rw [hk, hp]
  exact if_pos (Bool.not_eq_false _ ▸ h)

variable (hm : MayResume s c p n k)
include hm

theorem contextResume_page {u : State} (h : imagePages s (dieOfCore c) p (slotAddr s p c n) { rd := true } = .wait u) :
    Completes (.contextResume c n) s fun t => t = u := by
  refine ⟨u, ?_, rfl⟩
  show execContextResume c n s = _
  unfold execContextResume
  dsimp only
  rw [hk, hp]
  dsimp only
  rw [(mayResume_iff hk).mp hm, h, if_neg Bool.false_ne_true]

theorem contextResume_stops {u : State} {e : BitVec 8} {g : Nat} (h : imagePages s (dieOfCore c) p (slotAddr s p c n) { rd := true } = .stop u e g)
    (hn : (getPart s p).halt.raised = false) : Completes (.contextResume c n) s (ImageFaulted s p c k.ctx e) := by
  refine ⟨_, ?_, imageFault_faulted (imagePages_stop h) (reset_of_partRuns hm.2.2.1) hn c _ e⟩
  show execContextResume c n s = _
  unfold execContextResume
  dsimp only
  rw [hk, hp]
  dsimp only
  rw [(mayResume_iff hk).mp hm, h, if_neg Bool.false_ne_true]

variable {heads : List Loc} (h : imagePages s (dieOfCore c) p (slotAddr s p c n) { rd := true } = .ok heads)
include h

/-- The read of an image whose pages are all there. -/
theorem contextResume_reading : execContextResume c n s =
    if !demandReady s (imageDemand s (dieOfCore c) p (slotAddr s p c n) (imagePieces (slotAddr s p c n) heads))
    then .next (awaitDemand s (imageDemand s (dieOfCore c) p (slotAddr s p c n) (imagePieces (slotAddr s p c n) heads)))
    else resumeEnd (cacheAccess s (dieOfCore c) p (slotAddr s p c n) imageSize) (getCore s c) p c n k (imagePieces (slotAddr s p c n) heads)
      (imageRead (cacheAccess s (dieOfCore c) p (slotAddr s p c n) imageSize) (dieOfCore c) (imagePieces (slotAddr s p c n) heads)) := by
  unfold execContextResume
  dsimp only
  rw [hk, hp]
  dsimp only
  rw [(mayResume_iff hk).mp hm, h, if_neg Bool.false_ne_true]
  refine if_congr Iff.rfl rfl ?_
  generalize imageRead (cacheAccess s (dieOfCore c) p (slotAddr s p c n) imageSize) _ _ = r
  cases r <;> rfl

theorem contextResume_tokens (hw : demandReady s (imageDemand s (dieOfCore c) p (slotAddr s p c n) (imagePieces (slotAddr s p c n) heads)) = false) :
    Completes (.contextResume c n) s fun t => t = awaitDemand s (imageDemand s (dieOfCore c) p (slotAddr s p c n) (imagePieces (slotAddr s p c n) heads)) :=
  ⟨_, (contextResume_reading hk hp hm h).trans (if_pos (by simp [hw])), rfl⟩

variable (hdm : demandReady s (imageDemand s (dieOfCore c) p (slotAddr s p c n) (imagePieces (slotAddr s p c n) heads)) = true)
include hdm

theorem contextResume_returns {b : Nat → Byte}
    (hb : imageRead (cacheAccess s (dieOfCore c) p (slotAddr s p c n) imageSize) (dieOfCore c) (imagePieces (slotAddr s p c n) heads) = .ok b) :
    Completes (.contextResume c n) s fun t => t.cycle = s.cycle + 48 ∧ MemSameButCounters s t ∧
      getCore t c = { getCore s c with ctx := filledCtx b k.ctx (getCore s c).ctx.sacc (s.cycle + 48), parked := tdel (getCore s c).parked n,
                                       lastKernel := k.ctx.cell.map fun e => (e.part, e.serial) } := by
  have hexec := contextResume_reading hk hp hm h
  have hcount := onlyCounting_imageReads s (dieOfCore c) p (slotAddr s p c n) (imagePieces (slotAddr s p c n) heads)
  rw [if_neg (by simp [hdm]), hb, resumeEnd, (onlyCounting_cacheAccess s ..).cycle] at hexec
  generalize countReads (cacheAccess s (dieOfCore c) p (slotAddr s p c n) imageSize) (imagePieces (slotAddr s p c n) heads) = v at hexec hcount
  exact ⟨_, hexec, rfl, hcount.mem, getCore_setCore ..⟩

theorem contextResume_fails {e : BitVec 8} {g : Nat}
    (hb : imageRead (cacheAccess s (dieOfCore c) p (slotAddr s p c n) imageSize) (dieOfCore c) (imagePieces (slotAddr s p c n) heads) = .error (e, g))
    (hn : (getPart s p).halt.raised = false) : Completes (.contextResume c n) s (ImageFaulted s p c k.ctx e) := by
  have hexec := contextResume_reading hk hp hm h
  rw [if_neg (by simp [hdm]), hb] at hexec
  exact ⟨_, hexec, imageFault_faulted ((onlyCounting_imageReads ..).faultGround p) (reset_of_partRuns hm.2.2.1) hn c _ e⟩

end

theorem completes_weaken {i : Instr} {s : State} {P Q : State → Prop} (h : Completes i s P) (hw : ∀ t, P t → Q t) : Completes i s Q := by
  obtain ⟨t, ht, hP⟩ := h
  exact ⟨t, ht, hw t hP⟩

theorem ImageFaulted.shown {s t : State} {p c : Nat} {x : Ctx} {k : BitVec 8} (h : ImageFaulted s p c x k t) :
    (getPart t p).halt.raised = true ∧ (getPart t p).halt.cause = k ∧ (getPart t p).halt.core = c ∧ (getPart t p).halt.serial = x.kernid.toNat % 2 ^ 32 ∧
      getCore t c = getCore s c ∧ MemSameButCounters s t :=
  ⟨h.raised, h.cause, h.core, h.serial, h.kept, h.mem⟩

theorem contextWake_empty {s : State} {c n : Nat} (h : tfind (getCore s c).parked n = none) :
    Completes (.contextWake c n) s (fun t => t = s) ∧ Completes (.contextResume c n) s fun t => t = s := by
  refine ⟨⟨s, ?_, rfl⟩, ⟨s, ?_, rfl⟩⟩
  · show execContextWake c n s = _
    unfold execContextWake
    dsimp only
    rw [h]
  · show execContextResume c n s = _
    unfold execContextResume
    dsimp only
    rw [h]

/-- Settles O51: asking for a park, the flip, the spill, waking, coming back, and the image. -/
theorem parkingEvents : Obligations.ParkingEvents := by
  unfold Obligations.ParkingEvents
  intro c n s
  refine ⟨fun hp hr => cxctlPark_asks hp hr, fun h => cxctlPark_ignored h, fun h => shadowFlip_unasked h, fun hf h => shadowFlip_full hf h, ?flip, ?spill, ?wake,
    fun h => contextWake_empty h, ?resume⟩
  case flip =>
    intro w i hw hi
    refine ⟨fun h => shadowFlip_waits hw hi h, fun hsp hsh hl hr => ?_⟩
    obtain ⟨t, ht, hcyc, hmem, h, hwaiters⟩ := shadowFlip_flips hw hi hsp hsh hl hr
    exact ⟨t, ht, hcyc, hmem, h.parkReq, h.spilling, h.parked, h.lastKernel, h.cell.trans hsh, h.vview, h.tview, h.aview, h.ret, h.rsoor, h.shadowCell,
      h.shadowResults, hwaiters, h.active, h.shadow⟩
  case spill =>
    intro i w p hs hp
    refine ⟨fun h => contextSpill_waits hs hp h, fun hd hr => ⟨fun u h => contextSpill_page hs hp hd hr h, fun u k g h hn => ?_, fun heads h => ⟨fun hw => ?_,
      fun hdm hww => ⟨fun u stamps hok => ?_, fun k g herr hn => ?_⟩⟩⟩⟩
    · exact completes_weaken (contextSpill_stops hs hp hd hr h hn) fun _ => ImageFaulted.shown
    · exact contextSpill_tokens hs hp hd hr h hw
    · exact contextSpill_writes hs hp hd hr h hdm hww hok
    · exact completes_weaken (contextSpill_fails hs hp hd hr h hdm hww herr hn) fun _ => ImageFaulted.shown
  case wake => exact fun k hk => contextWake_readies hk
  case resume =>
    intro k p hk hp
    refine ⟨fun h => contextResume_waits hk hp h, fun hm u h => contextResume_page hk hp hm h, fun hm u e g h hn => ?_, fun hm heads h => ⟨fun hw => ?_,
      fun b hdm hb => ?_, fun e g hdm hb hn => ?_⟩, fun w f => ?_⟩
    · exact completes_weaken (contextResume_stops hk hp hm h hn) fun _ => ImageFaulted.shown
    · exact contextResume_tokens hk hp hm h hw
    · refine completes_weaken (contextResume_returns hk hp hm h hdm hb) fun t ⟨hcyc, hmem, hcore⟩ => ?_
      dsimp only
      rw [hcore]
      refine ⟨hcyc, hmem, ?_, rfl, rfl, fun m hm => tfind_store_filledCtx b _ _ _ hm, fun m hm => imageQueue_filledCtx b _ _ _ hm, nestRun_filledCtx .., nestPend_filledCtx ..,
        fun j hj => nestRun_filledCtx_reloads b _ _ _ hj, rfl, rfl, fun q => seq_filledCtx b _ _ _ q⟩
      exact (tfind_tdel ..).trans (if_pos rfl)
    · exact completes_weaken (contextResume_fails hk hp hm h hdm hb hn) fun _ => ImageFaulted.shown
    · exact ⟨fun q => ⟨imageNat_pc k.ctx w f q, fun r => imageNat_reg k.ctx w f q r⟩, imageNat_k0 k.ctx w f, fun m j hm hj => imageNat_rjob k.ctx w f hm hj,
        fun m hm => imageNat_granule k.ctx w f hm, fun m i hm hi e he _ => entryFrom_image k.ctx w f hm hi he⟩

end Sys2Proof.Machine

/-! SUPPORT. The refutation of O48 (R334): where two resident kernels carry one serial number, the placement of one also replaces the other. -/

namespace Sys2Proof.Machine

/-- A kernel of stream n with one cell to place, with the same serial number whatever the stream. -/
def twinKernel (n : Nat) : Kernel :=
  { serial := 1, stream := n, prio := 3, kargs := 0, record := [], cen := false, cidx := 0, early := false, cells := 1,
    ranges := [{ next := 0, hi := 1, die := 0, owner := none }], started := [], ended := [], passedSms := [], reissued := [],
    codeL := [], codeX := [], codeS := [], failed := none }

/-- The kernel once core 0 has its range. -/
def placedTwin : Kernel := { twinKernel 0 with ranges := [{ next := 0, hi := 1, die := 0, owner := some 0 }] }

/-- A partition of cluster 0 whose streams 0 and 1 wait at E = 4 (PRIO 3 and one quantum of aging), each with a twin kernel. -/
def twinState : State :=
  { parts := [(0, { clusters := 1, en := true, streams := [(0, { prio := 3, boost := 1 }), (1, { prio := 3, boost := 1 })],
                    kernels := [twinKernel 0, twinKernel 1] })] }

/-- Core 0 asks, and no other request comes first. -/
theorem twinState_asks : partOfCore twinState 0 = some 0 ∧ partRuns twinState 0 = true ∧ groupDue twinState 0 = false ∧ lowerAsks twinState 0 0 = false := by
  decide +kernel

/-- The kernel of stream 0 is offered to core 0, and its range is there to give. -/
theorem twinState_offers : offer twinState 0 0 = some (twinKernel 0, 0, 0) ∧ giveRange (twinKernel 0) 0 0 = some placedTwin := by decide +kernel

/-- Stream 1 waits at E = 4 with a ready cell while stream 0 at E = 4 is served. -/
theorem twinState_waits : effPrio twinState 0 0 = 4 ∧ streamReady twinState 0 1 = true ∧ effPrio twinState 0 1 = 4 ∧ (getStream twinState 0 1).overtaken = 0 := by
  decide +kernel

/-- The placements counted against stream 1 once the event has acted. -/
def overtakenAfter : Res → Nat
  | .next t => (getStream t 0 1).overtaken
  | _ => 0

/-- The placement makes both twins the placed kernel of stream 0, so stream 1 has no ready cell left and counts nothing. -/
theorem twinState_uncounted : overtakenAfter (exec (.placementAsk 0) twinState) = 0 := by decide +kernel

/-- Refutes O48: of two resident kernels with one serial number, in streams that both wait at E = 4, the placement of the first replaces both by one of the
first stream; the second stream, ready before, is then not counted as passed over, though the statement wants 1 more. -/
theorem not_placementAndCells : ¬ Obligations.PlacementAndCells := by
  unfold Obligations.PlacementAndCells
  rintro ⟨hask, -⟩
  obtain ⟨hpart, hruns, hdue, hlower⟩ := twinState_asks
  obtain ⟨hoffer, hgive⟩ := twinState_offers
  obtain ⟨hserved, hready, hfour, hzero⟩ := twinState_waits
  obtain ⟨-, -, -, -, -, hplace⟩ := hask 0 0 twinState hpart hruns hdue
  obtain ⟨t, hexec, -, -, -, -, -, hcount, -⟩ := (hplace (twinKernel 0) 0 0 placedTwin hlower rfl hoffer hgive).2 rfl
  have hone : (getStream t 0 1).overtaken = 1 := by
    rw [hcount 1 (by decide) (by decide), hzero, if_pos ⟨hserved, hready, hfour⟩]
  have hnone : (getStream t 0 1).overtaken = 0 := by
    have h := twinState_uncounted
    rw [hexec] at h
    exact h
  exact absurd (hone.symm.trans hnone) (by decide)

end Sys2Proof.Machine

/-! PROOF. The decoder reads back what the encoder writes (R55, R57, R60, R65, R73): the fields of the parcels, operand codes, formats and qualifiers, then
each space instruction by instruction, and the statements DecodeOfEncode and DecodedWords from them. -/

namespace Sys2Proof

/-! ## Framing (R55, R60, R65, R73) -/

/-! The fields are read from the parcels that carry them. -/

theorem xUnpack_of_xPack {x : XRaw} {a b : Parcel} (h : xPack x = [a, b]) : xUnpack a b = x := by
  cases h
  obtain ⟨major, fn, d, a, b, c, fmt, stall, nf, k, sel⟩ := x
  simp only [xUnpack, XRaw.mk.injEq]
  refine ⟨?_, ?_, ?_, ?_, ?_, ?_, ?_, ?_, ?_, ?_, ?_⟩ <;> grind

theorem mUnpack_of_mPack {m : MRaw} {a b : Parcel} (h : mPack m = [a, b]) : mUnpack a b = m := by
  cases h
  obtain ⟨major, fn, d, gb, gx, off, sc, fe, hs, hslot, fmt⟩ := m
  simp only [mUnpack, MRaw.mk.injEq]
  refine ⟨?_, ?_, ?_, ?_, ?_, ?_, ?_, ?_, ?_, ?_, ?_⟩ <;> grind

theorem isWide_of_xPack {x : XRaw} {a b : Parcel} (h : xPack x = [a, b]) : isWide a = true := by
  obtain ⟨_, _, hx, hw⟩ := Laws.Shape.x_wide x
  cases h.symm.trans hx
  exact hw

theorem isWide_of_mPack {m : MRaw} {a b : Parcel} (h : mPack m = [a, b]) : isWide a = true := by
  obtain ⟨_, _, hm, hw⟩ := Laws.Shape.m_wide m
  cases h.symm.trans hm
  exact hw

theorem decode_xPack {x : XRaw} {a b : Parcel} (h : xPack x = [a, b]) (hm : x.major ≠ 0x7F) (hb : x.b ≠ 0x3FF) : decode .X a b = decodeX x := by
  have hu := xUnpack_of_xPack h
  have ha : a ≠ 0xFFFFFFFF := by rintro rfl; exact hm (by rw [← hu]; rfl)
  have hb : b ≠ 0xFFFFFFFF := by rintro rfl; exact hb (by rw [← hu]; rfl)
  simp only [decode, ha, hb, isWide_of_xPack h, hu, if_false, if_true]

theorem decode_mPack {m : MRaw} {a b : Parcel} (h : mPack m = [a, b]) (hm : m.major ≠ 0x7F) (hs : m.sc ≠ 7) :
    decode .L a b = decodeL m ∧ decode .S a b = decodeS m := by
  have hu := mUnpack_of_mPack h
  have ha : a ≠ 0xFFFFFFFF := by rintro rfl; exact hm (by rw [← hu]; rfl)
  have hb : b ≠ 0xFFFFFFFF := by rintro rfl; exact hs (by rw [← hu]; rfl)
  simp only [decode, ha, hb, isWide_of_mPack h, hu, if_false, if_true, and_self]

/-! ## Steps of a decoder that succeed -/

@[simp] theorem ok_bind {α β : Type} (a : α) (f : α → Except DecodeError β) : (Except.ok a >>= f) = f a := rfl
@[simp] theorem pure_eq_ok {α : Type} (a : α) : (pure a : Except DecodeError α) = .ok a := rfl
@[simp] theorem need_of {c : Bool} {e : DecodeError} (h : c = true) : need c e = .ok () := by rw [h]; rfl

/-! ## Operand codes (R61) -/

/-- A code whose low n bits are clear, with a number of n bits put into them. -/
theorem toNat_or_setWidth {n : Nat} (k : Nat) (x : BitVec n) (h : 2 ^ n * k + 2 ^ n ≤ 1024) :
    (BitVec.ofNat 10 (2 ^ n * k) ||| x.setWidth 10).toNat = 2 ^ n * k + x.toNat := by
  have hx := x.isLt
  rw [BitVec.toNat_or, BitVec.toNat_ofNat, BitVec.toNat_setWidth, Nat.mod_eq_of_lt (by omega), Nat.mod_eq_of_lt (by omega),
    Nat.two_pow_add_eq_or_of_lt hx]

theorem toNat_encOpnd_ind (g : Reg) : (encOpnd (.ind g)).toNat = 960 + g.toNat := toNat_or_setWidth 30 g (by decide)
theorem toNat_encOpnd_q (n : BitVec 3) : (encOpnd (.q n)).toNat = 992 + n.toNat := toNat_or_setWidth 124 n (by decide)
theorem toNat_encOpnd_w (n : BitVec 2) : (encOpnd (.w n)).toNat = 1000 + n.toNat := toNat_or_setWidth 250 n (by decide)

/-- The low bits of a code that ends in a number are the number. -/
theorem setWidth_of_toNat {n : Nat} {c : BitVec 10} {x : BitVec n} (k : Nat) (h : c.toNat = 2 ^ n * k + x.toNat) : c.setWidth n = x := by
  apply BitVec.eq_of_toNat_eq
  rw [BitVec.toNat_setWidth, h, Nat.mul_add_mod, Nat.mod_eq_of_lt x.isLt]

/-- The operands that have a code: a direct index is below 960. -/
def Opnd.Coded (o : Opnd) : Prop := ∀ i, o = .dir i → i.toNat < 960

theorem decOpnd_encOpnd {o : Opnd} (h : o.Coded) : decOpnd (encOpnd o) = .ok o := by
  cases o with
  | dir i => simp [decOpnd, encOpnd, h i rfl]
  | ind g =>
    have hn := toNat_encOpnd_ind g
    have hg := g.isLt
    rw [decOpnd, if_neg (by omega), if_pos (by omega), setWidth_of_toNat 30 hn]
  | q n =>
    have hn := toNat_encOpnd_q n
    have hg := n.isLt
    rw [decOpnd, if_neg (by omega), if_neg (by omega), if_pos (by omega), setWidth_of_toNat 124 hn]
  | w n =>
    have hn := toNat_encOpnd_w n
    have hg := n.isLt
    rw [decOpnd, if_neg (by omega), if_neg (by omega), if_neg (by omega), if_pos (by omega), setWidth_of_toNat 250 hn]
  | flags => rfl

/-- The code of all ones is no operand's. -/
theorem encOpnd_ne {o : Opnd} (h : o.Coded) : encOpnd o ≠ 0x3FF := by
  intro e
  have := decOpnd_encOpnd h
  rw [e] at this
  cases this

theorem Opnd.Coded.of_isRs {o : Opnd} (h : o.isRs = true) : o.Coded := by rintro i rfl; simpa [isRs] using h
theorem Opnd.Coded.of_isSrc {o : Opnd} (h : o.isSrc = true) : o.Coded := by rintro i rfl; simpa [isSrc, isRs] using h
theorem Opnd.Coded.of_isDst {o : Opnd} (h : o.isDst = true) : o.Coded := by rintro i rfl; simpa [isDst, isRs] using h
theorem Opnd.Coded.of_isMovSrc {o : Opnd} (h : o.isMovSrc = true) : o.Coded := by rintro i rfl; simpa [isMovSrc, isSrc, isRs] using h
theorem Opnd.Coded.of_isMovDst {o : Opnd} (h : o.isMovDst = true) : o.Coded := by rintro i rfl; simpa [isMovDst, isDst, isRs] using h

theorem decWhere_encOpnd {p : Opnd → Bool} {o : Opnd} (hc : o.Coded) (h : p o = true) : decWhere p (encOpnd o) = .ok o := by
  simp [decWhere, decOpnd_encOpnd hc, h]

@[simp] theorem decSrc_encOpnd {o : Opnd} (h : o.isSrc = true) : decSrc (encOpnd o) = .ok o := decWhere_encOpnd (.of_isSrc h) h
@[simp] theorem decDst_encOpnd {o : Opnd} (h : o.isDst = true) : decDst (encOpnd o) = .ok o := decWhere_encOpnd (.of_isDst h) h
@[simp] theorem decRs_encOpnd {o : Opnd} (h : o.isRs = true) : decRs (encOpnd o) = .ok o := decWhere_encOpnd (.of_isRs h) h
@[simp] theorem decMovSrc_encOpnd {o : Opnd} (h : o.isMovSrc = true) : decWhere Opnd.isMovSrc (encOpnd o) = .ok o :=
  decWhere_encOpnd (.of_isMovSrc h) h
@[simp] theorem decMovDst_encOpnd {o : Opnd} (h : o.isMovDst = true) : decWhere Opnd.isMovDst (encOpnd o) = .ok o :=
  decWhere_encOpnd (.of_isMovDst h) h

@[simp] theorem decQ_encOpnd (n : BitVec 3) : decQ (encOpnd (.q n)) = .ok n := by
  have hn := toNat_encOpnd_q n
  have hc : (encOpnd (.q n)).extractLsb' 3 7 = 0x7C := by
    apply BitVec.eq_of_toNat_eq
    have := n.isLt
    simp [hn, Nat.shiftRight_eq_div_pow]; omega
  simp [decQ, hc, setWidth_of_toNat (x := n) 124 hn]

@[simp] theorem decW_encOpnd (n : BitVec 2) : decW (encOpnd (.w n)) = .ok n := by
  have hn := toNat_encOpnd_w n
  have hc : (encOpnd (.w n)).extractLsb' 2 8 = 0xFA := by
    apply BitVec.eq_of_toNat_eq
    have := n.isLt
    simp [hn, Nat.shiftRight_eq_div_pow]; omega
  simp [decW, hc, setWidth_of_toNat (x := n) 250 hn]

@[simp] theorem decG_setWidth (g : Reg) : decG (g.setWidth 10) = .ok g := by
  have h : (g.setWidth 10).extractLsb' 5 5 = 0 := by grind
  simp [decG, h]

@[simp] theorem decK_setWidth (n : BitVec 3) : decK (n.setWidth 10) = .ok n := by
  have h : (n.setWidth 10).extractLsb' 3 7 = 0 := by grind
  simp [decK, h]

/-! ## Formats and qualifiers (R62 to R64, R171, R250, R257) -/

@[simp] theorem decZero_zero {n : Nat} : decZero (0 : BitVec n) = .ok () := by simp [decZero]
@[simp] theorem decZero_ofNat {n : Nat} : decZero (0#n) = .ok () := decZero_zero

@[simp] theorem decFFmt_encFFmt (f : FFmt) : decFFmt (encFFmt f) = .ok f := by cases f <;> rfl
@[simp] theorem decIFmt_encIFmt (f : IFmt) : decIFmt (encIFmt f) = f := by cases f <;> rfl
@[simp] theorem decRFmt_encRFmt (f : RFmt) : decRFmt (encRFmt f) = .ok f := by cases f <;> rfl
@[simp] theorem decRound_encRound (r : Round) : decRound (encRound r) = .ok r := by cases r <;> rfl
@[simp] theorem decPred_encPred (p : Pred) : decPred (encPred p) = .ok p := by cases p <;> rfl
@[simp] theorem decKOp_encKOp (p : KOpKind) : decKOp (encKOp p) = .ok p := by cases p <;> rfl
@[simp] theorem encBit_eq_one (b : Bool) : encBit b = 1#1 ↔ b = true := by cases b <;> decide

@[simp] theorem encFn_low (hi : BitVec 1) (lo : BitVec 3) : (encFn hi lo).extractLsb' 0 3 = lo := by simp only [encFn]; grind
@[simp] theorem encFn_high (hi : BitVec 1) (lo : BitVec 3) : (encFn hi lo).extractLsb' 3 1 = hi := by simp only [encFn]; grind

@[simp] theorem rawFn_high (b : BitVec 1) : (encFn 0#1 (0#2 ++ b)).extractLsb' 1 3 = 0 := by simp only [encFn]; grind
@[simp] theorem rawFn_low (b : BitVec 1) : (encFn 0#1 (0#2 ++ b)).extractLsb' 0 1 = b := by simp only [encFn]; grind

@[simp] theorem decDFmt_encDFmt (f : DFmt) (lo : BitVec 3) : decDFmt (encFn (encDFmt f).1 lo) (encDFmt f).2 = .ok f := by
  cases f <;> simp [decDFmt, encDFmt]

/-! ## X instructions (R60, R63, R70) -/

@[simp] theorem xBase_eq (major : BitVec 7) (q : XQ) :
    xBase major q = { major, fn := 0, d := 0, a := 0, b := 0, c := 0, fmt := 0, stall := q.stall, nf := encBit q.nf, k := q.k, sel := 0 } := rfl
@[simp] theorem fnLow_eq (x : XRaw) : x.fnLow = x.fn.extractLsb' 0 3 := rfl
@[simp] theorem fnSat_eq (x : XRaw) : x.fnSat = decide (x.fn.extractLsb' 3 1 = 1) := rfl
@[simp] theorem decFn0_eq (x : XRaw) : decFn0 x = need (x.fn = 0) .reservedFn := rfl
@[simp] theorem decN_eq (x : XRaw) : decN x = need (x.fmt = 0) .badFormat := rfl
@[simp] theorem decNoMask_eq (x : XRaw) : decNoMask x = need (x.k = 0) .badQualifier := rfl

@[simp] theorem xSel_major (x : XRaw) (s : Sel) : (xSel x s).major = x.major := rfl
@[simp] theorem xSel_fn (x : XRaw) (s : Sel) : (xSel x s).fn = x.fn := rfl
@[simp] theorem xSel_d (x : XRaw) (s : Sel) : (xSel x s).d = x.d := rfl
@[simp] theorem xSel_a (x : XRaw) (s : Sel) : (xSel x s).a = x.a := rfl
@[simp] theorem xSel_b (x : XRaw) (s : Sel) : (xSel x s).b = x.b := rfl
@[simp] theorem xSel_fmt (x : XRaw) (s : Sel) : (xSel x s).fmt = x.fmt := rfl
@[simp] theorem xSel_xq (x : XRaw) (s : Sel) : (xSel x s).xq = x.xq := rfl

@[simp] theorem xq_mk {major : BitVec 7} {fn : BitVec 4} {d a b c : BitVec 10} {fmt k : BitVec 3} {q : XQ} {sel : BitVec 2} (hk : k = q.k) :
    XRaw.xq { major, fn, d, a, b, c, fmt, stall := q.stall, nf := encBit q.nf, k, sel } = q := by
  simp [XRaw.xq, hk]

@[simp] theorem decNoSel_eq (x : XRaw) : decNoSel x = do { need (x.sel = 0) .badSelector; need (x.c = 0) .unusedField } := rfl
@[simp] theorem decBare_eq (x : XRaw) :
    decBare x = do { decFn0 x; decN x; decNoSel x; decNoMask x; decZero x.b } := rfl
@[simp] theorem decFnSat_eq (x : XRaw) : decFnSat x = do { need (x.fnLow = 0) .reservedFn; return x.fnSat } := rfl
@[simp] theorem decArith_eq (x : XRaw) : decArith x = do { let f ← decFFmt x.fmt; need f.isArith .badFormat; return f } := rfl

@[simp] theorem decH_eq (x : XRaw) :
    decH x = do { need (x.sel = 0) .badSelector; need (x.c.extractLsb' 6 4 = 0) .unusedField; return x.c.setWidth 6 } := rfl
@[simp] theorem rows_high (h : BitVec 6) : (h.setWidth 10).extractLsb' 6 4 = 0 := by grind
@[simp] theorem column_high (c : BitVec 8) : (c.setWidth 10).extractLsb' 8 2 = 0 := by grind

/-- A selector of an instruction with two operands (R63). -/
@[simp] theorem decSel_xSel_binary {x : XRaw} {s : Sel} {P : Nat} (hc : x.c = 0) (h : s.okBin P = true) : decSel (xSel x s) P true = .ok s := by
  have hz (i : BitVec 3) : (i.setWidth 10).extractLsb' 3 7 = 0 := by grind
  cases s with
  | none => simp [decSel, xSel, encSel, hc]
  | a i | b i | ab i => simp_all [decSel, xSel, encSel, Sel.okBin]

/-- A selector of an instruction that accepts only modes 0 and 1 (R63, R136). -/
@[simp] theorem decSel_xSel_unary {x : XRaw} {s : Sel} {P : Nat} (hc : x.c = 0) (h : s.okUn P = true) : decSel (xSel x s) P false = .ok s := by
  have hz (i : BitVec 3) : (i.setWidth 10).extractLsb' 3 7 = 0 := by grind
  cases s with
  | none => simp [decSel, xSel, encSel, hc]
  | a i => simp_all [decSel, xSel, encSel, Sel.okUn]
  | b i | ab i => cases h

/-- A selector of a conversion, beside the source format in c (R62, R63). -/
@[simp] theorem decCvtSel_xSel {x : XRaw} {s : Sel} {P : Nat} (hz : x.c.extractLsb' 6 4 = 0) (hi : x.c.setWidth 3 = 0) (h : s.okUn P = true) :
    decCvtSel (xSel x s) P = .ok s := by
  have hz (i : BitVec 3) : (x.c ||| i.setWidth 10).extractLsb' 6 4 = 0 := by grind
  have hi (i : BitVec 3) : (x.c ||| i.setWidth 10).setWidth 3 = i := by simp [BitVec.setWidth_or, hi]
  cases s with
  | none => simp only [decCvtSel, xSel, encSel, hz, hi]; rfl
  | a i => simp_all [decCvtSel, xSel, encSel, Sel.okUn]
  | b i | ab i => cases h

@[simp] theorem srcFmt_xSel (x : XRaw) (s : Sel) : (xSel x s).srcFmt = x.srcFmt := by
  simp only [XRaw.srcFmt, xSel]
  grind

@[simp] theorem srcFmt_mk (major : BitVec 7) (fn : BitVec 4) (d a b c : BitVec 10) (fmt stall k : BitVec 3) (nf : BitVec 1) (sel : BitVec 2) :
    XRaw.srcFmt { major, fn, d, a, b, c, fmt, stall, nf, k, sel } = c.extractLsb' 3 3 := rfl

@[simp] theorem cvtCode_format (f : BitVec 3) : (0#4 ++ f ++ 0#3 : BitVec 10).extractLsb' 3 3 = f := by grind
@[simp] theorem cvtCode_high (f : BitVec 3) : (0#4 ++ f ++ 0#3 : BitVec 10).extractLsb' 6 4 = 0 := by grind
@[simp] theorem cvtCode_low (f : BitVec 3) : (0#4 ++ f ++ 0#3 : BitVec 10).setWidth 3 = 0 := by grind

/-- An X instruction is encoded by fields that the decoder of the X space reads as that instruction, and neither parcel is all ones. -/
def XReads (i : Instr) : Prop := ∃ x, encode i = xPack x ∧ x.major ≠ 0x7F ∧ x.b ≠ 0x3FF ∧ decodeX x = .ok i

theorem XReads.of {i : Instr} {x : XRaw} (dec : XRaw → Except DecodeError Instr) (he : encode i = xPack x) (hd : decodeX x = dec x)
    (h : x.major ≠ 0x7F ∧ x.b ≠ 0x3FF ∧ dec x = .ok i) : XReads i := ⟨x, he, h.1, h.2.1, hd.trans h.2.2⟩

@[simp] theorem encOpnd_src_ne {o : Opnd} (h : o.isSrc = true) : encOpnd o ≠ 0x3FF#10 := encOpnd_ne (.of_isSrc h)
@[simp] theorem encOpnd_rs_ne {o : Opnd} (h : o.isRs = true) : encOpnd o ≠ 0x3FF#10 := encOpnd_ne (.of_isRs h)

@[simp] theorem regCode_ne (g : Reg) : g.setWidth 10 ≠ 0x3FF#10 := by bv_omega
@[simp] theorem numberCode_ne (n : BitVec 3) : n.setWidth 10 ≠ 0x3FF#10 := by bv_omega

/-- Every field that a decoder of the X space asks for is as the encoder left it, and what R61 to R66 demand of operands, selectors and formats is
well-formedness. -/
theorem xReads {i : Instr} (hw : i.wf = true) (hs : i.space = some .X) : XReads i := by
  cases i with
  | vadd f sat sel d a b q => exact .of decVadd rfl rfl (by simp_all [Instr.wf, decVadd])
  | vsub f sat sel d a b q => exact .of decVsub rfl rfl (by simp_all [Instr.wf, decVsub])
  | vmul f sat sel d a b q => exact .of decVmul rfl rfl (by simp_all [Instr.wf, decVmul])
  | vmulh f sel d a b q => exact .of decVmulh rfl rfl (by simp_all [Instr.wf, decVmulh])
  | vmad f sat d a b c q => exact .of decVmad rfl rfl (by simp_all [Instr.wf, decVmad])
  | vabs f sat sel d a q => exact .of decVabs rfl rfl (by simp_all [Instr.wf, decVabs])
  | vneg f sat sel d a q => exact .of decVneg rfl rfl (by simp_all [Instr.wf, decVneg])
  | vmin f sel d a b q => exact .of decVmin rfl rfl (by simp_all [Instr.wf, decVmin])
  | vmax f sel d a b q => exact .of decVmax rfl rfl (by simp_all [Instr.wf, decVmax])
  | vand d a b q => exact .of decVand rfl rfl (by simp_all [Instr.wf, decVand])
  | vor d a b q => exact .of decVor rfl rfl (by simp_all [Instr.wf, decVor])
  | vxor d a b q => exact .of decVxor rfl rfl (by simp_all [Instr.wf, decVxor])
  | vandn d a b q => exact .of decVandn rfl rfl (by simp_all [Instr.wf, decVandn])
  | vshl f sel d a b q => exact .of decVshl rfl rfl (by simp_all [Instr.wf, decVshl])
  | vshr f sel d a b q => exact .of decVshr rfl rfl (by simp_all [Instr.wf, decVshr])
  | vsra f sel d a b q => exact .of decVsra rfl rfl (by simp_all [Instr.wf, decVsra])
  | vcmp f p sel kd a b q => exact .of decVcmp rfl rfl (by simp_all [Instr.wf, decVcmp])
  | vsel d a b q => exact .of decVsel rfl rfl (by simp_all [Instr.wf, decVsel])
  | vsat f d a q => exact .of decVsat rfl rfl (by simp_all [Instr.wf, decVsat])
  | vtacc sat sel d a b q => exact .of decVtacc rfl rfl (by simp_all [Instr.wf, decVtacc, decIFmt])
  | tunp sel d a q => exact .of decTunp rfl rfl (by simp_all [Instr.wf, decTunp])
  | vfadd f sel d a b q => exact .of decVfadd rfl rfl (by simp_all [Instr.wf, decVfadd])
  | vfsub f sel d a b q => exact .of decVfsub rfl rfl (by simp_all [Instr.wf, decVfsub])
  | vfmul f sel d a b q => exact .of decVfmul rfl rfl (by simp_all [Instr.wf, decVfmul])
  | vfma f d a b c q => exact .of decVfma rfl rfl (by simp_all [Instr.wf, decVfma])
  | vfnma f d a b c q => exact .of decVfnma rfl rfl (by simp_all [Instr.wf, decVfnma])
  | vfmin f sel d a b q => exact .of decVfmin rfl rfl (by simp_all [Instr.wf, decVfmin])
  | vfmax f sel d a b q => exact .of decVfmax rfl rfl (by simp_all [Instr.wf, decVfmax])
  | vfcmp f p sel kd a b q => exact .of decVfcmp rfl rfl (by simp_all [Instr.wf, decVfcmp])
  | vfcls f sel d a q => exact .of decVfcls rfl rfl (by simp_all [Instr.wf, decVfcls])
  | vfdiv f sel d a b q => exact .of decVfdiv rfl rfl (by simp_all [Instr.wf, decVfdiv])
  | vrcp f sel d a q => exact .of decVrcp rfl rfl (by simp_all [Instr.wf, decVrcp])
  | vrsq f sel d a q => exact .of decVrsq rfl rfl (by simp_all [Instr.wf, decVrsq])
  | vexp2 f sel d a q => exact .of decVexp2 rfl rfl (by simp_all [Instr.wf, decVexp2])
  | vlog2 f sel d a q => exact .of decVlog2 rfl rfl (by simp_all [Instr.wf, decVlog2])
  | vcvtFloatToFloat df sf r sat sel d a q => exact .of decVcvtFloatToFloat rfl rfl (by simp_all [Instr.wf, decVcvtFloatToFloat])
  | vcvtFloatToInteger df sf r sel d a q => exact .of decVcvtFloatToInteger rfl rfl (by simp_all [Instr.wf, decVcvtFloatToInteger])
  | vcvtIntegerToFloat df sf r sat sel d a q => exact .of decVcvtIntegerToFloat rfl rfl (by simp_all [Instr.wf, decVcvtIntegerToFloat])
  | vcvtIntegerToInteger df sf sat sel d a q => exact .of decVcvtIntegerToInteger rfl rfl (by simp_all [Instr.wf, decVcvtIntegerToInteger])
  | vpack f r d a b q => exact .of decVpack rfl rfl (by simp_all [Instr.wf, decVpack])
  | vunpk f d a q => exact .of decVunpk rfl rfl (by simp_all [Instr.wf, decVunpk])
  | cbx w t d a q => exact .of decCbx rfl rfl (by cases w <;> simp_all [Instr.wf, decCbx])
  | cbld t a q => exact .of decCbld rfl rfl (by simp_all [Instr.wf, decCbld])
  | vmov d a q => exact .of decVmov rfl rfl (by simp_all [Instr.wf, decVmov])
  | vbcst d a q => exact .of decVbcst rfl rfl (by simp_all [Instr.wf, decVbcst])
  | vidx d q => exact .of decVidx rfl rfl (by simp_all [Instr.wf, decVidx])
  | vperm d a b q => exact .of decVperm rfl rfl (by simp_all [Instr.wf, decVperm])
  | vrot d a b q => exact .of decVrot rfl rfl (by simp_all [Instr.wf, decVrot])
  | vgth d a b q => exact .of decVgth rfl rfl (by simp_all [Instr.wf, decVgth])
  | vsct d a b q => exact .of decVsct rfl rfl (by simp_all [Instr.wf, decVsct])
  | vxtr f d a b q => exact .of decVxtr rfl rfl (by simp_all [Instr.wf, decVxtr])
  | vins f d a b q => exact .of decVins rfl rfl (by simp_all [Instr.wf, decVins])
  | vrsum f d a q => exact .of decVrsum rfl rfl (by simp_all [Instr.wf, decVrsum])
  | vrmax f d a q => exact .of decVrmax rfl rfl (by simp_all [Instr.wf, decVrmax])
  | vrmin f d a q => exact .of decVrmin rfl rfl (by simp_all [Instr.wf, decVrmin])
  | vmcnt d ka q => exact .of decVmcnt rfl rfl (by simp_all [Instr.wf, decVmcnt])
  | vmscl f sel d a b q => exact .of decVmscl rfl rfl (by simp_all [Instr.wf, decVmscl])
  | kop op kd ka kb q => exact .of decKop rfl rfl (by simp_all [Instr.wf, decKop])
  | kset kd a q => exact .of decKset rfl rfl (by simp_all [Instr.wf, decKset])
  | sms q => exact .of decSms rfl rfl (by simp_all [Instr.wf, decSms])
  | wpw q => exact .of decWpw rfl rfl (by simp_all [Instr.wf, decWpw])
  | gbar q => exact .of decGbar rfl rfl (by simp_all [Instr.wf, decGbar])
  | sig a q => exact .of decSig rfl rfl (by simp_all [Instr.wf, decSig])
  | tail q => exact .of decTail rfl rfl (by simp_all [Instr.wf, decTail])
  | yld q => exact .of decYld rfl rfl (by simp_all [Instr.wf, decYld])
  | qtst d a q => exact .of decQtst rfl rfl (by simp_all [Instr.wf, decQtst])
  | qfwd d a q => exact .of decQfwd rfl rfl (by simp_all [Instr.wf, decQfwd])
  | mcfg word a q => exact .of decMcfg rfl rfl (by simp_all [Instr.wf, decMcfg])
  | mcfgl a q => exact .of decMcfgl rfl rfl (by simp_all [Instr.wf, decMcfgl])
  | mgo q => exact .of decMgo rfl rfl (by simp_all [Instr.wf, decMgo])
  | mwait d q => exact .of decMwait rfl rfl (by simp_all [Instr.wf, decMwait])
  | aclr d a h q => exact .of decAclr rfl rfl (by simp_all [Instr.wf, decAclr])
  | aanc d a h q => exact .of decAanc rfl rfl (by simp_all [Instr.wf, decAanc])
  | rslvCanonical d h q => exact .of decRslv rfl rfl (by simp_all [Instr.wf, decRslv])
  | rslvToFormat f r sat d a h q => exact .of decRslv rfl rfl (by cases f <;> simp_all [Instr.wf, decRslv, encRFmt, decRFmt])
  | rslvWireForm d a b h q => exact .of decRslv rfl rfl (by simp_all [Instr.wf, decRslv])
  | ascl d a b h q => exact .of decAscl rfl rfl (by simp_all [Instr.wf, decAscl])
  | acmp p raw kd a b col q => exact .of decAcmp rfl rfl (by simp_all [Instr.wf, decAcmp])
  | amov d a h q => exact .of decAmov rfl rfl (by simp_all [Instr.wf, decAmov])
  | achk a h q => exact .of decAchk rfl rfl (by simp_all [Instr.wf, decAchk])
  | _ => cases hs

/-! ## L and S instructions (R64 to R66, R71, R72, R250, R257) -/

@[simp] theorem mBase_eq (major : BitVec 7) (d : BitVec 10) :
    mBase major d = { major, fn := 0, d, gb := 0, gx := 0, off := 0, sc := 0, fe := 0, hs := 0, hslot := 0, fmt := 0 } := rfl
@[simp] theorem mAddr_eq (m : MRaw) (e : Addr) : mAddr m e = mSlot { m with gb := e.gb, gx := e.gx, off := e.off } e.slot := rfl
@[simp] theorem mBaseAddr_eq (m : MRaw) (e : Base) (gx : Reg) : mBaseAddr m e gx = mSlot { m with gb := e.gb, gx, off := e.off } e.slot := rfl
@[simp] theorem mFn0_eq (m : MRaw) : mFn0 m = need (m.fn = 0) .reservedFn := rfl
@[simp] theorem mSc0_eq (m : MRaw) : mSc0 m = need (m.sc = 0) .unusedField := rfl
@[simp] theorem mFe0_eq (m : MRaw) : mFe0 m = need (m.fe = 0) .unusedField := rfl
@[simp] theorem mFmt0_eq (m : MRaw) : mFmt0 m = need (m.fmt = 0) .unusedField := rfl
@[simp] theorem mOff0_eq (m : MRaw) : mOff0 m = need (m.off = 0) .unusedField := rfl
@[simp] theorem mGb0_eq (m : MRaw) : mGb0 m = need (m.gb = 0) .unusedField := rfl
@[simp] theorem mGx0_eq (m : MRaw) : mGx0 m = need (m.gx = 0) .unusedField := rfl
@[simp] theorem mHs0_eq (m : MRaw) : mHs0 m = do { need (m.hs = 0) .unusedField; need (m.hslot = 0) .unusedField } := rfl
@[simp] theorem mDiffer_eq (m : MRaw) : mDiffer m = need (regsDiffer m.gb m.gx) .badOperand := rfl
@[simp] theorem decAddr_eq (m : MRaw) : decAddr m = do { return { gb := m.gb, gx := m.gx, off := m.off, slot := ← decSlot m } } := rfl
@[simp] theorem decBase_eq (m : MRaw) : decBase m = do { return { gb := m.gb, off := m.off, slot := ← decSlot m } } := rfl
@[simp] theorem decAddr0_eq (m : MRaw) : decAddr0 m = do { need (m.hs = 0) .unusedField; decAddr m } := rfl
@[simp] theorem decSlot1_eq (m : MRaw) : decSlot1 m = do { need (m.hs = 1) .badQualifier; return m.hslot } := rfl

/-! mSlot writes hs and hslot alone. -/

@[simp] theorem mSlot_none (m : MRaw) : mSlot m none = m := rfl
@[simp] theorem mSlot_some (m : MRaw) (n : BitVec 4) : mSlot m (some n) = { m with hs := 1, hslot := n } := rfl
@[simp] theorem mSlot_major (m : MRaw) (s : Option (BitVec 4)) : (mSlot m s).major = m.major := by cases s <;> rfl
@[simp] theorem mSlot_fn (m : MRaw) (s : Option (BitVec 4)) : (mSlot m s).fn = m.fn := by cases s <;> rfl
@[simp] theorem mSlot_d (m : MRaw) (s : Option (BitVec 4)) : (mSlot m s).d = m.d := by cases s <;> rfl
@[simp] theorem mSlot_gb (m : MRaw) (s : Option (BitVec 4)) : (mSlot m s).gb = m.gb := by cases s <;> rfl
@[simp] theorem mSlot_gx (m : MRaw) (s : Option (BitVec 4)) : (mSlot m s).gx = m.gx := by cases s <;> rfl
@[simp] theorem mSlot_off (m : MRaw) (s : Option (BitVec 4)) : (mSlot m s).off = m.off := by cases s <;> rfl
@[simp] theorem mSlot_sc (m : MRaw) (s : Option (BitVec 4)) : (mSlot m s).sc = m.sc := by cases s <;> rfl
@[simp] theorem mSlot_fe (m : MRaw) (s : Option (BitVec 4)) : (mSlot m s).fe = m.fe := by cases s <;> rfl
@[simp] theorem mSlot_fmt (m : MRaw) (s : Option (BitVec 4)) : (mSlot m s).fmt = m.fmt := by cases s <;> rfl

/-! Codes read back from a field, whatever the other fields hold. -/

section
variable {major : BitVec 7} {fn hslot fmt : BitVec 4} {d : BitVec 10} {gb gx : BitVec 5} {off : BitVec 18} {sc : BitVec 3} {fe : BitVec 2} {hs : BitVec 1}

@[simp] theorem decScope_mSlot (m : MRaw) (s : Option (BitVec 4)) : decScope (mSlot m s) = decScope m := by cases s <;> rfl
@[simp] theorem decScope_encScope (x : Scope) : decScope { major, fn, d, gb, gx, off, sc := encScope x, fe, hs, hslot, fmt } = .ok x := by cases x <;> rfl
@[simp] theorem decKind_mSlot (m : MRaw) (s : Option (BitVec 4)) : decKind (mSlot m s) = decKind m := by cases s <;> rfl
@[simp] theorem decKind_encKind (x : AKind) : decKind { major, fn := encKind x, d, gb, gx, off, sc, fe, hs, hslot, fmt } = .ok x := by
  cases x <;> simp [decKind, encKind]
@[simp] theorem decSFmt_mSlot (m : MRaw) (s : Option (BitVec 4)) : decSFmt (mSlot m s) = decSFmt m := by cases s <;> rfl
@[simp] theorem decSFmt_encSFmt (x : SFmt) : decSFmt { major, fn, d, gb, gx, off, sc, fe, hs, hslot, fmt := encSFmt x } = .ok x := by cases x <;> rfl
@[simp] theorem decAFmt_mSlot (m : MRaw) (s : Option (BitVec 4)) : decAFmt (mSlot m s) = decAFmt m := by cases s <;> rfl
@[simp] theorem decAFmt_encAFmt (x : AFmt) : decAFmt { major, fn, d, gb, gx, off, sc, fe, hs, hslot, fmt := encAFmt x } = .ok x := by cases x <;> rfl
@[simp] theorem decAFFmt_mSlot (m : MRaw) (s : Option (BitVec 4)) : decAFFmt (mSlot m s) = decAFFmt m := by cases s <;> rfl
@[simp] theorem decAFFmt_encAFFmt (x : AFFmt) : decAFFmt { major, fn, d, gb, gx, off, sc, fe, hs, hslot, fmt := encAFFmt x } = .ok x := by
  cases x <;> rfl

@[simp] theorem decFe_encFe {x : Fe} {s : Option (BitVec 4)} (h : x.okWith s = true) :
    decFe (mSlot { major, fn, d, gb, gx, off, sc, fe := encFe x, hs := 0#1, hslot, fmt } s) = .ok x := by
  cases x with
  | none => cases s <;> rfl
  | fe | fec =>
    obtain ⟨n, rfl⟩ := Option.isSome_iff_exists.1 (by simpa [Fe.okWith] using h)
    rfl

end

@[simp] theorem decSlot_none {m : MRaw} (hs : m.hs = 0) (hn : m.hslot = 0) : decSlot m = .ok none := by simp [decSlot, hs, hn]
@[simp] theorem decSlot_mSlot {m : MRaw} {s : Option (BitVec 4)} (hs : m.hs = 0) (hn : m.hslot = 0) : decSlot (mSlot m s) = .ok s := by
  cases s with
  | none => exact decSlot_none hs hn
  | some n => rfl

/-- An address without a handle slot. -/
@[simp] theorem addr_none {e : Addr} (h : e.slot = none) : ({ gb := e.gb, gx := e.gx, off := e.off, slot := none } : Addr) = e := by rw [← h]

@[simp] theorem staFn_high (b : BitVec 1) : (0#3 ++ b).extractLsb' 1 3 = 0 := by grind
@[simp] theorem staFn_low (b : BitVec 1) : (0#3 ++ b).extractLsb' 0 1 = b := by grind
@[simp] theorem scopeCode_ne (x : Scope) : encScope x ≠ 7#3 := by cases x <;> decide

/-- An L or S instruction is encoded by fields that the decoder of a space reads as that instruction, and neither parcel is all ones. -/
def MReads (space : MRaw → Except DecodeError Instr) (i : Instr) : Prop := ∃ m, encode i = mPack m ∧ m.major ≠ 0x7F ∧ m.sc ≠ 7 ∧ space m = .ok i

theorem MReads.of {space : MRaw → Except DecodeError Instr} {i : Instr} {m : MRaw} (k : BitVec 7) (dec : MRaw → Except DecodeError Instr)
    (he : encode i = mPack m) (hd : ∀ m : MRaw, space { m with major := k } = dec { m with major := k }) (hk : k ≠ 0x7F)
    (h : m.major = k ∧ m.sc ≠ 7 ∧ dec m = .ok i) : MReads space i := by
  obtain ⟨rfl, hs, hi⟩ := h
  exact ⟨m, he, hk, hs, (hd m).trans hi⟩

/-- The same in the L space. -/
theorem lReads {i : Instr} (hw : i.wf = true) (hs : i.space = some .L) : MReads decodeL i := by
  cases i with
  | ldv d e x => exact .of 0x01 decLdv rfl (fun _ => rfl) (by decide) (by simp_all [Instr.wf, decLdv])
  | ldq d e x => exact .of 0x02 decLdq rfl (fun _ => rfl) (by decide) (by simp_all [Instr.wf, decLdq])
  | lds f d e x => exact .of 0x03 decLds rfl (fun _ => rfl) (by decide) (by simp_all [Instr.wf, decLds])
  | gthq d gx e => exact .of 0x04 decGthq rfl (fun _ => rfl) (by decide) (by simp_all [Instr.wf, decGthq])
  | prf e => exact .of 0x05 decPrf rfl (fun _ => rfl) (by decide) (by simp_all [Instr.wf, decPrf])
  | qpsh d gb gx => exact .of 0x06 decQpsh rfl (fun _ => rfl) (by decide) (by simp_all [Instr.wf, decQpsh])
  | qeos d => exact .of 0x07 decQeos rfl (fun _ => rfl) (by decide) (by simp_all [Instr.wf, decQeos])
  | strm d e x => exact .of 0x20 decStrm rfl (fun _ => rfl) (by decide) (by simp_all [Instr.wf, decStrm])
  | tokw d => exact .of 0x30 decTokw rfl (fun _ => rfl) (by decide) (by simp_all [Instr.wf, decTokw])
  | hget d gb slot => exact .of 0x31 decHget rfl (fun _ => rfl) (by decide) (by simp_all [Instr.wf, decHget])
  | hpass d gb gx slot => exact .of 0x32 decHpass rfl (fun _ => rfl) (by decide) (by simp_all [Instr.wf, decHpass])
  | hrel slot => exact .of 0x33 decHrel rfl (fun _ => rfl) (by decide) (by simp_all [Instr.wf, decHrel])
  | itin d e => exact .of 0x40 decItin rfl (fun _ => rfl) (by decide) (by simp_all [Instr.wf, decItin])
  | jcpy d e => exact .of 0x41 decJcpy rfl (fun _ => rfl) (by decide) (by simp_all [Instr.wf, decJcpy])
  | jwait d => exact .of 0x42 decJwait rfl (fun _ => rfl) (by decide) (by simp_all [Instr.wf, decJwait])
  | rcon d gb gx off slot => exact .of 0x50 decRcon rfl (fun _ => rfl) (by decide) (by simp_all [Instr.wf, decRcon])
  | rqgt d slot => exact .of 0x51 decRqgt rfl (fun _ => rfl) (by decide) (by simp_all [Instr.wf, decRqgt])
  | mca d gb gx => exact .of 0x52 decMca rfl (fun _ => rfl) (by decide) (by simp_all [Instr.wf, decMca])
  | _ => cases hs

/-- The same in the S space. -/
theorem sReads {i : Instr} (hw : i.wf = true) (hs : i.space = some .S) : MReads decodeS i := by
  cases i with
  | stv d e x => exact .of 0x01 decStv rfl (fun _ => rfl) (by decide) (by simp_all [Instr.wf, decStv])
  | stq d e x => exact .of 0x02 decStq rfl (fun _ => rfl) (by decide) (by simp_all [Instr.wf, decStq])
  | sts f d e x => exact .of 0x03 decSts rfl (fun _ => rfl) (by decide) (by simp_all [Instr.wf, decSts])
  | sta raw d gx e => exact .of 0x04 decSta rfl (fun _ => rfl) (by decide) (by simp_all [Instr.wf, decSta])
  | sct d gx e => exact .of 0x05 decSct rfl (fun _ => rfl) (by decide) (by simp_all [Instr.wf, decSct])
  | atadd f k sc d gx e => exact .of 0x20 decAtadd rfl (fun _ => rfl) (by decide) (by simp_all [Instr.wf, decAtadd])
  | atfadd f k sc d gx e => exact .of 0x21 decAtfadd rfl (fun _ => rfl) (by decide) (by simp_all [Instr.wf, decAtfadd])
  | atmin f k sc d gx e => exact .of 0x22 decAtmin rfl (fun _ => rfl) (by decide) (by simp_all [Instr.wf, decAtmin])
  | atmax f k sc d gx e => exact .of 0x23 decAtmax rfl (fun _ => rfl) (by decide) (by simp_all [Instr.wf, decAtmax])
  | atxch f k sc d gx e => exact .of 0x24 decAtxch rfl (fun _ => rfl) (by decide) (by simp_all [Instr.wf, decAtxch])
  | atcas f k sc d gx e => exact .of 0x25 decAtcas rfl (fun _ => rfl) (by decide) (by simp_all [Instr.wf, decAtcas])
  | fence k sc => exact .of 0x30 decFence rfl (fun _ => rfl) (by decide) (by simp_all [Instr.wf, decFence])
  | bfen sc => exact .of 0x31 decBfen rfl (fun _ => rfl) (by decide) (by simp_all [Instr.wf, decBfen])
  | toks sc d => exact .of 0x32 decToks rfl (fun _ => rfl) (by decide) (by simp_all [Instr.wf, decToks])
  | rrsv d gb off slot => exact .of 0x40 decRrsv rfl (fun _ => rfl) (by decide) (by simp_all [Instr.wf, decRrsv])
  | rpub d gb gx off slot => exact .of 0x41 decRpub rfl (fun _ => rfl) (by decide) (by simp_all [Instr.wf, decRpub])
  | bmv d e => exact .of 0x50 decBmv rfl (fun _ => rfl) (by decide) (by simp_all [Instr.wf, decBmv])
  | coll d e => exact .of 0x51 decColl rfl (fun _ => rfl) (by decide) (by simp_all [Instr.wf, decColl])
  | mcj d e => exact .of 0x52 decMcj rfl (fun _ => rfl) (by decide) (by simp_all [Instr.wf, decMcj])
  | _ => cases hs

/-! ## Control instructions (R57, R59) -/

section
variable {w : Parcel} {major : BitVec 6} {d a b : Reg}

theorem encCR_fields {fn : BitVec 10} (h : encCR major d a b fn = [w]) : w.extractLsb' 31 1 = 0 ∧ w.extractLsb' 25 6 = major ∧
    w.extractLsb' 20 5 = d ∧ w.extractLsb' 15 5 = a ∧ w.extractLsb' 10 5 = b ∧ w.extractLsb' 0 10 = fn := by
  cases h
  refine ⟨?_, ?_, ?_, ?_, ?_, ?_⟩ <;> grind

theorem encCI_fields {imm : BitVec 15} (h : encCI major d a imm = [w]) : w.extractLsb' 31 1 = 0 ∧ w.extractLsb' 25 6 = major ∧
    w.extractLsb' 20 5 = d ∧ w.extractLsb' 15 5 = a ∧ w.extractLsb' 0 15 = imm := by
  cases h
  refine ⟨?_, ?_, ?_, ?_, ?_⟩ <;> grind

theorem encShift_fields {sh : BitVec 6} (h : encCI major d a (0#9 ++ sh) = [w]) : w.extractLsb' 31 1 = 0 ∧ w.extractLsb' 25 6 = major ∧
    w.extractLsb' 20 5 = d ∧ w.extractLsb' 15 5 = a ∧ w.extractLsb' 6 9 = 0 ∧ w.extractLsb' 0 6 = sh := by
  cases h
  refine ⟨?_, ?_, ?_, ?_, ?_, ?_⟩ <;> grind

theorem encCU_fields {imm : BitVec 20} (h : encCU major d imm = [w]) : w.extractLsb' 31 1 = 0 ∧ w.extractLsb' 25 6 = major ∧
    w.extractLsb' 20 5 = d ∧ w.extractLsb' 0 20 = imm ∧ w.extractLsb' 0 25 = d ++ imm := by
  cases h
  refine ⟨?_, ?_, ?_, ?_, ?_⟩ <;> grind

theorem encCJ_fields {off : BitVec 25} (h : encCJ major off = [w]) : w.extractLsb' 31 1 = 0 ∧ w.extractLsb' 25 6 = major ∧
    w.extractLsb' 0 25 = off := by
  cases h
  refine ⟨?_, ?_, ?_⟩ <;> grind

theorem encCL_fields {lc : BitVec 2} {cnt : BitVec 13} {body : BitVec 10} (h : encCL major lc cnt body = [w]) :
    w.extractLsb' 31 1 = 0 ∧ w.extractLsb' 25 6 = major ∧ w.extractLsb' 23 2 = lc ∧ w.extractLsb' 10 13 = cnt ∧ w.extractLsb' 0 10 = body ∧
    w.extractLsb' 0 23 = cnt ++ body := by
  cases h
  refine ⟨?_, ?_, ?_, ?_, ?_, ?_⟩ <;> grind

theorem encLoop_fields {lc : BitVec 2} {body : BitVec 10} (h : encCL major lc (a ++ 0#8) body = [w]) :
    w.extractLsb' 31 1 = 0 ∧ w.extractLsb' 25 6 = major ∧ w.extractLsb' 23 2 = lc ∧ w.extractLsb' 18 5 = a ∧ w.extractLsb' 10 8 = 0 ∧
    w.extractLsb' 0 10 = body := by
  cases h
  refine ⟨?_, ?_, ?_, ?_, ?_, ?_⟩ <;> grind

theorem encCS_fields {sr : BitVec 12} (h : encCS major d a sr = [w]) : w.extractLsb' 31 1 = 0 ∧ w.extractLsb' 25 6 = major ∧
    w.extractLsb' 20 5 = d ∧ w.extractLsb' 15 5 = a ∧ w.extractLsb' 3 12 = sr ∧ w.extractLsb' 0 3 = 0 := by
  cases h
  refine ⟨?_, ?_, ?_, ?_, ?_, ?_⟩ <;> grind

end

theorem scale_cases (s : BitVec 3) : s = 0 ∨ s = 1 ∨ s = 2 ∨ s = 3 ∨ s = 4 ∨ s = 5 ∨ s = 6 ∨ s = 7 := by bv_omega

/-- A well-formed instruction of one parcel is read back from it by the control decoder. -/
theorem control_reads {i : Instr} {w : Parcel} (hw : i.wf = true) (h : encode i = [w]) : isWide w = false ∧ decodeC w = .ok i := by
  cases i with
  | nop => simp [isWide, decodeC, decCR, encCR_fields h]
  | add d a b => simp [isWide, decodeC, decCR, encCR_fields h]
  | sub d a b => simp [isWide, decodeC, decCR, encCR_fields h]
  | mul d a b => simp [isWide, decodeC, decCR, encCR_fields h]
  | mulh d a b => simp [isWide, decodeC, decCR, encCR_fields h]
  | div d a b => simp [isWide, decodeC, decCR, encCR_fields h]
  | rem d a b => simp [isWide, decodeC, decCR, encCR_fields h]
  | andr d a b => simp [isWide, decodeC, decCR, encCR_fields h]
  | orr d a b => simp [isWide, decodeC, decCR, encCR_fields h]
  | xorr d a b => simp [isWide, decodeC, decCR, encCR_fields h]
  | shl d a b => simp [isWide, decodeC, decCR, encCR_fields h]
  | shr d a b => simp [isWide, decodeC, decCR, encCR_fields h]
  | sra d a b => simp [isWide, decodeC, decCR, encCR_fields h]
  | minr d a b => simp [isWide, decodeC, decCR, encCR_fields h]
  | maxr d a b => simp [isWide, decodeC, decCR, encCR_fields h]
  | seq d a b => simp [isWide, decodeC, decCR, encCR_fields h]
  | slt d a b => simp [isWide, decodeC, decCR, encCR_fields h]
  | sltu d a b => simp [isWide, decodeC, decCR, encCR_fields h]
  | csel d a b => simp [isWide, decodeC, decCR, encCR_fields h]
  | addx d a b s =>
    obtain rfl | rfl | rfl | rfl | rfl | rfl | rfl | rfl := scale_cases s <;> simp [isWide, decodeC, decCR, encCR_fields h]
  | addi d a imm => simp [isWide, decodeC, encCI_fields h]
  | andi d a imm => simp [isWide, decodeC, encCI_fields h]
  | ori d a imm => simp [isWide, decodeC, encCI_fields h]
  | xori d a imm => simp [isWide, decodeC, encCI_fields h]
  | shli d a sh => simp [isWide, decodeC, decShift, encShift_fields h]
  | shri d a sh => simp [isWide, decodeC, decShift, encShift_fields h]
  | srai d a sh => simp [isWide, decodeC, decShift, encShift_fields h]
  | slti d a imm => simp [isWide, decodeC, encCI_fields h]
  | lui d imm => simp [isWide, decodeC, encCU_fields h]
  | beq a b off => simp [isWide, decodeC, encCI_fields h]
  | bne a b off => simp [isWide, decodeC, encCI_fields h]
  | blt a b off => simp [isWide, decodeC, encCI_fields h]
  | bge a b off => simp [isWide, decodeC, encCI_fields h]
  | bltu a b off => simp [isWide, decodeC, encCI_fields h]
  | bgeu a b off => simp [isWide, decodeC, encCI_fields h]
  | jmp off => simp [isWide, decodeC, encCJ_fields h]
  | jal off => simp [isWide, decodeC, encCJ_fields h]
  | jr a => simp [isWide, decodeC, encCR_fields h]
  | loop lc a body => simp [isWide, decodeC, encLoop_fields h, show body ≠ 0#10 by simpa [Instr.wf] using hw]
  | loopi lc cnt body => simp [isWide, decodeC, encCL_fields h, show body ≠ 0#10 by simpa [Instr.wf] using hw]
  | lbrk lc => simp [isWide, decodeC, encCL_fields h]
  | mfs d sr => simp [isWide, decodeC, encCS_fields h]
  | mts a sr => simp [isWide, decodeC, encCS_fields h]
  | waitc imm => simp [isWide, decodeC, decCU, encCU_fields h]
  | trap imm => simp [isWide, decodeC, decCU, encCU_fields h]
  | rte => simp [isWide, decodeC, decCU0, encCU_fields h]
  | brk imm => simp [isWide, decodeC, decCU, encCU_fields h]
  | idle => simp [isWide, decodeC, decCU0, encCU_fields h]
  | tlbi a b => simp [isWide, decodeC, decSys, encCR_fields h]
  | tlbs d a => simp [isWide, decodeC, decSys, encCR_fields h]
  | cswap a => simp [isWide, decodeC, decSys, encCR_fields h]
  | _ => cases h

/-! ## The statement -/

theorem decode_control {w : Parcel} (h : isWide w = false) (sq : Seq) (p : Parcel) : decode sq w p = decodeC w := by
  have hne : w ≠ 0xFFFFFFFF := by rintro rfl; cases h
  simp only [decode, if_neg hne, h]
  rfl

/-- Only an instruction of a sequencer's own space takes two parcels (R55). -/
theorem space_of_two_parcels {i : Instr} {a b : Parcel} (h : encode i = [a, b]) : i.space ≠ none := by
  intro hs
  cases i <;> cases h <;> cases hs

/-- One parcel that encodes a well-formed instruction is read as it by every sequencer, whatever follows (R55). -/
theorem decode_of_encode_control {i : Instr} {w : Parcel} (hw : i.wf = true) (h : encode i = [w]) (sq : Seq) (p : Parcel) :
    decode sq w p = .ok i := by
  obtain ⟨hwide, hread⟩ := control_reads hw h
  rw [decode_control hwide, hread]

theorem decode_of_encode_X {i : Instr} {a b : Parcel} (hw : i.wf = true) (hs : i.space = some .X) (h : encode i = [a, b]) : decode .X a b = .ok i := by
  obtain ⟨x, hx, hm, hb, hread⟩ := xReads hw hs
  exact (decode_xPack (hx.symm.trans h) hm hb).trans hread

theorem decode_of_encode_L {i : Instr} {a b : Parcel} (hw : i.wf = true) (hs : i.space = some .L) (h : encode i = [a, b]) : decode .L a b = .ok i := by
  obtain ⟨m, hx, hm, hsc, hread⟩ := lReads hw hs
  exact (decode_mPack (hx.symm.trans h) hm hsc).1.trans hread

theorem decode_of_encode_S {i : Instr} {a b : Parcel} (hw : i.wf = true) (hs : i.space = some .S) (h : encode i = [a, b]) : decode .S a b = .ok i := by
  obtain ⟨m, hx, hm, hsc, hread⟩ := sReads hw hs
  exact (decode_mPack (hx.symm.trans h) hm hsc).2.trans hread

/-- Settles O16: one parcel through the control decoder, two through the decoder of the instruction's space. -/
theorem decodeOfEncode : Obligations.DecodeOfEncode := by
  refine fun i hw => ⟨fun w h => decode_of_encode_control hw h, fun a b h => ?_⟩
  match hs : i.space with
  | none => exact absurd hs (space_of_two_parcels h)
  | some .X => exact ⟨.X, decode_of_encode_X hw hs h⟩
  | some .L => exact ⟨.L, decode_of_encode_L hw hs h⟩
  | some .S => exact ⟨.S, decode_of_encode_S hw hs h⟩

/-- Settles O18: each word is the encoding of the instruction that it stands for, so decoding reads that instruction. -/
theorem decodedWords : Obligations.DecodedWords := by
  have c {i : Instr} {w : Parcel} (hw : i.wf = true) (h : encode i = [w]) (sq : Seq) : decode sq w 0 = .ok i := decode_of_encode_control hw h sq 0
  exact ⟨c rfl rfl, c rfl rfl, c rfl rfl, c rfl rfl, c rfl rfl, c rfl rfl, c rfl rfl, c rfl rfl, c rfl rfl, c rfl rfl, c rfl rfl, c rfl rfl, c rfl rfl,
    c rfl rfl,
    decode_of_encode_X rfl rfl rfl, decode_of_encode_X rfl rfl rfl, decode_of_encode_X rfl rfl rfl, decode_of_encode_X rfl rfl rfl,
    decode_of_encode_X rfl rfl rfl, decode_of_encode_X rfl rfl rfl, decode_of_encode_X rfl rfl rfl, decode_of_encode_X rfl rfl rfl,
    decode_of_encode_X rfl rfl rfl, decode_of_encode_X rfl rfl rfl, decode_of_encode_X rfl rfl rfl, decode_of_encode_X rfl rfl rfl,
    decode_of_encode_X rfl rfl rfl, decode_of_encode_X rfl rfl rfl, decode_of_encode_X rfl rfl rfl, decode_of_encode_X rfl rfl rfl,
    decode_of_encode_L rfl rfl rfl, decode_of_encode_L rfl rfl rfl, decode_of_encode_L rfl rfl rfl, decode_of_encode_L rfl rfl rfl,
    decode_of_encode_S rfl rfl rfl, decode_of_encode_S rfl rfl rfl, decode_of_encode_S rfl rfl rfl, decode_of_encode_S rfl rfl rfl,
    decode_of_encode_S rfl rfl rfl⟩

end Sys2Proof

/-! PROOF. Branches and jumps (R89 to R91): what a branch does where its condition holds and where it does not, and the statement BranchesAndJumps. -/

namespace Sys2Proof.Machine

theorem completes_transfer {i : Instr} {s : State} {a : Int} {n : Nat} (h : exec i s = transfer a n s s) :
    (TargetOk s a → Completes i s (GoesTo s a.toNat n [])) ∧ (¬ TargetOk s a → Completes i s (BadTarget s a)) := by
  refine ⟨fun ht => ⟨_, h.trans (transfer_ok ht s), jump_goes s _ n⟩, fun ht => ?_⟩
  obtain ⟨t, he, hb⟩ := transfer_bad (n := n) ht s
  exact ⟨t, h.trans he, hb⟩

/-- A branch whose condition is p falls through, goes to its target, or faults at it (R89). -/
theorem completes_opBranch {i : Instr} {s : State} {a b : Reg} {off : BitVec 15} {c : Word → Word → Bool} {p : Prop}
    (h : exec i s = opBranch c a b off s) (hc : c (rd s a) (rd s b) = true ↔ p) :
    let dest : Int := (curSeq s).pc.toNat + 4 * off.toInt
    (¬ p → Completes i s fun t => SeqOnly s t 1 1 []) ∧ (p → TargetOk s dest → Completes i s (GoesTo s dest.toNat 3 [])) ∧
      (p → ¬ TargetOk s dest → Completes i s (BadTarget s dest)) := by
  have taken (hp : p) : exec i s = transfer ((curSeq s).pc.toNat + 4 * off.toInt) 3 s s := by rw [h, opBranch, if_pos (hc.2 hp)]
  refine ⟨fun hp => ⟨_, ?_, finish_seqOnly 1 1 s⟩, fun hp => (completes_transfer (taken hp)).1, fun hp => (completes_transfer (taken hp)).2⟩
  rw [h, opBranch, if_neg fun hb => hp (hc.1 hb)]

/-- Settles O3: the branches by completes_opBranch, the jumps by what a transfer of control does. -/
theorem branchesAndJumps : Obligations.BranchesAndJumps := by
  refine ⟨fun a b off s => ⟨?_, ?_, ?_, ?_, ?_, ?_⟩, fun off a s => ⟨fun ht => ⟨?_, ?_⟩, fun ht => ⟨?_, ?_⟩, ?_, ?_⟩⟩
  case refine_1 => exact completes_opBranch rfl beq_iff_eq
  case refine_2 => exact completes_opBranch rfl bne_iff_ne
  case refine_3 => exact completes_opBranch rfl BitVec.slt_iff_toInt_lt
  case refine_4 => exact completes_opBranch (c := fun x y => !x.slt y) rfl (by simp [BitVec.slt])
  case refine_5 => exact completes_opBranch rfl BitVec.ult_iff_lt
  case refine_6 => exact completes_opBranch (c := fun x y => !x.ult y) rfl (by simp [BitVec.ult])
  case refine_7 => exact (completes_transfer rfl).1 ht
  case refine_8 => exact ⟨_, transfer_ok ht _, jump_goes_wr s _ 3 _⟩
  case refine_9 => exact (completes_transfer rfl).2 ht
  case refine_10 =>
    obtain ⟨t, he, hb⟩ := transfer_bad ht (wr s 31 (BitVec.ofNat 64 ((curSeq s).pc.toNat + 4)))
    exact ⟨t, he, hb⟩
  case refine_11 => exact (completes_transfer rfl).1
  case refine_12 => exact (completes_transfer rfl).2

end Sys2Proof.Machine

/-! PROOF. Integer elements (R115, R141): the code of an integer read back, wrapped or clamped, and the statement IntegerVectorArithmetic from the shape of the
integer instructions. -/

namespace Sys2Proof.Machine

/-! ## The code of an integer (R115) -/

theorem pow_width (f : IFmt) : 2 ^ f.width = 2 * 2 ^ (f.width - 1) := by cases f <;> rfl

theorem zextI_lt (x : Int) (n : Nat) : zextI x n < 2 ^ n := by
  have h : (0 : Int) < (2 ^ n : Nat) := by positivity
  have := Int.emod_lt_of_pos x h
  have := Int.emod_nonneg x h.ne'
  unfold zextI
  omega

/-- An element is read as a value of its format. -/
theorem readInt_range (f : IFmt) (c : Nat) : (intRange f).1 ≤ readInt f c ∧ readInt f c ≤ (intRange f).2 := by
  have hw := pow_width f
  have := Nat.mod_lt c (Nat.two_pow_pos f.width)
  unfold readInt intRange sextN
  generalize 2 ^ f.width = W at *
  generalize 2 ^ (f.width - 1) = H at *
  cases f.signed
  · simp; omega
  · simp only [if_true]; split <;> omega

/-- The code of an integer reads as it but for multiples of 2^width. -/
theorem dvd_readInt_zextI (f : IFmt) (x : Int) : ((2 ^ f.width : Nat) : Int) ∣ readInt f (zextI x f.width) - x := by
  have hlt := zextI_lt x f.width
  have hcode : (zextI x f.width : Int) = x % ((2 ^ f.width : Nat) : Int) :=
    Int.toNat_of_nonneg (Int.emod_nonneg x (by positivity))
  have hself : ((2 ^ f.width : Nat) : Int) ∣ (zextI x f.width : Int) - x := by
    rw [hcode, Int.emod_def]
    exact ⟨-(x / _), by ring⟩
  unfold readInt sextN
  rw [Nat.mod_eq_of_lt hlt]
  dsimp only
  split
  · split
    · exact hself
    · rw [sub_right_comm]; exact dvd_sub hself (dvd_refl _)
  · exact hself

/-- Two values of a format that differ by a multiple of 2^width are the same. -/
theorem eq_of_dvd_of_range {f : IFmt} {x y : Int} (hx : (intRange f).1 ≤ x ∧ x ≤ (intRange f).2) (hy : (intRange f).1 ≤ y ∧ y ≤ (intRange f).2)
    (h : ((2 ^ f.width : Nat) : Int) ∣ y - x) : y = x := by
  have hw := pow_width f
  have habs : |y - x| < ((2 ^ f.width : Nat) : Int) := by
    rw [abs_lt]
    unfold intRange at hx hy
    split at hx <;> simp_all <;> omega
  exact sub_eq_zero.1 (Int.eq_zero_of_abs_lt_dvd h habs)

/-- An integer that the format holds is read back from its code. -/
theorem readInt_zextI {f : IFmt} {x : Int} (h : (intRange f).1 ≤ x ∧ x ≤ (intRange f).2) : readInt f (zextI x f.width) = x :=
  eq_of_dvd_of_range h (readInt_range f _) (dvd_readInt_zextI f x)

/-! ## Delivery (R141) -/

@[simp] theorem deliverInt_wrap (f : IFmt) (x : Int) : deliverInt f false x = (zextI x f.width, 0) := rfl
theorem deliverInt_sat (f : IFmt) (x : Int) :
    deliverInt f true x = (zextI (clampI x (intRange f).1 (intRange f).2) f.width, flagIf (clampI x (intRange f).1 (intRange f).2 != x) flagSAT) := rfl

theorem deliverInt_lt (f : IFmt) (sat : Bool) (x : Int) : (deliverInt f sat x).1 < 2 ^ f.width := by cases sat <;> exact zextI_lt _ _

/-- An integer that the format holds is delivered unchanged. -/
theorem deliverInt_held {f : IFmt} {x : Int} (h : (intRange f).1 ≤ x ∧ x ≤ (intRange f).2) (sat : Bool) : deliverInt f sat x = (zextI x f.width, 0) := by
  have hc : clampI x (intRange f).1 (intRange f).2 = x := by rw [clampI, if_neg (by omega), if_neg (by omega)]
  cases sat
  · rfl
  · rw [deliverInt_sat, hc, bne_self_eq_false]; rfl

/-- An integer beyond an end of the range is clamped to that end. -/
theorem deliverInt_clamped {f : IFmt} {x y : Int} (hy : (intRange f).1 ≤ y ∧ y ≤ (intRange f).2) (hne : y ≠ x)
    (hc : clampI x (intRange f).1 (intRange f).2 = y) : (deliverInt f true x).2 = flagSAT ∧ readInt f (deliverInt f true x).1 = y := by
  rw [deliverInt_sat, hc]
  exact ⟨by simp [flagIf, hne], readInt_zextI hy⟩

theorem intRange_nonempty (f : IFmt) : (intRange f).1 ≤ (intRange f).2 := (readInt_range f 0).1.trans (readInt_range f 0).2

theorem deliverInt_below {f : IFmt} {x : Int} (h : x < (intRange f).1) :
    (deliverInt f true x).2 = flagSAT ∧ readInt f (deliverInt f true x).1 = (intRange f).1 :=
  deliverInt_clamped ⟨le_refl _, intRange_nonempty f⟩ h.ne' (if_pos h)

theorem deliverInt_above {f : IFmt} {x : Int} (h : (intRange f).2 < x) :
    (deliverInt f true x).2 = flagSAT ∧ readInt f (deliverInt f true x).1 = (intRange f).2 :=
  have hn := intRange_nonempty f
  deliverInt_clamped ⟨hn, le_refl _⟩ h.ne ((if_neg (by omega)).trans (if_pos h))

theorem intRange_low (f : IFmt) : (if f.signed then -((2 ^ (f.width - 1) : Nat) : Int) else 0) = (intRange f).1 := by unfold intRange; split <;> rfl
theorem intRange_high (f : IFmt) : (if f.signed then ((2 ^ (f.width - 1) : Nat) : Int) - 1 else ((2 ^ f.width : Nat) : Int) - 1) = (intRange f).2 := by
  unfold intRange; split <;> rfl

/-! ## The instructions (R63, R137, R141) -/

/-- Integer arithmetic delivers, element by element, what its operation makes of the elements read. -/
theorem opInt_delivers {bound : Nat} {f : IFmt} {sat : Bool} {sel : Sel} {srcs : List Opnd} {d : Opnd} {q : XQ} {op : Int → Int → Int → Int} {s : State} {i : Instr}
    (h : exec i s = opInt bound f sat sel srcs d q op s) :
    XDelivers s i srcs d q bound sameLane (ElementsAre s q f.width fun j e => deliverInt f sat
      (op (readInt f (elem f.width (srcVec s srcs 0) (32 / f.width * j + selA sel e)))
        (readInt f (elem f.width (srcVec s srcs 1) (32 / f.width * j + selB sel e)))
        (readInt f (elem f.width (srcVec s srcs 2) (32 / f.width * j + e))))) :=
  opElems_delivers h (width_int f)

/-- Settles O19: delivery by the lemmas on deliverInt, each instruction as integer arithmetic with its operation. -/
theorem integerVectorArithmetic : Obligations.IntegerVectorArithmetic := by
  unfold Obligations.IntegerVectorArithmetic
  simp only [intRange_low, intRange_high]
  refine ⟨fun f sat x => ⟨deliverInt_lt f sat x, fun hl hh => ?_, ?_, ?_, ?_⟩, fun f sat sel d a b c q s => ⟨?_, ?_, ?_, ?_, ?_, ?_, ?_, ?_, ?_⟩⟩
  · rw [deliverInt_held ⟨hl, hh⟩]
    exact ⟨rfl, readInt_zextI ⟨hl, hh⟩⟩
  · rintro rfl
    exact ⟨rfl, dvd_readInt_zextI f x⟩
  · rintro rfl h
    exact deliverInt_below h
  · rintro rfl h
    exact deliverInt_above h
  · exact opInt_delivers (op := fun x y _ => x + y) rfl
  · exact opInt_delivers (op := fun x y _ => x - y) rfl
  · exact opInt_delivers (op := fun x y _ => x * y) rfl
  · exact opInt_delivers (op := fun x y _ => x * y / ((2 ^ f.width : Nat) : Int)) rfl
  · exact opInt_delivers (op := fun x y _ => min x y) rfl
  · exact opInt_delivers (op := fun x y _ => max x y) rfl
  · refine opInt_delivers (op := fun x _ _ => (x.natAbs : Int)) ?_
    have habs : (fun x _ _ : Int => if x < 0 then -x else x) = fun x _ _ : Int => (x.natAbs : Int) := by
      funext x _ _
      split <;> omega
    change opInt 2 f sat sel [a] d q (fun x _ _ => if x < 0 then -x else x) s = _
    rw [habs]
  · exact opInt_delivers (op := fun x _ _ => -x) rfl
  · exact opInt_delivers (sel := .none) (op := fun x y z => x * y + z) rfl

end Sys2Proof.Machine

/-! PROOF. Turns in which no instruction runs, and turns of other agents (R74, R81, R396, R405, R424): what each turn is, and the statement StepOtherwise. -/

namespace Sys2Proof.Machine

/-! ## A turn of a sequencer that runs nothing (R56, R74, R81, R405) -/

section
variable {s : State} {c : Nat} {sq : Seq}

theorem seqTurn_of_not_canIssue (h : canIssue s c sq = false) : seqTurn s c sq = .next { s with cur := (c, sq) } := by
  simp [seqTurn, h]

theorem seqTurn_illegal (hc : canIssue s c sq = true) (hf : fetched s c sq = none) :
    seqTurn s c sq = endTurn c sq (fault causeIllegal 0 { s with cur := (c, sq) }) := by
  simp [seqTurn, hc, hf, illegal]

theorem seqTurn_interlocked {i : Instr} (hc : canIssue s c sq = true) (hf : fetched s c sq = some i) (hi : interlocked s c sq i = true) :
    seqTurn s c sq = endTurn c sq (block .other { s with cur := (c, sq) }) := by
  simp [seqTurn, hc, hf, runFetched, hi]

/-- No instruction stands at a program counter that breaks R54 or R56, or whose parcels decode to none. -/
theorem fetched_eq_none
    (h : (∀ i, decode sq (Machine.parcelAt (getSeq s c sq) ((getSeq s c sq).pc.toNat / 4))
          (Machine.parcelAt (getSeq s c sq) ((getSeq s c sq).pc.toNat / 4 + 1)) ≠ .ok i) ∨
      (getSeq s c sq).pc.toNat % 4 ≠ 0 ∨ storeParcels sq ≤ (getSeq s c sq).pc.toNat / 4 ∨
      (isWide (Machine.parcelAt (getSeq s c sq) ((getSeq s c sq).pc.toNat / 4)) = true ∧ storeParcels sq ≤ (getSeq s c sq).pc.toNat / 4 + 1)) :
    fetched s c sq = none := by
  unfold fetched
  dsimp only [parcelPair]
  split
  · rfl
  · next hin =>
    simp only [goodTarget, Bool.not_and, Bool.or_eq_true, Bool.and_eq_true, Bool.not_eq_true', beq_eq_false_iff_ne, decide_eq_false_iff_not, not_lt,
      decide_eq_true_eq, not_or] at hin
    have hd := h.resolve_right (by tauto)
    split
    · next i hi => exact absurd hi (hd i)
    · rfl

/-- A greatest cycle is no earlier than where it begins. -/
theorem le_foldl_max (l : List Nat) (a : Nat) : a ≤ l.foldl max a := by
  have h := max_foldl_max id l a a
  rw [max_self, List.map_id] at h
  exact max_eq_right_iff.1 h

theorem issueCycle_ge (s : State) (c : Nat) (sq : Seq) (i : Instr) : max s.cycle (getSeq s c sq).clock ≤ issueCycle s c sq i := by
  rw [issueCycle_eq]
  exact le_foldl_max ..

/-- A sequencer whose next instruction would issue 80 cycles or more after the halt line was raised issues nothing more (R405). -/
theorem canIssue_of_pastHalt {p : Nat} (hp : partOfCore s c = some p) (hr : (getPart s p).halt.raised = true) (hh : (getPart s p).halt.halted = false)
    (hb : (getPart s p).halt.raisedAt + 80 ≤ max s.cycle (getSeq s c sq).clock) : canIssue s c sq = false := by
  have hbound {n : Nat} (hn : max s.cycle (getSeq s c sq).clock ≤ n) : haltBound { s with cycle := n } p 80 = true := by
    have hg : getPart { s with cycle := n } p = getPart s p := rfl
    simp [haltBound, hg, hr, hh, hb.trans hn]
  have hpast : pastHalt s c sq = true := by
    unfold pastHalt
    simp only [hp]
    split
    · exact hbound (issueCycle_ge ..)
    · exact hbound (le_refl _)
  simp [canIssue, hpast]

end

/-! ## A turn of another agent (R396, R405, R424) -/

section
variable {s : State} {i : Instr}

theorem eventTurn_encoded (h : encode i ≠ []) : eventTurn s i = .next s := by
  simp [eventTurn, h]

theorem eventTurn_noUnit (h : encode i = []) (hw : i.wf = false) : eventTurn s i = .fault .noSuchUnit := by
  simp [eventTurn, h, hw]

theorem eventTurn_held (h : encode i = []) (hw : i.wf = true) (hh : eventHeld s i = true) : eventTurn s i = .next s := by
  simp [eventTurn, h, hw, hh]

theorem eventTurn_runs (h : encode i = []) (hw : i.wf = true) (hh : eventHeld s i = false) : eventTurn s i = eventEnds s i (exec i s) := by
  simp [eventTurn, h, hw, hh]

/-- The engines of a partition stand still in a halt, and from 320 cycles after the halt line was raised (R405). -/
theorem enginesStopped_of_raised {p : Nat} (hr : (getPart s p).halt.raised = true)
    (h : (getPart s p).halt.halted = true ∨ (getPart s p).halt.raisedAt + 320 ≤ s.cycle) : enginesStopped s p = true := by
  cases hh : (getPart s p).halt.halted with
  | true => simp [enginesStopped, hr, hh]
  | false => simp [enginesStopped, haltBound, hr, hh, h.resolve_left (by simp [hh])]

theorem eventHeld_of_engine {p : Nat} (he : engineOf s i = some p) (h : enginesStopped s p = true) : eventHeld s i = true := by
  simp [eventHeld, he, h]

theorem eventHeld_of_cannotReach (h : cannotReach s i = true) : eventHeld s i = true := by
  simp [eventHeld, h]

theorem eventEnds_of_not_stepping {t : State} (s : State) (i : Instr) (h : t.mgmt.dbg.stepping = false) : eventEnds s i (.next t) = .next t := by
  have hf : finishStep t = t := by simp [finishStep, h]
  have he (c : Nat) (q : Seq) : endStep t c q = t := by simp [endStep, h]
  simp only [eventEnds, agentEnds]
  split
  · split
    · rw [hf]
    · rw [he]
  · rw [hf]

theorem choice_event {rest : List Turn} (h : s.agenda = .event i :: rest) : choice s = eventTurn { s with agenda := rest } i := by
  simp [choice, h]

end

/-! ## The statement -/

/-- A turn that changes no cycle is the whole step. -/
theorem step_of_choice {before t : State} (h : choice (landDue before) = .next t) (hc : t.cycle = before.cycle) : step before = .next t := by
  have hs : step before = passTime before (choice (landDue before)) := rfl
  rw [hs, h, passTime_of_same_cycle hc]

/-- Settles O12: the turns of a sequencer by seqTurn, those of other agents by eventTurn, case by case. -/
theorem stepOtherwise : Obligations.StepOtherwise := by
  refine ⟨fun before c sq rest hag h576 => ?_, fun before i rest hag => ?_⟩
  · intro s q n p0 u
    let v : State := { s with agenda := rest }
    have hch : choice s = seqTurn v c sq := choice_seq hag h576
    have idle (h : canIssue s c sq = false) : step before = .next u := step_of_choice (hch.trans (seqTurn_of_not_canIssue (s := v) h)) rfl
    have ends {t : State} {r : Res} (h : seqTurn v c sq = endTurn c sq r) (hr : r = .next t) : step before = passTime before (endTurn c sq (.next t)) :=
      congrArg (passTime before) (hch.trans (h.trans (congrArg (endTurn c sq) hr)))
    refine ⟨idle, fun p hp hr hh hb => idle (canIssue_of_pastHalt hp hr hh hb), fun hc hno => ?_, fun i hc ha hn hw hd hi => ?_⟩
    · obtain ⟨t, ht, hfa⟩ := fault_faultsAt causeIllegal 0 u
      exact ⟨t, hfa, ends (seqTurn_illegal (s := v) hc (fetched_eq_none (s := v) hno)) ht⟩
    · exact ⟨_, rfl, ends (seqTurn_interlocked (s := v) hc (fetched_eq_some (s := v) ha hn hw hd) hi) rfl⟩
  · intro u
    have hch : choice (landDue before) = eventTurn u i := choice_event hag
    have held (he : encode i = []) (hw : i.wf = true) (h : eventHeld u i = true) : step before = .next u :=
      step_of_choice (hch.trans (eventTurn_held he hw h)) rfl
    refine ⟨fun he => step_of_choice (hch.trans (eventTurn_encoded he)) rfl, fun he hw => ?_, fun he hw h => held he hw (eventHeld_of_cannotReach h),
      fun p he hw hp hr h => held he hw (eventHeld_of_engine hp (enginesStopped_of_raised hr h)), fun he hw h => ?_, fun t => eventEnds_of_not_stepping u i⟩
    · exact congrArg (passTime before) (hch.trans (eventTurn_noUnit he hw))
    · exact congrArg (passTime before) (hch.trans (eventTurn_runs he hw h))

end Sys2Proof.Machine

/-! PROOF. Integer operations (R84, R86 to R88): their values as integer arithmetic, and the statement IntegerResults from what writing a result leaves. -/

namespace Sys2Proof.Machine

/-! ## Values as integer arithmetic -/

theorem mulhW_eq (x y : Word) : mulhW x y = (BitVec.ofInt 128 (x.toInt * y.toInt)).extractLsb' 64 64 := by
  apply BitVec.eq_of_toNat_eq
  rw [mulhW, BitVec.extractLsb'_toNat, BitVec.toNat_ofInt, BitVec.toNat_ofInt, Nat.shiftRight_eq_div_pow]
  generalize x.toInt * y.toInt = z
  omega

theorem shiftLeft_eq_ofNat (x : Word) (n : Nat) : x <<< n = BitVec.ofNat 64 (x.toNat * 2 ^ n) := by
  apply BitVec.eq_of_toNat_eq
  rw [BitVec.toNat_shiftLeft, BitVec.toNat_ofNat, Nat.shiftLeft_eq]

theorem ushiftRight_eq_ofNat (x : Word) (n : Nat) : x >>> n = BitVec.ofNat 64 (x.toNat / 2 ^ n) := by
  rw [← Nat.shiftRight_eq_div_pow, ← BitVec.toNat_ushiftRight, BitVec.ofNat_toNat, BitVec.setWidth_eq]

theorem sshiftRight_eq_ofInt (x : Word) (n : Nat) : x.sshiftRight n = BitVec.ofInt 64 (x.toInt / 2 ^ n) := by
  rw [BitVec.sshiftRight_eq, Int.shiftRight_eq_div_pow]
  push_cast
  rfl

theorem min_eq_ofInt (x y : Word) : (if x.slt y then x else y) = BitVec.ofInt 64 (min x.toInt y.toInt) := by
  split
  next h => rw [min_eq_left (BitVec.slt_iff_toInt_lt.1 h).le, BitVec.ofInt_toInt]
  next h => rw [min_eq_right (not_lt.1 fun hl => h (BitVec.slt_iff_toInt_lt.2 hl)), BitVec.ofInt_toInt]

theorem max_eq_ofInt (x y : Word) : (if x.slt y then y else x) = BitVec.ofInt 64 (max x.toInt y.toInt) := by
  split
  next h => rw [max_eq_right (BitVec.slt_iff_toInt_lt.1 h).le, BitVec.ofInt_toInt]
  next h => rw [max_eq_left (not_lt.1 fun hl => h (BitVec.slt_iff_toInt_lt.2 hl)), BitVec.ofInt_toInt]

/-- A truth value as the word 1 or 0. -/
theorem boolW_eq_ite {b : Bool} {p : Prop} [Decidable p] (h : b = true ↔ p) : boolW b = if p then 1 else 0 := if_congr h rfl rfl

theorem add_shiftLeft_eq_ofNat (x y : Word) (n : Nat) : x + y <<< n = BitVec.ofNat 64 (x.toNat + y.toNat * 2 ^ n) := by
  rw [shiftLeft_eq_ofNat, BitVec.ofNat_add, BitVec.ofNat_toNat, BitVec.setWidth_eq]

/-- A sign-extended immediate keeps its value. -/
theorem toInt_signExtend_word {w : Nat} (h : w ≤ 64) (imm : BitVec w) : (imm.signExtend 64 : Word).toInt = imm.toInt := BitVec.toInt_signExtend_of_le h

theorem add_signExtend_eq_ofInt (x : Word) (imm : BitVec 15) : x + imm.signExtend 64 = BitVec.ofInt 64 (x.toInt + imm.toInt) := by
  rw [BitVec.ofInt_add, BitVec.ofInt_toInt, ← toInt_signExtend_word (by decide) imm, BitVec.ofInt_toInt]

theorem signExtend_shiftLeft_eq_ofInt (up : BitVec 20) : up.signExtend 64 <<< 15 = BitVec.ofInt 64 (up.toInt * 2 ^ 15) := by
  rw [BitVec.shiftLeft_eq_mul_twoPow, BitVec.ofInt_mul, ← toInt_signExtend_word (by decide) up, BitVec.ofInt_toInt]
  rfl

/-! ## The statement -/

/-- An instruction whose meaning is to put a result writes its register and changes nothing else. -/
theorem completes_putResult {i : Instr} {s : State} {d : Reg} {v w : Word} {n : Nat} (h : exec i s = putResult d v n s) (hv : v = w) :
    Completes i s (WritesReg s d w 1) := by
  subst hv
  obtain ⟨t, ht, hw⟩ := putResult_eq d v n s
  exact ⟨t, h.trans ht, hw⟩

/-- Settles O1: each operation puts its result, whose value is the lemma on its operation. -/
theorem integerResults : Obligations.IntegerResults := by
  refine ⟨fun d a b sh s => ?_, fun d a imm sh up s => ?_⟩
  · intro x y m
    refine ⟨?add, ?sub, ?mul, ?mulh, ?andr, ?orr, ?xorr, ?shl, ?shr, ?sra, ?minr, ?maxr, ?seq, ?slt, ?sltu, ?csel, ?addx⟩
    case add | sub | andr | orr | xorr => exact completes_putResult rfl rfl
    case mul => exact completes_putResult rfl (by rw [BitVec.ofInt_mul, BitVec.ofInt_toInt, BitVec.ofInt_toInt])
    case mulh => exact completes_putResult rfl (mulhW_eq x y)
    case shl => exact completes_putResult rfl (shiftLeft_eq_ofNat x m)
    case shr => exact completes_putResult rfl (ushiftRight_eq_ofNat x m)
    case sra => exact completes_putResult rfl (sshiftRight_eq_ofInt x m)
    case minr => exact completes_putResult rfl (min_eq_ofInt x y)
    case maxr => exact completes_putResult rfl (max_eq_ofInt x y)
    case seq => exact completes_putResult rfl (boolW_eq_ite beq_iff_eq)
    case slt => exact completes_putResult rfl (boolW_eq_ite BitVec.slt_iff_toInt_lt)
    case sltu => exact completes_putResult rfl (boolW_eq_ite BitVec.ult_iff_lt)
    case csel => exact completes_putResult rfl (ite_not ..)
    case addx => exact completes_putResult rfl (add_shiftLeft_eq_ofNat x y sh.toNat)
  · intro x
    refine ⟨?addi, ?andi, ?ori, ?xori, ?shli, ?shri, ?srai, ?slti, ?lui⟩
    case addi => exact completes_putResult rfl (add_signExtend_eq_ofInt x imm)
    case andi | ori | xori => exact completes_putResult rfl (by rw [BitVec.ofNat_toNat])
    case shli => exact completes_putResult rfl (shiftLeft_eq_ofNat x sh.toNat)
    case shri => exact completes_putResult rfl (ushiftRight_eq_ofNat x sh.toNat)
    case srai => exact completes_putResult rfl (sshiftRight_eq_ofInt x sh.toNat)
    case slti => exact completes_putResult rfl (boolW_eq_ite (by rw [BitVec.slt_iff_toInt_lt, toInt_signExtend_word (by decide)]))
    case lui => exact completes_putResult rfl (signExtend_shiftLeft_eq_ofInt up)

end Sys2Proof.Machine

/-! PROOF. The divider (R82, R85): quotients and remainders as integer arithmetic, what DIV and REM leave, and the statement DivideAndRemainder. -/

namespace Sys2Proof.Machine

/-! ## Quotients and remainders (R85) -/

theorem divW_zero (x : Word) : divW x 0 = 0xFFFFFFFFFFFFFFFF := if_pos rfl
theorem remW_zero (x : Word) : remW x 0 = x := if_pos rfl
theorem divW_overflow : divW 0x8000000000000000 0xFFFFFFFFFFFFFFFF = 0x8000000000000000 := by decide
theorem remW_overflow : remW 0x8000000000000000 0xFFFFFFFFFFFFFFFF = 0 := by decide

section
variable {x y : Word}

/-- Away from the borderline cases a quotient is not too large for a word. -/
theorem toInt_divW (hy : y ≠ 0) (ho : ¬ (x = 0x8000000000000000#64 ∧ y = 0xFFFFFFFFFFFFFFFF#64)) : (divW x y).toInt = x.toInt.tdiv y.toInt := by
  have hfits := BitVec.toInt_sdiv_of_ne_or_ne x y (not_and_or.1 ho)
  have hdiv : divW x y = BitVec.ofInt 64 (x.toInt.tdiv y.toInt) := (if_neg hy).trans (if_neg ho)
  rw [hdiv, BitVec.toInt_ofInt, ← BitVec.toInt_sdiv, hfits]

theorem toInt_remW (hy : y ≠ 0) (ho : ¬ (x = 0x8000000000000000#64 ∧ y = 0xFFFFFFFFFFFFFFFF#64)) : (remW x y).toInt = x.toInt.tmod y.toInt := by
  have hrem : remW x y = BitVec.ofInt 64 (x.toInt - y.toInt * x.toInt.tdiv y.toInt) := (if_neg hy).trans (if_neg ho)
  rw [hrem, ← Int.tmod_def, ← BitVec.toInt_srem, BitVec.ofInt_toInt]

end

/-- A remainder has the sign of the dividend, or is 0. -/
theorem tmod_mul_self_nonneg (a b : Int) : 0 ≤ a.tmod b * a := by
  rw [← Int.sign_nonneg_iff, Int.sign_mul, Int.sign_tmod]
  split
  · simp
  · exact mul_self_nonneg _

theorem natAbs_tmod_lt (a : Int) {b : Int} (h : b ≠ 0) : (a.tmod b).natAbs < b.natAbs := by
  rw [Int.natAbs_tmod]
  exact Nat.mod_lt _ (Int.natAbs_pos.2 h)

/-! ## DIV and REM (R82) -/

/-- What a DIV or REM with result v leaves: register d, and a divider that is busy for 34 cycles. -/
def DividesInto (s : State) (d : Reg) (v : Word) (t : State) : Prop :=
  Holds t d v ∧ OnlyContext s t ∧ restOfCtx (curCtx t) s.cur.2 = restOfCtx (curCtx s) s.cur.2 ∧
    SeqDone { curSeq s with divBusy := true, divDue := (curSeq s).clock + 34 } (curSeq t) 1 1 [d]

/-- The divider of a sequencer stands beside its registers. -/
theorem withReg_divider (q : SeqState) (d : Reg) (v : Word) (b : Bool) (n : Nat) :
    { withReg q d v with divBusy := b, divDue := n } = withReg { q with divBusy := b, divDue := n } d v := by
  unfold withReg
  split <;> rfl

section
variable {i : Instr} {s : State} {f : Word → Word → Word} {d a b : Reg}

theorem completes_opDiv_idle (h : exec i s = opDiv f d a b s) (hb : (curSeq s).divBusy = false) {v : Word} (hv : f (rd s a) (rd s b) = v) :
    Completes i s (DividesInto s d v) := by
  rw [opDiv, if_neg (by simp [hb]), hv] at h
  refine ⟨_, h, ?_⟩
  dsimp only
  rw [wrAt, curSeq_setCurSeq, setCurSeq_setCurSeq, withReg_divider, finish_setCurSeq, withReg_pc]
  refine ⟨?_, onlyContext_after _ _ _, restOfCtx_after _ _ _, ?_⟩
  · rw [Holds, rd, curSeq_after]
    exact regOf_withReg _ d v
  · rw [curSeq_after]
    exact seqDone_write { curSeq s with divBusy := true, divDue := (curSeq s).clock + 34 } _ d v 1 1

theorem completes_opDiv_busy (h : exec i s = opDiv f d a b s) (hb : (curSeq s).divBusy = true) : Completes i s (Blocked .other s) :=
  ⟨_, h.trans (if_pos hb), rfl⟩

end

theorem scalarDivideComplete_frees (c : Nat) (q : Seq) (s : State) : Completes (.scalarDivideComplete c q) s fun t =>
    (getSeq t c q).divBusy = false ∧
      t = if (getSeq s c q).divBusy then setSeq { s with cycle := max s.cycle (getSeq s c q).divDue } c q { getSeq s c q with divBusy := false } else s := by
  have hexec : exec (.scalarDivideComplete c q) s = if (getSeq s c q).divBusy
      then .next (setSeq { s with cycle := max s.cycle (getSeq s c q).divDue } c q { getSeq s c q with divBusy := false }) else .next s := rfl
  by_cases hb : (getSeq s c q).divBusy = true
  · rw [if_pos hb] at hexec ⊢
    exact ⟨_, hexec, by rw [getSeq_setSeq], rfl⟩
  · rw [if_neg hb] at hexec ⊢
    exact ⟨s, hexec, Bool.eq_false_iff.2 hb, rfl⟩

/-- Settles O2: an idle divider by completes_opDiv_idle with the value of its case, a busy one by completes_opDiv_busy. -/
theorem divideAndRemainder : Obligations.DivideAndRemainder := by
  intro d a b s x y overflow Writes
  refine ⟨fun hb => ⟨fun hy => ⟨?_, ?_⟩, fun ⟨hx, hy⟩ => ⟨?_, ?_⟩, fun hy ho => ?_⟩,
    fun hb => ⟨completes_opDiv_busy rfl hb, completes_opDiv_busy rfl hb⟩, fun c q => scalarDivideComplete_frees c q s⟩
  · exact completes_opDiv_idle rfl hb ((congrArg (divW x) hy).trans (divW_zero x))
  · exact completes_opDiv_idle rfl hb ((congrArg (remW x) hy).trans (remW_zero x))
  · exact completes_opDiv_idle rfl hb ((congrArg₂ divW hx hy).trans (divW_overflow.trans hx.symm))
  · exact completes_opDiv_idle rfl hb ((congrArg₂ remW hx hy).trans remW_overflow)
  · refine ⟨divW x y, remW x y, completes_opDiv_idle rfl hb rfl, completes_opDiv_idle rfl hb rfl, toInt_divW hy ho, ?_⟩
    rw [toInt_divW hy ho, toInt_remW hy ho]
    have hne : y.toInt ≠ 0 := fun h => hy (BitVec.eq_of_toInt_eq h)
    exact ⟨(Int.tdiv_mul_add_tmod ..).symm, natAbs_tmod_lt _ hne, tmod_mul_self_nonneg ..⟩

end Sys2Proof.Machine

/-! PROOF. LBRK (R98): the records that it ends, and the statement LoopBreak. -/

namespace Sys2Proof.Machine

/-- Changing entries of a table one after another, each number at most once, changes each by what it held. -/
theorem tget_foldl_update {α : Type} (d : α) (c : α → Bool) (f : α → α) {l : List Nat} (hl : l.Nodup) (t : Table α) (m : Nat) :
    tget d (l.foldl (fun t n => if c (tget d t n) then tput t n (f (tget d t n)) else t) t) m =
      if m ∈ l ∧ c (tget d t m) = true then f (tget d t m) else tget d t m := by
  induction l generalizing t with
  | nil => simp
  | cons n l ih =>
    obtain ⟨hn, hl⟩ := List.nodup_cons.1 hl
    rw [List.foldl_cons, ih hl]
    by_cases hm : m = n
    · subst hm
      simp only [hn, false_and, if_false, List.mem_cons_self, true_and]
      split
      · exact tget_tput_same ..
      · rfl
    · have h : tget d (if c (tget d t n) then tput t n (f (tget d t n)) else t) m = tget d t m := by
        split
        · exact tget_tput_other _ _ _ hm
        · rfl
      simp [hm, h]

/-- A record of a level that is no older than the record r: the loop was started inside r's, or is r's (R98). -/
def insideLoop (level : BitVec 2) (r e : LoopRec) : Bool := e.active && e.level == level && decide (r.age ≤ e.age)

/-- A record whose loop is left. -/
def leftLoop (e : LoopRec) : LoopRec := { e with count := 0, active := false }

/-- The records once the loop of a record r and every loop inside it are left. -/
def breakRecords (lc : Table LoopRec) (level : BitVec 2) (r : LoopRec) : Table LoopRec :=
  (List.range 4).foldl (fun t n => if insideLoop level r (tget {} t n) then tput t n (leftLoop (tget {} t n)) else t) lc

theorem tget_breakRecords (lc : Table LoopRec) (level : BitVec 2) (r : LoopRec) {m : Nat} (hm : m < 4) :
    tget {} (breakRecords lc level r) m =
      if (tget {} lc m).active = true ∧ (tget {} lc m).level = level ∧ r.age ≤ (tget {} lc m).age then leftLoop (tget {} lc m) else tget {} lc m := by
  rw [breakRecords, tget_foldl_update {} (insideLoop level r) leftLoop List.nodup_range]
  simp [insideLoop, hm, and_assoc]

theorem encode_lbrk (n : BitVec 2) : encode (.lbrk n) = [BitVec.ofNat 32 (0x64000000 + n.toNat * 2 ^ 23)] := by
  revert n
  decide

section
variable {n : BitVec 2} {s : State}

theorem lbrk_breaks (h : (tget {} (curSeq s).lc n.toNat).active = true ∧ (tget {} (curSeq s).lc n.toNat).level = (curSeq s).tlevel) :
    exec (.lbrk n) s = .next (jumpTo ((tget {} (curSeq s).lc n.toNat).stop.toNat + 4) 3
      (setCurSeq s { curSeq s with lc := breakRecords (curSeq s).lc (curSeq s).tlevel (tget {} (curSeq s).lc n.toNat) })) :=
  if_pos h

theorem lbrk_passes (h : ¬ ((tget {} (curSeq s).lc n.toNat).active = true ∧ (tget {} (curSeq s).lc n.toNat).level = (curSeq s).tlevel)) :
    exec (.lbrk n) s = .next (jumpTo ((curSeq s).pc.toNat + 4) 1 s) := if_neg h

end

/-- Settles O5: lbrk_breaks with what breakRecords leaves of each record, and lbrk_passes. -/
theorem loopBreak : Obligations.LoopBreak := by
  intro n s q r inside
  refine ⟨encode_lbrk n, fun h => ?_, fun h => ⟨_, lbrk_passes h, jump_goes ..⟩⟩
  refine ⟨_, lbrk_breaks h, ?_⟩
  dsimp only
  rw [jumpTo_setCurSeq, curSeq_after]
  refine ⟨onlyContext_after _ _ _, restOfCtx_after _ _ _, fun r => by rw [rd, curSeq_after]; rfl, rfl, rfl, fun m hm => ⟨fun hin => ?_, fun hout => ?_⟩⟩
  · exact (tget_breakRecords q.lc q.tlevel r hm).trans (if_pos hin)
  · exact (tget_breakRecords q.lc q.tlevel r hm).trans (if_neg hout)

end Sys2Proof.Machine

/-! PROOF. The refutation of O52 (R412, R419): where two partitions hold one cluster and one of them is being reset, parking all of the other flips no core. -/

namespace Sys2Proof.Machine

/-- The cell that core 0 runs. -/
def sharedCell : CellInfo :=
  { part := 1, serial := 1, ordinal := 0, gangBase := 0, gangSize := 1, sms := false, gbars := 0, gbarOpen := false, gbarGo := false, lsReleased := true }

/-- Partition 0, which is being reset, and partition 1, which is halted, both hold cluster 0; core 0 runs a cell, its shadow is empty, and its slots are free. -/
def sharedCluster : State :=
  { parts := [(0, { clusters := 1, en := true, cxper := 1, reset := .draining }),
              (1, { clusters := 1, en := true, cxper := 1, halt := { raised := true, halted := true } })],
    cores := [(0, { ctx := { cell := some sharedCell } })] }

/-- Partition 1 is halted, not by the debugger, and is not being reset; core 0 is one of its cores. -/
theorem sharedCluster_halted : (getPart sharedCluster 1).halt.halted = true ∧ (getPart sharedCluster 1).halt.debug = false ∧ (getPart sharedCluster 1).reset = .idle ∧
    0 ∈ coresOf sharedCluster 1 := by decide +kernel

/-- Core 0 has a context to park, a slot for it and an empty shadow. -/
theorem sharedCluster_canPark : canPark sharedCluster 0 = true ∧ (getCore sharedCluster 0).spilling = none ∧ (getCore sharedCluster 0).shadow.cell = none ∧
    (getCore sharedCluster 0).shadow.lacc = [] := by decide +kernel

/-- Core 0 is taken to be of partition 0, whose reset keeps it from flipping. -/
theorem sharedCluster_inReset : partOfCore sharedCluster 0 = some 0 ∧ inReset sharedCluster 0 = true := by decide +kernel

/-- The cell that core 0 runs once the event has acted. -/
def cellAfter : Res → Option CellInfo
  | .next t => (getCore t 0).ctx.cell
  | _ => none

/-- Core 0 keeps its cell when partition 1 parks all. -/
theorem sharedCluster_stays : cellAfter (exec (.haltctlParkAll 1) sharedCluster) = some sharedCell := by decide +kernel

/-- Refutes O52: a core of the halted partition that another partition holds too, one that is being reset, can park and has an empty shadow, yet parking all leaves its
cell where it runs; the statement wants it in the shadow. R368 lets no two enabled partitions hold one cluster, which the statement does not assume. -/
theorem not_haltControlAndPageRequests : ¬ Obligations.HaltControlAndPageRequests := by
  unfold Obligations.HaltControlAndPageRequests
  rintro ⟨hhalt, -⟩
  obtain ⟨hhalted, hdebug, hreset, hcore⟩ := sharedCluster_halted
  obtain ⟨hpark, hspill, hcell, hlacc⟩ := sharedCluster_canPark
  obtain ⟨-, -, -, -, hall⟩ := hhalt 1 sharedCluster
  obtain ⟨t, hexec, -, -, -, -, hcores⟩ := hall ⟨hhalted, hdebug, hreset⟩
  obtain ⟨-, -, hflip⟩ := hcores 0 hcore
  have hgone : (getCore t 0).ctx.cell = none := (hflip hpark hspill hcell hlacc).1
  have hstays := sharedCluster_stays
  rw [hexec] at hstays
  exact nomatch hgone.symm.trans hstays

end Sys2Proof.Machine

/-! PROOF. Ternary instructions (R120, R147, R148): the digits of a ternary byte, the trits of a lane, and the statement TernaryInstructions. -/

namespace Sys2Proof.Machine

/-- R121: the multiplications give the digits of base 3. -/
theorem tritDigit_eq {v i : Nat} (hv : v < 243) (hi : i < 5) : tritDigit v i = v / 3 ^ i % 3 := by
  have h : ∀ v < 243, ∀ i < 5, tritDigit v i = v / 3 ^ i % 3 := by decide +kernel
  exact h v hv i hi

theorem unpackTrits_lt (v : Nat) : unpackTrits v < 2 ^ 32 := by
  unfold unpackTrits
  split
  · omega
  · exact packN_lt 4 _ 8

/-- R147: nibble i of a decoded byte. -/
theorem unpackTrits_nibble (v : Nat) {i : Nat} (hi : i < 8) :
    unpackTrits v / 2 ^ (4 * i) % 16 = if i < 5 ∧ v < 243 then [0, 1, 15].getD (v / 3 ^ i % 3) 0 else 0 := by
  unfold unpackTrits
  by_cases hv : 243 ≤ v
  · rw [if_pos hv, if_neg (by omega), Nat.zero_div, Nat.zero_mod]
  · rw [if_neg hv, ← Nat.shiftRight_eq_div_pow]
    refine (packN_digit 4 _ hi).trans ?_
    by_cases h5 : i < 5
    · have h3 : v / 3 ^ i % 3 < 3 := Nat.mod_lt _ (by decide)
      rw [if_pos h5, if_pos ⟨h5, by omega⟩, tritDigit_eq (by omega) h5]
      generalize v / 3 ^ i % 3 = d at h3
      have hd : d = 0 ∨ d = 1 ∨ d = 2 := by omega
      rcases hd with rfl | rfl | rfl <;> rfl
    · rw [if_neg h5, if_neg fun h => h5 h.1]
      rfl

theorem foldl_add_eq_sum {α : Type} (f : α → Int) (l : List α) (x : Int) : l.foldl (fun t e => t + f e) x = x + (l.map f).sum := by
  induction l generalizing x with
  | nil => simp
  | cons a l ih => rw [List.foldl_cons, ih, List.map_cons, List.sum_cons, add_assoc]

theorem flagIf_any_not {α : Type} (p : α → Bool) (l : List α) (f : Flags) : flagIf (l.any fun e => !p e) f = if l.all p then 0 else f := by
  rw [flagIf, List.any_eq_not_all_not]
  simp only [Bool.not_not, Bool.not_eq_true']
  cases l.all p <;> rfl

/-- The element positions that VTACC adds (R148). -/
def trits (sel : Sel) : List Nat := match sel with
  | .a i => [i.toNat]
  | _ => List.range 8

/-- Lane flags on one lane of a value built lane by lane. -/
theorem lanesWith_ofElems (s : State) (srcs : List Src) (q : XQ) (c : Consumes) (f : Nat → Nat × Flags) :
    LanesWith s q (fun j => BitVec.ofNat 32 (f j).1) (fun j => (f j).2)
      (deliverLanes srcs c (activeOf s q) (ofElems 32 fun j => (f j).1) (ofFlags fun j => if maskBit (activeOf s q) j then (f j).2 else 0)) := by
  refine fun j hj => ⟨?_, laneFlags_ofFlags _ hj⟩
  have h := elem_ofElems 32 (fun j => (f j).1) (n := j) hj
  apply BitVec.eq_of_toNat_eq
  rw [lane, BitVec.toNat_ofNat, BitVec.toNat_ofNat]
  exact h

theorem vtacc_delivers (sat : Bool) (sel : Sel) (d a b : Opnd) (q : XQ) (s : State) :
    let nib (j i : Nat) : Nat := elem 4 (srcVec s [a, b, d] 0) (8 * j + i)
    let x (j : Nat) : Int := (lane (srcVec s [a, b, d] 2) j).toInt +
      ((trits sel).map fun e => nibbleTrit (nib j e)).sum * (lane (srcVec s [a, b, d] 1) j).toInt
    XDelivers s (.vtacc sat sel d a b q) [a, b, d] d q 2 sameLane (LanesWith s q (fun j => BitVec.ofNat 32 (deliverInt .i32 sat (x j)).1)
      (fun j => (deliverInt .i32 sat (x j)).2 ||| if (trits sel).all (fun e => [0, 1, 15].contains (nib j e)) then 0 else flagILT)) := by
  intro nib x
  have h : exec (.vtacc sat sel d a b q) s = opX 2 [a, b, d] d q (fun _ l active =>
      let f (j : Nat) : Nat × Flags :=
        let r := deliverInt .i32 sat ((lane (srcAt l 2) j).toInt +
          ((trits sel).foldl (fun t e => t + nibbleTrit (elem 4 (srcAt l 0) (8 * j + e))) 0) * (lane (srcAt l 1) j).toInt)
        (r.1, r.2 ||| flagIf ((trits sel).any fun e => !([0, 1, 15].contains (elem 4 (srcAt l 0) (8 * j + e)))) flagILT)
      deliverLanes l sameLane active (ofElems 32 fun j => (f j).1) (ofFlags fun j => if maskBit active j then (f j).2 else 0)) s := by
    dsimp only [exec]
    rfl
  refine xDelivers_of_opX _ _ _ h rfl ?_
  simp only [foldl_add_eq_sum, zero_add, flagIf_any_not]
  exact lanesWith_ofElems s (srcsOf s [a, b, d]) q sameLane fun j => ((deliverInt .i32 sat (x j)).1, (deliverInt .i32 sat (x j)).2 |||
    if (trits sel).all (fun e => [0, 1, 15].contains (nib j e)) then 0 else flagILT)

theorem XDelivers.mono {s : State} {i : Instr} {srcs : List Opnd} {d : Opnd} {q : XQ} {n : Nat} {c : Consumes} {P Q : XOut → Prop}
    (h : XDelivers s i srcs d q n c P) (hPQ : ∀ o, P o → Q o) : XDelivers s i srcs d q n c Q := by
  intro hr
  obtain ⟨o, hc, hd, hP⟩ := h hr
  exact ⟨o, hc, hd, hPQ o hP⟩

theorem tunp_delivers (sel : Sel) (d a : Opnd) (q : XQ) (s : State) :
    let v (j : Nat) : Nat := bits (lane (srcVec s [a] 0) j).toNat (8 * selA sel 0 + 7) (8 * selA sel 0)
    XDelivers s (.tunp sel d a q) [a] d q 3 sameLane
      (LanesWith s q (fun j => BitVec.ofNat 32 (unpackTrits (v j))) (fun j => flagIf (243 ≤ v j) flagILT)) :=
  opLanes_delivers (op := fun x _ =>
    let v := bits x.toNat (8 * selA sel 0 + 7) (8 * selA sel 0)
    (BitVec.ofNat 32 (unpackTrits v), flagIf (243 ≤ v) flagILT)) rfl

/-- Settles O21: TUNP as a whole-lane operation with the nibbles of unpackTrits, VTACC by its sum of trits. -/
theorem ternaryInstructions : Obligations.TernaryInstructions := by
  intro sat sel d a b q s v nib es T x
  refine ⟨(tunp_delivers sel d a q s).mono fun o ho j hj => ?_, vtacc_delivers sat sel d a b q s⟩
  have hv : bits (lane (srcVec s [a] 0) j).toNat (8 * selA sel 0 + 7) (8 * selA sel 0) = v j := by
    rw [bits, Nat.shiftRight_eq_div_pow, show 8 * selA sel 0 + 7 + 1 - 8 * selA sel 0 = 8 by omega]
    rfl
  obtain ⟨hdata, hflags⟩ := ho j hj
  simp only [hv] at hdata hflags
  refine ⟨fun i hi => ?_, ?_⟩
  · rw [hdata, BitVec.toNat_ofNat, Nat.mod_eq_of_lt (unpackTrits_lt _)]
    exact unpackTrits_nibble _ hi
  · rw [hflags, flagIf, ite_and]
    simp only [decide_eq_true_eq]

end Sys2Proof.Machine

/-! SUPPORT. Rounding once (R108, R111 to R113, R116): codes as rational values, the search for the code below a value, and what roundMag gives at a code,
between two codes and beyond the last. -/

namespace Sys2Proof.Machine

/-! ## Dyadic values -/

/-- The value m × 2^e. -/
def dyadic (m : Nat) (e : Int) : ℚ := m * 2 ^ e

theorem dyadic_zero (e : Int) : dyadic 0 e = 0 := by simp [dyadic]

theorem dyadic_pos {m : Nat} (h : m ≠ 0) (e : Int) : 0 < dyadic m e := by
  have : (0 : ℚ) < m := by exact_mod_cast Nat.pos_of_ne_zero h
  unfold dyadic
  positivity

theorem dyadic_nonneg (m : Nat) (e : Int) : 0 ≤ dyadic m e := by unfold dyadic; positivity

/-- A dyadic seen from a lower exponent. -/
theorem dyadic_lower (m : Nat) {e k : Int} (h : k ≤ e) : dyadic m e = ((m * 2 ^ (e - k).toNat : Nat) : ℚ) * 2 ^ k := by
  obtain ⟨n, rfl⟩ := Int.le.dest h
  simp only [dyadic, add_sub_cancel_left, Int.toNat_natCast]
  push_cast
  rw [zpow_add₀ two_ne_zero, zpow_natCast]
  ring

theorem dyadic_mul (a b : Nat) (i j : Int) : dyadic (a * b) (i + j) = dyadic a i * dyadic b j := by
  unfold dyadic
  rw [zpow_add₀ two_ne_zero]
  push_cast
  ring

theorem compare_mul_pos (a b : Nat) {p : ℚ} (hp : 0 < p) : compare ((a : ℚ) * p) (b * p) = compare a b := by
  rcases lt_trichotomy a b with h | rfl | h
  · rw [compare_lt_iff_lt.2 h, compare_lt_iff_lt.2 (mul_lt_mul_of_pos_right (Nat.cast_lt.2 h) hp)]
  · rw [compare_eq_iff_eq.2 rfl, compare_eq_iff_eq.2 rfl]
  · rw [compare_gt_iff_gt.2 h, compare_gt_iff_gt.2 (mul_lt_mul_of_pos_right (Nat.cast_lt.2 h) hp)]

theorem cmpDyadic_eq (a : Nat) (i : Int) (b : Nat) (j : Int) : cmpDyadic a i b j = compare (dyadic a i) (dyadic b j) := by
  unfold cmpDyadic
  split
  next h => rw [dyadic_lower a h, dyadic, compare_mul_pos _ _ (by positivity)]
  next h => rw [dyadic_lower b (by omega : i ≤ j), dyadic, compare_mul_pos _ _ (by positivity)]

/-- A comparison sees the value q. -/
def Sees (x : Cmp) (q : ℚ) : Prop := ∀ a i, x a i = compare (dyadic a i) q

theorem sees_dyadic (m : Nat) (e : Int) : Sees (fun a i => cmpDyadic a i m e) (dyadic m e) := fun a i => cmpDyadic_eq a i m e

theorem sees_ratio (n : Nat) (i : Int) {d : Nat} (hd : d ≠ 0) (j : Int) :
    Sees (fun c k => cmpDyadic (c * d) (k + j) n i) (dyadic n i / dyadic d j) := by
  intro c k
  have hpos := dyadic_pos hd j
  dsimp only
  rw [cmpDyadic_eq, dyadic_mul]
  rcases lt_trichotomy (dyadic c k * dyadic d j) (dyadic n i) with h | h | h
  · rw [compare_lt_iff_lt.2 h, compare_lt_iff_lt.2 ((lt_div_iff₀ hpos).2 h)]
  · rw [compare_eq_iff_eq.2 h, compare_eq_iff_eq.2 ((eq_div_iff hpos.ne').2 h)]
  · rw [compare_gt_iff_gt.2 h, compare_gt_iff_gt.2 ((div_lt_iff₀ hpos).2 h)]

/-! ## The values of magnitude codes (R108, R112, R116) -/

/-- The value of a magnitude code. -/
def codeVal (f : FFmt) (c : Nat) : ℚ := dyadic (magVal f c).1 (magVal f c).2

theorem magVal_binary {f : FFmt} (hf : f ≠ .mk8) (c : Nat) : magVal f c =
    if c / 2 ^ fracBits f = 0 then (c % 2 ^ fracBits f, 1 - fbias f - fracBits f)
    else (2 ^ fracBits f + c % 2 ^ fracBits f, ((c / 2 ^ fracBits f : Nat) : Int) - fbias f - fracBits f) := by
  cases f
  case mk8 => exact absurd rfl hf
  all_goals rfl

theorem codeVal_zero (f : FFmt) : codeVal f 0 = 0 := by
  have h : (magVal f 0).1 = 0 := by cases f <;> rfl
  rw [codeVal, h, dyadic_zero]

/-- One unit of the significand more. -/
theorem dyadic_lt_succ (m : Nat) (e : Int) : dyadic m e < dyadic (m + 1) e := by
  unfold dyadic
  push_cast
  nlinarith [zpow_pos (a := (2 : ℚ)) two_pos e]

/-- The next exponent. -/
theorem dyadic_succ_exp (m : Nat) (e : Int) : dyadic m (e + 1) = dyadic (2 * m) e := by
  unfold dyadic
  rw [zpow_add_one₀ two_ne_zero]
  push_cast
  ring

theorem codeVal_lt_succ_binary {f : FFmt} (hf : f ≠ .mk8) (c : Nat) : codeVal f c < codeVal f (c + 1) := by
  have hpos : 0 < 2 ^ fracBits f := Nat.two_pow_pos _
  unfold codeVal
  rw [magVal_binary hf, magVal_binary hf]
  generalize 2 ^ fracBits f = P at hpos
  have hdm := Nat.div_add_mod c P
  have hr := Nat.mod_lt c hpos
  by_cases hlast : c % P + 1 < P
  · obtain ⟨hq, hm⟩ : (c + 1) / P = c / P ∧ (c + 1) % P = c % P + 1 :=
      (Nat.div_mod_unique hpos).2 ⟨by omega, hlast⟩
    rw [hq, hm]
    split
    · exact dyadic_lt_succ _ _
    · exact dyadic_lt_succ _ _
  · obtain ⟨hq, hm⟩ : (c + 1) / P = c / P + 1 ∧ (c + 1) % P = 0 :=
      (Nat.div_mod_unique hpos).2 ⟨by rw [Nat.mul_add]; omega, hpos⟩
    rw [hq, hm, if_neg (Nat.succ_ne_zero _)]
    split
    next h0 =>
      rw [h0]
      convert dyadic_lt_succ (c % P) (1 - fbias f - fracBits f) using 2
      · dsimp only
        omega
      · simp
    next h0 =>
      have he : ((c / P + 1 : Nat) : Int) - fbias f - fracBits f = (((c / P : Nat) : Int) - fbias f - fracBits f) + 1 := by push_cast; ring
      rw [he, dyadic_succ_exp]
      convert dyadic_lt_succ (P + c % P) (((c / P : Nat) : Int) - fbias f - fracBits f) using 2
      omega

theorem codeVal_lt_succ_mk8 {c : Nat} (hc : c < 128) : codeVal .mk8 c < codeVal .mk8 (c + 1) := by
  have h : ∀ c < 128, cmpDyadic (magVal .mk8 c).1 (magVal .mk8 c).2 (magVal .mk8 (c + 1)).1 (magVal .mk8 (c + 1)).2 = .lt := by decide +kernel
  have := h c hc
  rwa [cmpDyadic_eq, compare_lt_iff_lt] at this

theorem codeVal_lt_succ {f : FFmt} {c : Nat} (hc : c ≤ maxCode f) : codeVal f c < codeVal f (c + 1) := by
  by_cases hf : f = .mk8
  · subst hf
    exact codeVal_lt_succ_mk8 (Nat.lt_succ_of_le hc)
  · exact codeVal_lt_succ_binary hf c

/-- Codes up to the one after the largest finite one stand in the order of their values. -/
theorem codeVal_lt {f : FFmt} {c k : Nat} (hck : c < k) (hk : k ≤ maxCode f + 1) : codeVal f c < codeVal f k := by
  induction k with
  | zero => omega
  | succ k ih =>
    have hstep := codeVal_lt_succ (f := f) (c := k) (by omega)
    rcases Nat.lt_or_ge c k with h | h
    · exact (ih h (by omega)).trans hstep
    · rwa [show c = k by omega]

theorem codeVal_le {f : FFmt} {c k : Nat} (hck : c ≤ k) (hk : k ≤ maxCode f + 1) : codeVal f c ≤ codeVal f k := by
  rcases Nat.lt_or_eq_of_le hck with h | rfl
  · exact (codeVal_lt h hk).le
  · exact le_rfl

/-! ## The search (R112) -/

/-- c is the greatest magnitude code, of those up to the one after the largest finite one, whose value is at most q. -/
def IsFloor (f : FFmt) (q : ℚ) (c : Nat) : Prop := c ≤ maxCode f + 1 ∧ codeVal f c ≤ q ∧ (c ≤ maxCode f → q < codeVal f (c + 1))

theorem IsFloor.unique {f : FFmt} {q : ℚ} {c k : Nat} (hc : IsFloor f q c) (hk : IsFloor f q k) : c = k := by
  obtain ⟨hc1, hc2, hc3⟩ := hc
  obtain ⟨hk1, hk2, hk3⟩ := hk
  by_contra hne
  rcases Nat.lt_or_gt_of_ne hne with h | h
  · exact absurd ((hc3 (by omega)).trans_le ((codeVal_le (show c + 1 ≤ k by omega) hk1).trans hk2)) (lt_irrefl q)
  · exact absurd ((hk3 (by omega)).trans_le ((codeVal_le (show k + 1 ≤ c by omega) hc1).trans hc2)) (lt_irrefl q)

theorem searchCode_isFloor {f : FFmt} {x : Cmp} {q : ℚ} (hx : Sees x q) (n lo hi : Nat) (hlo : codeVal f lo ≤ q) (hlt : lo < hi) (hn : hi ≤ lo + 2 ^ n)
    (htop : hi ≤ maxCode f + 2) (hhi : hi ≤ maxCode f + 1 → q < codeVal f hi) : IsFloor f q (searchCode f x n lo hi) := by
  induction n generalizing lo hi with
  | zero =>
    obtain rfl : hi = lo + 1 := by omega
    exact ⟨by simpa [searchCode] using by omega, hlo, fun h => hhi (by simp only [searchCode] at h; omega)⟩
  | succ n ih =>
    rw [searchCode]
    have hp : 2 ^ (n + 1) = 2 * 2 ^ n := Nat.pow_succ'
    split
    next h =>
      obtain rfl : hi = lo + 1 := by omega
      exact ⟨by omega, hlo, fun h => hhi (by omega)⟩
    next h =>
      dsimp only
      rw [hx]
      split
      next hgt => exact ih lo _ hlo (by omega) (by omega) (by omega) fun _ => compare_gt_iff_gt.1 hgt
      next hgt => exact ih _ hi (le_of_not_gt fun h => hgt (compare_gt_iff_gt.2 h)) (by omega) (by omega) htop hhi

theorem searchCode_eq {f : FFmt} {x : Cmp} {q : ℚ} (hx : Sees x q) (hq : 0 ≤ q) {c : Nat} (hc : IsFloor f q c) :
    searchCode f x 40 0 (maxCode f + 1 + 1) = c := by
  refine IsFloor.unique (searchCode_isFloor hx 40 0 _ ?_ (by omega) ?_ le_rfl fun h => by omega) hc
  · rwa [codeVal_zero]
  · cases f <;> decide

/-! ## roundMag at a code, between two codes, beyond the last (R111 to R113) -/

section
variable {f : FFmt} {x : Cmp} {q : ℚ} (hx : Sees x q) (hq : 0 ≤ q) (r : Round) (sat neg : Bool)
include hx hq

/-- roundMag, once the code below the value is known. -/
theorem roundMag_floor {c : Nat} (hc : IsFloor f q c) : roundMag f r sat neg x =
    let omega := maxCode f + 1
    let exact := x (magVal f c).1 (magVal f c).2 == .eq
    let beyond := c == omega
    let up := !exact && !beyond && roundsUp f r neg x c
    if beyond && (r == .rz || (r == .rup && neg) || (r == .rdn && !neg)) then (withSign f neg (maxCode f), flagOF ||| flagNX)
    else if beyond || (up && c + 1 == omega) then ((overflowCode f sat neg).1, (overflowCode f sat neg).2 ||| flagOF ||| flagNX)
    else (withSign f neg (if up then c + 1 else c), flagIf (!exact) flagNX ||| flagIf (!exact && x 1 (minNormal f) == .gt) flagUF) := by
  unfold roundMag
  dsimp only
  rw [searchCode_eq hx hq hc]

/-- A value that a code has rounds to that code, without a flag. -/
theorem roundMag_at {c : Nat} (hc : c ≤ maxCode f) (h : codeVal f c = q) : roundMag f r sat neg x = (withSign f neg c, 0) := by
  have hfloor : IsFloor f q c := ⟨by omega, h.le, fun _ => h ▸ codeVal_lt_succ hc⟩
  have hexact : x (magVal f c).1 (magVal f c).2 = .eq := by rw [hx, compare_eq_iff_eq]; exact h
  have hne : ¬ c = maxCode f + 1 := by omega
  rw [roundMag_floor hx hq r sat neg hfloor]
  simp [hexact, hne, flagIf]

/-- A value strictly between two codes. -/
theorem roundMag_between {c : Nat} (hc : c ≤ maxCode f) (hl : codeVal f c < q) (hu : q < codeVal f (c + 1)) : roundMag f r sat neg x =
    if roundsUp f r neg x c = true ∧ c = maxCode f then ((overflowCode f sat neg).1, (overflowCode f sat neg).2 ||| flagOF ||| flagNX)
    else (withSign f neg (if roundsUp f r neg x c then c + 1 else c), flagNX ||| if x 1 (minNormal f) = .gt then flagUF else 0) := by
  have hlt : x (magVal f c).1 (magVal f c).2 = .lt := by rw [hx, compare_lt_iff_lt]; exact hl
  have hne : ¬ c = maxCode f + 1 := by omega
  rw [roundMag_floor hx hq r sat neg ⟨by omega, hl.le, fun _ => hu⟩]
  simp [hlt, hne, flagIf]

/-- A value at or beyond the overflow point. -/
theorem roundMag_beyond (h : codeVal f (maxCode f + 1) ≤ q) : roundMag f r sat neg x =
    if r = .rz ∨ (r = .rup ∧ neg = true) ∨ (r = .rdn ∧ neg = false) then (withSign f neg (maxCode f), flagOF ||| flagNX)
    else ((overflowCode f sat neg).1, (overflowCode f sat neg).2 ||| flagOF ||| flagNX) := by
  rw [roundMag_floor hx hq r sat neg ⟨le_rfl, h, fun h => by omega⟩]
  simp [or_assoc]

end

/-! ## Codes with their signs -/

theorem pow_width_float (f : FFmt) : 2 ^ f.width = 2 * signBit f := by cases f <;> rfl

/-- A code is its magnitude with its sign; the one exception would be a -0 of MK8 (R117). -/
theorem withSign_mod {f : FFmt} {c : Nat} (hc : c < 2 ^ f.width) (h : f = .mk8 → c ≠ 0x80) : withSign f (decide (signBit f ≤ c)) (c % signBit f) = c := by
  rw [pow_width_float] at hc
  unfold withSign
  by_cases hs : signBit f ≤ c
  · have hm : c % signBit f = c - signBit f := by rw [Nat.mod_eq_sub_mod hs, Nat.mod_eq_of_lt (by omega)]
    have hz : ¬ (f = .mk8 ∧ c - signBit f = 0) := by
      rintro ⟨rfl, h0⟩
      exact h rfl (by change c = signBit .mk8; omega)
    rw [hm, if_pos (by simpa [hs, ← not_and_or] using hz)]
    omega
  · simp [hs, Nat.mod_eq_of_lt (Nat.lt_of_not_le hs)]

/-- What a finite value says of its code: the magnitude code has the value, and with the sign it is the code. -/
theorem decodeF_fin {f : FFmt} {c m : Nat} {e : Int} {neg : Bool} (hc : c < 2 ^ f.width) (h : decodeF f c = .fin neg m e) :
    c % signBit f ≤ maxCode f ∧ magVal f (c % signBit f) = (m, e) ∧ withSign f neg (c % signBit f) = c := by
  have key (hk : f = .mk8 → c ≠ 0x80) (hmax : c % signBit f ≤ maxCode f)
      (hv : Val.fin (decide (signBit f ≤ c)) (magVal f (c % signBit f)).1 (magVal f (c % signBit f)).2 = .fin neg m e) :
      c % signBit f ≤ maxCode f ∧ magVal f (c % signBit f) = (m, e) ∧ withSign f neg (c % signBit f) = c := by
    obtain ⟨rfl, rfl, rfl⟩ := Val.fin.inj hv
    exact ⟨hmax, rfl, withSign_mod hc hk⟩
  have hmod (b : Nat) (hb : signBit f = b + 1) : c % signBit f ≤ b := by
    have := Nat.mod_lt c (show 0 < signBit f by omega)
    omega
  cases f with
  | mk8 =>
    simp only [decodeF, Nat.mod_eq_of_lt hc] at h
    split at h
    · cases h
    next h80 => exact key (fun _ => h80) (hmod 0x7F rfl) h
  | fp4 =>
    simp only [decodeF, Nat.mod_eq_of_lt hc] at h
    exact key nofun (hmod 7 rfl) h
  | fp8e4 =>
    simp only [decodeF, Nat.mod_eq_of_lt hc] at h
    split at h
    · cases h
    next h7f => exact key nofun (Nat.le_of_lt_succ (Nat.lt_of_le_of_ne (hmod 0x7F rfl) h7f)) h
  | f32 | bf16 | f16 | fp8e5 =>
    simp only [decodeF, Nat.mod_eq_of_lt hc] at h
    split at h
    next hle => exact key nofun hle h
    · split at h <;> cases h

/-- Settles O24: a zero keeps its code, any other finite value is the value of its own magnitude code. -/
theorem exactValuesRoundToThemselves : Obligations.ExactValuesRoundToThemselves := by
  intro f r sat neg c m e hc h
  obtain ⟨hmax, hval, hcode⟩ := decodeF_fin hc h
  have hcv : codeVal f (c % signBit f) = dyadic m e := by rw [codeVal, hval]
  change roundDyadic f r sat neg m e = (c, 0)
  unfold roundDyadic
  by_cases hm : m = 0
  · have hz : c % signBit f = 0 := by
      by_contra hne
      have hlt := codeVal_lt (f := f) (Nat.pos_of_ne_zero hne) (by omega)
      rw [hcv, hm, dyadic_zero, codeVal_zero] at hlt
      exact lt_irrefl _ hlt
    rw [if_pos hm, ← hz, hcode]
  · rw [if_neg hm, roundMag_at (sees_dyadic m e) (dyadic_nonneg m e) r sat neg hmax hcv, hcode]

end Sys2Proof.Machine

/-! PROOF. Floating-point vector instructions (R110, R111, R113, R149 to R153): the special values, the exact results that are rounded, and the statement
FloatVectorArithmetic. -/

namespace Sys2Proof.Machine

/-! ## The instructions (R149, R153) -/

/-- Floating-point arithmetic delivers, element by element, what its operation makes of the decoded elements. -/
theorem opFloat_delivers {bound : Nat} {f : FFmt} {sel : Sel} {srcs : List Opnd} {d : Opnd} {q : XQ} {op : Val → Val → Val → Nat × Flags} {s : State} {i : Instr}
    (h : exec i s = opFloat bound f sel srcs d q op s) :
    XDelivers s i srcs d q bound sameLane (ElementsAre s q f.width fun j e =>
      op (decodeF f (elem f.width (srcVec s srcs 0) (32 / f.width * j + selA sel e)))
        (decodeF f (elem f.width (srcVec s srcs 1) (32 / f.width * j + selB sel e)))
        (decodeF f (elem f.width (srcVec s srcs 2) (32 / f.width * j + e)))) :=
  opElems_delivers h (width_float f)

/-! ## NaN operands (R110, R149) -/

@[simp] theorem isNaN_negVal (v : Val) : isNaN (negVal v) = isNaN v := by cases v <;> rfl

theorem fadd_nan (f : FFmt) {x y : Val} (h : isNaN x = true ∨ isNaN y = true) : fadd f x y = (canonNaN f, 0) := by
  rw [fadd, if_pos (by simpa using h)]

theorem fsub_nan (f : FFmt) {x y : Val} (h : isNaN x = true ∨ isNaN y = true) : fsub f x y = (canonNaN f, 0) :=
  fadd_nan f (by simpa using h)

theorem fmul_nan (f : FFmt) {x y : Val} (h : isNaN x = true ∨ isNaN y = true) : fmul f x y = (canonNaN f, 0) := by
  rw [fmul, if_pos (by simpa using h)]

theorem fdiv_nan (f : FFmt) {x y : Val} (h : isNaN x = true ∨ isNaN y = true) : fdiv f x y = (canonNaN f, 0) := by
  unfold fdiv
  rw [if_pos (by simpa using h)]

theorem ffma_nan (f : FFmt) (negate : Bool) {x y : Val} (z : Val) (h : isNaN x = true ∨ isNaN y = true) : ffma f negate x y z = (canonNaN f, 0) := by
  rw [ffma, if_pos (by simpa using .inl h)]

/-- The instructions of one source. -/
theorem unary_nan (f : FFmt) {x : Val} (h : isNaN x = true) :
    frcp f x = (canonNaN f, 0) ∧ frsq f x = (canonNaN f, 0) ∧ fexp2 f x = (canonNaN f, 0) ∧ flog2 f x = (canonNaN f, 0) := by
  refine ⟨fdiv_nan f (.inr h), ?_⟩
  cases x with
  | nan | nar => exact ⟨rfl, rfl, rfl⟩
  | inf | fin => exact nomatch h

/-! ## Exact results of finite operands (R111) -/

/-- got is the sum of two signed dyadics, rounded once; a zero sum is -0 where both are -0 (R111). -/
def RoundedSum (f : FFmt) (got : Nat × Flags) (s : Bool) (m : Nat) (e : Int) (t : Bool) (n : Nat) (g : Int) : Prop :=
  ∃ u r, got = roundDyadic f .rne false u r (min e g) ∧
    signedM u r = signedM s m * 2 ^ (e - min e g).toNat + signedM t n * 2 ^ (g - min e g).toNat ∧
    (r = 0 → (u = true ↔ m = 0 ∧ n = 0 ∧ s = true ∧ t = true))

theorem signedM_natAbs {x : Int} {u : Bool} (h : x ≠ 0 → u = decide (x < 0)) : signedM u x.natAbs = x := by
  by_cases hx : x = 0
  · subst hx; cases u <;> rfl
  · rw [h hx]
    unfold signedM
    by_cases hn : x < 0
    · rw [if_pos (by simpa using hn)]; omega
    · rw [if_neg (by simpa using hn)]; omega

theorem roundedSum_addVal (f : FFmt) (s t : Bool) (m n : Nat) (e g : Int) :
    RoundedSum f (deliverOp f (addVal (.fin s m e) (.fin t n g))) s m e t n g := by
  refine ⟨_, _, rfl, ?_, fun h => ?_⟩
  · rw [signedM_natAbs fun hx => if_neg hx]
    push_cast
    rfl
  · rw [if_pos (Int.natAbs_eq_zero.1 h)]
    simp [and_assoc]

theorem ffma_fin (f : FFmt) (negate s t v : Bool) (m n l : Nat) (e g h : Int) :
    ffma f negate (.fin s m e) (.fin t n g) (.fin v l h) = deliverOp f (addVal (.fin (if negate then !(s != t) else s != t) (m * n) (e + g)) (.fin v l h)) := by
  cases negate <;> rfl

theorem fdiv_fin (f : FFmt) (s t : Bool) {m n : Nat} (e g : Int) (hm : m ≠ 0) (hn : n ≠ 0) :
    fdiv f (.fin s m e) (.fin t n g) = roundRatio f (s != t) m e n g := by
  simp [fdiv, isNaN, hm, hn]

/-! ## Rounding (R111 to R113) -/

theorem overflowCode_eq (f : FFmt) (sat neg : Bool) : overflowCode f sat neg = match f with
    | .fp8e4 => if sat then (withSign f neg 0x7E, flagSAT) else (0x7F, 0)
    | .fp4 | .mk8 => (withSign f neg (maxCode f), flagSAT)
    | _ => (withSign f neg (maxCode f + 1), 0) := by
  cases f <;> rfl

theorem roundsUp_eq (f : FFmt) (r : Round) (neg : Bool) (x : Cmp) (c : Nat) :
    let half := x (midVal f c).1 (midVal f c).2
    roundsUp f r neg x c =
      ((r == .rup && !neg || r == .rdn && neg) || (r == .rne && (half == .lt || half == .eq && c % 2 == 1)) || (r == .rna && half != .gt)) := by
  intro half
  cases r with
  | rz => rfl
  | rup | rdn => cases neg <;> rfl
  | rna => exact (Bool.false_or _).symm
  | rne =>
    change (match half with | .lt => true | .gt => false | .eq => c % 2 == 1) = (false || (half == .lt || half == .eq && c % 2 == 1) || false)
    cases half <;> simp

/-! ## Special values (R110, R111, R149 to R151) -/

/-- The code of an infinity in a format that holds infinities. -/
def infCode (f : FFmt) (neg : Bool) : Nat := withSign f neg (maxCode f + 1)

/-- The formats of the floating-point vector instructions' special values: they hold infinities and a -0. -/
def HasInf (f : FFmt) : Prop := f = .f32 ∨ f = .bf16 ∨ f = .f16

theorem deliverVal_inf {f : FFmt} (hf : HasInf f) (neg : Bool) : deliverVal f .rne false (.inf neg) = (infCode f neg, 0) := by
  rcases hf with rfl | rfl | rfl <;> rfl

theorem canonNaN_eq {f : FFmt} (hf : HasInf f) : (if f = .f32 then 0x7FC00000 else if f = .bf16 then 0x7FC0 else 0x7E00) = canonNaN f := by
  rcases hf with rfl | rfl | rfl <;> rfl

theorem infCode_eq {f : FFmt} (hf : HasInf f) (neg : Bool) :
    (if f = .f32 then 0x7F800000 else if f = .bf16 then 0x7F80 else 0x7C00) + (if neg then 2 ^ (f.width - 1) else 0) = infCode f neg := by
  rcases hf with rfl | rfl | rfl <;> cases neg <;> rfl

theorem withSign_zero {f : FFmt} (hf : HasInf f) (neg : Bool) : withSign f neg 0 = if neg then 2 ^ (f.width - 1) else 0 := by
  rcases hf with rfl | rfl | rfl <;> cases neg <;> rfl

section
variable {f : FFmt} (hf : HasInf f) (s t : Bool) (m : Nat) (e : Int)
include hf

theorem fadd_inf : fadd f (.inf s) (.inf (!s)) = (canonNaN f, flagNV) ∧ fsub f (.inf s) (.inf s) = (canonNaN f, flagNV) ∧
    fadd f (.inf s) (.inf s) = (infCode f s, 0) ∧ fadd f (.inf s) (.fin t m e) = (infCode f s, 0) := by
  have hsame : addVal (.inf s) (.inf s) = some (.inf s) := if_pos rfl
  have hother : addVal (.inf s) (.inf (!s)) = none := if_neg (by cases s <;> decide)
  refine ⟨congrArg (deliverOp f) hother, congrArg (deliverOp f) hother, (congrArg (deliverOp f) hsame).trans ?_, ?_⟩
  · exact deliverVal_inf hf s
  · exact deliverVal_inf hf s

theorem fmul_inf : fmul f (.inf s) (.fin t 0 e) = (canonNaN f, flagNV) ∧ fmul f (.inf s) (.inf t) = (infCode f (s != t), 0) :=
  ⟨rfl, deliverVal_inf hf _⟩

theorem fdiv_special : fdiv f (.fin s 0 e) (.fin t 0 e) = (canonNaN f, flagNV) ∧ fdiv f (.inf s) (.inf t) = (canonNaN f, flagNV) ∧
    fdiv f (.fin s m e) (.inf t) = (if s != t then 2 ^ (f.width - 1) else 0, 0) ∧
    (m ≠ 0 → fdiv f (.fin s 0 e) (.fin t m e) = (0, 0) ∧ fdiv f (.fin s m e) (.fin t 0 e) = (infCode f (s != t), flagDZ)) := by
  refine ⟨rfl, rfl, ?_, fun hm => ⟨?_, ?_⟩⟩
  · rw [← withSign_zero hf]; rfl
  · simp [fdiv, isNaN, hm]
  · simp [fdiv, isNaN, hm, deliverVal_inf hf]

theorem unary_special : (m ≠ 0 → frsq f (.fin true m e) = (canonNaN f, flagNV) ∧ flog2 f (.fin true m e) = (canonNaN f, flagNV)) ∧
    flog2 f (.fin s 0 e) = (infCode f true, flagDZ) ∧ fexp2 f (.inf true) = (0, 0) ∧ fexp2 f (.inf false) = (infCode f false, 0) := by
  refine ⟨fun hm => ⟨?_, ?_⟩, ?_, rfl, deliverVal_inf hf false⟩
  · simp [frsq, hm, invalidOp]
  · simp [flog2, hm, invalidOp]
  · simp [flog2, deliverVal_inf hf]

end

/-! ## The statement -/

theorem roundMag_special {f : FFmt} {x : Cmp} {q : ℚ} (hx : Sees x q) (hq : 0 ≤ q) (r : Round) (sat neg : Bool) :
    let at' (c : Nat) : Ordering := x (magVal f c).1 (magVal f c).2
    let omega : Nat := maxCode f + 1
    let half (c : Nat) : Ordering := x (midVal f c).1 (midVal f c).2
    let away : Bool := r == .rup && !neg || r == .rdn && neg
    let beyond := overflowCode f sat neg
    let got := roundMag f r sat neg x
    (∀ c, c < omega → at' c = .eq → got = (withSign f neg c, 0)) ∧
    (∀ c, c < omega → at' c = .lt → at' (c + 1) = .gt →
      let up : Bool := away || (r == .rne && (half c == .lt || half c == .eq && c % 2 == 1)) || (r == .rna && half c != .gt)
      (up = true → c + 1 = omega → got = (beyond.1, beyond.2 ||| flagOF ||| flagNX)) ∧
      (¬ (up = true ∧ c + 1 = omega) →
        got = (withSign f neg (if up then c + 1 else c), flagNX ||| if x 1 (minNormal f) = .gt then flagUF else 0))) ∧
    (at' omega ≠ .gt →
      (r = .rz ∨ (r = .rup ∧ neg = true) ∨ (r = .rdn ∧ neg = false) → got = (withSign f neg (maxCode f), flagOF ||| flagNX)) ∧
      (¬ (r = .rz ∨ (r = .rup ∧ neg = true) ∨ (r = .rdn ∧ neg = false)) → got = (beyond.1, beyond.2 ||| flagOF ||| flagNX))) := by
  intro at' omega half away beyond got
  refine ⟨fun c hc h => ?_, fun c hc hl hu => ?_, fun h => ?_⟩
  · exact roundMag_at hx hq r sat neg (Nat.le_of_lt_succ hc) (compare_eq_iff_eq.1 ((hx _ _).symm.trans h))
  · have hgot := roundMag_between hx hq r sat neg (Nat.le_of_lt_succ hc) (compare_lt_iff_lt.1 ((hx _ _).symm.trans hl))
      (compare_gt_iff_gt.1 ((hx _ _).symm.trans hu))
    rw [roundsUp_eq] at hgot
    exact ⟨fun hup ho => hgot.trans (if_pos ⟨hup, Nat.succ_injective ho⟩), fun hno => hgot.trans (if_neg fun h => hno ⟨h.1, congrArg (· + 1) h.2⟩)⟩
  · have hgot := roundMag_beyond hx hq r sat neg (le_of_not_gt fun hlt => h ((hx _ _).trans (compare_gt_iff_gt.2 hlt)))
    exact ⟨fun hr => hgot.trans (if_pos hr), fun hr => hgot.trans (if_neg hr)⟩

/-- Settles O23: each instruction is its operation lane by lane, special values by cases, finite ones by how an exact value rounds between neighbouring codes. -/
theorem floatVectorArithmetic : Obligations.FloatVectorArithmetic := by
  refine ⟨fun f sel d a b c q s => ?_, fun f x y z hf => ?_, fun f r sat neg m n d e i j hn hd => ?_⟩
  · refine ⟨?_, ?_, ?_, ?_, ?_, ?_, ?_, ?_, ?_, ?_, ?_, ?_, ?_⟩
    · exact opFloat_delivers (op := fun x y _ => fadd f x y) rfl
    · exact opFloat_delivers (op := fun x y _ => fsub f x y) rfl
    · exact opFloat_delivers (op := fun x y _ => fmul f x y) rfl
    · exact opFloat_delivers (sel := .none) (op := fun x y z => ffma f false x y z) rfl
    · exact opFloat_delivers (sel := .none) (op := fun x y z => ffma f true x y z) rfl
    · exact opElems_delivers (op := fun x y _ => (fpick f false x y, 0)) rfl (width_float f)
    · exact opElems_delivers (op := fun x y _ => (fpick f true x y, 0)) rfl (width_float f)
    · exact opFloat_delivers (op := fun x y _ => fdiv f x y) rfl
    · exact opFloat_delivers (op := fun x _ _ => frcp f x) rfl
    · exact opFloat_delivers (op := fun x _ _ => frsq f x) rfl
    · exact opFloat_delivers (op := fun x _ _ => fexp2 f x) rfl
    · exact opFloat_delivers (op := fun x _ _ => flog2 f x) rfl
    · exact opElems_delivers (op := fun x _ _ => (fclass f x, 0)) rfl (width_float f)
  · intro nan inf
    have hnan : nan = canonNaN f := canonNaN_eq hf
    have hinf : inf = infCode f := funext (infCode_eq hf)
    rw [hnan, hinf]
    refine ⟨fun h => ⟨fadd_nan f h, fsub_nan f h, fmul_nan f h, fdiv_nan f h, ffma_nan f false z h, ffma_nan f true z h⟩, fun h => unary_nan f h,
      fun s t m e => ?_, fun s t v m n l e g h => ?_⟩
    · obtain ⟨ha1, ha2, ha3, ha4⟩ := fadd_inf hf s t m e
      obtain ⟨hm1, hm2⟩ := fmul_inf hf s t e
      obtain ⟨hd1, hd2, hd3, hd4⟩ := fdiv_special hf s t m e
      obtain ⟨hu1, hu2, hu3, hu4⟩ := unary_special hf s m e
      exact ⟨ha1, ha2, ha3, ha4, hm1, hm2, hd1, hd2, hd3, fun hm => ⟨(hd4 hm).1, (hd4 hm).2, (hu1 hm).1, (hu1 hm).2⟩, hu2, hu3, hu4⟩
    · refine ⟨rfl, roundedSum_addVal f s t m n e g, roundedSum_addVal f s (!t) m n e g, rfl, roundedSum_addVal f (s != t) v (m * n) l (e + g) h, ?_,
        fun hm hn => fdiv_fin f s t e g hm hn, fun hn => ⟨?_, ?_⟩⟩
      · rw [ffma_fin, show (if true then !(s != t) else s != t) = (s == t) by cases s <;> cases t <;> rfl]
        exact roundedSum_addVal f (s == t) v (m * n) l (e + g) h
      · exact (fdiv_fin f false t 0 g one_ne_zero hn).trans (by cases t <;> rfl)
      · simp [frsq, hn]
  · intro x at' omega half away beyond got
    have hq : (0 : ℚ) ≤ dyadic n i / dyadic d j := div_nonneg (dyadic_nonneg n i) (dyadic_nonneg d j)
    refine ⟨if_pos rfl, fun hm => if_neg hm, fun c => ?_, ?_⟩
    · change (midVal f c).1 * 2 ^ (min (magVal f c).2 (magVal f (c + 1)).2 - 1 + 1 - min (magVal f c).2 (magVal f (c + 1)).2).toNat = _
      rw [sub_add_cancel, sub_self]
      exact Nat.mul_one _
    · have h := roundMag_special (f := f) (sees_ratio n i hd j) hq r sat neg
      rw [overflowCode_eq] at h
      exact h

end Sys2Proof.Machine

/-! PROOF. Conversions (R114, R115, R154 to R157): rounding to an integer, what VCVT, VPACK and VUNPK place, and the statement Conversions. -/

namespace Sys2Proof.Machine

/-! ## Rounding to an integer (R111, R115) -/

theorem signedM_mul (neg : Bool) (a b : Nat) : signedM neg (a * b) = signedM neg a * b := by
  cases neg <;> simp [signedM]

theorem signedM_sub_natAbs (neg : Bool) (a b : Nat) : (signedM neg a - signedM neg b).natAbs = ((a : Int) - b).natAbs := by
  cases neg
  · rfl
  · simp only [signedM, if_true]
    omega

theorem signedM_le {neg : Bool} {a b : Nat} (h : if neg then b ≤ a else a ≤ b) : signedM neg a ≤ signedM neg b := by
  cases neg <;> simpa [signedM] using h

theorem signedM_emod_two (neg : Bool) (a : Nat) : signedM neg a % 2 = 0 ↔ a % 2 = 0 := by
  cases neg <;> simp only [signedM, Bool.false_eq_true, if_false, if_true] <;> omega

theorem natAbs_signedM (neg : Bool) (m : Nat) : (signedM neg m).natAbs = m := by cases neg <;> simp [signedM]

theorem dvd_signedM (d : Nat) (neg : Bool) (m : Nat) : (d : Int) ∣ signedM neg m ↔ m % d = 0 := by
  rw [← Int.natAbs_dvd_natAbs, natAbs_signedM, Int.natAbs_natCast, Nat.dvd_iff_mod_eq_zero]

theorem roundToInt_nonneg (r : Round) (neg : Bool) (m : Nat) {e : Int} (he : 0 ≤ e) : roundToInt r neg m e = (signedM neg m * 2 ^ e.toNat, false) := by
  rw [roundToInt, if_pos he, signedM_mul]
  push_cast
  rfl

/-- Whether the quotient q of a magnitude by d, with a rest other than 0, rounds away from zero. -/
def roundsAway (r : Round) (neg : Bool) (d q rest : Nat) : Bool := match r with
  | .rz => false
  | .rup => !neg
  | .rdn => neg
  | .rne => d < 2 * rest || (d == 2 * rest && q % 2 == 1)
  | .rna => d ≤ 2 * rest

theorem roundToInt_neg (r : Round) (neg : Bool) (m : Nat) {e : Int} (he : e < 0) :
    let d := 2 ^ (-e).toNat
    roundToInt r neg m e = (signedM neg (if m % d != 0 && roundsAway r neg d (m / d) (m % d) then m / d + 1 else m / d), m % d != 0) := by
  unfold roundToInt
  rw [if_neg (by omega)]
  rfl

/-- The magnitude that rounding takes lies within one unit of the value, on the side that the mode asks for. -/
structure RoundsTo (r : Round) (neg : Bool) (d m z : Nat) : Prop where
  exact : d ∣ m → z * d = m
  near : z * d < m + d ∧ m < z * d + d
  below : r = .rz ∨ (r = .rup ∧ neg = true) ∨ (r = .rdn ∧ neg = false) → z * d ≤ m
  above : (r = .rup ∧ neg = false) ∨ (r = .rdn ∧ neg = true) → m ≤ z * d
  nearest : r = .rne ∨ r = .rna → 2 * (z * d) ≤ 2 * m + d ∧ 2 * m ≤ 2 * (z * d) + d
  tie : 2 * (z * d) = 2 * m + d ∨ 2 * m = 2 * (z * d) + d → (r = .rne → z % 2 = 0) ∧ (r = .rna → m < z * d)

/-- A quotient without a rest, or one that rounds toward zero. -/
theorem roundsTo_quotient {r : Round} {neg : Bool} {d m : Nat} (hd : 2 ≤ d) (h : m % d ≠ 0 → roundsAway r neg d (m / d) (m % d) = false) :
    RoundsTo r neg d m (m / d) := by
  have hm := Nat.div_add_mod' m d
  have hr := Nat.mod_lt m (show 0 < d by omega)
  have hdvd : d ∣ m ↔ m % d = 0 := Nat.dvd_iff_mod_eq_zero
  have hparity := Nat.mod_two_eq_zero_or_one (m / d)
  generalize m / d = q at *
  generalize m % d = t at *
  refine ⟨fun h0 => ?_, by omega, fun _ => by omega, fun hr => ?_, fun hr => ?_, fun ht => ⟨?_, ?_⟩⟩
  · have := hdvd.1 h0
    omega
  · have : t = 0 := by
      by_contra h0
      rcases hr with ⟨rfl, rfl⟩ | ⟨rfl, rfl⟩ <;> exact absurd (h h0) (by simp [roundsAway])
    omega
  · rcases hr with rfl | rfl <;> simp [roundsAway] at h <;> omega
  · rintro rfl
    simp [roundsAway] at h
    omega
  · rintro rfl
    simp [roundsAway] at h
    omega

/-- A quotient with a rest that rounds away from zero. -/
theorem roundsTo_succ {r : Round} {neg : Bool} {d m : Nat} (hd : 2 ≤ d) (ht : m % d ≠ 0) (h : roundsAway r neg d (m / d) (m % d) = true) :
    RoundsTo r neg d m (m / d + 1) := by
  have hm := Nat.div_add_mod' m d
  have hr := Nat.mod_lt m (show 0 < d by omega)
  have hdvd : d ∣ m ↔ m % d = 0 := Nat.dvd_iff_mod_eq_zero
  have hsucc : (m / d + 1) * d = m / d * d + d := Nat.succ_mul _ d
  generalize m / d = q at *
  generalize m % d = t at *
  refine ⟨fun h0 => absurd (hdvd.1 h0) ht, by omega, fun hr => ?_, fun _ => by omega, fun hr => ?_, fun _ => ⟨?_, fun _ => by omega⟩⟩
  · rcases hr with rfl | ⟨rfl, rfl⟩ | ⟨rfl, rfl⟩ <;> exact absurd h (by simp [roundsAway])
  · rcases hr with rfl | rfl <;> simp [roundsAway] at h <;> omega
  · rintro rfl
    simp [roundsAway] at h
    omega

/-- R111: the integer that a dyadic with a negative exponent rounds to. -/
theorem roundToInt_roundsTo (r : Round) (neg : Bool) (m : Nat) {e : Int} (he : e < 0) :
    ∃ z, RoundsTo r neg (2 ^ (-e).toNat) m z ∧ roundToInt r neg m e = (signedM neg z, m % 2 ^ (-e).toNat != 0) := by
  have hd : 2 ≤ 2 ^ (-e).toNat := Nat.le_self_pow (by omega) 2
  refine ⟨_, ?_, roundToInt_neg r neg m he⟩
  split
  next h =>
    obtain ⟨ht, ha⟩ := Bool.and_eq_true_iff.1 h
    exact roundsTo_succ hd (by simpa using ht) ha
  next h => exact roundsTo_quotient hd fun ht => by simpa [ht] using h

/-- The same, as the statement says it. -/
theorem roundToInt_spec (r : Round) (neg : Bool) (m : Nat) {e : Int} (he : e < 0) :
    let y := roundToInt r neg m e
    let v : Int := signedM neg m
    let den : Nat := 2 ^ (-e).toNat
    let z : Int := y.1 * den
    let off : Nat := (z - v).natAbs
    (y.2 = false ↔ (den : Int) ∣ v) ∧ ((den : Int) ∣ v → z = v) ∧ off < den ∧ (r = .rz → z.natAbs ≤ m) ∧ (r = .rup → v ≤ z) ∧ (r = .rdn → z ≤ v) ∧
    (r = .rne ∨ r = .rna → 2 * off ≤ den) ∧ (r = .rne → 2 * off = den → y.1 % 2 = 0) ∧ (r = .rna → 2 * off = den → m < z.natAbs) := by
  intro y v den
  obtain ⟨z, ⟨hexact, hnear, hbelow, habove, hnearest, htie⟩, hy⟩ :
    ∃ z, RoundsTo r neg den m z ∧ roundToInt r neg m e = (signedM neg z, m % den != 0) := roundToInt_roundsTo r neg m he
  have hz : signedM neg z * (den : Int) = signedM neg (z * den) := (signedM_mul neg z den).symm
  have hdvd : (den : Int) ∣ v ↔ den ∣ m := by rw [dvd_signedM, Nat.dvd_iff_mod_eq_zero]
  simp only [y, hy, hz, v, signedM_sub_natAbs, natAbs_signedM, signedM_emod_two]
  clear_value den
  generalize z * den = zd at *
  refine ⟨?_, fun hd => congrArg _ (hexact (hdvd.1 hd)), by omega, fun hr => hbelow (.inl hr), ?_, ?_, fun hr => ?_, fun hr ht => ?_, fun hr ht => ?_⟩
  · rw [hdvd, Nat.dvd_iff_mod_eq_zero]
    simp
  · rintro rfl
    refine signedM_le ?_
    cases neg
    · exact habove (.inl ⟨rfl, rfl⟩)
    · exact hbelow (.inr (.inl ⟨rfl, rfl⟩))
  · rintro rfl
    refine signedM_le ?_
    cases neg
    · exact hbelow (.inr (.inr ⟨rfl, rfl⟩))
    · exact habove (.inr ⟨rfl, rfl⟩)
  · have := hnearest hr
    omega
  · exact (htie (by omega)).1 hr
  · exact (htie (by omega)).2 hr

/-! ## Values that the destination does not hold (R114, R115, R154) -/

theorem clampI_eq {x lo hi : Int} (h : lo ≤ hi) : clampI x lo hi = max lo (min hi x) := by
  unfold clampI
  split
  · omega
  · split <;> omega

theorem floatToInt_fin (k : IFmt) (r : Round) (neg : Bool) (m : Nat) (e : Int) :
    let y := roundToInt r neg m e
    let z : Int := max (intRange k).1 (min (intRange k).2 y.1)
    (floatToInt k r (.fin neg m e)).1 < 2 ^ k.width ∧ readInt k (floatToInt k r (.fin neg m e)).1 = z ∧
    (floatToInt k r (.fin neg m e)).2 = (if z = y.1 then 0 else flagSAT) ||| if y.2 then flagNX else 0 := by
  intro y z
  have hn := intRange_nonempty k
  have hz : clampI y.1 (intRange k).1 (intRange k).2 = z := clampI_eq hn
  have hv : floatToInt k r (.fin neg m e) = (zextI z k.width, flagIf (z != y.1) flagSAT ||| flagIf y.2 flagNX) := by
    change ((deliverInt k true y.1).1, (deliverInt k true y.1).2 ||| flagIf y.2 flagNX) = _
    rw [deliverInt_sat, hz]
  rw [hv]
  refine ⟨zextI_lt _ _, readInt_zextI ⟨by omega, by omega⟩, ?_⟩
  simp [flagIf, ite_not]

theorem cvtFF_same (f : FFmt) (r : Round) (sat : Bool) (x : Nat) : cvtFF f f r sat x = if isNaN (decodeF f x) then (canonNaN f, 0) else (x, 0) := by
  rw [cvtFF, if_pos rfl]
  cases decodeF f x <;> rfl

/-! ## VPACK and VUNPK (R156, R157) -/

theorem double_width (f : DFmt) : 2048 / (2 * f.width) = 32 * (32 / f.width) := by
  cases f with
  | fp f => cases f <;> rfl
  | int f => cases f <;> rfl

theorem width_dfmt (f : DFmt) : f.width ∈ [4, 8, 16, 32] := by
  cases f with
  | fp f => exact width_float f
  | int f => exact width_int f

theorem elem_lt (w : Nat) (v : Vec) (n : Nat) : elem w v n < 2 ^ w := Nat.mod_lt _ (Nat.two_pow_pos w)

/-- An integer element widened is its value in twice the width. -/
theorem unpackElem_int (k : IFmt) {x : Nat} (hx : x < 2 ^ k.width) :
    unpackElem (.int k) x % 2 ^ (2 * k.width) = (readInt k x % ((2 ^ (2 * k.width) : Nat) : Int)).toNat := by
  simp only [unpackElem, readInt]
  cases k.signed
  · simp only [Bool.false_eq_true, if_false, Nat.mod_eq_of_lt hx]
    exact (Int.toNat_natCast _).symm
  · exact Nat.mod_eq_of_lt (zextI_lt _ _)

/-- The element e of lane j that a conversion from elements of width ws makes of a source (R155). -/
def convertedElem (ws : Nat) (sel : Sel) (v : Vec) (cvt : Nat → Nat × Flags) (j e : Nat) : Nat × Flags := match sel with
  | .a k => if e = 0 then cvt (elem ws v (32 / ws * j + k.toNat)) else (0, 0)
  | _ => if e < 32 / ws then cvt (elem ws v (32 / ws * j + e)) else (0, 0)

theorem opConvert_delivers {ws wd : Nat} {sel : Sel} {d a : Opnd} {q : XQ} {cvt : Nat → Nat × Flags} {s : State} {i : Instr}
    (h : exec i s = opConvert ws wd sel d a q cvt s) (hw : wd ∈ [4, 8, 16, 32]) :
    XDelivers s i [a] d q 3 sameLane (ElementsAre s q wd (convertedElem ws sel (srcVec s [a] 0) cvt)) :=
  xDelivers_of_opX _ _ _ h rfl (elementsAre_elementwise s [a] q sameLane wd hw _)

theorem vpack_delivers (f : DFmt) (r : Round) (d a b : Opnd) (q : XQ) (s : State) : XDelivers s (.vpack f r d a b q) [a, b] d q 3
    (fun i j => if i = 0 then (if j < 32 then [2 * j, 2 * j + 1] else []) else if j < 32 then [] else [2 * j - 64, 2 * j - 63])
    (ElementsAre s q f.width fun j e =>
      let n := 32 / f.width * j + e
      packElem f r (if n < 32 * (32 / f.width) then elem (2 * f.width) (srcVec s [a, b] 0) n
        else elem (2 * f.width) (srcVec s [a, b] 1) (n - 32 * (32 / f.width)))) := by
  have h : exec (.vpack f r d a b q) s = execVpack f r d a b q s := by dsimp only [exec]
  exact xDelivers_of_opX _ _ _ h rfl (elementsAre_elementwise s [a, b] q _ f.width (width_dfmt f) _)

theorem vunpk_delivers (f : DFmt) (d a : Opnd) (q : XQ) (s : State) : XDelivers s (.vunpk f d a q) [a] d q 3 (fun _ j => [j / 2])
    (fun o => o.flags = 0 ∧ ∀ n, n < 32 * (32 / f.width) →
      elem (2 * f.width) o.data n = unpackElem f (elem f.width (srcVec s [a] 0) n) % 2 ^ (2 * f.width)) := by
  have h : exec (.vunpk f d a q) s = execVunpk f d a q s := by dsimp only [exec]
  exact xDelivers_of_opX _ _ _ h rfl ⟨rfl, fun n hn => elem_ofElems _ _ (by rwa [double_width])⟩

/-- Settles O25: the conversions by the shape they share, what the destination does not hold by the lemmas on rounding to an integer. -/
theorem conversions : Obligations.Conversions := by
  refine ⟨fun df sf di si fm r sat sel d a b q s => ⟨?_, ?_, ?_, ?_, vpack_delivers fm r d a b q s, fun _ => ?_⟩, fun f g k r sat neg m e x => ?_⟩
  · exact opConvert_delivers rfl (width_float df)
  · exact opConvert_delivers (cvt := fun x => floatToInt di r (decodeF sf x)) rfl (width_int di)
  · exact opConvert_delivers (cvt := fun x => intToFloat df r sat (readInt si x)) rfl (width_float df)
  · exact opConvert_delivers (cvt := fun x => deliverInt di sat (readInt si x)) rfl (width_int di)
  · refine (vunpk_delivers fm d a q s).mono fun o ho => ⟨ho.1, fun n hn => (ho.2 n hn).trans ?_⟩
    cases fm with
    | int k => exact unpackElem_int k (elem_lt _ _ _)
    | fp g => rfl
  · refine ⟨rfl, rfl, rfl, floatToInt_fin k r neg m e, cvtFF_same f r sat x, fun h => if_neg h, rfl, rfl, rfl, ?_, fun he => roundToInt_nonneg r neg m he,
      fun he => roundToInt_spec r neg m he⟩
    cases sat <;> rfl

end Sys2Proof.Machine

/-! PROOF. Reductions, mask counts and rescaling (R132, R167 to R170): what takes part, sums and extremes, the pairwise sum, and the statement
ReductionsAndScaling. -/

namespace Sys2Proof.Machine

/-! ## Lanes that deliver and elements that take part (R167) -/

theorem lowestLane_eq (k : Mask) {j : Nat} (hj : j < 64) : (lowestLane k == some j) = decide (maskBit k j = true ∧ ∀ m, m < j → maskBit k m = false) := by
  rw [lowestLane, firstIndex, Bool.eq_iff_iff, beq_iff_eq, decide_eq_true_eq, List.find?_range_eq_some]
  simp [hj]

theorem lostLanes_sameLane (srcs : List Src) {j : Nat} (hj : j < 64) : maskBit (lostLanes srcs sameLane) j = srcs.any fun x => maskBit x.lost j := by
  rw [lostLanes, maskBit_ofMask _ hj]
  simp only [sameLane, List.any_cons, List.any_nil, Bool.or_false]
  conv_rhs => rw [← List.zipIdx_map_fst 0 srcs, List.any_map]
  rfl

theorem deliverReduced_reducesTo (s : State) (srcs : List Opnd) (q : XQ) (data : Vec) (fl : Flags) :
    ReducesTo s srcs q fl (deliverReduced (srcsOf s srcs) (activeOf s q) data fl) := by
  refine ⟨rfl, rfl, rfl, rfl, fun j hj => ⟨?_, ?_⟩⟩
  · refine (laneFlags_ofFlags _ hj).trans ?_
    rw [lowestLane_eq _ hj]
    simp only [decide_eq_true_eq]
  · refine (maskBit_and ..).trans ?_
    rw [lostLanes_sameLane _ hj]

theorem participates_eq (s : State) (a : Opnd) (q : XQ) (w : Nat) :
    participates (srcsOf s [a]) (activeOf s q) (32 / w) = Participates s a q w := by
  funext n
  simp [participates, Participates, srcsOf, readSrcs]

theorem takingPart_eq (s : State) (a : Opnd) (q : XQ) (w : Nat) :
    ((List.range (64 * (32 / w))).filter (participates (srcsOf s [a]) (activeOf s q) (32 / w))).map (fun n => elem w (srcVec s [a] 0) n) = takingPart s a q w := by
  rw [participates_eq]
  rfl

/-- Adding what takes part is the sum of the list of it. -/
theorem foldl_if_add (p : Nat → Bool) (g : Nat → Int) (l : List Nat) (x : Int) :
    l.foldl (fun t n => if p n then t + g n else t) x = x + ((l.filter p).map g).sum := by
  rw [← foldl_add_eq_sum, List.foldl_filter]

theorem countP_maskBit (k : Mask) (n : Nat) : popCount k.toNat n = (List.range n).countP (maskBit k) := by
  induction n with
  | zero => rfl
  | succ n ih =>
    rw [popCount, ih, List.range_succ, List.countP_append]
    have h2 := Nat.mod_two_eq_zero_or_one (k.toNat >>> n)
    rcases h2 with h | h <;> simp [maskBit, h]

/-! ## The pairwise sum (R132) -/

/-- Level by level, element n is the sum of elements 2n and 2n + 1 of the level below. -/
def sumLevel (add : Nat × Flags → Nat × Flags → Nat × Flags) (leaf : Nat → Nat × Flags) : Nat → Nat → Nat × Flags
  | 0, n => leaf n
  | l + 1, n => add (sumLevel add leaf l (2 * n)) (sumLevel add leaf l (2 * n + 1))

theorem pairs_map (add : Nat × Flags → Nat × Flags → Nat × Flags) (g : Nat → Nat × Flags) (k i : Nat) :
    sumTree.pairs add ((List.range' (2 * i) (2 * k)).map g) = (List.range' i k).map fun n => add (g (2 * n)) (g (2 * n + 1)) := by
  induction k generalizing i with
  | zero => rfl
  | succ k ih =>
    have h : List.range' (2 * i) (2 * (k + 1)) = 2 * i :: (2 * i + 1) :: List.range' (2 * (i + 1)) (2 * k) := rfl
    rw [h, List.range'_succ, List.map_cons, List.map_cons, List.map_cons, ← ih]
    rfl

theorem sumTree_sumLevel (add : Nat × Flags → Nat × Flags → Nat × Flags) (leaf : Nat → Nat × Flags) (n l : Nat) :
    (sumTree add n ((List.range (2 ^ n)).map (sumLevel add leaf l))).headD (0, 0) = sumLevel add leaf (l + n) 0 := by
  induction n generalizing l with
  | zero => rfl
  | succ n ih =>
    rw [sumTree, List.range_eq_range', Nat.pow_succ', ← Nat.mul_zero 2, pairs_map, Nat.mul_zero, ← List.range_eq_range']
    exact (ih (l + 1)).trans (by rw [Nat.add_right_comm, Nat.add_assoc])

/-! ## The instructions -/

section
variable (s : State) (d a : Opnd) (q : XQ)

/-- A reduction to integers delivers one integer in every lane. -/
theorem lane_ofElems_const {x : Nat} {j : Nat} (hj : j < 64) : lane (ofElems 32 fun _ => x) j = BitVec.ofNat 32 x := by
  have h := elem_ofElems 32 (fun _ => x) (n := j) hj
  apply BitVec.eq_of_toNat_eq
  rw [lane, BitVec.toNat_ofNat, BitVec.toNat_ofNat]
  exact h

theorem vrsum_int (k : IFmt) :
    let sum := deliverInt (if k.signed then .i32 else .n32) true ((takingPart s a q k.width).map (readInt k)).sum
    XGives s (.vrsum (.int k) d a q) [a] d q 8 (fun o => ReducesTo s [a] q sum.2 o ∧ ∀ j, j < 64 → lane o.data j = BitVec.ofNat 32 sum.1) := by
  intro sum
  have h : exec (.vrsum (.int k) d a q) s = execVrsum (.int k) d a q s := by dsimp only [exec]
  refine xGives_of_opX _ h ?_
  have hsum : (List.range (64 * (32 / k.width))).foldl (fun t n => if participates (srcsOf s [a]) (activeOf s q) (32 / k.width) n
      then t + readInt k (elem k.width (srcAt (srcsOf s [a]) 0) n) else t) 0 = ((takingPart s a q k.width).map (readInt k)).sum := by
    rw [foldl_if_add, zero_add, ← takingPart_eq, List.map_map]
    rfl
  dsimp only
  rw [show (DFmt.int k).width = k.width from rfl, hsum]
  exact ⟨deliverReduced_reducesTo s [a] q _ _, fun j hj => lane_ofElems_const hj⟩

theorem ofNat_zextI (x : Int) : BitVec.ofNat 32 (zextI x 32) = BitVec.ofInt 32 x := by
  apply BitVec.eq_of_toNat_eq
  rw [BitVec.toNat_ofNat, BitVec.toNat_ofInt, Nat.mod_eq_of_lt (zextI_lt x 32)]
  rfl

/-- The extreme of a list of integers, of an empty one the end of the range (R168). -/
def extremeInt (k : IFmt) (largest : Bool) : List Int → Int
  | [] => if largest then (intRange k).1 else (intRange k).2
  | y :: t => t.foldl (if largest then max else min) y

/-- The extreme of a list of codes, of an empty one an infinity (R168). -/
def extremeFloat (f : FFmt) (largest : Bool) : List Nat → Nat
  | [] => (deliverVal f .rne false (.inf largest)).1
  | y :: t => if isNaN (decodeF f (t.foldl (fpick f largest) y)) then canonNaN f else t.foldl (fpick f largest) y

theorem opExtreme_int {i : Instr} {largest : Bool} {k : IFmt} (h : exec i s = opExtreme largest (.int k) d a q s) :
    XGives s i [a] d q 8 (fun o => ReducesTo s [a] q 0 o ∧
      ∀ j, j < 64 → lane o.data j = BitVec.ofInt 32 (extremeInt k largest ((takingPart s a q k.width).map (readInt k)))) := by
  refine xGives_of_opX _ h ?_
  have hx := takingPart_eq s a q k.width
  dsimp only [srcVec] at hx ⊢
  rw [show (DFmt.int k).width = k.width from rfl, hx]
  cases takingPart s a q k.width with
  | nil => exact ⟨deliverReduced_reducesTo s [a] q _ _, fun j hj => (lane_ofElems_const hj).trans (ofNat_zextI _)⟩
  | cons y t =>
    refine ⟨deliverReduced_reducesTo s [a] q _ _, fun j hj => (lane_ofElems_const hj).trans ((ofNat_zextI _).trans (congrArg _ ?_))⟩
    rw [List.map_cons, extremeInt, List.foldl_map]
    cases largest <;> rfl

theorem opExtreme_float {i : Instr} {largest : Bool} {f : FFmt} (h : exec i s = opExtreme largest (.fp f) d a q s) :
    XGives s i [a] d q 8 (fun o => ReducesTo s [a] q 0 o ∧
      ∀ n, n < 2048 / f.width → elem f.width o.data n = extremeFloat f largest (takingPart s a q f.width) % 2 ^ f.width) := by
  refine xGives_of_opX _ h ?_
  have hx := takingPart_eq s a q f.width
  dsimp only [srcVec] at hx ⊢
  rw [show (DFmt.fp f).width = f.width from rfl, hx]
  cases takingPart s a q f.width with
  | nil => exact ⟨deliverReduced_reducesTo s [a] q _ _, fun n hn => elem_ofElems _ _ hn⟩
  | cons y t => exact ⟨deliverReduced_reducesTo s [a] q _ _, fun n hn => elem_ofElems _ _ hn⟩

/-- The elements at the leaves of the sum: those that do not take part enter as +0 (R132). -/
def sumLeaf (f : FFmt) (n : Nat) : Nat × Flags :=
  if n < 2048 / f.width ∧ Participates s a q f.width n = true then ((deliverVal .f32 .rne false (decodeF f (elem f.width (srcVec s [a] 0) n))).1, 0)
  else (0, 0)

/-- The number of levels of the sum. -/
def sumLevels (f : FFmt) : Nat := if f.width = 32 then 6 else if f.width = 16 then 7 else if f.width = 8 then 8 else 9

theorem sumLevels_eq (f : FFmt) : 6 + Nat.log2 (32 / f.width) = sumLevels f ∧ 64 * (32 / f.width) = 2 ^ sumLevels f ∧ 2048 / f.width = 2 ^ sumLevels f := by
  cases f <;> decide

theorem vrsum_float (f : FFmt) :
    let top := sumLevel addF32 (sumLeaf s a q f) (sumLevels f) 0
    let out := cvtFF f .f32 .rne false top.1
    XGives s (.vrsum (.fp f) d a q) [a] d q 8 (fun o => ReducesTo s [a] q (top.2 ||| out.2) o ∧
      ∀ n, n < 2048 / f.width → elem f.width o.data n = out.1 % 2 ^ f.width) := by
  intro top out
  have h : exec (.vrsum (.fp f) d a q) s = execVrsum (.fp f) d a q s := by dsimp only [exec]
  refine xGives_of_opX _ h ?_
  obtain ⟨hlog, hcount, hnum⟩ := sumLevels_eq f
  have hleaves : (List.range (64 * (32 / f.width))).map (fun n => if participates (srcsOf s [a]) (activeOf s q) (32 / f.width) n
      then ((deliverVal .f32 .rne false (decodeF f (elem f.width (srcAt (srcsOf s [a]) 0) n))).1, (0 : Flags)) else (0, 0)) =
      (List.range (2 ^ sumLevels f)).map (sumLevel addF32 (sumLeaf s a q f) 0) := by
    rw [participates_eq, hcount]
    refine List.map_congr_left fun n hn => ?_
    have hlt : n < 2048 / f.width := hnum ▸ List.mem_range.1 hn
    simp only [sumLevel, sumLeaf, hlt, true_and]
    rfl
  have htop : (sumTree addF32 (6 + Nat.log2 (32 / f.width)) ((List.range (64 * (32 / f.width))).map fun n =>
      if participates (srcsOf s [a]) (activeOf s q) (32 / f.width) n
      then ((deliverVal .f32 .rne false (decodeF f (elem f.width (srcAt (srcsOf s [a]) 0) n))).1, (0 : Flags)) else (0, 0))).headD (0, 0) = top := by
    rw [hleaves, hlog, sumTree_sumLevel, Nat.zero_add]
  dsimp only
  rw [show (DFmt.fp f).width = f.width from rfl, htop]
  exact ⟨deliverReduced_reducesTo s [a] q _ _, fun n hn => elem_ofElems _ _ hn⟩

/-- R169: the count of two masks. -/
theorem vmcnt_counts (gd : Reg) (ka : BitVec 3) (hk : ∀ r ∈ (xContext s).xres, r.k = none) : XReg s (.vmcnt gd ka q) [] gd q
    (BitVec.ofNat 64 ((List.range 64).countP fun j => maskBit (if ka = 0 then BitVec.allOnes 64 else tget 0 (xContext s).k ka.toNat) j &&
      maskBit (activeOf s q) j)) := by
  have h : exec (.vmcnt gd ka q) s = execVmcnt gd ka q s := by dsimp only [exec]
  refine xReg_of_opXg _ h ?_
  have hz : (ka.toNat = 0) = (ka = 0) := propext ⟨fun h => BitVec.eq_of_toNat_eq h, fun h => by rw [h]; rfl⟩
  dsimp only
  rw [curCtx_setCurCtx, readMask_of_none hk, countP_maskBit, funext (maskBit_and _ _)]
  simp only [hz]

/-- R170: the two halves of a lane that VMSCL scales by. -/
theorem lane_halves (v : Vec) (j : Nat) : bits (lane v j).toNat 15 0 = (lane v j).toNat % 2 ^ 16 ∧ bits (lane v j).toNat 31 16 = (lane v j).toNat / 2 ^ 16 := by
  have hlt := (lane v j).isLt
  refine ⟨rfl, ?_⟩
  rw [bits, Nat.shiftRight_eq_div_pow]
  omega

theorem vmscl_delivers (f : FFmt) (sel : Sel) (b : Opnd) :
    let count (j : Nat) : Nat := (lane (srcVec s [a, b] 1) j).toNat % 2 ^ 16
    let total (j : Nat) : Nat := (lane (srcVec s [a, b] 1) j).toNat / 2 ^ 16
    XDelivers s (.vmscl f sel d a b q) [a, b] d q 5 sameLane (ElementsAre s q f.width fun j e =>
      if count j = 0 then (0, flagMZ) else fscale f (decodeF f (elem f.width (srcVec s [a, b] 0) (32 / f.width * j + selA sel e))) (total j) (count j)) := by
  intro count total
  have h : exec (.vmscl f sel d a b q) s = execVmscl f sel d a b q s := by dsimp only [exec]
  have he := elementsAre_elementwise s [a, b] q sameLane f.width (width_float f) fun j e =>
    if count j = 0 then (0, flagMZ) else fscale f (decodeF f (elem f.width (srcVec s [a, b] 0) (32 / f.width * j + selA sel e))) (total j) (count j)
  refine xDelivers_of_opX _ _ _ h ?_ he
  dsimp only
  simp only [lane_halves]
  rfl

end

/-- Settles O29: each reduction by what its function makes of the elements that take part, the sum by the levels of its tree. -/
theorem reductionsAndScaling : Obligations.ReductionsAndScaling := by
  intro k f sel gd ka d a b q s w xs sum ext fs fext count total
  have hext (largest : Bool) : extremeInt k largest xs = ext largest := by
    unfold extremeInt ext
    cases xs <;> rfl
  have hfext (largest : Bool) : extremeFloat f largest fs = fext largest := by
    unfold extremeFloat fext
    cases fs <;> rfl
  simp only [← hext, ← hfext]
  refine ⟨vrsum_int s d a q k, opExtreme_int s d a q rfl, opExtreme_int s d a q rfl, opExtreme_float s d a q rfl, opExtreme_float s d a q rfl, ?_,
    vmcnt_counts s q gd ka, vmscl_delivers s d a q f sel b⟩
  intro hr
  obtain ⟨o, hc, ho⟩ := vrsum_float s d a q f hr
  exact ⟨o, hc, sumLevel addF32 (sumLeaf s a q f), fun _ => rfl, fun _ _ => rfl, ho⟩

end Sys2Proof.Machine

/-! PROOF. The resolver's instructions (R192, R201 to R207): how a job takes its place in the queue, and when ASCL and AMOV fault; and ACMP (R205). -/

namespace Sys2Proof.Machine

/-! ## The place of a job in the queue (R192) -/

/-- An S job that X's job of the same cycle goes before. -/
def Late (now : Nat) (x : Ctx) (k : RJob) : Prop :=
  x.rjobs.getLast? = some k ∧ k.seq = .S ∧ k.issuedAt = now ∧ k.started = false ∧ k.arrival + 1 = x.arrivals

theorem xArrival_frame (now : Nat) (x : Ctx) : ∃ l a, (xArrival now x).1 = { x with rjobs := l, arrivals := x.arrivals + 1, sacc := a } := by
  unfold xArrival
  split
  · split
    · exact ⟨_, _, rfl⟩
    · exact ⟨_, _, rfl⟩
  · exact ⟨_, _, rfl⟩

theorem xArrival_plain {now : Nat} {x : Ctx} (h : ∀ k, ¬ Late now x k) : xArrival now x = ({ x with arrivals := x.arrivals + 1 }, x.arrivals) := by
  unfold xArrival
  split
  next k hk => rw [if_neg fun hl => h k ⟨hk, hl⟩]
  · rfl

theorem xArrival_late {now : Nat} {x : Ctx} {k : RJob} (h : Late now x k) :
    (xArrival now x).2 = k.arrival ∧ (xArrival now x).1.rjobs = x.rjobs.dropLast ++ [{ k with arrival := x.arrivals }] := by
  unfold xArrival
  rw [h.1]
  dsimp only
  rw [if_pos h.2]
  exact ⟨rfl, rfl⟩

theorem enqueueJob_last {q : List RJob} {j : RJob} (h : ∀ o ∈ q, o.arrival < j.arrival) : enqueueJob q j = q ++ [j] := by
  rw [enqueueJob, List.filter_eq_self.2 fun o ho => decide_eq_true (h o ho), List.filter_eq_nil_iff.2 fun o ho => by simp [h o ho]]

theorem enqueueJob_before {q : List RJob} {j k : RJob} (h : ∀ o ∈ q, o.arrival < j.arrival) (hk : j.arrival ≤ k.arrival) :
    enqueueJob (q ++ [k]) j = q ++ [j, k] := by
  have hall : q.filter (fun o => decide (o.arrival < j.arrival)) = q := List.filter_eq_self.2 fun o ho => decide_eq_true (h o ho)
  have hnone : q.filter (fun o => !decide (o.arrival < j.arrival)) = [] := List.filter_eq_nil_iff.2 fun o ho => by simp [h o ho]
  rw [enqueueJob, List.filter_append, List.filter_append, hall, hnone]
  simp [hk.not_gt]

/-- The job that a resolver instruction hands over. -/
def handedJob (kind : RKind) (tile : Opnd) (h : BitVec 6) (s : State) : RJob :=
  let (x, n) := xArrival s.cycle (xContext s)
  { kind := kind, tile := opIndex s tile, h := h.toNat + 1, aview := x.aview, vview := x.vview, foot := footprint x, seq := .X,
    arrival := n, issuedAt := s.cycle, started := false, row := 0, transform := false, fpc := (curSeq s).pc.setWidth 16,
    parcels := parcelsAt (curSeq s) (curSeq s).pc.toNat }

/-- What a resolver instruction does: it blocks on a full queue of 8, else its job takes its place. -/
def Queues (s : State) (i : Instr) (kind : RKind) (tile : Opnd) (h : BitVec 6) (q : XQ) : Prop :=
  let x := xContext s
  (8 ≤ x.rjobs.length → Completes i s (Blocked .job s)) ∧
  (x.rjobs.length < 8 → Completes i s fun t => XChanged s t (fun y => { y with rjobs := [], arrivals := 0, writing := [], sacc := [] }) q [] ∧
    (curCtx t).arrivals = x.arrivals + 1 ∧ ∃ j : RJob, j ∈ (curCtx t).rjobs ∧ j.kind = kind ∧ j.tile = opIndex s tile ∧ j.h = h.toNat + 1 ∧
      j.aview = x.aview ∧ j.vview = x.vview ∧ j.foot = footprint x ∧ j.seq = .X ∧ j.issuedAt = s.cycle ∧ j.started = false ∧
      ((∀ k, ¬ Late s.cycle x k) → (∀ k ∈ x.rjobs, k.arrival < x.arrivals) →
        j.arrival = x.arrivals ∧ (curCtx t).rjobs = x.rjobs ++ [j] ∧ (curCtx t).sacc = x.sacc) ∧
      ∀ k, Late s.cycle x k → (∀ o ∈ x.rjobs.dropLast, o.arrival < k.arrival) →
        j.arrival = k.arrival ∧ (curCtx t).rjobs = x.rjobs.dropLast ++ [j, { k with arrival := x.arrivals }])

theorem finish_xContext {s : State} (hs : s.cur.2 = .X) (y : Ctx) (len n : Nat) : finish len n (setCurCtx s y) =
    setCurCtx s { y with seqX := issued (fallThrough y.seqX y.seqX.pc.toNat len) n, wdog := 0 } := by
  rw [finish_eq, setCurCtx_setCurCtx, curCtx_setCurCtx, curSeq_setCurCtx]
  simp only [setCurCtx_cur, hs]
  rfl

theorem queues_of_opResolver {s : State} {i : Instr} {kind : RKind} {tile : Opnd} {h : BitVec 6} {q : XQ} (hs : s.cur.2 = .X)
    (hi : exec i s = opResolver kind tile h q s) : Queues s i kind tile h q := by
  unfold Queues
  intro x
  refine ⟨fun hfull => ⟨_, hi.trans (if_pos hfull), rfl⟩, fun hroom => ?_⟩
  obtain ⟨l, a, hframe⟩ := xArrival_frame s.cycle x
  let y : Ctx := { (xArrival s.cycle x).1 with
    rjobs := enqueueJob (xArrival s.cycle x).1.rjobs (handedJob kind tile h s),
    writing := (xArrival s.cycle x).1.writing ++ jobRanges (xArrival s.cycle x).2 (jobBytes (xArrival s.cycle x).1 (handedJob kind tile h s)) }
  have hexec : exec i s = .next (finish 2 (spacing q) (setCurCtx s y)) := hi.trans (if_neg hroom.not_ge)
  have hview : (xArrival s.cycle x).1.aview = x.aview ∧ (xArrival s.cycle x).1.vview = x.vview ∧ footprint (xArrival s.cycle x).1 = footprint x := by
    rw [hframe]
    exact ⟨rfl, rfl, rfl⟩
  refine ⟨_, hexec, ?_⟩
  rw [finish_xContext hs]
  have hy : y = { x with rjobs := y.rjobs, arrivals := x.arrivals + 1, writing := y.writing, sacc := y.sacc } := by
    dsimp only [y]
    rw [hframe]
  refine ⟨⟨onlyContext_setCurCtx s _, ?_, ?_⟩, ?_, handedJob kind tile h s, ?_, rfl, rfl, rfl, hview.1, hview.2.1, hview.2.2, rfl, rfl, rfl, fun hno hlt => ?_,
    fun k hk hlt => ?_⟩
  · rw [curCtx_setCurCtx, hy]
    rfl
  · rw [curCtx_setCurCtx, hy]
    exact seqDone_plain x.seqX 2 _
  · rw [curCtx_setCurCtx, hy]
  · rw [curCtx_setCurCtx]
    exact List.mem_append_right _ (List.mem_cons_self ..)
  · have hplain := xArrival_plain hno
    have harr : (handedJob kind tile h s).arrival = x.arrivals := congrArg Prod.snd hplain
    rw [curCtx_setCurCtx]
    refine ⟨harr, ?_, ?_⟩
    · change enqueueJob (xArrival s.cycle x).1.rjobs _ = _
      rw [hplain]
      exact enqueueJob_last fun o ho => harr.symm ▸ hlt o ho
    · change (xArrival s.cycle x).1.sacc = _
      rw [hplain]
  · obtain ⟨harr, hjobs⟩ := xArrival_late hk
    have harr' : (handedJob kind tile h s).arrival = k.arrival := harr
    obtain ⟨_, _, _, _, hnext⟩ := hk
    rw [curCtx_setCurCtx]
    refine ⟨harr', ?_⟩
    change enqueueJob (xArrival s.cycle x).1.rjobs _ = _
    rw [hjobs]
    refine enqueueJob_before (fun o ho => harr'.symm ▸ hlt o ho) ?_
    rw [harr']
    change k.arrival ≤ x.arrivals
    omega

/-- The overlap of ASCL and AMOV (R204, R206) in the addresses of the tiles. -/
theorem tilesOverlap_iff (s : State) (v a : Opnd) (h : BitVec 6) :
    let x := xContext s
    let t0 (o : Opnd) : Nat := 16 * (x.aview.toNat % 2 ^ 16) + 16 * (x.aview.toNat / 2 ^ 16 % 2 ^ 16) * opIndex s o
    let ext := tileExtent (h.toNat + 1)
    tilesOverlap s v a h = true ↔ t0 v ≠ t0 a ∧ t0 v < t0 a + ext ∧ t0 a < t0 v + ext := by
  intro x t0 ext
  have hv : x.aview = (curCtx s).aview := (congrArg Ctx.aview (landed_landList _ (curCtx s).xres [] (curCtx s)).frame :)
  have haddr (o : Opnd) : viewAddr (curCtx s).aview (opIndex s o) = t0 o := by
    rw [← hv, viewAddr, fieldOf_zero, fieldOf_eq]
  simp [tilesOverlap, tileRange, tileAddr, bytesMeet, haddr, ext]

/-! ## ACMP (R205) -/

theorem signedM_decide (v : Int) : signedM (decide (v < 0)) v.natAbs = v := signedM_natAbs fun _ => rfl

/-- Two signed values with their anchors compare as integers of the lower anchor. -/
theorem cmpVal_anchored (u v : Int) (a b : Int) : cmpVal (.fin (u < 0) u.natAbs a) (.fin (v < 0) v.natAbs b) =
    compare (u * 2 ^ (a - min a b).toNat) (v * 2 ^ (b - min a b).toNat) := by
  simp only [cmpVal, signedM_decide, Nat.cast_pow, Nat.cast_ofNat]

theorem xView_of_settled {x : Ctx} (h : ∀ r ∈ x.xres, r.writes = []) (free : Nat) : xView x free = x := by
  rw [xView, List.flatMap_eq_nil_iff.2 h]
  rfl

/-- An X instruction without queues has issued from a context in which at most an out-of-range access has been noted. -/
theorem xIssued_noted {s : State} {y : Ctx} (hs : s.cur.2 = .X) (hy : OorOnly (xContext s) y) (q : XQ) (r : XResult) (n : Nat) :
    XIssued s (takeFree (finish 2 (spacing q) (setCurCtx s { y with xres := y.xres ++ [r] })) n) [] q [] r := by
  obtain ⟨w, o, rfl⟩ := hy
  rw [finish_xContext hs]
  refine ⟨onlyContext_takeFree s _ n, ?_⟩
  rw [curCtx_takeFree, curCtx_setCurCtx]
  exact ⟨rfl, rfl, rfl, seqDone_plain (xContext s).seqX 2 _⟩

section
variable {s : State} (p : Pred) (raw : Bool) (kd : BitVec 3) (a b : Opnd) (col : BitVec 8) (q : XQ)

/-- The tile that ACMP takes an operand for. -/
def acmpTile (s : State) (o : Opnd) : Tile := { view := (xContext s).aview, foot := footprint (xContext s), index := opIndex s o, h := 64 }

/-- An earlier job that is incomplete writes the tile. -/
def acmpBusy (s : State) (o : Opnd) : Bool := (jobsOf (xContext s)).any fun (_, sets) => sets.writes.any (bytesMeet (tileRange (acmpTile s o)))

theorem acmpBusy_iff (o : Opnd) :
    acmpBusy s o = true ↔ ∃ n sets, (n, sets) ∈ jobsOf (xContext s) ∧ sets.writes.any (bytesMeet (tileRange (acmpTile s o))) = true := by
  simp only [acmpBusy, List.any_eq_true (l := jobsOf (xContext s)), Prod.exists]

/-- ACMP's result. -/
def acmpResult (s : State) : XResult :=
  { due := (curSeq s).clock + (if raw then 2 else 12), writes := [],
    k := some (kd.toNat, readMask (xContext s) q.k.toNat s.freeCtr,
      ofMask fun j => acmpRow (xView (xContext s) s.freeCtr) p raw (acmpTile s a) (acmpTile s b) col.toNat j),
    orFlags := 0, setFlags := none, push := none }

theorem acmp_blocks (h : acmpBusy s a = true ∨ acmpBusy s b = true) : Completes (.acmp p raw kd a b col q) s (Blocked .job s) :=
  ⟨_, if_pos (Bool.or_eq_true_iff.2 h), rfl⟩

theorem acmp_issues (hs : s.cur.2 = .X) (h : ¬ (acmpBusy s a = true ∨ acmpBusy s b = true)) :
    Completes (.acmp p raw kd a b col q) s (fun u => XIssued s u [] q [] (acmpResult p raw kd a b col q s)) := by
  have note (x : Ctx) (t : Tile) (l : List Nat) : OorOnly x
      (l.foldl (fun x j => noteTile s.cycle x t (dataOff j col.toNat) 24 true 0) (noteTile s.cycle x t 0 8 true 0)) :=
    (noteSpan_only ..).trans (oorOnly_foldl (fun _ _ => noteSpan_only ..) l _)
  refine ⟨_, if_neg (mt Bool.or_eq_true_iff.1 h), ?_⟩
  exact xIssued_noted hs ((note _ (acmpTile s a) _).trans (note _ (acmpTile s b) _)) q (acmpResult p raw kd a b col q s) 65536

/-- The rows that ACMP's mask tells, where no result in flight writes the store. -/
theorem acmpRow_spec (hw : ∀ r ∈ (xContext s).xres, r.writes = []) {j : Nat} (hj : j < 64) :
    let x := xContext s
    let t := acmpTile s
    let off := dataOff j col.toNat
    let m := min (tileAnchor x (t a)) (tileAnchor x (t b))
    let v (o : Opnd) : Int := signedV (valueAt x (t o) off) * 2 ^ (tileAnchor x (t o) - m).toNat
    let same : Prop := tileAnchor x (t a) = tileAnchor x (t b) ∧ tileRead x (t a) off 24 = tileRead x (t b) off 24
    let k := ofMask fun j => acmpRow (xView x s.freeCtr) p raw (t a) (t b) col.toNat j
    (raw = false → maskBit k j = predHolds p (some (compare (v a) (v b)))) ∧
    (raw = true → p = .eq → (maskBit k j = true ↔ same)) ∧ (raw = true → p = .ne → (maskBit k j = true ↔ ¬ same)) := by
  intro x t off m v same k
  have hk : maskBit k j = acmpRow x p raw (t a) (t b) col.toNat j := by rw [maskBit_ofMask _ hj, xView_of_settled hw]
  rw [hk, acmpRow]
  refine ⟨?_, ?_, ?_⟩
  · rintro rfl
    rw [if_neg (by decide)]
    exact congrArg (fun o => predHolds p (some o)) (cmpVal_anchored ..)
  · rintro rfl rfl
    simp [same, off, x, t]
  · rintro rfl rfl
    simp [same, off, x, t, ← not_and_or, not_and]

end

/-- R192, R201 to R207: the resolver's instructions, as the statement says them. -/
theorem resolverInstructions_queue {s : State} (hs : s.cur.2 = .X) (d a b : Opnd) (g : Reg) (f : RFmt) (r : Round) (sat : Bool) (h : BitVec 6) (q : XQ) :
    Queues s (.aclr d g h q) (.aclr ((rd s g).setWidth 16)) d h q ∧ Queues s (.aanc d g h q) (.aanc ((rd s g).setWidth 16).toInt) d h q ∧
    Queues s (.rslvCanonical d h q) .canon d h q ∧ Queues s (.rslvToFormat f r sat d a h q) (.toFormat f r sat q.nf (opIndex s d)) a h q ∧
    Queues s (.rslvWireForm d a g h q) (.wire ((rd s g).setWidth 16).toInt q.nf (opIndex s d)) a h q ∧ Queues s (.achk a h q) .achk a h q ∧
    (tilesOverlap s d a h = false → Queues s (.ascl d a b h q) (.ascl (opIndex s a) (opIndex s b)) d h q ∧ Queues s (.amov d a h q) (.amov (opIndex s a)) d h q) ∧
    (tilesOverlap s d a h = true → Completes (.ascl d a b h q) s (FaultsAt s 0x16 0) ∧ Completes (.amov d a h q) s (FaultsAt s 0x16 0)) := by
  have hsext (w : Word) : sextN w.toNat 16 = (w.setWidth 16).toInt := by
    rw [BitVec.toInt_eq_toNat_cond, BitVec.toNat_setWidth, sextN]
    split <;> split <;> omega
  refine ⟨queues_of_opResolver hs rfl, ?_, queues_of_opResolver hs rfl, queues_of_opResolver hs rfl, ?_, queues_of_opResolver hs rfl, fun ho => ?_, fun ho => ?_⟩
  · rw [← hsext]; exact queues_of_opResolver hs rfl
  · rw [← hsext]; exact queues_of_opResolver hs rfl
  · exact ⟨queues_of_opResolver hs (if_neg (by simp [ho])), queues_of_opResolver hs (if_neg (by simp [ho]))⟩
  · obtain ⟨t, ht, hf⟩ := fault_faultsAt causeAlias 0 s
    exact ⟨⟨t, (if_pos ho).trans ht, hf⟩, ⟨t, (if_pos ho).trans ht, hf⟩⟩

end Sys2Proof.Machine

/-! PROOF. The register store through a view (R34, R35): what a read finds after a write, bit by bit. -/

namespace Sys2Proof.Machine

/-- Bit p of the register store, granule after granule. -/
def storeBit (x : Ctx) (p : Nat) : Bool := (storeGranule x (p / 128)).getLsbD (p % 128)

/-- A granule that the operand of an index reaches in range (R34). -/
def viewReaches (view : Word) (foot : BitVec 8) (i g : Nat) : Bool :=
  decide (i < min (fieldOf view 32 11) 1024) && decide (g < 65536) && bitOf foot.toNat (bankOfGranule g)

/-- The first bit of the store that a span takes. -/
def spanBit (view : Word) (i off : Nat) : Nat := 8 * (viewAddr view i + off)

theorem spanBit_add (view : Word) (i off k : Nat) : spanBit view i (off + k) = spanBit view i off + 8 * k := by
  unfold spanBit
  omega

theorem spanBit_of_addr {v v' : Word} {i i' : Nat} (h : viewAddr v i = viewAddr v' i') (off : Nat) : spanBit v i off = spanBit v' i' off := by
  rw [spanBit, h, spanBit]

/-- Granule t of a span. -/
def spanAt (view : Word) (foot : BitVec 8) (i off t : Nat) : Option Nat :=
  let g := spanBit view i off / 128 + t
  if viewReaches view foot i g then some g else none

theorem spanGranules_eq (view : Word) (foot : BitVec 8) (i off n : Nat) :
    spanGranules view foot i off n = (List.range ((off % 16 + n + 15) / 16)).map (spanAt view foot i off) := by
  refine List.map_congr_left fun t _ => ?_
  have ha : fieldOf view 0 16 + fieldOf view 16 16 * i + off / 16 + t = spanBit view i off / 128 + t := by
    rw [spanBit, viewAddr, Nat.mul_assoc]
    generalize fieldOf view 16 16 * i = m
    omega
  unfold spanAt viewReaches
  dsimp only
  rw [ha]
  by_cases h1 : i < min (fieldOf view 32 11) 1024 <;> by_cases h2 : spanBit view i off / 128 + t < 65536 <;>
    cases bitOf foot.toNat (bankOfGranule (spanBit view i off / 128 + t)) <;> simp [h1, h2]

/-! ## Reading -/

theorem packN_testBit {w : Nat} (hw : 0 < w) (f : Nat → Nat) (n b : Nat) : (packN w f n).testBit b = (decide (b < w * n) && (f (b / w)).testBit (b % w)) := by
  by_cases hb : b < w * n
  · have hdigit := packN_digit w f (Nat.div_lt_of_lt_mul hb)
    have hbit := congrArg (Nat.testBit · (b % w)) hdigit
    simp only [Nat.testBit_mod_two_pow, Nat.testBit_shiftRight, Nat.mod_lt b hw, decide_true, Bool.true_and, Nat.div_add_mod] at hbit
    rw [hbit, decide_eq_true hb, Bool.true_and]
  · rw [decide_eq_false hb, Bool.false_and]
    exact Nat.testBit_lt_two_pow ((packN_lt w f n).trans_le (Nat.pow_le_pow_right (by decide) (Nat.not_lt.1 hb)))

/-- A read of n bytes, bit by bit: granules out of range read as zero. -/
theorem readSpan_testBit (x : Ctx) (view : Word) (foot : BitVec 8) (i off n b : Nat) : (readSpan x view foot i off n).testBit b =
    (decide (b < 8 * n) && (viewReaches view foot i ((spanBit view i off + b) / 128) && storeBit x (spanBit view i off + b))) := by
  unfold readSpan
  dsimp only
  rw [Nat.testBit_mod_two_pow, Nat.testBit_shiftRight, packN_testBit (by decide), spanGranules_eq, List.length_map, List.length_range]
  by_cases hb : b < 8 * n
  · have hin : 8 * (off % 16) + b < 128 * ((off % 16 + n + 15) / 16) := by omega
    have hlow : spanBit view i off % 128 = 8 * (off % 16) := by
      rw [spanBit, viewAddr, Nat.mul_assoc]
      omega
    have hg : spanBit view i off / 128 + (8 * (off % 16) + b) / 128 = (spanBit view i off + b) / 128 := by omega
    have hm : (8 * (off % 16) + b) % 128 = (spanBit view i off + b) % 128 := by omega
    have ht : (8 * (off % 16) + b) / 128 < (off % 16 + n + 15) / 16 := by omega
    rw [decide_eq_true hb, decide_eq_true hin, Bool.true_and, Bool.true_and, Bool.true_and, List.getElem?_map, List.getElem?_range ht, Option.map_some, Option.join_some,
      spanAt, hg, hm]
    cases viewReaches view foot i ((spanBit view i off + b) / 128)
    · exact Nat.zero_testBit _
    · exact (Bool.true_and _).symm
  · rw [decide_eq_false hb, Bool.false_and, Bool.false_and]

theorem readSpan_lt (x : Ctx) (view : Word) (foot : BitVec 8) (i off n : Nat) : readSpan x view foot i off n < 2 ^ (8 * n) :=
  Nat.mod_lt _ (Nat.two_pow_pos _)

/-- m bytes from byte k of a span. -/
theorem readSpan_part (x : Ctx) (view : Word) (foot : BitVec 8) (i off : Nat) {n k m : Nat} (h : k + m ≤ n) :
    readSpan x view foot i off n / 2 ^ (8 * k) % 2 ^ (8 * m) = readSpan x view foot i (off + k) m := by
  refine Nat.eq_of_testBit_eq fun b => ?_
  rw [← Nat.shiftRight_eq_div_pow, Nat.testBit_mod_two_pow, Nat.testBit_shiftRight, readSpan_testBit, readSpan_testBit, spanBit_add, Nat.add_assoc]
  by_cases hb : b < 8 * m
  · rw [decide_eq_true hb, decide_eq_true (show 8 * k + b < 8 * n by omega), Bool.true_and]
  · rw [decide_eq_false hb, Bool.false_and, Bool.false_and]

/-! ## Writing -/

/-- A write of a granule that is in range. -/
def putSome (x : Ctx) (m v : Granule) : Option Nat → Ctx
  | some k => putGranule x k m v
  | none => x

/-- The granules of a span that a write has passed, with the mask and the data of each. -/
theorem storeGranule_putRange (F : Nat → Bool) (M D : Nat → Granule) (a n : Nat) (x : Ctx) (g : Nat) :
    storeGranule ((List.range n).foldl (fun x t => putSome x (M t) (D t) (if F (a + t) then some (a + t) else none)) x) g =
    if a ≤ g ∧ g < a + n ∧ F g then (D (g - a) &&& M (g - a)) ||| (storeGranule x g &&& ~~~ M (g - a)) else storeGranule x g := by
  induction n with
  | zero => rw [if_neg (by omega)]; rfl
  | succ n ih =>
    rw [List.range_succ, List.foldl_append, List.foldl_cons, List.foldl_nil]
    generalize (List.range n).foldl _ x = y at ih ⊢
    have hmiss (hne : g ≠ a + n) : storeGranule y g =
        if a ≤ g ∧ g < a + (n + 1) ∧ F g then (D (g - a) &&& M (g - a)) ||| (storeGranule x g &&& ~~~ M (g - a)) else storeGranule x g := by
      rw [ih]
      exact if_congr ⟨fun h => ⟨h.1, by omega, h.2.2⟩, fun h => ⟨h.1, by omega, h.2.2⟩⟩ rfl rfl
    by_cases hF : F (a + n)
    · rw [if_pos hF]
      rw [putSome, storeGranule_putGranule]
      by_cases hg : a + n = g
      · subst hg
        rw [if_pos rfl, if_pos ⟨by omega, by omega, hF⟩, ih, if_neg (by omega), Nat.add_sub_cancel_left]
      · rw [if_neg hg, hmiss (Ne.symm hg)]
    · rw [if_neg hF, putSome]
      by_cases hg : g = a + n
      · subst hg
        rw [ih, if_neg (by omega), if_neg (fun h => hF h.2.2)]
      · rw [hmiss hg]

theorem writeSpan_eq (x : Ctx) (view : Word) (foot : BitVec 8) (i off n v : Nat) :
    let data := (v % 2 ^ (8 * n)) <<< (8 * (off % 16))
    let mask := (2 ^ (8 * n) - 1) <<< (8 * (off % 16))
    writeSpan x view foot i off n v = (List.range ((off % 16 + n + 15) / 16)).foldl (fun x t =>
      putSome x (BitVec.ofNat 128 (mask >>> (128 * t))) (BitVec.ofNat 128 (data >>> (128 * t))) (spanAt view foot i off t)) x := by
  intro data mask
  have hzip : ((List.range ((off % 16 + n + 15) / 16)).map (spanAt view foot i off)).zipIdx =
      (List.range ((off % 16 + n + 15) / 16)).map fun t => (spanAt view foot i off t, t) :=
    List.ext_getElem (by simp) fun k _ _ => by simp
  rw [writeSpan, spanGranules_eq]
  dsimp only
  rw [hzip, List.foldl_map]
  rfl

/-- A write of n bytes, bit by bit: granules out of range keep theirs. -/
theorem storeBit_writeSpan (x : Ctx) (view : Word) (foot : BitVec 8) (i off n v p : Nat) : storeBit (writeSpan x view foot i off n v) p =
    if spanBit view i off ≤ p ∧ p < spanBit view i off + 8 * n ∧ viewReaches view foot i (p / 128) = true then v.testBit (p - spanBit view i off)
    else storeBit x p := by
  have hlow : spanBit view i off % 128 = 8 * (off % 16) := by
    rw [spanBit, viewAddr, Nat.mul_assoc]
    omega
  have hp : p % 128 < 128 := Nat.mod_lt _ (by decide)
  rw [writeSpan_eq, storeBit]
  unfold spanAt
  dsimp only
  rw [storeGranule_putRange]
  by_cases hr : viewReaches view foot i (p / 128) = true
  · by_cases hg : spanBit view i off / 128 ≤ p / 128 ∧ p / 128 < spanBit view i off / 128 + (off % 16 + n + 15) / 16
    · rw [if_pos ⟨hg.1, hg.2, hr⟩]
      have hpos : 128 * (p / 128 - spanBit view i off / 128) + p % 128 = p - spanBit view i off / 128 * 128 := by omega
      have hmask : ((2 ^ (8 * n) - 1) <<< (8 * (off % 16)) >>> (128 * (p / 128 - spanBit view i off / 128))).testBit (p % 128) =
          decide (spanBit view i off ≤ p ∧ p < spanBit view i off + 8 * n) := by
        rw [Nat.testBit_shiftRight, Nat.testBit_shiftLeft, Nat.testBit_two_pow_sub_one, hpos, ← Bool.decide_and]
        exact decide_eq_decide.2 (by omega)
      simp only [BitVec.getLsbD_or, BitVec.getLsbD_and, BitVec.getLsbD_not, BitVec.getLsbD_ofNat, hp, decide_true, Bool.true_and, hmask]
      by_cases hin : spanBit view i off ≤ p ∧ p < spanBit view i off + 8 * n
      · have hsub : p - spanBit view i off / 128 * 128 - 8 * (off % 16) = p - spanBit view i off := by omega
        rw [decide_eq_true hin, if_pos ⟨hin.1, hin.2, hr⟩, Nat.testBit_shiftRight, Nat.testBit_shiftLeft, hpos, hsub, Nat.testBit_mod_two_pow]
        simp only [show p - spanBit view i off < 8 * n by omega, show p - spanBit view i off / 128 * 128 ≥ 8 * (off % 16) by omega, decide_true, Bool.true_and,
          Bool.and_true, Bool.not_true, Bool.and_false, Bool.or_false]
      · rw [decide_eq_false hin, if_neg fun h => hin ⟨h.1, h.2.1⟩]
        simp [storeBit]
    · rw [if_neg fun h => hg ⟨h.1, h.2.1⟩, if_neg (by omega)]
      rfl
  · rw [if_neg fun h => hr h.2.2, if_neg fun h => hr h.2.2]
    rfl

/-- A read apart from a write finds what it found before. -/
theorem readSpan_writeSpan_apart (x : Ctx) {view view' : Word} {foot foot' : BitVec 8} {i i' off off' n n' : Nat} (v : Nat)
    (h : viewAddr view' i' + off' + n' ≤ viewAddr view i + off ∨ viewAddr view i + off + n ≤ viewAddr view' i' + off') :
    readSpan (writeSpan x view foot i off n v) view' foot' i' off' n' = readSpan x view' foot' i' off' n' := by
  refine Nat.eq_of_testBit_eq fun b => ?_
  rw [readSpan_testBit, readSpan_testBit]
  by_cases hb : b < 8 * n'
  · rw [storeBit_writeSpan, if_neg]
    rintro ⟨h1, h2, -⟩
    unfold spanBit at h1 h2
    omega
  · rw [decide_eq_false hb, Bool.false_and, Bool.false_and]

/-- A span in range reads as it was written. -/
theorem readSpan_writeSpan_same (x : Ctx) {view : Word} {foot : BitVec 8} {i off n : Nat} (v : Nat) (h : none ∉ spanGranules view foot i off n) :
    readSpan (writeSpan x view foot i off n v) view foot i off n = v % 2 ^ (8 * n) := by
  refine Nat.eq_of_testBit_eq fun b => ?_
  rw [readSpan_testBit, Nat.testBit_mod_two_pow]
  by_cases hb : b < 8 * n
  · have hlow : spanBit view i off % 128 = 8 * (off % 16) := by
      rw [spanBit, viewAddr, Nat.mul_assoc]
      omega
    have hr : viewReaches view foot i ((spanBit view i off + b) / 128) = true := by
      by_contra hno
      refine h ?_
      rw [spanGranules_eq, List.mem_map]
      refine ⟨(spanBit view i off + b) / 128 - spanBit view i off / 128, List.mem_range.2 (by omega), ?_⟩
      rw [spanAt, show spanBit view i off / 128 + ((spanBit view i off + b) / 128 - spanBit view i off / 128) = (spanBit view i off + b) / 128 by omega]
      exact if_neg hno
    rw [storeBit_writeSpan, if_pos ⟨by omega, by omega, hr⟩, hr, Nat.add_sub_cancel_left, Bool.true_and]
  · rw [decide_eq_false hb, Bool.false_and, Bool.false_and]

end Sys2Proof.Machine

/-! PROOF. A job of the resolver row by row (R192, R195, R196): what the rows of its check pass and of its transform pass leave, and how it ends. -/

namespace Sys2Proof.Machine

/-! ## What a row leaves alone -/

/-- Nothing of a context has changed but the register store and the sticky flags. -/
def StoreOnly (x y : Ctx) : Prop := ∃ st fl, y = { x with store := st, flags := fl }

theorem StoreOnly.refl (x : Ctx) : StoreOnly x x := ⟨x.store, x.flags, rfl⟩

theorem StoreOnly.trans {x y z : Ctx} (h : StoreOnly x y) (k : StoreOnly y z) : StoreOnly x z := by
  obtain ⟨_, _, rfl⟩ := h
  obtain ⟨st, fl, rfl⟩ := k
  exact ⟨st, fl, rfl⟩

theorem StoreOnly.foldl {α : Type} {f : Ctx → α → Ctx} (hf : ∀ x a, StoreOnly x (f x a)) (l : List α) (x : Ctx) : StoreOnly x (l.foldl f x) := by
  induction l generalizing x with
  | nil => exact .refl x
  | cons a l ih => exact (hf x a).trans (ih _)

theorem StoreOnly.ite (p : Prop) [Decidable p] {x y z : Ctx} (h : StoreOnly x y) (k : StoreOnly x z) : StoreOnly x (if p then y else z) := by
  split
  · exact h
  · exact k

theorem storeOnly_tileWrite (x : Ctx) (t : Tile) (off n v : Nat) : StoreOnly x (tileWrite x t off n v) := by
  rw [tileWrite, writeSpan_eq]
  refine .foldl (fun y k => ?_) _ x
  cases spanAt t.view t.foot t.index off k with
  | none => exact .refl y
  | some g => exact ⟨_, y.flags, rfl⟩

theorem storeOnly_writeSpan (x : Ctx) (view : Word) (foot : BitVec 8) (i off n v : Nat) : StoreOnly x (writeSpan x view foot i off n v) :=
  storeOnly_tileWrite x { view := view, foot := foot, index := i, h := 0 } off n v

theorem storeOnly_markTile (x : Ctx) (t : Tile) (a : Option Int) (q : Option Nat) (nv mz : Bool) : StoreOnly x (markTile x t a q nv mz) :=
  storeOnly_tileWrite ..

theorem storeOnly_mapElems (x : Ctx) (t : Tile) (off n : Nat) (f : Nat → Nat) : StoreOnly x (mapElems x t off n f) :=
  .foldl (fun _ _ => storeOnly_tileWrite ..) _ x

theorem storeOnly_sumTile (x : Ctx) (t : Tile) : StoreOnly x (sumTile x t) :=
  ((StoreOnly.foldl (fun _ _ => storeOnly_tileWrite ..) _ x).trans (.foldl (fun _ _ => storeOnly_tileWrite ..) _ _)).trans (storeOnly_tileWrite ..)

theorem storeOnly_canonRow (x : Ctx) (t : Tile) (r : Nat) : StoreOnly x (canonRow x t r) := storeOnly_mapElems ..

theorem storeOnly_canonSums (x : Ctx) (t : Tile) : StoreOnly x (canonSums x t) := (storeOnly_mapElems ..).trans (storeOnly_markTile ..)

theorem storeOnly_addRow (x : Ctx) (t : Tile) (r : Nat) (p : List Nat) : StoreOnly x (addRow x t r p) :=
  ((StoreOnly.foldl (fun _ _ => (storeOnly_tileWrite ..).trans (storeOnly_tileWrite ..)) _ x).trans (storeOnly_tileWrite ..)).trans (storeOnly_tileWrite ..)

theorem storeOnly_resolveRow (x : Ctx) (j : RJob) (d w r : Nat) (nf : Bool) (el : Nat → Nat × Flags) : StoreOnly x (resolveRow x j d w r nf el) := by
  have h := storeOnly_writeSpan x j.vview j.foot d (32 * w * r) (32 * w) (packN w (fun n => (el n).1) 256)
  unfold resolveRow
  dsimp only
  cases nf
  · exact h.trans ⟨_, _, rfl⟩
  · exact h

theorem storeOnly_transformRow (x : Ctx) (j : RJob) (r : Nat) (last : Bool) : StoreOnly x (transformRow x j r last) := by
  unfold transformRow
  dsimp only
  split
  case h_1 => exact .ite _ (((storeOnly_mapElems ..).trans (storeOnly_mapElems ..)).trans (storeOnly_tileWrite ..)) (storeOnly_mapElems ..)
  case h_2 => exact .ite _ (storeOnly_markTile ..) (.ite _ (((storeOnly_mapElems ..).trans (storeOnly_sumTile ..)).trans (storeOnly_markTile ..)) (storeOnly_mapElems ..))
  case h_3 => exact .ite _ ((storeOnly_canonRow ..).trans (storeOnly_canonSums ..)) (storeOnly_canonRow ..)
  case h_4 => exact storeOnly_resolveRow ..
  case h_5 => exact storeOnly_resolveRow ..
  case h_6 =>
    exact (((StoreOnly.ite _ (storeOnly_canonSums ..) (.refl x)).trans (storeOnly_canonRow ..)).trans (storeOnly_addRow ..)).trans (storeOnly_markTile ..)
  case h_7 =>
    have copy (x : Ctx) (a : Tile) (off n : Nat) : StoreOnly x
        ((List.range (n / 16)).foldl (fun x g => tileWrite x (jobTile j) (off + 16 * g) 16 (tileRead x a (off + 16 * g) 16)) x) :=
      .foldl (fun _ _ => storeOnly_tileWrite ..) _ x
    exact .ite _ (((copy ..).trans (copy ..)).trans (copy ..)) (copy ..)
  case h_8 => exact .refl x
  case h_9 => exact .refl x

theorem noteTransform_only (now : Nat) (x : Ctx) (j : RJob) (r : Nat) (last : Bool) : OorOnly x (noteTransform now x j r last) := by
  have ite (p : Prop) [Decidable p] {x y : Ctx} (h : OorOnly x y) : OorOnly x (if p then y else x) := by
    split
    · exact h
    · exact .refl x
  unfold noteTransform
  dsimp only
  split
  · exact (noteRow_only ..).trans (ite _ (noteTile_only ..))
  · exact (noteRow_only ..).trans (ite _ (noteTile_only ..))
  · exact noteSpan_only ..
  · exact noteSpan_only ..
  · exact ((ite _ ((noteSpan_only ..).trans (noteTile_only ..))).trans (noteTile_only ..)).trans (noteTile_only ..)
  all_goals exact .refl x

/-- Nothing of a context has changed but what a row of a job may change: the register store, the flags, RSOOR, the queue's oldest job and the watchdog. -/
def Worked (x y : Ctx) : Prop :=
  ∃ st fl w o l wd wa, y = { x with store := st, flags := fl, rsoor := w, oor := o, rjobs := l, wdog := wd, wdogAt := wa }

theorem Worked.refl (x : Ctx) : Worked x x := ⟨_, _, _, _, _, _, _, rfl⟩

theorem Worked.trans {x y z : Ctx} (h : Worked x y) (k : Worked y z) : Worked x z := by
  obtain ⟨_, _, _, _, _, _, _, rfl⟩ := h
  obtain ⟨_, _, _, _, _, _, _, rfl⟩ := k
  exact ⟨_, _, _, _, _, _, _, rfl⟩

theorem OorOnly.worked {x y : Ctx} (h : OorOnly x y) : Worked x y := by
  obtain ⟨_, _, rfl⟩ := h
  exact ⟨_, _, _, _, _, _, _, rfl⟩

theorem StoreOnly.worked {x y : Ctx} (h : StoreOnly x y) : Worked x y := by
  obtain ⟨_, _, rfl⟩ := h
  exact ⟨_, _, _, _, _, _, _, rfl⟩

theorem worked_next (now : Nat) (x : Ctx) (l : List RJob) : Worked x (petJob now { x with rjobs := l }) := ⟨_, _, _, _, _, _, _, rfl⟩

/-- A row that has written nothing. -/
def Quiet (x y : Ctx) : Prop := Worked x y ∧ y.store = x.store ∧ y.flags = x.flags

theorem Quiet.refl (x : Ctx) : Quiet x x := ⟨.refl x, rfl, rfl⟩

theorem Quiet.trans {x y z : Ctx} (h : Quiet x y) (k : Quiet y z) : Quiet x z :=
  ⟨h.1.trans k.1, k.2.1.trans h.2.1, k.2.2.trans h.2.2⟩

theorem OorOnly.quiet {x y : Ctx} (h : OorOnly x y) : Quiet x y := by
  obtain ⟨_, _, rfl⟩ := h
  exact ⟨⟨_, _, _, _, _, _, _, rfl⟩, rfl, rfl⟩

theorem quiet_next (now : Nat) (x : Ctx) (l : List RJob) : Quiet x (petJob now { x with rjobs := l }) := ⟨worked_next .., rfl, rfl⟩

/-- A predicate that looks at the register store and the flags, not at what the events of a job change besides. -/
def Unnoted (I : Ctx → Prop) : Prop :=
  ∀ (y : Ctx) w o l wd wa wr, I y → I { y with rsoor := w, oor := o, rjobs := l, wdog := wd, wdogAt := wa, writing := wr }

theorem Unnoted.quiet {I : Ctx → Prop} (hI : Unnoted I) {x y : Ctx} (h : Quiet x y) (hx : I x) : I y := by
  obtain ⟨⟨_, _, w, o, l, wd, wa, rfl⟩, hst, hfl⟩ := h
  dsimp only at hst hfl
  subst hst hfl
  exact hI x w o l wd wa x.writing hx

theorem Quiet.readSpan {x y : Ctx} (h : Quiet x y) (v : Word) (f : BitVec 8) (i off n : Nat) : readSpan y v f i off n = readSpan x v f i off n := by
  have hI : Unnoted fun y => Machine.readSpan y v f i off n = Machine.readSpan x v f i off n := fun _ _ _ _ _ _ _ h => h
  exact hI.quiet h rfl

theorem Quiet.tileRead {x y : Ctx} (h : Quiet x y) (t : Tile) (off n : Nat) : tileRead y t off n = tileRead x t off n := h.readSpan ..

theorem Quiet.tileHeader {x y : Ctx} (h : Quiet x y) (t : Tile) : tileHeader y t = tileHeader x t := congrArg (BitVec.ofNat 64) (h.tileRead t 0 8)

theorem Quiet.tileState {x y : Ctx} (h : Quiet x y) (t : Tile) : tileState y t = tileState x t := congrArg (fieldOf · 16 2) (h.tileHeader t)

theorem Quiet.valueAt {x y : Ctx} (h : Quiet x y) (t : Tile) (off : Nat) : valueAt y t off = valueAt x t off := congrArg elemV (h.tileRead t off 24)

theorem Quiet.tileChecks {x y : Ctx} (h : Quiet x y) (t : Tile) : tileChecks y t = tileChecks x t := by
  simp only [Machine.tileChecks, tileValues, h.valueAt]

theorem Quiet.checkedTile {x y : Ctx} (h : Quiet x y) (j : RJob) : checkedTile y j = checkedTile x j := by
  simp only [Machine.checkedTile, h.tileState]

/-! ## Rows one after another -/

theorem rowsRun_append {c n m : Nat} {s u v : State} (h : RowsRun c n s u) (k : RowsRun c m u v) : RowsRun c (n + m) s v := by
  induction n generalizing s with
  | zero =>
    rw [Nat.zero_add]
    exact (h : u = s) ▸ k
  | succ n ih =>
    obtain ⟨w, hw, hrun⟩ := h
    rw [Nat.succ_add]
    exact ⟨w, hw, ih hrun⟩

/-- A core's resolver has taken n rows, which have changed nothing but its context, to y. -/
def Steps (s : State) (c n : Nat) (y : Ctx) : Prop := ∃ u, RowsRun c n s u ∧ (∀ z, setCtx u c z = setCtx s c z) ∧ getCtx u c = y

theorem steps_zero (s : State) (c : Nat) : Steps s c 0 (getCtx s c) := ⟨s, rfl, fun _ => rfl, rfl⟩

/-- The context that a job leaves when it ends. -/
def leftCtx (now : Nat) (j : RJob) (rest : List RJob) (image : Option (List Byte)) (z : Ctx) : Ctx :=
  let y : Ctx := { z with rjobs := rest, writing := z.writing.filter (fun w => w.arrival != j.arrival), wdog := 0, wdogAt := now }
  match j.kind with
  | .sta _ => supplyImage y j.arrival image
  | _ => y

/-- The state that the last row of a job leaves. -/
def endState (s : State) (c : Nat) (j : RJob) (rest : List RJob) (r : RDone) : State :=
  let t := setCtx s c (leftCtx s.cycle j rest r.image r.ctx)
  match r.bad with
  | some a => engineFault t c 4 causeChecksum a j.seq j.fpc j.parcels
  | none => t

section
variable {s : State} {c n : Nat} {j : RJob} {rest : List RJob} {y : Ctx}

theorem execRow_next {u : State} {j' : RJob} (hj : (getCtx u c).rjobs = j :: rest) (hm : (getCtx u c).rHalted = false) (hs : j.started = true)
    (hnext : (jobRow u.cycle (getCtx u c) j).next = some j') : exec (.resolverJobComplete c) u =
      .next (setCtx u c (petJob u.cycle { (jobRow u.cycle (getCtx u c) j).ctx with rjobs := j' :: rest })) := by
  show execResolverJobComplete c u = _
  unfold execResolverJobComplete
  dsimp only
  rw [hj]
  dsimp only
  rw [if_neg (by simp [hs, hm]), hnext]

theorem settleJob_of_unraced {x : Ctx} (h : x.raced = []) (n free : Nat) : settleJob x n free = { x with writing := x.writing.filter (·.arrival != n) } := by
  simp only [settleJob, h, List.zipIdx_nil, List.foldl_nil, List.map_nil, List.filter_nil]

theorem execRow_last {u : State} (hj : (getCtx u c).rjobs = j :: rest) (hm : (getCtx u c).rHalted = false) (hs : j.started = true)
    (hr : (getCtx u c).raced = []) (hkeep : (jobRow u.cycle (getCtx u c) j).ctx.raced = []) (hnext : (jobRow u.cycle (getCtx u c) j).next = none) :
    exec (.resolverJobComplete c) u = .next (endState u c j rest (jobRow u.cycle (getCtx u c) j)) := by
  show execResolverJobComplete c u = _
  unfold execResolverJobComplete
  dsimp only
  rw [hj]
  dsimp only
  rw [if_neg (by simp [hs, hm]), hnext, hr, settleJob_of_unraced (by exact hkeep)]
  generalize (jobRow u.cycle (getCtx u c) j) = r
  unfold endState leftCtx
  cases j.kind <;> rfl

theorem Steps.next {j' : RJob} (h : Steps s c n y) (hj : y.rjobs = j :: rest) (hm : y.rHalted = false) (hs : j.started = true)
    (hnext : (jobRow s.cycle y j).next = some j') : Steps s c (n + 1) (petJob s.cycle { (jobRow s.cycle y j).ctx with rjobs := j' :: rest }) := by
  obtain ⟨u, hrun, hsame, rfl⟩ := h
  have hcycle : (setCtx u c {}).cycle = (setCtx s c {}).cycle := congrArg State.cycle (hsame {})
  change u.cycle = s.cycle at hcycle
  rw [← hcycle] at hnext ⊢
  exact ⟨_, rowsRun_append hrun ⟨_, execRow_next hj hm hs hnext, rfl⟩, fun z => (setCtx_setCtx ..).trans (hsame z), getCtx_setCtx ..⟩

theorem Steps.last (h : Steps s c n y) (hj : y.rjobs = j :: rest) (hm : y.rHalted = false) (hs : j.started = true) (hr : y.raced = [])
    (hkeep : (jobRow s.cycle y j).ctx.raced = []) (hnext : (jobRow s.cycle y j).next = none) :
    RowsRun c (n + 1) s (endState s c j rest (jobRow s.cycle y j)) := by
  obtain ⟨u, hrun, hsame, rfl⟩ := h
  have hcycle : (setCtx u c {}).cycle = (setCtx s c {}).cycle := congrArg State.cycle (hsame {})
  change u.cycle = s.cycle at hcycle
  rw [endState, ← hsame]
  rw [← hcycle] at hnext hkeep ⊢
  exact rowsRun_append hrun ⟨_, execRow_last hj hm hs hr hkeep hnext, rfl⟩

/-- What an engine's fault records, and what it leaves of the context. -/
theorem engineFault_spec (u : State) (c : Nat) (cause : BitVec 8) (a : Nat) (seq : Seq) (fpc : BitVec 16) (parcels : BitVec 64) :
    let v := engineFault u c 4 cause a seq fpc parcels
    (∃ e, getCtx v c = { getCtx u c with engStop := e } ∧
      tfind e 4 = some (seq, { cause := cause, eaddr := BitVec.ofNat 56 a, fpc := fpc, parcels := parcels, imprecise := true })) ∧ v.mem = u.mem := by
  intro v
  have hfind := tfind_tput_same (getCtx u c).engStop 4 (seq, ({ cause := cause, eaddr := BitVec.ofNat 56 a, fpc := fpc, parcels := parcels, imprecise := true } : StopInfo))
  dsimp only [v]
  unfold engineFault
  dsimp only
  split
  next p hp =>
    obtain ⟨hc, hm, -⟩ := setPirq_keeps (raiseHalt (setCtx u c { getCtx u c with engStop := tput (getCtx u c).engStop 4 _ }) p cause c 4 (serialOfCore
      (setCtx u c { getCtx u c with engStop := tput (getCtx u c).engStop 4 _ }) c) false false) p 0
    obtain ⟨hc', hm', -⟩ := raiseHalt_keeps (setCtx u c { getCtx u c with engStop := tput (getCtx u c).engStop 4 _ }) p cause c 4 (serialOfCore
      (setCtx u c { getCtx u c with engStop := tput (getCtx u c).engStop 4 _ }) c) false false
    refine ⟨⟨_, (getCtx_of_cores (hc.trans hc') c).trans (getCtx_setCtx ..), hfind⟩, (hm.trans hm').trans rfl⟩
  · exact ⟨⟨_, getCtx_setCtx .., hfind⟩, rfl⟩

end

end Sys2Proof.Machine

/-! PROOF. The two passes of a job of the resolver (R195, R196): the check pass, its verdict, and the transform pass that goes by an invariant. -/

namespace Sys2Proof.Machine

/-- A context but for what a job's rows and its end change. -/
def hideRow (y : Ctx) : Ctx := { y with rjobs := [], store := [], flags := 0, writing := [], rsoor := 0, oor := {}, wdog := 0, wdogAt := 0, sacc := [] }

/-- The job has left after its rows. -/
def Ended (s : State) (c : Nat) (j : RJob) (rest : List RJob) (P : Ctx → Prop) : Prop :=
  ∃ n u, n ≤ 2 * j.h ∧ RowsRun c n s u ∧ OnlyCtx s c u ∧ (getCtx u c).rjobs = rest ∧ hideRow (getCtx u c) = hideRow (getCtx s c) ∧
    (∀ w ∈ (getCtx u c).writing, w.arrival ≠ j.arrival) ∧ P (getCtx u c)

/-- The job has ended with the checksum fault of a tile (R195). -/
def Failed (s : State) (c : Nat) (j : RJob) (rest : List RJob) (a : Nat) (u : State) : Prop := (getCtx u c).rjobs = rest ∧ MemSame s u ∧
  ∃ i, tfind (getCtx u c).engStop 4 = some (j.seq, i) ∧ i.cause = 0x21 ∧ i.eaddr = BitVec.ofNat 56 a ∧ i.fpc = j.fpc

/-- The oldest job of a core's resolver is about to take its first row. -/
structure Begins (s : State) (c : Nat) (j : RJob) (rest : List RJob) : Prop where
  jobs : (getCtx s c).rjobs = j :: rest
  live : (getCtx s c).rHalted = false
  started : j.started = true
  checking : j.transform = false
  first : j.row = 0
  tall : 0 < j.h
  unraced : (getCtx s c).raced = []

theorem Worked.rHalted {x y : Ctx} (h : Worked x y) : y.rHalted = x.rHalted := by
  obtain ⟨_, _, _, _, _, _, _, rfl⟩ := h
  rfl

theorem Worked.raced {x y : Ctx} (h : Worked x y) : y.raced = x.raced := by
  obtain ⟨_, _, _, _, _, _, _, rfl⟩ := h
  rfl

theorem Worked.sacc {x y : Ctx} (h : Worked x y) : y.sacc = x.sacc := by
  obtain ⟨_, _, _, _, _, _, _, rfl⟩ := h
  rfl

theorem leftCtx_rjobs (now : Nat) (j : RJob) (rest : List RJob) (im : Option (List Byte)) (z : Ctx) : (leftCtx now j rest im z).rjobs = rest := by
  unfold leftCtx supplyImage
  cases j.kind <;> cases im <;> rfl

theorem leftCtx_writing (now : Nat) (j : RJob) (rest : List RJob) (im : Option (List Byte)) (z : Ctx) :
    (leftCtx now j rest im z).writing = z.writing.filter (fun w => w.arrival != j.arrival) := by
  unfold leftCtx supplyImage
  cases j.kind <;> cases im <;> rfl

theorem hideRow_leftCtx (now : Nat) (j : RJob) (rest : List RJob) (im : Option (List Byte)) {x z : Ctx} (h : Worked x z) :
    hideRow (leftCtx now j rest im z) = hideRow x := by
  obtain ⟨_, _, _, _, _, _, _, rfl⟩ := h
  unfold leftCtx supplyImage
  cases j.kind <;> cases im <;> rfl

/-- A job but an STA's leaves the store and the flags as its last row does. -/
theorem Unnoted.leftCtx {I : Ctx → Prop} (hI : Unnoted I) {j : RJob} (hj : ∀ raw, j.kind ≠ .sta raw) (now : Nat) (rest : List RJob) (im : Option (List Byte))
    {z : Ctx} (h : I z) : I (leftCtx now j rest im z) := by
  unfold Machine.leftCtx
  split
  next raw hk => exact absurd hk (hj raw)
  · exact hI z z.rsoor z.oor rest 0 now _ h

theorem onlyCtx_setCtx (s : State) (c : Nat) (y : Ctx) : OnlyCtx s c (setCtx s c y) := ⟨by rw [getCtx_setCtx], memSame_of_mem rfl⟩

/-! ## One row -/

theorem notes_only (now : Nat) (l : List Tile) (x : Ctx) : OorOnly x (l.foldl (fun x t => noteTile now x t 0 8 true 4) x) :=
  oorOnly_foldl (fun _ _ => noteTile_only ..) l x

theorem jobRow_open {x : Ctx} {j : RJob} (now : Nat) (ht : j.transform = false) (hok : j.row = 0 → ∀ u ∈ namedTiles j, tileFaulted x u = false) :
    ∃ z, OorOnly x z ∧ (∀ u, checkedTile x j = some u → jobRow now x j = checkStep now z j u) ∧
      (checkedTile x j = none → jobRow now x j = transformStep now z { j with row := 0, transform := true }) := by
  have hfind : (if j.row = 0 then (namedTiles j).find? (tileFaulted x) else none) = none := by
    split
    next h0 => exact List.find?_eq_none.2 fun u hu => by simp [hok h0 u hu]
    · rfl
  have hnote : OorOnly x (if j.row = 0 then (namedTiles j).foldl (fun x t => noteTile now x t 0 8 true 4) x else x) := by
    split
    · exact notes_only ..
    · exact .refl x
  unfold jobRow
  rw [if_neg (by simp [ht]), hfind]
  refine ⟨_, hnote, fun u hu => ?_, fun hu => ?_⟩
  · simp only [hnote.quiet.checkedTile, hu]
  · simp only [hnote.quiet.checkedTile, hu]

theorem jobRow_faulted {x : Ctx} {j : RJob} (now : Nat) (ht : j.transform = false) (h0 : j.row = 0) (hk : ∀ anchor, j.kind ≠ .aclr anchor)
    (hf : tileFaulted x (jobTile j) = true) : jobRow now x j = { ctx := noteTile now x (jobTile j) 0 8 true 4, bad := some (tileAddr (jobTile j)) } := by
  have hnamed : namedTiles j = jobTile j :: (otherTile j).toList := by
    unfold namedTiles
    split
    next a ha => exact absurd ha (hk a)
    · rfl
  unfold jobRow
  rw [if_neg (by simp [ht]), if_pos h0, hnamed, List.find?_cons_of_pos hf]

/-- The row about to be taken, of the transform pass. -/
def AtRow (now : Nat) (j : RJob) (rest : List RJob) (r : Nat) (y : Ctx) : Prop :=
  ∃ k z, y.rjobs = k :: rest ∧ k.started = true ∧ k.kind = j.kind ∧ k.arrival = j.arrival ∧ OorOnly y z ∧
    jobRow now y k = transformStep now z { j with row := r, transform := true }

/-- The image that the last row of a pass gives. -/
def imageFor (j : RJob) (z : Ctx) : Option (List Byte) := match j.kind with
  | .sta raw => some (imageOf z (jobTile j) raw)
  | _ => none

theorem transformRow_row (x : Ctx) (j : RJob) (r : Nat) (last : Bool) : transformRow x { j with row := r, transform := true } r last = transformRow x j r last := by
  unfold transformRow
  rfl

theorem transformStep_eq (now : Nat) (x : Ctx) (j : RJob) (r R : Nat) (hR : transformRows x j = R) : ∃ z, OorOnly x z ∧
    transformStep now x { j with row := r, transform := true } =
      { ctx := transformRow z j r (decide (R ≤ r + 1)), next := if R ≤ r + 1 then none else some { j with row := r + 1, transform := true },
        image := if R ≤ r + 1 then imageFor j x else none } := by
  have hR' : transformRows x { j with row := r, transform := true } = R := hR
  refine ⟨_, noteTransform_only now x { j with row := r, transform := true } r (decide (R ≤ r + 1)), ?_⟩
  unfold transformStep imageFor
  dsimp only
  rw [hR', transformRow_row]
  by_cases h : R ≤ r + 1
  · rw [decide_eq_true h, if_pos h, if_pos h]
    cases j.kind <;> rfl
  · rw [decide_eq_false h, if_neg h, if_neg h]
    cases j.kind <;> rfl

section
variable {s : State} {c : Nat} {j : RJob} {rest : List RJob}

/-! ## The check pass -/

section
variable (b : Begins s c j rest) (hok : ∀ u ∈ namedTiles j, tileFaulted (getCtx s c) u = false) {u : Tile} (hu : checkedTile (getCtx s c) j = some u)
include b hok hu

omit b hok hu in
theorem row_zero (h : j.row = 0) : { j with row := 0 } = j := by rw [← h]

/-- A row of the check pass: of this height it is another one, or the verdict. -/
theorem checkRow_spec {i : Nat} {y : Ctx} (hy : Quiet (getCtx s c) y) : ∃ z, Quiet (getCtx s c) z ∧ jobRow s.cycle y { j with row := i } =
    if i + 1 < j.h then { ctx := z, next := some { j with row := i + 1 } }
    else if tileChecks (getCtx s c) u then { ctx := z, next := if transforms j then some { j with row := 0, transform := true } else none }
    else { ctx := markTile z u none (some 3) false false, bad := some (tileAddr u) } := by
  have hok' : ({ j with row := i } : RJob).row = 0 → ∀ t ∈ namedTiles { j with row := i }, tileFaulted y t = false := fun _ t ht =>
    (congrArg (· == 3) (hy.tileState t)).trans (hok t ht)
  obtain ⟨z, hz, hrow, -⟩ := jobRow_open s.cycle (j := { j with row := i }) b.checking hok'
  have hu' : checkedTile y { j with row := i } = some u := (hy.checkedTile j).trans hu
  have hn (last : Bool) := hy.trans (hz.trans (noteRow_only s.cycle z u i last true)).quiet
  refine ⟨_, hn (decide (j.h ≤ i + 1)), ?_⟩
  rw [hrow u hu', checkStep]
  dsimp only
  rw [(hn _).tileChecks]
  by_cases hi : i + 1 < j.h
  · rw [if_pos hi, decide_eq_false (by omega)]
    rfl
  · rw [if_neg hi, decide_eq_true (by omega)]
    cases tileChecks (getCtx s c) u
    · rfl
    · rfl

theorem check_rows {i : Nat} (hi : i < j.h) : ∃ y, Steps s c i y ∧ Quiet (getCtx s c) y ∧ y.rjobs = { j with row := i } :: rest := by
  induction i with
  | zero =>
    refine ⟨_, steps_zero s c, .refl _, ?_⟩
    rw [row_zero b.first, b.jobs]
  | succ i ih =>
    obtain ⟨y, hsteps, hy, hjobs⟩ := ih (by omega)
    obtain ⟨z, hz, hrow⟩ := checkRow_spec b hok hu (i := i) hy
    rw [if_pos hi] at hrow
    have hnext := hsteps.next hjobs (hy.1.rHalted.trans b.live) b.started (congrArg RDone.next hrow)
    rw [hrow] at hnext
    exact ⟨_, hnext, hz.trans (quiet_next ..), rfl⟩

/-- The last row of the check pass. -/
theorem check_last : ∃ y z, Steps s c (j.h - 1) y ∧ Quiet (getCtx s c) y ∧ y.rjobs = { j with row := j.h - 1 } :: rest ∧ Quiet (getCtx s c) z ∧
    jobRow s.cycle y { j with row := j.h - 1 } =
      if tileChecks (getCtx s c) u then { ctx := z, next := if transforms j then some { j with row := 0, transform := true } else none }
      else { ctx := markTile z u none (some 3) false false, bad := some (tileAddr u) } := by
  have h := b.tall
  obtain ⟨y, hsteps, hy, hjobs⟩ := check_rows b hok hu (i := j.h - 1) (by omega)
  obtain ⟨z, hz, hrow⟩ := checkRow_spec b hok hu (i := j.h - 1) hy
  rw [if_neg (by omega)] at hrow
  exact ⟨y, z, hsteps, hy, hjobs, hz, hrow⟩

/-- R195: a tile that fails its check ends the job; the tile is FAULTED. -/
theorem check_fails (hc : tileChecks (getCtx s c) u = false) (hk : ∀ raw, j.kind ≠ .sta raw) {P : Ctx → Prop} (hP : Unnoted P)
    (hend : ∀ z, Quiet (getCtx s c) z → P (markTile z u none (some 3) false false)) (he : ∀ y e, P y → P { y with engStop := e }) :
    ∃ v, RowsRun c j.h s v ∧ Failed s c j rest (tileAddr u) v ∧ P (getCtx v c) := by
  obtain ⟨y, z, hsteps, hy, hjobs, hz, hrow⟩ := check_last b hok hu
  rw [hc, if_neg (by decide)] at hrow
  have hmark : Worked (getCtx s c) (markTile z u none (some 3) false false) := hz.1.trans (storeOnly_markTile z u none (some 3) false false).worked
  have hrun := hsteps.last hjobs (hy.1.rHalted.trans b.live) b.started (hy.1.raced.trans b.unraced) (by rw [hrow]; exact hmark.raced.trans b.unraced)
    (congrArg RDone.next hrow)
  rw [Nat.sub_add_cancel b.tall, hrow, endState] at hrun
  refine ⟨_, hrun, ?_⟩
  obtain ⟨⟨e, hctx, hstop⟩, hmem⟩ := engineFault_spec (setCtx s c (leftCtx s.cycle { j with row := j.h - 1 } rest none (markTile z u none (some 3) false false)))
    c causeChecksum (tileAddr u) j.seq j.fpc j.parcels
  unfold Failed
  dsimp only at hctx hstop hmem ⊢
  rw [hctx, getCtx_setCtx]
  refine ⟨⟨leftCtx_rjobs .., memSame_of_mem hmem, _, hstop, rfl, rfl, rfl⟩, he _ _ (hP.leftCtx hk _ _ _ (hend z hz))⟩

/-- R195, R206, R207: a job without a transform pass ends with the check. -/
theorem check_ends (hc : tileChecks (getCtx s c) u = true) (ht : transforms j = false) (hk : ∀ raw, j.kind ≠ .sta raw) {P : Ctx → Prop} (hP : Unnoted P)
    (hx : P (getCtx s c)) : Ended s c j rest P := by
  obtain ⟨y, z, hsteps, hy, hjobs, hz, hrow⟩ := check_last b hok hu
  rw [hc, if_pos rfl, ht, if_neg (by decide)] at hrow
  have hrun := hsteps.last hjobs (hy.1.rHalted.trans b.live) b.started (hy.1.raced.trans b.unraced) (by rw [hrow]; exact hz.1.raced.trans b.unraced) (by rw [hrow])
  rw [Nat.sub_add_cancel b.tall, hrow, endState] at hrun
  refine ⟨j.h, _, by omega, hrun, ?_⟩
  dsimp only
  rw [getCtx_setCtx]
  refine ⟨onlyCtx_setCtx .., leftCtx_rjobs .., hideRow_leftCtx _ _ _ _ hz.1, ?_, hP.leftCtx hk _ _ _ (hP.quiet hz hx)⟩
  rw [leftCtx_writing]
  intro w hw
  simpa using (List.mem_filter.1 hw).2

/-- R195: a job that passes its check goes on to its transform pass. -/
theorem check_passes (hc : tileChecks (getCtx s c) u = true) (ht : transforms j = true) :
    ∃ y, Steps s c j.h y ∧ Quiet (getCtx s c) y ∧ AtRow s.cycle j rest 0 y := by
  obtain ⟨y, z, hsteps, hy, hjobs, hz, hrow⟩ := check_last b hok hu
  rw [hc, if_pos rfl, ht, if_pos rfl] at hrow
  have hnext := hsteps.next hjobs (hy.1.rHalted.trans b.live) b.started (congrArg RDone.next hrow)
  rw [Nat.sub_add_cancel b.tall, hrow] at hnext
  exact ⟨_, hnext, hz.trans (quiet_next ..), _, _, rfl, b.started, rfl, rfl, .refl _, rfl⟩

end

/-- R195, R202: a job that checks no tile begins with its transform pass. -/
theorem direct_passes (b : Begins s c j rest) (hok : ∀ u ∈ namedTiles j, tileFaulted (getCtx s c) u = false) (hu : checkedTile (getCtx s c) j = none) :
    AtRow s.cycle j rest 0 (getCtx s c) := by
  obtain ⟨z, hz, -, hrow⟩ := jobRow_open s.cycle b.checking fun _ => hok
  exact ⟨j, z, b.jobs, b.started, rfl, rfl, hz, hrow hu⟩

/-! ## The transform pass -/

section
variable {n R : Nat} {I : Nat → Ctx → Prop} (b : Begins s c j rest) {y : Ctx} (hsteps : Steps s c n y) (hy : Worked (getCtx s c) y)
  (hat : AtRow s.cycle j rest 0 y) (hI : ∀ r, Unnoted (I r)) (h0 : I 0 y) (hrows : ∀ r z, r < R → I r z → transformRows z j = R)
  (hstep : ∀ r z, r < R → Worked (getCtx s c) z → I r z → I (r + 1) (transformRow z j r (decide (R ≤ r + 1))))
include b hsteps hy hat hI h0 hrows hstep

/-- The rows of the transform pass keep its invariant. -/
theorem pass_rows {r : Nat} (hr : r < R) : ∃ y, Steps s c (n + r) y ∧ Worked (getCtx s c) y ∧ AtRow s.cycle j rest r y ∧ I r y := by
  induction r with
  | zero => exact ⟨y, hsteps, hy, hat, h0⟩
  | succ r ih =>
    obtain ⟨x, hsteps, hx, ⟨k, z, hjobs, hs, hk, ha, hz, hrow⟩, hIx⟩ := ih (by omega)
    have hIz := (hI r).quiet hz.quiet hIx
    obtain ⟨w, hw, hstepq⟩ := transformStep_eq s.cycle z j r R (hrows r z (by omega) hIz)
    rw [hstepq, if_neg (by omega)] at hrow
    have hww : Worked (getCtx s c) w := hx.trans (hz.trans hw).worked
    have hnext := hsteps.next hjobs (hx.rHalted.trans b.live) hs (congrArg RDone.next hrow)
    rw [hrow] at hnext
    refine ⟨_, hnext, (hww.trans (storeOnly_transformRow ..).worked).trans (worked_next ..), ⟨_, _, rfl, b.started, rfl, rfl, .refl _, rfl⟩, ?_⟩
    exact (hI _).quiet (quiet_next ..) (hstep r w (by omega) hww ((hI r).quiet hw.quiet hIz))

/-- The last row of the transform pass: the job has ended. -/
theorem pass_ends (hR : 0 < R) (hn : n + R ≤ 2 * j.h) {P : Ctx → Prop}
    (hP : ∀ z v, Worked (getCtx s c) v → I (R - 1) z → I R v → P (leftCtx s.cycle j rest (imageFor j z) v)) : Ended s c j rest P := by
  obtain ⟨x, hsteps, hx, ⟨k, z, hjobs, hs, hk, ha, hz, hrow⟩, hIx⟩ := pass_rows b hsteps hy hat hI h0 hrows hstep (r := R - 1) (by omega)
  have hIz := (hI _).quiet hz.quiet hIx
  obtain ⟨w, hw, hstepq⟩ := transformStep_eq s.cycle z j (R - 1) R (hrows _ z (by omega) hIz)
  rw [hstepq, if_pos (by omega), if_pos (by omega)] at hrow
  have hww : Worked (getCtx s c) w := hx.trans (hz.trans hw).worked
  have hv := hstep (R - 1) w (by omega) hww ((hI _).quiet hw.quiet hIz)
  have hvw := hww.trans (storeOnly_transformRow w j (R - 1) (decide (R ≤ R - 1 + 1))).worked
  rw [Nat.sub_add_cancel hR] at hv hrow hvw
  have hrun := hsteps.last hjobs (hx.rHalted.trans b.live) hs (hx.raced.trans b.unraced) (by rw [hrow]; exact hvw.raced.trans b.unraced) (by rw [hrow])
  have hleft : leftCtx s.cycle k rest = leftCtx s.cycle j rest := by
    unfold leftCtx
    rw [hk, ha]
  rw [show n + (R - 1) + 1 = n + R by omega, hrow, endState, hleft] at hrun
  refine ⟨n + R, _, hn, hrun, ?_⟩
  dsimp only
  rw [getCtx_setCtx]
  refine ⟨onlyCtx_setCtx .., leftCtx_rjobs .., hideRow_leftCtx _ _ _ _ hvw, ?_, hP _ _ hvw hIz hv⟩
  rw [leftCtx_writing]
  intro w hw
  simpa using (List.mem_filter.1 hw).2

end

end

end Sys2Proof.Machine

/-! PROOF. Tiles (R125 to R130): what writes of elements, marks and sums leave of a tile's elements, of its header and of everything apart from it. -/

namespace Sys2Proof.Machine

/-! ## Fields of a word -/

theorem getLsbD_setField (w : Word) {lo n : Nat} (v i : Nat) (h : lo + n ≤ 64) :
    (setField w lo n v).getLsbD i = if lo ≤ i ∧ i < lo + n then v.testBit (i - lo) else w.getLsbD i := by
  have hmask : ((2 ^ n - 1) <<< lo).testBit i = decide (lo ≤ i ∧ i < lo + n) := by
    rw [Nat.testBit_shiftLeft, Nat.testBit_two_pow_sub_one, ← Bool.decide_and]
    exact decide_eq_decide.2 (by omega)
  unfold setField
  dsimp only
  simp only [BitVec.getLsbD_or, BitVec.getLsbD_and, BitVec.getLsbD_not, BitVec.getLsbD_ofNat, hmask, Nat.testBit_shiftLeft, Nat.testBit_mod_two_pow]
  by_cases hin : lo ≤ i ∧ i < lo + n
  · rw [if_pos hin]
    simp only [hin, show i < 64 by omega, show i - lo < n by omega, and_self, decide_true, Bool.and_self, Bool.not_true, Bool.and_false, Bool.false_or, Bool.true_and]
  · rw [if_neg hin, decide_eq_false hin, Bool.and_false, Bool.not_false]
    by_cases hi : i < 64
    · have hout : (decide (i ≥ lo) && (decide (i - lo < n) && v.testBit (i - lo))) = false := by
        rw [← Bool.and_assoc, ← Bool.decide_and, decide_eq_false (by omega), Bool.false_and]
      rw [hout]
      simp [hi]
    · rw [BitVec.getLsbD_of_ge w i (by omega)]
      simp [hi]

theorem testBit_fieldOf (w : Word) (lo n b : Nat) : (fieldOf w lo n).testBit b = (decide (b < n) && w.getLsbD (lo + b)) := by
  rw [fieldOf, Nat.testBit_mod_two_pow, Nat.testBit_shiftRight]
  rfl

theorem fieldOf_setField_same (w : Word) {lo n : Nat} (v : Nat) (h : lo + n ≤ 64) : fieldOf (setField w lo n v) lo n = v % 2 ^ n := by
  refine Nat.eq_of_testBit_eq fun b => ?_
  rw [testBit_fieldOf, Nat.testBit_mod_two_pow, getLsbD_setField w v _ h]
  by_cases hb : b < n
  · rw [if_pos (by omega), Nat.add_sub_cancel_left]
  · rw [decide_eq_false hb, Bool.false_and, Bool.false_and]

theorem fieldOf_setField_apart (w : Word) {lo n lo' n' : Nat} (v : Nat) (h : lo + n ≤ 64) (hd : lo' + n' ≤ lo ∨ lo + n ≤ lo') :
    fieldOf (setField w lo n v) lo' n' = fieldOf w lo' n' := by
  refine Nat.eq_of_testBit_eq fun b => ?_
  rw [testBit_fieldOf, testBit_fieldOf]
  by_cases hb : b < n'
  · rw [getLsbD_setField w v _ h, if_neg (by omega)]
  · rw [decide_eq_false hb, Bool.false_and, Bool.false_and]

theorem sextN_mod (v n : Nat) : sextN (v % 2 ^ n) n = sextN v n := by simp only [sextN, Nat.mod_mod]

theorem sextN_zextI16 {a : Int} (h : -32768 ≤ a ∧ a ≤ 32767) : sextN (zextI a 16) 16 = a := by
  unfold sextN zextI
  dsimp only
  split <;> omega

/-! ## The header (R128) -/

/-- The header word that markTile writes. -/
def markWord (w : Word) (a : Option Int) (q : Option Nat) (nv mz : Bool) : Word :=
  let w := match a with
    | some a => setField w 0 16 (zextI a 16)
    | none => w
  let w := match q with
    | some q => setField w 16 2 q
    | none => w
  let w := if nv then setField w 18 1 1 else w
  if mz then setField w 19 1 1 else w

theorem markTile_eq (x : Ctx) (t : Tile) (a : Option Int) (q : Option Nat) (nv mz : Bool) :
    markTile x t a q nv mz = tileWrite x t 0 8 (markWord (tileHeader x t) a q nv mz).toNat := by cases a <;> cases q <;> rfl

section
variable (w : Word) (a : Option Int) (q : Option Nat) (nv mz : Bool)

theorem markWord_flags : markWord w a q nv mz =
    let v := markWord w a q false false
    let u := if nv then setField v 18 1 1 else v
    if mz then setField u 19 1 1 else u := rfl

theorem getLsbD_markWord_above {i : Nat} (hi : 18 ≤ i) : (markWord w a q false false).getLsbD i = w.getLsbD i := by
  have ha : (markWord w a none false false).getLsbD i = w.getLsbD i := by
    cases a with
    | none => rfl
    | some e => exact (getLsbD_setField w _ i (by decide)).trans (if_neg (by omega))
  cases q with
  | none => exact ha
  | some v => exact ((getLsbD_setField (markWord w a none false false) v i (by decide)).trans (if_neg (by omega))).trans ha

/-- A bit that a flag raises. -/
theorem getLsbD_raise (u : Word) (f : Bool) {b i : Nat} (hb : b < 64) :
    (if f then setField u b 1 1 else u).getLsbD i = (u.getLsbD i || (f && decide (i = b))) := by
  cases f
  · simp
  · rw [if_pos rfl, getLsbD_setField u 1 i (by omega)]
    by_cases h : i = b
    · subst h
      rw [if_pos (by omega), Nat.sub_self]
      simp
    · rw [if_neg (by omega)]
      simp [h]

theorem getLsbD_markWord_nv : (markWord w a q nv mz).getLsbD 18 = (w.getLsbD 18 || nv) := by
  rw [markWord_flags]
  dsimp only
  rw [getLsbD_raise _ mz (by decide), getLsbD_raise _ nv (by decide), getLsbD_markWord_above w a q (by decide)]
  simp only [decide_true, Bool.and_true, Nat.reduceEqDiff, decide_false, Bool.and_false, Bool.or_false]

theorem getLsbD_markWord_mz : (markWord w a q nv mz).getLsbD 19 = (w.getLsbD 19 || mz) := by
  rw [markWord_flags]
  dsimp only
  rw [getLsbD_raise _ mz (by decide), getLsbD_raise _ nv (by decide), getLsbD_markWord_above w a q (by decide)]
  simp only [decide_true, Bool.and_true, Nat.reduceEqDiff, decide_false, Bool.and_false, Bool.or_false]

/-- What a mark makes of a field below NV. -/
theorem fieldOf_markWord (lo n : Nat) (h : lo + n ≤ 18) : fieldOf (markWord w a q nv mz) lo n = fieldOf (markWord w a q false false) lo n := by
  have hmz (u : Word) : fieldOf (if mz then setField u 19 1 1 else u) lo n = fieldOf u lo n := by
    split
    · exact fieldOf_setField_apart _ _ (by decide) (.inl (by omega))
    · rfl
  have hnv (u : Word) : fieldOf (if nv then setField u 18 1 1 else u) lo n = fieldOf u lo n := by
    split
    · exact fieldOf_setField_apart _ _ (by decide) (.inl (by omega))
    · rfl
  exact (hmz _).trans (hnv _)

theorem state_markWord_some {v : Nat} (hv : v < 4) : fieldOf (markWord w a (some v) nv mz) 16 2 = v := by
  rw [fieldOf_markWord w a _ nv mz 16 2 (by decide)]
  exact (fieldOf_setField_same _ v (by decide)).trans (Nat.mod_eq_of_lt hv)

theorem state_markWord_none : fieldOf (markWord w a none nv mz) 16 2 = fieldOf w 16 2 := by
  rw [fieldOf_markWord w a _ nv mz 16 2 (by decide)]
  cases a with
  | none => rfl
  | some e => exact fieldOf_setField_apart _ _ (by decide) (.inr (by decide))

theorem anchor_markWord_none : fieldOf (markWord w none q nv mz) 0 16 = fieldOf w 0 16 := by
  rw [fieldOf_markWord w none _ nv mz 0 16 (by decide)]
  cases q with
  | none => rfl
  | some e => exact fieldOf_setField_apart _ _ (by decide) (.inl (by decide))

theorem anchor_markWord_some (e : Int) : fieldOf (markWord w (some e) q nv mz) 0 16 = zextI e 16 := by
  rw [fieldOf_markWord w _ _ nv mz 0 16 (by decide)]
  have hset : fieldOf (setField w 0 16 (zextI e 16)) 0 16 = zextI e 16 :=
    (fieldOf_setField_same _ _ (by decide)).trans (Nat.mod_eq_of_lt (zextI_lt e 16))
  cases q with
  | none => exact hset
  | some v => exact (fieldOf_setField_apart _ _ (by decide) (.inl (by decide))).trans hset

end

theorem tileAnchor_eq (x : Ctx) (t : Tile) : tileAnchor x t = sextN (fieldOf (tileHeader x t) 0 16) 16 := (sextN_mod ..).symm

/-! ## Reads and writes of one tile -/

/-- Every granule of a tile is in range. -/
def TileIn (t : Tile) : Prop := ∀ off n, off + n ≤ tileExtent t.h → none ∉ spanGranules t.view t.foot t.index off n

theorem le_tileExtent (h : Nat) : 16 + 24 * (257 * (h + 1)) ≤ tileExtent h := by
  unfold tileExtent
  omega

theorem elem_le_tileExtent {h k : Nat} (hk : k < 257 * (h + 1)) : 16 + 24 * k + 24 ≤ tileExtent h := by
  have := le_tileExtent h
  omega

theorem tileRead_tileWrite_same (x : Ctx) {t : Tile} (hin : TileIn t) {off n : Nat} (v : Nat) (h : off + n ≤ tileExtent t.h) :
    tileRead (tileWrite x t off n v) t off n = v % 2 ^ (8 * n) := readSpan_writeSpan_same x v (hin off n h)

theorem tileRead_tileWrite_apart (x : Ctx) (t : Tile) {off n off' n' : Nat} (v : Nat) (h : off' + n' ≤ off ∨ off + n ≤ off') :
    tileRead (tileWrite x t off n v) t off' n' = tileRead x t off' n' := readSpan_writeSpan_apart x v (by omega)

/-- The 24 bytes of element k of a tile, the checksum elements after the data elements. -/
def rawAt (x : Ctx) (t : Tile) (k : Nat) : Nat := tileRead x t (16 + 24 * k) 24

theorem valueAt_eq (x : Ctx) (t : Tile) (k : Nat) : valueAt x t (16 + 24 * k) = elemV (rawAt x t k) := rfl

theorem elemV_lt (e : Nat) : elemV e < 2 ^ 96 := Nat.mod_lt _ (Nat.two_pow_pos 96)

/-- An element in canonical form is its value. -/
theorem elemV_of_lt {e : Nat} (h : e < 2 ^ 96) : elemV e = e := by
  unfold elemV mod96
  omega

theorem elemV_idem (e : Nat) : elemV (elemV e) = elemV e := elemV_of_lt (elemV_lt e)

section
variable (x : Ctx) {t : Tile}

theorem rawAt_tileWrite (hin : TileIn t) {m : Nat} (k v : Nat) (hm : m < 257 * (t.h + 1)) (hv : v < 2 ^ 192) :
    rawAt (tileWrite x t (16 + 24 * m) 24 v) t k = if k = m then v else rawAt x t k := by
  by_cases h : k = m
  · subst h
    rw [if_pos rfl]
    exact (tileRead_tileWrite_same x hin v (elem_le_tileExtent hm)).trans (Nat.mod_eq_of_lt hv)
  · rw [if_neg h]
    exact tileRead_tileWrite_apart x t v (by omega)

theorem tileHeader_tileWrite {off n : Nat} (v : Nat) (h : 8 ≤ off) : tileHeader (tileWrite x t off n v) t = tileHeader x t :=
  congrArg (BitVec.ofNat 64) (tileRead_tileWrite_apart x t v (.inl h))

theorem rawAt_markTile (a : Option Int) (q : Option Nat) (nv mz : Bool) (k : Nat) : rawAt (markTile x t a q nv mz) t k = rawAt x t k := by
  rw [markTile_eq]
  exact tileRead_tileWrite_apart x t _ (.inr (by omega))

theorem tileHeader_markTile (hin : TileIn t) (a : Option Int) (q : Option Nat) (nv mz : Bool) :
    tileHeader (markTile x t a q nv mz) t = markWord (tileHeader x t) a q nv mz := by
  have hext := le_tileExtent t.h
  rw [markTile_eq, tileHeader, tileRead_tileWrite_same _ hin _ (by omega), Nat.mod_eq_of_lt (BitVec.isLt _), BitVec.ofNat_toNat, BitVec.setWidth_eq]

theorem tileState_markTile (hin : TileIn t) (a : Option Int) {q : Nat} (hq : q < 4) (nv mz : Bool) : tileState (markTile x t a (some q) nv mz) t = q := by
  rw [tileState, tileHeader_markTile x hin, state_markWord_some _ _ _ _ hq]

theorem tileState_markTile_none (hin : TileIn t) (a : Option Int) (nv mz : Bool) : tileState (markTile x t a none nv mz) t = tileState x t := by
  rw [tileState, tileHeader_markTile x hin, state_markWord_none]
  rfl

theorem tileAnchor_markTile (hin : TileIn t) {e : Int} (he : -32768 ≤ e ∧ e ≤ 32767) (q : Option Nat) (nv mz : Bool) :
    tileAnchor (markTile x t (some e) q nv mz) t = e := by
  rw [tileAnchor_eq, tileHeader_markTile x hin, anchor_markWord_some, sextN_zextI16 he]

theorem tileAnchor_markTile_none (hin : TileIn t) (q : Option Nat) (nv mz : Bool) : tileAnchor (markTile x t none q nv mz) t = tileAnchor x t := by
  rw [tileAnchor_eq, tileHeader_markTile x hin, anchor_markWord_none, ← tileAnchor_eq]

/-! ## Elements in a row -/

/-- Elements k to k + n - 1 become what a function makes of their values. -/
theorem mapElems_spec (hin : TileIn t) (f : Nat → Nat) (hf : ∀ v, v < 2 ^ 96 → f v < 2 ^ 192) {k n : Nat} (hk : k + n ≤ 257 * (t.h + 1)) :
    tileHeader (mapElems x t (16 + 24 * k) n f) t = tileHeader x t ∧
    ∀ m, rawAt (mapElems x t (16 + 24 * k) n f) t m = if k ≤ m ∧ m < k + n then f (elemV (rawAt x t m)) else rawAt x t m := by
  unfold mapElems
  induction n with
  | zero => exact ⟨rfl, fun m => (if_neg (by omega)).symm⟩
  | succ n ih =>
    obtain ⟨hh, hr⟩ := ih (by omega)
    rw [List.range_succ, List.foldl_append, List.foldl_cons, List.foldl_nil]
    generalize (List.range n).foldl _ x = y at hh hr
    rw [show 16 + 24 * k + 24 * n = 16 + 24 * (k + n) by omega, valueAt_eq]
    refine ⟨(tileHeader_tileWrite y _ (by omega)).trans hh, fun m => ?_⟩
    rw [rawAt_tileWrite y hin _ _ (by omega) (hf _ (elemV_lt _))]
    by_cases hm : m = k + n
    · subst hm
      rw [if_pos rfl, if_pos (by omega), hr, if_neg (by omega)]
    · rw [if_neg hm, hr]
      exact if_congr (by omega) rfl rfl

/-- The elements that writes one after another leave. -/
theorem writes_spec (hin : TileIn t) (f : Nat → Nat) (hf : ∀ v, f v < 2 ^ 192) {k n : Nat} (hk : k + n ≤ 257 * (t.h + 1)) :
    let y := (List.range n).foldl (fun x i => tileWrite x t (16 + 24 * (k + i)) 24 (f i)) x
    tileHeader y t = tileHeader x t ∧ ∀ m, rawAt y t m = if k ≤ m ∧ m < k + n then f (m - k) else rawAt x t m := by
  induction n with
  | zero => exact ⟨rfl, fun m => (if_neg (by omega)).symm⟩
  | succ n ih =>
    obtain ⟨hh, hr⟩ := ih (by omega)
    rw [List.range_succ, List.foldl_append, List.foldl_cons, List.foldl_nil]
    generalize (List.range n).foldl _ x = y at hh hr
    refine ⟨(tileHeader_tileWrite y _ (by omega)).trans hh, fun m => ?_⟩
    rw [rawAt_tileWrite y hin _ _ (by omega) (hf _)]
    by_cases hm : m = k + n
    · subst hm
      rw [if_pos rfl, if_pos (by omega), Nat.add_sub_cancel_left]
    · rw [if_neg hm, hr]
      exact if_congr (by omega) rfl rfl

end

/-- R130: a row of data elements in canonical form. -/
theorem canonRow_spec (x : Ctx) {t : Tile} (hin : TileIn t) {r : Nat} (hr : r < t.h) : tileHeader (canonRow x t r) t = tileHeader x t ∧
    ∀ m, rawAt (canonRow x t r) t m = if 256 * r ≤ m ∧ m < 256 * r + 256 then elemV (rawAt x t m) else rawAt x t m :=
  mapElems_spec x hin id (fun _ h => h.trans (Nat.pow_lt_pow_right (by decide) (by decide))) (k := 256 * r) (n := 256) (by omega)

/-- R130: the checksum elements in canonical form, and the tile CANON. -/
theorem canonSums_spec (x : Ctx) {t : Tile} (hin : TileIn t) : tileHeader (canonSums x t) t = markWord (tileHeader x t) none (some 2) false false ∧
    ∀ m, rawAt (canonSums x t) t m = if 256 * t.h ≤ m ∧ m < 256 * t.h + (t.h + 257) then elemV (rawAt x t m) else rawAt x t m := by
  obtain ⟨hh, hr⟩ := mapElems_spec x hin id (fun _ h => h.trans (Nat.pow_lt_pow_right (by decide) (by decide))) (k := 256 * t.h) (n := t.h + 257) (by omega)
  refine ⟨(tileHeader_markTile _ hin ..).trans ?_, fun m => (rawAt_markTile ..).trans (hr m)⟩
  exact congrArg (markWord · none (some 2) false false) hh

/-! ## Sums (R129) -/

/-- The tiles' sums are those of their values. -/
theorem sumTo_eq (f : Nat → Nat) (n : Nat) : sumTo f n = ((List.range n).map f).sum := by
  rw [sumTo, List.sum_eq_foldl, List.foldl_map]

theorem sumTo_congr {f g : Nat → Nat} {n : Nat} (h : ∀ i, i < n → f i = g i) : sumTo f n = sumTo g n := by
  rw [sumTo_eq, sumTo_eq, List.map_congr_left fun i hi => h i (List.mem_range.1 hi)]

theorem at2_tileValues (x : Ctx) (t : Tile) {r n : Nat} (hr : r < t.h) (hn : n < 256) : at2 (tileValues x t) r n = valueAt x t (dataOff r n) := by
  simp [at2, tileValues, List.getD, hr, hn]

/-- The sums of the data elements: of a row, of a column, of all. -/
def rowSum (x : Ctx) (t : Tile) (r : Nat) : Nat := sumTo (fun n => elemV (rawAt x t (256 * r + n))) 256 % mod96
def colSum (x : Ctx) (t : Tile) (n : Nat) : Nat := sumTo (fun r => elemV (rawAt x t (256 * r + n))) t.h % mod96
def wholeSum (x : Ctx) (t : Tile) : Nat := sumTo (fun r => sumTo (fun n => elemV (rawAt x t (256 * r + n))) 256) t.h % mod96

theorem sum_row (x : Ctx) (t : Tile) {r : Nat} (hr : r < t.h) : sumTo (at2 (tileValues x t) r) 256 % mod96 = rowSum x t r :=
  congrArg (· % mod96) (sumTo_congr fun _ hn => at2_tileValues x t hr hn)

theorem sum_col (x : Ctx) (t : Tile) {n : Nat} (hn : n < 256) : sumTo (at2 (tileValues x t) · n) t.h % mod96 = colSum x t n :=
  congrArg (· % mod96) (sumTo_congr fun _ hr => at2_tileValues x t hr hn)

theorem sum_whole (x : Ctx) (t : Tile) : sumTo (fun r => sumTo (at2 (tileValues x t) r) 256) t.h % mod96 = wholeSum x t :=
  congrArg (· % mod96) (sumTo_congr fun _ hr => sumTo_congr fun _ hn => at2_tileValues x t hr hn)

/-- The check of R129, in elements. -/
theorem tileChecks_iff (x : Ctx) (t : Tile) : tileChecks x t = true ↔ (∀ r, r < t.h → rowSum x t r = elemV (rawAt x t (256 * t.h + r))) ∧
    (∀ n, n < 256 → colSum x t n = elemV (rawAt x t (257 * t.h + n))) ∧ wholeSum x t = elemV (rawAt x t (257 * t.h + 256)) := by
  simp only [tileChecks, Bool.and_eq_true, List.all_eq_true, List.mem_range, beq_iff_eq, and_assoc]
  refine and_congr (forall₂_congr fun r hr => ?_) (and_congr (forall₂_congr fun n hn => ?_) ?_)
  · rw [sum_row x t hr]; rfl
  · rw [sum_col x t hn]; rfl
  · rw [sum_whole]; rfl

/-- The checksum elements that sumTile writes. -/
theorem rawAt_sumTile (x : Ctx) {t : Tile} (hin : TileIn t) : tileHeader (sumTile x t) t = tileHeader x t ∧ ∀ k, rawAt (sumTile x t) t k =
    if k = 257 * t.h + 256 then wholeSum x t
    else if 257 * t.h ≤ k ∧ k < 257 * t.h + 256 then colSum x t (k - 257 * t.h)
    else if 256 * t.h ≤ k ∧ k < 256 * t.h + t.h then rowSum x t (k - 256 * t.h)
    else rawAt x t k := by
  have hlt (v : Nat) : v % mod96 < 2 ^ 192 := (Nat.mod_lt v (by decide : 0 < mod96)).trans (by decide)
  obtain ⟨hh1, hr1⟩ := writes_spec x hin (fun r => sumTo (at2 (tileValues x t) r) 256 % mod96) (fun v => hlt _) (k := 256 * t.h) (n := t.h) (by omega)
  obtain ⟨hh2, hr2⟩ := writes_spec ((List.range t.h).foldl (fun x' r => tileWrite x' t (rowOff t.h r) 24 (sumTo (at2 (tileValues x t) r) 256 % mod96)) x)
    hin (fun n => sumTo (at2 (tileValues x t) · n) t.h % mod96) (fun v => hlt _) (k := 257 * t.h) (n := 256) (by omega)
  refine ⟨(tileHeader_tileWrite _ _ (by unfold cornerOff; omega)).trans (hh2.trans hh1), fun k => ?_⟩
  refine (rawAt_tileWrite _ hin (m := 257 * t.h + 256) k _ (by omega) (hlt _)).trans ?_
  refine if_congr Iff.rfl (sum_whole x t) ((hr2 k).trans ?_)
  by_cases hc : 257 * t.h ≤ k ∧ k < 257 * t.h + 256
  · rw [if_pos hc, if_pos hc]
    exact sum_col x t (by omega)
  · rw [if_neg hc, if_neg hc]
    refine (hr1 k).trans ?_
    by_cases hr : 256 * t.h ≤ k ∧ k < 256 * t.h + t.h
    · rw [if_pos hr, if_pos hr]
      exact sum_row x t (by omega)
    · rw [if_neg hr, if_neg hr]

/-- R129: the data elements stay, and the checksum elements fit them. -/
theorem sumTile_spec (x : Ctx) {t : Tile} (hin : TileIn t) :
    (∀ k, k < 256 * t.h → rawAt (sumTile x t) t k = rawAt x t k) ∧ tileChecks (sumTile x t) t = true := by
  obtain ⟨-, hraw⟩ := rawAt_sumTile x hin
  have hdata (k : Nat) (hk : k < 256 * t.h) : rawAt (sumTile x t) t k = rawAt x t k := by
    rw [hraw, if_neg (by omega), if_neg (by omega), if_neg (by omega)]
  have hlt (v : Nat) : v % mod96 < 2 ^ 96 := Nat.mod_lt v (by decide : 0 < mod96)
  have hel (r n : Nat) (hr : r < t.h) (hn : n < 256) : elemV (rawAt (sumTile x t) t (256 * r + n)) = elemV (rawAt x t (256 * r + n)) :=
    congrArg elemV (hdata _ (by omega))
  refine ⟨hdata, (tileChecks_iff ..).2 ⟨fun r hr => ?_, fun n hn => ?_, ?_⟩⟩
  · rw [hraw, if_neg (by omega), if_neg (by omega), if_pos (by omega), Nat.add_sub_cancel_left]
    exact (congrArg (· % mod96) (sumTo_congr fun n hn => hel r n hr hn)).trans (elemV_of_lt (hlt _)).symm
  · rw [hraw, if_neg (by omega), if_pos (by omega), Nat.add_sub_cancel_left]
    exact (congrArg (· % mod96) (sumTo_congr fun r hr => hel r n hr hn)).trans (elemV_of_lt (hlt _)).symm
  · rw [hraw, if_pos rfl]
    exact (congrArg (· % mod96) (sumTo_congr fun r hr => sumTo_congr fun n hn => hel r n hr hn)).trans (elemV_of_lt (hlt _)).symm

/-! ## Apart from a tile -/

/-- Only bytes of a tile's extent have changed, as reads find them. -/
def Within (t : Tile) (x y : Ctx) : Prop := ∀ v f i off n, bytesMeet (viewAddr v i + off, n) (tileRange t) = false → readSpan y v f i off n = readSpan x v f i off n

theorem Within.refl (t : Tile) (x : Ctx) : Within t x x := fun _ _ _ _ _ _ => rfl

theorem Within.trans {t : Tile} {x y z : Ctx} (h : Within t x y) (k : Within t y z) : Within t x z := fun v f i off n hd =>
  (k v f i off n hd).trans (h v f i off n hd)

theorem Within.foldl {t : Tile} {α : Type} {f : Ctx → α → Ctx} (l : List α) (hf : ∀ x, ∀ a ∈ l, Within t x (f x a)) (x : Ctx) : Within t x (l.foldl f x) := by
  induction l generalizing x with
  | nil => exact .refl t x
  | cons a l ih => exact (hf x a (List.mem_cons_self ..)).trans (ih (fun y b hb => hf y b (List.mem_cons_of_mem _ hb)) _)

theorem bytesMeet_false {a b : Nat × Nat} : bytesMeet a b = false ↔ b.1 + b.2 ≤ a.1 ∨ a.1 + a.2 ≤ b.1 := by
  rw [bytesMeet, ← Bool.decide_and, decide_eq_false_iff_not]
  omega

section
variable (x : Ctx) {t : Tile}

theorem within_tileWrite {off n : Nat} (v : Nat) (h : off + n ≤ tileExtent t.h) : Within t x (tileWrite x t off n v) := by
  intro w f i off' n' hd
  rw [bytesMeet_false] at hd
  refine readSpan_writeSpan_apart x v ?_
  unfold tileRange tileAddr at hd
  dsimp only at hd
  omega

theorem within_markTile (a : Option Int) (q : Option Nat) (nv mz : Bool) : Within t x (markTile x t a q nv mz) := by
  have := le_tileExtent t.h
  rw [markTile_eq]
  exact within_tileWrite x _ (by omega)

theorem within_mapElems (f : Nat → Nat) {k n : Nat} (hk : k + n ≤ 257 * (t.h + 1)) : Within t x (mapElems x t (16 + 24 * k) n f) := by
  have hext := le_tileExtent t.h
  refine .foldl _ (fun y i hi => within_tileWrite y _ ?_) x
  have := List.mem_range.1 hi
  omega

end

end Sys2Proof.Machine

/-! PROOF. ACLR, AANC, RSLV canonical and ACHK (R201 to R203, R207): what their rows leave of a tile. -/

namespace Sys2Proof.Machine

section
variable {s : State} {c : Nat} {j : RJob} {rest : List RJob} {R : Nat} {I : Nat → Ctx → Prop} {P : Ctx → Prop} (b : Begins s c j rest)
  (hok : ∀ u ∈ namedTiles j, tileFaulted (getCtx s c) u = false) (hk : ∀ raw, j.kind ≠ .sta raw) (hI : ∀ r, Unnoted (I r)) (h0 : I 0 (getCtx s c))
  (hrows : ∀ r z, r < R → I r z → transformRows z j = R) (hR : 0 < R) (hRh : R ≤ j.h)
  (hstep : ∀ r z, r < R → Worked (getCtx s c) z → I r z → I (r + 1) (transformRow z j r (decide (R ≤ r + 1)))) (hP : Unnoted P) (hend : ∀ z, I R z → P z)
include b hok hk hI h0 hrows hR hRh hstep hP hend

/-- A job that checks no tile, by the invariant of its rows. -/
theorem ended_direct (hu : checkedTile (getCtx s c) j = none) : Ended s c j rest P :=
  pass_ends b (steps_zero s c) (.refl _) (direct_passes b hok hu) hI h0 hrows hstep hR (by omega) fun _ v _ _ hv => hP.leftCtx hk _ _ _ (hend v hv)

/-- A job whose check passes, by the invariant of its rows. -/
theorem ended_checked {u : Tile} (hu : checkedTile (getCtx s c) j = some u) (hc : tileChecks (getCtx s c) u = true) (ht : transforms j = true) :
    Ended s c j rest P := by
  obtain ⟨y, hsteps, hy, hat⟩ := check_passes b hok hu hc ht
  exact pass_ends b hsteps hy.1 hat hI ((hI 0).quiet hy h0) hrows hstep hR (by omega) fun _ v _ _ hv => hP.leftCtx hk _ _ _ (hend v hv)

end

section
variable {s : State} {c : Nat} {j : RJob} {rest : List RJob} (b : Begins s c j rest) (hin : TileIn (jobTile j))
include b hin

/-! ## ACLR (R201) -/

/-- A tile after r rows of ACLR. -/
def Cleared (t : Tile) (a r : Nat) (z : Ctx) : Prop :=
  (∀ k, k < 256 * r → rawAt z t k = 0) ∧ (r = t.h → tileRead z t 0 16 = a ∧ ∀ k, k < 257 * (t.h + 1) → rawAt z t k = 0)

omit b hin in
theorem cleared_step {t : Tile} (ht : jobTile j = t) (hin : TileIn t) {a : BitVec 16} (hk : j.kind = .aclr a) {r : Nat} {z : Ctx} (hr : r < t.h)
    (h : Cleared t a.toNat r z) :
    Cleared t a.toNat (r + 1) (transformRow z j r (decide (t.h ≤ r + 1))) := by
  have hzero (v : Nat) (_ : v < 2 ^ 96) : (fun _ => 0 : Nat → Nat) v < 2 ^ 192 := by norm_num
  obtain ⟨-, hrow⟩ := mapElems_spec z hin (fun _ => 0) hzero (k := 256 * r) (n := 256) (by omega)
  obtain ⟨-, hsums⟩ := mapElems_spec (mapElems z t (16 + 24 * (256 * r)) 256 fun _ => 0) hin (fun _ => 0) hzero
    (k := 256 * t.h) (n := t.h + 257) (by omega)
  have hdone (k : Nat) (hkr : k < 256 * (r + 1)) : rawAt (mapElems z t (16 + 24 * (256 * r)) 256 fun _ => 0) t k = 0 := by
    rw [hrow]
    by_cases hin' : 256 * r ≤ k ∧ k < 256 * r + 256
    · rw [if_pos hin']
    · rw [if_neg hin']
      exact h.1 k (by omega)
  rw [transformRow, hk, ht]
  dsimp only
  by_cases hlast : t.h ≤ r + 1
  · rw [decide_eq_true hlast, if_pos rfl]
    have hall (k : Nat) (hkr : k < 257 * (t.h + 1)) : rawAt (tileWrite (mapElems (mapElems z t (16 + 24 * (256 * r)) 256 fun _ => 0) t
        (16 + 24 * (256 * t.h)) (t.h + 257) fun _ => 0) t 0 16 a.toNat) t k = 0 := by
      refine (tileRead_tileWrite_apart _ _ _ (.inr (by omega))).trans ((hsums k).trans ?_)
      by_cases hs : 256 * t.h ≤ k ∧ k < 256 * t.h + (t.h + 257)
      · rw [if_pos hs]
      · rw [if_neg hs]
        exact hdone k (by omega)
    have hext := le_tileExtent t.h
    exact ⟨fun k hkr => hall k (by omega), fun _ =>
      ⟨(tileRead_tileWrite_same _ hin _ (show 0 + 16 ≤ tileExtent t.h by omega)).trans (Nat.mod_eq_of_lt (a.isLt.trans (by norm_num))), hall⟩⟩
  · rw [decide_eq_false hlast, if_neg (by decide)]
    exact ⟨hdone, fun h => absurd (h : r + 1 = t.h) (by omega)⟩

/-- R201: ACLR leaves a tile of zeros with the anchor. -/
theorem aclr_ends {a : BitVec 16} (hk : j.kind = .aclr a) :
    Ended s c j rest fun y => tileRead y (jobTile j) 0 16 = a.toNat ∧ ∀ k, k < 257 * (j.h + 1) → tileRead y (jobTile j) (16 + 24 * k) 24 = 0 := by
  have hnone : checkedTile (getCtx s c) j = none := by rw [checkedTile, hk]
  have hnamed : namedTiles j = [] := by rw [namedTiles, hk]
  have hrows (z : Ctx) : transformRows z j = j.h := by rw [transformRows, hk]
  refine ended_direct b (I := Cleared (jobTile j) a.toNat) (by simp [hnamed]) (by simp [hk]) (fun _ _ _ _ _ _ _ _ h => h)
    ⟨fun k h => absurd h (by omega), fun h => absurd h.symm b.tall.ne'⟩ (fun _ z _ _ => hrows z) b.tall le_rfl (fun r z hr _ h => cleared_step rfl hin hk hr h)
    (fun _ _ _ _ _ _ _ h => h) (fun z h => h.2 rfl) hnone

/-! ## AANC (R202) -/

omit b hin in
theorem tileChecks_of_raw {x y : Ctx} {t : Tile} (h : ∀ k, rawAt y t k = rawAt x t k) : tileChecks y t = tileChecks x t := by
  rw [Bool.eq_iff_iff, tileChecks_iff, tileChecks_iff]
  simp only [rowSum, colSum, wholeSum, h]

omit b hin in
theorem dvd_zextI96 (v : Int) : (2 ^ 96 : Int) ∣ (zextI v 96 : Int) - v := by
  have h : ((2 ^ 96 : Nat) : Int) = 2 ^ 96 := by norm_num
  rw [zextI, h, Int.toNat_of_nonneg (Int.emod_nonneg v (by norm_num))]
  exact Int.dvd_emod_sub_self

/-- R202: AANC of an EMPTY tile sets its anchor. -/
theorem aanc_empty_ends {e a : Int} (hk : j.kind = .aanc e) (ha : clampI (e - 71) (-32768) 32767 = a) (hrange : -32768 ≤ a ∧ a ≤ 32767)
    (hf : tileFaulted (getCtx s c) (jobTile j) = false) (hs : tileState (getCtx s c) (jobTile j) = 0) :
    Ended s c j rest fun y => tileAnchor y (jobTile j) = a ∧ tileState y (jobTile j) = 0 := by
  have hnone : checkedTile (getCtx s c) j = none := by rw [checkedTile, hk]; exact if_pos hs
  have hnamed : namedTiles j = [jobTile j] := by rw [namedTiles, otherTile, hk]; rfl
  have hrows (z : Ctx) (h : tileState z (jobTile j) = 0) : transformRows z j = 1 := by rw [transformRows, hk]; exact if_pos h
  have hrow (z : Ctx) (h : tileState z (jobTile j) = 0) : transformRow z j 0 true = markTile z (jobTile j) (some a) none false false := by
    rw [transformRow, hk]
    exact (if_pos h).trans (by rw [ha])
  refine ended_direct b (R := 1) (I := fun r z => tileState z (jobTile j) = 0 ∧ (r = 1 → tileAnchor z (jobTile j) = a)) (by simpa [hnamed] using hf) (by simp [hk])
    (fun _ _ _ _ _ _ _ _ h => h) ⟨hs, fun h => absurd h (by decide)⟩ (fun _ z _ h => hrows z h.1) (by decide) b.tall (fun r z hr _ h => ?_)
    (fun _ _ _ _ _ _ _ h => h) (fun z h => ⟨h.2 rfl, h.1⟩) hnone
  obtain rfl : r = 0 := by omega
  rw [show decide (1 ≤ 0 + 1) = true from rfl, hrow z h.1]
  exact ⟨(tileState_markTile_none z hin ..).trans h.1, fun _ => tileAnchor_markTile z hin hrange ..⟩

/-- A tile after r rows of AANC to an anchor. -/
def Aligned (x : Ctx) (t : Tile) (a : Int) (r : Nat) (z : Ctx) : Prop :=
  (∀ k, k < 256 * t.h → rawAt z t k = if k < 256 * r then zextI (shiftFloor (signedV (elemV (rawAt x t k))) (a - tileAnchor x t)) 96 else rawAt x t k) ∧
  (r < t.h → tileState z t ≠ 0 ∧ tileAnchor z t = tileAnchor x t) ∧ (r = t.h → tileAnchor z t = a ∧ tileState z t = 2 ∧ tileChecks z t = true)

omit b hin in
theorem aligned_step {x : Ctx} {t : Tile} (ht : jobTile j = t) (hin : TileIn t) {e a : Int} (hk : j.kind = .aanc e) (ha : clampI (e - 71) (-32768) 32767 = a)
    (hrange : -32768 ≤ a ∧ a ≤ 32767) {r : Nat} {z : Ctx} (hr : r < t.h) (h : Aligned x t a r z) :
    Aligned x t a (r + 1) (transformRow z j r (decide (t.h ≤ r + 1))) := by
  obtain ⟨hraw, hopen, -⟩ := h
  obtain ⟨hstate, hanchor⟩ := hopen hr
  let f (u : Nat) : Nat := zextI (shiftFloor (signedV u) (a - tileAnchor z t)) 96
  have hf (u : Nat) (_ : u < 2 ^ 96) : f u < 2 ^ 192 := (zextI_lt _ 96).trans (Nat.pow_lt_pow_right (by decide) (by decide))
  obtain ⟨hhead, hrow⟩ := mapElems_spec z hin f hf (k := 256 * r) (n := 256) (by omega)
  have hdata (k : Nat) (hkt : k < 256 * t.h) : rawAt (mapElems z t (16 + 24 * (256 * r)) 256 f) t k =
      if k < 256 * (r + 1) then zextI (shiftFloor (signedV (elemV (rawAt x t k))) (a - tileAnchor x t)) 96 else rawAt x t k := by
    rw [hrow, hraw k hkt]
    by_cases hlow : k < 256 * r
    · rw [if_neg (by omega), if_pos hlow, if_pos (by omega)]
    · by_cases hthis : k < 256 * (r + 1)
      · rw [if_pos (by omega), if_neg hlow, if_pos hthis]
        dsimp only [f]
        rw [hanchor]
      · rw [if_neg (by omega), if_neg hlow, if_neg hthis]
  have htr (last : Bool) : transformRow z j r last = if last then markTile (sumTile (mapElems z t (16 + 24 * (256 * r)) 256 f) t) t (some a) (some 2) false false
      else mapElems z t (16 + 24 * (256 * r)) 256 f := by
    rw [transformRow, hk, ht]
    dsimp only
    rw [if_neg hstate, ha]
    rfl
  rw [htr]
  by_cases hlast : t.h ≤ r + 1
  · rw [decide_eq_true hlast, if_pos rfl]
    obtain ⟨hsum, hcheck⟩ := sumTile_spec (mapElems z t (16 + 24 * (256 * r)) 256 f) hin
    refine ⟨fun k hkt => (rawAt_markTile ..).trans ((hsum k hkt).trans (hdata k hkt)), fun h => absurd h (by omega), fun _ => ⟨?_, ?_, ?_⟩⟩
    · exact tileAnchor_markTile _ hin hrange ..
    · exact tileState_markTile _ hin _ (by decide) ..
    · exact (tileChecks_of_raw fun k => rawAt_markTile ..).trans hcheck
  · rw [decide_eq_false hlast, if_neg (by decide)]
    refine ⟨hdata, fun _ => ⟨?_, ?_⟩, fun h => absurd h (by omega)⟩
    · rw [tileState, hhead]
      exact hstate
    · rw [tileAnchor, hhead]
      exact hanchor

/-- R202: AANC aligns a tile to a new anchor. -/
theorem aanc_ends {e a : Int} (hk : j.kind = .aanc e) (ha : clampI (e - 71) (-32768) 32767 = a) (hrange : -32768 ≤ a ∧ a ≤ 32767)
    (hf : tileFaulted (getCtx s c) (jobTile j) = false) (hs : tileState (getCtx s c) (jobTile j) ≠ 0) (hc : tileChecks (getCtx s c) (jobTile j) = true) :
    Ended s c j rest fun y => tileAnchor y (jobTile j) = a ∧ tileState y (jobTile j) = 2 ∧ tileChecks y (jobTile j) = true ∧
      ∀ n m, n < j.h → m < 256 → (2 ^ 96 : Int) ∣ (valueAt y (jobTile j) (dataOff n m) : Int) -
        shiftFloor (signedV (valueAt (getCtx s c) (jobTile j) (dataOff n m))) (a - tileAnchor (getCtx s c) (jobTile j)) := by
  have hsome : checkedTile (getCtx s c) j = some (jobTile j) := by rw [checkedTile, hk]; exact if_neg hs
  have hnamed : namedTiles j = [jobTile j] := by rw [namedTiles, otherTile, hk]; rfl
  have htrans : transforms j = true := by rw [transforms, hk]
  have hrows (z : Ctx) (h : tileState z (jobTile j) ≠ 0) : transformRows z j = j.h := by rw [transformRows, hk]; exact if_neg h
  refine ended_checked b (I := Aligned (getCtx s c) (jobTile j) a) (by simpa [hnamed] using hf) (by simp [hk]) (fun _ _ _ _ _ _ _ _ h => h)
    ⟨fun k _ => rfl, fun _ => ⟨hs, rfl⟩, fun h => absurd h.symm b.tall.ne'⟩ (fun r z hr h => hrows z (h.2.1 hr).1) b.tall le_rfl
    (fun r z hr _ h => aligned_step rfl hin hk ha hrange hr h) (fun _ _ _ _ _ _ _ h => h) (fun z h => ?_) hsome hc htrans
  obtain ⟨hraw, -, hend⟩ := h
  obtain ⟨hanchor, hstate, hcheck⟩ := hend rfl
  refine ⟨hanchor, hstate, hcheck, fun n m hn hm => ?_⟩
  have hval : valueAt z (jobTile j) (dataOff n m) =
      zextI (shiftFloor (signedV (valueAt (getCtx s c) (jobTile j) (dataOff n m))) (a - tileAnchor (getCtx s c) (jobTile j))) 96 := by
    have hlt : 256 * n + m < 256 * j.h := by omega
    refine (congrArg elemV ((hraw (256 * n + m) hlt).trans (if_pos hlt))).trans (elemV_of_lt (zextI_lt _ 96))
  rw [hval]
  exact dvd_zextI96 _

/-! ## RSLV canonical (R203) and ACHK (R207) -/

/-- A tile after r rows of RSLV canonical. -/
def Resolved (x : Ctx) (t : Tile) (r : Nat) (z : Ctx) : Prop :=
  tileAnchor z t = tileAnchor x t ∧ (∀ k, elemV (rawAt z t k) = elemV (rawAt x t k)) ∧ (∀ k, k < 256 * r → rawAt z t k = elemV (rawAt x t k)) ∧
  (r = t.h → tileState z t = 2 ∧ ∀ k, k < 257 * (t.h + 1) → rawAt z t k = elemV (rawAt x t k))

omit b hin in
theorem resolved_step {x : Ctx} {t : Tile} (ht : jobTile j = t) (hin : TileIn t) (hk : j.kind = .canon) {r : Nat} {z : Ctx} (hr : r < t.h)
    (h : Resolved x t r z) : Resolved x t (r + 1) (transformRow z j r (decide (t.h ≤ r + 1))) := by
  obtain ⟨hanchor, hvals, hdone, -⟩ := h
  obtain ⟨hhead, hrow⟩ := canonRow_spec z hin hr
  obtain ⟨hhead', hsums⟩ := canonSums_spec (canonRow z t r) hin
  have hvals' (k : Nat) : elemV (rawAt (canonRow z t r) t k) = elemV (rawAt x t k) := by
    rw [hrow, ← hvals]
    split
    · exact elemV_idem _
    · rfl
  have hdone' (k : Nat) (hkr : k < 256 * (r + 1)) : rawAt (canonRow z t r) t k = elemV (rawAt x t k) := by
    rw [hrow]
    by_cases hthis : 256 * r ≤ k ∧ k < 256 * r + 256
    · rw [if_pos hthis, hvals]
    · rw [if_neg hthis, hdone k (by omega)]
  rw [transformRow, hk, ht]
  dsimp only
  by_cases hlast : t.h ≤ r + 1
  · rw [decide_eq_true hlast, if_pos rfl]
    have hall (k : Nat) (hkt : k < 257 * (t.h + 1)) : rawAt (canonSums (canonRow z t r) t) t k = elemV (rawAt x t k) := by
      rw [hsums]
      by_cases hsum : 256 * t.h ≤ k ∧ k < 256 * t.h + (t.h + 257)
      · rw [if_pos hsum, hvals']
      · rw [if_neg hsum, hdone' k (by omega)]
    refine ⟨?_, fun k => ?_, fun k hkr => hall k (by omega), fun _ => ⟨?_, hall⟩⟩
    · rw [tileAnchor_eq, hhead', anchor_markWord_none, hhead, ← tileAnchor_eq]
      exact hanchor
    · rw [hsums]
      split
      · rw [elemV_idem, hvals']
      · exact hvals' k
    · rw [tileState, hhead', state_markWord_some _ _ _ _ (by decide)]
  · rw [decide_eq_false hlast, if_neg (by decide)]
    refine ⟨?_, hvals', hdone', fun h => absurd h (by omega)⟩
    rw [tileAnchor, hhead]
    exact hanchor

/-- R203: RSLV canonical keeps a tile's values. -/
theorem canon_ends (hk : j.kind = .canon) (hf : tileFaulted (getCtx s c) (jobTile j) = false) (hc : tileChecks (getCtx s c) (jobTile j) = true) :
    Ended s c j rest fun y => tileState y (jobTile j) = 2 ∧ tileAnchor y (jobTile j) = tileAnchor (getCtx s c) (jobTile j) ∧
      ∀ k, k < 257 * (j.h + 1) → tileRead y (jobTile j) (16 + 24 * k) 24 = valueAt (getCtx s c) (jobTile j) (16 + 24 * k) := by
  have hsome : checkedTile (getCtx s c) j = some (jobTile j) := by rw [checkedTile, hk]
  have hnamed : namedTiles j = [jobTile j] := by rw [namedTiles, otherTile, hk]; rfl
  have htrans : transforms j = true := by rw [transforms, hk]
  have hrows (z : Ctx) : transformRows z j = j.h := by rw [transformRows, hk]
  refine ended_checked b (I := Resolved (getCtx s c) (jobTile j)) (by simpa [hnamed] using hf) (by simp [hk]) (fun _ _ _ _ _ _ _ _ h => h)
    ⟨rfl, fun _ => rfl, fun k h => absurd h (by omega), fun h => absurd h.symm b.tall.ne'⟩ (fun _ z _ _ => hrows z) b.tall le_rfl
    (fun r z hr _ h => resolved_step rfl hin hk hr h) (fun _ _ _ _ _ _ _ h => h) (fun z h => ?_) hsome hc htrans
  obtain ⟨hanchor, -, -, hend⟩ := h
  exact ⟨(hend rfl).1, hanchor, (hend rfl).2⟩

omit hin in
/-- R207: ACHK of a tile that checks changes no byte. -/
theorem achk_ends (hk : j.kind = .achk) (hf : tileFaulted (getCtx s c) (jobTile j) = false) (hc : tileChecks (getCtx s c) (jobTile j) = true) :
    Ended s c j rest fun y => ∀ n, storeGranule y n = storeGranule (getCtx s c) n := by
  have hsome : checkedTile (getCtx s c) j = some (jobTile j) := by rw [checkedTile, hk]
  have hnamed : namedTiles j = [jobTile j] := by rw [namedTiles, otherTile, hk]; rfl
  exact check_ends b (by simpa [hnamed] using hf) hsome hc (by rw [transforms, hk]) (by simp [hk]) (fun _ _ _ _ _ _ _ h => h) fun _ => rfl

/-- R203, R207: a tile that fails the check of RSLV canonical or ACHK is FAULTED. -/
theorem canon_achk_fails (hk : j.kind = .canon ∨ j.kind = .achk) (hf : tileFaulted (getCtx s c) (jobTile j) = false)
    (hc : tileChecks (getCtx s c) (jobTile j) = false) :
    ∃ u, RowsRun c j.h s u ∧ Failed s c j rest (tileAddr (jobTile j)) u ∧ tileState (getCtx u c) (jobTile j) = 3 := by
  have hsome : checkedTile (getCtx s c) j = some (jobTile j) := by rcases hk with hk | hk <;> rw [checkedTile, hk]
  have hnamed : namedTiles j = [jobTile j] := by rcases hk with hk | hk <;> (rw [namedTiles, otherTile, hk]; rfl)
  have hsta (raw : Bool) : j.kind ≠ .sta raw := by rcases hk with hk | hk <;> simp [hk]
  exact check_fails b (by simpa [hnamed] using hf) hsome hc hsta (P := fun y => tileState y (jobTile j) = 3) (fun _ _ _ _ _ _ _ h => h)
    (fun z _ => tileState_markTile z hin _ (by decide) ..) fun _ _ h => h

end

end Sys2Proof.Machine

/-! PROOF. RSLV to a format and to the wire form, and STA (R130, R131, R203, R209). -/

namespace Sys2Proof.Machine

/-! ## Flags and rows of elements -/

theorem laneFlags_union (a b : LaneFlags) (l : Nat) : laneFlags (a ||| b) l = laneFlags a l ||| laneFlags b l := by
  refine BitVec.eq_of_getLsbD_eq fun i hi => ?_
  simp only [laneFlags, BitVec.getLsbD_or, BitVec.getLsbD_ofNat, BitVec.toNat_or, Nat.shiftRight_or_distrib, Nat.testBit_or, Bool.and_or_distrib_left]

theorem orFlagsN_add (f : Nat → Flags) (m n : Nat) : orFlagsN f (m + n) = orFlagsN f m ||| orFlagsN (fun i => f (m + i)) n := by
  induction n with
  | zero => simp [orFlagsN]
  | succ n ih =>
    have succ (g : Nat → Flags) (k : Nat) : orFlagsN g (k + 1) = orFlagsN g k ||| g k := by
      rw [orFlagsN, List.range_succ, List.foldl_append]
      rfl
    rw [← Nat.add_assoc, succ, ih, succ, BitVec.or_assoc]

theorem packN_congr {w n : Nat} {f g : Nat → Nat} (h : ∀ i, i < n → f i = g i) : packN w f n = packN w g n := by
  induction n with
  | zero => rfl
  | succ n ih => rw [packN, packN, ih fun i hi => h i (by omega), h n (by omega)]

theorem writeSpan_flags (x : Ctx) (view : Word) (foot : BitVec 8) (i off n v : Nat) : (writeSpan x view foot i off n v).flags = x.flags := by
  rw [writeSpan_eq]
  generalize List.range ((off % 16 + n + 15) / 16) = l
  induction l generalizing x with
  | nil => rfl
  | cons t l ih =>
    refine (ih _).trans ?_
    dsimp only
    cases spanAt view foot i off t <;> rfl

/-- What r rows of RSLV have written apart from the tile. -/
def RowsOut (j : RJob) (d w : Nat) (nf : Bool) (el : Nat → Nat → Nat × Flags) (x : Ctx) (r : Nat) (z : Ctx) : Prop :=
  (∀ off n, off + n ≤ tileExtent j.h → tileRead z (jobTile j) off n = tileRead x (jobTile j) off n) ∧
  (∀ n m, n < r → m < 256 → readSpan z j.vview j.foot d (32 * w * n) (32 * w) / 2 ^ (w * m) % 2 ^ w = (el n m).1 % 2 ^ w) ∧
  ∀ l, l < 64 → laneFlags z.flags l = laneFlags x.flags l |||
    if nf then 0 else orFlagsN (fun i => (el ((64 * i + l) / 256) ((64 * i + l) % 256)).2) (4 * r)

section
variable {j : RJob} {d w : Nat} {nf : Bool} {el : Nat → Nat → Nat × Flags} {x : Ctx}

theorem RowsOut.header {r : Nat} {z : Ctx} (h : RowsOut j d w nf el x r z) : tileHeader z (jobTile j) = tileHeader x (jobTile j) :=
  congrArg (BitVec.ofNat 64) (h.1 0 8 (by have := le_tileExtent j.h; omega))

theorem RowsOut.value {r n m : Nat} {z : Ctx} (h : RowsOut j d w nf el x r z) (hn : n < j.h) (hm : m < 256) :
    valueAt z (jobTile j) (dataOff n m) = valueAt x (jobTile j) (dataOff n m) :=
  congrArg elemV (h.1 _ 24 (elem_le_tileExtent (k := 256 * n + m) (by omega)))

theorem rowsOut_zero : RowsOut j d w nf el x 0 x :=
  ⟨fun _ _ _ => rfl, fun _ _ h => absurd h (by omega), fun l _ => by cases nf <;> simp [orFlagsN]⟩

theorem flags_resolveRow (z : Ctx) (r : Nat) (e : Nat → Nat × Flags) {l : Nat} (hl : l < 64) : laneFlags (resolveRow z j d w r nf e).flags l =
    laneFlags z.flags l ||| if nf then 0 else orFlagsN (fun i => (e (64 * i + l)).2) 4 := by
  have hfl := writeSpan_flags z j.vview j.foot d (32 * w * r) (32 * w) (packN w (fun n => (e n).1) 256)
  unfold resolveRow
  dsimp only
  cases nf
  · rw [if_neg (by decide), if_neg (by decide), hfl, laneFlags_union, rowFlags, laneFlags_ofFlags _ hl]
  · rw [if_pos rfl, if_pos rfl, hfl]
    exact BitVec.or_zero.symm

theorem readSpan_resolveRow (z : Ctx) (r : Nat) (e : Nat → Nat × Flags) (v : Word) (f : BitVec 8) (i off n : Nat) : readSpan (resolveRow z j d w r nf e) v f i off n =
    readSpan (writeSpan z j.vview j.foot d (32 * w * r) (32 * w) (packN w (fun n => (e n).1) 256)) v f i off n := by
  unfold resolveRow
  dsimp only
  cases nf <;> rfl

theorem resolveRow_congr (z : Ctx) (r : Nat) {e e' : Nat → Nat × Flags} (h : ∀ n, n < 256 → e n = e' n) : resolveRow z j d w r nf e = resolveRow z j d w r nf e' := by
  have hdata : packN w (fun n => (e n).1) 256 = packN w (fun n => (e' n).1) 256 := packN_congr fun n hn => congrArg Prod.fst (h n hn)
  have hflags : rowFlags (fun n => (e n).2) = rowFlags fun n => (e' n).2 :=
    congrArg (BitVec.ofNat 512) (packN_congr fun l hl => congrArg BitVec.toNat (orFlagsN_congr fun i hi => congrArg Prod.snd (h _ (by omega))))
  rw [resolveRow, resolveRow, hdata, hflags]

/-- Another row written apart from the tile. -/
theorem rowsOut_step {r : Nat} {z : Ctx} (hr : r < j.h) (hw : ∀ off n, off + n ≤ 32 * w * j.h → none ∉ spanGranules j.vview j.foot d off n)
    (hd : bytesMeet (viewAddr j.vview d, 32 * w * j.h) (tileRange (jobTile j)) = false) (h : RowsOut j d w nf el x r z) :
    RowsOut j d w nf el x (r + 1) (resolveRow z j d w r nf (el r)) := by
  obtain ⟨hread, hrows, hflags⟩ := h
  have hin : 32 * w * r + 32 * w ≤ 32 * w * j.h := by
    rw [← Nat.mul_succ]
    exact Nat.mul_le_mul_left _ hr
  refine ⟨fun off n hoff => ?_, fun n m hn hm => ?_, fun l hl => ?_⟩
  · rw [← hread off n hoff]
    refine (readSpan_resolveRow ..).trans (readSpan_writeSpan_apart z _ ?_)
    rw [bytesMeet_false] at hd
    unfold tileRange tileAddr at hd
    dsimp only at hd
    change viewAddr (jobTile j).view (jobTile j).index + tileExtent j.h ≤ _ ∨ _ at hd
    omega
  · rw [readSpan_resolveRow]
    rcases Nat.lt_or_ge n r with hlt | hge
    · have hbelow : 32 * w * n + 32 * w ≤ 32 * w * r := by
        rw [← Nat.mul_succ]
        exact Nat.mul_le_mul_left _ hlt
      rw [readSpan_writeSpan_apart z _ (.inl (by omega))]
      exact hrows n m hlt hm
    · obtain rfl : n = r := by omega
      have hlt := packN_lt w (fun m => (el n m).1) 256
      rw [readSpan_writeSpan_same z _ (hw _ _ hin), show 8 * (32 * w) = w * 256 by omega, Nat.mod_eq_of_lt hlt, ← Nat.shiftRight_eq_div_pow]
      exact packN_digit w _ hm
  · rw [flags_resolveRow z r (el r) hl, hflags l hl, BitVec.or_assoc]
    refine congrArg (laneFlags x.flags l ||| ·) ?_
    cases nf
    · rw [if_neg (by decide), if_neg (by decide), if_neg (by decide), Nat.mul_succ, orFlagsN_add]
      refine congrArg (_ ||| ·) (orFlagsN_congr fun i hi => ?_)
      rw [show (64 * (4 * r + i) + l) / 256 = r by omega, show (64 * (4 * r + i) + l) % 256 = 64 * i + l by omega]
    · exact BitVec.or_zero

end

section
variable {s : State} {c : Nat} {j : RJob} {rest : List RJob} (b : Begins s c j rest) (hf : tileFaulted (getCtx s c) (jobTile j) = false)
  (hc : tileChecks (getCtx s c) (jobTile j) = true)
include b hf hc

/-- R203: a job that writes its elements row by row apart from its tile. -/
theorem rows_out_end {d w : Nat} {nf : Bool} {el : Nat → Nat → Nat × Flags} (hsome : checkedTile (getCtx s c) j = some (jobTile j))
    (hnamed : namedTiles j = [jobTile j]) (htrans : transforms j = true) (hsta : ∀ raw, j.kind ≠ .sta raw) (hrows : ∀ z, transformRows z j = j.h)
    (hw : ∀ off n, off + n ≤ 32 * w * j.h → none ∉ spanGranules j.vview j.foot d off n)
    (hd : bytesMeet (viewAddr j.vview d, 32 * w * j.h) (tileRange (jobTile j)) = false)
    (hrow : ∀ r z last, r < j.h → RowsOut j d w nf el (getCtx s c) r z → transformRow z j r last = resolveRow z j d w r nf (el r)) :
    Ended s c j rest fun y =>
      (∀ n m, n < j.h → m < 256 → readSpan y j.vview j.foot d (32 * w * n) (32 * w) / 2 ^ (w * m) % 2 ^ w = (el n m).1 % 2 ^ w) ∧
      ∀ l, l < 64 → laneFlags y.flags l = laneFlags (getCtx s c).flags l |||
        if nf then 0 else orFlagsN (fun i => (el ((64 * i + l) / 256) ((64 * i + l) % 256)).2) (4 * j.h) :=
  ended_checked b (I := RowsOut j d w nf el (getCtx s c)) (by simpa [hnamed] using hf) hsta (fun _ _ _ _ _ _ _ _ h => h) rowsOut_zero
    (fun _ z _ _ => hrows z) b.tall le_rfl (fun r z hr _ h => by rw [hrow r z _ hr h]; exact rowsOut_step hr hw hd h)
    (fun _ _ _ _ _ _ _ h => h) (fun _ h => h.2) hsome hc htrans

/-- R203: RSLV to a format. -/
theorem toFormat_ends {f : RFmt} {rd : Round} {sat nf : Bool} {d : Nat} (hk : j.kind = .toFormat f rd sat nf d)
    (hw : ∀ off n, off + n ≤ 32 * (rfmtF f).width * j.h → none ∉ spanGranules j.vview j.foot d off n)
    (hd : bytesMeet (viewAddr j.vview d, 32 * (rfmtF f).width * j.h) (tileRange (jobTile j)) = false) :
    let el (n m : Nat) := resolveTo (rfmtF f) rd sat (tileAnchor (getCtx s c) (jobTile j)) (valueAt (getCtx s c) (jobTile j) (dataOff n m))
    Ended s c j rest fun y =>
      (∀ n m, n < j.h → m < 256 →
        readSpan y j.vview j.foot d (32 * (rfmtF f).width * n) (32 * (rfmtF f).width) / 2 ^ ((rfmtF f).width * m) % 2 ^ (rfmtF f).width =
          (el n m).1 % 2 ^ (rfmtF f).width) ∧
      ∀ l, l < 64 → laneFlags y.flags l = laneFlags (getCtx s c).flags l |||
        if nf then 0 else orFlagsN (fun i => (el ((64 * i + l) / 256) ((64 * i + l) % 256)).2) (4 * j.h) := by
  intro el
  refine rows_out_end b hf hc (by rw [checkedTile, hk]) (by rw [namedTiles, otherTile, hk]; rfl) (by rw [transforms, hk]) (by simp [hk])
    (fun z => by rw [transformRows, hk]) hw hd fun r z last hr h => ?_
  rw [transformRow, hk]
  refine resolveRow_congr z r fun n hn => ?_
  rw [tileAnchor, h.header, h.value hr hn]
  rfl

omit b hf hc in
/-- The leaf integer of R131 with its flags. -/
theorem leafInteger_eq (xe a : Int) (v : Nat) :
    let whole := roundToInt .rne (signedV v < 0) (signedV v).natAbs (a - xe)
    let leaf : Int := max (-8388608) (min 8388607 whole.1)
    leafInteger xe a v = (leaf, (if leaf = whole.1 then 0 else flagSAT) ||| if whole.2 then flagNX else 0) := by
  intro whole leaf
  have hleaf : clampI whole.1 (-8388608) 8388607 = leaf := clampI_eq (by decide)
  have hflag : flagIf (leaf != whole.1) flagSAT = if leaf = whole.1 then 0 else flagSAT := by
    by_cases h : leaf = whole.1
    · rw [if_pos h, h]
      simp [flagIf]
    · rw [if_neg h, flagIf, if_pos (by simpa using h)]
  exact Prod.ext hleaf (congrArg₂ (· ||| ·) ((congrArg (fun v => flagIf (v != whole.1) flagSAT) hleaf).trans hflag) rfl)

/-- R131, R203: RSLV to the wire form. -/
theorem wire_ends {xe : Int} {nf : Bool} {d : Nat} (hk : j.kind = .wire xe nf d)
    (hw : ∀ off n, off + n ≤ 1024 * j.h → none ∉ spanGranules j.vview j.foot d off n)
    (hd : bytesMeet (viewAddr j.vview d, 1024 * j.h) (tileRange (jobTile j)) = false) :
    let leaf (n m : Nat) := leafInteger xe (tileAnchor (getCtx s c) (jobTile j)) (valueAt (getCtx s c) (jobTile j) (dataOff n m))
    Ended s c j rest fun y =>
      (∀ n m, n < j.h → m < 256 → (readSpan y j.vview j.foot d (1024 * n) 1024 / 2 ^ (32 * m) % 2 ^ 32 : Nat) = ((leaf n m).1 % 2 ^ 32 : Int)) ∧
      ∀ l, l < 64 → laneFlags y.flags l = laneFlags (getCtx s c).flags l |||
        if nf then 0 else orFlagsN (fun i => (leaf ((64 * i + l) / 256) ((64 * i + l) % 256)).2) (4 * j.h) := by
  intro leaf
  have h := rows_out_end b hf hc (d := d) (w := 32) (nf := nf) (el := fun n m => (zextI (leaf n m).1 32, (leaf n m).2)) (by rw [checkedTile, hk])
    (by rw [namedTiles, otherTile, hk]; rfl) (by rw [transforms, hk]) (by simp [hk]) (fun z => by rw [transformRows, hk]) hw hd fun r z last hr h => by
      rw [transformRow, hk]
      refine resolveRow_congr z r fun n hn => ?_
      dsimp only
      rw [tileAnchor, h.header, h.value hr hn]
      rfl
  obtain ⟨n, u, hn, hrun, honly, hjobs, hhide, hwr, hread, hflags⟩ := h
  refine ⟨n, u, hn, hrun, honly, hjobs, hhide, hwr, fun n m hn hm => ?_, hflags⟩
  have hel := hread n m hn hm
  rw [Nat.mod_eq_of_lt (zextI_lt _ 32)] at hel
  refine (congrArg Nat.cast hel).trans ?_
  exact Int.toNat_of_nonneg (Int.emod_nonneg _ (by norm_num))

end

/-! ## STA (R209) -/

/-- Pieces of one length, one after another. -/
theorem flatMap_pieces {α : Type} (f : Nat → Nat → α) (N : Nat) {k : Nat} (hk : 0 < k) :
    (List.range N).flatMap (fun g => (List.range k).map (f g)) = (List.range (N * k)).map fun i => f (i / k) (i % k) := by
  induction N with
  | zero => simp
  | succ N ih =>
    rw [List.range_succ, List.flatMap_append, ih, Nat.succ_mul, List.range_add, List.map_append, List.map_map, List.flatMap_singleton]
    refine congrArg (_ ++ ·) (List.map_congr_left fun i hi => ?_)
    have hik := List.mem_range.1 hi
    simp [Nat.mul_comm N k, Nat.mul_add_div hk, Nat.div_eq_of_lt hik, Nat.mod_eq_of_lt hik]

theorem getD_map_range {α : Type} (f : Nat → α) {n i : Nat} (h : i < n) (d : α) : ((List.range n).map f).getD i d = f i := by
  simp [List.getD, h]

theorem byte_toNat (n i : Nat) : (BitVec.ofNat 8 (n >>> (8 * i)) : Byte).toNat = n / 2 ^ (8 * i) % 2 ^ 8 := by
  rw [BitVec.toNat_ofNat, Nat.shiftRight_eq_div_pow]

/-- R209: a tile's extent as it stands. -/
theorem imageOf_raw (x : Ctx) (t : Tile) : (imageOf x t true).length = tileExtent t.h ∧
    ∀ i, i < tileExtent t.h → ((imageOf x t true).getD i 0).toNat = tileRead x t i 1 := by
  have hext : tileExtent t.h / 16 * 16 = tileExtent t.h := by
    unfold tileExtent
    omega
  have him : imageOf x t true = (List.range (tileExtent t.h)).map fun i => BitVec.ofNat 8 (tileRead x t (16 * (i / 16)) 16 >>> (8 * (i % 16))) := by
    rw [← hext]
    exact flatMap_pieces (fun g i => BitVec.ofNat 8 (tileRead x t (16 * g) 16 >>> (8 * i))) _ (by decide)
  rw [him]
  refine ⟨by simp, fun i hi => ?_⟩
  rw [getD_map_range _ hi, byte_toNat]
  refine (readSpan_part x t.view t.foot t.index (16 * (i / 16)) (m := 1) (by omega : i % 16 + 1 ≤ 16)).trans ?_
  rw [Nat.div_add_mod]
  rfl

/-- R209: the canonical image of a tile. -/
theorem imageOf_canonical (x : Ctx) (t : Tile) : (imageOf x t false).length = 16 + 12 * (257 * (t.h + 1)) ∧
    ∀ k i, k < 257 * (t.h + 1) → i < 12 → ((imageOf x t false).getD (16 + 12 * k + i) 0).toNat = valueAt x t (16 + 24 * k) / 2 ^ (8 * i) % 2 ^ 8 := by
  obtain ⟨head, hhead, him⟩ : ∃ head : List Byte, head.length = 16 ∧ imageOf x t false = head ++ (List.range (257 * (t.h + 1) * 12)).map
      fun i => BitVec.ofNat 8 (valueAt x t (16 + 24 * (i / 12)) >>> (8 * (i % 12))) :=
    ⟨_, by simp, congrArg (_ ++ ·) (flatMap_pieces (fun k i => BitVec.ofNat 8 (valueAt x t (16 + 24 * k) >>> (8 * i))) _ (by decide))⟩
  rw [him]
  refine ⟨by simp [hhead, Nat.mul_comm], fun k i hk hi => ?_⟩
  rw [List.getD_append_right _ _ _ _ (by omega), hhead, show 16 + 12 * k + i - 16 = 12 * k + i by omega, getD_map_range _ (by omega), byte_toNat,
    Nat.mul_add_div (by decide), Nat.div_eq_of_lt hi, Nat.mul_add_mod, Nat.mod_eq_of_lt hi]
  rfl

theorem imageOf_congr {x y : Ctx} {t : Tile} (h : ∀ off n, tileRead y t off n = tileRead x t off n) (raw : Bool) : imageOf y t raw = imageOf x t raw := by
  simp only [imageOf, valueAt, tileHeader, h]

/-- The store of the STA that a job works for. -/
def awaits (n : Nat) (a : SAccess) : Bool := match a.act with
  | .image k => k == n
  | _ => false

theorem awaits_iff {n : Nat} {a : SAccess} : awaits n a = true ↔ a.act = .image n := by
  unfold awaits
  cases a.act <;> simp

theorem sacc_supplyImage_eq (x : Ctx) (n : Nat) (bytes : List Byte) :
    (supplyImage x n (some bytes)).sacc = x.sacc.map fun a => if awaits n a then { a with act := .store bytes [] } else a := rfl

/-- The store of an STA has its bytes. -/
theorem sacc_supplyImage {x : Ctx} {n : Nat} {l m : List SAccess} {a : SAccess} (hx : x.sacc = l ++ a :: m) (ha : a.act = .image n)
    (hb : ∀ b ∈ l ++ m, b.act ≠ .image n) (bytes : List Byte) : (supplyImage x n (some bytes)).sacc = l ++ { a with act := .store bytes [] } :: m := by
  have hkeep (k : List SAccess) (hk : ∀ b ∈ k, b.act ≠ .image n) : (k.map fun b => if awaits n b then { b with act := .store bytes [] } else b) = k :=
    (List.map_congr_left fun b hbk => if_neg (mt awaits_iff.1 (hk b hbk))).trans (List.map_id' k)
  rw [sacc_supplyImage_eq, hx, List.map_append, List.map_cons, hkeep l fun b h => hb b (List.mem_append_left _ h),
    hkeep m fun b h => hb b (List.mem_append_right _ h), if_pos (awaits_iff.2 ha)]

/-- R209: STA gives its store the tile's image. -/
theorem sta_ends {s : State} {c : Nat} {j : RJob} {rest : List RJob} (b : Begins s c j rest) (hf : tileFaulted (getCtx s c) (jobTile j) = false)
    (hc : tileChecks (getCtx s c) (jobTile j) = true) {raw : Bool} (hk : j.kind = .sta raw) {l m : List SAccess} {a : SAccess}
    (hx : (getCtx s c).sacc = l ++ a :: m) (ha : a.act = .image j.arrival) (hb : ∀ b ∈ l ++ m, b.act ≠ .image j.arrival) :
    Ended s c j rest fun y => ∃ bytes, y.sacc = l ++ { a with act := .store bytes [] } :: m ∧
      (raw = true → bytes.length = tileExtent j.h ∧ ∀ i, i < tileExtent j.h → (bytes.getD i 0).toNat = tileRead (getCtx s c) (jobTile j) i 1) ∧
      (raw = false → bytes.length = 16 + 12 * (257 * (j.h + 1)) ∧ ∀ k i, k < 257 * (j.h + 1) → i < 12 →
        (bytes.getD (16 + 12 * k + i) 0).toNat = valueAt (getCtx s c) (jobTile j) (16 + 24 * k) / 2 ^ (8 * i) % 2 ^ 8) := by
  have hsome : checkedTile (getCtx s c) j = some (jobTile j) := by rw [checkedTile, hk]
  have hnamed : namedTiles j = [jobTile j] := by rw [namedTiles, otherTile, hk]; rfl
  obtain ⟨y, hsteps, hy, hat⟩ := check_passes b (by simpa [hnamed] using hf) hsome hc (by rw [transforms, hk])
  refine pass_ends b hsteps hy.1 hat (R := j.h) (I := fun _ z => ∀ off n, tileRead z (jobTile j) off n = tileRead (getCtx s c) (jobTile j) off n)
    (fun _ _ _ _ _ _ _ _ h => h) (fun _ _ => hy.tileRead ..) (fun _ z _ _ => by rw [transformRows, hk])
    (fun r z _ _ h => by rw [transformRow, hk]; exact h) b.tall (by omega) fun z v hv hz _ => ?_
  rw [leftCtx, imageFor, hk]
  dsimp only
  rw [imageOf_congr hz raw]
  refine ⟨_, sacc_supplyImage (hv.sacc.trans hx) ha hb _, fun hraw => ?_, fun hraw => ?_⟩
  · rw [hraw]
    exact imageOf_raw (getCtx s c) (jobTile j)
  · rw [hraw]
    exact imageOf_canonical (getCtx s c) (jobTile j)

end Sys2Proof.Machine

/-! PROOF. Jobs of two tiles: a tile at the address of another one and a tile apart from it, and AMOV (R206). -/

namespace Sys2Proof.Machine

/-! ## Two tiles -/

/-- Two names of one tile. -/
def Alike (a t : Tile) : Prop := (∀ x off n, tileRead x a off n = tileRead x t off n) ∧ ∀ x off n v, tileWrite x a off n v = tileWrite x t off n v

theorem TileIn.reaches {t : Tile} (h : TileIn t) : t.index < min (fieldOf t.view 32 11) 1024 := by
  by_contra hno
  refine h 0 16 (by have := le_tileExtent t.h; omega) ?_
  rw [spanGranules_eq, List.mem_map]
  refine ⟨0, by simp, ?_⟩
  rw [spanAt, viewReaches, decide_eq_false hno]
  rfl

/-- R204, R206: tiles of one view at one address are one tile. -/
theorem alike_of_addr {a t : Tile} (ha : TileIn a) (ht : TileIn t) (hv : a.view = t.view) (hf : a.foot = t.foot) (h : tileAddr a = tileAddr t) : Alike a t := by
  have haddr : viewAddr t.view a.index = viewAddr t.view t.index := by
    have h' : viewAddr a.view a.index = viewAddr t.view t.index := h
    rwa [hv] at h'
  have hreach (g : Nat) : viewReaches t.view t.foot a.index g = viewReaches t.view t.foot t.index g := by
    have hai : a.index < min (fieldOf t.view 32 11) 1024 := hv ▸ ha.reaches
    rw [viewReaches, viewReaches, decide_eq_true hai, decide_eq_true ht.reaches]
  have hspan (off n : Nat) : spanGranules t.view t.foot a.index off n = spanGranules t.view t.foot t.index off n := by
    rw [spanGranules_eq, spanGranules_eq]
    refine List.map_congr_left fun k _ => ?_
    unfold spanAt
    rw [spanBit_of_addr haddr]
    dsimp only
    rw [hreach]
  refine ⟨fun x off n => ?_, fun x off n v => ?_⟩
  · rw [tileRead, tileRead, hv, hf, readSpan, readSpan, hspan]
  · rw [tileWrite, tileWrite, hv, hf, writeSpan, writeSpan, hspan]

/-- A tile apart from another one keeps its bytes. -/
theorem Within.tileRead {t a : Tile} {x y : Ctx} (h : Within t x y) (ha : bytesMeet (tileRange a) (tileRange t) = false) {off n : Nat}
    (hoff : off + n ≤ tileExtent a.h) : tileRead y a off n = tileRead x a off n := by
  refine h a.view a.foot a.index off n ?_
  rw [bytesMeet_false] at ha ⊢
  unfold tileRange tileAddr at ha ⊢
  dsimp only at ha ⊢
  omega

/-! ## AMOV (R206) -/

/-- Copy n bytes of one tile into another, 16 at a time. -/
def tileCopy (x : Ctx) (t a : Tile) (off n : Nat) : Ctx :=
  (List.range (n / 16)).foldl (fun x g => tileWrite x t (off + 16 * g) 16 (tileRead x a (off + 16 * g) 16)) x

section
variable {t a : Tile} (hin : TileIn t) (ha : bytesMeet (tileRange a) (tileRange t) = false) (hh : a.h = t.h)
include hin ha hh

theorem tileCopy_spec (x : Ctx) {k n : Nat} (hk : 16 * (k + n) ≤ tileExtent t.h) :
    Within t x (tileCopy x t a (16 * k) (16 * n)) ∧
    ∀ m, tileRead (tileCopy x t a (16 * k) (16 * n)) t (16 * m) 16 = if k ≤ m ∧ m < k + n then tileRead x a (16 * m) 16 else tileRead x t (16 * m) 16 := by
  unfold tileCopy
  rw [Nat.mul_div_cancel_left n (by decide)]
  induction n with
  | zero => exact ⟨.refl t x, fun m => (if_neg (by omega)).symm⟩
  | succ n ih =>
    obtain ⟨hw, hr⟩ := ih (by omega)
    rw [List.range_succ, List.foldl_append, List.foldl_cons, List.foldl_nil]
    generalize (List.range n).foldl _ x = y at hw hr
    refine ⟨hw.trans (within_tileWrite y _ (by omega)), fun m => ?_⟩
    by_cases hm : m = k + n
    · subst hm
      have hlt : tileRead y a (16 * (k + n)) 16 < 2 ^ (8 * 16) := readSpan_lt ..
      rw [if_pos (by omega), show 16 * k + 16 * n = 16 * (k + n) by omega, tileRead_tileWrite_same y hin _ (by omega), Nat.mod_eq_of_lt hlt]
      exact hw.tileRead ha (by rw [hh]; omega)
    · rw [tileRead_tileWrite_apart y t _ (by omega), hr]
      exact if_congr (by omega) rfl rfl

end

theorem tileExtent_chunks (h : Nat) : tileExtent h = 16 * (tileExtent h / 16) ∧ 1 + 384 * h + 384 ≤ tileExtent h / 16 := by
  unfold tileExtent
  omega

/-- A tile after r rows of AMOV. -/
def Moved (x : Ctx) (t a : Tile) (r : Nat) (z : Ctx) : Prop :=
  (∀ m, m < tileExtent t.h / 16 → tileRead z a (16 * m) 16 = tileRead x a (16 * m) 16) ∧
  (∀ m, 1 ≤ m → m < 1 + 384 * r → tileRead z t (16 * m) 16 = tileRead x a (16 * m) 16) ∧
  (r = t.h → ∀ m, m < tileExtent t.h / 16 → tileRead z t (16 * m) 16 = tileRead x a (16 * m) 16)

theorem moved_step {j : RJob} {t a : Tile} {src : Nat} {x : Ctx} (ht : jobTile j = t) (ha : jobTile2 j src = a) (hin : TileIn t)
    (hd : bytesMeet (tileRange a) (tileRange t) = false) (hk : j.kind = .amov src) {r : Nat} {z : Ctx} (hr : r < t.h) (h : Moved x t a r z) :
    Moved x t a (r + 1) (transformRow z j r (decide (t.h ≤ r + 1))) := by
  have hh : a.h = t.h := by rw [← ht, ← ha]; rfl
  obtain ⟨hsrc, hdone, -⟩ := h
  have hrow (last : Bool) : transformRow z j r last =
      let y := tileCopy z t a (dataOff r 0) (24 * 256)
      if last then tileCopy (tileCopy y t a (rowOff t.h 0) (tileExtent t.h - rowOff t.h 0)) t a 0 16 else y := by
    rw [transformRow, hk, ht]
    dsimp only
    rw [ha]
    rfl
  obtain ⟨hext, hrows⟩ := tileExtent_chunks t.h
  unfold Moved
  generalize tileExtent t.h / 16 = E at *
  obtain ⟨hw, hcopy⟩ := tileCopy_spec hin hd hh z (k := 1 + 384 * r) (n := 384) (by omega)
  have hdata : tileCopy z t a (dataOff r 0) (24 * 256) = tileCopy z t a (16 * (1 + 384 * r)) (16 * 384) := by
    rw [show dataOff r 0 = 16 * (1 + 384 * r) by unfold dataOff; omega]
  have hdone' (m : Nat) (h1 : 1 ≤ m) (hm : m < 1 + 384 * (r + 1)) :
      tileRead (tileCopy z t a (16 * (1 + 384 * r)) (16 * 384)) t (16 * m) 16 = tileRead x a (16 * m) 16 := by
    rw [hcopy]
    by_cases hthis : 1 + 384 * r ≤ m ∧ m < 1 + 384 * r + 384
    · rw [if_pos hthis]
      exact hsrc m (by omega)
    · rw [if_neg hthis]
      exact hdone m h1 (by omega)
  have hsrc' (m : Nat) (hm : m < E) : tileRead (tileCopy z t a (16 * (1 + 384 * r)) (16 * 384)) a (16 * m) 16 = tileRead x a (16 * m) 16 :=
    (hw.tileRead hd (by rw [hh, hext]; omega)).trans (hsrc m hm)
  rw [hrow, hdata]
  dsimp only
  generalize tileCopy z t a (16 * (1 + 384 * r)) (16 * 384) = y at *
  by_cases hlast : t.h ≤ r + 1
  · rw [decide_eq_true hlast, if_pos rfl, show rowOff t.h 0 = 16 * (1 + 384 * t.h) by unfold rowOff; omega,
      show tileExtent t.h - 16 * (1 + 384 * t.h) = 16 * (E - (1 + 384 * t.h)) by omega]
    obtain ⟨hw1, hcopy1⟩ := tileCopy_spec hin hd hh y (k := 1 + 384 * t.h) (n := E - (1 + 384 * t.h)) (by omega)
    generalize tileCopy y t a (16 * (1 + 384 * t.h)) (16 * (E - (1 + 384 * t.h))) = v at *
    obtain ⟨hw0, hcopy0⟩ := tileCopy_spec hin hd hh v (k := 0) (n := 1) (by omega)
    have hsrcv (m : Nat) (hm : m < E) : tileRead v a (16 * m) 16 = tileRead x a (16 * m) 16 :=
      (hw1.tileRead hd (by rw [hh, hext]; omega)).trans (hsrc' m hm)
    have hall (m : Nat) (hm : m < E) : tileRead (tileCopy v t a (16 * 0) (16 * 1)) t (16 * m) 16 = tileRead x a (16 * m) 16 := by
      rw [hcopy0]
      by_cases h0 : 0 ≤ m ∧ m < 0 + 1
      · rw [if_pos h0]
        exact hsrcv m hm
      · rw [if_neg h0, hcopy1]
        by_cases h1 : 1 + 384 * t.h ≤ m ∧ m < 1 + 384 * t.h + (E - (1 + 384 * t.h))
        · rw [if_pos h1]
          exact hsrc' m hm
        · rw [if_neg h1]
          exact hdone' m (by omega) (by omega)
    exact ⟨fun m hm => (hw0.tileRead hd (by rw [hh, hext]; omega)).trans (hsrcv m hm), fun m _ hm => hall m (by omega), fun _ => hall⟩
  · rw [decide_eq_false hlast, if_neg (by decide)]
    exact ⟨hsrc', hdone', fun h => absurd h (by omega)⟩

/-- R206: AMOV copies a tile that checks. -/
theorem amov_ends {s : State} {c : Nat} {j : RJob} {rest : List RJob} (b : Begins s c j rest) {src : Nat} (hk : j.kind = .amov src) (hin : TileIn (jobTile j))
    (hina : TileIn (jobTile2 j src)) (hf : tileFaulted (getCtx s c) (jobTile j) = false) (hfa : tileFaulted (getCtx s c) (jobTile2 j src) = false)
    (hc : tileChecks (getCtx s c) (jobTile2 j src) = true)
    (hd : tileAddr (jobTile2 j src) = tileAddr (jobTile j) ∨ bytesMeet (tileRange (jobTile2 j src)) (tileRange (jobTile j)) = false) :
    Ended s c j rest fun y => ∀ n, n < tileExtent j.h / 16 →
      tileRead y (jobTile j) (16 * n) 16 = tileRead (getCtx s c) (jobTile2 j src) (16 * n) 16 := by
  have hsome : checkedTile (getCtx s c) j = some (jobTile2 j src) := by rw [checkedTile, hk]
  have hnamed : namedTiles j = [jobTile j, jobTile2 j src] := by rw [namedTiles, otherTile, hk]; rfl
  have hok : ∀ u ∈ namedTiles j, tileFaulted (getCtx s c) u = false := by
    rw [hnamed]
    simp [hf, hfa]
  have hsta (raw : Bool) : j.kind ≠ .sta raw := by simp [hk]
  by_cases hsame : tileAddr (jobTile2 j src) = tileAddr (jobTile j)
  · have halike := alike_of_addr hina hin rfl rfl hsame
    exact check_ends b hok hsome hc (by rw [transforms, hk]; simp [hsame]) hsta (fun _ _ _ _ _ _ _ h => h) fun n _ => (halike.1 _ _ _).symm
  · exact ended_checked b hok hsta (I := Moved (getCtx s c) (jobTile j) (jobTile2 j src)) (fun _ _ _ _ _ _ _ _ h => h)
      ⟨fun _ _ => rfl, fun m h1 hm => absurd hm (by omega), fun h => absurd h.symm b.tall.ne'⟩ (fun _ z _ _ => by rw [transformRows, hk]) b.tall le_rfl
      (fun r z hr _ h => moved_step rfl rfl hin (hd.resolve_left hsame) hk hr h) (fun _ _ _ _ _ _ _ h => h) (fun z h => h.2.2 rfl) hsome hc
      (by rw [transforms, hk]; simpa using hsame)

end Sys2Proof.Machine

/-! PROOF. Sums in a tile (R126, R187): what compressing a row of values into a tile adds to its elements, in integers modulo 2^96. -/

namespace Sys2Proof.Machine

/-! ## A 3:2 compression -/

/-- A full adder, bit by bit. -/
theorem add3_eq_xor_add_maj (a b c : Nat) : a + b + c = (a ^^^ b ^^^ c) + 2 * ((a &&& b) ||| (a &&& c) ||| (b &&& c)) := by
  by_cases h0 : a + b + c = 0
  · obtain ⟨rfl, rfl, rfl⟩ : a = 0 ∧ b = 0 ∧ c = 0 := by omega
    rfl
  · have ih := add3_eq_xor_add_maj (a / 2) (b / 2) (c / 2)
    have hx : (a ^^^ b ^^^ c) / 2 = a / 2 ^^^ b / 2 ^^^ c / 2 := by rw [Nat.xor_div_two, Nat.xor_div_two]
    have hm : ((a &&& b) ||| (a &&& c) ||| (b &&& c)) / 2 = (a / 2 &&& b / 2) ||| (a / 2 &&& c / 2) ||| (b / 2 &&& c / 2) := by
      rw [Nat.or_div_two, Nat.or_div_two, Nat.and_div_two, Nat.and_div_two, Nat.and_div_two]
    have hx2 : (a ^^^ b ^^^ c) % 2 = 1 ↔ ¬ (¬ (a % 2 = 1 ↔ b % 2 = 1) ↔ c % 2 = 1) := by rw [Nat.xor_mod_two_eq_one, Nat.xor_mod_two_eq_one]
    have hm2 : ((a &&& b) ||| (a &&& c) ||| (b &&& c)) % 2 = 1 ↔ ((a % 2 = 1 ∧ b % 2 = 1) ∨ (a % 2 = 1 ∧ c % 2 = 1)) ∨ (b % 2 = 1 ∧ c % 2 = 1) := by
      rw [Nat.or_mod_two_eq_one, Nat.or_mod_two_eq_one, Nat.and_mod_two_eq_one, Nat.and_mod_two_eq_one, Nat.and_mod_two_eq_one]
    rw [← hx, ← hm] at ih
    generalize a ^^^ b ^^^ c = X at *
    generalize (a &&& b) ||| (a &&& c) ||| (b &&& c) = Y at *
    omega
termination_by a + b + c

theorem elemV_compressElem (e p : Nat) : elemV (compressElem e p) = (elemV e + p) % 2 ^ 96 ∧ compressElem e p < 2 ^ 192 := by
  have hm : mod96 = 2 ^ 96 := rfl
  have hpos : 0 < 2 ^ 96 := Nat.two_pow_pos 96
  unfold compressElem elemV
  rw [hm]
  dsimp only
  have hs := Nat.mod_lt e hpos
  have hc := Nat.mod_lt (e / 2 ^ 96) hpos
  have hq := Nat.mod_lt p hpos
  have hadd := add3_eq_xor_add_maj (e % 2 ^ 96) (e / 2 ^ 96 % 2 ^ 96) (p % 2 ^ 96)
  have hx := Nat.xor_lt_two_pow (Nat.xor_lt_two_pow hs hc) hq
  generalize e % 2 ^ 96 ^^^ (e / 2 ^ 96 % 2 ^ 96) ^^^ p % 2 ^ 96 = X at hadd hx ⊢
  generalize e % 2 ^ 96 &&& (e / 2 ^ 96 % 2 ^ 96) ||| e % 2 ^ 96 &&& p % 2 ^ 96 ||| (e / 2 ^ 96 % 2 ^ 96) &&& p % 2 ^ 96 = Y at hadd ⊢
  omega

/-! ## Values modulo 2^96 -/

/-- The value of element k of a tile, modulo 2^96. -/
def resid (x : Ctx) (t : Tile) (k : Nat) : ZMod (2 ^ 96) := (elemV (rawAt x t k) : Nat)

/-- Compress a value into element k. -/
def addAt (x : Ctx) (t : Tile) (k v : Nat) : Ctx := tileWrite x t (16 + 24 * k) 24 (compressElem (tileRead x t (16 + 24 * k) 24) v)

/-- Nothing of a tile has changed but its elements. -/
def ElemsOnly (t : Tile) (x y : Ctx) : Prop := tileHeader y t = tileHeader x t ∧ Within t x y

theorem ElemsOnly.trans {t : Tile} {x y z : Ctx} (h : ElemsOnly t x y) (k : ElemsOnly t y z) : ElemsOnly t x z := ⟨k.1.trans h.1, h.2.trans k.2⟩

section
variable (x : Ctx) {t : Tile} (hin : TileIn t)
include hin

theorem addAt_spec {m : Nat} (hm : m < 257 * (t.h + 1)) (v : Nat) : ElemsOnly t x (addAt x t m v) ∧
    ∀ k, resid (addAt x t m v) t k = resid x t k + if k = m then (v : ZMod (2 ^ 96)) else 0 := by
  obtain ⟨hval, hlt⟩ := elemV_compressElem (rawAt x t m) v
  refine ⟨⟨tileHeader_tileWrite x _ (by omega), within_tileWrite x _ (elem_le_tileExtent hm)⟩, fun k => ?_⟩
  have hraw : rawAt (addAt x t m v) t k = if k = m then compressElem (rawAt x t m) v else rawAt x t k := rawAt_tileWrite x hin k _ hm hlt
  rw [resid, hraw]
  by_cases hk : k = m
  · subst hk
    rw [if_pos rfl, if_pos rfl, hval, ZMod.natCast_mod, Nat.cast_add]
    rfl
  · rw [if_neg hk, if_neg hk, add_zero]
    rfl

/-- What a row's values add to element k of a tile of h rows: to the row, to the column checksums, to the row's checksum and to the corner. -/
def rowShare (h r : Nat) (p : Nat → ZMod (2 ^ 96)) (k : Nat) : ZMod (2 ^ 96) :=
  (if 256 * r ≤ k ∧ k < 256 * r + 256 then p (k - 256 * r) else 0) + (if 257 * h ≤ k ∧ k < 257 * h + 256 then p (k - 257 * h) else 0) +
  (if k = 256 * h + r then ∑ n ∈ Finset.range 256, p n else 0) + if k = 257 * h + 256 then ∑ n ∈ Finset.range 256, p n else 0

omit hin in
theorem ite_range_succ (g : Nat → ZMod (2 ^ 96)) (a n k : Nat) : (if a ≤ k ∧ k < a + (n + 1) then g (k - a) else 0) =
    (if a ≤ k ∧ k < a + n then g (k - a) else 0) + if k = a + n then g n else 0 := by
  by_cases hk : k = a + n
  · subst hk
    rw [if_pos (by omega), if_neg (by omega), if_pos rfl, Nat.add_sub_cancel_left, zero_add]
  · rw [if_neg hk, add_zero]
    exact if_congr (by omega) rfl rfl

theorem addElems_spec (f : Nat → Nat) {r n : Nat} (hr : r < t.h) (hn : n ≤ 256) :
    let y := (List.range n).foldl (fun x i => addAt (addAt x t (256 * r + i) (f i)) t (257 * t.h + i) (f i)) x
    ElemsOnly t x y ∧ ∀ k, resid y t k = resid x t k +
      ((if 256 * r ≤ k ∧ k < 256 * r + n then (f (k - 256 * r) : ZMod (2 ^ 96)) else 0) +
        if 257 * t.h ≤ k ∧ k < 257 * t.h + n then (f (k - 257 * t.h) : ZMod (2 ^ 96)) else 0) := by
  induction n with
  | zero => exact ⟨⟨rfl, .refl t x⟩, fun k => by rw [if_neg (by omega), if_neg (by omega), add_zero, add_zero]; rfl⟩
  | succ n ih =>
    obtain ⟨he, hv⟩ := ih (by omega)
    intro y
    have hy : y = addAt (addAt ((List.range n).foldl (fun x i => addAt (addAt x t (256 * r + i) (f i)) t (257 * t.h + i) (f i)) x) t (256 * r + n) (f n)) t
        (257 * t.h + n) (f n) := by
      dsimp only [y]
      rw [List.range_succ, List.foldl_append]
      rfl
    rw [hy]
    generalize (List.range n).foldl _ x = z at he hv
    obtain ⟨he1, hv1⟩ := addAt_spec z hin (m := 256 * r + n) (by omega) (f n)
    obtain ⟨he2, hv2⟩ := addAt_spec (addAt z t (256 * r + n) (f n)) hin (m := 257 * t.h + n) (by omega) (f n)
    refine ⟨he.trans (he1.trans he2), fun k => ?_⟩
    rw [hv2, hv1, hv, ite_range_succ (fun i => (f i : ZMod (2 ^ 96))), ite_range_succ (fun i => (f i : ZMod (2 ^ 96)))]
    ring

/-- R187: a row of values compressed into a tile. -/
theorem addRow_spec (f : Nat → Nat) {r : Nat} (hr : r < t.h) : ElemsOnly t x (addRow x t r ((List.range 256).map f)) ∧
    ∀ k, resid (addRow x t r ((List.range 256).map f)) t k = resid x t k + rowShare t.h r (fun n => (f n : ZMod (2 ^ 96))) k := by
  have hzip : ((List.range 256).map f).zipIdx = (List.range 256).map fun n => (f n, n) := List.ext_getElem (by simp) fun k _ _ => by simp
  let q : Nat := ((List.range 256).map f).foldl (· + ·) 0 % mod96
  have hq : (q : ZMod (2 ^ 96)) = ∑ n ∈ Finset.range 256, (f n : ZMod (2 ^ 96)) := by
    have hsum : ((List.range 256).map f).foldl (· + ·) 0 = ∑ n ∈ Finset.range 256, f n := by rw [← List.sum_eq_foldl]; rfl
    rw [← Nat.cast_sum, ← hsum]
    exact ZMod.natCast_mod _ _
  obtain ⟨he, hv⟩ := addElems_spec x hin f hr le_rfl
  have hrow : addRow x t r ((List.range 256).map f) =
      addAt (addAt ((List.range 256).foldl (fun x i => addAt (addAt x t (256 * r + i) (f i)) t (257 * t.h + i) (f i)) x) t (256 * t.h + r) q) t (257 * t.h + 256) q := by
    rw [addRow, hzip, List.foldl_map]
    rfl
  rw [hrow]
  generalize (List.range 256).foldl _ x = z at he hv
  obtain ⟨he1, hv1⟩ := addAt_spec z hin (m := 256 * t.h + r) (by omega) q
  obtain ⟨he2, hv2⟩ := addAt_spec (addAt z t (256 * t.h + r) q) hin (m := 257 * t.h + 256) (by omega) q
  refine ⟨he.trans (he1.trans he2), fun k => ?_⟩
  rw [hv2, hv1, hv, hq, rowShare]
  ring

end

end Sys2Proof.Machine

/-! PROOF. ASCL (R204): what its rows add to the destination tile, and what they leave of the source. -/

namespace Sys2Proof.Machine

/-! ## Terms -/

/-- The scale code of a row and of a column. -/
def rowCode (codes n : Nat) : Nat := codes / 2 ^ (8 * (256 + n)) % 2 ^ 8
def colCode (codes m : Nat) : Nat := codes / 2 ^ (8 * m) % 2 ^ 8

/-- A code of element (n, m) is the one without a scale. -/
def Unscaled (codes n m : Nat) : Prop := rowCode codes n = 255 ∨ colCode codes m = 255

/-- What ASCL adds for element (n, m) of the source. -/
def scaledTerm (x : Ctx) (a t : Tile) (codes n m : Nat) : Int :=
  let v := signedV (valueAt x a (dataOff n m))
  if rowCode codes n = 255 ∨ colCode codes m = 255 then 0
  else (roundToInt .rne (v < 0) v.natAbs (tileAnchor x a + rowCode codes n + colCode codes m - 254 - tileAnchor x t)).1

/-- The element of a canonical source as ASCL reads it. -/
theorem asclTerm_eq {x z : Ctx} {a t : Tile} (codes : Nat) {n m : Nat} (hv : rawAt z a (256 * n + m) = elemV (rawAt x a (256 * n + m)))
    (ha : tileAnchor z a = tileAnchor x a) (ht : tileAnchor z t = tileAnchor x t) :
    (asclTerm z a t codes n m).1 = zextI (scaledTerm x a t codes n m) 96 ∧ ((asclTerm z a t codes n m).2 = true ↔ Unscaled codes n m) := by
  have hread : tileRead z a (dataOff n m) 12 = valueAt x a (dataOff n m) := by
    have hpart := readSpan_part z a.view a.foot a.index (dataOff n m) (n := 24) (k := 0) (m := 12) (by decide)
    rw [Nat.mul_zero, Nat.pow_zero, Nat.div_one, Nat.add_zero] at hpart
    refine hpart.symm.trans ?_
    refine (congrArg (· % 2 ^ (8 * 12)) (hv : tileRead z a (dataOff n m) 24 = _)).trans ?_
    exact Nat.mod_eq_of_lt (elemV_lt _)
  have hrow : (codes >>> (8 * (256 + n))) % 256 = rowCode codes n := congrArg (· % 256) (Nat.shiftRight_eq_div_pow ..)
  have hcol : (codes >>> (8 * m)) % 256 = colCode codes m := congrArg (· % 256) (Nat.shiftRight_eq_div_pow ..)
  unfold asclTerm scaledTerm Unscaled
  dsimp only
  rw [hrow, hcol, hread, ha, ht]
  by_cases hno : rowCode codes n = 255 ∨ colCode codes m = 255
  · rw [if_pos (by simpa using hno), if_pos hno]
    exact ⟨rfl, iff_of_true rfl hno⟩
  · rw [if_neg (by simpa using hno), if_neg hno]
    refine ⟨congrArg (zextI · 96) ?_, iff_of_false Bool.false_ne_true hno⟩
    split
    next hsh =>
      rw [roundToInt_nonneg _ _ _ hsh, signedM_decide, signedV]
      push_cast
      rfl
    · rfl

theorem natCast_zextI96 (v : Int) : ((zextI v 96 : Nat) : ZMod (2 ^ 96)) = v := by
  have h := dvd_zextI96 v
  have hz : ((zextI v 96 : Int) : ZMod (2 ^ 96)) = v := ((ZMod.intCast_eq_intCast_iff_dvd_sub ..).2 (by exact_mod_cast h)).symm
  exact_mod_cast hz

theorem fieldOf_bit (w : Word) (b : Nat) : (fieldOf w b 1 == 1) = w.getLsbD b := by
  have h := testBit_fieldOf w b 1 0
  rw [Nat.add_zero, decide_eq_true (by decide), Bool.true_and] at h
  rw [← h]
  have hlt : fieldOf w b 1 < 2 := Nat.mod_lt _ (by decide)
  interval_cases fieldOf w b 1 <;> rfl

/-! ## The source made canonical -/

/-- A tile's values, its anchor, NV and MZ are as before. -/
def KeptValues (u : Tile) (x y : Ctx) : Prop :=
  (∀ k, k < 257 * (u.h + 1) → elemV (rawAt y u k) = elemV (rawAt x u k)) ∧ tileAnchor y u = tileAnchor x u ∧
  ∀ b, 18 ≤ b → (tileHeader y u).getLsbD b = (tileHeader x u).getLsbD b

/-- One tile, or two apart. -/
def Beside (a t : Tile) : Prop := Alike a t ∨ bytesMeet (tileRange a) (tileRange t) = false

/-- A tile apart keeps its elements and its header. -/
theorem Within.keeps {t a : Tile} {x y : Ctx} (h : Within t x y) (ha : bytesMeet (tileRange a) (tileRange t) = false) :
    tileHeader y a = tileHeader x a ∧ ∀ k, k < 257 * (a.h + 1) → rawAt y a k = rawAt x a k := by
  refine ⟨congrArg (BitVec.ofNat 64) (h.tileRead ha ?_), fun k hk => h.tileRead ha (elem_le_tileExtent hk)⟩
  have := le_tileExtent a.h
  omega

theorem bytesMeet_comm {p q : Nat × Nat} (h : bytesMeet p q = false) : bytesMeet q p = false := by
  rw [bytesMeet_false] at h ⊢
  exact h.symm

theorem KeptValues.other {a t : Tile} {x y : Ctx} (hb : Beside a t) (hh : a.h = t.h) (hw : Within a x y) (h : KeptValues a x y) : KeptValues t x y := by
  rcases hb with ⟨hr, -⟩ | hd
  · unfold KeptValues tileAnchor tileHeader rawAt at h ⊢
    simp only [hr, hh] at h
    exact h
  · obtain ⟨hhead, hraw⟩ := hw.keeps (bytesMeet_comm hd)
    exact ⟨fun k hk => congrArg elemV (hraw k hk), by rw [tileAnchor, hhead]; rfl, fun b _ => by rw [hhead]⟩

/-- The source as row r finds it. -/
def readySource (x : Ctx) (a : Tile) (r : Nat) : Ctx := canonRow (if r = 0 then canonSums x a else x) a r

theorem canonSums_kept (x : Ctx) {a : Tile} (hin : TileIn a) : KeptValues a x (canonSums x a) ∧ Within a x (canonSums x a) := by
  obtain ⟨hhead, hraw⟩ := canonSums_spec x hin
  refine ⟨⟨fun k _ => ?_, ?_, fun b hb => ?_⟩, (within_mapElems x id (k := 256 * a.h) (n := a.h + 257) (by omega)).trans (within_markTile _ none (some 2) false false)⟩
  · rw [hraw]
    split
    · exact elemV_idem _
    · rfl
  · rw [tileAnchor_eq, hhead, anchor_markWord_none, ← tileAnchor_eq]
  · rw [hhead]
    exact getLsbD_markWord_above _ _ _ hb

theorem readySource_spec (x : Ctx) {a : Tile} (hin : TileIn a) {r : Nat} (hr : r < a.h) : KeptValues a x (readySource x a r) ∧ Within a x (readySource x a r) ∧
    (∀ k, k < 257 * (a.h + 1) → rawAt (readySource x a r) a k =
      if (256 * r ≤ k ∧ k < 256 * r + 256) ∨ (r = 0 ∧ 256 * a.h ≤ k) then elemV (rawAt x a k) else rawAt x a k) ∧
    tileState (readySource x a r) a = if r = 0 then 2 else tileState x a := by
  unfold readySource
  obtain ⟨y, hy⟩ : ∃ y, (if r = 0 then canonSums x a else x) = y := ⟨_, rfl⟩
  have hkept : KeptValues a x y ∧ Within a x y := by
    rw [← hy]
    split
    · exact canonSums_kept x hin
    · exact ⟨⟨fun _ _ => rfl, rfl, fun _ _ => rfl⟩, .refl a x⟩
  have hsums (k : Nat) (hk : k < 257 * (a.h + 1)) : rawAt y a k = if r = 0 ∧ 256 * a.h ≤ k then elemV (rawAt x a k) else rawAt x a k := by
    rw [← hy]
    by_cases h0 : r = 0
    · rw [if_pos h0, (canonSums_spec x hin).2]
      exact if_congr (by omega) rfl rfl
    · rw [if_neg h0, if_neg (by omega)]
  have hstate : tileState y a = if r = 0 then 2 else tileState x a := by
    rw [← hy]
    by_cases h0 : r = 0
    · rw [if_pos h0, if_pos h0, tileState, (canonSums_spec x hin).1, state_markWord_some _ _ _ _ (by decide)]
    · rw [if_neg h0, if_neg h0]
  obtain ⟨⟨hvals, hanchor, hbits⟩, hw⟩ := hkept
  obtain ⟨hhead, hraw⟩ := canonRow_spec y hin hr
  rw [hy]
  refine ⟨⟨fun k hk => ?_, ?_, fun b hb => ?_⟩, hw.trans (within_mapElems y id (k := 256 * r) (n := 256) (by omega)), fun k hk => ?_, ?_⟩
  · rw [hraw, ← hvals k hk]
    split
    · exact elemV_idem _
    · rfl
  · rw [tileAnchor, hhead]
    exact hanchor
  · rw [hhead, hbits b hb]
  · rw [hraw]
    by_cases hrow : 256 * r ≤ k ∧ k < 256 * r + 256
    · rw [if_pos hrow, if_pos (.inl hrow), hvals k hk]
    · rw [if_neg hrow, hsums k hk]
      exact if_congr (by omega) rfl rfl
  · rw [tileState, hhead]
    exact hstate

end Sys2Proof.Machine

/-! PROOF. ASCL row by row (R204), and how it ends. -/

namespace Sys2Proof.Machine

/-! ## NV and MZ -/

/-- A bit of the header after r rows: raised by the source's bit and by the rows that raise it. -/
def Raised (b : Nat) (Z : Nat → Prop) (x : Ctx) (t a : Tile) (r : Nat) (z : Ctx) : Prop :=
  ((tileHeader z t).getLsbD b = true ↔ (tileHeader x t).getLsbD b = true ∨ (0 < r ∧ (tileHeader x a).getLsbD b = true) ∨ ∃ n, n < r ∧ Z n) ∧
  ((tileHeader x a).getLsbD b = true → (tileHeader z a).getLsbD b = true) ∧
  ((tileHeader z a).getLsbD b = true → (tileHeader x a).getLsbD b = true ∨ (tileHeader z t).getLsbD b = true)

theorem raised_zero (b : Nat) (Z : Nat → Prop) (x : Ctx) (t a : Tile) : Raised b Z x t a 0 x := by
  refine ⟨⟨.inl, ?_⟩, id, .inl⟩
  rintro (h | ⟨h, -⟩ | ⟨n, h, -⟩)
  · exact h
  · omega
  · omega

theorem raised_step {b : Nat} {Z : Nat → Prop} {x : Ctx} {t a : Tile} {r : Nat} {z y : Ctx} {f : Bool} (h : Raised b Z x t a r z)
    (ht : (tileHeader y t).getLsbD b = ((tileHeader z t).getLsbD b || f)) (hf : f = true ↔ Z r ∨ (tileHeader z a).getLsbD b = true)
    (ha : (tileHeader y a).getLsbD b = (tileHeader z a).getLsbD b ∨ (tileHeader y a).getLsbD b = (tileHeader y t).getLsbD b) :
    Raised b Z x t a (r + 1) y := by
  obtain ⟨hz, hkeep, hfrom⟩ := h
  have ht' : (tileHeader y t).getLsbD b = true ↔ (tileHeader z t).getLsbD b = true ∨ Z r ∨ (tileHeader z a).getLsbD b = true := by
    rw [ht, Bool.or_eq_true, hf]
  refine ⟨ht'.trans ⟨?_, ?_⟩, fun hx => ?_, fun hy => ?_⟩
  · rintro (h | h | h)
    · rcases hz.1 h with h | ⟨-, h⟩ | ⟨n, hn, h⟩
      · exact .inl h
      · exact .inr (.inl ⟨by omega, h⟩)
      · exact .inr (.inr ⟨n, by omega, h⟩)
    · exact .inr (.inr ⟨r, by omega, h⟩)
    · rcases hfrom h with h | h
      · exact .inr (.inl ⟨by omega, h⟩)
      · rcases hz.1 h with h | ⟨-, h⟩ | ⟨n, hn, h⟩
        · exact .inl h
        · exact .inr (.inl ⟨by omega, h⟩)
        · exact .inr (.inr ⟨n, by omega, h⟩)
  · rintro (h | ⟨-, h⟩ | ⟨n, hn, h⟩)
    · exact .inl (hz.2 (.inl h))
    · exact .inr (.inr (hkeep h))
    · rcases Nat.lt_succ_iff_lt_or_eq.1 hn with hn | rfl
      · exact .inl (hz.2 (.inr (.inr ⟨n, hn, h⟩)))
      · exact .inr (.inl h)
  · rcases ha with ha | ha
    · exact ha.trans (hkeep hx)
    · exact ha.trans (ht'.2 (.inr (.inr (hkeep hx))))
  · rcases ha with ha | ha
    · rcases hfrom (ha.symm.trans hy) with h | h
      · exact .inl h
      · exact .inr (ht'.2 (.inl h))
    · exact .inr (ha.symm.trans hy)

/-! ## A row -/

/-- The tiles after r rows of ASCL. -/
structure Scaled (x : Ctx) (t a : Tile) (view : Word) (foot : BitVec 8) (sc r : Nat) (z : Ctx) : Prop where
  anchor : tileAnchor z t = tileAnchor x t
  source : tileAnchor z a = tileAnchor x a
  codes : readSpan z view foot sc 0 320 = readSpan x view foot sc 0 320
  values : ∀ k, 256 * r ≤ k → k < 256 * t.h → elemV (rawAt z a k) = elemV (rawAt x a k)
  sums : ∀ k, k < 257 * (t.h + 1) → resid z t k = resid x t k +
    ∑ n ∈ Finset.range r, rowShare t.h n (fun m => (scaledTerm x a t (readSpan x view foot sc 0 320) n m : ZMod (2 ^ 96))) k
  nv : Raised 18 (fun n => ∃ m, m < 256 ∧ Unscaled (readSpan x view foot sc 0 320) n m) x t a r z
  mz : Raised 19 (fun _ => False) x t a r z
  state : 0 < r → tileState z t = 1
  canonical : bytesMeet (tileRange a) (tileRange t) = false → (∀ k, k < 257 * (t.h + 1) → elemV (rawAt z a k) = elemV (rawAt x a k)) ∧
    (∀ k, k < 256 * r → rawAt z a k = elemV (rawAt x a k)) ∧
    (0 < r → tileState z a = 2 ∧ ∀ k, 256 * t.h ≤ k → k < 257 * (t.h + 1) → rawAt z a k = elemV (rawAt x a k))

theorem unnoted_scaled (x : Ctx) (t a : Tile) (view : Word) (foot : BitVec 8) (sc r : Nat) : Unnoted (Scaled x t a view foot sc r) :=
  fun _ _ _ _ _ _ _ h => ⟨h.anchor, h.source, h.codes, h.values, h.sums, h.nv, h.mz, h.state, h.canonical⟩

theorem scaled_zero (x : Ctx) (t a : Tile) (view : Word) (foot : BitVec 8) (sc : Nat) : Scaled x t a view foot sc 0 x where
  anchor := rfl
  source := rfl
  codes := rfl
  values _ _ _ := rfl
  sums _ _ := by rw [Finset.range_zero, Finset.sum_empty, add_zero]
  nv := raised_zero ..
  mz := raised_zero ..
  state h := absurd h (by decide)
  canonical _ := ⟨fun _ _ => rfl, fun _ h => absurd h (by omega), fun h => absurd h (by decide)⟩

theorem resid_inj {x y : Ctx} {t : Tile} {k : Nat} (h : resid y t k = resid x t k) : elemV (rawAt y t k) = elemV (rawAt x t k) := by
  have hmod := (ZMod.natCast_eq_natCast_iff' _ _ _).1 h
  rwa [Nat.mod_eq_of_lt (elemV_lt _), Nat.mod_eq_of_lt (elemV_lt _)] at hmod

theorem rowShare_congr {h r : Nat} {p q : Nat → ZMod (2 ^ 96)} (hpq : ∀ m, m < 256 → p m = q m) (k : Nat) : rowShare h r p k = rowShare h r q k := by
  have hsum : ∑ n ∈ Finset.range 256, p n = ∑ n ∈ Finset.range 256, q n := Finset.sum_congr rfl fun n hn => hpq n (Finset.mem_range.1 hn)
  have hone (a : Nat) : (if a ≤ k ∧ k < a + 256 then p (k - a) else 0) = if a ≤ k ∧ k < a + 256 then q (k - a) else 0 :=
    ite_congr rfl (fun hk => hpq _ (by omega)) fun _ => rfl
  rw [rowShare, rowShare, hsum, hone, hone]

/-- What a row adds to a data element. -/
theorem rowShare_data {h r k : Nat} (p : Nat → ZMod (2 ^ 96)) (hk : k < 256 * h) :
    rowShare h r p k = if 256 * r ≤ k ∧ k < 256 * r + 256 then p (k - 256 * r) else 0 := by
  rw [rowShare, if_neg (by omega : ¬ (257 * h ≤ k ∧ k < 257 * h + 256)), if_neg (by omega : ¬ k = 256 * h + r), if_neg (by omega : ¬ k = 257 * h + 256)]
  simp only [add_zero]

/-- What a row of ASCL makes of a context z, its source read from x. -/
structure AsclRow (x : Ctx) (t a : Tile) (codes r : Nat) (z w : Ctx) : Prop where
  anchor : tileAnchor w t = tileAnchor z t
  state : tileState w t = 1
  sums : ∀ k, k < 257 * (t.h + 1) → resid w t k = resid z t k + rowShare t.h r (fun m => (scaledTerm x a t codes r m : ZMod (2 ^ 96))) k
  nv : ∃ f : Bool, (f = true ↔ ∃ m, m < 256 ∧ Unscaled codes r m) ∧
    (tileHeader w t).getLsbD 18 = ((tileHeader z t).getLsbD 18 || (f || (tileHeader z a).getLsbD 18))
  mz : (tileHeader w t).getLsbD 19 = ((tileHeader z t).getLsbD 19 || (tileHeader z a).getLsbD 19)
  within : Within t (readySource z a r) w

section
variable {j : RJob} {t a : Tile} {src sc : Nat} (ht : jobTile j = t) (ha : jobTile2 j src = a) (hin : TileIn t) (hina : TileIn a) (hbeside : Beside a t)
  (hk : j.kind = .ascl src sc) (hct : bytesMeet (viewAddr j.vview sc, 320) (tileRange t) = false)
  (hca : bytesMeet (viewAddr j.vview sc, 320) (tileRange a) = false)
include ht ha hk

theorem transformRow_ascl (z : Ctx) (r : Nat) (last : Bool) :
    let y := readySource z a r
    let codes := readSpan y j.vview j.foot sc 0 320
    transformRow z j r last = markTile (addRow y t r ((List.range 256).map fun m => (asclTerm y a t codes r m).1)) t none (some 1)
      (((List.range 256).any fun m => (asclTerm y a t codes r m).2) || (tileHeader y a).getLsbD 18) ((tileHeader y a).getLsbD 19) := by
  intro y codes
  rw [transformRow, hk, ht]
  dsimp only
  rw [ha, fieldOf_bit, fieldOf_bit, List.map_map, List.any_map]
  rfl

include hin hina

/-- A row of ASCL of a source whose values it reads from an earlier context x. -/
theorem asclRow_spec {x z : Ctx} {r codes : Nat} (hr : r < t.h) (hbeside : Beside a t) (hanchor : tileAnchor z t = tileAnchor x t)
    (hsource : tileAnchor z a = tileAnchor x a) (hvalues : ∀ k, 256 * r ≤ k → k < 256 * t.h → elemV (rawAt z a k) = elemV (rawAt x a k))
    (hcodes : readSpan (readySource z a r) j.vview j.foot sc 0 320 = codes) (last : Bool) : AsclRow x t a codes r z (transformRow z j r last) := by
  have hh : a.h = t.h := by rw [← ht, ← ha]; rfl
  obtain ⟨hkept, hwa, hready, -⟩ := readySource_spec z hina (r := r) (by omega)
  obtain ⟨hvalsT, hanchorT, hbitsT⟩ := hkept.other hbeside hh hwa
  have hrow := transformRow_ascl ht ha hk z r last
  dsimp only at hrow
  rw [hcodes] at hrow
  have hterm (m : Nat) (hm : m < 256) : (asclTerm (readySource z a r) a t codes r m).1 = zextI (scaledTerm x a t codes r m) 96 ∧
      ((asclTerm (readySource z a r) a t codes r m).2 = true ↔ Unscaled codes r m) := by
    refine asclTerm_eq codes ?_ (hkept.2.1.trans hsource) (hanchorT.trans hanchor)
    rw [hready _ (by omega), if_pos (.inl (by omega)), hvalues _ (by omega) (by omega)]
  obtain ⟨⟨hhead, hwv⟩, hsum⟩ := addRow_spec (readySource z a r) hin (fun m => (asclTerm (readySource z a r) a t codes r m).1) hr
  refine ⟨?_, ?_, fun k hk => ?_, ⟨(List.range 256).any fun m => (asclTerm (readySource z a r) a t codes r m).2, ?_, ?_⟩, ?_, ?_⟩
  · rw [hrow, tileAnchor_markTile_none _ hin, tileAnchor, hhead]
    exact hanchorT
  · rw [hrow, tileState_markTile _ hin _ (by decide)]
  · rw [hrow, resid, rawAt_markTile]
    refine (hsum k).trans (congrArg₂ (· + ·) (congrArg Nat.cast (hvalsT k hk)) ?_)
    exact rowShare_congr (fun m hm => by rw [(hterm m hm).1, natCast_zextI96]) k
  · rw [List.any_eq_true]
    exact exists_congr fun m => ⟨fun ⟨hm, hu⟩ => ⟨List.mem_range.1 hm, (hterm m (List.mem_range.1 hm)).2.1 hu⟩,
      fun ⟨hm, hu⟩ => ⟨List.mem_range.2 hm, (hterm m hm).2.2 hu⟩⟩
  · rw [hrow, tileHeader_markTile _ hin, getLsbD_markWord_nv, hhead, hbitsT 18 (by decide), hkept.2.2 18 (by decide)]
  · rw [hrow, tileHeader_markTile _ hin, getLsbD_markWord_mz, hhead, hbitsT 19 (by decide), hkept.2.2 19 (by decide)]
  · rw [hrow]
    exact hwv.trans (within_markTile _ none (some 1) _ _)

include hbeside hct hca

/-- R204: a row of ASCL keeps its invariant. -/
theorem scaled_step {x : Ctx} {r : Nat} {z : Ctx} (hr : r < t.h) (last : Bool) (h : Scaled x t a j.vview j.foot sc r z) :
    Scaled x t a j.vview j.foot sc (r + 1) (transformRow z j r last) := by
  have hh : a.h = t.h := by rw [← ht, ← ha]; rfl
  obtain ⟨hkept, hwa, hready, hstate⟩ := readySource_spec z hina (r := r) (by omega)
  have hcodes := (hwa j.vview j.foot sc 0 320 (by simpa using hca)).trans h.codes
  have hrow := asclRow_spec ht ha hin hina hk hr hbeside h.anchor h.source h.values hcodes last
  generalize transformRow z j r last = w at *
  obtain ⟨unscaled, hunscaled, hnv⟩ := hrow.nv
  have hbit (b : Nat) (hb : 18 ≤ b) : (tileHeader w a).getLsbD b = (tileHeader z a).getLsbD b ∨ (tileHeader w a).getLsbD b = (tileHeader w t).getLsbD b := by
    rcases hbeside with ⟨hread, -⟩ | hd
    · exact .inr (by rw [tileHeader, tileHeader, hread])
    · exact .inl (by rw [(hrow.within.keeps hd).1, hkept.2.2 b hb])
  refine ⟨hrow.anchor.trans h.anchor, ?_, (hrow.within _ _ _ 0 320 (by simpa using hct)).trans hcodes, fun k h1 h2 => ?_, fun k hkE => ?_,
    raised_step h.nv hnv (by rw [Bool.or_eq_true, hunscaled]) (hbit 18 (by decide)), raised_step h.mz hrow.mz (by simp) (hbit 19 (by decide)),
    fun _ => hrow.state, fun hd => ?_⟩
  · rcases hbeside with ⟨hread, -⟩ | hd
    · have hanchor (x : Ctx) : tileAnchor x a = tileAnchor x t := by rw [tileAnchor, tileAnchor, tileHeader, tileHeader, hread]
      rw [hanchor, hanchor, hrow.anchor, h.anchor]
    · rw [tileAnchor, (hrow.within.keeps hd).1]
      exact hkept.2.1.trans h.source
  · refine Eq.trans ?_ (h.values k (by omega) h2)
    rcases hbeside with ⟨hread, -⟩ | hd
    · have hraw (x : Ctx) : rawAt x a k = rawAt x t k := hread ..
      rw [hraw, hraw]
      refine resid_inj ((hrow.sums k (by omega)).trans ?_)
      rw [rowShare_data _ h2, if_neg (by omega), add_zero]
    · rw [(hrow.within.keeps hd).2 k (by omega), hkept.1 k (by omega)]
  · rw [hrow.sums k hkE, h.sums k hkE, Finset.sum_range_succ, add_assoc]
  · obtain ⟨hvals, hrows, hrest⟩ := h.canonical hd
    obtain ⟨hhead, hraw⟩ := hrow.within.keeps hd
    rw [hh] at hraw hready
    refine ⟨fun k hkE => ?_, fun k hkr => ?_, fun _ => ⟨?_, fun k h1 hkE => ?_⟩⟩
    · rw [hraw k hkE, hkept.1 k (by omega), hvals k hkE]
    · rw [hraw k (by omega), hready k (by omega)]
      by_cases hthis : 256 * r ≤ k ∧ k < 256 * r + 256
      · rw [if_pos (.inl hthis), hvals k (by omega)]
      · rw [if_neg (by omega), hrows k (by omega)]
    · rw [tileState, hhead]
      refine hstate.trans ?_
      by_cases h0 : r = 0
      · rw [if_pos h0]
      · rw [if_neg h0, (hrest (by omega)).1]
    · rw [hraw k hkE, hready k hkE]
      by_cases h0 : r = 0
      · rw [if_pos (.inr ⟨h0, h1⟩), hvals k hkE]
      · rw [if_neg (by omega), (hrest (by omega)).2 k h1 hkE]

end

end Sys2Proof.Machine

/-! PROOF. What ASCL has added (R204), and O39: the resolver's instructions and jobs. -/

namespace Sys2Proof.Machine

/-! ## The shares of all rows -/

section
variable {h : Nat} (p : Nat → Nat → ZMod (2 ^ 96))

theorem sum_share_data {n m : Nat} (hn : n < h) (hm : m < 256) : ∑ r ∈ Finset.range h, rowShare h r (p r) (256 * n + m) = p n m := by
  have hrow (r : Nat) : rowShare h r (p r) (256 * n + m) = if n = r then p r m else 0 := by
    rw [rowShare_data _ (by omega)]
    by_cases hr : n = r
    · subst hr
      rw [if_pos (by omega), if_pos rfl, Nat.add_sub_cancel_left]
    · rw [if_neg (by omega), if_neg hr]
  simp only [hrow]
  rw [Finset.sum_ite_eq, if_pos (Finset.mem_range.2 hn)]

theorem sum_share_row {n : Nat} (hn : n < h) : ∑ r ∈ Finset.range h, rowShare h r (p r) (256 * h + n) = ∑ m ∈ Finset.range 256, p n m := by
  have hrow (r : Nat) (hr : r ∈ Finset.range h) : rowShare h r (p r) (256 * h + n) = if n = r then ∑ m ∈ Finset.range 256, p r m else 0 := by
    have hr' := Finset.mem_range.1 hr
    rw [rowShare, if_neg (by omega : ¬ (256 * r ≤ 256 * h + n ∧ 256 * h + n < 256 * r + 256)),
      if_neg (by omega : ¬ (257 * h ≤ 256 * h + n ∧ 256 * h + n < 257 * h + 256)), if_neg (by omega : ¬ 256 * h + n = 257 * h + 256), zero_add, zero_add, add_zero]
    exact if_congr (by omega) rfl rfl
  rw [Finset.sum_congr rfl hrow, Finset.sum_ite_eq, if_pos (Finset.mem_range.2 hn)]

theorem sum_share_col {m : Nat} (hm : m < 256) : ∑ r ∈ Finset.range h, rowShare h r (p r) (257 * h + m) = ∑ r ∈ Finset.range h, p r m := by
  refine Finset.sum_congr rfl fun r hr => ?_
  have hr' := Finset.mem_range.1 hr
  rw [rowShare, if_neg (by omega : ¬ (256 * r ≤ 257 * h + m ∧ 257 * h + m < 256 * r + 256)), if_pos (by omega : 257 * h ≤ 257 * h + m ∧ 257 * h + m < 257 * h + 256),
    if_neg (by omega : ¬ 257 * h + m = 256 * h + r), if_neg (by omega : ¬ 257 * h + m = 257 * h + 256), zero_add, add_zero, add_zero, Nat.add_sub_cancel_left]

theorem sum_share_corner : ∑ r ∈ Finset.range h, rowShare h r (p r) (257 * h + 256) = ∑ r ∈ Finset.range h, ∑ m ∈ Finset.range 256, p r m := by
  refine Finset.sum_congr rfl fun r hr => ?_
  have hr' := Finset.mem_range.1 hr
  rw [rowShare, if_neg (by omega : ¬ (256 * r ≤ 257 * h + 256 ∧ 257 * h + 256 < 256 * r + 256)), if_neg (by omega : ¬ (257 * h ≤ 257 * h + 256 ∧ 257 * h + 256 < 257 * h + 256)),
    if_neg (by omega : ¬ 257 * h + 256 = 256 * h + r), if_pos rfl, zero_add, zero_add, zero_add]

end

theorem cast_sum_range (f : Nat → Int) (n : Nat) : ((((List.range n).map f).sum : Int) : ZMod (2 ^ 96)) = ∑ i ∈ Finset.range n, (f i : ZMod (2 ^ 96)) := by
  rw [← Int.cast_sum]
  rfl

/-- Element k has gained a value, modulo 2^96. -/
def Gained (x y : Ctx) (t : Tile) (k : Nat) (v : Int) : Prop := (2 ^ 96 : Int) ∣ (valueAt y t (16 + 24 * k) : Int) - (valueAt x t (16 + 24 * k) + v)

theorem gained_of_resid {x y : Ctx} {t : Tile} {k : Nat} {v : Int} (h : resid y t k = resid x t k + (v : ZMod (2 ^ 96))) : Gained x y t k v := by
  have hcast : (((elemV (rawAt x t k) : Int) + v : Int) : ZMod (2 ^ 96)) = ((elemV (rawAt y t k) : Int) : ZMod (2 ^ 96)) := by
    rw [Int.cast_add, Int.cast_natCast, Int.cast_natCast]
    exact h.symm
  exact_mod_cast (ZMod.intCast_eq_intCast_iff_dvd_sub ..).1 hcast

/-- R204: ASCL adds the scaled source, element by element and in the checksums. -/
theorem ascl_ends {s : State} {c : Nat} {j : RJob} {rest : List RJob} (b : Begins s c j rest) {src sc : Nat} (hk : j.kind = .ascl src sc)
    (hin : TileIn (jobTile j)) (hina : TileIn (jobTile2 j src)) (hf : tileFaulted (getCtx s c) (jobTile j) = false)
    (hfa : tileFaulted (getCtx s c) (jobTile2 j src) = false) (hc : tileChecks (getCtx s c) (jobTile2 j src) = true)
    (hd : tileAddr (jobTile2 j src) = tileAddr (jobTile j) ∨ bytesMeet (tileRange (jobTile2 j src)) (tileRange (jobTile j)) = false)
    (hca : bytesMeet (viewAddr j.vview sc, 320) (tileRange (jobTile2 j src)) = false) (hct : bytesMeet (viewAddr j.vview sc, 320) (tileRange (jobTile j)) = false) :
    let x := getCtx s c
    let t := jobTile j
    let a := jobTile2 j src
    let codes := readSpan x j.vview j.foot sc 0 320
    let term := scaledTerm x a t codes
    Ended s c j rest fun y => (∀ n m, n < j.h → m < 256 → Gained x y t (256 * n + m) (term n m)) ∧
      (∀ n, n < j.h → Gained x y t (256 * j.h + n) ((List.range 256).map (term n)).sum) ∧
      (∀ m, m < 256 → Gained x y t (257 * j.h + m) ((List.range j.h).map (term · m)).sum) ∧
      Gained x y t (257 * j.h + 256) ((List.range j.h).map fun n => ((List.range 256).map (term n)).sum).sum ∧
      tileState y t = 1 ∧ tileAnchor y t = tileAnchor x t ∧
      ((tileHeader y t).getLsbD 18 = true ↔ (tileHeader x t).getLsbD 18 = true ∨ (tileHeader x a).getLsbD 18 = true ∨
        ∃ n m, n < j.h ∧ m < 256 ∧ Unscaled codes n m) ∧
      ((tileHeader y t).getLsbD 19 = true ↔ (tileHeader x t).getLsbD 19 = true ∨ (tileHeader x a).getLsbD 19 = true) ∧
      (tileAddr a ≠ tileAddr t → tileState y a = 2 ∧ tileAnchor y a = tileAnchor x a ∧ ∀ k, k < 257 * (j.h + 1) → tileRead y a (16 + 24 * k) 24 = valueAt x a (16 + 24 * k)) := by
  intro x t a codes term
  have hsome : checkedTile x j = some a := by rw [checkedTile, hk]
  have hnamed : namedTiles j = [t, a] := by rw [namedTiles, otherTile, hk]; rfl
  have hok : ∀ u ∈ namedTiles j, tileFaulted x u = false := by
    rw [hnamed]
    simp [hf, hfa, x, t, a]
  have hbeside : Beside a t := hd.imp_left (alike_of_addr hina hin rfl rfl)
  refine ended_checked b hok (by simp [hk]) (I := Scaled x t a j.vview j.foot sc) (unnoted_scaled x t a j.vview j.foot sc) (scaled_zero x t a j.vview j.foot sc)
    (fun _ z _ _ => by rw [transformRows, hk]) b.tall le_rfl (fun r z hr _ h => scaled_step rfl rfl hin hina hbeside hk hct hca hr _ h)
    (fun _ _ _ _ _ _ _ h => h) (fun z h => ?_) hsome hc (by rw [transforms, hk])
  have hsums (k : Nat) (v : Int) (hkE : k < 257 * (j.h + 1)) (hv : ∑ n ∈ Finset.range j.h, rowShare j.h n (fun m => (term n m : ZMod (2 ^ 96))) k = v) :
      Gained x z t k v := gained_of_resid ((h.sums k hkE).trans (congrArg (resid x t k + ·) hv))
  refine ⟨fun n m hn hm => ?_, fun n hn => ?_, fun m hm => ?_, ?_, h.state b.tall, h.anchor, ?_, ?_, fun hne => ?_⟩
  · exact hsums _ _ (by omega) (sum_share_data (fun n m => (term n m : ZMod (2 ^ 96))) hn hm)
  · exact hsums _ _ (by omega) ((sum_share_row (fun n m => (term n m : ZMod (2 ^ 96))) hn).trans (cast_sum_range ..).symm)
  · exact hsums _ _ (by omega) ((sum_share_col (fun n m => (term n m : ZMod (2 ^ 96))) hm).trans (cast_sum_range ..).symm)
  · refine hsums _ _ (by omega) ((sum_share_corner fun n m => (term n m : ZMod (2 ^ 96))).trans ?_)
    rw [cast_sum_range]
    exact Finset.sum_congr rfl fun n _ => (cast_sum_range ..).symm
  · rw [h.nv.1]
    refine or_congr Iff.rfl (or_congr (and_iff_right b.tall) ?_)
    exact exists_congr fun n => ⟨fun ⟨hn, m, hm, hu⟩ => ⟨m, hn, hm, hu⟩, fun ⟨m, hn, hm, hu⟩ => ⟨hn, m, hm, hu⟩⟩
  · rw [h.mz.1]
    refine or_congr Iff.rfl ?_
    simpa using fun _ => b.tall
  · obtain ⟨-, hrows, hrest⟩ := h.canonical (hd.resolve_left hne)
    obtain ⟨hstate, hsumsA⟩ := hrest b.tall
    refine ⟨hstate, h.source, fun k hkE => ?_⟩
    by_cases hkr : k < 256 * j.h
    · exact hrows k hkr
    · exact hsumsA k (Nat.not_lt.1 hkr) hkE

end Sys2Proof.Machine

/-! PROOF. The events of the resolver row by row (R193, R195, R196), and O39. -/

namespace Sys2Proof.Machine

/-! ## One event -/

theorem Worked.hides {x y : Ctx} (h : Worked x y) : hideRow y = hideRow x ∧ y.writing = x.writing ∧ y.sacc = x.sacc := by
  obtain ⟨_, _, _, _, _, _, _, rfl⟩ := h
  exact ⟨rfl, rfl, rfl⟩

section
variable {s : State} {c : Nat} {j : RJob} {rest : List RJob} (hj : (getCtx s c).rjobs = j :: rest) (hm : (getCtx s c).rHalted = false)
include hj hm

/-- R193: the oldest job starts once no earlier one conflicts. -/
theorem resolverJobStart_spec (hs : j.started = false) :
    (mayStart (getCtx s c) j.arrival (rjobSets j) = false → Completes (.resolverJobStart c) s fun u => u = s) ∧
    (mayStart (getCtx s c) j.arrival (rjobSets j) = true → Completes (.resolverJobStart c) s fun u =>
      u = setCtx s c { getCtx s c with rjobs := { j with started := true } :: rest,
                                       writing := (getCtx s c).writing.filter (·.arrival != j.arrival) ++ jobRanges j.arrival (jobBytes (getCtx s c) j) }) := by
  have hexec : exec (.resolverJobStart c) s = if j.started || (getCtx s c).rHalted || !mayStart (getCtx s c) j.arrival (rjobSets j) then .next s
      else .next (setCtx s c { getCtx s c with rjobs := { j with started := true } :: rest,
                                               writing := (getCtx s c).writing.filter (·.arrival != j.arrival) ++ jobRanges j.arrival (jobBytes (getCtx s c) j) }) := by
    show execResolverJobStart c s = _
    unfold execResolverJobStart
    dsimp only
    rw [hj]
  rw [hs, hm] at hexec
  refine ⟨fun h => ⟨_, hexec.trans (if_pos (by simp [h])), rfl⟩, fun h => ⟨_, hexec.trans (if_neg (by simp [h])), rfl⟩⟩

omit hm in
theorem resolverJobComplete_waits (hs : j.started = false) : Completes (.resolverJobComplete c) s fun u => u = s := by
  refine ⟨s, ?_, rfl⟩
  show execResolverJobComplete c s = _
  unfold execResolverJobComplete
  dsimp only
  rw [hj]
  dsimp only
  rw [if_pos (by simp [hs])]

/-- R195: a row of the check pass before the last changes no byte. -/
theorem checkRow_completes (hs : j.started = true) (ht : j.transform = false) (hr : j.row + 1 < j.h)
    (hok : 0 < j.row ∨ ∀ u ∈ namedTiles j, tileFaulted (getCtx s c) u = false) (hu : checkedTile (getCtx s c) j ≠ none) :
    Completes (.resolverJobComplete c) s fun u => OnlyCtx s c u ∧ Quiet (getCtx s c) (getCtx u c) ∧ (getCtx u c).rjobs = { j with row := j.row + 1 } :: rest := by
  obtain ⟨u, hu⟩ := Option.ne_none_iff_exists'.1 hu
  obtain ⟨z, hz, hopen, -⟩ := jobRow_open s.cycle ht fun h0 => hok.resolve_left (by omega)
  have hrow := hopen u hu
  rw [checkStep, decide_eq_false (by omega)] at hrow
  have hnext : (jobRow s.cycle (getCtx s c) j).next = some { j with row := j.row + 1 } := congrArg RDone.next hrow
  have hctx : OorOnly (getCtx s c) (jobRow s.cycle (getCtx s c) j).ctx := by
    rw [hrow]
    exact hz.trans (noteRow_only s.cycle z u j.row false true)
  refine ⟨_, execRow_next hj hm hs hnext, onlyCtx_setCtx .., ?_⟩
  rw [getCtx_setCtx]
  exact ⟨hctx.quiet.trans (quiet_next ..), rfl⟩

/-- R196: a row of the transform pass before the last. -/
theorem transformRow_completes (hs : j.started = true) (ht : j.transform = true) (hr : j.row + 1 < transformRows (getCtx s c) j) :
    Completes (.resolverJobComplete c) s fun u => OnlyCtx s c u ∧ Worked (getCtx s c) (getCtx u c) ∧ (getCtx u c).rjobs = { j with row := j.row + 1 } :: rest := by
  have hjt (r : Nat) : { j with row := r, transform := true } = { j with row := r } := by rw [← ht]
  obtain ⟨z, hz, hstep⟩ := transformStep_eq s.cycle (getCtx s c) j j.row _ rfl
  rw [if_neg (by omega), hjt, hjt] at hstep
  have hrow : jobRow s.cycle (getCtx s c) j = transformStep s.cycle (getCtx s c) j := by
    unfold jobRow
    rw [if_pos ht]
  have hnext : (jobRow s.cycle (getCtx s c) j).next = some { j with row := j.row + 1 } := congrArg RDone.next (hrow.trans hstep)
  have hctx : Worked (getCtx s c) (jobRow s.cycle (getCtx s c) j).ctx := by
    rw [hrow.trans hstep]
    exact hz.worked.trans (storeOnly_transformRow z j j.row _).worked
  refine ⟨_, execRow_next hj hm hs hnext, onlyCtx_setCtx .., ?_⟩
  rw [getCtx_setCtx]
  exact ⟨hctx.trans (worked_next ..), rfl⟩

omit hj hm in
/-- R195: a tile that is FAULTED ends its job at the first row. -/
theorem faulted_completes (b : Begins s c j rest) (hk : ∀ anchor, j.kind ≠ .aclr anchor) (hf : tileFaulted (getCtx s c) (jobTile j) = true) :
    Completes (.resolverJobComplete c) s (Failed s c j rest (tileAddr (jobTile j))) := by
  have hrow := jobRow_faulted s.cycle b.checking b.first hk hf
  have hkeep : (jobRow s.cycle (getCtx s c) j).ctx.raced = [] := by
    rw [hrow]
    exact (noteTile_only s.cycle (getCtx s c) (jobTile j) 0 8 true 4).worked.raced.trans b.unraced
  have hexec := execRow_last b.jobs b.live b.started b.unraced hkeep (congrArg RDone.next hrow)
  rw [hrow, endState] at hexec
  refine ⟨_, hexec, ?_⟩
  obtain ⟨⟨e, hctx, hstop⟩, hmem⟩ := engineFault_spec (setCtx s c (leftCtx s.cycle j rest none (noteTile s.cycle (getCtx s c) (jobTile j) 0 8 true 4)))
    c causeChecksum (tileAddr (jobTile j)) j.seq j.fpc j.parcels
  unfold Failed
  dsimp only at hctx hstop hmem ⊢
  rw [hctx, getCtx_setCtx]
  exact ⟨leftCtx_rjobs .., memSame_of_mem hmem, _, hstop, rfl, rfl, rfl⟩

end

/-! ## O39 -/

/-- Settles O39: the instructions by the place of a job in the queue, ACMP by its issue, and the jobs by invariants of their rows. -/
theorem resolverJobs : Obligations.ResolverJobs := by
  unfold Obligations.ResolverJobs
  refine ⟨fun d a b g f r sat h q s hs => ?_, fun p raw kd a b col q s hs => ?_, fun c j rest s hj hm => ?_⟩
  · intro x t0 ext overlap late Queued
    have hoverlap : tilesOverlap s d a h = true ↔ overlap := tilesOverlap_iff s d a h
    obtain ⟨haclr, haanc, hcanon, hformat, hwire, hachk, hapart, hfault⟩ := resolverInstructions_queue hs d a b g f r sat h q
    exact ⟨haclr, haanc, hcanon, hformat, hwire, hachk, fun hno => hapart (Bool.eq_false_iff.2 (mt hoverlap.1 hno)), fun ho => hfault (hoverlap.2 ho)⟩
  · intro x t written off m v same
    have hbusy : acmpBusy s a = true ∨ acmpBusy s b = true ↔ written a ∨ written b := or_congr (acmpBusy_iff a) (acmpBusy_iff b)
    refine ⟨fun h => acmp_blocks p raw kd a b col q (hbusy.2 h), fun h => ⟨acmpResult p raw kd a b col q s, _, acmp_issues p raw kd a b col q hs (mt hbusy.1 h),
      rfl, rfl, rfl, rfl, rfl, rfl, fun j hj hw => acmpRow_spec p raw a b col hw hj⟩⟩
  · intro x t elements eoff V Inside Fails strip Ends
    refine ⟨fun hs => (resolverJobStart_spec hj hm hs).1, fun hs => (resolverJobStart_spec hj hm hs).2, resolverJobComplete_waits hj,
      fun hs ht hr hok hu => ?_, fun hs ht hr => ?_, fun hs ht h0 htall hraced hin => ?_⟩
    · obtain ⟨u, hexec, honly, hquiet, hjobs⟩ := checkRow_completes hj hm hs ht hr hok hu
      obtain ⟨hhide, hwr, hsacc⟩ := hquiet.1.hides
      exact ⟨u, hexec, honly, hhide, hjobs, hquiet.2.1, hquiet.2.2, hwr, hsacc⟩
    · obtain ⟨u, hexec, honly, hworked, hjobs⟩ := transformRow_completes hj hm hs ht hr
      obtain ⟨hhide, hwr, hsacc⟩ := hworked.hides
      exact ⟨u, hexec, honly, hhide, hjobs, hwr, hsacc⟩
    · have b : Begins s c j rest := ⟨hj, hm, hs, ht, h0, htall, hraced⟩
      refine ⟨fun a hk => aclr_ends b hin hk, faulted_completes b, fun hk hf hc => canon_achk_fails b hin hk hf hc, fun e hk hf => ?_, fun hf hc => ?_,
        fun src hk hina hf hfa hc hd => amov_ends b hk hin hina hf hfa hc hd, fun src sc hk hina hf hfa hc hd hca hct => ascl_ends b hk hin hina hf hfa hc hd hca hct⟩
      · intro to'
        have ha : clampI (e - 71) (-32768) 32767 = to' := clampI_eq (by decide)
        have hrange : -32768 ≤ to' ∧ to' ≤ 32767 := ⟨le_max_left .., max_le (by decide) (min_le_left ..)⟩
        exact ⟨fun hs => aanc_empty_ends b hin hk ha hrange hf hs, fun hs hc => aanc_ends b hin hk ha hrange hf hs hc⟩
      · refine ⟨fun hk => canon_ends b hin hk hf hc, fun hk => achk_ends b hk hf hc, fun f r sat nf d hk hw hd => toFormat_ends b hf hc hk hw hd,
          fun xe nf d hk hw hd => ?_, fun raw a l m hk hx ha hb => sta_ends b hf hc hk hx ha hb⟩
        have h := wire_ends b hf hc hk hw hd
        simp only [leafInteger_eq] at h
        exact h

end Sys2Proof.Machine
